-- ==== Sys2Proof/Word.lean ====
section
/-! DEFINITION. The widths of the BX9 (R3, R14, R36): a byte, a lane register, a generator
register, a uniform operand, and one lane register across the 32 lanes of a group. -/

namespace Sys2Proof

/-- One byte of memory. -/
abbrev Byte := BitVec 8

/-- One lane register of one lane (R196). -/
abbrev Word32 := BitVec 32

/-- One generator register (R319). -/
abbrev Word64 := BitVec 64

/-- A uniform operand as an emitted word carries it: 128 bits at most (R37). -/
abbrev Uniform := BitVec 128

/-- One lane register of a whole group: its value in lanes 0 to 31, in order. -/
abbrev Row := List Word32

/-- A generator register number (R30). -/
abbrev GReg := BitVec 6

end Sys2Proof
end

