-- ==== Sys2Proof/Machine/Table.lean ====
section
/-! DEFINITION. Tables with a default, and byte memories in canonical form. A table is a list of
key and value pairs; a key that is not listed has the default value the reader names, which is
the reset value of that piece of state. -/

namespace Sys2Proof.Machine

/-- A finite table: the pairs that differ from the default by having been written. -/
abbrev Table (κ α : Type) := List (κ × α)

namespace Table

/-- The value at a key, or the default. -/
def get {κ α : Type} [DecidableEq κ] : Table κ α → κ → α → α
  | [], _, d => d
  | (k', v) :: t, k, d => if k' = k then v else get t k d

/-- The value at a key, where it is listed. -/
def find {κ α : Type} [DecidableEq κ] : Table κ α → κ → Option α
  | [], _ => none
  | (k', v) :: t, k => if k' = k then some v else find t k

/-- The table with one key given a value; the place of a listed key does not change. -/
def set {κ α : Type} [DecidableEq κ] : Table κ α → κ → α → Table κ α
  | [], k, v => [(k, v)]
  | (k', v') :: t, k, v => if k' = k then (k, v) :: t else (k', v') :: set t k v

/-- The table without a key. -/
def erase {κ α : Type} [DecidableEq κ] (t : Table κ α) (k : κ) : Table κ α :=
  t.filter fun e => e.1 ≠ k

/-- The table with its values changed by a function of key and value. -/
def mapVals {κ α : Type} (f : κ → α → α) (t : Table κ α) : Table κ α :=
  t.map fun e => (e.1, f e.1 e.2)

end Table

/-- A byte memory: pairs of address and byte, addresses strictly rising, no byte equal to
`unlisted`. Every memory of the machine (main memory, local SRAM, weight plane) has this form. -/
abbrev Mem := List Host.Cell

namespace Mem

/-- What an address that is not listed reads as: DESIGN CHOICE, log 11; zero at placement for local
SRAM (R142) and the weight plane (R95). -/
def unlisted : Byte := 0

/-- One byte. -/
def read : Mem → Nat → Byte
  | [], _ => unlisted
  | (a', b) :: m, a => if a' = a then b else read m a

/-- One byte written; the canonical form is kept. -/
def write : Mem → Nat → Byte → Mem
  | [], a, b => if b = unlisted then [] else [(a, b)]
  | (a', b') :: m, a, b =>
    if a < a' then (if b = unlisted then (a', b') :: m else (a, b) :: (a', b') :: m)
    else if a = a' then (if b = unlisted then m else (a, b) :: m)
    else (a', b') :: write m a b

/-- Every address of the list lies at or above a bound, the addresses rise strictly, and no byte is
the unlisted one. -/
def wfFrom : Nat → Mem → Bool
  | _, [] => true
  | lo, (a, b) :: m => decide (lo ≤ a) && decide (b ≠ unlisted) && wfFrom (a + 1) m

/-- The canonical form. -/
def wf (m : Mem) : Bool := wfFrom 0 m

/-- `n` bytes from an address upward, lowest first (R3). -/
def readList (m : Mem) (a : Nat) : Nat → List Byte
  | 0 => []
  | n + 1 => read m a :: readList m (a + 1) n

/-- A list of bytes written from an address upward. -/
def writeList : Mem → Nat → List Byte → Mem
  | m, _, [] => m
  | m, a, b :: bs => writeList (write m a b) (a + 1) bs

/-- Every byte of a range set to the unlisted byte. -/
def clearRange (m : Mem) (lo hi : Nat) : Mem :=
  m.filter fun c => !(decide (lo ≤ c.1) && decide (c.1 < hi))

end Mem

/-- The number that a list of bytes denotes, little-endian (R3). -/
def leNat : List Byte → Nat
  | [] => 0
  | b :: bs => b.toNat + 256 * leNat bs

/-- The `n` low bytes of a number, little-endian (R3). -/
def leBytes : Nat → Nat → List Byte
  | 0, _ => []
  | n + 1, x => BitVec.ofNat 8 x :: leBytes n (x / 256)

/-- An `n`-byte number read from a memory (R3). -/
def Mem.readNat (m : Mem) (a n : Nat) : Nat := leNat (m.readList a n)

/-- An `n`-byte number written to a memory (R3). -/
def Mem.writeNat (m : Mem) (a n x : Nat) : Mem := m.writeList a (leBytes n x)

/-- Bits `hi` down to `lo` of a number (R3, R9). -/
def fld (x hi lo : Nat) : Nat := (x >>> lo) % 2 ^ (hi + 1 - lo)

/-- One bit of a number. -/
def bitOf (x n : Nat) : Bool := x.testBit n

/-- The two's-complement reading of the low `w` bits (R9, R171). -/
def sextInt (x w : Nat) : Int :=
  let y := x % 2 ^ w
  if 2 * y < 2 ^ w then (y : Int) else (y : Int) - (2 ^ w : Nat)

/-- The low `w` bits of an integer (`trunc` of R9, `wrap` of R172). -/
def truncNat (x : Int) (w : Nat) : Nat := (x % ((2 ^ w : Nat) : Int)).toNat

/-- A 64-bit value from an exact integer: `wrap(x, 64)` (R172, R325). -/
def wrap64 (x : Int) : Word64 := BitVec.ofNat 64 (truncNat x 64)

/-- 1 or 0. -/
def b2n (b : Bool) : Nat := if b then 1 else 0

/-- The quotient rounded up, written ⌈a ÷ b⌉ in the spec. -/
def ceilDiv (a b : Nat) : Nat := (a + b - 1) / b

/-- The number of 1 bits among the low `n`. -/
def popCount : Nat → Nat → Nat
  | 0, _ => 0
  | n + 1, x => x % 2 + popCount n (x / 2)

/-- The set bits below `n`, ascending. -/
def setBits (n x : Nat) : List Nat := (List.range n).filter fun i => x.testBit i

/-- Insertion into a list sorted by a Nat key, behind equal keys. -/
def insertBy {α : Type} (key : α → Nat) (a : α) : List α → List α
  | [] => [a]
  | b :: l => if key a < key b then a :: b :: l else b :: insertBy key a l

/-- Stable sort by a Nat key. -/
def sortBy {α : Type} (key : α → Nat) (l : List α) : List α :=
  l.foldl (fun acc a => insertBy key a acc) []

/-- The element at an index replaced. -/
def setAt {α : Type} : List α → Nat → α → List α
  | [], _, _ => []
  | _ :: l, 0, a => a :: l
  | b :: l, n + 1, a => b :: setAt l n a

end Sys2Proof.Machine
end

