-- ==== Sys2Proof/Syntax.lean ====
section
/-! DEFINITION. The instructions, lane words and steps of the BX9: one constructor for each row of
spec/opcode_table.json. A generator word carries its stop bit S (R31) and the fields of its layout
(R29); a lane word carries the fields of R35; an event carries the numbers that name the place at
which it happens. -/

namespace Sys2Proof

/-- The fields of a lane word but for class and opcode (R35). `d`, `a`, `b`, `c` are the operand
fields (R36), `neg` and `sel` the guard (R38), `stall` the stall count (R39), `t` trailer-follows
(R40), `mods` the modifiers (R48). -/
structure LaneWord where
  d : BitVec 8
  a : BitVec 8
  b : BitVec 8
  c : BitVec 8
  neg : Bool
  sel : BitVec 4
  stall : BitVec 4
  t : Bool
  mods : BitVec 10
  deriving DecidableEq, Repr, Inhabited

/-- The registers that the host reaches through the CXL.io BAR: a context's register page (R84, R105,
R303, R382, R384, R393, R412, R429, R432, R433, R438, R442, R446, R452), the scheduler page (R387)
and the management page (R476, R478); `hdmbase` is the base of the HDM decoder (R74; log 108). -/
inductive HostReg where
  | ttbase | xlmode | xlarg0 | xlarg1 | xlcmd | xlstat | pincap | lease | ashare | bardoor | ctxstat
  | wdcyc | frbase | loghead | ctxevt | ctxctl | aelbase | imgpool | sampctl | sampbase | dbgctl | dbgstat
  | bp (n : BitVec 2) | dbgsel | dbgdata | watch (n : BitVec 2) | alogctl
  | qtbase | qcmd | qcmdstat | agelim (level : Nat) | brstat | brcmd | bootq | hdmbase
  deriving DecidableEq, Repr, Inhabited

/-- One constructor per row of the opcode table. -/
inductive Instr where
  /-- ADD (R325). Writes the 64-bit wrapped sum of ga and gb to gd. -/
  | add (s : Bool) (d a b : GReg)
  /-- SUB (R325). Writes the 64-bit wrapped difference ga minus gb to gd. -/
  | sub (s : Bool) (d a b : GReg)
  /-- MUL (R325). Writes the low 64 bits of the product of ga and gb to gd. -/
  | mul (s : Bool) (d a b : GReg)
  /-- MULH (R325). Writes the signed high 64 bits of the product of ga and gb to gd. -/
  | mulh (s : Bool) (d a b : GReg)
  /-- MULHU (R325). Writes the unsigned high 64 bits of the product of ga and gb to gd. -/
  | mulhu (s : Bool) (d a b : GReg)
  /-- DIV (R325). Writes the signed quotient, truncated toward zero, to gd; division by zero gives −1. -/
  | div (s : Bool) (d a b : GReg)
  /-- DIVU (R325). Writes the unsigned quotient to gd; division by zero gives all ones. -/
  | divu (s : Bool) (d a b : GReg)
  /-- REM (R325). Writes the signed remainder to gd; division by zero gives ga. -/
  | rem (s : Bool) (d a b : GReg)
  /-- AND (R325). Writes the bitwise AND of ga and gb to gd. -/
  | andR (s : Bool) (d a b : GReg)
  /-- OR (R325). Writes the bitwise OR of ga and gb to gd. -/
  | orR (s : Bool) (d a b : GReg)
  /-- XOR (R325). Writes the bitwise XOR of ga and gb to gd. -/
  | xorR (s : Bool) (d a b : GReg)
  /-- SHL (R325). Shifts ga left by gb[7:0] and writes the result to gd. -/
  | shlR (s : Bool) (d a b : GReg)
  /-- SHR (R325). Shifts ga right logically by gb[7:0] and writes the result to gd. -/
  | shrR (s : Bool) (d a b : GReg)
  /-- SAR (R325). Shifts ga right arithmetically by gb[7:0] and writes the result to gd. -/
  | sarR (s : Bool) (d a b : GReg)
  /-- MIN (R325). Writes the signed minimum of ga and gb to gd. -/
  | minR (s : Bool) (d a b : GReg)
  /-- MAX (R325). Writes the signed maximum of ga and gb to gd. -/
  | maxR (s : Bool) (d a b : GReg)
  /-- SLT (R325). Writes 1 to gd if ga is less than gb as signed values, and 0 otherwise. -/
  | slt (s : Bool) (d a b : GReg)
  /-- SLTU (R325). Writes 1 to gd if ga is less than gb as unsigned values, and 0 otherwise. -/
  | sltu (s : Bool) (d a b : GReg)
  /-- SEQ (R325). Writes 1 to gd if ga equals gb, and 0 otherwise. -/
  | seq (s : Bool) (d a b : GReg)
  /-- CSEL (R325). Writes gb to gd if ga is nonzero, and otherwise leaves gd unchanged. -/
  | csel (s : Bool) (d a b : GReg)
  /-- POPC (R325). Writes the number of one bits of ga to gd. -/
  | popc (s : Bool) (d a : GReg)
  /-- CLZ (R325). Writes the number of leading zero bits of ga to gd; a zero ga gives 64. -/
  | clz (s : Bool) (d a : GReg)
  /-- GEXIT (R334). Stops fetching in the thread; the thread ends once its emitted words have retired and its reserved votes are present. -/
  | gexit (s : Bool)
  /-- SFADD (R327). Adds two scalar f32 values with the rounding mode in func and writes the result to gd. -/
  | sfadd (s : Bool) (d a b : GReg) (rnd : BitVec 2)
  /-- SFSUB (R327). Subtracts two scalar f32 values with the rounding mode in func and writes the result to gd. -/
  | sfsub (s : Bool) (d a b : GReg) (rnd : BitVec 2)
  /-- SFMUL (R327). Multiplies two scalar f32 values with the rounding mode in func and writes the result to gd. -/
  | sfmul (s : Bool) (d a b : GReg) (rnd : BitVec 2)
  /-- SFMAC (R327). Writes gd plus ga times gb, fused and rounded once, to gd. -/
  | sfmac (s : Bool) (d a b : GReg) (rnd : BitVec 2)
  /-- SFMIN (R327). Writes the scalar f32 minimum, under the rules of R189, to gd. -/
  | sfmin (s : Bool) (d a b : GReg)
  /-- SFMAX (R327). Writes the scalar f32 maximum, under the rules of R189, to gd. -/
  | sfmax (s : Bool) (d a b : GReg)
  /-- SFCMP (R327). Writes 1 to gd if the f32 comparison given by the condition code holds, and 0 otherwise. -/
  | sfcmp (s : Bool) (d a b : GReg) (cond : BitVec 3)
  /-- SFCVT (R327). Converts ga between f32 and a 32-bit or 64-bit integer, by the kind and rounding in func. -/
  | sfcvt (s : Bool) (d a : GReg) (kind : BitVec 3) (rnd : BitVec 2)
  /-- JR (R331). Branches to the address held in ga. -/
  | jr (s : Bool) (a : GReg)
  /-- CALLR (R331). Writes PC + 4 to g63 and branches to the address held in ga. -/
  | callr (s : Bool) (a : GReg)
  /-- SRET (R333). Returns from a trap handler by setting PC to TPC and clearing TSTAT.INTRAP. -/
  | sret (s : Bool)
  /-- TRAP (R333). Raises a trap of cause SOFT with TVAL set to n. -/
  | trap (s : Bool) (n : BitVec 5)
  /-- FENCE (R312). Stalls the thread and applies the release and acquire rules to its generator accesses and to its closed runs. -/
  | fence (s : Bool) (order : BitVec 2) (scope : BitVec 3)
  /-- ICINV (R339). Drops the context's instruction-cache lines of a range on every cluster within the scope, and stalls the thread until this is done. -/
  | icinv (s : Bool) (a b : GReg) (scope : BitVec 3)
  /-- VQ_POP (R355). Removes the head entry of the vote queue into gd once it is present; traps VQEMPTY if no entry is reserved. -/
  | vqPop (s : Bool) (d : GReg)
  /-- VQ_PEEK (R355). Returns the head vote entry, if it is present, without removing it; otherwise returns 0. -/
  | vqPeek (s : Bool) (d : GReg)
  /-- BAR_NEW (R370). Creates a barrier or a stage ring in pool slots and returns its handle in gd. -/
  | barNew (s : Bool) (d a b : GReg) (ext : Bool) (kind : BitVec 2)
  /-- BAR_EXPECT (R371). Raises the expected arrivals and bytes of the current phase, and optionally the base values, and returns the phase. -/
  | barExpect (s : Bool) (d a b : GReg) (base : Bool)
  /-- BAR_ARRIVE (R372). Adds an arrival count to an arrival-counted barrier and returns the phase in which it was counted. -/
  | barArrive (s : Bool) (d a b : GReg)
  /-- BAR_WAIT (R373). Waits, with an optional timeout, until the barrier leaves phase p, then acts as an acquire. -/
  | barWait (s : Bool) (d a b : GReg)
  /-- BAR_FREE (R374). Waits for the engines that name the barrier, ends its waiters with BARGEN, and frees its slots by incrementing GEN. -/
  | barFree (s : Bool) (a : GReg)
  /-- STAGE_PUT (R379). Waits until the producer's stage is empty for this lap, raises its expected bytes, defers an arrival, and advances the counter. -/
  | stagePut (s : Bool) (d a b : GReg) (scope : BitVec 3)
  /-- STAGE_TAKE (R380). Defers a release of the previous stage, then, unless LAST is set, waits until the next stage is full and advances the counter. -/
  | stageTake (s : Bool) (d a : GReg) (scope : BitVec 3) (last : Bool)
  /-- REEL_OPEN (R351). Opens a capture of reel n on the current stream. -/
  | reelOpen (s : Bool) (a : GReg)
  /-- REEL_SHUT (R351). Closes the open capture, replaces the reel with it or traps REELFULL, and drops the cached copies of the reel. -/
  | reelShut (s : Bool)
  /-- REEL_PLAY (R352). Binds the reel's holes to the present g register values, checks every word, and queues a play on the current stream. -/
  | reelPlay (s : Bool) (a : GReg)
  /-- REEL_DROP (R353). Makes reel n undefined and stalls the thread until every reel cache of the context has dropped it. -/
  | reelDrop (s : Bool) (a : GReg)
  /-- STR_BIND (R344). Binds stream s to a group mask and a cluster mask, and makes it current if the thread has no current stream. -/
  | strBind (s : Bool) (a b : GReg) (n : BitVec 2)
  /-- STR_SEL (R344). Makes a bound stream the current stream. -/
  | strSel (s : Bool) (n : BitVec 2)
  /-- STR_FREE (R344). Waits until the stream's words have issued and its plays have finished, then unbinds the stream. -/
  | strFree (s : Bool) (n : BitVec 2)
  /-- MASK_RD (R358). Reads the EX, PARK or EXIT mask of a slot bound by the current stream, in stream order, into gd. -/
  | maskRd (s : Bool) (d a : GReg) (which : BitVec 2)
  /-- MASK_WR (R358). Places in the stream a write of EXMASK of a slot on each member, excluding parked and exited lanes. -/
  | maskWr (s : Bool) (a b : GReg)
  /-- PARK_REPLAY (R426). Queues replay runs from the park records of the selected members and slots, for their parked lanes. -/
  | parkReplay (s : Bool) (a b : GReg)
  /-- UNPARK (R426). Waits for queued replays, then returns the parked lanes to EXMASK, or moves them to EXITMASK with KILL, and clears the park records. -/
  | unpark (s : Bool) (a b : GReg) (kill : Bool)
  /-- LAUNCH (R404). Copies a 256-byte launch record into the next free slot of a DEV queue's window, seals it, and returns a status. -/
  | launch (s : Bool) (d a b : GReg)
  /-- GATOM (R295). Performs a generator atomic at a global address and returns the old value to gd. -/
  | gatom (s : Bool) (d a b : GReg) (op : BitVec 4)
  /-- PIN_SET (R112). Checks and charges a pin window, returns its status in gd, and then installs the window. -/
  | pinSet (s : Bool) (d a b : GReg) (fill kind : Bool)
  /-- PIN_CLR (R114). Finds the window whose base VA is ga and clears it, returning OK or NOWIN. -/
  | pinClr (s : Bool) (d a : GReg)
  /-- ADDI (R326). Adds a sign-extended 11-bit immediate to ga and writes the result to gd. -/
  | addi (s : Bool) (d a : GReg) (imm : BitVec 11)
  /-- ANDI (R326). Writes the AND of ga and a sign-extended immediate to gd. -/
  | andi (s : Bool) (d a : GReg) (imm : BitVec 11)
  /-- ORI (R326). Writes the OR of ga and a sign-extended immediate to gd. -/
  | ori (s : Bool) (d a : GReg) (imm : BitVec 11)
  /-- XORI (R326). Writes the XOR of ga and a sign-extended immediate to gd. -/
  | xori (s : Bool) (d a : GReg) (imm : BitVec 11)
  /-- SHLI (R326). Shifts ga left by an immediate count and writes the result to gd. -/
  | shli (s : Bool) (d a : GReg) (cnt : BitVec 6)
  /-- SHRI (R326). Shifts ga right logically by an immediate count and writes the result to gd. -/
  | shri (s : Bool) (d a : GReg) (cnt : BitVec 6)
  /-- SARI (R326). Shifts ga right arithmetically by an immediate count and writes the result to gd. -/
  | sari (s : Bool) (d a : GReg) (cnt : BitVec 6)
  /-- SLTI (R326). Writes 1 to gd if ga is less than the immediate as signed values, and 0 otherwise. -/
  | slti (s : Bool) (d a : GReg) (imm : BitVec 11)
  /-- MOVI (R326). Writes a sign-extended immediate to gd. -/
  | movi (s : Bool) (d : GReg) (imm : BitVec 11)
  /-- INSH (R326). Inserts immediate bits into gd[63:34] and keeps gd[33:0]. -/
  | insh (s : Bool) (d : GReg) (imm : BitVec 11)
  /-- SLTIU (R326). Writes 1 to gd if ga is less than the sign-extended immediate as unsigned values, and 0 otherwise. -/
  | sltiu (s : Bool) (d a : GReg) (imm : BitVec 11)
  /-- SRD (R322). Reads the system register given by number into gd, after the access checks. -/
  | srd (s : Bool) (d : GReg) (num : BitVec 11)
  /-- SWR (R322). Writes ga to the system register given by number, after the access checks. -/
  | swr (s : Bool) (a : GReg) (num : BitVec 11)
  /-- PFT (R117). Reads a 64-byte tensor descriptor and enters it in the cluster's prefetch queue. -/
  | pft (s : Bool) (a : GReg) (imm : BitVec 11)
  /-- ADDI_LONG (R32). Long form of ADDI, with a 34-bit immediate taken from the prefix and the parcel. -/
  | addiLong (s : Bool) (d a : GReg) (ext : BitVec 23) (imm : BitVec 11)
  /-- ANDI_LONG (R32). Long form of ANDI, with a 34-bit immediate. -/
  | andiLong (s : Bool) (d a : GReg) (ext : BitVec 23) (imm : BitVec 11)
  /-- ORI_LONG (R32). Long form of ORI, with a 34-bit immediate. -/
  | oriLong (s : Bool) (d a : GReg) (ext : BitVec 23) (imm : BitVec 11)
  /-- XORI_LONG (R32). Long form of XORI, with a 34-bit immediate. -/
  | xoriLong (s : Bool) (d a : GReg) (ext : BitVec 23) (imm : BitVec 11)
  /-- SLTI_LONG (R32). Long form of SLTI, with a 34-bit immediate. -/
  | sltiLong (s : Bool) (d a : GReg) (ext : BitVec 23) (imm : BitVec 11)
  /-- SLTIU_LONG (R32). Long form of SLTIU, with a 34-bit immediate. -/
  | sltiuLong (s : Bool) (d a : GReg) (ext : BitVec 23) (imm : BitVec 11)
  /-- MOVI_LONG (R32). Long form of MOVI, writing a sign-extended 34-bit immediate to gd. -/
  | moviLong (s : Bool) (d : GReg) (ext : BitVec 23) (imm : BitVec 11)
  /-- INSH_LONG (R32). Long form of INSH, inserting 30 immediate bits into gd[63:34]. -/
  | inshLong (s : Bool) (d : GReg) (ext : BitVec 23) (imm : BitVec 11)
  /-- PFT_LONG (R115). Long form of PFT, with a 34-bit descriptor offset. -/
  | pftLong (s : Bool) (a : GReg) (ext : BitVec 23) (imm : BitVec 11)
  /-- LDG_N8 (R328). Loads a byte, zero-extended, from a global address into gd. -/
  | ldgN8 (s : Bool) (d a : GReg) (pri : BitVec 2) (na : Bool) (off : BitVec 5)
  /-- LDG_S8 (R328). Loads a byte, sign-extended, from a global address into gd. -/
  | ldgS8 (s : Bool) (d a : GReg) (pri : BitVec 2) (na : Bool) (off : BitVec 5)
  /-- LDG_N16 (R328). Loads 16 bits, zero-extended, from a global address into gd. -/
  | ldgN16 (s : Bool) (d a : GReg) (pri : BitVec 2) (na : Bool) (off : BitVec 5)
  /-- LDG_S16 (R328). Loads 16 bits, sign-extended, from a global address into gd. -/
  | ldgS16 (s : Bool) (d a : GReg) (pri : BitVec 2) (na : Bool) (off : BitVec 5)
  /-- LDG_N32 (R328). Loads 32 bits, zero-extended, from a global address into gd. -/
  | ldgN32 (s : Bool) (d a : GReg) (pri : BitVec 2) (na : Bool) (off : BitVec 5)
  /-- LDG_S32 (R328). Loads 32 bits, sign-extended, from a global address into gd. -/
  | ldgS32 (s : Bool) (d a : GReg) (pri : BitVec 2) (na : Bool) (off : BitVec 5)
  /-- LDG_B64 (R328). Loads 64 bits from a global address into gd. -/
  | ldgB64 (s : Bool) (d a : GReg) (pri : BitVec 2) (na : Bool) (off : BitVec 5)
  /-- STG_B8 (R328). Stores the low byte of gs to a global address. -/
  | stgB8 (s : Bool) (d a : GReg) (pri : BitVec 2) (na : Bool) (scope : BitVec 3) (off : BitVec 5)
  /-- STG_B16 (R328). Stores the low 16 bits of gs to a global address. -/
  | stgB16 (s : Bool) (d a : GReg) (pri : BitVec 2) (na : Bool) (scope : BitVec 3) (off : BitVec 5)
  /-- STG_B32 (R328). Stores the low 32 bits of gs to a global address. -/
  | stgB32 (s : Bool) (d a : GReg) (pri : BitVec 2) (na : Bool) (scope : BitVec 3) (off : BitVec 5)
  /-- STG_B64 (R328). Stores the 64 bits of gs to a global address. -/
  | stgB64 (s : Bool) (d a : GReg) (pri : BitVec 2) (na : Bool) (scope : BitVec 3) (off : BitVec 5)
  /-- LDG_N8_LONG (R32). Long form of LDG.n8, with a 28-bit scaled offset. -/
  | ldgN8Long (s : Bool) (d a : GReg) (ext : BitVec 23) (pri : BitVec 2) (na : Bool) (off : BitVec 5)
  /-- LDG_S8_LONG (R32). Long form of LDG.s8. -/
  | ldgS8Long (s : Bool) (d a : GReg) (ext : BitVec 23) (pri : BitVec 2) (na : Bool) (off : BitVec 5)
  /-- LDG_N16_LONG (R32). Long form of LDG.n16. -/
  | ldgN16Long (s : Bool) (d a : GReg) (ext : BitVec 23) (pri : BitVec 2) (na : Bool) (off : BitVec 5)
  /-- LDG_S16_LONG (R32). Long form of LDG.s16. -/
  | ldgS16Long (s : Bool) (d a : GReg) (ext : BitVec 23) (pri : BitVec 2) (na : Bool) (off : BitVec 5)
  /-- LDG_N32_LONG (R32). Long form of LDG.n32. -/
  | ldgN32Long (s : Bool) (d a : GReg) (ext : BitVec 23) (pri : BitVec 2) (na : Bool) (off : BitVec 5)
  /-- LDG_S32_LONG (R32). Long form of LDG.s32. -/
  | ldgS32Long (s : Bool) (d a : GReg) (ext : BitVec 23) (pri : BitVec 2) (na : Bool) (off : BitVec 5)
  /-- LDG_B64_LONG (R32). Long form of LDG.b64. -/
  | ldgB64Long (s : Bool) (d a : GReg) (ext : BitVec 23) (pri : BitVec 2) (na : Bool) (off : BitVec 5)
  /-- STG_B8_LONG (R32). Long form of STG.b8. -/
  | stgB8Long (s : Bool) (d a : GReg) (ext : BitVec 23) (pri : BitVec 2) (na : Bool) (scope : BitVec 3) (off : BitVec 5)
  /-- STG_B16_LONG (R32). Long form of STG.b16. -/
  | stgB16Long (s : Bool) (d a : GReg) (ext : BitVec 23) (pri : BitVec 2) (na : Bool) (scope : BitVec 3) (off : BitVec 5)
  /-- STG_B32_LONG (R32). Long form of STG.b32. -/
  | stgB32Long (s : Bool) (d a : GReg) (ext : BitVec 23) (pri : BitVec 2) (na : Bool) (scope : BitVec 3) (off : BitVec 5)
  /-- STG_B64_LONG (R32). Long form of STG.b64. -/
  | stgB64Long (s : Bool) (d a : GReg) (ext : BitVec 23) (pri : BitVec 2) (na : Bool) (scope : BitVec 3) (off : BitVec 5)
  /-- BEQ (R330). Branches by off11 if ga equals gb. -/
  | beq (s : Bool) (a b : GReg) (off : BitVec 11)
  /-- BNE (R330). Branches by off11 if ga differs from gb. -/
  | bne (s : Bool) (a b : GReg) (off : BitVec 11)
  /-- BLT (R330). Branches by off11 if ga is less than gb as signed values. -/
  | blt (s : Bool) (a b : GReg) (off : BitVec 11)
  /-- BGE (R330). Branches by off11 if ga is at least gb as signed values. -/
  | bge (s : Bool) (a b : GReg) (off : BitVec 11)
  /-- BLTU (R330). Branches by off11 if ga is less than gb as unsigned values. -/
  | bltu (s : Bool) (a b : GReg) (off : BitVec 11)
  /-- BGEU (R330). Branches by off11 if ga is at least gb as unsigned values. -/
  | bgeu (s : Bool) (a b : GReg) (off : BitVec 11)
  /-- JMP (R330). Branches always, by off23. -/
  | jmp (s : Bool) (off : BitVec 23)
  /-- CALL (R330). Writes the address of the next parcel to g63 and branches by off23. -/
  | call (s : Bool) (off : BitVec 23)
  /-- ILLEGAL_INSTRUCTION (R33). A generator thread decodes a parcel with class 0b11, an unassigned opcode, a nonzero unused field or a bad prefix, and traps ILLEGAL at the parcel. -/
  | illegalInstruction (tval : BitVec 64)
  /-- LANE_WORD_EMIT (R55). A generator thread checks a lane word in order and either traps or places it in its current stream. -/
  | laneWordEmit (w : BitVec 64)
  /-- RUN_START (R17). A free pipe takes a ready run chosen by the issue arbiter and starts issuing its words. -/
  | runStart (pid pipe : Nat)
  /-- IADD (R205). Adds A and B in each active lane, with wrap or saturation. -/
  | iadd (x : LaneWord)
  /-- ISUB (R205). Subtracts B from A in each active lane. -/
  | isub (x : LaneWord)
  /-- IMUL (R205). Multiplies A by B in each active lane. -/
  | imul (x : LaneWord)
  /-- IMULH (R205). Writes the high w bits of the product of A and B in each active lane. -/
  | imulh (x : LaneWord)
  /-- IMAD (R205). Writes A times B plus C in each active lane. -/
  | imad (x : LaneWord)
  /-- IMIN (R205). Writes the integer minimum of A and B in each active lane. -/
  | imin (x : LaneWord)
  /-- IMAX (R205). Writes the integer maximum of A and B in each active lane. -/
  | imax (x : LaneWord)
  /-- IABS (R205). Writes the absolute value of A in each active lane. -/
  | iabs (x : LaneWord)
  /-- AND_LANE (R205). Writes the bitwise AND of A and B in each active lane. -/
  | andLane (x : LaneWord)
  /-- OR_LANE (R205). Writes the bitwise OR of A and B in each active lane. -/
  | orLane (x : LaneWord)
  /-- XOR_LANE (R205). Writes the bitwise XOR of A and B in each active lane. -/
  | xorLane (x : LaneWord)
  /-- NOT (R205). Writes the bitwise complement of A in each active lane. -/
  | notLane (x : LaneWord)
  /-- SHL_LANE (R206). Shifts A left by the count in B in each active lane. -/
  | shlLane (x : LaneWord)
  /-- SHR_LANE (R206). Shifts A right, logically or arithmetically by type, in each active lane. -/
  | shrLane (x : LaneWord)
  /-- ROTL (R206). Rotates A left by the count in B in each active lane. -/
  | rotl (x : LaneWord)
  /-- BFE (R207). Extracts a bit field of A in each active lane. -/
  | bfe (x : LaneWord)
  /-- BFI (R207). Inserts the low bits of A into C as a bit field in each active lane. -/
  | bfi (x : LaneWord)
  /-- POPC_LANE (R207). Writes the count of one bits of A in each active lane. -/
  | popcLane (x : LaneWord)
  /-- CLZ_LANE (R207). Writes the count of leading zero bits of A in each active lane. -/
  | clzLane (x : LaneWord)
  /-- BREV (R207). Reverses the bits of A in each active lane. -/
  | brev (x : LaneWord)
  /-- MOV (R205). Copies A to D in each active lane. -/
  | movLane (x : LaneWord)
  /-- IADD3 (R205). Writes A plus B plus C in each active lane. -/
  | iadd3 (x : LaneWord)
  /-- ISAD (R208). Adds the sum of absolute differences of A and B to C in each active lane. -/
  | isad (x : LaneWord)
  /-- IMULW (R209). Writes double-width products of A and B in each active lane. -/
  | imulw (x : LaneWord)
  /-- IMADW (R209). Writes double-width products of A and B plus C in each active lane. -/
  | imadw (x : LaneWord)
  /-- IDP4 (R210). Writes the fused dot product of four 8-bit elements plus C in each active lane. -/
  | idp4 (x : LaneWord)
  /-- IDP2 (R210). Writes the fused dot product of two 16-bit elements plus C in each active lane. -/
  | idp2 (x : LaneWord)
  /-- FADD (R212). Adds A and B as floating point and rounds once, in each active lane. -/
  | fadd (x : LaneWord)
  /-- FSUB (R212). Subtracts B from A as floating point, in each active lane. -/
  | fsub (x : LaneWord)
  /-- FMUL (R212). Multiplies A by B as floating point, in each active lane. -/
  | fmul (x : LaneWord)
  /-- FFMA (R212). Writes A times B plus C with one rounding, in each active lane. -/
  | ffma (x : LaneWord)
  /-- FMIN (R212). Writes the floating-point minimum of A and B, under R189, in each active lane. -/
  | fmin (x : LaneWord)
  /-- FMAX (R212). Writes the floating-point maximum of A and B, under R189, in each active lane. -/
  | fmax (x : LaneWord)
  /-- FABS (R212). Clears the sign bit of each element in each active lane. -/
  | fabs (x : LaneWord)
  /-- FNEG (R212). Inverts the sign bit of each element in each active lane. -/
  | fneg (x : LaneWord)
  /-- FDP2 (R213). Writes a fused two-element dot product plus C, in f32, in each active lane. -/
  | fdp2 (x : LaneWord)
  /-- FDP4 (R213). Writes a fused four-element dot product plus C, in f32, in each active lane. -/
  | fdp4 (x : LaneWord)
  /-- FRND (R214). Rounds each element to an integral value in its own format, in each active lane. -/
  | frnd (x : LaneWord)
  /-- CVT (R216). Converts the elements of A to the destination type in each active lane. -/
  | cvt (x : LaneWord)
  /-- CVTS (R217). Converts between narrow and wide formats with a shared E8M0 block scale. -/
  | cvts (x : LaneWord)
  /-- CBD (R218). Decodes cb2 indices through the captured codebook bank, with block scales. -/
  | cbd (x : LaneWord)
  /-- PACK (R219). Packs selected 8-bit or 16-bit parts of A and B into D. -/
  | pack (x : LaneWord)
  /-- UNPK (R220). Extracts one element of A and extends it to 32 bits. -/
  | unpk (x : LaneWord)
  /-- ICMP (R221). Compares integers and combines the result into a predicate in each active lane. -/
  | icmp (x : LaneWord)
  /-- FCMP (R221). Compares floating-point values and combines the result into a predicate in each active lane. -/
  | fcmp (x : LaneWord)
  /-- PLOP (R222). Combines two predicates through a 4-bit truth table in each active lane. -/
  | plop (x : LaneWord)
  /-- PMOV (R223). Moves predicates to or from a register in each active lane. -/
  | pmov (x : LaneWord)
  /-- SEL (R224). Selects A or B by a predicate in each active lane. -/
  | sel (x : LaneWord)
  /-- LEXIT (R225). Moves the active lanes from EXMASK to EXITMASK for good. -/
  | lexit (x : LaneWord)
  /-- NOP (R226). Does nothing except hold back the next word by its stall count. -/
  | nop (x : LaneWord)
  /-- RCP (R228). Writes an approximate reciprocal of A in each active lane. -/
  | rcp (x : LaneWord)
  /-- RSQ (R228). Writes an approximate reciprocal square root of A in each active lane. -/
  | rsq (x : LaneWord)
  /-- SQRT (R228). Writes the correctly rounded square root of A in each active lane. -/
  | sqrt (x : LaneWord)
  /-- EXP2 (R228). Writes an approximation of 2 to the power A in each active lane. -/
  | exp2 (x : LaneWord)
  /-- LOG2 (R228). Writes an approximation of the base-2 logarithm of A in each active lane. -/
  | log2 (x : LaneWord)
  /-- SIN (R228). Writes an approximation of sin(πA) in each active lane. -/
  | sin (x : LaneWord)
  /-- COS (R228). Writes an approximation of cos(πA) in each active lane. -/
  | cos (x : LaneWord)
  /-- CTE (R231). Evaluates a curve table on the bank captured at emission, in each active lane. -/
  | cte (x : LaneWord)
  /-- CTLD (R230). Waits until the target bank is free, then loads 4096 bytes of scratch into it. -/
  | ctld (x : LaneWord)
  /-- CURVE_TABLE_LOAD_FINISH (R232). A curve-table load finishes, and CTE words held on that bank may issue. -/
  | curveTableLoadFinish (pid tbl bank : Nat)
  /-- SHFL (R238). Moves values between the lanes of a sub-group by index, up, down or xor. -/
  | shfl (x : LaneWord)
  /-- VOTE (R242). Sends an any, all or population summary of a predicate to the thread's vote queue. -/
  | vote (x : LaneWord)
  /-- BALLOT (R241). Writes each receiver the predicate mask of its sub-group. -/
  | ballot (x : LaneWord)
  /-- REDUCE (R240). Writes a tree reduction of the contributors of each sub-group to its receivers. -/
  | reduce (x : LaneWord)
  /-- SCAN (R240). Writes an inclusive fold scan of each sub-group to its receivers. -/
  | scan (x : LaneWord)
  /-- BCAST (R239). Broadcasts the value of one lane of each sub-group to its receivers. -/
  | bcast (x : LaneWord)
  /-- REGROUP (R245). Waits for earlier runs and results, then moves lane state among the stream's bound groups. -/
  | regroup (x : LaneWord)
  /-- UNI (R356). Delivers to a g register a value on which all active lanes agree, or raises UNIDIFF. -/
  | uni (x : LaneWord)
  /-- LD (R148). Loads from global or local memory into D in each active lane. -/
  | ld (x : LaneWord)
  /-- ST (R149). Stores D to global or local memory from each active lane. -/
  | st (x : LaneWord)
  /-- LDT (R151). Loads a 32 × 32 tile transposed across the active lanes. -/
  | ldt (x : LaneWord)
  /-- LDB (R150). Reads one value once per group and writes it to every active lane. -/
  | ldb (x : LaneWord)
  /-- ATOM (R292). Performs an atomic in each active lane and returns the old value. -/
  | atom (x : LaneWord)
  /-- RED (R292). Performs an atomic without a result in each active lane, possibly gathering update-only. -/
  | red (x : LaneWord)
  /-- LFENCE (R310). Applies a release, an acquire or both to the stream on each cluster. -/
  | lfence (x : LaneWord)
  /-- STASH_MAP (R163). Removes overlapping stash entries after writing them back, then installs a new entry. -/
  | stashMap (x : LaneWord)
  /-- STASH_FLUSH (R163). Writes back the dirty sectors of a range and leaves them CLEAN. -/
  | stashFlush (x : LaneWord)
  /-- STASH_DROP (R163). Writes back the dirty sectors of a range and leaves them UNFILLED. -/
  | stashDrop (x : LaneWord)
  /-- CP (R131). Enters a contiguous copy in a copy queue. -/
  | cp (x : LaneWord)
  /-- CP2D (R132). Enters a strided copy of rows in a copy queue. -/
  | cp2d (x : LaneWord)
  /-- CPT (R133). Enters a transposing copy in a copy queue. -/
  | cpt (x : LaneWord)
  /-- CPG (R134). Enters a gather copy driven by a list in local SRAM. -/
  | cpg (x : LaneWord)
  /-- CPSET (R135). Enters a fill of a range with a repeated pattern. -/
  | cpset (x : LaneWord)
  /-- QFENCE (R136). Joins the selected copy queues, so that later operations wait for earlier ones to land. -/
  | qfence (x : LaneWord)
  /-- COPY_CHUNK_START (R125). A copy chunk pays its tokens, translates its pages and reads its source. -/
  | copyChunkStart (pid q : Nat)
  /-- COPY_CHUNK_WRITE (R125). Once its reads have returned without fault, a chunk writes all of its destination bytes. -/
  | copyChunkWrite (pid q : Nat)
  /-- COPY_CHUNK_LAND (R127). A chunk lands and retires, and counts its bytes into its barrier. -/
  | copyChunkLand (pid q : Nat)
  /-- COPY_CHUNK_FAULT (R137). A faulting chunk halts its queue, writes a copy fault record and raises COPYFAULT. -/
  | copyChunkFault (pid q : Nat)
  /-- MM (R255). Enters a matrix multiply into the matrix queue. -/
  | mm (x : LaneWord)
  /-- MMY (R256). Enters a yoked matrix multiply that joins the yoke latch. -/
  | mmy (x : LaneWord)
  /-- MZERO (R257). Enters a zeroing of an accumulator tile. -/
  | mzero (x : LaneWord)
  /-- MCBT (R258). Waits until its target codebook bank is free, then loads 1 KiB into it. -/
  | mcbt (x : LaneWord)
  /-- CODEBOOK_LOAD_FINISH (R258). A codebook load finishes, and cb2 entries held on that bank may start. -/
  | codebookLoadFinish (pid bank : Nat)
  /-- YOKE_LATCH_COMPLETE (R260). The last member places its MMY instance, and the latch matches or removes the instances. -/
  | yokeLatchComplete (fid members : Nat)
  /-- MATRIX_ENTRY_START (R262). The head matrix entry starts once every start condition holds. -/
  | matrixEntryStart (pid : Nat)
  /-- MATRIX_RETIREMENT (R263). A matrix entry writes out its tile, counts into its barrier and retires. -/
  | matrixRetirement (pid tile : Nat) (err : Bool)
  /-- TA_WIN (R277). Enters a setting of the temporal window into the temporal queue. -/
  | taWin (x : LaneWord)
  /-- TA_DLY (R278). Enters a load of the delay matrix from local SRAM into the temporal queue. -/
  | taDly (x : LaneWord)
  /-- TA_MODE (R277). Enters a setting of the column kinds and LOOP into the temporal queue. -/
  | taMode (x : LaneWord)
  /-- TA_GO (R280). Captures 128 input ticks and enters one window run into the temporal queue. -/
  | taGo (x : LaneWord)
  /-- TA_CAPT (R282). Enters an encoding of the latches, as value, rank or first k, into lane registers. -/
  | taCapt (x : LaneWord)
  /-- TA_CLR (R277). Enters a reset of every output latch to never. -/
  | taClr (x : LaneWord)
  /-- TA_ENTRY_START (R272). The head temporal entry starts after the previous entry has retired, paying its price if it has one. -/
  | taEntryStart (pid : Nat)
  /-- TA_WINDOW_END (R281). A window closes, the latches merge, and the TA.GO retires. -/
  | taWindowEnd (pid : Nat) (err : Bool)
  /-- LWAIT (R376). Holds later runs of the stream until the barrier leaves phase p, then acts as an acquire. -/
  | lwait (x : LaneWord)
  /-- LARR (R377). Counts arrivals of members or lanes into a barrier. -/
  | larr (x : LaneWord)
  /-- TRL (R41). Closes a run and names its variable-latency destinations for the scoreboard. -/
  | trl (x : LaneWord)
  /-- IDIV (R53). A retired integer divide that traps to firmware emulation. -/
  | idiv (x : LaneWord)
  /-- IREM (R53). A retired integer remainder that traps to firmware emulation. -/
  | irem (x : LaneWord)
  /-- FDIV (R53). A retired f32 divide that traps to firmware emulation. -/
  | fdiv (x : LaneWord)
  /-- VARIABLE_RESULT_LAND (R42). A variable-latency lane result lands in its register, and the scoreboard releases waiting runs. -/
  | variableResultLand (id : Nat)
  /-- GENERATOR_RESULT_ARRIVAL (R320). An outstanding generator register value arrives and releases the scoreboard. -/
  | generatorResultArrival (fid clu t reg : Nat)
  /-- VOTE_ENTRY_PRESENT (R243). A reserved vote entry becomes present once every bound group of every member has issued the VOTE. -/
  | voteEntryPresent (fid clu t : Nat)
  /-- UNI_RESULT_ARRIVAL (R356). The UNI comparison completes, writing gD or raising UNIDIFF. -/
  | uniResultArrival (fid clu t reg : Nat)
  /-- REEL_PLAY_FEED (R352). A queued play feeds the reel's words into its stream, stopping on a check failure or a full vote queue. -/
  | reelPlayFeed (fid clu t str : Nat)
  /-- BOUNDARY_TRAP (R423). The oldest held boundary trap is taken at an instruction boundary. -/
  | boundaryTrap (fid clu t : Nat)
  /-- THREAD_END (R334). A thread that has executed GEXIT ends once its words have retired and its votes are present. -/
  | threadEnd (fid clu t : Nat)
  /-- TABLE_WALK (R78). A walker finishes a table walk and installs the leaf or reports a fault. -/
  | tableWalk (pid ctx va : Nat)
  /-- LEASE_GRANT (R304). A home grants an L1 fill with a lease expiry and records the die expiry. -/
  | leaseGrant (pid ctx pa : Nat)
  /-- LEASE_EXPIRY (R153). A leased L1 copy reaches its expiry and no longer serves reads. -/
  | leaseExpiry (pid pa : Nat)
  /-- HOME_WRITE_PERFORM (R306). A write performs at its home and receives its global write completion times. -/
  | homeWritePerform (id : Nat)
  /-- STASH_OWNERSHIP_GRANT (R159). A home grants a stash sector to its owner once other leases have expired, fixing OT. -/
  | stashOwnershipGrant (pid va : Nat)
  /-- SECTOR_FILL_LAND (R156). A pending fill lands, supplying only the bytes that no write has touched. -/
  | sectorFillLand (pid pa : Nat)
  /-- STASH_RECALL (R160). A foreign access makes the home recall an owned stash sector, which is written back and left UNFILLED. -/
  | stashRecall (pa : Nat)
  /-- UPDATE_ONLY_GRANT (R298). A home enters a cluster in the sharer set of an update-only line, or refuses it. -/
  | updateOnlyGrant (pid line : Nat) (room : Bool)
  /-- UPDATE_ONLY_COMBINE (R299). A home holds an access, recalls the gathered copies and combines them into memory. -/
  | updateOnlyCombine (line : Nat)
  /-- HOST_CXL_MEM_ACCESS (R92). A host CXL.mem read or write is served at the home under the page's bias. -/
  | hostCxlMemAccess (wr : Bool) (hpa len data : Nat)
  /-- CXL_CACHE_SNOOP (R305). A host or peer snoop or back-invalidate takes a line and ends the L1 leases on it. -/
  | cxlCacheSnoop (pa : Nat)
  /-- CXLERR (R428). A host-window access completes with a CXL error and is handled as cause CXLERR. -/
  | cxlerr (id : Nat)
  /-- CXL_COMPLETION_TIMEOUT (R428). A host-window access exceeds the CXL.cache completion timeout and completes as CXLERR. -/
  | cxlCompletionTimeout (id : Nat)
  /-- INSTRUCTION_FILL (R337). The die's fetch agent delivers a code line to every cluster of the same image. -/
  | instructionFill (pid fid va : Nat)
  /-- PFT_TARGET_FILL (R117). The prefetch queue makes bytes resident or copies them into the plane, counting into the barrier. -/
  | pftTargetFill (pid id : Nat)
  /-- PIN_REHOME (R112). After the charge, banks are taken, frames are rehomed and the optional fill starts. -/
  | pinRehome (ctx die va : Nat)
  /-- PIN_CLR_WRITEBACK (R114). A cleared window's write-back completes, and USE falls by its charge. -/
  | pinClrWriteback (ctx die va : Nat)
  /-- INVAL (R86). XLCMD operation that invalidates the cached translations of a range of pages. -/
  | inval (ctx count size : Nat)
  /-- INVAL_ALL (R86). XLCMD operation that invalidates every cached translation of the context. -/
  | invalAll (ctx count size : Nat)
  /-- MIGRATE (R89). XLCMD operation that moves one mapped page to a new physical page under a directory lock. -/
  | migrate (ctx count size : Nat)
  /-- BIAS_HOST (R93). XLCMD operation that flips pages to host bias. -/
  | biasHost (ctx count size : Nat)
  /-- BIAS_DEV (R93). XLCMD operation that flips pages to device bias. -/
  | biasDev (ctx count size : Nat)
  /-- XLCMD_FINISH (R87). A translation command finishes, clearing BUSY and advancing SEQ. -/
  | xlcmdFinish (ctx : Nat)
  /-- TTBASE_WRITE (R84). A write of TTBASE changes EN or ROOT for later accesses or walks. -/
  | ttbaseWrite (ctx : Nat) (v : BitVec 64)
  /-- CQCTL_ABORT (R139). Ends a halted queue's faulted operation and drops every entry behind it. -/
  | cqctlAbort (pid q : Nat)
  /-- CQCTL_RESUME (R139). Restarts a halted queue's faulted operation at its saved chunk. -/
  | cqctlResume (pid q : Nat)
  /-- DEFERRED_STAGE_OPERATION (R381). A deferred stage arrival or release is made once the covered words have retired. -/
  | deferredStageOperation (fid clu t : Nat)
  /-- BAR_WAIT_TIMEOUT (R373). A BAR.WAIT reaches its timeout without a phase change and returns timed out. -/
  | barWaitTimeout (fid clu t : Nat)
  /-- BARDOOR (R382). A host or peer doorbell write counts arrivals into matching EXT barriers. -/
  | bardoor (ctx : Nat) (v : BitVec 64)
  /-- WATCHDOG_REPORT (R383). The watchdog counter reaches LIMIT, and the context is reported DEADLOCK or IDLE-EXT. -/
  | watchdogReport (ctx : Nat)
  /-- LOAD (R387). QCMD operation that reads a queue descriptor and starts watching its window. -/
  | load (q : Nat)
  /-- UNLOAD (R387). QCMD operation that stops parsing a queue. -/
  | unload (q : Nat)
  /-- RECORD_PARSE (R388). The dispatcher observes a sealed record at the head of a queue and parses it. -/
  | recordParse (q : Nat)
  /-- PLACEMENT_STEP (R400). The dispatcher tries queue heads by priority and places the flocks that fit. -/
  | placementStep
  /-- HEAD_AGE_TICK (R401). A blocked head's age increases at each multiple of 1000 ns of device time. -/
  | headAgeTick
  /-- FLOCK_END (R399). A flock ends once its threads, engine entries and end effects are complete, freeing its resources. -/
  | flockEnd (fid : Nat)
  /-- VOLTAGE_RAMP_REACHES_TARGET (R406). The voltage reaches its target, the clock steps up if needed, and the ramp ends. -/
  | voltageRampReachesTarget (quad : Nat)
  /-- TOKEN_FLIT_INJECT (R408). The injector emits a token flit of count I, and retires what a returning flit still carries. -/
  | tokenFlitInject (die : Nat)
  /-- SPEND_WINDOW_ROLLOVER (R413). A 64-cycle spend window ends, and the limit of the next window is set. -/
  | spendWindowRollover (pid : Nat)
  /-- CLAIM_POST (R415). A cluster starved for 136 ring cycles posts a claim. -/
  | claimPost (pid : Nat)
  /-- ASHARE_WRITE (R412). A write of ASHARE, clamped to 1–4096, applies from the next injected flit. -/
  | ashareWrite (ctx : Nat) (v : BitVec 64)
  /-- THALLOW_UPDATE (R418). Priade writes the power and thermal allowances every 1 µs. -/
  | thallowUpdate (die pallow : Nat)
  /-- SENSOR_SAMPLE (R417). Hardware samples the junction and stack sensors every 1 µs. -/
  | sensorSample (die : Nat) (temps : List Nat) (ta tb : Nat)
  /-- BANK_REFRESH (R419). A stack bank is refreshed for up to 280 ns in each refresh period. -/
  | bankRefresh (stack bank : Nat)
  /-- DROOP_DETECT (R421). A cluster's supply droops, and the cluster is cut from credits and payments. -/
  | droopDetect (pid : Nat)
  /-- DROOP_RECOVERY (R421). The supply has stayed within 20 mV for 64 cycles, and the cut ends. -/
  | droopRecovery (pid : Nat)
  /-- CORE_RAIL_CLAMP (R421). The core-rail current reaches 16000 A, and every injector emits FLOOR. -/
  | coreRailClamp
  /-- CLAMP_FLOOR_END (R421). One microsecond after a clamp event, the floor injection ends. -/
  | clampFloorEnd
  /-- JUNCTION_TRIP (R421). A junction sensor reaches 115 °C, and the die stops with THERMTRIP events. -/
  | junctionTrip (die : Nat)
  /-- FIRMWARE_HEARTBEAT_MISS (R421). The firmware has missed its heartbeat for 100 µs, and the safe envelope governs. -/
  | firmwareHeartbeatMiss
  /-- PREEMPT (R435). CTXCTL operation that requests pre-emption of every resident flock of the context. -/
  | preempt (ctx : Nat)
  /-- CLEAR (R432). CTXCTL operation that ends halted threads, closes their runs and aborts their faulted queues. -/
  | clear (ctx : Nat)
  /-- PREEMPTION_HALT (R435). Every unit of the flock has stopped, and the flock is halted. -/
  | preemptionHalt (fid : Nat)
  /-- SAMPLE_RECORD (R443). Every INTERVAL cycles a cluster samples one thread and writes a record. -/
  | sampleRecord (pid : Nat)
  /-- STOP (R447). DBGCTL operation that requests a stop of the selected threads. -/
  | stop (ctx : Nat)
  /-- DBGCTL_RESUME (R447). DBGCTL operation that restarts every stopped thread of the context. -/
  | dbgctlResume (ctx : Nat)
  /-- DEBUG_STOP (R447). A thread reaches a safe point under a stop request or a breakpoint, and stops. -/
  | debugStop (fid clu t : Nat)
  /-- CHECK_SCOREBOARD_STOP (R449). A stall-count or trailer shortfall found with CHECK on causes a debug stop with reason 3. -/
  | checkScoreboardStop (fid clu t : Nat)
  /-- DBGDATA_WRITE (R448). A write of DBGDATA sets a g register of a stopped thread, and is ignored otherwise. -/
  | dbgdataWrite (ctx : Nat) (v : BitVec 64)
  /-- SRSEED_WRITE (R188). A write of SRSEED seeds every stochastic generator of the cluster. -/
  | srseedWrite (pid : Nat) (v : BitVec 64)
  /-- EXMASK_WRITE (R358). An SWR to EXMASK acts as a MASK.WR, or takes effect when written. -/
  | exmaskWrite (slot : Nat) (v : BitVec 64)
  /-- LEASE_WRITE (R303). A write of LEASE stores the lease length, clamped to 128–64,000 ns. -/
  | leaseWrite (ctx : Nat) (v : BitVec 64)
  /-- SAMPCTL_WRITE (R442). A write of SAMPCTL sets the sampling interval, storing 256 for values 1–255. -/
  | sampctlWrite (ctx : Nat) (v : BitVec 64)
  /-- REGISTER_WRITE (R7). A write to a register that has no row of its own updates its fields by their access codes. -/
  | registerWrite (page : Nat) (reg : HostReg) (v : BitVec 64)
  /-- PACKAGE_RESET (R475). A package reset returns the package to its reset state. -/
  | packageReset
  /-- RAILS_IN_REGULATION (R475). All rails reach regulation; Stage 0 begins, DT starts and the boot ROM trains the links. -/
  | railsInRegulation
  /-- FIRST_CONFIG_ACCESS (R475). The first CXL.io configuration access completes, and the package enters Stage 1. -/
  | firstConfigAccess
  /-- CONTROLLER_RAM_WRITE (R477). A host write to the controller RAM window stores image bytes, or is dropped while FWRUN is 1. -/
  | controllerRamWrite (off : Nat) (v : BitVec 8)
  /-- START (R477). BRCMD operation that checks the Priade image and runs it. -/
  | start
  /-- FIRMWARE_START_TIMEOUT (R477). The firmware writes no THALLOW within 1 ms, and the controller halts it with ERR 2. -/
  | firmwareStartTimeout
  /-- TRAIN (R475). BRCMD operation that trains the memory stacks. -/
  | train
  /-- TRAIN_COMPLETE (R475). Training finishes; the package enters Stage 2, or stays in Stage 1 with STKFAIL set. -/
  | trainComplete (fails : BitVec 16)
  /-- RELEASE (R475). BRCMD operation that enters Stage 3 and returns queue 0 to QTBASE. -/
  | release
  /-- HALTFW (R477). BRCMD operation that stops the Priade firmware and clears FWRUN. -/
  | haltfw
  /-- CONTEXT_CREATION (R8). A context is created, and every register whose reset is context creation takes its reset value. -/
  | contextCreation (ctx : Nat) (priv : Bool)
  /-- CLOCK_STEP_DOWN (R406). A falling clock step finishes 200 ns after the request, F takes the new class and the quad joins that class's pool. -/
  | clockStepDown (quad : Nat)
  deriving DecidableEq, Repr, Inhabited

end Sys2Proof
end

