-- ==== Sys2Proof/WellFormed.lean ====
section
/-! DEFINITION. Which instructions the formats admit: the field rules of R30, R33 and R326 for generator
words and of R36 to R54 for lane words, with each chapter's table. Events carry no encoding. -/

namespace Sys2Proof

/-! ## Operand codes (R36, R37, R199) -/

/-- A v code. -/
def isV (c : Nat) : Bool := decide (c < 128)
/-- A w code. -/
def isW (c : Nat) : Bool := decide (128 ≤ c) && decide (c < 136)
/-- A g code. -/
def isG (c : Nat) : Bool := decide (192 ≤ c)
/-- An even g code. -/
def isGEven (c : Nat) : Bool := isG c && decide (c % 2 = 0)
/-- A span of `n` v registers (R199). -/
def spanV (n c : Nat) : Bool := decide (c % n = 0) && decide (c + n ≤ 128)
/-- A span of `n` w registers (R199). -/
def spanW (n c : Nat) : Bool := decide (128 ≤ c) && decide ((c - 128) % n = 0) && decide (c - 128 + n ≤ 8)
/-- A span of `n` v or w registers: a destination, or a source that admits no uniform. -/
def spanVW (n c : Nat) : Bool := spanV n c || spanW n c
/-- A source of `n` registers: v or w, or a uniform operand of 32, 64 or 128 bits (R37; a uniform of 256
bits does not exist, DEDUCED, log 18). -/
def srcOk (n c : Nat) : Bool :=
  spanVW n c || (isG c && decide (n ≤ 4) && (decide (n ≤ 2) || decide (c % 2 = 0)))
/-- A predicate field (R37). -/
def isP (c : Nat) : Bool := decide (c < 12)
/-- A member mask (R234). -/
def maskOk (c : Nat) : Bool := decide (c = 0) || isG c

/-! ## Element types (R45) -/

/-- The width of a type code in bits. -/
def tyWidth : Nat → Nat
  | 0 => 8 | 1 => 16 | 2 => 32 | 3 => 64 | 4 => 8 | 5 => 16 | 6 => 32 | 7 => 64
  | 8 => 16 | 9 => 16 | 10 => 32 | 11 => 8 | 12 => 8 | 13 => 4 | _ => 16

def isIntTy (t : Nat) : Bool := decide (t < 8)
def isFloatTy (t : Nat) : Bool := decide (t = 8) || decide (t = 9) || decide (t = 10)
/-- 8 or 16 bits wide. -/
def isSmallTy (t : Nat) : Bool := decide (tyWidth t < 32)
/-- Registers of one operand of an integer or float type. -/
def tySpan (t : Nat) : Nat := if tyWidth t = 64 then 2 else 1

namespace LaneWord

def dN (x : LaneWord) : Nat := x.d.toNat
def aN (x : LaneWord) : Nat := x.a.toNat
def bN (x : LaneWord) : Nat := x.b.toNat
def cN (x : LaneWord) : Nat := x.c.toNat
def m (x : LaneWord) : Nat := x.mods.toNat
/-- The type code in [9:6] (groups 0 to 3). -/
def ty (x : LaneWord) : Nat := x.m / 64
def sat0 (x : LaneWord) : Bool := x.m.testBit 5
def pk0 (x : LaneWord) : Bool := x.m.testBit 4
def rnd (x : LaneWord) : Nat := x.m / 8 % 8
def ftz (x : LaneWord) : Bool := x.m.testBit 2
def sat1 (x : LaneWord) : Bool := x.m.testBit 1
def pk1 (x : LaneWord) : Bool := x.m.testBit 0
def sat2 (x : LaneWord) : Bool := x.m.testBit 2
def bs (x : LaneWord) : Nat := x.m % 4
/-- The source type of a conversion: field C, [27:24]. -/
def srcTy (x : LaneWord) : Nat := x.cN / 16
def cond (x : LaneWord) : Nat := x.m / 4 % 16
def comb (x : LaneWord) : Nat := x.m % 4
def sg (x : LaneWord) : Nat := x.m / 128
def mode (x : LaneWord) : Nat := x.m / 16 % 8
def ty4 (x : LaneWord) : Nat := x.m % 16
def width (x : LaneWord) : Nat := x.m / 128
def pri (x : LaneWord) : Nat := x.m / 32 % 4
def na (x : LaneWord) : Bool := x.m.testBit 4
def scope (x : LaneWord) : Nat := x.m / 2 % 8
/-- Field C of a lane memory word: SPACE, ORDER, SCALE (R144). -/
def space (x : LaneWord) : Nat := x.cN / 64
def order (x : LaneWord) : Nat := x.cN / 16 % 4
def scale (x : LaneWord) : Bool := x.cN.testBit 3
def atomOp (x : LaneWord) : Nat := x.cN % 16
def queue (x : LaneWord) : Nat := x.m / 256
def ty6 (x : LaneWord) : Nat := x.m / 16 % 16
def flags (x : LaneWord) : Nat := x.m % 16
def tile (x : LaneWord) : Nat := x.cN / 32
def shape (x : LaneWord) : Nat := x.cN % 32

/-- The guard of R38. -/
def guardOk (x : LaneWord) : Bool :=
  decide (x.sel.toNat < 12) || (decide (x.sel.toNat = 12) && !x.neg)
/-- Guard always. -/
def always (x : LaneWord) : Bool := decide (x.sel.toNat = 12) && !x.neg

/-- Fields of group 0 words: sat and packed as permitted, [3:0] zero (R48, R204). -/
def int0 (x : LaneWord) (tys : Nat → Bool) (sat pk : Bool) : Bool :=
  tys x.ty && (!x.sat0 || sat) && (!x.pk0 || (pk && isSmallTy x.ty)) && decide (x.m % 16 = 0)

def i2 (x : LaneWord) : Bool :=
  srcOk (tySpan x.ty) x.aN && srcOk (tySpan x.ty) x.bN && spanVW (tySpan x.ty) x.dN
def i1 (x : LaneWord) : Bool :=
  srcOk (tySpan x.ty) x.aN && decide (x.bN = 0) && spanVW (tySpan x.ty) x.dN
def c0 (x : LaneWord) : Bool := decide (x.cN = 0)
def wideTy (t : Nat) : Bool := decide (t = 2) || decide (t = 3) || decide (t = 6) || decide (t = 7)
def nWideTy (t : Nat) : Bool := decide (t = 2) || decide (t = 3)

/-- Fields of group 1 words (R211). -/
def flt (x : LaneWord) (rnd ftz sat : Bool) : Bool :=
  isFloatTy x.ty && (if rnd then decide (x.rnd ≤ 3) else decide (x.rnd = 0)) && (!x.ftz || ftz)
    && (!x.sat1 || sat) && (!x.pk1 || isSmallTy x.ty)
def r1 (x : LaneWord) : Bool := spanVW 1 x.dN && srcOk 1 x.aN
def f2 (x : LaneWord) : Bool := x.r1 && srcOk 1 x.bN

/-- Elements per lane of a conversion (R216). -/
def cvtN (wS wD : Nat) : Nat := 32 / min (min wS wD) 32
/-- Registers of one side of a conversion. -/
def cvtSpan (n w : Nat) : Nat := n * w / 32
def isNarrow (t : Nat) : Bool := decide (t = 11) || decide (t = 12) || decide (t = 13)
/-- B of CVTS and CBD: v or w, outside the destination span (R217, R218). -/
def scaleReg (x : LaneWord) (span : Nat) : Bool :=
  spanVW 1 x.bN && !(decide (x.dN ≤ x.bN) && decide (x.bN < x.dN + span))

/-- Modifiers of group 5 words (R48). -/
def mem5 (x : LaneWord) (ws : Nat → Bool) : Bool :=
  ws x.width && decide (x.scope ≤ 6) && decide (x.m % 2 = 0)
/-- Registers of a lane memory width code. -/
def wSpan (w : Nat) : Nat := if w = 5 then 2 else if w = 6 then 4 else 1
def ctl (x : LaneWord) (orders : Nat → Bool) : Bool :=
  decide (x.space ≤ 1) && orders x.order && decide (x.cN % 8 = 0)
/-- The register span of an atomic's D (R290). -/
def atomSpan (x : LaneWord) : Nat :=
  if x.atomOp = 10 then 2 * wSpan x.width else wSpan x.width
/-- Operation and width of an atomic (R288). -/
def atomWidth (x : LaneWord) (red : Bool) : Bool :=
  if x.atomOp = 10 then !red && decide (4 ≤ x.width) && decide (x.width ≤ 6)
  else if x.atomOp = 1 then decide (x.width = 4)
  else decide (x.atomOp ≤ if red then 8 else 9) && (decide (x.width = 4) || decide (x.width = 5))

/-- A copy word's modifiers: type and spaces as given (R130). -/
def copy6 (x : LaneWord) (typed srcSpace : Bool) : Bool :=
  (if typed then decide (x.ty6 ≤ 3) else decide (x.ty6 = 0)) && decide (x.flags / 4 ≤ 2)
    && (if srcSpace then decide (x.flags % 4 ≤ 2) else decide (x.flags % 4 = 0)) && decide (x.dN = 0)
def isMatTy (t : Nat) : Bool :=
  decide (t = 0) || decide (t = 4) || decide (t = 8) || decide (t = 9) || decide (t = 11) || decide (t = 12)
    || decide (t = 13) || decide (t = 14)
/-- D, A, B and C zero, and modifiers zero. -/
def bare (x : LaneWord) : Bool :=
  decide (x.dN = 0) && decide (x.aN = 0) && decide (x.bN = 0) && decide (x.cN = 0) && decide (x.m = 0)

/-- One entry of a trailer (R41). -/
def trlEntry (mask k e : Nat) : Bool := if mask.testBit k then isV e else decide (e = 0)

/-- The operands and modifiers that an opcode admits, the guard apart (R54). A CVT between a 64-bit integer and e2m1 is admitted
with an aligned 64-bit side of 16 registers, a span that R199 and R216 do not know (DESIGN CHOICE, log 114). -/
def bodyOk (op : Nat) (x : LaneWord) : Bool :=
  match op with
  | 0x000 | 0x001 | 0x002 => x.int0 isIntTy true true && x.i2 && x.c0
  | 0x003 => x.int0 wideTy false false && x.i2 && x.c0
  | 0x004 | 0x015 => x.int0 isIntTy true true && x.i2 && srcOk (tySpan x.ty) x.cN
  | 0x005 | 0x006 => x.int0 isIntTy false true && x.i2 && x.c0
  | 0x007 => x.int0 (fun t => decide (4 ≤ t) && decide (t < 8)) true true && x.i1 && x.c0
  | 0x008 | 0x009 | 0x00A | 0x00C | 0x00D | 0x00E => x.int0 isIntTy false true && x.i2 && x.c0
  | 0x00B => x.int0 isIntTy false true && x.i1 && x.c0
  | 0x00F => x.int0 wideTy false false && srcOk (tySpan x.ty) x.aN && srcOk 1 x.bN
      && spanVW (tySpan x.ty) x.dN && x.c0
  | 0x010 => x.int0 wideTy false false && srcOk (tySpan x.ty) x.aN && srcOk 1 x.bN
      && spanVW (tySpan x.ty) x.dN && srcOk (tySpan x.ty) x.cN
  | 0x011 | 0x012 => x.int0 nWideTy false false && srcOk (tySpan x.ty) x.aN && decide (x.bN = 0)
      && spanVW 1 x.dN && x.c0
  | 0x013 | 0x014 => x.int0 nWideTy false false && x.i1 && x.c0
  | 0x016 => x.int0 (fun t => decide (t < 7) && decide (t ≠ 3)) true true
      && (x.pk0 == isSmallTy x.ty) && x.i2 && srcOk 1 x.cN
  | 0x018 => x.int0 (fun t => decide (t < 7) && decide (t ≠ 3)) false true
      && (x.pk0 == isSmallTy x.ty) && srcOk 1 x.aN && srcOk 1 x.bN && spanVW 2 x.dN && x.c0
  | 0x019 => x.int0 (fun t => decide (t < 7) && decide (t ≠ 3)) true true
      && (x.pk0 == isSmallTy x.ty) && srcOk 1 x.aN && srcOk 1 x.bN && spanVW 2 x.dN && srcOk 2 x.cN
  | 0x01A => x.int0 (fun t => decide (t = 0) || decide (t = 4)) true true && x.pk0 && x.i2 && srcOk 1 x.cN
  | 0x01B => x.int0 (fun t => decide (t = 1) || decide (t = 5)) true true && x.pk0 && x.i2 && srcOk 1 x.cN
  | 0x080 | 0x081 | 0x082 => x.flt true true true && x.f2 && x.c0
  | 0x083 => x.flt true true true && x.f2 && srcOk 1 x.cN
  | 0x084 | 0x085 => x.flt false true false && x.f2 && x.c0
  | 0x086 | 0x087 => x.flt false false false && x.r1 && decide (x.bN = 0) && x.c0
  | 0x088 => x.flt true true true && x.pk1 && x.f2 && srcOk 1 x.cN
  | 0x089 => x.flt true true true && x.pk1 && spanVW 1 x.dN && srcOk 2 x.aN && srcOk 2 x.bN && srcOk 1 x.cN
  | 0x08A => x.flt true true false && x.r1 && decide (x.bN = 0) && x.c0
  | 0x100 => decide (x.ty ≤ 13) && decide (x.srcTy ≤ 13) && decide (x.ty ≠ x.srcTy) && decide (x.rnd ≤ 4)
      && decide (x.bs = 0) && decide (x.cN % 16 = 0) && decide (x.bN = 0)
      && srcOk (cvtSpan (cvtN (tyWidth x.srcTy) (tyWidth x.ty)) (tyWidth x.srcTy)) x.aN
      && spanVW (cvtSpan (cvtN (tyWidth x.srcTy) (tyWidth x.ty)) (tyWidth x.ty)) x.dN
  | 0x101 => decide (x.rnd ≤ 4) && decide (x.cN % 16 = 0)
      && ((isNarrow x.ty && isFloatTy x.srcTy) || (isFloatTy x.ty && isNarrow x.srcTy))
      && srcOk (cvtSpan (cvtN (tyWidth x.srcTy) (tyWidth x.ty)) (tyWidth x.srcTy)) x.aN
      && spanVW (cvtSpan (cvtN (tyWidth x.srcTy) (tyWidth x.ty)) (tyWidth x.ty)) x.dN
      && x.scaleReg (cvtSpan (cvtN (tyWidth x.srcTy) (tyWidth x.ty)) (tyWidth x.ty))
  | 0x102 => decide (x.rnd ≤ 4) && decide (x.cN = 14 * 16)
      && (decide (x.ty = 8) || decide (x.ty = 9) || decide (x.ty = 11)) && srcOk 1 x.aN
      && spanVW (cvtSpan 16 (tyWidth x.ty)) x.dN && x.scaleReg (cvtSpan 16 (tyWidth x.ty))
  | 0x103 => decide (x.ty ≤ 1) && decide (x.cN = x.ty * 16) && decide (x.m % 64 / 4 = 0) && x.f2
  | 0x104 => (decide (x.ty = 2) || decide (x.ty = 6))
      && (decide (x.srcTy ≤ 1) || decide (x.srcTy = 4) || decide (x.srcTy = 5) || decide (x.srcTy = 8)
          || decide (x.srcTy = 9) || decide (x.srcTy = 11) || decide (x.srcTy = 12))
      && decide (x.cN % 16 = 0) && decide (x.m % 64 / 4 = 0)
      && (decide (tyWidth x.srcTy = 8) || decide (x.bs < 2)) && x.r1 && decide (x.bN = 0)
  | 0x180 => isIntTy x.ty && decide (x.cond ≤ 5) && isP x.dN && srcOk (tySpan x.ty) x.aN
      && srcOk (tySpan x.ty) x.bN && x.c0
  | 0x181 => isFloatTy x.ty && decide (x.cond ≤ 7) && isP x.dN && srcOk 1 x.aN && srcOk 1 x.bN && x.c0
  | 0x182 => decide (x.m = 0) && isP x.dN && isP x.aN && isP x.bN && decide (x.cN < 16)
  | 0x183 => (decide (x.m = 0) && decide (x.dN = 0) && srcOk 1 x.aN && srcOk 1 x.bN && x.c0)
      || (decide (x.m = 64) && spanVW 1 x.dN && decide (x.aN = 0) && decide (x.bN = 0) && x.c0)
  | 0x184 => nWideTy x.ty && decide (x.m % 64 = 0) && x.i2 && isP x.cN
  | 0x185 | 0x186 => x.bare
  | 0x188 | 0x189 | 0x18A | 0x18B | 0x18C | 0x18D | 0x18E =>
      isFloatTy x.ty && decide (x.m % 64 = 0) && x.r1 && decide (x.bN = 0) && x.c0
  | 0x190 => decide (x.m = 10 * 64) && x.r1 && decide (x.bN = 0) && decide (x.cN ≤ 3)
  | 0x191 => decide (x.m = 0) && decide (x.dN = 0) && isG x.aN && isG x.bN && decide (x.cN ≤ 3)
  | 0x200 => decide (x.sg ≤ 4) && decide (x.mode ≤ 3) && nWideTy x.ty4 && spanVW (tySpan x.ty4) x.dN
      && spanVW (tySpan x.ty4) x.aN && srcOk 1 x.bN && maskOk x.cN
  | 0x201 => decide (x.sg = 4) && decide (x.mode ≤ 2) && decide (x.ty4 = 0) && decide (x.dN = 0) && isP x.aN
      && decide (x.bN = 0) && maskOk x.cN
  | 0x202 => decide (x.sg ≤ 4) && decide (x.m % 128 = 0) && spanVW 1 x.dN && isP x.aN && decide (x.bN = 0)
      && maskOk x.cN
  | 0x203 | 0x204 => decide (x.sg ≤ 4) && decide (x.mode ≤ 5)
      && (wideTy x.ty4 || (isFloatTy x.ty4 && decide (x.mode ≤ 2))) && spanVW (tySpan x.ty4) x.dN
      && spanVW (tySpan x.ty4) x.aN && decide (x.bN = 0) && maskOk x.cN
  | 0x205 => decide (x.sg ≤ 4) && nWideTy x.ty4 && spanVW (tySpan x.ty4) x.dN && spanVW (tySpan x.ty4) x.aN
      && ((decide (x.mode = 0) && isG x.bN) || (decide (x.mode = 1) && decide (x.bN = 0))) && maskOk x.cN
  | 0x206 => decide (x.m = 0) && decide (x.dN = 0) && spanVW 1 x.aN && decide (x.bN = 0) && x.c0 && x.t
  | 0x207 => decide (x.m / 16 = 0) && nWideTy x.ty4 && isG x.dN && spanVW (tySpan x.ty4) x.aN
      && decide (x.bN = 0) && x.c0
  | 0x280 => x.mem5 (fun w => decide (w ≤ 6)) && x.ctl (fun o => decide (o ≤ 1))
      && spanV (wSpan x.width) x.dN && isG x.aN && spanVW 1 x.bN
  | 0x281 => x.mem5 (fun w => decide (w ≤ 6) && decide (w ≠ 1) && decide (w ≠ 3))
      && x.ctl (fun o => decide (o = 0) || decide (o = 2)) && spanVW (wSpan x.width) x.dN && isG x.aN
      && spanVW 1 x.bN
  | 0x282 => x.mem5 (fun w => decide (w = 0) || decide (w = 2) || decide (w = 4)) && x.ctl (fun o => decide (o = 0))
      && spanV (8 * 2 ^ (x.width / 2)) x.dN && isG x.aN && spanVW 1 x.bN
  | 0x283 => x.mem5 (fun w => decide (w ≤ 6)) && x.ctl (fun o => decide (o ≤ 1))
      && spanV (wSpan x.width) x.dN && isG x.aN && decide (x.bN = 0)
  | 0x284 => x.mem5 (fun _ => true) && decide (x.space ≤ 1) && x.atomWidth false && spanV x.atomSpan x.dN
      && isG x.aN && spanVW 1 x.bN
  | 0x285 => x.mem5 (fun _ => true) && decide (x.space ≤ 1) && (decide (x.order = 0) || decide (x.order = 2))
      && x.atomWidth true && spanVW x.atomSpan x.dN && isG x.aN && spanVW 1 x.bN
  | 0x286 => decide (x.dN = 0) && decide (x.aN = 0) && decide (x.bN = 0) && decide (x.space = 0)
      && decide (1 ≤ x.order) && decide (x.cN % 16 = 0) && decide (x.m / 16 = 0) && decide (1 ≤ x.scope)
      && decide (x.scope ≤ 6) && decide (x.m % 2 = 0)
  | 0x288 => x.mem5 (fun w => decide (w = 0)) && decide (x.dN = 0) && isG x.aN && isG x.bN && isG x.cN
  | 0x289 | 0x28A => x.mem5 (fun w => decide (w = 0)) && decide (x.dN = 0) && isG x.aN && decide (x.bN = 0)
      && isG x.cN
  | 0x300 => x.copy6 false true && isG x.aN && isG x.bN && isGEven x.cN
  | 0x301 => x.copy6 false true && isGEven x.aN && isGEven x.bN && isGEven x.cN
  | 0x302 => x.copy6 true true && isGEven x.aN && isGEven x.bN && isGEven x.cN
  | 0x303 => x.copy6 false true && isG x.aN && isG x.bN && isGEven x.cN
  | 0x304 => x.copy6 true false && isG x.aN && isG x.bN && isGEven x.cN
  | 0x305 => decide (x.m = 0) && decide (x.dN = 0) && decide (x.aN = 0) && decide (x.bN = 0)
      && decide (1 ≤ x.cN) && decide (x.cN ≤ 15)
  | 0x308 | 0x309 => decide (x.dN = 0) && isGEven x.aN && isGEven x.bN && decide (x.queue = 0) && isMatTy x.ty6
      && (!x.m.testBit 3 || decide (x.ty6 = 14)) && decide (x.m % 4 = 0)
  | 0x30A => decide (x.dN = 0) && isG x.aN && decide (x.bN = 0) && decide (x.shape = 0) && decide (x.m = 0)
  | 0x30B => decide (x.dN = 0) && isG x.aN && decide (x.bN = 0) && x.c0 && decide (x.m = 0)
  | 0x310 => decide (x.dN = 0) && decide (x.aN = 0) && decide (x.bN = 0) && decide (1 ≤ x.cN) && decide (x.m = 0)
  | 0x311 => decide (x.dN = 0) && isG x.aN && decide (x.bN = 0) && x.c0 && decide (x.m = 0)
  | 0x312 => decide (x.dN = 0) && isGEven x.aN && decide (x.bN = 0) && x.c0 && decide (x.m ≤ 1)
  | 0x313 => decide (x.dN = 0) && spanVW 1 x.aN && decide (x.bN = 0) && x.c0 && decide (x.m = 0)
  | 0x314 => spanV 1 x.dN && decide (x.aN = 0) && decide (x.bN = 0)
      && ((decide (x.m ≤ 1) && x.c0) || (decide (x.m = 2) && decide (1 ≤ x.cN) && decide (x.cN ≤ 128)))
  | 0x315 => x.bare
  | 0x318 => decide (x.dN = 0) && isG x.aN && isG x.bN && x.c0 && decide (x.m = 0) && x.always
  | 0x319 => decide (x.dN = 0) && isG x.aN && decide (x.bN = 0) && x.c0 && decide (x.m = 0)
  | 0x380 => trlEntry x.m 0 x.dN && trlEntry x.m 1 x.aN && trlEntry x.m 2 x.bN && trlEntry x.m 3 x.cN
      && x.always && decide (x.stall.toNat = 0) && !x.t && decide (x.m < 16)
  | 0x3C0 | 0x3C1 => (decide (x.m = 2 * 64) || decide (x.m = 6 * 64)) && isV x.dN && (isV x.aN || isG x.aN)
      && (isV x.bN || isG x.bN) && x.c0
  | 0x3C2 => decide (x.ty = 10) && decide (x.rnd ≤ 3) && decide (x.m % 8 = 0) && isV x.dN
      && (isV x.aN || isG x.aN) && (isV x.bN || isG x.bN) && x.c0
  | _ => false

/-- A lane word that is not an undefined encoding (R54). -/
def ok (op : Nat) (x : LaneWord) : Bool := x.guardOk && bodyOk op x

end LaneWord

/-- A scope code that a fence, ICINV or a stage word accepts (R335, R339, R369). -/
def scopeOk (s : BitVec 3) : Bool := decide (s ≠ 0) && decide (s ≠ 7)

/-- The opcode and fields of a lane word. -/
def Instr.lane? : Instr → Option (Nat × LaneWord)
  | .iadd x => some (0x000, x)
  | .isub x => some (0x001, x)
  | .imul x => some (0x002, x)
  | .imulh x => some (0x003, x)
  | .imad x => some (0x004, x)
  | .imin x => some (0x005, x)
  | .imax x => some (0x006, x)
  | .iabs x => some (0x007, x)
  | .andLane x => some (0x008, x)
  | .orLane x => some (0x009, x)
  | .xorLane x => some (0x00A, x)
  | .notLane x => some (0x00B, x)
  | .shlLane x => some (0x00C, x)
  | .shrLane x => some (0x00D, x)
  | .rotl x => some (0x00E, x)
  | .bfe x => some (0x00F, x)
  | .bfi x => some (0x010, x)
  | .popcLane x => some (0x011, x)
  | .clzLane x => some (0x012, x)
  | .brev x => some (0x013, x)
  | .movLane x => some (0x014, x)
  | .iadd3 x => some (0x015, x)
  | .isad x => some (0x016, x)
  | .imulw x => some (0x018, x)
  | .imadw x => some (0x019, x)
  | .idp4 x => some (0x01A, x)
  | .idp2 x => some (0x01B, x)
  | .fadd x => some (0x080, x)
  | .fsub x => some (0x081, x)
  | .fmul x => some (0x082, x)
  | .ffma x => some (0x083, x)
  | .fmin x => some (0x084, x)
  | .fmax x => some (0x085, x)
  | .fabs x => some (0x086, x)
  | .fneg x => some (0x087, x)
  | .fdp2 x => some (0x088, x)
  | .fdp4 x => some (0x089, x)
  | .frnd x => some (0x08A, x)
  | .cvt x => some (0x100, x)
  | .cvts x => some (0x101, x)
  | .cbd x => some (0x102, x)
  | .pack x => some (0x103, x)
  | .unpk x => some (0x104, x)
  | .icmp x => some (0x180, x)
  | .fcmp x => some (0x181, x)
  | .plop x => some (0x182, x)
  | .pmov x => some (0x183, x)
  | .sel x => some (0x184, x)
  | .lexit x => some (0x185, x)
  | .nop x => some (0x186, x)
  | .rcp x => some (0x188, x)
  | .rsq x => some (0x189, x)
  | .sqrt x => some (0x18A, x)
  | .exp2 x => some (0x18B, x)
  | .log2 x => some (0x18C, x)
  | .sin x => some (0x18D, x)
  | .cos x => some (0x18E, x)
  | .cte x => some (0x190, x)
  | .ctld x => some (0x191, x)
  | .shfl x => some (0x200, x)
  | .vote x => some (0x201, x)
  | .ballot x => some (0x202, x)
  | .reduce x => some (0x203, x)
  | .scan x => some (0x204, x)
  | .bcast x => some (0x205, x)
  | .regroup x => some (0x206, x)
  | .uni x => some (0x207, x)
  | .ld x => some (0x280, x)
  | .st x => some (0x281, x)
  | .ldt x => some (0x282, x)
  | .ldb x => some (0x283, x)
  | .atom x => some (0x284, x)
  | .red x => some (0x285, x)
  | .lfence x => some (0x286, x)
  | .stashMap x => some (0x288, x)
  | .stashFlush x => some (0x289, x)
  | .stashDrop x => some (0x28A, x)
  | .cp x => some (0x300, x)
  | .cp2d x => some (0x301, x)
  | .cpt x => some (0x302, x)
  | .cpg x => some (0x303, x)
  | .cpset x => some (0x304, x)
  | .qfence x => some (0x305, x)
  | .mm x => some (0x308, x)
  | .mmy x => some (0x309, x)
  | .mzero x => some (0x30A, x)
  | .mcbt x => some (0x30B, x)
  | .taWin x => some (0x310, x)
  | .taDly x => some (0x311, x)
  | .taMode x => some (0x312, x)
  | .taGo x => some (0x313, x)
  | .taCapt x => some (0x314, x)
  | .taClr x => some (0x315, x)
  | .lwait x => some (0x318, x)
  | .larr x => some (0x319, x)
  | .trl x => some (0x380, x)
  | .idiv x => some (0x3C0, x)
  | .irem x => some (0x3C1, x)
  | .fdiv x => some (0x3C2, x)
  | _ => none

/-- The lane instruction of an opcode (R51). -/
def laneInstr (op : Nat) (x : LaneWord) : Option Instr :=
  match op with
  | 0x000 => some (.iadd x)
  | 0x001 => some (.isub x)
  | 0x002 => some (.imul x)
  | 0x003 => some (.imulh x)
  | 0x004 => some (.imad x)
  | 0x005 => some (.imin x)
  | 0x006 => some (.imax x)
  | 0x007 => some (.iabs x)
  | 0x008 => some (.andLane x)
  | 0x009 => some (.orLane x)
  | 0x00A => some (.xorLane x)
  | 0x00B => some (.notLane x)
  | 0x00C => some (.shlLane x)
  | 0x00D => some (.shrLane x)
  | 0x00E => some (.rotl x)
  | 0x00F => some (.bfe x)
  | 0x010 => some (.bfi x)
  | 0x011 => some (.popcLane x)
  | 0x012 => some (.clzLane x)
  | 0x013 => some (.brev x)
  | 0x014 => some (.movLane x)
  | 0x015 => some (.iadd3 x)
  | 0x016 => some (.isad x)
  | 0x018 => some (.imulw x)
  | 0x019 => some (.imadw x)
  | 0x01A => some (.idp4 x)
  | 0x01B => some (.idp2 x)
  | 0x080 => some (.fadd x)
  | 0x081 => some (.fsub x)
  | 0x082 => some (.fmul x)
  | 0x083 => some (.ffma x)
  | 0x084 => some (.fmin x)
  | 0x085 => some (.fmax x)
  | 0x086 => some (.fabs x)
  | 0x087 => some (.fneg x)
  | 0x088 => some (.fdp2 x)
  | 0x089 => some (.fdp4 x)
  | 0x08A => some (.frnd x)
  | 0x100 => some (.cvt x)
  | 0x101 => some (.cvts x)
  | 0x102 => some (.cbd x)
  | 0x103 => some (.pack x)
  | 0x104 => some (.unpk x)
  | 0x180 => some (.icmp x)
  | 0x181 => some (.fcmp x)
  | 0x182 => some (.plop x)
  | 0x183 => some (.pmov x)
  | 0x184 => some (.sel x)
  | 0x185 => some (.lexit x)
  | 0x186 => some (.nop x)
  | 0x188 => some (.rcp x)
  | 0x189 => some (.rsq x)
  | 0x18A => some (.sqrt x)
  | 0x18B => some (.exp2 x)
  | 0x18C => some (.log2 x)
  | 0x18D => some (.sin x)
  | 0x18E => some (.cos x)
  | 0x190 => some (.cte x)
  | 0x191 => some (.ctld x)
  | 0x200 => some (.shfl x)
  | 0x201 => some (.vote x)
  | 0x202 => some (.ballot x)
  | 0x203 => some (.reduce x)
  | 0x204 => some (.scan x)
  | 0x205 => some (.bcast x)
  | 0x206 => some (.regroup x)
  | 0x207 => some (.uni x)
  | 0x280 => some (.ld x)
  | 0x281 => some (.st x)
  | 0x282 => some (.ldt x)
  | 0x283 => some (.ldb x)
  | 0x284 => some (.atom x)
  | 0x285 => some (.red x)
  | 0x286 => some (.lfence x)
  | 0x288 => some (.stashMap x)
  | 0x289 => some (.stashFlush x)
  | 0x28A => some (.stashDrop x)
  | 0x300 => some (.cp x)
  | 0x301 => some (.cp2d x)
  | 0x302 => some (.cpt x)
  | 0x303 => some (.cpg x)
  | 0x304 => some (.cpset x)
  | 0x305 => some (.qfence x)
  | 0x308 => some (.mm x)
  | 0x309 => some (.mmy x)
  | 0x30A => some (.mzero x)
  | 0x30B => some (.mcbt x)
  | 0x310 => some (.taWin x)
  | 0x311 => some (.taDly x)
  | 0x312 => some (.taMode x)
  | 0x313 => some (.taGo x)
  | 0x314 => some (.taCapt x)
  | 0x315 => some (.taClr x)
  | 0x318 => some (.lwait x)
  | 0x319 => some (.larr x)
  | 0x380 => some (.trl x)
  | 0x3C0 => some (.idiv x)
  | 0x3C1 => some (.irem x)
  | 0x3C2 => some (.fdiv x)
  | _ => none

/-- The checks on an instruction: a lane word by R54, a generator word by the code rules of R33. -/
def Instr.wf : Instr → Bool
  | .add _ _ _ _ => true
  | .sub _ _ _ _ => true
  | .mul _ _ _ _ => true
  | .mulh _ _ _ _ => true
  | .mulhu _ _ _ _ => true
  | .div _ _ _ _ => true
  | .divu _ _ _ _ => true
  | .rem _ _ _ _ => true
  | .andR _ _ _ _ => true
  | .orR _ _ _ _ => true
  | .xorR _ _ _ _ => true
  | .shlR _ _ _ _ => true
  | .shrR _ _ _ _ => true
  | .sarR _ _ _ _ => true
  | .minR _ _ _ _ => true
  | .maxR _ _ _ _ => true
  | .slt _ _ _ _ => true
  | .sltu _ _ _ _ => true
  | .seq _ _ _ _ => true
  | .csel _ _ _ _ => true
  | .popc _ _ _ => true
  | .clz _ _ _ => true
  | .gexit _ => true
  | .sfadd _ _ _ _ _ => true
  | .sfsub _ _ _ _ _ => true
  | .sfmul _ _ _ _ _ => true
  | .sfmac _ _ _ _ _ => true
  | .sfmin _ _ _ _ => true
  | .sfmax _ _ _ _ => true
  | .sfcmp _ _ _ _ _ => true
  | .sfcvt _ _ _ kind _ => decide (kind.toNat ≤ 5)
  | .jr _ _ => true
  | .callr _ _ => true
  | .sret _ => true
  | .trap _ _ => true
  | .fence _ order scope => decide (order ≠ 0) && scopeOk scope
  | .icinv _ _ _ scope => scopeOk scope
  | .vqPop _ _ => true
  | .vqPeek _ _ => true
  | .barNew _ _ _ _ ext kind => !ext || decide (kind = 0)
  | .barExpect _ _ _ _ _ => true
  | .barArrive _ _ _ _ => true
  | .barWait _ _ _ _ => true
  | .barFree _ _ => true
  | .stagePut _ _ _ _ scope => scopeOk scope
  | .stageTake _ _ _ scope _ => scopeOk scope
  | .reelOpen _ _ => true
  | .reelShut _ => true
  | .reelPlay _ _ => true
  | .reelDrop _ _ => true
  | .strBind _ _ _ _ => true
  | .strSel _ _ => true
  | .strFree _ _ => true
  | .maskRd _ _ _ which => decide (which ≠ 3)
  | .maskWr _ _ _ => true
  | .parkReplay _ _ _ => true
  | .unpark _ _ _ _ => true
  | .launch _ _ _ _ => true
  | .gatom _ _ a _ op => decide (op.toNat ≤ 10) && decide (a.toNat % 2 = 0)
  | .pinSet _ _ _ _ _ _ => true
  | .pinClr _ _ _ => true
  | .addi _ _ _ _ => true
  | .andi _ _ _ _ => true
  | .ori _ _ _ _ => true
  | .xori _ _ _ _ => true
  | .shli _ _ _ _ => true
  | .shri _ _ _ _ => true
  | .sari _ _ _ _ => true
  | .slti _ _ _ _ => true
  | .movi _ _ _ => true
  | .insh _ _ _ => true
  | .sltiu _ _ _ _ => true
  | .srd _ _ _ => true
  | .swr _ _ _ => true
  | .pft _ _ _ => true
  | .addiLong _ _ _ _ _ => true
  | .andiLong _ _ _ _ _ => true
  | .oriLong _ _ _ _ _ => true
  | .xoriLong _ _ _ _ _ => true
  | .sltiLong _ _ _ _ _ => true
  | .sltiuLong _ _ _ _ _ => true
  | .moviLong _ _ _ _ => true
  | .inshLong _ _ _ _ => true
  | .pftLong _ _ _ _ => true
  | .ldgN8 _ _ _ _ _ _ => true
  | .ldgS8 _ _ _ _ _ _ => true
  | .ldgN16 _ _ _ _ _ _ => true
  | .ldgS16 _ _ _ _ _ _ => true
  | .ldgN32 _ _ _ _ _ _ => true
  | .ldgS32 _ _ _ _ _ _ => true
  | .ldgB64 _ _ _ _ _ _ => true
  | .stgB8 _ _ _ _ _ scope _ => decide (scope ≠ 7)
  | .stgB16 _ _ _ _ _ scope _ => decide (scope ≠ 7)
  | .stgB32 _ _ _ _ _ scope _ => decide (scope ≠ 7)
  | .stgB64 _ _ _ _ _ scope _ => decide (scope ≠ 7)
  | .ldgN8Long _ _ _ _ _ _ _ => true
  | .ldgS8Long _ _ _ _ _ _ _ => true
  | .ldgN16Long _ _ _ _ _ _ _ => true
  | .ldgS16Long _ _ _ _ _ _ _ => true
  | .ldgN32Long _ _ _ _ _ _ _ => true
  | .ldgS32Long _ _ _ _ _ _ _ => true
  | .ldgB64Long _ _ _ _ _ _ _ => true
  | .stgB8Long _ _ _ _ _ _ scope _ => decide (scope ≠ 7)
  | .stgB16Long _ _ _ _ _ _ scope _ => decide (scope ≠ 7)
  | .stgB32Long _ _ _ _ _ _ scope _ => decide (scope ≠ 7)
  | .stgB64Long _ _ _ _ _ _ scope _ => decide (scope ≠ 7)
  | .beq _ _ _ _ => true
  | .bne _ _ _ _ => true
  | .blt _ _ _ _ => true
  | .bge _ _ _ _ => true
  | .bltu _ _ _ _ => true
  | .bgeu _ _ _ _ => true
  | .jmp _ _ => true
  | .call _ _ => true
  | .laneWordEmit _ => true
  | .runStart _ _ => true
  | .iadd x => x.ok 0x000
  | .isub x => x.ok 0x001
  | .imul x => x.ok 0x002
  | .imulh x => x.ok 0x003
  | .imad x => x.ok 0x004
  | .imin x => x.ok 0x005
  | .imax x => x.ok 0x006
  | .iabs x => x.ok 0x007
  | .andLane x => x.ok 0x008
  | .orLane x => x.ok 0x009
  | .xorLane x => x.ok 0x00A
  | .notLane x => x.ok 0x00B
  | .shlLane x => x.ok 0x00C
  | .shrLane x => x.ok 0x00D
  | .rotl x => x.ok 0x00E
  | .bfe x => x.ok 0x00F
  | .bfi x => x.ok 0x010
  | .popcLane x => x.ok 0x011
  | .clzLane x => x.ok 0x012
  | .brev x => x.ok 0x013
  | .movLane x => x.ok 0x014
  | .iadd3 x => x.ok 0x015
  | .isad x => x.ok 0x016
  | .imulw x => x.ok 0x018
  | .imadw x => x.ok 0x019
  | .idp4 x => x.ok 0x01A
  | .idp2 x => x.ok 0x01B
  | .fadd x => x.ok 0x080
  | .fsub x => x.ok 0x081
  | .fmul x => x.ok 0x082
  | .ffma x => x.ok 0x083
  | .fmin x => x.ok 0x084
  | .fmax x => x.ok 0x085
  | .fabs x => x.ok 0x086
  | .fneg x => x.ok 0x087
  | .fdp2 x => x.ok 0x088
  | .fdp4 x => x.ok 0x089
  | .frnd x => x.ok 0x08A
  | .cvt x => x.ok 0x100
  | .cvts x => x.ok 0x101
  | .cbd x => x.ok 0x102
  | .pack x => x.ok 0x103
  | .unpk x => x.ok 0x104
  | .icmp x => x.ok 0x180
  | .fcmp x => x.ok 0x181
  | .plop x => x.ok 0x182
  | .pmov x => x.ok 0x183
  | .sel x => x.ok 0x184
  | .lexit x => x.ok 0x185
  | .nop x => x.ok 0x186
  | .rcp x => x.ok 0x188
  | .rsq x => x.ok 0x189
  | .sqrt x => x.ok 0x18A
  | .exp2 x => x.ok 0x18B
  | .log2 x => x.ok 0x18C
  | .sin x => x.ok 0x18D
  | .cos x => x.ok 0x18E
  | .cte x => x.ok 0x190
  | .ctld x => x.ok 0x191
  | .curveTableLoadFinish _ _ _ => true
  | .shfl x => x.ok 0x200
  | .vote x => x.ok 0x201
  | .ballot x => x.ok 0x202
  | .reduce x => x.ok 0x203
  | .scan x => x.ok 0x204
  | .bcast x => x.ok 0x205
  | .regroup x => x.ok 0x206
  | .uni x => x.ok 0x207
  | .ld x => x.ok 0x280
  | .st x => x.ok 0x281
  | .ldt x => x.ok 0x282
  | .ldb x => x.ok 0x283
  | .atom x => x.ok 0x284
  | .red x => x.ok 0x285
  | .lfence x => x.ok 0x286
  | .stashMap x => x.ok 0x288
  | .stashFlush x => x.ok 0x289
  | .stashDrop x => x.ok 0x28A
  | .cp x => x.ok 0x300
  | .cp2d x => x.ok 0x301
  | .cpt x => x.ok 0x302
  | .cpg x => x.ok 0x303
  | .cpset x => x.ok 0x304
  | .qfence x => x.ok 0x305
  | .copyChunkStart _ _ => true
  | .copyChunkWrite _ _ => true
  | .copyChunkLand _ _ => true
  | .copyChunkFault _ _ => true
  | .mm x => x.ok 0x308
  | .mmy x => x.ok 0x309
  | .mzero x => x.ok 0x30A
  | .mcbt x => x.ok 0x30B
  | .codebookLoadFinish _ _ => true
  | .yokeLatchComplete _ _ => true
  | .matrixEntryStart _ => true
  | .matrixRetirement _ _ _ => true
  | .taWin x => x.ok 0x310
  | .taDly x => x.ok 0x311
  | .taMode x => x.ok 0x312
  | .taGo x => x.ok 0x313
  | .taCapt x => x.ok 0x314
  | .taClr x => x.ok 0x315
  | .taEntryStart _ => true
  | .taWindowEnd _ _ => true
  | .lwait x => x.ok 0x318
  | .larr x => x.ok 0x319
  | .trl x => x.ok 0x380
  | .idiv x => x.ok 0x3C0
  | .irem x => x.ok 0x3C1
  | .fdiv x => x.ok 0x3C2
  | .variableResultLand _ => true
  | .generatorResultArrival _ _ _ _ => true
  | .voteEntryPresent _ _ _ => true
  | .uniResultArrival _ _ _ _ => true
  | .reelPlayFeed _ _ _ _ => true
  | .boundaryTrap _ _ _ => true
  | .threadEnd _ _ _ => true
  | .tableWalk _ _ _ => true
  | .leaseGrant _ _ _ => true
  | .leaseExpiry _ _ => true
  | .homeWritePerform _ => true
  | .stashOwnershipGrant _ _ => true
  | .sectorFillLand _ _ => true
  | .stashRecall _ => true
  | .updateOnlyGrant _ _ _ => true
  | .updateOnlyCombine _ => true
  | .hostCxlMemAccess _ _ _ _ => true
  | .cxlCacheSnoop _ => true
  | .cxlerr _ => true
  | .cxlCompletionTimeout _ => true
  | .instructionFill _ _ _ => true
  | .pftTargetFill _ _ => true
  | .pinRehome _ _ _ => true
  | .pinClrWriteback _ _ _ => true
  | .inval _ _ _ => true
  | .invalAll _ _ _ => true
  | .migrate _ _ _ => true
  | .biasHost _ _ _ => true
  | .biasDev _ _ _ => true
  | .xlcmdFinish _ => true
  | .ttbaseWrite _ _ => true
  | .cqctlAbort _ _ => true
  | .cqctlResume _ _ => true
  | .deferredStageOperation _ _ _ => true
  | .barWaitTimeout _ _ _ => true
  | .bardoor _ _ => true
  | .watchdogReport _ => true
  | .load _ => true
  | .unload _ => true
  | .recordParse _ => true
  | .placementStep => true
  | .headAgeTick => true
  | .flockEnd _ => true
  | .voltageRampReachesTarget _ => true
  | .tokenFlitInject _ => true
  | .spendWindowRollover _ => true
  | .claimPost _ => true
  | .ashareWrite _ _ => true
  | .thallowUpdate _ _ => true
  | .sensorSample _ _ _ _ => true
  | .bankRefresh _ _ => true
  | .droopDetect _ => true
  | .droopRecovery _ => true
  | .coreRailClamp => true
  | .clampFloorEnd => true
  | .junctionTrip _ => true
  | .firmwareHeartbeatMiss => true
  | .preempt _ => true
  | .clear _ => true
  | .preemptionHalt _ => true
  | .sampleRecord _ => true
  | .stop _ => true
  | .dbgctlResume _ => true
  | .debugStop _ _ _ => true
  | .checkScoreboardStop _ _ _ => true
  | .dbgdataWrite _ _ => true
  | .srseedWrite _ _ => true
  | .exmaskWrite _ _ => true
  | .leaseWrite _ _ => true
  | .sampctlWrite _ _ => true
  | .registerWrite _ _ _ => true
  | .packageReset => true
  | .railsInRegulation => true
  | .firstConfigAccess => true
  | .controllerRamWrite _ _ => true
  | .start => true
  | .firmwareStartTimeout => true
  | .train => true
  | .trainComplete _ => true
  | .release => true
  | .haltfw => true
  | .illegalInstruction _ => true
  | .contextCreation _ _ => true
  | .clockStepDown _ => true

end Sys2Proof
end

