-- ==== Sys2Proof/Decode.lean ====
section
/-! DEFINITION. Decoding (R27 to R35) on any bytes, total, rejecting by name; the encoder after it. The
field readers and builders are here, so that a repair can mend them. -/

namespace Sys2Proof

open Sys2Proof.Machine (leNat)

/-- Why words are not an instruction (R28, R33, R54). -/
inductive DecodeError where
  /-- Fewer bytes than the instruction has. -/
  | short
  /-- A parcel of class 0b11 where a generator word stands. -/
  | classLane
  /-- An unassigned opcode slot (R34, R51). -/
  | unassigned
  /-- A field that the instruction does not use is not zero. -/
  | unusedField
  /-- A scope, kind or operation code outside the set the instruction accepts. -/
  | badCode
  /-- A prefix followed by anything but a word of R32, or by a parcel with S = 1. -/
  | badPrefix
  /-- A lane word that breaks a rule of R54. -/
  | laneField
  deriving DecidableEq, Repr

/-! ## Fields of a parcel (R29) -/

abbrev Parcel := BitVec 32

def pCls (p : Parcel) : BitVec 2 := p.extractLsb' 30 2
def pS (p : Parcel) : Bool := p.getLsbD 29
def pOp (p : Parcel) : BitVec 6 := p.extractLsb' 23 6
def pD (p : Parcel) : GReg := p.extractLsb' 17 6
def pA (p : Parcel) : GReg := p.extractLsb' 11 6
def pB (p : Parcel) : GReg := p.extractLsb' 5 6
def pFunc (p : Parcel) : BitVec 5 := p.extractLsb' 0 5
def pImm (p : Parcel) : BitVec 11 := p.extractLsb' 0 11
def pOff23 (p : Parcel) : BitVec 23 := p.extractLsb' 0 23
def pPri (p : Parcel) : BitVec 2 := p.extractLsb' 9 2
def pNa (p : Parcel) : Bool := p.getLsbD 8
def pScope (p : Parcel) : BitVec 3 := p.extractLsb' 5 3
/-- ga and gb of the B format stand where gd and ga stand elsewhere (R29). -/
def bA (p : Parcel) : GReg := pD p
def bB (p : Parcel) : GReg := pA p

/-- An instruction, unless a check fails. -/
def need (ok : Bool) (e : DecodeError) (k : Except DecodeError Instr) : Except DecodeError Instr :=
  if ok then k else .error e

/-- Unused fields must be zero. -/
def zero (ok : Bool) (i : Instr) : Except DecodeError Instr := need ok .unusedField (.ok i)

/-- R format, class 0b00 (R29, R34). -/
def decodeR (p : Parcel) : Except DecodeError Instr :=
  match (pOp p).toNat with
  | 0x00 => zero (decide ((pFunc p).extractLsb' 0 5 = 0)) (.add (pS p) (pD p) (pA p) (pB p))
  | 0x01 => zero (decide ((pFunc p).extractLsb' 0 5 = 0)) (.sub (pS p) (pD p) (pA p) (pB p))
  | 0x02 => zero (decide ((pFunc p).extractLsb' 0 5 = 0)) (.mul (pS p) (pD p) (pA p) (pB p))
  | 0x03 => zero (decide ((pFunc p).extractLsb' 0 5 = 0)) (.mulh (pS p) (pD p) (pA p) (pB p))
  | 0x04 => zero (decide ((pFunc p).extractLsb' 0 5 = 0)) (.mulhu (pS p) (pD p) (pA p) (pB p))
  | 0x05 => zero (decide ((pFunc p).extractLsb' 0 5 = 0)) (.div (pS p) (pD p) (pA p) (pB p))
  | 0x06 => zero (decide ((pFunc p).extractLsb' 0 5 = 0)) (.divu (pS p) (pD p) (pA p) (pB p))
  | 0x07 => zero (decide ((pFunc p).extractLsb' 0 5 = 0)) (.rem (pS p) (pD p) (pA p) (pB p))
  | 0x08 => zero (decide ((pFunc p).extractLsb' 0 5 = 0)) (.andR (pS p) (pD p) (pA p) (pB p))
  | 0x09 => zero (decide ((pFunc p).extractLsb' 0 5 = 0)) (.orR (pS p) (pD p) (pA p) (pB p))
  | 0x0A => zero (decide ((pFunc p).extractLsb' 0 5 = 0)) (.xorR (pS p) (pD p) (pA p) (pB p))
  | 0x0B => zero (decide ((pFunc p).extractLsb' 0 5 = 0)) (.shlR (pS p) (pD p) (pA p) (pB p))
  | 0x0C => zero (decide ((pFunc p).extractLsb' 0 5 = 0)) (.shrR (pS p) (pD p) (pA p) (pB p))
  | 0x0D => zero (decide ((pFunc p).extractLsb' 0 5 = 0)) (.sarR (pS p) (pD p) (pA p) (pB p))
  | 0x0E => zero (decide ((pFunc p).extractLsb' 0 5 = 0)) (.minR (pS p) (pD p) (pA p) (pB p))
  | 0x0F => zero (decide ((pFunc p).extractLsb' 0 5 = 0)) (.maxR (pS p) (pD p) (pA p) (pB p))
  | 0x10 => zero (decide ((pFunc p).extractLsb' 0 5 = 0)) (.slt (pS p) (pD p) (pA p) (pB p))
  | 0x11 => zero (decide ((pFunc p).extractLsb' 0 5 = 0)) (.sltu (pS p) (pD p) (pA p) (pB p))
  | 0x12 => zero (decide ((pFunc p).extractLsb' 0 5 = 0)) (.seq (pS p) (pD p) (pA p) (pB p))
  | 0x13 => zero (decide ((pFunc p).extractLsb' 0 5 = 0)) (.csel (pS p) (pD p) (pA p) (pB p))
  | 0x14 => zero (decide (pB p = 0) && decide ((pFunc p).extractLsb' 0 5 = 0)) (.popc (pS p) (pD p) (pA p))
  | 0x15 => zero (decide (pB p = 0) && decide ((pFunc p).extractLsb' 0 5 = 0)) (.clz (pS p) (pD p) (pA p))
  | 0x16 => zero (decide (pD p = 0) && decide (pA p = 0) && decide (pB p = 0) && decide ((pFunc p).extractLsb' 0 5 = 0)) (.gexit (pS p))
  | 0x18 => zero (decide ((pFunc p).extractLsb' 2 3 = 0)) (.sfadd (pS p) (pD p) (pA p) (pB p) ((pFunc p).extractLsb' 0 2))
  | 0x19 => zero (decide ((pFunc p).extractLsb' 2 3 = 0)) (.sfsub (pS p) (pD p) (pA p) (pB p) ((pFunc p).extractLsb' 0 2))
  | 0x1A => zero (decide ((pFunc p).extractLsb' 2 3 = 0)) (.sfmul (pS p) (pD p) (pA p) (pB p) ((pFunc p).extractLsb' 0 2))
  | 0x1B => zero (decide ((pFunc p).extractLsb' 2 3 = 0)) (.sfmac (pS p) (pD p) (pA p) (pB p) ((pFunc p).extractLsb' 0 2))
  | 0x1C => zero (decide ((pFunc p).extractLsb' 0 5 = 0)) (.sfmin (pS p) (pD p) (pA p) (pB p))
  | 0x1D => zero (decide ((pFunc p).extractLsb' 0 5 = 0)) (.sfmax (pS p) (pD p) (pA p) (pB p))
  | 0x1E => zero (decide ((pFunc p).extractLsb' 3 2 = 0)) (.sfcmp (pS p) (pD p) (pA p) (pB p) ((pFunc p).extractLsb' 0 3))
  | 0x1F => need (decide (pB p = 0)) .unusedField (need (Instr.wf (.sfcvt (pS p) (pD p) (pA p) ((pFunc p).extractLsb' 2 3) ((pFunc p).extractLsb' 0 2))) .badCode (.ok (.sfcvt (pS p) (pD p) (pA p) ((pFunc p).extractLsb' 2 3) ((pFunc p).extractLsb' 0 2))))
  | 0x20 => zero (decide (pD p = 0) && decide (pB p = 0) && decide ((pFunc p).extractLsb' 0 5 = 0)) (.jr (pS p) (pA p))
  | 0x21 => zero (decide (pD p = 0) && decide (pB p = 0) && decide ((pFunc p).extractLsb' 0 5 = 0)) (.callr (pS p) (pA p))
  | 0x22 => zero (decide (pD p = 0) && decide (pA p = 0) && decide (pB p = 0) && decide ((pFunc p).extractLsb' 0 5 = 0)) (.sret (pS p))
  | 0x23 => zero (decide (pD p = 0) && decide (pA p = 0) && decide (pB p = 0)) (.trap (pS p) ((pFunc p).extractLsb' 0 5))
  | 0x24 => need (decide (pD p = 0) && decide (pA p = 0) && decide (pB p = 0)) .unusedField (need (Instr.wf (.fence (pS p) ((pFunc p).extractLsb' 3 2) ((pFunc p).extractLsb' 0 3))) .badCode (.ok (.fence (pS p) ((pFunc p).extractLsb' 3 2) ((pFunc p).extractLsb' 0 3))))
  | 0x25 => need (decide (pD p = 0) && decide ((pFunc p).extractLsb' 3 2 = 0)) .unusedField (need (Instr.wf (.icinv (pS p) (pA p) (pB p) ((pFunc p).extractLsb' 0 3))) .badCode (.ok (.icinv (pS p) (pA p) (pB p) ((pFunc p).extractLsb' 0 3))))
  | 0x26 => zero (decide (pA p = 0) && decide (pB p = 0) && decide ((pFunc p).extractLsb' 0 5 = 0)) (.vqPop (pS p) (pD p))
  | 0x27 => zero (decide (pA p = 0) && decide (pB p = 0) && decide ((pFunc p).extractLsb' 0 5 = 0)) (.vqPeek (pS p) (pD p))
  | 0x28 => need (decide ((pFunc p).extractLsb' 3 2 = 0)) .unusedField (need (Instr.wf (.barNew (pS p) (pD p) (pA p) (pB p) ((pFunc p).getLsbD 2) ((pFunc p).extractLsb' 0 2))) .badCode (.ok (.barNew (pS p) (pD p) (pA p) (pB p) ((pFunc p).getLsbD 2) ((pFunc p).extractLsb' 0 2))))
  | 0x29 => zero (decide ((pFunc p).extractLsb' 1 4 = 0)) (.barExpect (pS p) (pD p) (pA p) (pB p) ((pFunc p).getLsbD 0))
  | 0x2A => zero (decide ((pFunc p).extractLsb' 0 5 = 0)) (.barArrive (pS p) (pD p) (pA p) (pB p))
  | 0x2B => zero (decide ((pFunc p).extractLsb' 0 5 = 0)) (.barWait (pS p) (pD p) (pA p) (pB p))
  | 0x2C => zero (decide (pD p = 0) && decide (pB p = 0) && decide ((pFunc p).extractLsb' 0 5 = 0)) (.barFree (pS p) (pA p))
  | 0x2D => need (decide ((pFunc p).extractLsb' 0 2 = 0)) .unusedField (need (Instr.wf (.stagePut (pS p) (pD p) (pA p) (pB p) ((pFunc p).extractLsb' 2 3))) .badCode (.ok (.stagePut (pS p) (pD p) (pA p) (pB p) ((pFunc p).extractLsb' 2 3))))
  | 0x2E => need (decide (pB p = 0) && decide ((pFunc p).extractLsb' 0 1 = 0)) .unusedField (need (Instr.wf (.stageTake (pS p) (pD p) (pA p) ((pFunc p).extractLsb' 2 3) ((pFunc p).getLsbD 1))) .badCode (.ok (.stageTake (pS p) (pD p) (pA p) ((pFunc p).extractLsb' 2 3) ((pFunc p).getLsbD 1))))
  | 0x30 => zero (decide (pD p = 0) && decide (pB p = 0) && decide ((pFunc p).extractLsb' 0 5 = 0)) (.reelOpen (pS p) (pA p))
  | 0x31 => zero (decide (pD p = 0) && decide (pA p = 0) && decide (pB p = 0) && decide ((pFunc p).extractLsb' 0 5 = 0)) (.reelShut (pS p))
  | 0x32 => zero (decide (pD p = 0) && decide (pB p = 0) && decide ((pFunc p).extractLsb' 0 5 = 0)) (.reelPlay (pS p) (pA p))
  | 0x33 => zero (decide (pD p = 0) && decide (pB p = 0) && decide ((pFunc p).extractLsb' 0 5 = 0)) (.reelDrop (pS p) (pA p))
  | 0x34 => zero (decide (pD p = 0) && decide ((pFunc p).extractLsb' 2 3 = 0)) (.strBind (pS p) (pA p) (pB p) ((pFunc p).extractLsb' 0 2))
  | 0x35 => zero (decide (pD p = 0) && decide (pA p = 0) && decide (pB p = 0) && decide ((pFunc p).extractLsb' 2 3 = 0)) (.strSel (pS p) ((pFunc p).extractLsb' 0 2))
  | 0x36 => zero (decide (pD p = 0) && decide (pA p = 0) && decide (pB p = 0) && decide ((pFunc p).extractLsb' 2 3 = 0)) (.strFree (pS p) ((pFunc p).extractLsb' 0 2))
  | 0x38 => need (decide (pB p = 0) && decide ((pFunc p).extractLsb' 2 3 = 0)) .unusedField (need (Instr.wf (.maskRd (pS p) (pD p) (pA p) ((pFunc p).extractLsb' 0 2))) .badCode (.ok (.maskRd (pS p) (pD p) (pA p) ((pFunc p).extractLsb' 0 2))))
  | 0x39 => zero (decide (pD p = 0) && decide ((pFunc p).extractLsb' 0 5 = 0)) (.maskWr (pS p) (pA p) (pB p))
  | 0x3A => zero (decide (pD p = 0) && decide ((pFunc p).extractLsb' 0 5 = 0)) (.parkReplay (pS p) (pA p) (pB p))
  | 0x3B => zero (decide (pD p = 0) && decide ((pFunc p).extractLsb' 1 4 = 0)) (.unpark (pS p) (pA p) (pB p) ((pFunc p).getLsbD 0))
  | 0x3C => zero (decide ((pFunc p).extractLsb' 0 5 = 0)) (.launch (pS p) (pD p) (pA p) (pB p))
  | 0x3D => need (decide ((pFunc p).extractLsb' 4 1 = 0)) .unusedField (need (Instr.wf (.gatom (pS p) (pD p) (pA p) (pB p) ((pFunc p).extractLsb' 0 4))) .badCode (.ok (.gatom (pS p) (pD p) (pA p) (pB p) ((pFunc p).extractLsb' 0 4))))
  | 0x3E => zero (decide ((pFunc p).extractLsb' 2 3 = 0)) (.pinSet (pS p) (pD p) (pA p) (pB p) ((pFunc p).getLsbD 1) ((pFunc p).getLsbD 0))
  | 0x3F => zero (decide (pB p = 0) && decide ((pFunc p).extractLsb' 0 5 = 0)) (.pinClr (pS p) (pD p) (pA p))
  | _ => .error .unassigned

/-- I and M formats, class 0b01 (R29, R34). -/
def decodeI (p : Parcel) : Except DecodeError Instr :=
  match (pOp p).toNat with
  | 0x00 => zero (true) (.addi (pS p) (pD p) (pA p) (pImm p))
  | 0x01 => zero (true) (.andi (pS p) (pD p) (pA p) (pImm p))
  | 0x02 => zero (true) (.ori (pS p) (pD p) (pA p) (pImm p))
  | 0x03 => zero (true) (.xori (pS p) (pD p) (pA p) (pImm p))
  | 0x04 => zero (decide (p.extractLsb' 6 5 = 0)) (.shli (pS p) (pD p) (pA p) (p.extractLsb' 0 6))
  | 0x05 => zero (decide (p.extractLsb' 6 5 = 0)) (.shri (pS p) (pD p) (pA p) (p.extractLsb' 0 6))
  | 0x06 => zero (decide (p.extractLsb' 6 5 = 0)) (.sari (pS p) (pD p) (pA p) (p.extractLsb' 0 6))
  | 0x07 => zero (true) (.slti (pS p) (pD p) (pA p) (pImm p))
  | 0x08 => zero (decide (pA p = 0)) (.movi (pS p) (pD p) (pImm p))
  | 0x09 => zero (decide (pA p = 0)) (.insh (pS p) (pD p) (pImm p))
  | 0x0A => zero (true) (.sltiu (pS p) (pD p) (pA p) (pImm p))
  | 0x10 => need (decide (pScope p = 0)) .badCode (.ok (.ldgN8 (pS p) (pD p) (pA p) (pPri p) (pNa p) (p.extractLsb' 0 5)))
  | 0x11 => need (decide (pScope p = 0)) .badCode (.ok (.ldgS8 (pS p) (pD p) (pA p) (pPri p) (pNa p) (p.extractLsb' 0 5)))
  | 0x12 => need (decide (pScope p = 0)) .badCode (.ok (.ldgN16 (pS p) (pD p) (pA p) (pPri p) (pNa p) (p.extractLsb' 0 5)))
  | 0x13 => need (decide (pScope p = 0)) .badCode (.ok (.ldgS16 (pS p) (pD p) (pA p) (pPri p) (pNa p) (p.extractLsb' 0 5)))
  | 0x14 => need (decide (pScope p = 0)) .badCode (.ok (.ldgN32 (pS p) (pD p) (pA p) (pPri p) (pNa p) (p.extractLsb' 0 5)))
  | 0x15 => need (decide (pScope p = 0)) .badCode (.ok (.ldgS32 (pS p) (pD p) (pA p) (pPri p) (pNa p) (p.extractLsb' 0 5)))
  | 0x16 => need (decide (pScope p = 0)) .badCode (.ok (.ldgB64 (pS p) (pD p) (pA p) (pPri p) (pNa p) (p.extractLsb' 0 5)))
  | 0x18 => need (Instr.wf (.stgB8 (pS p) (pD p) (pA p) (pPri p) (pNa p) (pScope p) (p.extractLsb' 0 5))) .badCode (.ok (.stgB8 (pS p) (pD p) (pA p) (pPri p) (pNa p) (pScope p) (p.extractLsb' 0 5)))
  | 0x19 => need (Instr.wf (.stgB16 (pS p) (pD p) (pA p) (pPri p) (pNa p) (pScope p) (p.extractLsb' 0 5))) .badCode (.ok (.stgB16 (pS p) (pD p) (pA p) (pPri p) (pNa p) (pScope p) (p.extractLsb' 0 5)))
  | 0x1A => need (Instr.wf (.stgB32 (pS p) (pD p) (pA p) (pPri p) (pNa p) (pScope p) (p.extractLsb' 0 5))) .badCode (.ok (.stgB32 (pS p) (pD p) (pA p) (pPri p) (pNa p) (pScope p) (p.extractLsb' 0 5)))
  | 0x1B => need (Instr.wf (.stgB64 (pS p) (pD p) (pA p) (pPri p) (pNa p) (pScope p) (p.extractLsb' 0 5))) .badCode (.ok (.stgB64 (pS p) (pD p) (pA p) (pPri p) (pNa p) (pScope p) (p.extractLsb' 0 5)))
  | 0x1C => zero (decide (pA p = 0)) (.srd (pS p) (pD p) (pImm p))
  | 0x1D => zero (decide (pD p = 0)) (.swr (pS p) (pA p) (pImm p))
  | 0x1E => zero (decide (pD p = 0)) (.pft (pS p) (pA p) (pImm p))
  | _ => .error .unassigned

/-- B format, class 0b10 (R29, R34). -/
def decodeB (p : Parcel) : Except DecodeError Instr :=
  match (pOp p).toNat with
  | 0x00 => .ok (.beq (pS p) (bA p) (bB p) (pImm p))
  | 0x01 => .ok (.bne (pS p) (bA p) (bB p) (pImm p))
  | 0x02 => .ok (.blt (pS p) (bA p) (bB p) (pImm p))
  | 0x03 => .ok (.bge (pS p) (bA p) (bB p) (pImm p))
  | 0x04 => .ok (.bltu (pS p) (bA p) (bB p) (pImm p))
  | 0x05 => .ok (.bgeu (pS p) (bA p) (bB p) (pImm p))
  | 0x20 => .ok (.jmp (pS p) (pOff23 p))
  | 0x21 => .ok (.call (pS p) (pOff23 p))
  | _ => .error .unassigned

/-- A generator word of one parcel (R28 steps 2 and 3). -/
def decodeShort (p : Parcel) : Except DecodeError Instr :=
  match (pCls p).toNat with
  | 0 => decodeR p
  | 1 => decodeI p
  | 2 => decodeB p
  | _ => .error .classLane

/-- The prefix (R29). -/
def isPrefix (p : Parcel) : Bool := decide (pCls p = 1) && decide (pOp p = 0x3F)

/-- A long form: a prefix and the parcel after it (R32). -/
def decodeLong (p q : Parcel) : Except DecodeError Instr :=
  if pCls q ≠ 1 ∨ pS q = true then .error .badPrefix
  else match (pOp q).toNat with
    | 0x00 => zero (true) (.addiLong (pS p) (pD q) (pA q) (pOff23 p) (pImm q))
    | 0x01 => zero (true) (.andiLong (pS p) (pD q) (pA q) (pOff23 p) (pImm q))
    | 0x02 => zero (true) (.oriLong (pS p) (pD q) (pA q) (pOff23 p) (pImm q))
    | 0x03 => zero (true) (.xoriLong (pS p) (pD q) (pA q) (pOff23 p) (pImm q))
    | 0x07 => zero (true) (.sltiLong (pS p) (pD q) (pA q) (pOff23 p) (pImm q))
    | 0x08 => zero (decide (pA q = 0)) (.moviLong (pS p) (pD q) (pOff23 p) (pImm q))
    | 0x09 => zero (decide (pA q = 0)) (.inshLong (pS p) (pD q) (pOff23 p) (pImm q))
    | 0x0A => zero (true) (.sltiuLong (pS p) (pD q) (pA q) (pOff23 p) (pImm q))
    | 0x10 => need (decide (pScope q = 0)) .badCode (.ok (.ldgN8Long (pS p) (pD q) (pA q) (pOff23 p) (pPri q) (pNa q) (q.extractLsb' 0 5)))
    | 0x11 => need (decide (pScope q = 0)) .badCode (.ok (.ldgS8Long (pS p) (pD q) (pA q) (pOff23 p) (pPri q) (pNa q) (q.extractLsb' 0 5)))
    | 0x12 => need (decide (pScope q = 0)) .badCode (.ok (.ldgN16Long (pS p) (pD q) (pA q) (pOff23 p) (pPri q) (pNa q) (q.extractLsb' 0 5)))
    | 0x13 => need (decide (pScope q = 0)) .badCode (.ok (.ldgS16Long (pS p) (pD q) (pA q) (pOff23 p) (pPri q) (pNa q) (q.extractLsb' 0 5)))
    | 0x14 => need (decide (pScope q = 0)) .badCode (.ok (.ldgN32Long (pS p) (pD q) (pA q) (pOff23 p) (pPri q) (pNa q) (q.extractLsb' 0 5)))
    | 0x15 => need (decide (pScope q = 0)) .badCode (.ok (.ldgS32Long (pS p) (pD q) (pA q) (pOff23 p) (pPri q) (pNa q) (q.extractLsb' 0 5)))
    | 0x16 => need (decide (pScope q = 0)) .badCode (.ok (.ldgB64Long (pS p) (pD q) (pA q) (pOff23 p) (pPri q) (pNa q) (q.extractLsb' 0 5)))
    | 0x18 => need (Instr.wf (.stgB8Long (pS p) (pD q) (pA q) (pOff23 p) (pPri q) (pNa q) (pScope q) (q.extractLsb' 0 5))) .badCode (.ok (.stgB8Long (pS p) (pD q) (pA q) (pOff23 p) (pPri q) (pNa q) (pScope q) (q.extractLsb' 0 5)))
    | 0x19 => need (Instr.wf (.stgB16Long (pS p) (pD q) (pA q) (pOff23 p) (pPri q) (pNa q) (pScope q) (q.extractLsb' 0 5))) .badCode (.ok (.stgB16Long (pS p) (pD q) (pA q) (pOff23 p) (pPri q) (pNa q) (pScope q) (q.extractLsb' 0 5)))
    | 0x1A => need (Instr.wf (.stgB32Long (pS p) (pD q) (pA q) (pOff23 p) (pPri q) (pNa q) (pScope q) (q.extractLsb' 0 5))) .badCode (.ok (.stgB32Long (pS p) (pD q) (pA q) (pOff23 p) (pPri q) (pNa q) (pScope q) (q.extractLsb' 0 5)))
    | 0x1B => need (Instr.wf (.stgB64Long (pS p) (pD q) (pA q) (pOff23 p) (pPri q) (pNa q) (pScope q) (q.extractLsb' 0 5))) .badCode (.ok (.stgB64Long (pS p) (pD q) (pA q) (pOff23 p) (pPri q) (pNa q) (pScope q) (q.extractLsb' 0 5)))
    | 0x1E => zero (decide (pD q = 0)) (.pftLong (pS p) (pA q) (pOff23 p) (pImm q))
    | _ => .error .badPrefix

/-! ## Lane words (R35) -/

def lCls (w : BitVec 64) : BitVec 2 := w.extractLsb' 62 2
def lOp (w : BitVec 64) : BitVec 10 := w.extractLsb' 52 10

/-- The fields of a lane word (R35). -/
def laneFields (w : BitVec 64) : LaneWord :=
  { d := w.extractLsb' 44 8, a := w.extractLsb' 36 8, b := w.extractLsb' 28 8, c := w.extractLsb' 20 8
    neg := w.getLsbD 19, sel := w.extractLsb' 15 4, stall := w.extractLsb' 11 4, t := w.getLsbD 10
    mods := w.extractLsb' 0 10 }

/-- A lane word: opcode slot assigned, every field valid (R54, R55 checks 1 and 2). -/
def decodeLane (w : BitVec 64) : Except DecodeError Instr :=
  match laneInstr (lOp w).toNat (laneFields w) with
  | none => .error .unassigned
  | some i => need i.wf .laneField (.ok i)

/-! ## Instructions in a byte stream (R27, R28) -/

/-- The instruction at the head of a list of bytes that begins at an address, and the rest. A doubleword
at an 8-byte-aligned address whose upper parcel has class 0b11 is a lane word (R28 step 1). -/
def decode (aligned : Bool) (bs : List Byte) : Except DecodeError (Instr × List Byte) :=
  let lo : Parcel := BitVec.ofNat 32 (leNat (bs.take 4))
  let hi : Parcel := BitVec.ofNat 32 (leNat ((bs.drop 4).take 4))
  if bs.length < 4 then .error .short
  else if aligned && decide (8 ≤ bs.length) && decide (pCls hi = 3) then
    (decodeLane (BitVec.ofNat 64 (leNat (bs.take 8)))).map fun i => (i, bs.drop 8)
  else if isPrefix lo then
    if bs.length < 8 then .error .short else (decodeLong lo hi).map fun i => (i, bs.drop 8)
  else (decodeShort lo).map fun i => (i, bs.drop 4)

/-- The bytes of a word as the hardware stores them: little-endian (R3, R27). -/
def wordBytes (nbits w : Nat) : List Byte := Sys2Proof.Machine.leBytes (nbits / 8) w

/-- What the decoder reads from an instruction of `nbits` bits whose bits are `w`, laid out at an
8-byte-aligned address. -/
def decodeTableWord (nbits w : Nat) : Option Instr :=
  match decode true (wordBytes (if nbits ≤ 32 then 32 else 64) w) with
  | .ok (i, _) => some i
  | .error _ => none

/-! ## Encoding -/

def flag (b : Bool) : BitVec 1 := BitVec.ofBool b

/-- R format (R29). -/
def encR (s : Bool) (op : BitVec 6) (d a b : GReg) (f : BitVec 5) : Parcel :=
  0#2 ++ flag s ++ op ++ d ++ a ++ b ++ f
/-- I format (R29). -/
def encI (s : Bool) (op : BitVec 6) (d a : GReg) (imm : BitVec 11) : Parcel :=
  1#2 ++ flag s ++ op ++ d ++ a ++ imm
/-- M format (R29). -/
def encM (s : Bool) (op : BitVec 6) (d a : GReg) (pri : BitVec 2) (na : Bool) (sc : BitVec 3) (off : BitVec 5) :
    Parcel := 1#2 ++ flag s ++ op ++ d ++ a ++ pri ++ flag na ++ sc ++ off
/-- B format (R29). -/
def encB (s : Bool) (op : BitVec 6) (a b : GReg) (off : BitVec 11) : Parcel :=
  2#2 ++ flag s ++ op ++ a ++ b ++ off
def encJ (s : Bool) (op : BitVec 6) (off : BitVec 23) : Parcel := 2#2 ++ flag s ++ op ++ off
/-- Prefix (R29). -/
def encP (s : Bool) (ext : BitVec 23) : Parcel := 1#2 ++ flag s ++ 0x3F#6 ++ ext
/-- A long form as one number: the prefix in the low parcel (R32). -/
def encL (p q : Parcel) : BitVec 64 := q ++ p
/-- A lane word (R35). -/
def encLane (op : BitVec 10) (x : LaneWord) : BitVec 64 :=
  3#2 ++ op ++ x.d ++ x.a ++ x.b ++ x.c ++ flag x.neg ++ x.sel ++ x.stall ++ flag x.t ++ x.mods

/-- The words of an instruction: its length in bits and its bits, the first word lowest. An event has
none. -/
def encode : Instr → Option (Nat × Nat)
  | .add s d a b => some (32, (encR s 0x00 d a b (0#5)).toNat)
  | .sub s d a b => some (32, (encR s 0x01 d a b (0#5)).toNat)
  | .mul s d a b => some (32, (encR s 0x02 d a b (0#5)).toNat)
  | .mulh s d a b => some (32, (encR s 0x03 d a b (0#5)).toNat)
  | .mulhu s d a b => some (32, (encR s 0x04 d a b (0#5)).toNat)
  | .div s d a b => some (32, (encR s 0x05 d a b (0#5)).toNat)
  | .divu s d a b => some (32, (encR s 0x06 d a b (0#5)).toNat)
  | .rem s d a b => some (32, (encR s 0x07 d a b (0#5)).toNat)
  | .andR s d a b => some (32, (encR s 0x08 d a b (0#5)).toNat)
  | .orR s d a b => some (32, (encR s 0x09 d a b (0#5)).toNat)
  | .xorR s d a b => some (32, (encR s 0x0A d a b (0#5)).toNat)
  | .shlR s d a b => some (32, (encR s 0x0B d a b (0#5)).toNat)
  | .shrR s d a b => some (32, (encR s 0x0C d a b (0#5)).toNat)
  | .sarR s d a b => some (32, (encR s 0x0D d a b (0#5)).toNat)
  | .minR s d a b => some (32, (encR s 0x0E d a b (0#5)).toNat)
  | .maxR s d a b => some (32, (encR s 0x0F d a b (0#5)).toNat)
  | .slt s d a b => some (32, (encR s 0x10 d a b (0#5)).toNat)
  | .sltu s d a b => some (32, (encR s 0x11 d a b (0#5)).toNat)
  | .seq s d a b => some (32, (encR s 0x12 d a b (0#5)).toNat)
  | .csel s d a b => some (32, (encR s 0x13 d a b (0#5)).toNat)
  | .popc s d a => some (32, (encR s 0x14 d a 0 (0#5)).toNat)
  | .clz s d a => some (32, (encR s 0x15 d a 0 (0#5)).toNat)
  | .gexit s => some (32, (encR s 0x16 0 0 0 (0#5)).toNat)
  | .sfadd s d a b rnd => some (32, (encR s 0x18 d a b (0#3 ++ rnd)).toNat)
  | .sfsub s d a b rnd => some (32, (encR s 0x19 d a b (0#3 ++ rnd)).toNat)
  | .sfmul s d a b rnd => some (32, (encR s 0x1A d a b (0#3 ++ rnd)).toNat)
  | .sfmac s d a b rnd => some (32, (encR s 0x1B d a b (0#3 ++ rnd)).toNat)
  | .sfmin s d a b => some (32, (encR s 0x1C d a b (0#5)).toNat)
  | .sfmax s d a b => some (32, (encR s 0x1D d a b (0#5)).toNat)
  | .sfcmp s d a b cond => some (32, (encR s 0x1E d a b (0#2 ++ cond)).toNat)
  | .sfcvt s d a kind rnd => some (32, (encR s 0x1F d a 0 (kind ++ rnd)).toNat)
  | .jr s a => some (32, (encR s 0x20 0 a 0 (0#5)).toNat)
  | .callr s a => some (32, (encR s 0x21 0 a 0 (0#5)).toNat)
  | .sret s => some (32, (encR s 0x22 0 0 0 (0#5)).toNat)
  | .trap s n => some (32, (encR s 0x23 0 0 0 (n)).toNat)
  | .fence s order scope => some (32, (encR s 0x24 0 0 0 (order ++ scope)).toNat)
  | .icinv s a b scope => some (32, (encR s 0x25 0 a b (0#2 ++ scope)).toNat)
  | .vqPop s d => some (32, (encR s 0x26 d 0 0 (0#5)).toNat)
  | .vqPeek s d => some (32, (encR s 0x27 d 0 0 (0#5)).toNat)
  | .barNew s d a b ext kind => some (32, (encR s 0x28 d a b (0#2 ++ flag ext ++ kind)).toNat)
  | .barExpect s d a b base => some (32, (encR s 0x29 d a b (0#4 ++ flag base)).toNat)
  | .barArrive s d a b => some (32, (encR s 0x2A d a b (0#5)).toNat)
  | .barWait s d a b => some (32, (encR s 0x2B d a b (0#5)).toNat)
  | .barFree s a => some (32, (encR s 0x2C 0 a 0 (0#5)).toNat)
  | .stagePut s d a b scope => some (32, (encR s 0x2D d a b (scope ++ 0#2)).toNat)
  | .stageTake s d a scope last => some (32, (encR s 0x2E d a 0 (scope ++ flag last ++ 0#1)).toNat)
  | .reelOpen s a => some (32, (encR s 0x30 0 a 0 (0#5)).toNat)
  | .reelShut s => some (32, (encR s 0x31 0 0 0 (0#5)).toNat)
  | .reelPlay s a => some (32, (encR s 0x32 0 a 0 (0#5)).toNat)
  | .reelDrop s a => some (32, (encR s 0x33 0 a 0 (0#5)).toNat)
  | .strBind s a b n => some (32, (encR s 0x34 0 a b (0#3 ++ n)).toNat)
  | .strSel s n => some (32, (encR s 0x35 0 0 0 (0#3 ++ n)).toNat)
  | .strFree s n => some (32, (encR s 0x36 0 0 0 (0#3 ++ n)).toNat)
  | .maskRd s d a which => some (32, (encR s 0x38 d a 0 (0#3 ++ which)).toNat)
  | .maskWr s a b => some (32, (encR s 0x39 0 a b (0#5)).toNat)
  | .parkReplay s a b => some (32, (encR s 0x3A 0 a b (0#5)).toNat)
  | .unpark s a b kill => some (32, (encR s 0x3B 0 a b (0#4 ++ flag kill)).toNat)
  | .launch s d a b => some (32, (encR s 0x3C d a b (0#5)).toNat)
  | .gatom s d a b op => some (32, (encR s 0x3D d a b (0#1 ++ op)).toNat)
  | .pinSet s d a b fill kind => some (32, (encR s 0x3E d a b (0#3 ++ flag fill ++ flag kind)).toNat)
  | .pinClr s d a => some (32, (encR s 0x3F d a 0 (0#5)).toNat)
  | .addi s d a imm => some (32, (encI s 0x00 d a imm).toNat)
  | .andi s d a imm => some (32, (encI s 0x01 d a imm).toNat)
  | .ori s d a imm => some (32, (encI s 0x02 d a imm).toNat)
  | .xori s d a imm => some (32, (encI s 0x03 d a imm).toNat)
  | .shli s d a cnt => some (32, (encI s 0x04 d a (0#5 ++ cnt)).toNat)
  | .shri s d a cnt => some (32, (encI s 0x05 d a (0#5 ++ cnt)).toNat)
  | .sari s d a cnt => some (32, (encI s 0x06 d a (0#5 ++ cnt)).toNat)
  | .slti s d a imm => some (32, (encI s 0x07 d a imm).toNat)
  | .movi s d imm => some (32, (encI s 0x08 d 0 imm).toNat)
  | .insh s d imm => some (32, (encI s 0x09 d 0 imm).toNat)
  | .sltiu s d a imm => some (32, (encI s 0x0A d a imm).toNat)
  | .srd s d num => some (32, (encI s 0x1C d 0 num).toNat)
  | .swr s a num => some (32, (encI s 0x1D 0 a num).toNat)
  | .pft s a imm => some (32, (encI s 0x1E 0 a imm).toNat)
  | .addiLong s d a ext imm => some (64, (encL (encP s ext) (encI false 0x00 d a imm)).toNat)
  | .andiLong s d a ext imm => some (64, (encL (encP s ext) (encI false 0x01 d a imm)).toNat)
  | .oriLong s d a ext imm => some (64, (encL (encP s ext) (encI false 0x02 d a imm)).toNat)
  | .xoriLong s d a ext imm => some (64, (encL (encP s ext) (encI false 0x03 d a imm)).toNat)
  | .sltiLong s d a ext imm => some (64, (encL (encP s ext) (encI false 0x07 d a imm)).toNat)
  | .sltiuLong s d a ext imm => some (64, (encL (encP s ext) (encI false 0x0A d a imm)).toNat)
  | .moviLong s d ext imm => some (64, (encL (encP s ext) (encI false 0x08 d 0 imm)).toNat)
  | .inshLong s d ext imm => some (64, (encL (encP s ext) (encI false 0x09 d 0 imm)).toNat)
  | .pftLong s a ext imm => some (64, (encL (encP s ext) (encI false 0x1E 0 a imm)).toNat)
  | .ldgN8 s d a pri na off => some (32, (encM s 0x10 d a pri na 0 off).toNat)
  | .ldgS8 s d a pri na off => some (32, (encM s 0x11 d a pri na 0 off).toNat)
  | .ldgN16 s d a pri na off => some (32, (encM s 0x12 d a pri na 0 off).toNat)
  | .ldgS16 s d a pri na off => some (32, (encM s 0x13 d a pri na 0 off).toNat)
  | .ldgN32 s d a pri na off => some (32, (encM s 0x14 d a pri na 0 off).toNat)
  | .ldgS32 s d a pri na off => some (32, (encM s 0x15 d a pri na 0 off).toNat)
  | .ldgB64 s d a pri na off => some (32, (encM s 0x16 d a pri na 0 off).toNat)
  | .stgB8 s d a pri na scope off => some (32, (encM s 0x18 d a pri na scope off).toNat)
  | .stgB16 s d a pri na scope off => some (32, (encM s 0x19 d a pri na scope off).toNat)
  | .stgB32 s d a pri na scope off => some (32, (encM s 0x1A d a pri na scope off).toNat)
  | .stgB64 s d a pri na scope off => some (32, (encM s 0x1B d a pri na scope off).toNat)
  | .ldgN8Long s d a ext pri na off => some (64, (encL (encP s ext) (encM false 0x10 d a pri na 0 off)).toNat)
  | .ldgS8Long s d a ext pri na off => some (64, (encL (encP s ext) (encM false 0x11 d a pri na 0 off)).toNat)
  | .ldgN16Long s d a ext pri na off => some (64, (encL (encP s ext) (encM false 0x12 d a pri na 0 off)).toNat)
  | .ldgS16Long s d a ext pri na off => some (64, (encL (encP s ext) (encM false 0x13 d a pri na 0 off)).toNat)
  | .ldgN32Long s d a ext pri na off => some (64, (encL (encP s ext) (encM false 0x14 d a pri na 0 off)).toNat)
  | .ldgS32Long s d a ext pri na off => some (64, (encL (encP s ext) (encM false 0x15 d a pri na 0 off)).toNat)
  | .ldgB64Long s d a ext pri na off => some (64, (encL (encP s ext) (encM false 0x16 d a pri na 0 off)).toNat)
  | .stgB8Long s d a ext pri na scope off => some (64, (encL (encP s ext) (encM false 0x18 d a pri na scope off)).toNat)
  | .stgB16Long s d a ext pri na scope off => some (64, (encL (encP s ext) (encM false 0x19 d a pri na scope off)).toNat)
  | .stgB32Long s d a ext pri na scope off => some (64, (encL (encP s ext) (encM false 0x1A d a pri na scope off)).toNat)
  | .stgB64Long s d a ext pri na scope off => some (64, (encL (encP s ext) (encM false 0x1B d a pri na scope off)).toNat)
  | .beq s a b off => some (32, (encB s 0x00 a b off).toNat)
  | .bne s a b off => some (32, (encB s 0x01 a b off).toNat)
  | .blt s a b off => some (32, (encB s 0x02 a b off).toNat)
  | .bge s a b off => some (32, (encB s 0x03 a b off).toNat)
  | .bltu s a b off => some (32, (encB s 0x04 a b off).toNat)
  | .bgeu s a b off => some (32, (encB s 0x05 a b off).toNat)
  | .jmp s off => some (32, (encJ s 0x20 off).toNat)
  | .call s off => some (32, (encJ s 0x21 off).toNat)
  | .laneWordEmit _ => none
  | .runStart _ _ => none
  | .iadd x => some (64, (encLane 0x000 x).toNat)
  | .isub x => some (64, (encLane 0x001 x).toNat)
  | .imul x => some (64, (encLane 0x002 x).toNat)
  | .imulh x => some (64, (encLane 0x003 x).toNat)
  | .imad x => some (64, (encLane 0x004 x).toNat)
  | .imin x => some (64, (encLane 0x005 x).toNat)
  | .imax x => some (64, (encLane 0x006 x).toNat)
  | .iabs x => some (64, (encLane 0x007 x).toNat)
  | .andLane x => some (64, (encLane 0x008 x).toNat)
  | .orLane x => some (64, (encLane 0x009 x).toNat)
  | .xorLane x => some (64, (encLane 0x00A x).toNat)
  | .notLane x => some (64, (encLane 0x00B x).toNat)
  | .shlLane x => some (64, (encLane 0x00C x).toNat)
  | .shrLane x => some (64, (encLane 0x00D x).toNat)
  | .rotl x => some (64, (encLane 0x00E x).toNat)
  | .bfe x => some (64, (encLane 0x00F x).toNat)
  | .bfi x => some (64, (encLane 0x010 x).toNat)
  | .popcLane x => some (64, (encLane 0x011 x).toNat)
  | .clzLane x => some (64, (encLane 0x012 x).toNat)
  | .brev x => some (64, (encLane 0x013 x).toNat)
  | .movLane x => some (64, (encLane 0x014 x).toNat)
  | .iadd3 x => some (64, (encLane 0x015 x).toNat)
  | .isad x => some (64, (encLane 0x016 x).toNat)
  | .imulw x => some (64, (encLane 0x018 x).toNat)
  | .imadw x => some (64, (encLane 0x019 x).toNat)
  | .idp4 x => some (64, (encLane 0x01A x).toNat)
  | .idp2 x => some (64, (encLane 0x01B x).toNat)
  | .fadd x => some (64, (encLane 0x080 x).toNat)
  | .fsub x => some (64, (encLane 0x081 x).toNat)
  | .fmul x => some (64, (encLane 0x082 x).toNat)
  | .ffma x => some (64, (encLane 0x083 x).toNat)
  | .fmin x => some (64, (encLane 0x084 x).toNat)
  | .fmax x => some (64, (encLane 0x085 x).toNat)
  | .fabs x => some (64, (encLane 0x086 x).toNat)
  | .fneg x => some (64, (encLane 0x087 x).toNat)
  | .fdp2 x => some (64, (encLane 0x088 x).toNat)
  | .fdp4 x => some (64, (encLane 0x089 x).toNat)
  | .frnd x => some (64, (encLane 0x08A x).toNat)
  | .cvt x => some (64, (encLane 0x100 x).toNat)
  | .cvts x => some (64, (encLane 0x101 x).toNat)
  | .cbd x => some (64, (encLane 0x102 x).toNat)
  | .pack x => some (64, (encLane 0x103 x).toNat)
  | .unpk x => some (64, (encLane 0x104 x).toNat)
  | .icmp x => some (64, (encLane 0x180 x).toNat)
  | .fcmp x => some (64, (encLane 0x181 x).toNat)
  | .plop x => some (64, (encLane 0x182 x).toNat)
  | .pmov x => some (64, (encLane 0x183 x).toNat)
  | .sel x => some (64, (encLane 0x184 x).toNat)
  | .lexit x => some (64, (encLane 0x185 x).toNat)
  | .nop x => some (64, (encLane 0x186 x).toNat)
  | .rcp x => some (64, (encLane 0x188 x).toNat)
  | .rsq x => some (64, (encLane 0x189 x).toNat)
  | .sqrt x => some (64, (encLane 0x18A x).toNat)
  | .exp2 x => some (64, (encLane 0x18B x).toNat)
  | .log2 x => some (64, (encLane 0x18C x).toNat)
  | .sin x => some (64, (encLane 0x18D x).toNat)
  | .cos x => some (64, (encLane 0x18E x).toNat)
  | .cte x => some (64, (encLane 0x190 x).toNat)
  | .ctld x => some (64, (encLane 0x191 x).toNat)
  | .curveTableLoadFinish _ _ _ => none
  | .shfl x => some (64, (encLane 0x200 x).toNat)
  | .vote x => some (64, (encLane 0x201 x).toNat)
  | .ballot x => some (64, (encLane 0x202 x).toNat)
  | .reduce x => some (64, (encLane 0x203 x).toNat)
  | .scan x => some (64, (encLane 0x204 x).toNat)
  | .bcast x => some (64, (encLane 0x205 x).toNat)
  | .regroup x => some (64, (encLane 0x206 x).toNat)
  | .uni x => some (64, (encLane 0x207 x).toNat)
  | .ld x => some (64, (encLane 0x280 x).toNat)
  | .st x => some (64, (encLane 0x281 x).toNat)
  | .ldt x => some (64, (encLane 0x282 x).toNat)
  | .ldb x => some (64, (encLane 0x283 x).toNat)
  | .atom x => some (64, (encLane 0x284 x).toNat)
  | .red x => some (64, (encLane 0x285 x).toNat)
  | .lfence x => some (64, (encLane 0x286 x).toNat)
  | .stashMap x => some (64, (encLane 0x288 x).toNat)
  | .stashFlush x => some (64, (encLane 0x289 x).toNat)
  | .stashDrop x => some (64, (encLane 0x28A x).toNat)
  | .cp x => some (64, (encLane 0x300 x).toNat)
  | .cp2d x => some (64, (encLane 0x301 x).toNat)
  | .cpt x => some (64, (encLane 0x302 x).toNat)
  | .cpg x => some (64, (encLane 0x303 x).toNat)
  | .cpset x => some (64, (encLane 0x304 x).toNat)
  | .qfence x => some (64, (encLane 0x305 x).toNat)
  | .copyChunkStart _ _ => none
  | .copyChunkWrite _ _ => none
  | .copyChunkLand _ _ => none
  | .copyChunkFault _ _ => none
  | .mm x => some (64, (encLane 0x308 x).toNat)
  | .mmy x => some (64, (encLane 0x309 x).toNat)
  | .mzero x => some (64, (encLane 0x30A x).toNat)
  | .mcbt x => some (64, (encLane 0x30B x).toNat)
  | .codebookLoadFinish _ _ => none
  | .yokeLatchComplete _ _ => none
  | .matrixEntryStart _ => none
  | .matrixRetirement _ _ _ => none
  | .taWin x => some (64, (encLane 0x310 x).toNat)
  | .taDly x => some (64, (encLane 0x311 x).toNat)
  | .taMode x => some (64, (encLane 0x312 x).toNat)
  | .taGo x => some (64, (encLane 0x313 x).toNat)
  | .taCapt x => some (64, (encLane 0x314 x).toNat)
  | .taClr x => some (64, (encLane 0x315 x).toNat)
  | .taEntryStart _ => none
  | .taWindowEnd _ _ => none
  | .lwait x => some (64, (encLane 0x318 x).toNat)
  | .larr x => some (64, (encLane 0x319 x).toNat)
  | .trl x => some (64, (encLane 0x380 x).toNat)
  | .idiv x => some (64, (encLane 0x3C0 x).toNat)
  | .irem x => some (64, (encLane 0x3C1 x).toNat)
  | .fdiv x => some (64, (encLane 0x3C2 x).toNat)
  | .variableResultLand _ => none
  | .generatorResultArrival _ _ _ _ => none
  | .voteEntryPresent _ _ _ => none
  | .uniResultArrival _ _ _ _ => none
  | .reelPlayFeed _ _ _ _ => none
  | .boundaryTrap _ _ _ => none
  | .threadEnd _ _ _ => none
  | .tableWalk _ _ _ => none
  | .leaseGrant _ _ _ => none
  | .leaseExpiry _ _ => none
  | .homeWritePerform _ => none
  | .stashOwnershipGrant _ _ => none
  | .sectorFillLand _ _ => none
  | .stashRecall _ => none
  | .updateOnlyGrant _ _ _ => none
  | .updateOnlyCombine _ => none
  | .hostCxlMemAccess _ _ _ _ => none
  | .cxlCacheSnoop _ => none
  | .cxlerr _ => none
  | .cxlCompletionTimeout _ => none
  | .instructionFill _ _ _ => none
  | .pftTargetFill _ _ => none
  | .pinRehome _ _ _ => none
  | .pinClrWriteback _ _ _ => none
  | .inval _ _ _ => none
  | .invalAll _ _ _ => none
  | .migrate _ _ _ => none
  | .biasHost _ _ _ => none
  | .biasDev _ _ _ => none
  | .xlcmdFinish _ => none
  | .ttbaseWrite _ _ => none
  | .cqctlAbort _ _ => none
  | .cqctlResume _ _ => none
  | .deferredStageOperation _ _ _ => none
  | .barWaitTimeout _ _ _ => none
  | .bardoor _ _ => none
  | .watchdogReport _ => none
  | .load _ => none
  | .unload _ => none
  | .recordParse _ => none
  | .placementStep => none
  | .headAgeTick => none
  | .flockEnd _ => none
  | .voltageRampReachesTarget _ => none
  | .tokenFlitInject _ => none
  | .spendWindowRollover _ => none
  | .claimPost _ => none
  | .ashareWrite _ _ => none
  | .thallowUpdate _ _ => none
  | .sensorSample _ _ _ _ => none
  | .bankRefresh _ _ => none
  | .droopDetect _ => none
  | .droopRecovery _ => none
  | .coreRailClamp => none
  | .clampFloorEnd => none
  | .junctionTrip _ => none
  | .firmwareHeartbeatMiss => none
  | .preempt _ => none
  | .clear _ => none
  | .preemptionHalt _ => none
  | .sampleRecord _ => none
  | .stop _ => none
  | .dbgctlResume _ => none
  | .debugStop _ _ _ => none
  | .checkScoreboardStop _ _ _ => none
  | .dbgdataWrite _ _ => none
  | .srseedWrite _ _ => none
  | .exmaskWrite _ _ => none
  | .leaseWrite _ _ => none
  | .sampctlWrite _ _ => none
  | .registerWrite _ _ _ => none
  | .packageReset => none
  | .railsInRegulation => none
  | .firstConfigAccess => none
  | .controllerRamWrite _ _ => none
  | .start => none
  | .firmwareStartTimeout => none
  | .train => none
  | .trainComplete _ => none
  | .release => none
  | .haltfw => none
  | .illegalInstruction _ => none
  | .contextCreation _ _ => none
  | .clockStepDown _ => none

end Sys2Proof
end

