-- ==== Sys2Proof/Machine/State.lean ====
section
/-! DEFINITION. The state of the BX9 as plain data, with State.reset (R8: package reset). Tables are
keyed by the numbers the spec uses; a missing key has the reset value that INVENTORY.md gives. -/

namespace Sys2Proof.Machine

/-! ## Names and codes -/

/-- A generator thread: flock, flock cluster index, thread number (R324). -/
structure Tid where
  fid : Nat
  clu : Nat
  t : Nat
  deriving DecidableEq, Repr, Inhabited

/-- The trap causes of R422. -/
inductive Cause where
  | illegal | role | mask | run | stream | priv | soft | double | align
  | noncanon | notmapped | prot | pteRsv | phys | localrange | cxlerr | uncorr | lanefault
  | cparg | cpdesc | copyfault | pftdesc | lsarg | stasharg | stashfull | ctarg | mmarg | yoke | matrixfault
  | taarg | tafault | atomarg | regroup | strarg | reelarg | reelstate | reelfull | vqfull | vqempty
  | unidiff | bararg | barstate | bargen | barkind | barover
  deriving DecidableEq, Repr, Inhabited

/-- A role (R20, R324). -/
inductive Role where
  | copy | matrix | vector
  deriving DecidableEq, Repr, Inhabited

/-- Whether a thread runs, has executed GEXIT, has ended, or is halted by a context fault (R332, R334). -/
inductive TStatus where
  | running | exited | ended | halted
  deriving DecidableEq, Repr, Inhabited

/-- Release horizons by the scope that a release asks for: .cl, .die, .pkg and wider (R306, R310);
the acquire horizon (R310). -/
structure Horizon where
  cl : Nat
  die : Nat
  pkg : Nat
  acq : Nat
  deriving DecidableEq, Repr, Inhabited

/-- The GWCT of a write in the three classes of R306: .cl and lane, .quad and .die, .pkg and wider. -/
structure Gwct where
  cl : Nat
  die : Nat
  pkg : Nat
  deriving DecidableEq, Repr, Inhabited

/-- The words of a stream below a sequence number, as a fence or a stage word covers them (R312, R381). -/
structure Mark where
  str : Nat
  seq : Nat
  deriving DecidableEq, Repr, Inhabited

/-! ## Emitted words, runs and streams -/

/-- An emitted lane word: its bits, its uniform operands A, B and C (R15), its sequence number (R342),
the YOKE value it carries (R259), and the bank it captured on each member (R232, R258). -/
structure EWord where
  w : BitVec 64
  ua : Uniform
  ub : Uniform
  uc : Uniform
  seq : Nat
  yoke : Nat
  banks : Table Nat Nat
  deriving DecidableEq, Repr, Inhabited

/-- A closed run: its number in the stream, its words, its trailer, and the order in which its first
word entered the buffers (R40, R414). -/
structure Run where
  idx : Nat
  words : List EWord
  trl : BitVec 64
  born : Nat
  deriving DecidableEq, Repr, Inhabited

/-- A queued reel play: the reel's words as they stood, the values its holes were bound to, and the
next word to feed (R352, R359); `ready` says that its words have arrived in the reel cache or are fed directly from
the store (R349). -/
structure Play where
  num : Nat
  words : List (BitVec 64)
  bind : List (Nat × Word64)
  pos : Nat
  yoke : Nat
  ready : Bool
  deriving DecidableEq, Repr, Inhabited

/-- What the groups of a member have found of a word that acts once per cluster (R483): the slots that
have issued it, whether some lane was active, whether every group was full, the active masks, and, for an LWAIT whose
hold has ended, the horizon of its acquire (R376). -/
structure CIssue where
  slots : Nat
  active : Bool
  full : Bool
  done : Bool
  inputs : List Byte
  masks : List (Nat × Nat)
  acq : Option Nat
  deriving DecidableEq, Repr, Inhabited

/-- A stream of a generator thread (R342); `bind` numbers its binding. `acqs` lists the acquiring words that have issued and
whose acquire is not made yet: member, sequence number, scope and the greatest CT that has returned (R311). `masks` lists
the MASK.WRs not yet in effect: the place among the runs, the member and slot, the value, and the turn in which it was
placed (R358). `owedArr` lists lanes that an LARR has brought behind an LFENCE which their cluster has not made: member,
slot, sequence number of the LARR, handle and lanes (R310, R377). `checkStops` holds the numbers of the runs for which the
checking scoreboard has asked its one stop (R449). -/
structure Stream where
  bind : Nat
  gmask : Nat
  cmask : Nat
  seq : Nat
  nextRun : Nat
  openRun : List EWord
  openBorn : Nat
  runs : List Run
  prog : Table (Nat × Nat) Nat
  plays : List Play
  playRun : List EWord
  hor : Table Nat Horizon
  cissue : Table (Nat × Nat) CIssue
  masks : List (Nat × Nat × Nat × Nat)
  parked : List (Nat × Nat × Nat)
  acqs : List (Nat × Nat × Nat × Nat)
  owedArr : List (Nat × Nat × Nat × Nat × Nat)
  checkStops : List Nat
  deriving DecidableEq, Repr, Inhabited

/-- A vote entry (R354), with what has been counted so far and the (member, slot) pairs that have not
issued the VOTE (R242, R243). `popped` says that a VQ.POP has removed it and its register waits for it (R355). -/
structure VoteEnt where
  str : Nat
  seq : Nat
  op : Nat
  members : Nat
  need : List (Nat × Nat)
  ones : Nat
  zeros : Nat
  present : Bool
  popped : Bool
  deriving DecidableEq, Repr, Inhabited

/-- What a generator register waits for (R320). -/
inductive Pend where
  /-- A value that is on its way. -/
  | value (v : Word64)
  /-- The pending access of this number (LDG, GATOM). -/
  | mem (id : Nat)
  /-- A mask read of a slot, after the words of a stream below a sequence number (MASK.RD), which executed in turn `k`. -/
  | maskRd (which slot : Nat) (m : Mark) (k : Nat)
  /-- The vote entry of a stream and sequence number, which a VQ.POP has removed. -/
  | vote (str seq : Nat)
  /-- The UNI of a stream and sequence number: its word, the bound (member, slot) pairs, those still to issue, and (member, slot,
  lane, value) seen. -/
  | uni (str seq : Nat) (word : EWord) (all need : List (Nat × Nat)) (seen : List (Nat × Nat × Nat × Nat))
  deriving DecidableEq, Repr, Inhabited

/-- A generator register that is outstanding (R320). -/
structure OutReg where
  reg : Nat
  pend : Pend
  deriving DecidableEq, Repr, Inhabited

/-- A boundary trap that is held (R423). `after` is the device time that its delivery waits for (R429). -/
structure HeldTrap where
  cause : Cause
  tval : Word64
  after : Nat
  deriving DecidableEq, Repr, Inhabited

/-- A deferred stage arrival or release (R381): slot, whether it is a release, the words it waits for, the scope of
the release horizon, and that horizon for those words alone. -/
structure Deferred where
  clu : Nat
  slot : Nat
  release : Bool
  marks : List Mark
  scope : Nat
  hor : Horizon
  deriving DecidableEq, Repr, Inhabited

/-- A thread's wait on a barrier: handle, phase, timeout in ns and destination (R373), the word as its trap reports it,
and, once the wait has ended, what goes to the destination and the horizon of the acquire. For a wait in a stage ring
the phase is 2^16, which no phase is, and the timeout and the destination are 0 (R378). -/
structure BarWait where
  h : Nat
  p : Nat
  timeout : Nat
  d : Nat
  word : Word64
  out : Option (Nat × Nat)
  deriving DecidableEq, Repr, Inhabited

/-- What a stalled generator instruction remembers between its turns: the moment (ps) at which it began,
the words it covers (R312, R373), and the barrier handle it waits on, if any. -/
structure Wait where
  t0 : Nat
  marks : List Mark
  bar : Option BarWait
  deriving DecidableEq, Repr, Inhabited

/-- Why a thread is stopped for debugging (R447, R448). -/
structure DbgStop where
  reason : Nat
  bp : Nat
  seq : Nat
  deriving DecidableEq, Repr, Inhabited

/-- A generator thread (R319, R324, R342, R354). `wait` is what a stalled instruction remembers; `acqOp` the
GATOM whose acquire part holds later accesses, with its scope (R295); `hostOp` the host-window access that
the thread waits at, with the length of its parcel (R428); `popAt` the parcel of a VQ.POP that waits for its entry, while nothing
has executed after it (R355); `stopNext` the word for which the checking scoreboard asks a stop (R449); `resumed`
that the thread has left a debug stop and executed nothing since (R447); `ord` the last safe point (R443); `ran` that it has
issued since its start, and `tried` the moment (ps) of its latest turn to issue (R321). -/
structure Thread where
  pc : Word64
  g : Table Nat Word64
  tpc : Word64
  tcause : Nat
  tval : Word64
  intrap : Bool
  tvec : Word64
  tscr : Word64
  yoke : Nat
  role : Role
  status : TStatus
  held : List HeldTrap
  out : List OutReg
  streams : Table Nat Stream
  current : Option Nat
  votes : List VoteEnt
  capture : Option (Nat × List (BitVec 64))
  deferred : List Deferred
  hor : Horizon
  wait : Option Wait
  stopReq : Bool
  stopped : Option DbgStop
  stopNext : Option Nat
  resumed : Bool
  ord : Nat
  acqOp : Option (Nat × Nat)
  hostOp : Option (Nat × Nat)
  popAt : Option Word64
  lastIssue : Nat
  ran : Bool
  tried : Option Nat
  haltCause : Nat
  deriving DecidableEq, Repr, Inhabited

/-! ## Lane groups -/

/-- A variable-latency result that is outstanding in a lane-group slot (R42): register, lanes still to
land, the word (thread, stream, sequence number) that will write it, and whether a trailer named it. -/
structure OutLane where
  reg : Nat
  span : Nat
  lanes : Nat
  tid : Tid
  str : Nat
  seq : Nat
  named : Bool
  deriving DecidableEq, Repr, Inhabited

/-- A park record (R424): `base` is the run position of its first word; the words from the first
faulting one to the trailer with their active sets at first issue, the resume position of each lane, the position from
which it has skipped the words, the run temporaries of the parked lanes, whether a replay runs, and how
many are queued or running (R426). -/
structure ParkRec where
  tid : Tid
  str : Nat
  first : Nat
  base : Nat
  words : List (EWord × Nat × Bool)
  resume : Table Nat Nat
  since : Table Nat Nat
  trl : BitVec 64
  w : List (List (Option Word32))
  replaying : Bool
  queued : Nat
  deriving DecidableEq, Repr, Inhabited

/-- A fixed-latency write in flight on a pipe: what it writes (register code, or 256 + n for predicate n,
or 300 for EXMASK) and in which lanes, when it lands (ps), and the value it replaces (R39). -/
structure FixWrite where
  code : Nat
  mask : Nat
  lands : Nat
  old : Row
  seq : Nat
  deriving DecidableEq, Repr, Inhabited

/-- A lane-group slot of a flock member (R196, R357); `fixEnd` is when the last fixed-latency write of an
ended run lands (R198), `exWas` the moment (ps) of the latest SWR to its EXMASK and the value before it, which a word of
the same cycle still sees (R358), `tail` the fixed-latency writes of its last run and the captures that it has taken
(R198, R235). -/
structure Group where
  v : Table Nat Row
  p : Table Nat Nat
  ex : Nat
  exWas : Option (Nat × Nat)
  park : Nat
  exit : Nat
  prec : Option ParkRec
  out : List OutLane
  fixEnd : Nat
  tail : List FixWrite
  deriving DecidableEq, Repr, Inhabited

/-- A run that a pipe may take: thread, stream, slot, number, and whether it is a replay (R414). -/
structure ReadyKey where
  tid : Tid
  str : Nat
  slot : Nat
  idx : Nat
  replay : Bool
  deriving DecidableEq, Repr, Inhabited

/-- A run on a pipe (R17): the words, the next one, the earliest moment of its issue, the run temporaries
and the writes in flight; `acts` records the active set of each word that has issued. In a replay, `faultRec`
is the first record of a lane that faulted again, with the device time that the trap waits for, and `lost` holds such
lanes (R426); `checked` says that the
checking scoreboard has asked for its one stop (R449); `denied` is the age and the debit of a cut run's denied word
(R420). -/
structure PipeRun where
  tid : Tid
  str : Nat
  slot : Nat
  run : Run
  pos : Nat
  ready : Nat
  w : List (List (Option Word32))
  fix : List FixWrite
  acts : List (Nat × Bool)
  replay : Bool
  faultRec : Option (Nat × Nat)
  lost : Nat
  checked : Bool
  denied : Option (Nat × Nat)
  deriving DecidableEq, Repr, Inhabited

/-! ## Accesses in flight -/

/-- Where an access goes: a physical address with the virtual address it came from, or a byte of a flock
member's local SRAM (R122, R146). -/
inductive Place where
  | glob (va pa : Nat)
  | loc (clu off : Nat) (va pa : Nat) (mapped : Bool)
  deriving DecidableEq, Repr, Inhabited

/-- What an access does with the value it reads. -/
inductive Dest where
  | none
  /-- Lane register(s) of one lane, by the width code of R48. -/
  | lane (slot lane reg width : Nat)
  /-- The same registers of every lane of a mask (LDB, R150). -/
  | bcast (slot mask reg width : Nat)
  /-- Bytes `pos` onward of row `row` of an LDT tile of `e`-byte elements (R151). -/
  | tile (slot mask reg e row pos : Nat)
  /-- A generator register, sign-extended from a width in bytes, or zero-extended. -/
  | gen (reg : Nat) (sext : Bool)
  /-- A generator register pair (128-bit GATOM). -/
  | genPair (reg : Nat)
  deriving DecidableEq, Repr, Inhabited

/-- What an access does to its bytes. `gather` marks a RED that may gather update-only (R296). -/
inductive Deed where
  | load
  | store (data : Nat)
  | atomic (op : Nat) (v cmp : Nat) (gather : Bool)
  deriving DecidableEq, Repr, Inhabited

/-- An access that has issued and has not yet performed and returned (R152, R301, R313, R329). -/
structure MemOp where
  id : Nat
  tid : Tid
  ctx : Nat
  pid : Nat
  str : Option Nat
  /-- The binding of its stream, in the order of the STR.BINDs. -/
  bind : Nat
  seq : Nat
  pos : Nat
  slot : Nat
  lane : Nat
  place : Place
  n : Nat
  deed : Deed
  dest : Dest
  pri : Nat
  na : Bool
  scope : Nat
  acq : Bool
  /-- Once the write is made but its completion time is not known yet (OT or UT awaited): when. -/
  made : Option Nat
  /-- The word, for a fault record (R430). -/
  word : EWord
  /-- What the byte at a distance held before a write that raced this read under a pending fill (R157). -/
  alt : List (Nat × Byte)
  /-- The GWCT of a made write, from the moment at which the grant, the refusal or the end of its sector or line
  settles it (R159, R298, R307). -/
  gw : Option Gwct
  /-- The bytes of a read that has performed and that some lanes of its destination have still to take (R42, R235). -/
  got : Option (List Byte)
  deriving DecidableEq, Repr, Inhabited

/-! ## Cluster memories and engines -/

/-- One sector of an L1 line: data bytes, lease expiry (ns), grant time, CT of the fill, and, while a
fill is pending, the bytes that writes have touched; `granted` tells whether the home has granted it. -/
structure L1Sector where
  data : List Byte
  expiry : Nat
  grant : Nat
  ct : Nat
  pending : Bool
  granted : Bool
  touched : Nat
  ns : Nat
  deriving DecidableEq, Repr, Inhabited

/-- An update-only line (R297): operation, width in bytes, gathered values and touched bits, UT, and the
requester of R453. -/
structure UoLine where
  op : Nat
  width : Nat
  vals : Table Nat Nat
  ut : Option Nat
  refused : Bool
  req : Nat
  deriving DecidableEq, Repr, Inhabited

/-- A line of the L1, tagged by physical address (R153). The list order is the order of use. -/
structure L1Line where
  line : Nat
  pri : Nat
  sectors : Table Nat L1Sector
  uo : Option UoLine
  deriving DecidableEq, Repr, Inhabited

/-- A line of an L2 slice (R96, R104): its valid and dirty sectors and those whose fill is pending (R155), as masks
of eight; the list order is the order of use. -/
structure L2Line where
  line : Nat
  pri : Nat
  valid : Nat
  dirty : Nat
  pend : Nat
  deriving DecidableEq, Repr, Inhabited

/-- A line held in a pinned bank (R107): its offset in the window's bank, and its sectors as in an `L2Line`. -/
structure PinLine where
  line : Nat
  off : Nat
  valid : Nat
  dirty : Nat
  pend : Nat
  deriving DecidableEq, Repr, Inhabited

/-- The state of a sector of a stash entry (R158, R159). -/
inductive StashSt where
  | unfilled
  | pending (pa : Nat) (ot : Option Nat) (touched : Nat)
  | clean (pa ot : Nat)
  | dirty (pa ot touched : Nat)
  deriving DecidableEq, Repr, Inhabited

/-- A stash entry (R158). -/
structure StashEnt where
  fid : Nat
  clu : Nat
  va : Nat
  len : Nat
  off : Nat
  sectors : Table Nat StashSt
  deriving DecidableEq, Repr, Inhabited

/-- A cached leaf: level, first address, physical page, and the bits X, W, Rd, D (R82). -/
structure TlbEnt where
  ctx : Nat
  level : Nat
  va : Nat
  pa : Nat
  x : Bool
  w : Bool
  rd : Bool
  d : Bool
  entry : Nat
  deriving DecidableEq, Repr, Inhabited

/-- An instruction-cache line, tagged by context and VA (R336); the list order is the order of use. -/
structure IcLine where
  ctx : Nat
  va : Nat
  data : List Byte
  deriving DecidableEq, Repr, Inhabited

/-- What an access needs of a leaf (R79). -/
inductive Acc where
  | load | store | atomic | fetch
  deriving DecidableEq, Repr, Inhabited

/-- How far a chunk of a copy has come (R125, R140). -/
inductive ChunkSt where
  | started | writing | written
  deriving DecidableEq, Repr, Inhabited

/-- A page that a chunk has translated: VA page, for which access, and PA page (R125). -/
structure ChunkPage where
  va : Nat
  acc : Acc
  pa : Nat
  deriving DecidableEq, Repr, Inhabited

/-- Bytes that a chunk has merged into a stash sector before its grant: cluster, entry, sector, their physical address, the
moment (ns), and the class of the scope at which they land (R125, R159). -/
structure Owed where
  pid : Nat
  va : Nat
  sec : Nat
  pa : Nat
  t : Nat
  cls : Nat
  deriving DecidableEq, Repr, Inhabited

/-- A chunk of a copy (R125): its number, the source bytes that its reads have returned, its pages, the positions still
to be written, the CXL ports that have reserved room for it (R140), and what its landing waits for. -/
structure Chunk where
  k : Nat
  st : ChunkSt
  src : List (Option Byte)
  pages : List ChunkPage
  left : List Nat
  ports : List Nat
  gwct : Nat
  owed : List Owed
  deriving DecidableEq, Repr, Inhabited

/-- An entry of a copy queue (R119). A QFENCE entry holds its mask; `told` says that its fault has been reported (R137). -/
structure CopyEnt where
  id : Nat
  tid : Tid
  str : Nat
  word : EWord
  done : Nat
  chunks : List Chunk
  fault : Option (Nat × Cause × Nat × Nat)
  told : Bool
  list : Table Nat (Nat × Nat)
  deriving DecidableEq, Repr, Inhabited

/-- A copy queue: entries in order and the halted mark (R139). -/
structure CopyQ where
  ents : List CopyEnt
  halted : Bool
  deriving DecidableEq, Repr, Inhabited

/-- An entry of the matrix queue or of the array (R247, R262): the yoke operation it has matched in (R260),
whether it has paid, when it started (ps), the bytes taken as its operands, and whether another member of its
yoke found an error (R268). -/
structure MatEnt where
  tid : Tid
  str : Nat
  word : EWord
  paid : Bool
  yop : Option Nat
  start : Option Nat
  /-- The operand bytes: A, A's scales, B, B's scales, the tile. -/
  snap : List (List Byte)
  /-- The member and the word whose A is streamed: a yoke's lead (R260). -/
  lead : Nat × EWord
  peerErr : Bool
  deriving DecidableEq, Repr, Inhabited

/-- An entry of the temporal queue (R272), with the inputs of a TA.GO (R279), the active lanes of each group at
the issue of a TA.CAPT (R282), and, once it performs, its start (ps) and the bytes it has taken. -/
structure TaEnt where
  id : Nat
  tid : Tid
  str : Nat
  word : EWord
  inputs : List Byte
  masks : List (Nat × Nat)
  paid : Bool
  start : Option Nat
  snap : List Byte
  deriving DecidableEq, Repr, Inhabited

/-- The temporal array (R271); `lastRet` is when its latest entry retired (ps) (R283). -/
structure TArray where
  delay : List (List Nat)
  kinds : Nat
  loop : Bool
  window : Nat
  latch : List Nat
  ents : List TaEnt
  lastRet : Option Nat
  deriving DecidableEq, Repr, Inhabited

/-- A bank of a curve table (R229). -/
structure CurveBank where
  lo : Word32
  sh : Int
  coef : Table Nat (Word32 × Word32 × Word32)
  deriving DecidableEq, Repr, Inhabited

/-- A load of a bank in progress: its place among the loads of its bank, its start (ps), the bytes it read, the
descriptor of a curve table (R230, R232), and, while a codebook's bytes are still to be read, the reader: its thread,
stream, sequence and local offset (R258.3). -/
structure BankLoad where
  n : Nat
  t0 : Nat
  data : List Byte
  lo : Word32
  sh : Int
  src : Option (Tid × Nat × Nat × Nat)
  deriving DecidableEq, Repr, Inhabited

/-- A two-banked store (R229, R258): pointer; loads emitted to and finished in each bank; uses in flight, by
bank and by the number of loads emitted to it before their capture; loads in progress; and loads that have finished
before an earlier one of their bank, by bank and place. -/
structure BankCtl where
  ptr : Nat
  count : Table (Nat × Nat) Nat
  emitted : Table Nat Nat
  finished : Table Nat Nat
  loading : Table Nat BankLoad
  early : List (Nat × Nat)
  deriving DecidableEq, Repr, Inhabited

/-- A descriptor in the prefetch queue (R117): its 64 bytes, the thread, the next byte, and whether some
byte was dropped. A PIN.SET fill is queued in the same form. -/
structure PftEnt where
  id : Nat
  tid : Tid
  desc : List Byte
  pos : Nat
  dropped : Bool
  deriving DecidableEq, Repr, Inhabited

/-- A reel in a reel cache: the flock whose share it is in, its number, and its size in units of 256 bytes (R349). -/
structure ReelEnt where
  fid : Nat
  num : Nat
  size : Nat
  deriving DecidableEq, Repr, Inhabited

/-- A payer that was denied: who (0 matrix, 1 temporal, 2 + 2^32 q + chunk copy, 2^40 + pipe), its debit and
its age, the start (ps) of the cycle in which it first asked (R410). -/
structure Payer where
  who : Nat
  debit : Nat
  age : Nat
  deriving DecidableEq, Repr, Inhabited

/-- A posted claim (R415): amount still to be taken and the ring cycle in which it was posted. -/
structure Claim where
  amount : Nat
  cycle : Nat
  deriving DecidableEq, Repr, Inhabited

/-- The token purse of a cluster and what R410 to R421 keep beside it: `cut` is when a droop cut it off (ps), `retire`
the tokens that its station has still to retire after a resume (R420), `fresh` the latest credits with the ring cycle that
made each, and `pass` the cycle of the latest settlement (its start, ps) with the age and the name of the last payer that it
has served (R410). -/
structure Purse where
  tokens : Nat
  payers : List Payer
  windowStart : Nat
  spend : Nat
  lastSpend : Nat
  lastLimit : Nat
  limit : Nat
  starved : Nat
  claim : Option Claim
  cut : Option Nat
  retire : Nat
  fresh : List (Nat × Nat)
  pass : Option (Nat × Nat × Nat)
  deriving DecidableEq, Repr, Inhabited

/-- One cluster, by physical identifier (R11, R14). `retired` holds retired instances of a yoke operation that
other members still have in their arrays (R268), `pipeNext` the moment (ps) from which each pipe may
issue again, one word a cycle (R14), `cuts` the remainders of cut runs (R436), `ready` the moment
(ps) at which the issue arbiter found each ready run (R414), `owner` the context whose generator states it holds (R188), `tlb1` the first-level translation caches of its three
page sizes (R82), `pins` the lines in its slice's pinned banks (R107), `srNext` a seed written at a moment (ps), which takes effect after
that cycle (R188), `reels` its reel cache, the least recently played first (R349). -/
structure Cluster where
  owner : Option Nat
  wpb : Nat
  pinb : Nat
  plane : Mem
  planeDirty : List Nat
  icache : List IcLine
  tlb1 : List TlbEnt
  tlb : List TlbEnt
  nodes : List (Nat × Nat × Nat × Nat)
  l1 : List L1Line
  l2 : List L2Line
  pins : List PinLine
  stash : List StashEnt
  srSeed : Word32
  srNext : Option (Nat × Word32)
  sr : Table (Nat × Nat) Word32
  cq : Table Nat CopyQ
  mq : List MatEnt
  array : List MatEnt
  retired : List MatEnt
  codeTab : List (List Byte)
  code : BankCtl
  curves : Table (Nat × Nat) CurveBank
  curve : Table Nat BankCtl
  ta : TArray
  pft : List PftEnt
  pipes : Table Nat PipeRun
  pipeNext : Table Nat Nat
  cuts : List PipeRun
  ready : List (ReadyKey × Nat)
  purse : Purse
  reels : List ReelEnt
  sampleT : Nat
  deriving DecidableEq, Repr, Inhabited

/-! ## Contexts, flocks, queues, power -/

/-- A pin window (R105 to R114): who set it, base, length, kind, frames, target clusters, charge, the
state of its rehoming (0 installed and waiting, 1 in effect, 2 clearing), the plane offset, and whether the flock holds it as
part of a plane that it did not set it on (R398). -/
structure Window where
  fid : Nat
  die : Nat
  va : Nat
  len : Nat
  plane : Bool
  poff : Nat
  frames : List Nat
  targets : List Nat
  mask : Nat
  charge : Nat
  stage : Nat
  fill : Bool
  kept : Bool
  deriving DecidableEq, Repr, Inhabited

/-- A translation command in progress (R85 to R93): its arguments, the error it was refused with, the page P of a
migration and the leaf's address (R89), and the accesses that an INVAL drains (R87). The directory lock bits of R89
are set while a migration is in progress. -/
structure XlRun where
  op : Nat
  count : Nat
  size : Nat
  err : Nat
  arg0 : Nat
  arg1 : Nat
  oldPa : Nat
  entry : Nat
  drain : List Nat
  deriving DecidableEq, Repr, Inhabited

/-- A watched range (R452). -/
structure Watch where
  lines : Nat
  base : Nat
  en : Bool
  deriving DecidableEq, Repr, Inhabited

/-- One context and its register page. `hintAt` is when HINTDROP last counted (ps, R118). `ashare` holds the values of ASHARE.SHARE, newest first, each with the ring
cycle whose flit is the first to use it (R412). `wdLast` is the last progress (ps), `wdPause` since when its watchdog
does not count (R383, R447). -/
structure Ctx where
  priv : Bool
  root : Nat
  en : Bool
  xlmode : Bool
  xlarg0 : Word64
  xlarg1 : Word64
  xlseq : Nat
  xlerr : Nat
  xlovr : Bool
  xl : Option XlRun
  leaseNs : Nat
  hintdrop : Word64
  hintAt : Option Nat
  pincap : Word64
  pinuse : List Nat
  windows : List Window
  ashare : List (Nat × Nat)
  donEerr : Bool
  recErr : Bool
  doorErr : Bool
  wdLimit : Nat
  wdLast : Nat
  wdPause : Option Nat
  frBase : Nat
  frLog2 : Nat
  frHead : Nat
  aelHead : Nat
  waiters : Nat
  evt : Nat
  msix : Nat
  aelBase : Nat
  aelLog2 : Nat
  aelEn : Nat
  imgBase : Nat
  imgSlots : Nat
  imgHeld : List (Nat × Nat)
  sampIv : Nat
  sampBase : Nat
  sampLog2 : Nat
  sampHead : Nat
  sampLast : Table Nat Nat
  check : Bool
  dbgThreads : Nat
  bps : List Nat
  dbgClu : Nat
  dbgKind : Nat
  dbgThread : Nat
  dbgReg : Nat
  watch : List Watch
  alogBase : Nat
  alogLog2 : Nat
  alog : Table Nat (Nat × Option (Nat × Nat × Nat))
  reels : Table Nat (List (BitVec 64))
  deriving DecidableEq, Repr, Inhabited

/-- One slot of a flock member's barrier pool (R363). -/
structure BarSlot where
  gen : Nat
  used : Bool
  kind : Nat
  ext : Bool
  phase : Nat
  e0 : Nat
  e : Nat
  b0 : Nat
  b : Nat
  arr : Nat
  land : Nat
  scope : List (Nat × Nat)
  arrived : Table (Nat × Nat) Nat
  ec : Nat
  rels : Nat
  ring : Nat
  t : Nat
  deriving DecidableEq, Repr, Inhabited

/-- The fields of a launch record (R390), what its queue's descriptor gave it (R387), its record number, and a
number of its own. -/
structure Record where
  image : Nat
  reels : Nat
  done : Nat
  gx : Nat
  gy : Nat
  gz : Nat
  flock : Nat
  groups : Nat
  cls : Nat
  acc : Nat
  bars : Nat
  stash : Nat
  scratch : Nat
  wplane : Nat
  reelShare : Nat
  tokRate : Nat
  threads : List (Bool × Nat × Nat)
  args : List Word64
  tag : Nat
  num : Nat
  parsedAt : Nat
  prio : Nat
  ctx : Nat
  msix : Nat
  boot : Bool
  mask : List Nat
  serial : Nat
  deriving DecidableEq, Repr, Inhabited

/-- The engine state of a cluster that a pre-empted flock's image holds (R398, R420), with the generator states of the
flock's own slots by flock slot and lane (R184). -/
structure SavedClu where
  plane : Mem
  planeDirty : List Nat
  codeTab : List (List Byte)
  code : BankCtl
  curves : Table (Nat × Nat) CurveBank
  curve : Table Nat BankCtl
  ta : TArray
  purse : Purse
  stash : List StashEnt
  cq : Table Nat CopyQ
  mq : List MatEnt
  taEnts : List TaEnt
  pft : List PftEnt
  sr : Table (Nat × Nat) Word32
  cuts : List PipeRun
  deriving DecidableEq, Repr, Inhabited

/-- A flock (R21, R394 to R399). While it is pre-empted, `saved` holds its clusters' state, `windows` its pin windows
(R109), `image` its image slot (R438), and `ops` its accesses that wait for words still to issue, their clusters by flock
cluster index (R437). -/
structure Flock where
  ctx : Nat
  queue : Nat
  rcd : Record
  grid : Nat
  clus : List Nat
  slots : List (List Nat)
  resident : Bool
  ended : Bool
  faulted : Bool
  preReq : Bool
  placed : Nat
  bars : Table (Nat × Nat) BarSlot
  saved : List SavedClu
  windows : List Window
  image : Option Nat
  ops : List MemOp
  deriving DecidableEq, Repr, Inhabited

/-- A work queue (R386 to R389, R395, R400, R404). `placed` counts the head's flocks; `ends` the flocks of a record,
by its own number, that have ended, and whether one ended by a context fault (R392); `barred` says that the head's age has
reached its level's limit (R401). -/
structure Queue where
  loaded : Bool
  wbase : Nat
  log2n : Nat
  prio : Nat
  dev : Bool
  ctx : Nat
  msix : Nat
  mask : List Nat
  h : Nat
  t : Nat
  head : Option Record
  placed : Nat
  ends : Table Nat (Nat × Bool)
  blockedAt : Option Nat
  age : Nat
  barred : Bool
  deriving DecidableEq, Repr, Inhabited

/-- The controller of a quad's voltage domain (R406) and its temperature (R396): classes F and T, the voltage at the
moment `reqAt` (ps) from which it ramps, and a falling clock step with the moment at which it is done. -/
structure Quad where
  f : Nat
  t : Nat
  mv : Nat
  ramp : Bool
  reqAt : Nat
  stepAt : Option (Nat × Nat)
  temp : Nat
  deriving DecidableEq, Repr, Inhabited

/-- One die: THALLOW (R417), the ring's counts by hop and its next cycle (R408), and the trip (R421). -/
structure Die where
  palow : Nat
  tallow : Nat
  safe : Bool
  tj : Nat
  ring : List Nat
  cycle : Nat
  tripped : Bool
  deriving DecidableEq, Repr, Inhabited

/-- One memory stack: sensor and refresh rate (R417, R419), and when the latest refresh of each bank began (ps). -/
structure Stack where
  temp : Nat
  dbl : Bool
  refreshed : Table Nat Nat
  deriving DecidableEq, Repr, Inhabited

/-- What the home keeps (R302 per sector; R304, R298, R92, R159 per line). `grant` is what the device holds of a line
that the host owns: 0 nothing, 1 the line, 2 its ownership (R92). -/
structure HomeLine where
  ct : Table Nat Nat
  expiry : Table Nat Nat
  sharers : List Nat
  hostCopy : Bool
  grant : Nat
  owners : Table Nat (Nat × Nat)
  deriving DecidableEq, Repr, Inhabited

/-- Package-wide registers and state (R387, R476 to R480). `qcmd` is the queue command that runs, its OP and its queue (R387);
`safePoints` the (address, live mask) pairs of a kernel image by context and image (R72); `biasAt` is where the bias table
lies in device memory (R91). `msix` lists the MSI-X entries signalled, each with the
device time (ns) after which it goes out (R392, R432). -/
structure Pkg where
  stage : Nat
  powered : Bool
  fwrun : Bool
  fwStart : Option Nat
  err : Nat
  stkfail : Nat
  training : Bool
  ctlRam : Mem
  bootq : Word64
  qtbase : Word64
  qseq : Nat
  qerr : Nat
  qcmd : Option (Nat × Nat)
  agelim : Table Nat Nat
  levelStart : Table Nat Nat
  hb : Nat
  ports : Nat
  msix : List (Nat × Nat)
  clampEnd : Option Nat
  placed : Nat
  lastAge : Nat
  safePoints : Table (Nat × Nat) (List (Nat × Word64))
  biasAt : Option Nat
  deriving DecidableEq, Repr, Inhabited

/-- What an engine or the ring does at an exact moment: a matrix entry retires (by cluster and tile), a temporal window ends,
another temporal entry starts or ends, a capture lands, a claim is posted, a flit is injected on a die, a cluster samples a thread, the watchdog of a
context reports, the firmware's time to start is over. The flag is an uncorrectable error. -/
inductive Exact where
  | matrix (pid tile : Nat) (err : Bool)
  | window (pid : Nat) (err : Bool)
  | entry (pid : Nat)
  | capture (id : Nat)
  | claim (pid : Nat)
  | flit (die : Nat)
  | sample (pid : Nat)
  | watchdog (ctx : Nat)
  | firmware
  deriving DecidableEq, Repr, Inhabited

/-- An act of one agent: a turn of a generator thread, an issue from a pipe, an event of the table, or what is due at an
exact moment. -/
inductive Act where
  | thread (tid : Tid)
  | issue (pid pipe : Nat)
  | event (i : Instr)
  | exact (x : Exact)
  deriving DecidableEq, Repr, Inhabited

/-- One turn: the picoseconds that pass before it, and the act. -/
structure Turn where
  elapse : Nat
  act : Act
  deriving DecidableEq, Repr, Inhabited

/-- The lane word that issues: cluster, pipe, emitting thread, stream, slot, the word, its position, and
whether it is the last of its run; `held` is set when it cannot issue yet (R17). -/
structure LaneCtx where
  pid : Nat
  pipe : Nat
  tid : Tid
  str : Nat
  slot : Nat
  word : EWord
  act : Nat
  replay : Bool
  held : Bool
  deriving DecidableEq, Repr, Inhabited

/-- A stash write-back that faulted (R163): context, cluster, cause, VA of the first lost byte, bytes lost. -/
structure LostBack where
  ctx : Nat
  pid : Nat
  cause : Cause
  va : Nat
  n : Nat
  deriving DecidableEq, Repr, Inhabited

/-- A write that has arrived at a line that a migration's lock holds and stands there: its cluster, its address, its bytes,
or, where `bit` is not 0, the bit that a walker sets in the entry there; such a one stays, `done`, until its walk goes on
(R80, R89). -/
structure LateWrite where
  pid : Nat
  pa : Nat
  bs : List Byte
  bit : Nat
  done : Bool
  deriving DecidableEq, Repr, Inhabited

/-- The state of the machine. `held` says that the turn being taken has met a line that a lock, a flip or the end of a
pin window holds, so that it waits (R89, R93, R114); `lost` the write-backs that have faulted in it (R163); between
turns they are empty; `late` the writes of the host, of walkers and of logs that a lock holds (R89). Every table lists what differs from its reset value. -/
structure State where
  now : Nat
  tick : Nat
  agenda : List Turn
  cur : Tid
  lane : LaneCtx
  nextId : Nat
  absent : List Nat
  pkg : Pkg
  dies : Table Nat Die
  quads : Table Nat Quad
  stks : Table Nat Stack
  clusters : Table Nat Cluster
  ctxs : Table Nat Ctx
  flocks : Table Nat Flock
  queues : Table Nat Queue
  locals : Table (Nat × Nat) Mem
  localDirty : Table (Nat × Nat) (List Nat)
  threads : Table Tid Thread
  groups : Table (Nat × Nat × Nat) Group
  mem : Mem
  homes : Table Nat HomeLine
  bias : List Nat
  ops : List MemOp
  held : Bool
  lost : List LostBack
  late : List LateWrite
  deriving DecidableEq, Repr, Inhabited

/-! ## Reset values -/

def Horizon.zero : Horizon := ⟨0, 0, 0, 0⟩

/-- A thread at its start but for PC, g registers and role (R319, R324, R342). -/
def Thread.start : Thread :=
  { pc := 0, g := [], tpc := 0, tcause := 0, tval := 0, intrap := false, tvec := 0, tscr := 0, yoke := 0
    role := .vector, status := .running, held := [], out := [], streams := [], current := none, votes := []
    capture := none, deferred := [], hor := Horizon.zero, wait := none, stopReq := false, stopped := none
    stopNext := none, resumed := false, ord := 0xFFFF_FFFF, acqOp := none, hostOp := none, popAt := none, lastIssue := 0, ran := false
    tried := none, haltCause := 0 }

/-- An unbound stream (R342). -/
def Stream.unbound : Stream :=
  { bind := 0, gmask := 0, cmask := 0, seq := 0, nextRun := 0, openRun := [], openBorn := 0, runs := [], prog := []
    plays := [], playRun := [], hor := [], cissue := [], masks := [], parked := [], acqs := [], owedArr := [], checkStops := [] }

/-- A lane-group slot at placement (R197, R357). -/
def Group.placed : Group :=
  { v := [], p := [], ex := 0xFFFF_FFFF, exWas := none, park := 0, exit := 0, prec := none, out := [], fixEnd := 0, tail := [] }

def BarSlot.free : BarSlot :=
  { gen := 0, used := false, kind := 0, ext := false, phase := 0, e0 := 0, e := 0, b0 := 0, b := 0, arr := 0
    land := 0, scope := [], arrived := [], ec := 0, rels := 0, ring := 0, t := 0 }

def CopyQ.empty : CopyQ := ⟨[], false⟩

/-- The temporal array at placement (R271). -/
def TArray.placed : TArray :=
  { delay := [], kinds := 0, loop := false, window := 255, latch := List.replicate 128 255, ents := [], lastRet := none }

def BankCtl.placed : BankCtl := ⟨0, [], [], [], [], []⟩

def CurveBank.zero : CurveBank := ⟨0, 0, []⟩

/-- The purse at placement (R412, R413). -/
def Purse.placed : Purse :=
  { tokens := 0, payers := [], windowStart := 0, spend := 0, lastSpend := 0, lastLimit := 2560, limit := 2560
    starved := 0, claim := none, cut := none, retire := 0, fresh := [], pass := none }

/-- A cluster after package reset (R94, R229, R258, R271). -/
def Cluster.reset : Cluster :=
  { owner := none, wpb := 4, pinb := 0, plane := [], planeDirty := [], icache := [], tlb1 := [], tlb := [], nodes := [], l1 := [], l2 := [], pins := []
    stash := [], srSeed := 0x2545_F491, srNext := none, sr := [], cq := [], mq := [], array := [], retired := [], codeTab := [], code := BankCtl.placed
    curves := [], curve := [], ta := TArray.placed, pft := [], pipes := [], pipeNext := [], cuts := [], ready := [], purse := Purse.placed
    reels := [], sampleT := 0 }

/-- A context at its creation (R8, R84, R105, R118, R303, R384, R393, R412, R429, R432, R433, R438, R442,
R446, R452). -/
def Ctx.created (priv : Bool) : Ctx :=
  { priv := priv, root := 0, en := false, xlmode := false, xlarg0 := 0, xlarg1 := 0, xlseq := 0, xlerr := 0
    xlovr := false, xl := none, leaseNs := 1000, hintdrop := 0, hintAt := none, pincap := 0, pinuse := List.replicate 8 0
    windows := [], ashare := [(0, 4096)], donEerr := false, recErr := false, doorErr := false, wdLimit := 0x100_0000
    wdLast := 0, wdPause := none, frBase := 0, frLog2 := 0, frHead := 0, aelHead := 0, waiters := 0, evt := 0, msix := 0
    aelBase := 0, aelLog2 := 0, aelEn := 0, imgBase := 0, imgSlots := 0, imgHeld := [], sampIv := 0
    sampBase := 0, sampLog2 := 0, sampHead := 0, sampLast := [], check := false, dbgThreads := 0
    bps := [0, 0, 0, 0], dbgClu := 0, dbgKind := 0, dbgThread := 0, dbgReg := 0
    watch := [⟨0, 0, false⟩, ⟨0, 0, false⟩, ⟨0, 0, false⟩, ⟨0, 0, false⟩], alogBase := 0, alogLog2 := 0
    alog := [], reels := [] }

def Queue.reset : Queue :=
  { loaded := false, wbase := 0, log2n := 0, prio := 0, dev := false, ctx := 0, msix := 0, mask := [], h := 0
    t := 0, head := none, placed := 0, ends := [], blockedAt := none, age := 0, barred := false }

/-- A quad after package reset (R407). -/
def Quad.reset : Quad := ⟨0, 0, 580, false, 0, none, 0⟩

/-- A die after package reset (R417): the safe envelope governs. -/
def Die.reset : Die :=
  { palow := 64, tallow := 64, safe := true, tj := 0, ring := List.replicate 17 0, cycle := 0
    tripped := false }

def Stack.reset : Stack := ⟨0, false, []⟩

def HomeLine.reset : HomeLine := ⟨[], [], [], false, 0, []⟩

/-- Package registers after package reset (R387, R476 to R478). -/
def Pkg.reset : Pkg :=
  { stage := 0, powered := false, fwrun := false, fwStart := none, err := 0, stkfail := 0, training := false
    ctlRam := [], bootq := 0, qtbase := 0, qseq := 0, qerr := 0, qcmd := none, agelim := [], levelStart := [], hb := 0
    ports := 0xFF, msix := [], clampEnd := none, placed := 0, lastAge := 0, safePoints := [], biasAt := none }

def EWord.nop : EWord := ⟨0, 0, 0, 0, 0, 0, []⟩

def LaneCtx.empty : LaneCtx := ⟨0, 0, ⟨0, 0, 0⟩, 0, 0, EWord.nop, 0, false, false⟩

/-- The machine right after package reset: no context, no flock, memory with nothing listed. The model's
own fields start as log 1 says. -/
def State.reset : State :=
  { now := 0, tick := 0, agenda := [], cur := ⟨0, 0, 0⟩, lane := LaneCtx.empty, nextId := 0, absent := []
    pkg := Pkg.reset, dies := [], quads := [], stks := [], clusters := [], ctxs := [], flocks := []
    queues := [], locals := [], localDirty := [], threads := [], groups := [], mem := [], homes := []
    bias := [], ops := [], held := false, lost := [], late := [] }

/-! ## How a step can stop -/

/-- The faults of the model. -/
inductive Fault where
  /-- Raised by HOST_CXL_MEM_ACCESS and CONTROLLER_RAM_WRITE for an address that the spec says does not
  exist there (outside HB to HB + 1 TiB, R74; beyond the 4 MiB window, R477). Safe: the run stops. -/
  | noSuchAddress (a : Nat)
  deriving DecidableEq, Repr

/-- The refusals of the model. -/
inductive Refusal where
  /-- Raised by exec for an instruction that has no meaning yet. Safe: the run stops. -/
  | notModelled (mnemonic : String)
  deriving DecidableEq, Repr

/-- What a step answers. -/
abbrev Out := Host.Outcome State Fault Refusal

end Sys2Proof.Machine
end

