-- ==== Sys2Proof/Config.lean ====
section
/-! DEFINITION. What the spec leaves to the implementation or leaves open: free values. Each is an
opaque constant with no body, so nothing can be proved of what it is. -/

namespace Sys2Proof.Config

open Sys2Proof.Machine (Turn)

/-- Which agent moves next, and how much device time passes before it, when the agenda is empty: the
interleavings and open latencies of R346, R414 and R484 (log 1). -/
opaque schedule : Nat → Turn

/-- A choice between two outcomes that the spec leaves to timing (R39, R42, R121, R128, R265), for the
step of this tick and the place numbered by the second argument (log 13). -/
opaque freeBit : Nat → Nat → Bool

/-- A value the spec leaves undetermined: a run temporary that its run has not written (R44), a byte of
a private layout (R440) (log 14). -/
opaque freeWord : Nat → Nat → Word32

/-- The part's result of a special function (opcode, type code, operand bits), used where it lies within
the bound of R228 (log 15). -/
opaque special : Nat → Nat → Nat → Nat

/-- The set that a line falls into: L1 (R153), L2 slice (R98), instruction cache (R336) (log 16). -/
opaque l1Set : Nat → Nat
opaque l2Set : Nat → Nat
opaque icSet : Nat → Nat

/-- Which cached leaf a full translation cache replaces (R82) (log 17). -/
opaque tlbVictim : Nat → Nat

/-- Where Priade puts the bias table (R91): the number of a 2 MiB block of device memory (log 100). -/
opaque biasBlock : Nat

end Sys2Proof.Config
end

