-- ==== Sys2Proof/Machine/Access.lean ====
section
/-! DEFINITION. Reading and updating the parts of the state: the one home of every table, and time. -/

namespace Sys2Proof.Machine

/-- Device time in ns (R300). -/
def dt (s : State) : Nat := s.now / 1000

namespace State

def clu (s : State) (pid : Nat) : Cluster := s.clusters.get pid Cluster.reset
def setClu (s : State) (pid : Nat) (c : Cluster) : State := { s with clusters := s.clusters.set pid c }
def modClu (s : State) (pid : Nat) (f : Cluster → Cluster) : State := s.setClu pid (f (s.clu pid))
def ctx (s : State) (c : Nat) : Ctx := s.ctxs.get c (Ctx.created false)
def setCtx (s : State) (c : Nat) (x : Ctx) : State := { s with ctxs := s.ctxs.set c x }
def modCtx (s : State) (c : Nat) (f : Ctx → Ctx) : State := s.setCtx c (f (s.ctx c))
def flk (s : State) (fid : Nat) : Flock := s.flocks.get fid default
def setFlk (s : State) (fid : Nat) (f : Flock) : State := { s with flocks := s.flocks.set fid f }
def modFlk (s : State) (fid : Nat) (f : Flock → Flock) : State := s.setFlk fid (f (s.flk fid))
def thr (s : State) (t : Tid) : Thread := s.threads.get t Thread.start
def setThr (s : State) (t : Tid) (x : Thread) : State := { s with threads := s.threads.set t x }
def modThr (s : State) (t : Tid) (f : Thread → Thread) : State := s.setThr t (f (s.thr t))
def grp (s : State) (fid clu slot : Nat) : Group := s.groups.get (fid, clu, slot) Group.placed
def setGrp (s : State) (fid clu slot : Nat) (g : Group) : State :=
  { s with groups := s.groups.set (fid, clu, slot) g }
def modGrp (s : State) (fid clu slot : Nat) (f : Group → Group) : State :=
  s.setGrp fid clu slot (f (s.grp fid clu slot))
def die (s : State) (d : Nat) : Die := s.dies.get d Die.reset
def modDie (s : State) (d : Nat) (f : Die → Die) : State := { s with dies := s.dies.set d (f (s.die d)) }
/-- The quad of a cluster is its physical identifier divided by 4 (R11). -/
def quad (s : State) (q : Nat) : Quad := s.quads.get q Quad.reset
def modQuad (s : State) (q : Nat) (f : Quad → Quad) : State := { s with quads := s.quads.set q (f (s.quad q)) }
def stk (s : State) (h : Nat) : Stack := s.stks.get h Stack.reset
def modStk (s : State) (h : Nat) (f : Stack → Stack) : State := { s with stks := s.stks.set h (f (s.stk h)) }
def que (s : State) (q : Nat) : Queue := s.queues.get q Queue.reset
def modQue (s : State) (q : Nat) (f : Queue → Queue) : State := { s with queues := s.queues.set q (f (s.que q)) }
def homeOf (s : State) (pa : Nat) : HomeLine := s.homes.get (pa / 256) HomeLine.reset
def modHome (s : State) (pa : Nat) (f : HomeLine → HomeLine) : State :=
  { s with homes := s.homes.set (pa / 256) (f (s.homeOf pa)) }
def modPkg (s : State) (f : Pkg → Pkg) : State := { s with pkg := f s.pkg }

/-- The physical cluster of a flock member (R397). -/
def pidOf (s : State) (fid clu : Nat) : Nat := (s.flk fid).clus.getD clu 0
/-- The context of a thread. -/
def ctxOf (s : State) (t : Tid) : Nat := (s.flk t.fid).ctx
/-- The flock size. -/
def size (s : State) (fid : Nat) : Nat := (s.flk fid).clus.length

/-! ### Local SRAM (R142, R165) -/

/-- Bytes of stash and scratch regions: below the accumulator window. -/
def accBase (s : State) (fid : Nat) : Nat := 4096 * ((s.flk fid).rcd.stash + (s.flk fid).rcd.scratch)
def stashTop (s : State) (fid : Nat) : Nat := 4096 * (s.flk fid).rcd.stash
/-- The declared total. -/
def declared (s : State) (fid : Nat) : Nat := s.accBase fid + 65536 * (s.flk fid).rcd.acc
def localMem (s : State) (fid clu : Nat) : Mem := s.locals.get (fid, clu) []
def localRead (s : State) (fid clu off n : Nat) : List Byte := (s.localMem fid clu).readList off n
/-- A write of local bytes sets the dirty bits of their 4 KiB units (R439). -/
def localWrite (s : State) (fid clu off : Nat) (bs : List Byte) : State :=
  let units := ((List.range bs.length).map fun i => (off + i) / 4096).dedup
  { s with
    locals := s.locals.set (fid, clu) ((s.localMem fid clu).writeList off bs)
    localDirty := s.localDirty.set (fid, clu) (units ++ (s.localDirty.get (fid, clu) []).filter (· ∉ units)) }

/-! ### Weight plane (R94, R95, R251) -/

def planeSize (s : State) (pid : Nat) : Nat := (s.clu pid).wpb * 4194304
def planeRead (s : State) (pid off n : Nat) : List Byte := (s.clu pid).plane.readList off n
def planeWrite (s : State) (pid off : Nat) (bs : List Byte) : State :=
  let units := ((List.range bs.length).map fun i => (off + i) / 65536).dedup
  s.modClu pid fun c => { c with
    plane := c.plane.writeList off bs, planeDirty := units ++ c.planeDirty.filter (· ∉ units) }

end State

/-! ### Clocks (R25, R405, R408) -/

/-- The arithmetic clock of a class in MHz (R405). -/
def classMHz : Nat → Nat
  | 0 => 2200 | 1 => 2300 | 2 => 2400 | 3 => 2500 | 4 => 2550 | 5 => 2600 | 6 => 2700 | _ => 3000

/-- The core voltage of a class in mV (R405). -/
def classMv : Nat → Nat
  | 0 => 580 | 1 => 600 | 2 => 620 | 3 => 640 | 4 => 650 | 5 => 660 | 6 => 680 | _ => 760

/-- The debit factor of a class in eighths (R405). -/
def classEighths : Nat → Nat
  | 0 => 6 | 1 => 7 | 2 => 7 | 7 => 10 | _ => 8

/-- The arithmetic clock of a cluster in MHz. -/
def cluMHz (s : State) (pid : Nat) : Nat := classMHz (s.quad (pid / 4)).f

/-- Whole cycles of a clock that have passed since a moment (both in ps). -/
def cyclesSince (mhz t0 now : Nat) : Nat := (now - t0) * mhz / 1000000

/-- A moment (ps) lies in the present cycle of a cluster's clock. -/
def sameCycle (s : State) (pid t0 : Nat) : Bool :=
  decide (t0 * cluMHz s pid / 1000000 = s.now * cluMHz s pid / 1000000)

/-- The moment `n` cycles of a cluster's clock from now (ps), rounded up. -/
def cyclesAhead (s : State) (pid n : Nat) : Nat := s.now + ceilDiv (n * 1000000) (cluMHz s pid)

/-- The ring cycles passed since Stage 0 (R408). -/
def ringCycle (s : State) : Nat := s.now * 2700 / 1000000

/-! ### Scopes (R23, R24, R46) -/

/-- The class of a scope for completion times: 0 cluster, 1 die, 2 package and wider (R306). -/
def scopeClass (sc : Nat) : Nat := if sc ≤ 1 then 0 else if sc ≤ 3 then 1 else 2

/-- Whether cluster `b` lies within a scope of cluster `a`, on one package; quad scope covers every quad
the flock occupies (R24). -/
def within (sc : Nat) (flockClus : List Nat) (a b : Nat) : Bool :=
  match sc with
  | 0 | 1 => decide (a = b)
  | 2 => decide (a / 4 = b / 4) || flockClus.any fun p => decide (p / 4 = b / 4)
  | 3 => decide (a / 64 = b / 64)
  | _ => true

/-- The completion time at every scope is one value (R307). -/
def Gwct.flat (t : Nat) : Gwct := ⟨t, t, t⟩
def Gwct.max (g h : Gwct) : Gwct := ⟨Nat.max g.cl h.cl, Nat.max g.die h.die, Nat.max g.pkg h.pkg⟩
def Gwct.at (g : Gwct) (k : Nat) : Nat := if k = 0 then g.cl else if k = 1 then g.die else g.pkg

/-- A write with its own scope field joins a release horizon: a release at a scope waits for it at the
wider of the two (R310, R311). -/
def Horizon.addWrite (h : Horizon) (g : Gwct) (own : Nat) : Horizon :=
  let k := scopeClass own
  { h with cl := max h.cl (g.at k), die := max h.die (g.at (max 1 k)), pkg := max h.pkg g.pkg }

def Horizon.rel (h : Horizon) (sc : Nat) : Nat :=
  let k := scopeClass sc
  if k = 0 then h.cl else if k = 1 then h.die else h.pkg

def Horizon.addRead (h : Horizon) (ct : Nat) : Horizon := { h with acq := max h.acq ct }
/-- Two horizons together. -/
def Horizon.join (a b : Horizon) : Horizon := ⟨Nat.max a.cl b.cl, Nat.max a.die b.die, Nat.max a.pkg b.pkg, Nat.max a.acq b.acq⟩

end Sys2Proof.Machine
end

