-- ==== Sys2Proof/Machine/Float.lean ====
section
/-! DEFINITION. Number formats and arithmetic rules: exact dyadic values, `round` (R178), overflow (R180),
conversions (R182), order of sums (R189), the stochastic generator (R185, R186), cb2 (R177), and the
special functions with their bounds (R228). -/

namespace Sys2Proof.Machine

/-! ## Formats (R168, R169) -/

/-- A floating-point format: width, fraction bits, bias, largest exponent of a finite value with its
fraction, minimum exponent, and whether it has infinities and NaNs. -/
structure Fmt where
  width : Nat
  frac : Nat
  bias : Int
  emin : Int
  hasInf : Bool
  hasNan : Bool
  /-- Bits of the largest finite magnitude. -/
  maxBits : Nat
  /-- The canonical NaN (R170). -/
  nan : Nat
  deriving DecidableEq, Repr, Inhabited

def fF32 : Fmt := ⟨32, 23, 127, -126, true, true, 0x7F7F_FFFF, 0x7FC0_0000⟩
def fF16 : Fmt := ⟨16, 10, 15, -14, true, true, 0x7BFF, 0x7E00⟩
def fBf16 : Fmt := ⟨16, 7, 127, -126, true, true, 0x7F7F, 0x7FC0⟩
def fE4m3 : Fmt := ⟨8, 3, 7, -6, false, true, 0x7E, 0x7F⟩
def fE5m2 : Fmt := ⟨8, 2, 15, -14, true, true, 0x7B, 0x7F⟩
def fE2m1 : Fmt := ⟨4, 1, 1, 0, false, false, 0x7, 0⟩

/-- The format of a type code (R45). -/
def fmtOf : Nat → Fmt
  | 8 => fF16 | 9 => fBf16 | 10 => fF32 | 11 => fE4m3 | 12 => fE5m2 | _ => fE2m1

/-- Precision p (R169). -/
def Fmt.p (F : Fmt) : Nat := F.frac + 1
/-- Bits below the sign. -/
def Fmt.magBits (F : Fmt) : Nat := F.width - 1

/-- An exact value: a NaN, an infinity with its sign, or m × 2^e with a sign (the sign of a zero too). -/
inductive Val where
  | nan
  | inf (neg : Bool)
  | fin (neg : Bool) (m : Nat) (e : Int)
  deriving DecidableEq, Repr, Inhabited

namespace Val

/-- The signed mantissa. -/
def sm (neg : Bool) (m : Nat) : Int := if neg then -(m : Int) else (m : Int)

def ofInt (i : Int) : Val := .fin (decide (i < 0)) i.natAbs 0

/-- Two finite values brought to one exponent. -/
def align (m1 : Int) (e1 : Int) (m2 : Int) (e2 : Int) : Int × Int × Int :=
  if e1 ≤ e2 then (m1, m2 * 2 ^ (e2 - e1).toNat, e1) else (m1 * 2 ^ (e1 - e2).toNat, m2, e2)

/-- An exact sum; the second component says that a NaN arises from operands that are none (R195). A zero
from operands of opposite sign is negative only in mode rm (R179). -/
def add (rm : Bool) : Val → Val → Val × Bool
  | .nan, _ => (.nan, false)
  | _, .nan => (.nan, false)
  | .inf a, .inf b => if a = b then (.inf a, false) else (.nan, true)
  | .inf a, .fin _ _ _ => (.inf a, false)
  | .fin _ _ _, .inf b => (.inf b, false)
  | .fin n1 m1 e1, .fin n2 m2 e2 =>
    let (a, b, e) := align (sm n1 m1) e1 (sm n2 m2) e2
    let t := a + b
    if t = 0 then
      (.fin (if m1 = 0 ∧ m2 = 0 then (n1 && n2) || (rm && (n1 || n2)) else rm) 0 0, false)
    else (.fin (decide (t < 0)) t.natAbs e, false)

def neg : Val → Val
  | .nan => .nan
  | .inf a => .inf (!a)
  | .fin n m e => .fin (!n) m e

def mul : Val → Val → Val × Bool
  | .nan, _ => (.nan, false)
  | _, .nan => (.nan, false)
  | .inf a, .inf b => (.inf (a != b), false)
  | .inf a, .fin n m _ => if m = 0 then (.nan, true) else (.inf (a != n), false)
  | .fin n m _, .inf b => if m = 0 then (.nan, true) else (.inf (b != n), false)
  | .fin n1 m1 e1, .fin n2 m2 e2 => (.fin (n1 != n2) (m1 * m2) (e1 + e2), false)

def isNan : Val → Bool
  | .nan => true
  | _ => false

def isZero : Val → Bool
  | .fin _ 0 _ => true
  | _ => false

/-- Scaling by a power of two, exact (R176). -/
def scale (k : Int) : Val → Val
  | .fin n m e => .fin n m (e + k)
  | v => v

/-- Strict order of two values that are not NaN; zeros are equal. -/
def lt : Val → Val → Bool
  | .nan, _ => false
  | _, .nan => false
  | .inf a, .inf b => a && !b
  | .inf a, .fin _ _ _ => a
  | .fin _ _ _, .inf b => !b
  | .fin n1 m1 e1, .fin n2 m2 e2 =>
    let (a, b, _) := align (sm n1 m1) e1 (sm n2 m2) e2
    decide (a < b)

def eqv (a b : Val) : Bool := !a.isNan && !b.isNan && !(lt a b) && !(lt b a)

def sign : Val → Bool
  | .nan => false
  | .inf n => n
  | .fin n _ _ => n

end Val

namespace Fmt

/-- The value of an encoding (R168). -/
def value (F : Fmt) (x : Nat) : Val :=
  let neg := x.testBit F.magBits
  let mag := x % 2 ^ F.magBits
  let e := mag / 2 ^ F.frac
  let f := mag % 2 ^ F.frac
  let emax := 2 ^ (F.magBits - F.frac) - 1
  if F.hasInf && decide (e = emax) then (if f = 0 then .inf neg else .nan)
  else if F.hasNan && !F.hasInf && decide (mag = F.nan) then .nan
  else if e = 0 then .fin neg f (1 - F.bias - F.frac)
  else .fin neg (f + 2 ^ F.frac) ((e : Int) - F.bias - F.frac)

/-- A signalling NaN (R170). -/
def snan (F : Fmt) (x : Nat) : Bool := F.hasInf && (F.value x).isNan && !x.testBit (F.frac - 1)

/-- A subnormal. -/
def subnormal (F : Fmt) (x : Nat) : Bool :=
  decide (x % 2 ^ F.magBits / 2 ^ F.frac = 0) && decide (x % 2 ^ F.frac ≠ 0)

/-- The operand flush of R179. -/
def flush (F : Fmt) (ftz : Bool) (x : Nat) : Nat :=
  if ftz && F.subnormal x then (if x.testBit F.magBits then 2 ^ F.magBits else 0) else x

def zero (F : Fmt) (neg : Bool) : Nat := if neg then 2 ^ F.magBits else 0
def signed (F : Fmt) (neg : Bool) (mag : Nat) : Nat := if neg then mag + 2 ^ F.magBits else mag
/-- Infinity's bits. -/
def infBits (F : Fmt) (neg : Bool) : Nat := F.signed neg ((2 ^ (F.magBits - F.frac) - 1) * 2 ^ F.frac)

end Fmt

/-! ## Events (R195) -/

/-- The five events, as the bits of AELBASE.EN (R433). -/
structure Ev where
  bits : Nat
  deriving DecidableEq, Repr, Inhabited

def Ev.none : Ev := ⟨0⟩
def Ev.invalid : Ev := ⟨16⟩
def Ev.divzero : Ev := ⟨8⟩
def Ev.overflow : Ev := ⟨4⟩
def Ev.underflow : Ev := ⟨2⟩
def Ev.inexact : Ev := ⟨1⟩
def Ev.or (a b : Ev) : Ev := ⟨a.bits ||| b.bits⟩
def Ev.when (b : Bool) (e : Ev) : Ev := if b then e else Ev.none

/-- Rounding modes (R48). In mode sr the stochastic word of R186 is given. -/
inductive RMode where
  | rn | rz | rm | rp
  | sr (u : Nat)
  deriving DecidableEq, Repr, Inhabited

def rmode : Nat → RMode
  | 0 => .rn | 1 => .rz | 2 => .rm | _ => .rp

/-- Whether a discarded fraction num / 2^k rounds up (R178, R186). -/
def roundUp (mode : RMode) (neg : Bool) (lo num k : Nat) : Bool :=
  match mode with
  | .rn => decide (2 * num > 2 ^ k) || (decide (2 * num = 2 ^ k) && decide (lo % 2 = 1))
  | .rz => false
  | .rm => neg && decide (num > 0)
  | .rp => !neg && decide (num > 0)
  | .sr u => decide (num * 2 ^ 24 / 2 ^ k + u ≥ 2 ^ 24)

/-- `overflow` (R180). -/
def overflowBits (F : Fmt) (mode : RMode) (sat neg : Bool) : Nat :=
  if !F.hasNan then F.signed neg F.maxBits
  else if sat then F.signed neg F.maxBits
  else
    let toMax := match mode with
      | .rz => true
      | .rm => !neg
      | .rp => neg
      | _ => false
    if toMax then F.signed neg F.maxBits
    else if F.hasInf then F.infBits neg else F.nan

/-- `infinite` (R180), with its event. -/
def infiniteBits (F : Fmt) (sat neg : Bool) : Nat × Ev :=
  if !F.hasNan then (F.signed neg F.maxBits, Ev.none)
  else if sat then (F.signed neg F.maxBits, Ev.none)
  else if F.hasInf then (F.infBits neg, Ev.none) else (F.nan, Ev.invalid)

/-- `round` (R178): the bits of the result and the events of the rounding step (R195). -/
def roundTo (F : Fmt) (mode : RMode) (sat ftz : Bool) (x : Val) : Nat × Ev :=
  match x with
  | .nan => (F.nan, Ev.when (!F.hasNan) Ev.invalid)
  | .inf n => infiniteBits F sat n
  | .fin n m e =>
    if m = 0 then (F.zero n, Ev.none)
    else
      let ex : Int := max (e + (Nat.log2 m : Nat)) F.emin
      let q : Int := ex - F.p + 1
      -- |x| = m × 2^e in units of 2^q
      let k : Nat := (q - e).toNat
      let big : Nat := m * 2 ^ (e - q).toNat
      let lo := big / 2 ^ k
      let num := big % 2 ^ k
      let y := lo + b2n (roundUp mode n lo num k)
      -- y × 2^q; renormalise a carry out of the top
      let (y, ex) := if y = 2 ^ F.p then (2 ^ (F.p - 1), ex + 1) else (y, ex)
      let mag : Nat := if y < 2 ^ (F.p - 1) then y else ((ex + F.bias).toNat) * 2 ^ F.frac + (y - 2 ^ (F.p - 1))
      if mag > F.maxBits then
        let r := overflowBits F mode sat n
        (r, (Ev.overflow.or Ev.inexact).or (Ev.when (F.value r).isNan Ev.invalid))
      else
        let sub := decide (mag < 2 ^ F.frac)
        let inex := decide (num ≠ 0)
        if ftz && sub then (F.zero n, Ev.underflow.or Ev.inexact)
        else (F.signed n mag,
          (Ev.when (sub && decide (mag ≠ 0) && inex) Ev.underflow).or (Ev.when inex Ev.inexact))

/-- `clamp01` of R181. -/
def clamp01 (F : Fmt) (x : Nat) : Nat :=
  match F.value x with
  | .nan => 0
  | v => if v.sign then 0 else if Val.lt (.fin false 1 0) v then (F.bias.toNat) * 2 ^ F.frac else x

/-- A rounded step of an operation whose NaN may be new (R195). -/
def roundStep (F : Fmt) (mode : RMode) (sat ftz : Bool) (x : Val × Bool) : Nat × Ev :=
  let (y, ev) := roundTo F mode sat ftz x.1
  (y, ev.or (Ev.when x.2 Ev.invalid))

/-! ## Integers (R171, R172) -/

def isSigned (t : Nat) : Bool := decide (4 ≤ t)
/-- The number an element of an integer type denotes. -/
def intVal (t x : Nat) : Int := if isSigned t then sextInt x (tyWidth t) else ((x % 2 ^ tyWidth t : Nat) : Int)
def maxInt (sgn : Bool) (w : Nat) : Int := if sgn then 2 ^ (w - 1) - 1 else 2 ^ w - 1
def minInt (sgn : Bool) (w : Nat) : Int := if sgn then -(2 ^ (w - 1)) else 0
/-- `clamp` or `wrap` (R172), as bits. -/
def narrow (sat sgn : Bool) (w : Nat) (x : Int) : Nat :=
  truncNat (if sat then min (max x (minInt sgn w)) (maxInt sgn w) else x) w

/-! ## Conversions (R182, R183) -/

/-- Rounding of an exact value to an integer of a type. Whether it is beyond the type's range is judged after the rounding
(DESIGN CHOICE, log 111). -/
def toInt (mode : RMode) (sgn : Bool) (w : Nat) (v : Val) : Nat × Ev :=
  match v with
  | .nan => (0, Ev.invalid)
  | .inf n => (truncNat (if n then minInt sgn w else maxInt sgn w) w, Ev.invalid)
  | .fin n m e =>
    let k := (-e).toNat
    let big := m * 2 ^ e.toNat
    let lo := big / 2 ^ k
    let num := big % 2 ^ k
    let y : Int := Val.sm n (lo + b2n (roundUp mode n lo num k))
    if y < minInt sgn w then (truncNat (minInt sgn w) w, Ev.invalid)
    else if maxInt sgn w < y then (truncNat (maxInt sgn w) w, Ev.invalid)
    else (truncNat y w, Ev.when (decide (num ≠ 0)) Ev.inexact)

/-- Whether a conversion can round (R183). -/
def canRound (src dst : Nat) : Bool :=
  if isIntTy dst then !isIntTy src
  else if isIntTy src then
    if dst = 10 then decide (32 ≤ tyWidth src)
    else if dst = 8 ∨ dst = 9 then decide (8 < tyWidth src) else true
  else if src = 13 then false
  else if src = 11 ∨ src = 12 then !(decide (dst = 8) || decide (dst = 9) || decide (dst = 10))
  else if src = 8 ∨ src = 9 then decide (dst ≠ 10) else true

/-- The exact value of an element of any type. -/
def elemVal (t x : Nat) : Val := if isIntTy t then Val.ofInt (intVal t x) else (fmtOf t).value x

/-- A conversion (R182). An integer above 448 converted to e4m3 without sat takes the row of `overflow`, and is NaN there,
although R182 says that integers never produce NaN (DESIGN CHOICE, log 110). On the pairs that R183 lists as exact sat has no
effect, on an infinity either (DEDUCED, log 109). -/
def convert (src dst : Nat) (mode : RMode) (sat : Bool) (x : Nat) : Nat × Ev :=
  if isIntTy dst then
    if isIntTy src then (narrow sat (isSigned dst) (tyWidth dst) (intVal src x), Ev.none)
    else
      let r := toInt mode (isSigned dst) (tyWidth dst) ((fmtOf src).value x)
      (r.1, r.2.or (Ev.when ((fmtOf src).snan x) Ev.invalid))
  else
    let r := roundTo (fmtOf dst) mode (sat && canRound src dst) false (elemVal src x)
    (r.1, r.2.or (Ev.when (!isIntTy src && (fmtOf src).snan x) Ev.invalid))

/-! ## Stochastic rounding (R185, R186) -/

def srStep (s : Word32) : Word32 := if s.getLsbD 31 then (s <<< 1) ^^^ 0x0040_0007#32 else s <<< 1

/-! ## cb2 (R177) -/

/-- The eight weights of an index, in units of 1/8. -/
def cb2Decode (idx vec : Nat) : List Int :=
  let neg := (List.range 7).map fun j => idx.testBit (j + 1)
  let par := neg.foldl (· != ·) false
  (List.range 8).map fun j =>
    let mag : Int := 2 * (vec / 16 ^ j % 16 : Nat) + (idx % 2 : Nat)
    if (if j < 7 then neg.getD j false else par) then -mag else mag

/-! ## Order of sums (R189) -/

/-- One round of `tree`: neighbours are combined, the lower first. -/
def pairUp {α : Type} (op : α → α → α) : List α → List α
  | a :: b :: l => op a b :: pairUp op l
  | l => l

/-- `tree` over a list whose length is a power of two (R189). -/
def treeFold {α : Type} (op : α → α → α) : Nat → List α → List α
  | 0, l => l
  | n + 1, l => treeFold op n (pairUp op l)

/-- Floating-point min and max (R189): the bits, and INVALID for a signalling NaN. -/
def fMinMax (F : Fmt) (isMin : Bool) (a b : Nat) : Nat × Ev :=
  let va := F.value a
  let vb := F.value b
  let ev := Ev.when (F.snan a || F.snan b) Ev.invalid
  let aFirst :=   -- a orders at or below b, −0 below +0
    if Val.lt va vb then true else if Val.lt vb va then false else va.sign || !vb.sign
  let r :=
    if va.isNan && vb.isNan then F.nan
    else if va.isNan then b
    else if vb.isNan then a
    else if isMin then (if aFirst then a else b) else (if aFirst then b else a)
  (r, ev)

/-- Comparison conditions (R48, R221). -/
def fCond (F : Fmt) (c a b : Nat) : Bool × Ev :=
  let va := F.value a
  let vb := F.value b
  let nan := va.isNan || vb.isNan
  let lt := Val.lt va vb
  let eq := Val.eqv va vb
  let r := match c with
    | 0 => eq
    | 1 => !eq
    | 2 => lt
    | 3 => lt || eq
    | 4 => !nan && !lt && !eq
    | 5 => !nan && !lt
    | 6 => !nan
    | _ => nan
  (r, Ev.when (F.snan a || F.snan b || (nan && decide (2 ≤ c) && decide (c ≤ 5))) Ev.invalid)

def iCond (c : Nat) (a b : Int) : Bool :=
  match c with
  | 0 => decide (a = b)
  | 1 => decide (a ≠ b)
  | 2 => decide (a < b)
  | 3 => decide (a ≤ b)
  | 4 => decide (b < a)
  | _ => decide (b ≤ a)

/-! ## Special functions (R227, R228)

Every result but the special ones lies within a bound of the exact value. The part's own choice is the
free value `Config.special`; where that value breaks the bound, the correctly rounded value stands in for
it, so every result of the model obeys R228. Exact values are enclosed between two rationals on a grid
of 2^-200. -/

/-- Integer square root by bisection on `n` bits. -/
def isqrt (x : Nat) : Nat → Nat → Nat
  | 0, r => r
  | n + 1, r => let r' := r + 2 ^ n; isqrt x n (if r' * r' ≤ x then r' else r)

def natSqrt (x : Nat) : Nat := isqrt x (Nat.log2 x / 2 + 1) 0

/-- Grid bits of the enclosures. -/
def grid : Nat := 200
def one : Int := 2 ^ grid

/-- Fixed-point product on the grid. -/
def gmul (a b : Int) : Int := a * b / one

/-- exp(y) for 0 ≤ y < 1 on the grid, by its series. -/
def gexp (y : Int) : Int :=
  (((List.range 50).map Int.ofNat).foldl (fun (acc : Int × Int) i => (acc.1 + acc.2, gmul acc.2 y / (i + 1))) (0, one)).1

/-- ln 2 on the grid: Σ 1 / (k 2^k). -/
def gln2 : Int :=
  (List.range 220).foldl (fun (acc : Int) (i : Nat) => acc + one / (((i + 1) * 2 ^ (i + 1) : Nat) : Int)) 0

/-- Square and compare: the binary digits of log₂ of a grid value in [1, 2). -/
def glog2 : Nat → Int → Int → Int → Int
  | 0, _, _, acc => acc
  | n + 1, x, bit, acc =>
    let x2 := gmul x x
    if 2 * one ≤ x2 then glog2 n (x2 / 2) (bit / 2) (acc + bit) else glog2 n x2 (bit / 2) acc

/-- π on the grid (Machin). -/
def gatanInv (k : Int) : Int :=
  (((List.range 160).map Int.ofNat).foldl (fun (acc : Int × Int) i =>
    (acc.1 + (if i % 2 = 0 then acc.2 else -acc.2) / (2 * i + 1), acc.2 / (k * k))) (0, one / k)).1
def gpi : Int := 4 * (4 * gatanInv 5 - gatanInv 239)

/-- sin y for 0 ≤ y < 2 on the grid. -/
def gsin (y : Int) : Int :=
  (((List.range 40).map Int.ofNat).foldl (fun (acc : Int × Int) i =>
    (acc.1 + acc.2, -(gmul (gmul acc.2 y) y) / ((2 * i + 2) * (2 * i + 3)))) (0, y)).1

/-- The exact value of a special function as a rational approximation m × 2^e, good to about 2^-150 of the
value for the inputs of 16-bit and 32-bit formats. Arguments: sign, mantissa and exponent of x. -/
def specialApprox (op : Nat) (n : Bool) (m : Nat) (e : Int) : Val :=
  match op with
  | 0x188 => .fin n (2 ^ 300 / m) (-(e + 300))
  | 0x189 =>
    -- 1/√(m 2^e): make the exponent even
    let (m, e) := if e % 2 = 0 then (m, e) else (2 * m, e - 1)
    .fin false (natSqrt (2 ^ 600 / m)) (-(e / 2) - 300)
  | 0x18A =>
    let (m, e) := if e % 2 = 0 then (m, e) else (2 * m, e - 1)
    let r := natSqrt (m * 2 ^ 400)
    .fin false (2 * r + (if r * r = m * 2 ^ 400 then 0 else 1)) (e / 2 - 201)
  | 0x18B =>
    -- 2^x: integer and fraction of x on the grid
    let g : Int := if 0 ≤ e + grid then Val.sm n (m * 2 ^ (e + grid).toNat) else Val.sm n m / 2 ^ (-(e + grid)).toNat
    let i := g / one
    let f := g % one
    .fin false (gexp (gmul f gln2)).toNat (i - (grid : Int))
  | 0x18C =>
    let l : Nat := Nat.log2 m
    let x : Int := if l ≤ grid then (m : Int) * 2 ^ (grid - l) else (m : Int) / 2 ^ (l - grid)
    let frac := glog2 150 x (one / 2) 0
    let r : Int := (e + l) * one + frac
    .fin (decide (r < 0)) r.natAbs (-(grid : Int))
  | _ =>
    -- sin πx (0x18D) and cos πx (0x18E): reduce x mod 2
    let g : Int := if 0 ≤ e + grid then Val.sm n (m * 2 ^ (e + grid).toNat) else Val.sm n m / 2 ^ (-(e + grid)).toNat
    let g := if op = 0x18E then g + one / 2 else g
    let r := g % (2 * one)
    let (s, r) := if one ≤ r then (true, r - one) else (false, r)
    let r := if one / 2 < r then one - r else r
    .fin s (gsin (gmul r gpi)).toNat (-(grid : Int))

/-- Twice the distance of two finite values compared with a bound num × 2^b. -/
def distLe (x y : Val) (num : Nat) (b : Int) : Bool :=
  match (Val.add false x y.neg).1 with
  | .fin _ m e => !(Val.lt (.fin false num b) (.fin false m e))
  | _ => false

/-- The spacing exponent of a format at an exact value. -/
def ulpExp (F : Fmt) : Val → Int
  | .fin _ m e => max (e + (Nat.log2 m : Nat)) F.emin - F.p + 1
  | _ => F.emin - F.p + 1

/-- Whether a result obeys the bound of R228. -/
def specialOk (op : Nat) (F : Fmt) (exact : Val) (x : Val) (r : Nat) : Bool :=
  let v := F.value r
  match v with
  | .fin _ _ _ =>
    let u := ulpExp F exact
    if F.width = 32 then
      match op with
      | 0x18B => distLe exact v 2 u
      | 0x18C =>
        if Val.lt x (.fin false 1 (-1)) || Val.lt (.fin false 2 0) x then distLe exact v 2 u
        else distLe exact v 1 (-22)
      | 0x18D | 0x18E => distLe exact v 1 (-22)
      | _ => distLe exact v 1 u
    else distLe exact v 1 u
  | _ => false

/-- A subnormal result is written as zero of its sign (R227). -/
def flushRes (F : Fmt) (r : Nat) : Nat := F.flush true r

/-- x integral, for a finite value: its parity where it is. -/
def integral? (m : Nat) (e : Int) : Option Nat :=
  if 0 ≤ e then some (m * 2 ^ e.toNat % 2)
  else if m % 2 ^ (-e).toNat = 0 then some (m / 2 ^ (-e).toNat % 2) else none

/-- The special function of an opcode on the bits of a type (R227, R228). -/
def specialFn (op t : Nat) (bits : Nat) : Nat × Ev :=
  let F := fmtOf t
  let bits := F.flush true bits
  let x := F.value bits
  let inv := Ev.when (F.snan bits) Ev.invalid
  let oneBits := F.bias.toNat * 2 ^ F.frac
  let compute : Nat × Ev :=
    match x with
    | .fin n m e =>
      let exact := specialApprox op n m e
      let cand := Config.special op t bits % 2 ^ F.width
      let rn := (roundTo F .rn false false exact).1
      if op = 0x18A then (flushRes F rn, Ev.none)
      else (flushRes F (if specialOk op F exact x cand then cand else rn), Ev.none)
    | _ => (F.nan, Ev.none)
  match x with
  | .nan => (F.nan, inv)
  | .inf n =>
    match op with
    | 0x188 => (F.zero n, Ev.none)
    | 0x189 => if n then (F.nan, Ev.invalid) else (0, Ev.none)
    | 0x18A | 0x18C => if n then (F.nan, Ev.invalid) else (F.infBits false, Ev.none)
    | 0x18B => (if n then 0 else F.infBits false, Ev.none)
    | _ => (F.nan, Ev.invalid)
  | .fin n m e =>
    match op with
    | 0x188 => if m = 0 then (F.infBits n, Ev.divzero) else compute
    | 0x189 => if m = 0 then (F.infBits n, Ev.divzero) else if n then (F.nan, Ev.invalid) else compute
    | 0x18A => if m = 0 then (F.zero n, Ev.none) else if n then (F.nan, Ev.invalid) else compute
    | 0x18B =>
      if m = 0 then (oneBits, Ev.none)
      else if Val.lt (Val.ofInt 256) x then (F.infBits false, Ev.overflow)
      else if Val.lt x (Val.ofInt (-300)) then (0, Ev.none)
      else
        let exact := match integral? m e with
          | some _ => Val.fin false 1 (Val.sm n (if (0 : Int) ≤ e then m * 2 ^ (Int.toNat e) else m / 2 ^ (Int.toNat (-e))))
          | none => specialApprox op n m e
        if (roundTo F .rz false false exact).2.bits &&& 4 ≠ 0 then (F.infBits false, Ev.overflow)
        else match integral? m e with
          | some _ => (flushRes F (roundTo F .rn false false exact).1, Ev.none)
          | none => compute
    | 0x18C =>
      if m = 0 then (F.infBits true, Ev.divzero) else if n then (F.nan, Ev.invalid)
      else if m = 2 ^ Nat.log2 m then
        (flushRes F (roundTo F .rn false false (Val.ofInt (e + (Nat.log2 m : Nat)))).1, Ev.none)
      else compute
    | 0x18D =>
      match integral? m e with
      | some _ => (F.zero n, Ev.none)
      | none =>
        match integral? (2 * m) e with
        | some _ => (F.signed (Val.sign (specialApprox op n m e)) oneBits, Ev.none)
        | none => compute
    | _ =>
      match integral? m e with
      | some k => (F.signed (decide (k = 1)) oneBits, Ev.none)
      | none => match integral? (2 * m) e with
        | some _ => (0, Ev.none)
        | none => compute

end Sys2Proof.Machine
end

