-- ==== Sys2Proof/Machine/Memory.lean ====
section
/-! DEFINITION. The memory system: physical addresses and homes (R73 to R75, R97), translation (R76 to
R83), recalls and combines (R160, R299), completion times (R306), leases (R304), L1 and stash. -/

namespace Sys2Proof.Machine

/-! ## Physical addresses -/

def devTop : Nat := 2 ^ 40
def hostBase : Nat := 2 ^ 51
def isDev (pa : Nat) : Bool := decide (pa < devTop)
def isHost (pa : Nat) : Bool := decide (hostBase ≤ pa) && decide (pa < 2 ^ 52)

/-- An address in a reserved region, in the device's own range of the host window, or in device memory
before Stage 2: cause PHYS (R73, R74, R478). -/
def reserved (s : State) (pa : Nat) : Bool :=
  if isDev pa then decide (s.pkg.stage < 2)
  else if isHost pa then
    decide (s.pkg.hb ≤ pa - hostBase) && decide (pa - hostBase < s.pkg.hb + devTop)
  else true

/-- The stack that serves a device address (R75). -/
def stackOf (pa : Nat) : Nat := fld pa 13 10 ^^^ fld pa 21 18 ^^^ fld pa 29 26 ^^^ fld pa 37 34
/-- The stack-local address (R75). -/
def stackAddr (pa : Nat) : Nat := fld pa 39 14 * 1024 + fld pa 9 0

/-- The L2 window that holds a device frame: from PIN_REHOME until its write-back at PIN_CLR_WRITEBACK (R107, R114).
DESIGN CHOICE: where a resume has left two windows on a frame, the first in the lists is its home (log 140). -/
def pinAt (s : State) (pa : Nat) : Option Window :=
  s.ctxs.findSome? fun c => c.2.windows.find? fun w =>
    !w.plane && (decide (w.stage = 1) || decide (w.stage = 2)) && w.frames.contains (pa / 65536)

/-- The byte offset of a physical address in a window (R107). -/
def Window.offsetOf (w : Window) (pa : Nat) : Nat := w.frames.idxOf (pa / 65536) * 65536 + pa % 65536

/-- The home slice, by physical identifier (R97, R107). -/
def homeSlice (s : State) (pa : Nat) : Nat :=
  match pinAt s pa with
  | some w => w.targets.getD (w.offsetOf pa / 1024 % w.targets.length) 0
  | none =>
    let die := if isDev pa then stackOf pa / 2 else fld pa 12 10 ^^^ fld pa 20 18
    die * 64 + (fld pa 17 14 ^^^ fld pa 25 22) * 4 + fld pa 9 8

/-- The CXL port of a host-window request (R480): the first trained one from PA[10:8] upward, with wrap. -/
def portOf (s : State) (pa : Nat) : Nat :=
  ((List.range 8).map fun k => (fld pa 10 8 + k) % 8).find? (s.pkg.ports.testBit ·) |>.getD (fld pa 10 8)

/-- Whether a page is device-biased (R91); host-window addresses are host-owned. -/
def devBiased (s : State) (pa : Nat) : Bool := isDev pa && s.bias.contains (pa / 65536)

/-- Canonical virtual addresses (R76). -/
def canonical (va : Nat) : Bool := decide (va < 2 ^ 56) || decide (2 ^ 64 - 2 ^ 56 ≤ va)

/-- Bits of a page at a level (R77). -/
def pageBits : Nat → Nat
  | 2 => 30
  | 1 => 21
  | _ => 16

def sectorOf (pa : Nat) : Nat := pa / 32
def lineOf (pa : Nat) : Nat := pa / 256

/-! ## Accesses that are held at the home (R89, R93, R114) -/

/-- A migration's lock holds writes to a line: the lines of its page P (R89, R90). It holds a write of every context, one in
drain mode too, though R84 says that such a write does not check the lock bit (DESIGN CHOICE, log 131). -/
def lockHeld (s : State) (pa : Nat) : Bool :=
  s.ctxs.any fun c => match c.2.xl with
    | some r => decide (r.op = 3) && decide (r.err = 0) && decide (r.oldPa ≤ pa) && decide (pa < r.oldPa + 2 ^ pageBits r.size)
    | none => false

/-- A bias flip in progress stalls the device's accesses to its pages (R93). -/
def flipHeld (s : State) (pa : Nat) : Bool :=
  s.ctxs.any fun c => match c.2.xl with
    | some r => decide (4 ≤ r.op) && decide (r.err = 0) && decide (r.arg0 ≤ pa) && decide (pa < r.arg0 + r.count * 65536)
        && !((s.bias.contains (pa / 65536)) == decide (r.op = 5))
    | none => false

/-- A window that PIN.CLR has ended holds the accesses to its frames until they are written back (R114). -/
def pinHeld (s : State) (pa : Nat) : Bool := (pinAt s pa).any fun w => decide (w.stage = 2)

/-- A read, and a write, that waits at its home. -/
def readHeld (s : State) (pa : Nat) : Bool := flipHeld s pa || pinHeld s pa
def writeHeld (s : State) (pa : Nat) : Bool := lockHeld s pa || readHeld s pa

/-- The turn waits where its access is held: the step that takes it leaves the machine as it was. -/
def holdIf (b : Bool) (s : State) : State := if b then { s with held := true } else s

/-- Two byte ranges overlap. -/
def rangesMeet (a n b k : Nat) : Bool := decide (a < b + k) && decide (b < a + n)

/-! ## L1 lines and the copy that a write updates (R153) -/

def l1Line (c : Cluster) (line : Nat) : Option L1Line := c.l1.find? fun l => decide (l.line = line)

def putL1 (c : Cluster) (l : L1Line) : Cluster :=
  { c with l1 := l :: c.l1.filter fun x => !decide (x.line = l.line) }

/-- The bytes of a write laid over a sector's copy that starts at `base`; under a pending fill they are marked
touched (R153, R156). Of the bytes given the write makes those that `m` names by their distance. -/
def L1Sector.overlay (x : L1Sector) (base pa : Nat) (bs : List Byte) (m : Nat → Bool) : L1Sector :=
  let hit (i : Nat) : Bool := decide (pa ≤ base + i) && decide (base + i < pa + bs.length) && m (base + i - pa)
  { x with
    data := (List.range 32).map fun i => if hit i then bs.getD (base + i - pa) 0 else x.data.getD i 0
    touched := if x.pending then (setBits 32 x.touched ++ (List.range 32).filter hit).dedup.foldl (fun m i => m + 2 ^ i) 0 else 0 }

/-- A write's bytes update the L1 copies of its own cluster (R153, R308). -/
def l1Update (s : State) (pid pa : Nat) (bs : List Byte) (m : Nat → Bool) : State :=
  let near (l : L1Line) (k : Nat) : Bool := rangesMeet (l.line * 256 + 32 * k) 32 pa bs.length
  let hit (l : L1Line) : Bool := l.sectors.any fun x => near l x.1
  if !((s.clu pid).l1.any hit) then s
  else s.modClu pid fun c => { c with l1 := c.l1.map fun l =>
    { l with sectors := l.sectors.mapVals fun k x => if near l k then x.overlay (l.line * 256 + 32 * k) pa bs m else x } }

/-! ## Performing at the home -/

/-- No cluster: the host and the translation controller write as this requester. -/
def noClu : Nat := 512

/-- GWCT of a write at a home at this moment (R306); a write to the host window covers every L1 copy at every scope. -/
def gwctOf (s : State) (pid pa : Nat) : Gwct :=
  let e := (s.homeOf pa).expiry
  let all := (List.range 8).foldl (fun acc d => max acc (e.get d 0)) (dt s)
  if isHost pa then Gwct.flat all else ⟨dt s, max (dt s) (e.get (pid / 64) 0), all⟩

/-- The lines that a range touches: an address in each. -/
def linesOf (pa n : Nat) : List Nat := (List.range ((pa % 256 + n + 255) / 256)).map fun k => pa + 256 * k

/-- The GWCT of a write that may span lines. -/
def gwctSpan (s : State) (pid pa n : Nat) : Gwct := (linesOf pa n).foldl (fun g a => g.max (gwctOf s pid a)) (gwctOf s pid pa)

/-- The completion time of the sectors of a write (R302). -/
def bumpCt (s : State) (pa n : Nat) (ct : Nat) : State :=
  (List.range ((pa % 32 + n + 31) / 32)).foldl (init := s) fun s k =>
    let a := pa + 32 * k
    s.modHome a fun h => { h with ct := h.ct.set (a / 32 % 8) (max ct (h.ct.get (a / 32 % 8) 0)) }

def homeCt (s : State) (pa n : Nat) : Nat :=
  (List.range ((pa % 32 + n + 31) / 32)).foldl (init := 0) fun acc k =>
    let a := pa + 32 * k
    max acc ((s.homeOf a).ct.get (a / 32 % 8) 0)

/-- The bytes at a home. -/
def homeRead (s : State) (pa n : Nat) : List Byte := s.mem.readList pa n

/-- A line that the host owns is obtained from it before a device access: 1 for a read, 2 (ownership) for a write
(R92). -/
def obtain (s : State) (pa n lvl : Nat) : State :=
  (linesOf pa n).foldl (init := s) fun s a =>
    if devBiased s a || decide (lvl ≤ (s.homeOf a).grant) then s else s.modHome a fun h => { h with grant := lvl }

/-- Host copies of device-biased lines are back-invalidated before a device write performs (R92). -/
def backInvalidate (s : State) (pa n : Nat) : State :=
  (linesOf pa n).foldl (init := s) fun s a =>
    if (s.homeOf a).hostCopy && devBiased s a then s.modHome a fun h => { h with hostCopy := false } else s

/-- Bytes written at a home by a cluster, with their GWCT; the cluster's own L1 copies follow (R92, R153, R306). Where only
some of the bytes are the write's own, `m` names them; the others are given as memory holds them. -/
def homeWriteSome (s : State) (pid pa : Nat) (bs : List Byte) (m : Nat → Bool) : State × Gwct :=
  let g := gwctSpan s pid pa bs.length
  let s := backInvalidate s pa bs.length
  let s := { s with mem := s.mem.writeList pa bs }
  (bumpCt (l1Update s pid pa bs m) pa bs.length g.pkg, g)

/-- The same for a write that makes all its bytes. -/
def homeWrite (s : State) (pid pa : Nat) (bs : List Byte) : State × Gwct := homeWriteSome s pid pa bs fun _ => true

/-! ## L2 residency (R96, R98, R104, R107) -/

/-- The sets of the caches: 256 in an L1 (R153), 1024 in a slice (R98), 32 in an instruction cache (R336). -/
def l1SetOf (line : Nat) : Nat := Config.l1Set line % 256
def l2SetOf (line : Nat) : Nat := Config.l2Set line % 1024
def icSetOf (va : Nat) : Nat := Config.icSet va % 32

/-- The least recently used line of the lowest priority class in a set: lists run from the most recently
used to the least. -/
def victimOf (ls : List (Nat × Nat)) : Option Nat :=
  -- (line, priority) pairs, most recently used first
  let low := ls.foldl (fun acc l => min acc l.2) 4
  (ls.reverse.find? fun l => decide (l.2 = low)).map (·.1)

/-- At most half the ways of a set hold retain-high: the least recently used of them falls to retain. -/
def demote (ways line : Nat) (ls : List L2Line) : List L2Line :=
  let hi := ls.filter fun l => decide (l2SetOf l.line = l2SetOf line) && decide (l.pri = 3)
  if hi.length ≤ ways / 2 then ls
  else match hi.reverse.head? with
    | some v => ls.map fun l => if l.line = v.line then { l with pri := 2 } else l
    | none => ls

/-- Sectors of a line that a range touches, as a mask of eight. -/
def sectorMask (pa n : Nat) : Nat :=
  ((List.range 8).filter fun k => rangesMeet (pa % 256) n (32 * k) 32).foldl (fun m k => m + 2 ^ k) 0

/-- The sectors that a touch makes valid: the missing ones of those it touches and, where one is missing, any further
sectors that the slice chooses to fetch (R96; a free choice, log 16). -/
def l2Fetch (s : State) (line mask valid : Nat) : Nat :=
  if mask &&& valid = mask then 0 else (mask ||| (Config.freeWord s.tick line).toNat) &&& ((valid &&& 255) ^^^ 255)

/-- A touch of a pinned line in its bank: it is never evicted (R107). -/
def pinTouch (s : State) (w : Window) (pa n : Nat) (wr : Bool) : State :=
  s.modClu (homeSlice s pa) fun c =>
    let line := lineOf pa
    let o := w.offsetOf (line * 256)
    let l := (c.pins.find? fun l => decide (l.line = line)).getD ⟨line, o / 1024 / w.targets.length * 1024 + o % 1024, 0, 0, 0⟩
    let mask := sectorMask pa n
    let new := l2Fetch s line mask l.valid
    let l := { l with valid := l.valid ||| new, pend := l.pend ||| new, dirty := if wr then l.dirty ||| mask else l.dirty }
    { c with pins := l :: c.pins.filter fun x => !decide (x.line = line) }

/-- A hit, an allocation or a pass-by at the home slice (R96, R104). Values never depend on it, but for the bytes that
race a pending fill (R157). -/
def l2Slot (s : State) (pa n pri : Nat) (na wr : Bool) : State :=
  s.modClu (homeSlice s pa) fun c =>
    let line := lineOf pa
    let mask := sectorMask pa n
    let ways := 16 * (8 - c.wpb - c.pinb)
    match c.l2.find? fun l => decide (l.line = line) with
    | some l =>
      let new := if na then 0 else l2Fetch s line mask l.valid
      let l := { l with
        pri := if na then 0 else pri
        valid := l.valid ||| new
        pend := l.pend ||| new
        dirty := if wr then l.dirty ||| mask &&& (l.valid ||| new) else l.dirty }
      { c with l2 := demote ways line (l :: c.l2.filter fun x => !decide (x.line = line)) }
    | none =>
      if na then c
      else
        let inSet := c.l2.filter fun l => decide (l2SetOf l.line = l2SetOf line)
        let l2 := if inSet.length < ways then c.l2
          else match victimOf (inSet.map fun l => (l.line, l.pri)) with
            | some v => c.l2.filter fun l => !decide (l.line = v)
            | none => c.l2
        let new := l2Fetch s line mask 0
        { c with l2 := demote ways line (⟨line, pri, new, if wr then mask else 0, new⟩ :: l2) }

/-- A pinned line goes to its bank, which stays empty while the frame is host-biased (R108); another line to the
slice's cache. -/
def l2Touch (s : State) (pa n pri : Nat) (na wr : Bool) : State :=
  if !isDev pa && !isHost pa then s
  else match pinAt s pa with
    | some w => if devBiased s pa then pinTouch s w pa n wr else s
    | none => l2Slot s pa n pri na wr

/-- A fill of the sector of an address is pending in its home slice (R155). -/
def l2Pending (s : State) (pa : Nat) : Bool :=
  let c := s.clu (homeSlice s pa)
  (c.l2.any fun l => decide (l.line = lineOf pa) && l.pend.testBit (pa / 32 % 8))
    || c.pins.any fun l => decide (l.line = lineOf pa) && l.pend.testBit (pa / 32 % 8)

/-- The fill data of a sector has been written into a slice (R155). -/
def l2Land (c : Cluster) (pa : Nat) : Cluster :=
  let off (m : Nat) : Nat := if m.testBit (pa / 32 % 8) then m - 2 ^ (pa / 32 % 8) else m
  { c with
    l2 := c.l2.map fun l => if l.line = lineOf pa then { l with pend := off l.pend } else l
    pins := c.pins.map fun l => if l.line = lineOf pa then { l with pend := off l.pend } else l }

/-! ## What translation tables say, as they stand in memory -/

/-- The index of a level (R77). -/
def vaIndex (va level : Nat) : Nat := if level = 0 then fld va 20 16 else fld va (12 + 9 * level + 8) (12 + 9 * level)

/-- Alignment of the ADDR field of a table entry found at a level, and of a leaf there (R77, R78). -/
def addrBits (level : Nat) (table : Bool) : Nat :=
  if table then (if level = 1 then 8 else 12) else pageBits level

/-- An entry that breaks R78, in the order of R482. -/
def entryFault (level e : Nat) : Option Cause :=
  let t := e.testBit 1
  if !e.testBit 0 then some .notmapped
  else if decide (fld e 63 52 ≠ 0) || e.testBit 7 || decide (fld e 51 8 * 256 % 2 ^ addrBits level t ≠ 0)
      || (!t && decide (3 ≤ level)) || (t && decide (level = 0))
      || (t && (e.testBit 2 || e.testBit 3 || e.testBit 4)) then some .pteRsv
  else none

/-- The leaf that a valid entry makes. -/
def leafOf (ctx level va at_ e : Nat) : TlbEnt :=
  { ctx := ctx, level := level, va := va / 2 ^ pageBits level * 2 ^ pageBits level, pa := fld e 51 8 * 256
    x := e.testBit 4, w := e.testBit 3, rd := e.testBit 2, d := e.testBit 6, entry := at_ }

/-- Levels 4 to 0. -/
def walkLevels : List Nat := [4, 3, 2, 1, 0]

/-- A walk over the bytes that memory holds, which changes nothing. -/
def peekFrom (s : State) (ctx va : Nat) : List Nat → Nat → Except Cause TlbEnt
  | [], _ => .error .notmapped
  | level :: rest, node =>
    let a := node + 8 * vaIndex va level
    if reserved s a then .error .phys
    else
      let e := s.mem.readNat a 8
      match entryFault level e with
      | some c => .error c
      | none => if e.testBit 1 then peekFrom s ctx va rest (fld e 51 8 * 256) else .ok (leafOf ctx level va a e)

def cachedLeaf (s : State) (pid ctx va : Nat) : Option TlbEnt :=
  ((s.clu pid).tlb1 ++ (s.clu pid).tlb).find? fun e => decide (e.ctx = ctx) && decide (e.va = va / 2 ^ pageBits e.level * 2 ^ pageBits e.level)

/-! ## Translation

Every access that a walk, a write-back or a log makes goes to its home as any other does. What has to be settled there
first (recalls and combines, which may themselves need a walk) is the argument `home` of these operations. -/

/-- A home access that reads, and one that writes. -/
def readBy (home : State → Nat → Nat → State) (s : State) (pa n : Nat) : State × List Byte × Nat :=
  let s := obtain (home s pa n) pa n 1
  (s, homeRead s pa n, homeCt s pa n)

def writeBy (home : State → Nat → Nat → State) (s : State) (pid pa : Nat) (bs : List Byte) : State × Gwct :=
  homeWrite (obtain (home s pa bs.length) pa bs.length 2) pid pa bs

def Acc.writes : Acc → Bool
  | .store | .atomic => true
  | _ => false

def Acc.ok (a : Acc) (e : TlbEnt) : Bool :=
  match a with
  | .load => e.rd
  | .store => e.w
  | .atomic => e.rd && e.w
  | .fetch => e.x

/-- Reading one entry at its home (R80); it waits where a flip or the end of a pin window holds the line. -/
def readEntryBy (home : State → Nat → Nat → State) (s : State) (a : Nat) : State × Nat :=
  let (s, bs, _) := readBy home (holdIf (readHeld s a) s) a 8
  (s, leNat bs)

/-- The walk from a node downward (R78): on success the leaf, with its entry as it was read, and the nodes passed on
the way, which the table-entry caches take (R82). -/
def walkFromBy (home : State → Nat → Nat → State) (ctx va : Nat) : List Nat → State → Nat → List (Nat × Nat) →
    State × Except Cause (TlbEnt × Nat) × List (Nat × Nat)
  | [], s, _, ns => (s, .error .notmapped, ns)
  | level :: rest, s, node, ns =>
    let a := node + 8 * vaIndex va level
    if reserved s a then (s, .error .phys, ns)
    else
      let (s, e) := readEntryBy home s a
      match entryFault level e with
      | some c => (s, .error c, ns)
      | none =>
        if e.testBit 1 then walkFromBy home ctx va rest s (fld e 51 8 * 256) ((level, fld e 51 8 * 256) :: ns)
        else (s, .ok (leafOf ctx level va a e, e), ns)

/-- The key of a cached table entry: the part of a VA above its level. -/
def nodeKey (va level : Nat) : Nat := va % 2 ^ 57 / 2 ^ (12 + 9 * level)

/-- A walk: from a cached table entry where the caches still hold one, else from the root (R77, R82); on success with the
table entries that it passed. -/
def walkBy (home : State → Nat → Nat → State) (s : State) (pid ctx va : Nat) :
    State × Except Cause (TlbEnt × Nat × List (Nat × Nat)) :=
  let c := s.clu pid
  let cached := c.nodes.find? fun n => decide (n.1 = ctx) && decide (2 ≤ n.2.1)
    && decide (n.2.2.1 = nodeKey va n.2.1) && Config.freeBit s.tick n.2.1
  let (lv, node) := match cached with
    | some n => (walkLevels.filter (· < n.2.1), n.2.2.2)
    | none => (walkLevels, (s.ctx ctx).root * 4096)
  match walkFromBy home ctx va lv s node [] with
  | (s, .error e, _) => (s, .error e)
  | (s, .ok (leaf, x), ns) => (s, .ok (leaf, x, ns))

/-- Level 4 to level 2 entries put in the table-entry cache (R82). -/
def installNodes (s : State) (pid ctx va : Nat) (ns : List (Nat × Nat)) : State :=
  let fresh := (ns.filter fun n => decide (2 ≤ n.1)).map fun n => (ctx, n.1, nodeKey va n.1, n.2)
  s.modClu pid fun c => { c with
    nodes := (fresh ++ c.nodes.filter fun n => fresh.all fun f => !decide ((n.1, n.2.1, n.2.2.1) = (f.1, f.2.1, f.2.2.1))).take 256 }

/-- Two entries of one page. -/
def TlbEnt.same (e f : TlbEnt) : Bool := decide ((e.ctx, e.level, e.va) = (f.ctx, f.level, f.va))

/-- A leaf put in a cache of a size; a full one gives up a free victim. -/
def putLeaf (cap v : Nat) (leaf : TlbEnt) (l : List TlbEnt) : List TlbEnt :=
  let rest := l.filter fun e => !e.same leaf
  leaf :: (if rest.length < cap then rest else rest.eraseIdx (v % rest.length))

/-- Entries of a first-level cache: 64 KiB, 2 MiB and 1 GiB pages (R82). -/
def tlb1Cap : Nat → Nat
  | 0 => 128
  | 1 => 64
  | _ => 16

/-- A leaf in the first-level cache of its page size (R82). -/
def installFirst (s : State) (pid : Nat) (leaf : TlbEnt) : State :=
  s.modClu pid fun c => { c with
    tlb1 := putLeaf (tlb1Cap leaf.level) (Config.tlbVictim s.tick) leaf (c.tlb1.filter fun e => decide (e.level = leaf.level))
      ++ c.tlb1.filter fun e => !decide (e.level = leaf.level) }

/-- A leaf installed in a cluster's translation caches (R82). -/
def installLeaf (s : State) (pid : Nat) (leaf : TlbEnt) : State :=
  (installFirst s pid leaf).modClu pid fun c => { c with tlb := putLeaf 4096 (Config.tlbVictim s.tick) leaf c.tlb }

/-- A leaf dropped from a cluster's translation caches. -/
def dropLeaf (s : State) (pid : Nat) (leaf : TlbEnt) : State :=
  s.modClu pid fun c => { c with
    tlb1 := c.tlb1.filter fun e => !e.same leaf
    tlb := c.tlb.filter fun e => !e.same leaf }

/-- An atomic OR into an entry at its home (R80). A lock holds it there, and with it the access that walks, until the
migration performs it (R89); a flip or the end of a pin window makes it wait. -/
def orEntryBy (home : State → Nat → Nat → State) (s : State) (pid a x bit : Nat) : State :=
  let mine (w : LateWrite) : Bool := decide (w.pid = pid) && decide (w.pa = a) && decide (w.bit = bit)
  if s.late.any fun w => mine w && w.done then { s with late := s.late.filter fun w => !(mine w && w.done) }
  else if lockHeld s a then
    { s with held := true, late := if s.late.any mine then s.late else s.late ++ [⟨pid, a, [], bit, false⟩] }
  else (writeBy home (holdIf (readHeld s a) s) pid a (leBytes 8 (x ||| bit))).1

/-- The leaf that a walk finds, installed with A set, as are the table entries on its path (R80, R82). A leaf whose page is
reserved ends the walk in PHYS, so nothing is installed (R78, R81). -/
def walkLeafBy (home : State → Nat → Nat → State) (s : State) (pid ctx va : Nat) : State × Except Cause TlbEnt :=
  match walkBy home s pid ctx va with
  | (s, .error c) => (s, .error c)
  | (s, .ok (leaf, x, ns)) =>
    if reserved s (leaf.pa + va % 2 ^ pageBits leaf.level) then (s, .ok leaf)
    else
      let s := if x.testBit 5 then s else orEntryBy home s pid leaf.entry x 32
      (installLeaf (installNodes s pid ctx va ns) pid leaf, .ok leaf)

/-- A leaf for an address: a cached one, which the first level takes, or the one that a walk finds. -/
def leafForBy (home : State → Nat → Nat → State) (s : State) (pid ctx va : Nat) : State × Except Cause TlbEnt :=
  match cachedLeaf s pid ctx va with
  | some e => (if (s.clu pid).tlb1.contains e then s else installFirst s pid e, .ok e)
  | none => walkLeafBy home s pid ctx va

/-- What a leaf gives for an access: PROT before PHYS (R482). -/
def leafPa (s : State) (acc : Acc) (va : Nat) (e : TlbEnt) : Except Cause Nat :=
  let pa := e.pa + va % 2 ^ pageBits e.level
  if !acc.ok e then .error .prot
  else if reserved s pa then .error .phys
  else .ok pa

/-- D set at a leaf's home and in the caches. -/
def setDirtyBy (home : State → Nat → Nat → State) (s : State) (pid : Nat) (e : TlbEnt) (x : Nat) : State :=
  installLeaf (orEntryBy home s pid e.entry x 64) pid { e with d := true }

/-- The dirty update of R80: the first store or atomic through a leaf whose D is 0 re-reads the entry. Where that finds
no writable leaf, the access fares as if no entry had been cached. -/
def dirtyUpdateBy (home : State → Nat → Nat → State) (s : State) (pid ctx va : Nat) (acc : Acc) (e : TlbEnt) : State × Except Cause Nat :=
  let pa := e.pa + va % 2 ^ pageBits e.level
  if e.d then (s, .ok pa)
  else
    let (s, x) := readEntryBy home s e.entry
    if (entryFault e.level x).isNone && !x.testBit 1 && x.testBit 3 then (setDirtyBy home s pid e x, .ok pa)
    else match walkLeafBy home (dropLeaf s pid e) pid ctx va with
      | (s, .error c) => (s, .error c)
      | (s, .ok f) => match leafPa s acc va f with
        | .error c => (s, .error c)
        | .ok pa =>
          let (s, x) := readEntryBy home s f.entry
          (if f.d then s else setDirtyBy home s pid f x, .ok pa)

/-- Translation of one address for an access, settled (R76 to R83), causes in the order of R482. -/
def translateBy (home : State → Nat → Nat → State) (s : State) (pid ctx va : Nat) (acc : Acc) : State × Except Cause Nat :=
  if !canonical va then (s, .error .noncanon)
  else if !(s.ctx ctx).en then (s, .error .notmapped)
  else
    match leafForBy home s pid ctx va with
    | (s, .error c) => (s, .error c)
    | (s, .ok e) => match leafPa s acc va e with
      | .error c => (s, .error c)
      | .ok pa => if acc.writes then dirtyUpdateBy home s pid ctx va acc e else (s, .ok pa)

/-! ## Stash sectors (R158 to R161) -/

/-- The priority and the no-allocate bit that a write-back takes at the L2: normal, or those of a stash word
(R161, R162); `sure` that it is made under the translation its sector was filled with, without a check (R87). -/
structure BackHint where
  pri : Nat
  na : Bool
  sure : Bool
  deriving DecidableEq, Repr, Inhabited

def BackHint.normal : BackHint := ⟨1, false, false⟩

/-- Touched bytes of a sector written at its home, once the host has given up the line (R92). -/
def backBytes (s : State) (pid : Nat) (h : BackHint) (e : StashEnt) (k : Nat) (pa touched : Nat) : State × Gwct :=
  let bytes := s.localRead e.fid e.clu (e.off + 32 * k) 32
  let bs := (List.range 32).map fun i =>
    if touched.testBit i then bytes.getD i 0 else s.mem.read (pa + i)
  homeWriteSome (obtain (l2Touch (holdIf (writeHeld s pa) s) pa 32 h.pri h.na true) pa 32 2) pid pa bs fun i => touched.testBit i

/-- Why a stash write-back of an address of a context may not be made: it is a store of its cluster (R79, R163). -/
def backCheckBy (home : State → Nat → Nat → State) (s : State) (pid ctx va : Nat) : State × Option Cause :=
  match translateBy home s pid ctx va .store with
  | (s, .ok _) => (s, none)
  | (s, .error c) => (s, some c)

/-- A sector of a stash entry written back at its home: the touched bytes (R160, R161). Where it may not
be made they are lost, and the loss is recorded (R79, R163). -/
def writeBackBy (home : State → Nat → Nat → State) (s : State) (pid : Nat) (h : BackHint) (e : StashEnt) (k : Nat)
    (pa touched : Nat) : State × Gwct :=
  let ctx := (s.flk e.fid).ctx
  match if h.sure then (s, none) else backCheckBy home s pid ctx (e.va + 32 * k) with
  | (s, none) => backBytes s pid h e k pa touched
  | (s, some c) =>
    let first := ((setBits 32 touched).head?).getD 0
    ({ s with lost := s.lost ++ [⟨ctx, pid, c, e.va + 32 * k + first, popCount 32 touched⟩] }, gwctOf s pid pa)

/-- The state of a sector, UNFILLED unless listed. -/
def StashEnt.st (e : StashEnt) (k : Nat) : StashSt := e.sectors.get k .unfilled

def setSector (s : State) (pid va k : Nat) (st : StashSt) : State :=
  s.modClu pid fun c => { c with stash := c.stash.map fun e =>
    if e.va = va then { e with sectors := e.sectors.set k st } else e }

def dropOwner (s : State) (pa : Nat) : State :=
  s.modHome pa fun h => { h with owners := h.owners.erase (pa / 32 % 8) }

/-- An access lies in a sector of an entry. -/
def MemOp.inSector (o : MemOp) (pid : Nat) (e : StashEnt) (k : Nat) : Bool :=
  match o.place with
  | .glob va _ => decide (o.pid = pid) && decide (e.va + 32 * k ≤ va) && decide (va < e.va + 32 * k + 32)
  | .loc c off _ _ m => m && decide (o.tid.fid = e.fid) && decide (c = e.clu) && decide (e.off + 32 * k ≤ off) && decide (off < e.off + 32 * k + 32)

/-- The GWCT of made writes becomes known: from the moment of each write where a home has granted at `t`, else as
given (R159, R298, R307). -/
def owe (s : State) (p : MemOp → Bool) (t : Option Nat) (g : Gwct) : State :=
  let upd (o : MemOp) : MemOp := match o.made with
    | some m => if o.gw.isNone && p o then { o with gw := some (match t with
        | some t => Gwct.flat (max m t)
        | none => g) } else o
    | none => o
  { s with ops := s.ops.map upd }

/-- The same for bytes that chunks of copies have merged into a sector (R125, R159). -/
def oweChunks (s : State) (pid va k : Nat) (t : Option Nat) (g : Gwct) : State :=
  let mine (o : Owed) : Bool := decide ((o.pid, o.va, o.sec) = (pid, va, k))
  let upd (c : Chunk) : Chunk :=
    { c with
      owed := c.owed.filter fun o => !mine o
      gwct := (c.owed.filter mine).foldl (fun m o => max m (match t with
        | some t => max o.t t
        | none => g.at o.cls)) c.gwct }
  { s with clusters := s.clusters.mapVals fun _ c => { c with
      cq := c.cq.mapVals fun _ q => { q with ents := q.ents.map fun e => { e with chunks := e.chunks.map upd } } } }

/-- Every write that a sector of a stash entry still owes a GWCT gets it. -/
def oweSector (s : State) (pid : Nat) (e : StashEnt) (k : Nat) (t : Option Nat) (g : Gwct) : State :=
  oweChunks (owe s (fun o => o.inSector pid e k) t g) pid e.va k t g

/-- One sector emptied: dirty or touched bytes are written back; it is left UNFILLED (R160, R161). Bytes of a sector that is
not owned yet reach their home as any store does. The GWCT of a write-back is answered. -/
def evictBy (home : State → Nat → Nat → State) (s : State) (pid : Nat) (h : BackHint) (e : StashEnt) (k : Nat) : State × Option Gwct :=
  match e.st k with
  | .unfilled => (s, none)
  | .clean pa _ => (dropOwner (setSector s pid e.va k .unfilled) pa, none)
  | .dirty pa _ t =>
    let (s, g) := writeBackBy home s pid h e k pa t
    (dropOwner (setSector s pid e.va k .unfilled) pa, some g)
  | .pending pa ot t =>
    let (s, g) := if t = 0 then (s, none) else
      let (s, g) := writeBackBy home (if ot.isNone then home s pa 32 else s) pid h e k pa t
      (s, some g)
    let s := setSector (oweSector s pid e k ot (g.getD default)) pid e.va k .unfilled
    (if ot.isNone then s else dropOwner s pa, g)

/-- A recall of the sector of an address, where some cluster owns it (R160). -/
def recallBy (home : State → Nat → Nat → State) (s : State) (pa : Nat) : State :=
  match (s.homeOf pa).owners.find (pa / 32 % 8) with
  | none => s
  | some (pid, va) =>
    match (s.clu pid).stash.find? (fun e => decide (e.va ≤ va) && decide (va < e.va + e.len)) with
    | none => dropOwner s pa
    | some e => (evictBy home s pid .normal e ((va - e.va) / 32)).1

/-! ## Atomics' results (R288) -/

/-- The value an operation writes: `w` is the width in bytes. -/
def atomResult (op w m v cmp : Nat) : Nat :=
  let b := 8 * w
  let sg := fun x => sextInt x b
  match op with
  | 0 => (m + v) % 2 ^ b
  | 1 => (roundTo fF32 .rn false false (Val.add false (fF32.value m) (fF32.value v)).1).1
  | 2 => if sg v < sg m then v else m
  | 3 => if sg m < sg v then v else m
  | 4 => if v < m then v else m
  | 5 => if m < v then v else m
  | 6 => m &&& v
  | 7 => m ||| v
  | 8 => m ^^^ v
  | 9 => v
  | _ => if m = cmp then v else m

/-- The identity that an untouched element of an update-only line holds (R189, R297). -/
def atomIdentity (op w : Nat) : Nat :=
  match op with
  | 2 => 2 ^ (8 * w - 1) - 1
  | 3 => 2 ^ (8 * w - 1)
  | 4 | 6 => 2 ^ (8 * w) - 1
  | _ => 0

/-! ## Logs of atomics (R453) -/

/-- The requester of an access: physical cluster, kind (0 lane, 1 generator, 2 copy), slot or thread. -/
def requester (pid kind n : Nat) : Nat := pid * 64 + kind * 16 + n

/-- A home slice stores bytes of its log at their home; a lock holds them there (R89). -/
def logStoreBy (home : State → Nat → Nat → State) (s : State) (sl a : Nat) (bs : List Byte) : State :=
  if lockHeld s a then { s with late := s.late ++ [⟨sl, a, bs, 0, false⟩] }
  else (writeBy home (holdIf (readHeld s a) s) sl a bs).1

/-- A log after one more atomic: its count, and the index, requester and run length of its newest entry. -/
def logNext (req : Nat) : Nat × Option (Nat × Nat × Nat) → Nat × Nat × Nat × Nat
  | (n, some (i, r, k)) => if r = req ∧ k < 65535 then (n, i, req, k + 1) else (n + 1, i + 1, req, 1)
  | (n, none) => (n + 1, 0, req, 1)

/-- The region of a home slice in a context's log. -/
def Ctx.logRegion (c : Ctx) (sl : Nat) : Nat := c.alogBase * 4096 + sl * 2 ^ (c.alogLog2 + 12)

/-- One atomic logged by a home slice in a context's log: the entry, and then the count as it then stands. -/
def logOneBy (home : State → Nat → Nat → State) (s : State) (cn sl req : Nat) : State :=
  let c := s.ctx cn
  let base := c.logRegion sl
  let e := logNext req (c.alog.get sl (0, none))
  let s := s.setCtx cn { c with alog := c.alog.set sl (e.1, some e.2) }
  let s := if 8 + 4 * (e.2.1 + 1) ≤ 2 ^ (c.alogLog2 + 12)
    then logStoreBy home s sl (base + 8 + 4 * e.2.1) (leBytes 4 (req * 65536 + e.2.2.2)) else s
  logStoreBy home s sl base (leBytes 8 ((s.ctx cn).alog.get sl (0, none)).1)

/-- One atomic logged at a watched line's home slice, for each context that watches it. -/
def logAtomicBy (home : State → Nat → Nat → State) (s : State) (pa req : Nat) : State :=
  s.ctxs.foldl (init := s) fun s c =>
    if (s.ctx c.1).watch.any fun w => w.en && decide (w.base ≤ lineOf pa) && decide (lineOf pa < w.base + w.lines)
    then logOneBy home s c.1 (homeSlice s pa) req else s

/-! ## Update-only lines (R297 to R299) -/

def uoAt (c : Cluster) (line : Nat) : Option UoLine :=
  (c.l1.find? fun l => decide (l.line = line)).bind (·.uo)

def dropL1Line (s : State) (pid line : Nat) : State :=
  s.modClu pid fun c => { c with l1 := c.l1.filter fun l => !decide (l.line = line) }

/-- A made RED whose value lies in an update-only line of a cluster. -/
def MemOp.inUo (o : MemOp) (pid line : Nat) : Bool :=
  match o.deed, o.place with
  | .atomic _ _ _ true, .glob _ pa => decide (o.pid = pid) && decide (lineOf pa = line)
  | _, _ => false

/-- The gathered values of an update-only line applied at the home, as REDs of its cluster: their GWCT. A combine logs the
copy as one atomic; elements that go home as ordinary REDs are logged each (R298, R453). -/
def applyValsBy (home : State → Nat → Nat → State) (s : State) (pid line : Nat) (u : UoLine) (each : Bool) : State × Gwct :=
  let s := if each then s else logAtomicBy home s (line * 256) u.req
  u.vals.foldl (init := (s, gwctOf s pid (line * 256))) fun (s, g) (e, v) =>
    let a := line * 256 + e * u.width
    let s := if each then logAtomicBy home s a u.req else s
    let m := s.mem.readNat a u.width
    let (s, h) := homeWrite s pid a (leBytes u.width (atomResult u.op u.width m v 0))
    (s, g.max h)

/-- A cluster's gathered values applied at the home; the line leaves its L1. -/
def applyGatheredBy (home : State → Nat → Nat → State) (s : State) (pid line : Nat) : State :=
  match uoAt (s.clu pid) line with
  | none => s
  | some u =>
    let (s, g) := applyValsBy home s pid line u false
    dropL1Line (owe s (fun o => o.inUo pid line) u.ut g) pid line

/-- The combine of R299: every sharer's copy is recalled and applied; the sharer set is cleared. -/
def combineBy (home : State → Nat → Nat → State) (s : State) (line : Nat) : State :=
  let s := (s.homeOf (line * 256)).sharers.foldl (init := s) fun s pid => applyGatheredBy home s pid line
  s.modHome (line * 256) fun h => { h with sharers := [] }

/-- Before an access performs at the home of an address, owned sectors are recalled (R160) and sharers
combined (R299). -/
def atHomeBy (home : State → Nat → Nat → State) (s : State) (pa n : Nat) : State :=
  let s := (List.range ((pa % 32 + n + 31) / 32)).foldl (init := s) fun s k => recallBy home s (pa + 32 * k)
  (List.range ((pa % 256 + n + 255) / 256)).foldl (init := s) fun s k =>
    if (s.homeOf (pa + 256 * k)).sharers = [] then s else combineBy home s (lineOf (pa + 256 * k))

/-- The accesses that a recall needs (the walk of its write-back), those that these need in turn, and so on, to a depth;
beyond it an access finds its home as it stands (log 124). -/
def atHomeN : Nat → State → Nat → Nat → State
  | 0 => fun s _ _ => s
  | n + 1 => atHomeBy (atHomeN n)

/-- The depth of the chains of recalls (log 124). -/
def homeDepth : Nat := 6

def atHome (s : State) (pa n : Nat) : State := atHomeN homeDepth s pa n

/-! The operations over what an access at its home settles. -/

def readAtHome (s : State) (pa n : Nat) : State × List Byte × Nat := readBy atHome s pa n
def writeAtHome (s : State) (pid pa : Nat) (bs : List Byte) : State × Gwct := writeBy atHome s pid pa bs
def readEntry (s : State) (a : Nat) : State × Nat := readEntryBy atHome s a
def walkFrom (ctx va : Nat) (ls : List Nat) (s : State) (node : Nat) (ns : List (Nat × Nat)) :
    State × Except Cause (TlbEnt × Nat) × List (Nat × Nat) := walkFromBy atHome ctx va ls s node ns
def leafFor (s : State) (pid ctx va : Nat) : State × Except Cause TlbEnt := leafForBy atHome s pid ctx va
def translate (s : State) (pid ctx va : Nat) (acc : Acc) : State × Except Cause Nat := translateBy atHome s pid ctx va acc
def backCheck (s : State) (pid ctx va : Nat) : State × Option Cause := backCheckBy atHome s pid ctx va
def writeBack (s : State) (pid : Nat) (h : BackHint) (e : StashEnt) (k : Nat) (pa touched : Nat) : State × Gwct :=
  writeBackBy atHome s pid h e k pa touched
def evictSector (s : State) (pid : Nat) (h : BackHint) (e : StashEnt) (k : Nat) : State × Option Gwct :=
  evictBy atHome s pid h e k
def recallSector (s : State) (pa : Nat) : State := recallBy atHome s pa
def logStore (s : State) (sl a : Nat) (bs : List Byte) : State := logStoreBy atHome s sl a bs
def logAtomic (s : State) (pa req : Nat) : State := logAtomicBy atHome s pa req
def applyVals (s : State) (pid line : Nat) (u : UoLine) (each : Bool) : State × Gwct := applyValsBy atHome s pid line u each
def applyGathered (s : State) (pid line : Nat) : State := applyGatheredBy atHome s pid line
def combine (s : State) (line : Nat) : State := combineBy atHome s line

/-- Gathered values that no home has granted yet reach the home as REDs: what others hold of the line is settled first
(R160, R299). -/
def sendGathered (s : State) (pid line : Nat) : State := applyGathered (atHome s (line * 256) 256) pid line

/-- An update-only line leaves its cluster: the home combines it, or, before its grant, takes its own values (R299). -/
def uoFlush (s : State) (pid line : Nat) : State :=
  match uoAt (s.clu pid) line with
  | none => s
  | some u => if u.ut.isSome then combine s line else sendGathered s pid line

/-- Translation of a range that may span two pages: the lower part's fault first (R83, R482). -/
def translateRange (s : State) (pid ctx va n : Nat) (acc : Acc) : State × Except Cause Nat :=
  match translate s pid ctx va acc with
  | (s, .error c) => (s, .error c)
  | (s, .ok pa) =>
    if va / 65536 = (va + n - 1) / 65536 then (s, .ok pa)
    else
      match translate s pid ctx ((va + n - 1) % 2 ^ 64) acc with
      | (s, .error c) => (s, .error c)
      | (s, .ok _) => (s, .ok pa)

/-! ## L1 (R153, R154) -/

/-- A sector that a read may hit: valid and unexpired (R153). -/
def l1Hit (s : State) (pid pa : Nat) : Option L1Sector :=
  ((l1Line (s.clu pid) (lineOf pa)).bind fun l => l.sectors.find (pa / 32 % 8)).filter fun x =>
    !x.pending && decide (dt s < x.expiry)

/-- Room for a line in its L1 set of 16 ways, by the victim rule of R104; an update-only victim is
combined (R299). -/
def l1Room (s : State) (pid line : Nat) : State :=
  let c := s.clu pid
  if (l1Line c line).isSome then s
  else
    let inSet := c.l1.filter fun l => decide (l1SetOf l.line = l1SetOf line)
    if inSet.length < 16 then s
    else match victimOf (inSet.map fun l => (l.line, l.pri)) with
      | none => s
      | some v =>
        dropL1Line (uoFlush (holdIf ((uoAt c v).isSome && writeHeld s (v * 256)) s) pid v) pid v

/-- At most eight of the sixteen ways of an L1 set hold retain-high (R154). -/
def l1Demote (c : Cluster) (line : Nat) : Cluster :=
  let hi := c.l1.filter fun l => decide (l1SetOf l.line = l1SetOf line) && decide (l.pri = 3)
  if hi.length ≤ 8 then c
  else match hi.reverse.head? with
    | some v => { c with l1 := c.l1.map fun l => if l.line = v.line then { l with pri := 2 } else l }
    | none => c

/-- A fill claimed in the L1: its sector becomes pending (R155) and takes the context's LEASE (R303). -/
def l1Claim (s : State) (pid ctx pa pri : Nat) : State :=
  let s := l1Room s pid (lineOf pa)
  s.modClu pid fun c =>
    let l := (l1Line c (lineOf pa)).getD ⟨lineOf pa, pri, [], none⟩
    let sec : L1Sector := ⟨[], 0, 0, 0, true, false, 0, (s.ctx ctx).leaseNs⟩
    l1Demote (putL1 c { l with pri := pri, sectors := l.sectors.set (pa / 32 % 8) sec }) (lineOf pa)

/-- The home's grant of a pending L1 fill (R304): data, expiry, CT and the die expiry. The bytes that writes of the cluster
have touched before stand at the home already, as those writes left them or as later ones did (R156, R308). -/
def l1Grant (s : State) (pid pa : Nat) : State :=
  match (l1Line (s.clu pid) (lineOf pa)) with
  | none => s
  | some l =>
    match l.sectors.find (pa / 32 % 8) with
    | none => s
    | some x =>
      if !x.pending || x.granted then s
      else
        let base := pa / 32 * 32
        let (s, bs, ct) := readAtHome s base 32
        let g := dt s
        let s := l2Touch s base 32 l.pri false false
        let s := s.modHome pa fun h =>
          { h with expiry := h.expiry.set (pid / 64) (max (g + x.ns + 2) (h.expiry.get (pid / 64) 0)) }
        s.modClu pid fun c =>
          let l := (l1Line c (lineOf pa)).getD l
          let y := { x with data := bs, expiry := g + x.ns, grant := g, ct := ct, granted := true }
          putL1 c { l with uo := none, sectors := l.sectors.set (pa / 32 % 8) y }

/-- A store's hints at its own cluster's L1 (R154): the copy of its sector takes the priority, or goes. The bytes of
the copy have followed the write already. -/
def l1Store (s : State) (pid pa pri : Nat) (na : Bool) : State :=
  s.modClu pid fun c =>
    match l1Line c (lineOf pa) with
    | none => c
    | some l =>
      if (l.sectors.find (pa / 32 % 8)).isNone then c
      else if na then putL1 c { l with sectors := l.sectors.erase (pa / 32 % 8) }
      else l1Demote (putL1 c { l with pri := pri }) (lineOf pa)

/-- Invalidation of the L1 sectors whose fill was granted before a moment (R310). -/
def l1Invalidate (s : State) (pid horizon : Nat) : State :=
  s.modClu pid fun c => { c with l1 := c.l1.map fun l =>
    { l with sectors := l.sectors.filter fun x => x.2.pending && !x.2.granted || decide (horizon ≤ x.2.grant) } }

/-- Every L1 copy of a line on the package ends (R305, R93). -/
def l1EndLease (s : State) (line : Nat) : State :=
  { s with clusters := s.clusters.map fun e =>
      (e.1, { e.2 with l1 := e.2.l1.map fun l => if l.line = line then { l with sectors := [] } else l }) }

/-! ## Stash accesses (R158 to R160) -/

/-- The entry of a cluster that maps a VA. -/
def stashVa (s : State) (pid va : Nat) : Option StashEnt :=
  (s.clu pid).stash.find? fun e => decide (e.va ≤ va) && decide (va < e.va + e.len)

/-- The entry of a member whose local range holds an offset. -/
def stashOff (s : State) (fid clu off : Nat) : Option StashEnt :=
  (s.clu (s.pidOf fid clu)).stash.find? fun e =>
    decide (e.fid = fid) && decide (e.clu = clu) && decide (e.off ≤ off) && decide (off < e.off + e.len)

/-- The physical address that a sector records (R158). -/
def StashEnt.paAt (e : StashEnt) (k : Nat) : Option Nat :=
  match e.st k with
  | .unfilled => none
  | .pending pa _ _ => some pa
  | .clean pa _ => some pa
  | .dirty pa _ _ => some pa

/-- What an access through a sector needs of its leaf: a write that touches an UNFILLED one needs Rd for the fill and W
(R79, R159). -/
def stashAcc (e : StashEnt) (k : Nat) (acc : Acc) : Acc :=
  if acc.writes && (e.paAt k).isNone then .atomic else acc

/-- What a GLOBAL access needs of its leaf: where a stash entry maps it, the fill's permission too (R79, R159). -/
def globalAcc (s : State) (pid va : Nat) (acc : Acc) : Acc :=
  match stashVa s pid va with
  | some e => stashAcc e ((va - e.va) / 32) acc
  | none => acc

/-- The first touch of an UNFILLED sector: it is claimed at its home and PENDING (R159). -/
def stashClaim (s : State) (pid : Nat) (e : StashEnt) (k pa : Nat) : State :=
  match e.st k with
  | .unfilled => setSector s pid e.va k (.pending (pa / 32 * 32) none 0)
  | _ => s

/-- A write into an entry's sector: it merges while PENDING and makes a filled sector DIRTY (R156, R159).
The GWCT is known once ownership is. -/
def stashWrite (s : State) (pid : Nat) (e : StashEnt) (off : Nat) (bs : List Byte) (pa : Nat) : State × Option Gwct :=
  let k := (off - e.off) / 32
  let mask := (2 ^ bs.length - 1) * 2 ^ ((off - e.off) % 32)
  let s := s.localWrite e.fid e.clu off bs
  match e.st k with
  | .unfilled => (setSector s pid e.va k (.pending (pa / 32 * 32) none mask), none)
  | .pending p ot t => (setSector s pid e.va k (.pending p ot (t ||| mask)), ot.map fun o => Gwct.flat (max (dt s) o))
  | .clean p ot => (setSector s pid e.va k (.dirty p ot mask), some (Gwct.flat (max (dt s) ot)))
  | .dirty p ot t => (setSector s pid e.va k (.dirty p ot (t ||| mask)), some (Gwct.flat (max (dt s) ot)))

/-- The ownership time of a sector, once granted. -/
def stashOt (e : StashEnt) (k : Nat) : Option Nat :=
  match e.st k with
  | .pending _ ot _ => ot
  | .clean _ ot => some ot
  | .dirty _ ot _ => some ot
  | .unfilled => some 0

/-! ## Reel stores (R349) -/

/-- Reels of a context made undefined, in the reel store and in every reel cache (R349, R351, R353). -/
def dropReels (s : State) (ctx : Nat) (p : Nat → Bool) : State :=
  let s := s.modCtx ctx fun c => { c with reels := c.reels.filter fun r => !p r.1 }
  { s with clusters := s.clusters.mapVals fun _ c => { c with
      reels := c.reels.filter fun e => !(decide ((s.flk e.fid).ctx = ctx) && p e.num) } }

/-- A range of physical bytes meets a range of VAs of a context, by what the tables hold; both within 64 KiB of their
start. -/
def reaches (s : State) (ctx va n pa k : Nat) : Bool :=
  let at_ (v : Nat) : Option Nat := if canonical v && (s.ctx ctx).en then
    match peekFrom s ctx v walkLevels ((s.ctx ctx).root * 4096) with
    | .ok e => some (e.pa + v % 2 ^ pageBits e.level)
    | .error _ => none else none
  let low := min n (65536 - va % 65536)
  ((at_ va).any fun p => rangesMeet p low pa k) || (decide (low < n) && (at_ (va + low)).any fun p => rangesMeet p (n - low) pa k)

/-- The tables of a context map an address to a page that exists. -/
def mapsPage (s : State) (ctx va : Nat) : Bool :=
  canonical va && (s.ctx ctx).en && match peekFrom s ctx va walkLevels ((s.ctx ctx).root * 4096) with
    | .ok e => !reserved s (e.pa + va % 2 ^ pageBits e.level)
    | .error _ => false

/-- A write to memory that a reel store holds leaves the reels it touches undefined, through whatever VA it comes; reel n
stands at 32 KiB × n (DEDUCED, log 19). -/
def reelTouch (s : State) (ctx va pa n : Nat) : State :=
  let stores := ((s.flocks.filter fun f => decide (f.2.rcd.reels ≠ 0)).map fun f => (f.2.ctx, f.2.rcd.reels)).dedup
  stores.foldl (init := s) fun s (c, b) => dropReels s c fun k =>
    (decide (c = ctx) && rangesMeet (k * 32768 + b) 32768 va n) || reaches s c (k * 32768 + b) 32768 pa n

end Sys2Proof.Machine
end

