-- ==== Sys2Proof/Machine/Ops.lean ====
section
/-! DEFINITION. The shared operations of a generator thread: registers, the program counter, fault records,
taking a trap and returning from one (R319 to R334, R422 to R432). -/

namespace Sys2Proof.Machine

/-! ## The thread in focus -/

def me (s : State) : Thread := s.thr s.cur
def modMe (s : State) (f : Thread → Thread) : State := s.modThr s.cur f
def myFlk (s : State) : Flock := s.flk s.cur.fid
def myPid (s : State) : Nat := s.pidOf s.cur.fid s.cur.clu
def myCtx (s : State) : Nat := s.ctxOf s.cur
/-- The context of a thread is privileged (R324, R323). -/
def myPriv (s : State) : Bool := (s.ctx (myCtx s)).priv

/-- A generator register; g0 reads 0 (R319). -/
def Thread.gr (x : Thread) (r : Nat) : Word64 := if r = 0 then 0 else x.g.get r 0
/-- A register written; a write to g0 is discarded (R319). -/
def Thread.setGr (x : Thread) (r : Nat) (v : Word64) : Thread := if r = 0 then x else { x with g := x.g.set r v }

/-- The value of a generator register of the thread in focus. -/
def rd (s : State) (r : GReg) : Word64 := (me s).gr r.toNat
/-- A generator register of the thread in focus written. -/
def wr (s : State) (r : GReg) (v : Word64) : State := modMe s fun x => x.setGr r.toNat v
def rdN (s : State) (r : GReg) : Nat := (rd s r).toNat

/-- PC moved past `n` bytes of code (R28). -/
def advance (s : State) (n : Nat) : State := modMe s fun x => { x with pc := x.pc + BitVec.ofNat 64 n }
def setPc (s : State) (a : Word64) : State := modMe s fun x => { x with pc := a }

/-- An instruction that writes one register and goes on. -/
def put (s : State) (n : Nat) (d : GReg) (v : Word64) : Out := .next (advance (wr s d v) n)

/-- A stalled instruction: nothing happens but that its wait is remembered (log 20). -/
def stall (s : State) (w : Wait) : Out := .next (modMe s fun x => { x with wait := some w })

/-- An instruction that has finished waiting. -/
def endWait (s : State) : State := modMe s fun x => { x with wait := none }

/-- An instruction whose effect takes a while: the thread stalls, and on a later turn the effect is made (log 136). -/
def afterStall (s : State) (f : State → Out) : Out :=
  if (me s).wait.isNone then stall s ⟨s.now, [], none⟩ else f (endWait s)

/-- Marks a register outstanding until an event (R320). -/
def outstanding (s : State) (d : Nat) (p : Pend) : State := modMe s fun x => { x with out := x.out ++ [⟨d, p⟩] }

/-- Progress of a context (R383). -/
def progress (s : State) (ctx : Nat) : State := s.modCtx ctx fun c => { c with wdLast := s.now }

/-- The watchdog of a context may count: the context has a resident flock, and no thread of it is stopped (R383, R447). -/
def watchRuns (s : State) (ctx : Nat) : Bool :=
  (s.flocks.any fun e => decide (e.2.ctx = ctx) && e.2.resident)
    && !(s.threads.any fun e => decide ((s.flk e.1.fid).ctx = ctx) && e.2.stopped.isSome)

/-- The watchdog of a context pauses where it may not count, and goes on with the count that it had, or, where something was
progress meanwhile, from 0. -/
def watchSync (s : State) (ctx : Nat) : State :=
  let on := watchRuns s ctx
  s.modCtx ctx fun c => match on, c.wdPause with
    | true, some t => { c with wdLast := s.now - (t - c.wdLast), wdPause := none }
    | false, none => { c with wdPause := some s.now }
    | _, _ => c

/-! ## Context events (R432) -/

def signal (s : State) (entry : Nat) : State :=
  if entry = 0 then s else s.modPkg fun p => { p with msix := p.msix ++ [(entry, dt s)] }

/-- A CTXEVT bit set, and MSIX signalled. -/
def ctxEvent (s : State) (ctx bit : Nat) : State :=
  let c := s.ctx ctx
  signal (s.setCtx ctx { c with evt := c.evt ||| 2 ^ bit }) c.msix

/-! ## Records (R429, R430) -/

/-- Bytes stored at a VA by the hardware for a context, from a cluster; nothing where translation faults. The turn waits
where a lock or a flip holds the line (R89, R93). -/
def recStore (s : State) (ctx pid va : Nat) (bs : List Byte) : State × Option Gwct :=
  match translateRange s pid ctx va bs.length .store with
  | (s, .error _) => (s, none)
  | (s, .ok pa) =>
    let (s, g) := writeAtHome (holdIf ((linesOf pa bs.length).any (writeHeld s)) s) pid pa bs
    (reelTouch s ctx va pa bs.length, some g)

/-- The numeric values of R422. -/
def Cause.code : Cause → Nat
  | .illegal => 0x0001 | .role => 0x0003 | .mask => 0x0004 | .run => 0x0005 | .stream => 0x0006 | .priv => 0x0007
  | .soft => 0x0008 | .double => 0x0009 | .align => 0x0010 | .noncanon => 0x0011 | .notmapped => 0x0012
  | .prot => 0x0013 | .pteRsv => 0x0014 | .phys => 0x0015 | .localrange => 0x0016 | .cxlerr => 0x0017
  | .uncorr => 0x0018 | .lanefault => 0x0019 | .cparg => 0x0020 | .cpdesc => 0x0021 | .copyfault => 0x0022
  | .pftdesc => 0x0023 | .lsarg => 0x0024 | .stasharg => 0x0025 | .stashfull => 0x0026 | .ctarg => 0x0027
  | .mmarg => 0x0028 | .yoke => 0x0029 | .matrixfault => 0x002A | .taarg => 0x002B | .tafault => 0x002C
  | .atomarg => 0x002D | .regroup => 0x002E | .strarg => 0x0030 | .reelarg => 0x0031 | .reelstate => 0x0032
  | .reelfull => 0x0033 | .vqfull => 0x0034 | .vqempty => 0x0035 | .unidiff => 0x0036 | .bararg => 0x0038
  | .barstate => 0x0039 | .bargen => 0x003A | .barkind => 0x003B | .barover => 0x003C

/-- The head of a record: CAUSE, KIND, UNIT, SEQ (R430). -/
def recHead (cause kind unit seq : Nat) : List Byte :=
  leBytes 2 cause ++ leBytes 1 kind ++ leBytes 1 unit ++ leBytes 4 seq

/-- A record padded to 64 bytes. -/
def pad64 (bs : List Byte) : List Byte := bs ++ List.replicate (64 - bs.length) 0

/-- A fault record written (R429): its VA, or 0 where the write faults, and the moment its stores are
globally complete. -/
def faultRecord (s : State) (ctx pid : Nat) (bs : List Byte) : State × Nat × Nat :=
  let c := s.ctx ctx
  let va := c.frBase * 4096 + 64 * (c.frHead % 2 ^ (c.frLog2 + 4))
  let s := s.setCtx ctx { c with frHead := (c.frHead + 1) % 2 ^ 32 }
  match recStore s ctx pid va (pad64 bs) with
  | (s, some g) => (s, va, g.pkg)
  | (s, none) => (s, 0, 0)

/-- A stash write-back that faulted: its record and CTXEVT.WBFAULT (R163, R430, R432). -/
def recordLost (s : State) (w : LostBack) : State :=
  let r := recHead w.cause.code 5 0 0 ++ leBytes 8 w.va ++ leBytes 4 w.n ++ List.replicate 10 0 ++ leBytes 2 w.pid
  ctxEvent (faultRecord s w.ctx w.pid r).1 w.ctx 4

/-- The end of a turn that began in `base`: its lost write-backs are recorded; a turn that met a held line has not
happened yet, but for a walker's bit that stands at the line (R89, R93, R114). -/
def endTurn (base u : State) : State :=
  let v := u.lost.foldl recordLost { u with lost := [] }
  if v.held then { base with late := v.late } else v

/-! ## Traps (R332, R423) -/

/-- Halts a thread that cannot take a trap (R332, R334): a KIND 6 record and CTXEVT.HALT. -/
def haltThread (s : State) (t : Tid) (cause : Cause) (tval resume : Word64) : State :=
  let x := s.thr t
  let ctx := s.ctxOf t
  let pid := s.pidOf t.fid t.clu
  let field := if x.intrap then Cause.double.code else cause.code
  let rec6 := recHead field 6 0 0 ++ leBytes 8 resume.toNat ++ leBytes 8 tval.toNat ++ leBytes 2 cause.code
    ++ leBytes 3 0 ++ leBytes 1 (t.t * 4) ++ leBytes 2 pid
  let s := (faultRecord s ctx pid rec6).1
  let s := s.modThr t fun x => { x with status := .halted, wait := none, haltCause := cause.code }
  ctxEvent (s.modFlk t.fid fun f => { f with faulted := true }) ctx 0

/-- TAKING A TRAP (R332): the handler is entered, or the thread halts where INTRAP is 1 or there is no
handler. -/
def takeTrap (s : State) (t : Tid) (cause : Cause) (tval resume : Word64) : State :=
  let x := s.thr t
  if x.intrap || decide (x.tvec.toNat / 4 = 0) then haltThread s t cause tval resume
  else s.modThr t fun x => { x with
    tpc := resume, tcause := cause.code, tval := tval, intrap := true, wait := none, popAt := none
    pc := BitVec.ofNat 64 (x.tvec.toNat / 4 * 4) }

/-- A precise trap of the thread in focus: the resume address is its PC (R332). -/
def trap (s : State) (cause : Cause) (tval : Word64) : Out :=
  .next (takeTrap s s.cur cause tval (me s).pc)

/-- RETURN FROM A TRAP (R333): PC := TPC and INTRAP := 0. -/
def trapReturn (s : State) : State :=
  modMe s fun x => { x with pc := BitVec.ofNat 64 (x.tpc.toNat / 4 * 4), intrap := false }

/-- The parcel at the thread's PC, zero-extended: TVAL "word" of a generator instruction (R422), as its
encoding says; for a long form its prefix (DEDUCED, log 25). -/
def wordOf (i : Instr) : Word64 :=
  match encode i with
  | some (_, w) => BitVec.ofNat 64 (w % 2 ^ 32)
  | none => 0

/-- A boundary trap raised for a thread (R423): held, merging into a held trap of its cause, which then waits for both
records (R429); a thread past its GEXIT halts instead (R334). -/
def raiseTrap (s : State) (t : Tid) (cause : Cause) (tval : Word64) (after : Nat) : State :=
  let x := s.thr t
  match x.status with
  | .running =>
    if x.held.any fun h => decide (h.cause = cause)
    then s.modThr t fun x => { x with held := x.held.map fun h => if h.cause = cause then { h with after := max h.after after } else h }
    else s.modThr t fun x => { x with held := x.held ++ [⟨cause, tval, after⟩] }
  | .exited => haltThread s t cause tval x.pc
  | _ => s

/-- TVAL "seq": the sequence number and the stream of a word (R422). -/
def seqVal (seq str : Nat) : Word64 := BitVec.ofNat 64 (seq % 2 ^ 32 + str % 4 * 2 ^ 32)

/-! ## What a thread's words have still to do (R312, R334, R381) -/

/-- The bound groups of a stream: every (member, slot). -/
def pairs (st : Stream) : List (Nat × Nat) :=
  (setBits 16 st.cmask).flatMap fun c => (setBits 16 st.gmask).map fun g => (c, g)

/-- Runs of a stream that a (member, slot) has not finished. -/
def restRuns (st : Stream) (p : Nat × Nat) : List Run :=
  st.runs.filter fun r => decide (st.prog.get p 0 ≤ r.idx)

/-- The position of a (member, slot) inside the run it executes, or that was cut (R436): words below it have issued. -/
def posOf (s : State) (t : Tid) (n : Nat) (p : Nat × Nat) : Nat :=
  let c := s.clu (s.pidOf t.fid p.1)
  let done := ((s.thr t).streams.get n Stream.unbound).prog.get p 0
  ((c.pipes.map (·.2) ++ c.cuts).findSome? fun e =>
    if e.tid = ⟨t.fid, t.clu, t.t⟩ ∧ e.str = n ∧ e.slot = p.2 ∧ !e.replay ∧ done ≤ e.run.idx then some e.pos else none).getD 0

/-- A REGROUP that some group of a slot has issued and whose moves are not made: no later run of the slot starts, and no
later MASK.WR takes effect there (R245). -/
def regroupPending (s : State) (fid m slot : Nat) : Bool :=
  s.threads.any fun t => decide (t.1.fid = fid) && t.2.streams.any fun e =>
    e.2.cissue.any fun c => decide (c.1.1 = m) && c.2.slots.testBit slot
      && e.2.runs.any fun r => r.words.any fun w => decide (w.seq = c.1.2) && decide ((lOp w.w).toNat = 0x206)

/-- Whether every word of a stream below a sequence number has issued on every bound group. -/
def issuedBelow (s : State) (t : Tid) (n seq : Nat) : Bool :=
  let st := (s.thr t).streams.get n Stream.unbound
  (pairs st).all fun p =>
    match restRuns st p with
    | [] => true
    | r :: rest =>
      ((r.words.drop (posOf s t n p)).all fun w => decide (seq ≤ w.seq)) && rest.all fun r => r.words.all fun w => decide (seq ≤ w.seq)

/-- A lane memory word (R144, R162, R290). -/
def isMemOp (op : Nat) : Bool := decide (0x280 ≤ op) && decide (op ≤ 0x28A) && decide (op ≠ 0x286)

/-- The opcode of an emitted word. -/
def EWord.op (e : EWord) : Nat := (lOp e.w).toNat

/-- Whether every lane memory word of a stream below a sequence number has issued on every bound group. -/
def memBelow (s : State) (t : Tid) (n seq : Nat) : Bool :=
  let st := (s.thr t).streams.get n Stream.unbound
  let free (w : EWord) : Bool := decide (seq ≤ w.seq) || !isMemOp w.op
  (pairs st).all fun p =>
    match restRuns st p with
    | [] => true
    | r :: rest => ((r.words.drop (posOf s t n p)).all free) && rest.all fun r => r.words.all free

/-- Whether an access belongs to the words of a stream below a sequence number. -/
def MemOp.below (o : MemOp) (t : Tid) (m : Mark) : Bool :=
  decide (o.tid = t) && decide (o.str = some m.str) && decide (o.seq < m.seq)

/-- Whether a word below a mark is still in an engine (R381). -/
def engineBelow (s : State) (t : Tid) (m : Mark) : Bool :=
  s.clusters.any fun e =>
    let c := e.2
    (c.cq.any fun q => q.2.ents.any fun x => decide (x.tid = t) && decide (x.str = m.str) && decide (x.word.seq < m.seq))
    || ((c.mq ++ c.array).any fun x => decide (x.tid = t) && decide (x.str = m.str) && decide (x.word.seq < m.seq))
    || (c.ta.ents.any fun x => decide (x.tid = t) && decide (x.str = m.str) && decide (x.word.seq < m.seq))

/-- Whether every word below a mark has retired on every member (R381). -/
def retiredBelow (s : State) (t : Tid) (m : Mark) : Bool :=
  issuedBelow s t m.str m.seq && !(s.ops.any fun o => o.below t m) && !engineBelow s t m

/-- The words a thread has emitted into closed runs, stream by stream (R312, R381). Streams 4 to 7 stand for
the words of the earlier bindings of streams 0 to 3, and a run that a play feeds is open too. -/
def closedMarks (x : Thread) : List Mark :=
  x.streams.map fun e =>
    ⟨e.1, if 4 ≤ e.1 then (x.streams.get (e.1 - 4) Stream.unbound).bind * 2 ^ 32 else match e.2.openRun ++ e.2.playRun with
      | [] => e.2.seq
      | w :: _ => w.seq⟩

end Sys2Proof.Machine
end

