-- ==== Sys2Proof/Machine/Flags.lean ====
section
/-! DEFINITION. Arithmetic events and their log (R195, R433), and the predicate results of comparisons
(R48, R221). -/

namespace Sys2Proof.Machine

/-- The context enables some of these events. -/
def evEnabled (s : State) (ctx : Nat) (e : Ev) : Nat := e.bits &&& (s.ctx ctx).aelEn

/-- ARITHMETIC_EVENT_RECORD (R433): a 16-byte record of the enabled events; nothing where none is enabled.
A record that faults is dropped, and AEL still advances. -/
def aelRecord (s : State) (ctx pid : Nat) (e : Ev) (source clu slot t str seq : Nat) : State :=
  let en := evEnabled s ctx e
  if en = 0 then s
  else
    let c := s.ctx ctx
    let va := c.aelBase * 4096 + 16 * (c.aelHead % 2 ^ (c.aelLog2 + 8))
    let rec16 := leBytes 1 en ++ leBytes 1 source ++ leBytes 2 (clu * 4096 + slot * 256 + t * 16 + str)
      ++ leBytes 4 seq ++ leBytes 8 (dt s)
    let s := s.setCtx ctx { c with aelHead := (c.aelHead + 1) % 2 ^ 32 }
    (recStore s ctx pid va rec16).1

/-- The record of a scalar instruction (source 2). -/
def aelScalar (s : State) (e : Ev) : State :=
  aelRecord s (myCtx s) (myPid s) e 2 s.cur.clu 0 s.cur.t 0 0

/-- COMBINE (R48): a predicate result with the destination's previous value. -/
def combinePred (code : Nat) (old new : Bool) : Bool :=
  match code with
  | 0 => new
  | 1 => old && new
  | 2 => old || new
  | _ => old != new

end Sys2Proof.Machine
end

