-- ==== Sys2Proof/Machine/LaneRegs.lean ====
section
/-! DEFINITION. What an emitted lane word names, without the group that runs it: its fields and uniform operands, the
registers it reads and writes (R199), and the size and the offset of its access (R48, R146). -/

namespace Sys2Proof.Machine

/-! ## An emitted word -/

def EWord.x (e : EWord) : LaneWord := laneFields e.w
def lo64 (u : Uniform) : Nat := u.toNat % 2 ^ 64
def hi64 (u : Uniform) : Nat := u.toNat / 2 ^ 64

/-! ## Accesses of the lane memory words (R144 to R151, R290) -/

/-- Bytes of a width code (R48). -/
def widthBytes (w : Nat) : Nat := match w with
  | 0 | 1 => 1
  | 2 | 3 => 2
  | 4 => 4
  | 5 => 8
  | _ => 16

/-- off(l): the lane's offset, scaled where the word asks for it. -/
def laneOff (x : LaneWord) (scaled : Bool) (b : Nat) : Int :=
  sextInt b 32 * (if scaled then (widthBytes x.width : Int) else 1)

/-- Bytes of one lane's access: a row of 32 elements for LDT (R151). -/
def accessBytes (op : Nat) (x : LaneWord) : Nat := if op = 0x282 then 32 * widthBytes x.width else widthBytes x.width

/-- Whether the offset of a memory word counts units of its width: atomics have no SCALE (R290). -/
def offsetScaled (op : Nat) (x : LaneWord) : Bool := decide (op ≤ 0x282) && x.scale

/-! ## Registers of a lane word (R199) -/

/-- The register fields that an opcode uses: (code, registers, read, written). -/
def laneSpans (op : Nat) (x : LaneWord) : List (Nat × Nat × Bool × Bool) :=
  let rdf (c n : Nat) : Nat × Nat × Bool × Bool := (c, n, true, false)
  let wrf (c n : Nat) : Nat × Nat × Bool × Bool := (c, n, false, true)
  let both (c n : Nat) : Nat × Nat × Bool × Bool := (c, n, true, true)
  let n := tySpan x.ty
  let m := tySpan x.ty4
  let cs (w : Nat) : Nat := LaneWord.cvtSpan (LaneWord.cvtN (tyWidth x.srcTy) (tyWidth x.ty)) w
  match op with
  | 0x000 | 0x001 | 0x002 | 0x003 | 0x005 | 0x006 | 0x008 | 0x009 | 0x00A | 0x00C | 0x00D | 0x00E =>
    [wrf x.dN n, rdf x.aN n, rdf x.bN n]
  | 0x004 | 0x015 => [wrf x.dN n, rdf x.aN n, rdf x.bN n, rdf x.cN n]
  | 0x007 | 0x00B | 0x013 | 0x014 => [wrf x.dN n, rdf x.aN n]
  | 0x00F => [wrf x.dN n, rdf x.aN n, rdf x.bN 1]
  | 0x010 => [wrf x.dN n, rdf x.aN n, rdf x.bN 1, rdf x.cN n]
  | 0x011 | 0x012 => [wrf x.dN 1, rdf x.aN n]
  | 0x016 | 0x01A | 0x01B => [wrf x.dN 1, rdf x.aN 1, rdf x.bN 1, rdf x.cN 1]
  | 0x018 => [wrf x.dN 2, rdf x.aN 1, rdf x.bN 1]
  | 0x019 => [wrf x.dN 2, rdf x.aN 1, rdf x.bN 1, rdf x.cN 2]
  | 0x080 | 0x081 | 0x082 | 0x084 | 0x085 => [wrf x.dN 1, rdf x.aN 1, rdf x.bN 1]
  | 0x083 | 0x088 => [wrf x.dN 1, rdf x.aN 1, rdf x.bN 1, rdf x.cN 1]
  | 0x089 => [wrf x.dN 1, rdf x.aN 2, rdf x.bN 2, rdf x.cN 1]
  | 0x086 | 0x087 | 0x08A => [wrf x.dN 1, rdf x.aN 1]
  | 0x100 => [wrf x.dN (cs (tyWidth x.ty)), rdf x.aN (cs (tyWidth x.srcTy))]
  | 0x101 => [wrf x.dN (cs (tyWidth x.ty)), rdf x.aN (cs (tyWidth x.srcTy)), rdf x.bN 1]
  | 0x102 => [wrf x.dN (LaneWord.cvtSpan 16 (tyWidth x.ty)), rdf x.aN 1, rdf x.bN 1]
  | 0x103 => [if x.ty = 1 then wrf x.dN 1 else both x.dN 1, rdf x.aN 1, rdf x.bN 1]
  | 0x104 => [wrf x.dN 1, rdf x.aN 1]
  | 0x180 | 0x181 => [rdf x.aN n, rdf x.bN n]
  | 0x183 => if x.m = 0 then [rdf x.aN 1, rdf x.bN 1] else [wrf x.dN 1]
  | 0x184 => [wrf x.dN n, rdf x.aN n, rdf x.bN n]
  | 0x188 | 0x189 | 0x18A | 0x18B | 0x18C | 0x18D | 0x18E | 0x190 => [wrf x.dN 1, rdf x.aN 1]
  | 0x200 => [wrf x.dN m, rdf x.aN m, rdf x.bN 1]
  | 0x202 => [wrf x.dN 1]
  | 0x203 | 0x204 | 0x205 => [wrf x.dN m, rdf x.aN m]
  | 0x206 => [rdf x.aN 1]
  | 0x207 => [rdf x.aN m]
  | 0x280 => [wrf x.dN (LaneWord.wSpan x.width), rdf x.bN 1]
  | 0x281 => [rdf x.dN (LaneWord.wSpan x.width), rdf x.bN 1]
  | 0x282 => [wrf x.dN (8 * widthBytes x.width), rdf x.bN 1]
  | 0x283 => [wrf x.dN (LaneWord.wSpan x.width)]
  | 0x284 => [both x.dN (LaneWord.atomSpan x), rdf x.bN 1]
  | 0x285 => [rdf x.dN (LaneWord.atomSpan x), rdf x.bN 1]
  | 0x313 => [rdf x.aN 1]
  | 0x314 => [wrf x.dN 1]
  | 0x3C0 | 0x3C1 | 0x3C2 => [wrf x.dN 1, rdf x.aN 1, rdf x.bN 1]
  | _ => []

end Sys2Proof.Machine
end

