-- ==== Sys2Proof/Machine/Perform.lean ====
section
/-! DEFINITION. How an access that has issued performs: order over the same bytes (R152, R329), the place that
serves it (R159, R167, R289), the value it reads, the write it makes and its GWCT (R306, R307), gathering
(R296 to R298), and the landing of its result (R42, R320). -/

namespace Sys2Proof.Machine

/-! ## Issue -/

/-- A fresh access, last in issue order. -/
def pushOp (s : State) (o : MemOp) : State :=
  { s with ops := s.ops ++ [{ o with id := s.nextId }], nextId := s.nextId + 1 }

def dropOp (s : State) (id : Nat) : State := { s with ops := s.ops.filter fun o => !decide (o.id = id) }
def findOp (s : State) (id : Nat) : Option MemOp := s.ops.find? fun o => decide (o.id = id)

/-- The flock member that issued an access. -/
def MemOp.member (s : State) (o : MemOp) : Nat := (s.flk o.tid.fid).clus.idxOf o.pid

/-- Two accesses reach a common byte. -/
def Place.meets (p : Place) (n : Nat) (q : Place) (k : Nat) : Bool :=
  match p, q with
  | .glob _ pa, .glob _ qa => rangesMeet pa n qa k
  | .loc c o _ _ _, .loc c' o' _ _ _ => decide (c = c') && rangesMeet o n o' k
  | .glob _ pa, .loc _ _ _ qa m => m && rangesMeet pa n qa k
  | .loc _ _ _ pa m, .glob _ qa => m && rangesMeet pa n qa k

def Deed.reads : Deed → Bool
  | .store _ => false
  | _ => true

def Deed.writes : Deed → Bool
  | .load => false
  | _ => true

/-- Of two accesses of one thread's own, or of one stream on one cluster, the first comes first: in program order
(R329); in stream order, those of one word in slot order, then in lane order (R149, R152, R289). -/
def precedes (e o : MemOp) : Bool :=
  if o.str.isNone then decide (e.id < o.id)
  else decide (e.bind < o.bind) || (decide (e.bind = o.bind) && (decide (e.seq < o.seq)
    || (decide (e.seq = o.seq) && (decide (e.slot < o.slot) || (decide (e.slot = o.slot) && decide (e.id < o.id))))))

/-- Two accesses of one emitted word on one cluster. -/
def MemOp.sameWord (o e : MemOp) : Bool :=
  o.str.isSome && decide (e.tid = o.tid) && decide (e.str = o.str) && decide (e.bind = o.bind) && decide (e.seq = o.seq)

/-- An access that comes first and reaches a common byte has not performed yet (R152, R329); `p` says which order of two
accesses of one word counts. -/
def blockedByEarlier (s : State) (o : MemOp) (p : MemOp → Bool) : Bool :=
  s.ops.any fun e =>
    decide (e.tid = o.tid) && decide (e.str.map (· % 4) = o.str.map (· % 4)) && decide (e.pid = o.pid) && e.made.isNone
      && precedes e o && e.place.meets e.n o.place o.n && (!o.sameWord e || p e)

/-- A word that reads or writes memory on its cluster as a lane memory word does: LD to RED, CTLD, MCBT and TA.DLY
(R152, R232, R258, R278). -/
def ordersBytes (op : Nat) : Bool :=
  (decide (0x280 ≤ op) && decide (op ≤ 0x285)) || decide (op = 0x191) || decide (op = 0x30B) || decide (op = 0x311)

/-- The words that a group of a member has still to issue, in the run on its pipe or cut, and, where no park record holds
the slot, in those behind it (R425, R436). -/
def stillToIssue (s : State) (t : Tid) (n m slot : Nat) : List EWord :=
  let st := (s.thr t).streams.get n Stream.unbound
  let parked := (s.grp t.fid m slot).prec.isSome
  let c := s.clu (s.pidOf t.fid m)
  let onPipe := (c.pipes.map (·.2) ++ c.cuts).any fun e =>
    decide (e.tid = t) && decide (e.str = n) && decide (e.slot = slot) && !e.replay
  match restRuns st (m, slot) with
  | [] => []
  | r :: rest =>
    (if onPipe || !parked then r.words.drop (posOf s t n (m, slot)) else []) ++ (if parked then [] else rest.flatMap (·.words))

/-- The local offset that an access reaches on its own cluster, plain or through a stash entry. -/
def MemOp.localAt (s : State) (o : MemOp) : Option Nat :=
  match o.place with
  | .loc c off _ _ _ => if c = o.member s then some off else none
  | .glob va _ => ((stashVa s o.pid va).filter fun e => decide (e.fid = o.tid.fid)).map fun e => e.off + (va - e.va)

/-- Bytes that CTLD, MCBT and TA.DLY read from a local offset (R230, R258, R278). -/
def tableBytes (op : Nat) : Nat := if op = 0x191 then 4096 else if op = 0x30B then 1024 else 16384

/-- The lanes of a group that have not exited (R357). -/
def Group.present (g : Group) : Nat := g.exit ^^^ (2 ^ 32 - 1)

/-- The 32 lanes of a lane register. -/
def Group.row (g : Group) (r : Nat) : Row :=
  let x := g.v.get r []
  (List.range 32).map fun l => x.getD l 0

/-- The per-lane offsets of a memory word that a group has still to issue, where they are certain: a word without one, or
one of the run on the group's pipe whose offset register no word before it, no result outstanding and no write in flight
still changes (R313; DEDUCED, log 43). -/
def offsetsKnown (s : State) (t : Tid) (n m slot : Nat) (w : EWord) : Option (List Int) :=
  let x := w.x
  let g := s.grp t.fid m slot
  if w.op = 0x283 ∨ 192 ≤ x.bN then some (List.replicate 32 (laneOff x (offsetScaled w.op x) (if w.op = 0x283 then 0 else lo64 w.ub % 2 ^ 32)))
  else ((s.clu (s.pidOf t.fid m)).pipes.findSome? fun e =>
    if e.2.tid = t ∧ e.2.str = n ∧ e.2.slot = slot ∧ !e.2.replay then some e.2 else none).bind fun p =>
      let before := (p.run.words.drop p.pos).takeWhile fun e => decide (e.seq < w.seq)
      let changes (e : EWord) : Bool := decide (e.op = 0x206) || (laneSpans e.op e.x).any fun f => f.2.2.2 && rangesMeet f.1 f.2.1 x.bN 1
      let inFlight := (g.tail ++ p.fix).any fun f => decide (f.code = x.bN) && decide (s.now < f.lands)
      if !(p.run.words.any fun e => decide (e.seq = w.seq)) || before.any changes || inFlight
          || (g.out.any fun o => rangesMeet o.reg o.span x.bN 1) then none
      else if x.bN < 128 then some ((g.row x.bN).map fun b => laneOff x (offsetScaled w.op x) b.toNat)
      else none

/-- A word that has still to issue on a group may reach a byte of an access. Where the addresses of its lanes are
certain they tell, by the pages that the tables map; elsewhere its space and its target do (R313; DEDUCED, log 43). A group
whose lanes have all exited reaches nothing (R357). -/
def mayReach (s : State) (t : Tid) (n m slot : Nat) (w : EWord) (o : MemOp) : Bool :=
  let x := w.x
  let a : Nat := w.ua.toNat % 2 ^ 64
  let base : Nat := a % 2 ^ 25
  let lanes := setBits 32 (s.grp t.fid m slot).present
  let offs := offsetsKnown s t n m slot w
  let k := accessBytes w.op x
  if lanes.isEmpty then false
  else if decide (0x280 ≤ w.op) && decide (w.op ≤ 0x285) then
    match o.place, x.space, offs with
    | .glob _ pa, 0, some os => lanes.any fun l =>
        reaches s o.ctx (truncNat ((a : Int) + os.getD l 0) 64) k pa o.n
          || !(mapsPage s o.ctx (truncNat ((a : Int) + os.getD l 0) 64))
    | .glob _ _, 0, none => true
    | .glob va _, _, _ => (stashVa s o.pid va).isSome
    | .loc _ _ _ _ mapped, 0, _ => mapped
    | .loc c off _ _ mapped, _, some os => mapped || (decide (c = if a.testBit 63 then m else fld a 59 56)
        && lanes.any fun l =>
        decide ((base : Int) + os.getD l 0 < ((off + o.n : Nat) : Int)) && decide ((off : Int) < (base : Int) + os.getD l 0 + (k : Int)))
    | .loc c _ _ _ mapped, _, none => mapped || decide (c = if a.testBit 63 then m else fld a 59 56)
  else (o.localAt s).any fun off => rangesMeet off o.n base (tableBytes w.op)

/-- Another bound group has still to issue a word that comes first and may reach a common byte (R152), or, where `same`, the
same word, which writes (R289). -/
def blockedBySlot (s : State) (o : MemOp) (same : Bool) : Bool :=
  match o.str with
  | none => false
  | some n =>
    let m := o.member s
    decide (n < 4)
      && (setBits 16 ((s.thr o.tid).streams.get n Stream.unbound).gmask).any fun j => decide (j ≠ o.slot)
        && (stillToIssue s o.tid n m j).any fun w => ordersBytes w.op && mayReach s o.tid n m j w o
          && (decide (w.seq < o.seq) || (same && decide (w.seq = o.seq) && decide (j < o.slot) && o.deed.writes))

/-- A TA.DLY of the stream that comes first has still to read bytes that a write reaches, by a local address or
through a stash entry (R278). -/
def blockedByDly (s : State) (o : MemOp) : Bool :=
  o.deed.writes && (s.clu o.pid).ta.ents.any fun e =>
    decide (e.word.op = 0x311) && decide (e.tid = o.tid) && decide (o.str = some e.str) && decide (e.word.seq < o.seq)
      && (o.localAt s).any fun off => rangesMeet off o.n (e.word.ua.toNat % 2 ^ 25) 16384

/-- A codebook load of the stream that comes first has still to read bytes that a write reaches (R152, R258.3). -/
def blockedByLoad (s : State) (o : MemOp) : Bool :=
  o.deed.writes && (s.clu o.pid).code.loading.any fun e => match e.2.src with
    | none => false
    | some (t, str, seq, off) => decide (t = o.tid) && decide (o.str = some str) && decide (seq < o.seq)
        && (o.localAt s).any fun k => rangesMeet k o.n off 1024

/-- What comes before an access over the same bytes has not been done. Of two accesses of one word, lanes are
independent unless both write (R149, R152, R235, R289). -/
def blockedBySame (s : State) (o : MemOp) : Bool :=
  blockedByEarlier s o (fun e => e.deed.writes && o.deed.writes) || blockedBySlot s o true || blockedByDly s o || blockedByLoad s o

/-- The same for an access that gathers: the accesses of one word go together, so only other words count (R297). -/
def blockedByOthers (s : State) (o : MemOp) : Bool :=
  blockedByEarlier s o (fun _ => false) || blockedBySlot s o false || blockedByDly s o || blockedByLoad s o

/-- Accesses whose write is made and whose GWCT is not known yet; their result has been delivered. -/
def markMade (s : State) (p : MemOp → Bool) : State :=
  let mark (e : MemOp) : MemOp := if p e then { e with made := some (dt s), dest := .none } else e
  { s with ops := s.ops.map mark }

/-! ## Completion -/

/-- The horizon of an access's stream on its cluster, or of its thread (R310). -/
def modHor (s : State) (o : MemOp) (f : Horizon → Horizon) : State :=
  match o.str with
  | none => s.modThr o.tid fun x => { x with hor := f x.hor }
  | some n =>
    let m := o.member s
    s.modThr o.tid fun x =>
      let st := x.streams.get n Stream.unbound
      { x with
        streams := x.streams.set n { st with hor := st.hor.set m (f (st.hor.get m Horizon.zero)) }
        deferred := x.deferred.map fun d => if d.marks.any fun k => o.below o.tid k then { d with hor := f d.hor } else d }

/-- A write's GWCT joins the release horizon. -/
def noteWrite (s : State) (o : MemOp) (g : Gwct) : State := modHor s o fun h => h.addWrite g o.scope
/-- A read's CT joins the acquire horizon. -/
def noteRead (s : State) (o : MemOp) (ct : Nat) : State := modHor s o fun h => h.addRead ct

/-! ## The value that an access reads -/

/-- What serves an access: an entry of a stash, a plain local byte, or the home (through the L1 or not). -/
inductive Serve where
  | stash (pid : Nat) (e : StashEnt) (off pa : Nat)
  | sram (clu off : Nat)
  | home (va pa : Nat)
  deriving Repr

/-- The place that serves an access as the machine now stands (R159, R167). -/
def serveOf (s : State) (o : MemOp) : Serve :=
  match o.place with
  | .glob va pa =>
    match stashVa s o.pid va with
    | some e => .stash o.pid e (e.off + (va - e.va)) pa
    | none => .home va pa
  | .loc c off _ pa mapped =>
    match stashOff s o.tid.fid c off with
    | some e => if mapped then .stash (s.pidOf o.tid.fid c) e off pa else .sram c off
    | none => .sram c off

def StashEnt.secAt (e : StashEnt) (off : Nat) : Nat := (off - e.off) / 32

/-- The bytes of a filled sector; an unfilled one is claimed (R159). -/
def stashRead (s : State) (pid : Nat) (e : StashEnt) (off pa n : Nat) : State × Option (List Byte) :=
  match e.st (e.secAt off) with
  | .unfilled => (stashClaim s pid e (e.secAt off) pa, none)
  | .pending _ _ _ => (s, none)
  | _ => (s, some (s.localRead e.fid e.clu off n))

/-- A load through the L1 (R153, R154): the data and the CT, or none where a fill is awaited. An own update-only line serves
no read: it is combined first, or, where its grant was refused, left out (R297 to R299). -/
def l1Read (s : State) (o : MemOp) (pa : Nat) : State × Option (List Byte × Nat) :=
  let bytesOf (x : L1Sector) := ((x.data.drop (pa % 32)).take o.n, x.ct)
  let touch (s : State) := s.modClu o.pid fun c =>
    match l1Line c (lineOf pa) with
    | some l => l1Demote (putL1 c { l with pri := if o.na then 0 else o.pri }) (lineOf pa)
    | none => c
  let direct (s : State) : State × Option (List Byte × Nat) :=
    let (s, bs, ct) := readAtHome s pa o.n
    (l2Touch s pa o.n o.pri o.na false, some (bs, ct))
  match uoAt (s.clu o.pid) (lineOf pa) with
  | some u =>
    if u.refused then direct s
    else if u.ut.isNone then (s, none)
    else if o.na then direct s
    else (l1Claim (atHome s pa o.n) o.pid o.ctx pa o.pri, none)
  | none =>
    match (l1Line (s.clu o.pid) (lineOf pa)).bind fun l => l.sectors.find (pa / 32 % 8) with
    | some x =>
      if (!x.pending || x.granted) && decide (dt s < x.expiry) then (touch s, some (bytesOf x))
      else if o.na then direct s
      else if x.pending && !x.granted then (s, none)
      else (l1Claim s o.pid o.ctx pa o.pri, none)
    | none => if o.na then direct s else (l1Claim s o.pid o.ctx pa o.pri, none)

/-- An acquiring load at .quad or wider bypasses the L1 (R311). -/
def bypasses (o : MemOp) : Bool := o.acq && decide (2 ≤ o.scope)

/-- The value of a read, where the access can take it now. -/
def readNow (s : State) (o : MemOp) : State × Option (List Byte × Nat) :=
  match serveOf s o with
  | .stash pid e off pa =>
    match stashRead s pid e off pa o.n with
    | (s, some bs) => (s, some (bs, 0))
    | (s, none) => (s, none)
  | .sram c off => (s, some (s.localRead o.tid.fid c off o.n, 0))
  | .home _ pa =>
    let direct (s : State) : State × Option (List Byte × Nat) :=
      let (s, bs, ct) := readAtHome s pa o.n
      (l2Touch s pa o.n o.pri o.na false, some (bs, ct))
    if readHeld s pa then (s, none)
    else if bypasses o then
      match uoAt (s.clu o.pid) (lineOf pa) with
      | some u => if u.ut.isNone && !u.refused then (s, none) else direct s
      | none => direct s
    else l1Read s o pa

/-! ## The write that an access makes -/

/-- The result of a write: not yet, made with its GWCT, or made with a GWCT that is not known yet. -/
inductive Made where
  | notYet
  | done (g : Gwct)
  | owed
  deriving Repr

/-- An own update-only line that the home has not granted yet (R298). -/
def uoAwaited (s : State) (pid pa : Nat) : Bool :=
  match uoAt (s.clu pid) (lineOf pa) with
  | some u => u.ut.isNone && !u.refused
  | none => false

/-- The physical address of an access (of a stash-mapped LOCAL one, that of its sector). -/
def MemOp.pa (o : MemOp) : Nat :=
  match o.place with
  | .glob _ pa => pa
  | .loc _ _ _ pa _ => pa

/-- The first byte that an access reaches, as the program names it. -/
def MemOp.va (o : MemOp) : Nat :=
  match o.place with
  | .glob va _ => va
  | .loc _ _ va _ _ => va

/-- The access goes to the host window (R73). -/
def MemOp.onHost (o : MemOp) : Bool :=
  match o.place with
  | .glob _ pa => isHost pa
  | .loc _ _ _ pa mapped => mapped && isHost pa

/-- The storage whose fill is pending: a home slice, which serves every reader, the L1 of a cluster, or a stash sector. -/
inductive FillAt where
  | slice
  | l1 (pid : Nat)
  | sector (pid va k : Nat)
  deriving DecidableEq, Repr

/-- The fill under which a write of a cluster falls, if any (R155 to R157), with what the byte at a distance held before. A
stash byte that a write has touched is the one that merged. -/
def fillUnder (s : State) (pid : Nat) : Serve → Option (FillAt × (Nat → Byte))
  | .sram _ _ => none
  | .stash p e off pa => match e.st (e.secAt off) with
    | .pending _ _ t => some (.sector p e.va (e.secAt off), fun i =>
        if t.testBit ((off - e.off) % 32 + i) then (s.localRead e.fid e.clu (off + i) 1).headD 0 else s.mem.read (pa + i))
    | _ => none
  | .home _ pa =>
    let mine := ((l1Line (s.clu pid) (lineOf pa)).bind fun l => l.sectors.find (pa / 32 % 8)).any fun x => x.pending
    if l2Pending s pa then some (.slice, fun i => s.mem.read (pa + i))
    else if mine then some (.l1 pid, fun i => s.mem.read (pa + i)) else none

/-- A reader that takes its bytes from such a storage. -/
def FillAt.serves (s : State) (e : MemOp) : FillAt → Bool
  | .slice => match serveOf s e with
    | .home _ _ => true
    | _ => false
  | .l1 pid => match serveOf s e with
    | .home _ _ => decide (e.pid = pid)
    | _ => false
  | .sector pid va k => match serveOf s e with
    | .stash p x off _ => decide ((p, x.va, x.secAt off) = (pid, va, k))
    | _ => false

/-- Two accesses of one thread's own, or of one stream. -/
def MemOp.sameStream (o e : MemOp) : Bool := decide (e.tid = o.tid) && decide (e.str.map (· % 4) = o.str.map (· % 4))

/-- A write of `n` bytes, of an access or of an engine, and the reads that have issued: a read that no stream order puts
after it, and that it races under a pending fill, may return what the byte held before; a read that follows it in its
stream may no longer (R157). -/
def noteRaces (s : State) (w : Option MemOp) (pid : Nat) (sv : Serve) (pa n : Nat) : State :=
  let hit (e : MemOp) (d : Nat) : Bool := decide (pa ≤ e.pa + d) && decide (e.pa + d < pa + n)
  let fill := fillUnder s pid sv
  let upd (e : MemOp) : MemOp :=
    if e.deed ≠ .load ∨ e.made.isSome then e
    else if w.any fun o => o.sameStream e && decide (e.pid = o.pid) then
      (if w.any fun o => precedes o e then { e with alt := e.alt.filter fun a => !hit e a.1 } else e)
    else match fill with
      | none => e
      | some (f, old) =>
        if f.serves s e then
          { e with alt := e.alt ++ ((List.range e.n).filter (hit e)).map fun d => (d, old (e.pa + d - pa)) }
        else e
  { s with ops := s.ops.map upd }

/-- The bytes that a read returns: where it raced a write, each byte is the new one or an old one (R157). -/
def raceBytes (s : State) (o : MemOp) (bs : List Byte) : List Byte :=
  if o.alt.isEmpty then bs
  else (bs.zip (List.range bs.length)).map fun b =>
    match (o.alt.filter fun a => decide (a.1 = b.2)).zip (List.range 64) |>.find? fun a => Config.freeBit s.tick (64 * b.2 + a.2) with
    | some a => a.1.2
    | none => b.1

/-- Bytes written by an access, where it can write now. The GWCT of a posted store to the host window comes with its
completion (R306, R428). A store's hints act at the L1 too; those of an atomic act at the
L2 alone (R154, R292). -/
def writeNow (s : State) (o : MemOp) (bs : List Byte) : State × Made :=
  let races (s : State) (sv : Serve) : State := noteRaces s (some o) o.pid sv o.pa bs.length
  match serveOf s o with
  | .stash pid e off pa =>
    match stashWrite (reelTouch (races s (.stash pid e off pa)) o.ctx o.va pa o.n) pid e off bs pa with
    | (s, some g) => (s, .done g)
    | (s, none) => (s, .owed)
  | .sram c off => (s.localWrite o.tid.fid c off bs, .done (Gwct.flat (dt s)))
  | .home va pa =>
    if writeHeld s pa || uoAwaited s o.pid pa then (s, .notYet)
    else
      let s := races (l2Touch s pa bs.length o.pri o.na true) (.home va pa)
      let (s, g) := writeAtHome s o.pid pa bs
      let s := if o.deed.reads then s else l1Store s o.pid pa o.pri o.na
      (reelTouch s o.ctx va pa o.n, if isHost pa && !o.deed.reads then .owed else .done g)

/-- The requester of an access (R453): its physical lane-group slot or its thread. -/
def MemOp.req (s : State) (o : MemOp) : Nat :=
  match o.str with
  | none => requester o.pid 1 o.tid.t
  | some _ => requester o.pid 0 (((s.flk o.tid.fid).slots.getD (o.member s) []).getD o.slot 0)

/-- An atomic performed at its place (R289, R292): the old value. -/
def atomicNow (s : State) (o : MemOp) (op v cmp : Nat) : State × Option (List Byte × Nat) × Made :=
  let go (s : State) (bs : List Byte) (ct : Nat) : State × Option (List Byte × Nat) × Made :=
    let (s, m) := writeNow s o (leBytes o.n (atomResult op o.n (leNat bs) v cmp))
    (s, some (bs, ct), m)
  match serveOf s o with
  | .stash pid e off pa =>
    match stashRead s pid e off pa o.n with
    | (s, some bs) => go s bs 0
    | (s, none) => (s, none, .notYet)
  | .sram c off => go s (s.localRead o.tid.fid c off o.n) 0
  | .home _ pa =>
    if writeHeld s pa || uoAwaited s o.pid pa then (s, none, .notYet)
    else
      let (s, bs, ct) := readAtHome s pa o.n
      let s := logAtomic s pa (o.req s)
      go s bs ct

/-! ## Gathering (R296 to R298) -/

/-- The conditions of R296 for an access marked as a RED that may gather. -/
def gathers (s : State) (o : MemOp) : Bool :=
  match o.deed, serveOf s o with
  | .atomic op _ _ g, .home _ pa => g && decide (op ≠ 1) && decide (op ≤ 8) && devBiased s pa && !o.na
      && !((uoAt (s.clu o.pid) (lineOf pa)).any fun u => u.refused)
  | _, _ => false

/-- An update-only line newly allocated (R297). -/
def uoAlloc (s : State) (pid line op w pri req : Nat) : State :=
  let s := l1Room s pid line
  s.modClu pid fun c => l1Demote (putL1 c ⟨line, pri, [], some ⟨op, w, [], none, false, req⟩⟩) line

/-- One element gathered (R297). -/
def uoGather (s : State) (pid line op w pri pa v : Nat) : State :=
  s.modClu pid fun c => match l1Line c line with
    | some l =>
      match l.uo with
      | some u =>
        let e := pa % 256 / w
        let u := { u with vals := u.vals.set e (atomResult op w (u.vals.get e (atomIdentity op w)) v 0) }
        l1Demote (putL1 c { l with pri := pri, uo := some u }) line
      | none => c
    | none => c

/-- The accesses of one word, on every group that has issued it, that reach one line and that no earlier access of
their stream holds back (R152, R297): lanes ascending within a group, then slots (R289). -/
def gatherMates (s : State) (o : MemOp) (line : Nat) : List MemOp :=
  sortBy (fun e => e.slot) (s.ops.filter fun e => decide (e.tid = o.tid) && decide (e.str = o.str) && decide (e.bind = o.bind)
    && decide (e.seq = o.seq) && decide (e.pid = o.pid) && e.made.isNone && gathers s e
    && (decide (e.id = o.id) || !blockedByOthers s e)
    && (match e.place with
        | .glob _ pa => decide (lineOf pa = line)
        | _ => false))

/-- A RED gathered with its mates in a single step; false where it must wait for the line's grant. -/
def gatherNow (s : State) (o : MemOp) (op pa : Nat) : State × Bool :=
  let line := lineOf pa
  let ready : Option State :=
    match uoAt (s.clu o.pid) line with
    | some u =>
      if u.op = op ∧ u.width = o.n then some s
      else if u.ut.isNone then none
      else some (uoAlloc (combine s line) o.pid line op o.n o.pri (o.req s))
    | none => some (uoAlloc (dropL1Line s o.pid line) o.pid line op o.n o.pri (o.req s))
  match ready with
  | none => (s, false)
  | some s =>
    let mates := gatherMates s o line
    let s := mates.foldl (init := s) fun s e =>
      match e.deed, e.place with
      | .atomic op v _ _, .glob va a => uoGather (reelTouch s o.ctx va a o.n) o.pid line op o.n o.pri a v
      | _, _ => s
    let ut := (uoAt (s.clu o.pid) line).bind (·.ut)
    match ut with
    | some t =>
      let g := Gwct.flat (max (dt s) t)
      (mates.foldl (init := s) fun s e => dropOp (noteWrite s e g) e.id, true)
    | none =>
      (markMade s fun e => mates.any fun m => decide (m.id = e.id), true)

/-! ## Landing in lane registers -/

/-- One lane of a lane register written. -/
def Group.setLane (g : Group) (r lane : Nat) (x : Word32) : Group :=
  { g with v := g.v.set r (setAt (g.row r) lane x) }
def Group.laneOf (g : Group) (r lane : Nat) : Word32 := (g.row r).getD lane 0

/-- The registers that a value of a width code fills (R148). -/
def widthRegs (w : Nat) (bs : List Byte) : List Word32 :=
  let x := leNat bs
  match w with
  | 1 => [BitVec.ofNat 32 (truncNat (sextInt x 8) 32)]
  | 3 => [BitVec.ofNat 32 (truncNat (sextInt x 16) 32)]
  | 5 => [BitVec.ofNat 32 x, BitVec.ofNat 32 (x / 2 ^ 32)]
  | 6 => [BitVec.ofNat 32 x, BitVec.ofNat 32 (x / 2 ^ 32), BitVec.ofNat 32 (x / 2 ^ 64), BitVec.ofNat 32 (x / 2 ^ 96)]
  | _ => [BitVec.ofNat 32 x]

/-- A result that lands in a register while fixed-latency writes to its lane are in flight lies under them: they land
after it (R198). The writes, newest first, with the value that they replace; none where nothing is in flight. -/
def landUnder (now code lane : Nat) (v : Word32) : List FixWrite → Option (List FixWrite)
  | [] => none
  | f :: rest =>
    if f.code = code ∧ f.mask.testBit lane then
      (if now < f.lands then some ((landUnder now code lane v rest).elim ({ f with old := setAt f.old lane v } :: rest) (f :: ·)) else none)
    else (landUnder now code lane v rest).map (f :: ·)

/-- The pipe that runs a run of a group of a flock member. -/
def groupPipe (s : State) (fid m slot : Nat) : Option (Nat × PipeRun) :=
  (s.clu (s.pidOf fid m)).pipes.find? fun e => decide (e.2.tid.fid = fid) && decide (e.2.slot = slot)

/-- A variable-latency result landed in one lane of a register. -/
def landReg (s : State) (fid m slot r lane : Nat) (v : Word32) : State :=
  match (groupPipe s fid m slot).bind fun p => (landUnder s.now r lane v p.2.fix.reverse).map fun fs => (p.1, { p.2 with fix := fs.reverse }) with
  | some (k, p) => s.modClu (s.pidOf fid m) fun c => { c with pipes := c.pipes.set k p }
  | none => s.modGrp fid m slot fun g => match landUnder s.now r lane v g.tail.reverse with
    | some fs => { g with tail := fs.reverse }
    | none => g.setLane r lane v

/-- The registers of a value landed in one lane. -/
def landRegs (s : State) (fid m slot r lane : Nat) : List Word32 → State
  | [] => s
  | x :: xs => landRegs (landReg s fid m slot r lane x) fid m slot (r + 1) lane xs

/-- Bits `hi..lo` of a register replaced. -/
def putField (x : Word32) (lo w v : Nat) : Word32 :=
  let old := x.toNat
  BitVec.ofNat 32 (old - fld old (lo + w - 1) lo * 2 ^ lo + v % 2 ^ w * 2 ^ lo)

/-- The value of a register of an LDT tile in lane `j`: pieces of rows (row, position, bytes) laid over the old one
(R151). -/
def tileWord (e j : Nat) (old : Word32) (ps : List (Nat × Nat × List Byte)) : Word32 :=
  ps.foldl (init := old) fun x (row, pos, bs) =>
    if pos ≤ e * j ∧ e * j + e ≤ pos + bs.length then putField x (8 * (row * e % 4)) (8 * e) (leNat ((bs.drop (e * j - pos)).take e)) else x

/-- The lanes of a word that still wait for a landing on a slot. -/
def lanesLeft (s : State) (o : MemOp) (lanes : Nat) : Nat :=
  let rest := s.ops.filter fun e => decide (e.tid = o.tid) && decide (e.str = o.str) && decide (e.seq = o.seq)
    && decide (e.pid = o.pid) && decide (e.slot = o.slot) && decide (e.pos = o.pos)
  rest.foldl (init := 0) fun acc e => match e.dest with
    | .lane _ l _ _ => acc ||| (lanes &&& 2 ^ l)
    | .bcast _ m _ _ => acc ||| (lanes &&& m)
    | .tile _ m _ _ _ _ => acc ||| (lanes &&& m)
    | _ => acc

/-- The scoreboard entries of a word after a landing (R42, R198). -/
def clearOut (s : State) (o : MemOp) : State :=
  let upd (x : OutLane) : OutLane :=
    if x.tid = o.tid ∧ some x.str = o.str ∧ x.seq = o.seq then { x with lanes := lanesLeft s o x.lanes } else x
  if o.str.isNone then s
  else s.modGrp o.tid.fid (o.member s) o.slot fun g =>
    { g with out := (g.out.map upd).filter fun x => decide (x.lanes ≠ 0) }

/-- The lanes that take a result now: a free choice among those of a mask. -/
def someLanes (s : State) (mask : Nat) : Nat :=
  if Config.freeBit s.tick 0 then mask else mask &&& (Config.freeWord s.tick 1).toNat

/-- The lanes of a destination that have still to take their result. -/
def Dest.left (d : Dest) (took : Nat) : Dest :=
  let off (m : Nat) : Nat := m &&& (took ^^^ (2 ^ 32 - 1))
  match d with
  | .lane sl l r w => if took.testBit l then .none else .lane sl l r w
  | .bcast sl m r w => .bcast sl (off m) r w
  | .tile sl m r e row pos => .tile sl (off m) r e row pos
  | d => d

def Dest.lanes : Dest → Nat
  | .lane _ l _ _ => 2 ^ l
  | .bcast _ m _ _ => m
  | .tile _ m _ _ _ _ => m
  | _ => 0

/-- The register of a tile that a piece of it goes to. -/
def Dest.tileReg : Dest → Option Nat
  | .tile _ _ r e row _ => some (r + row * e / 4)
  | _ => Option.none

/-- The accesses of one word on one group that fill the same register, or the one of an LDB. -/
def spreadMates (s : State) (o : MemOp) : List MemOp :=
  s.ops.filter fun e => decide (e.id = o.id) || (o.dest.tileReg.isSome && decide (e.tid = o.tid) && decide (e.str = o.str)
    && decide (e.bind = o.bind) && decide (e.seq = o.seq) && decide (e.pid = o.pid) && decide (e.slot = o.slot)
    && decide (e.pos = o.pos) && decide (e.dest.tileReg = o.dest.tileReg))

/-- A result delivered to a generator register, where the register still waits for it (R320, R328, R295, R448). -/
def landGen (s : State) (o : MemOp) (bs : List Byte) : State :=
  let x := leNat bs
  let drop (y : Thread) : Thread := { y with out := y.out.filter fun r => !decide (r.pend = .mem o.id) }
  let put (y : Thread) (r : Nat) (v : Word64) : Thread := if y.out.contains ⟨r, .mem o.id⟩ then y.setGr r v else y
  match o.dest with
  | .gen r sx => s.modThr o.tid fun y =>
      drop (put y r (if sx then wrap64 (sextInt x (8 * o.n)) else BitVec.ofNat 64 x))
  | .genPair r => s.modThr o.tid fun y =>
      drop (put (put y r (BitVec.ofNat 64 x)) (r + 1) (BitVec.ofNat 64 (x / 2 ^ 64)))
  | _ => s.modThr o.tid drop

/-- Some lanes take a result that has returned; the one lane of a plain load or an atomic takes it. A write that is still
owed its GWCT stays. A register of a tile lands whole: every piece of it has returned (R42). -/
def landSpread (s : State) (o : MemOp) : State :=
  let mates := spreadMates s o
  if mates.any fun e => e.got.isNone then s
  else
    let m := o.member s
    let took := match o.dest with
      | .lane _ l _ _ => 2 ^ l
      | d => someLanes s d.lanes
    let s := (setBits 32 took).foldl (init := s) fun s l => match o.dest, o.got with
      | .lane sl _ r w, some bs => landRegs s o.tid.fid m sl r l (widthRegs w bs)
      | .bcast sl _ r w, some bs => landRegs s o.tid.fid m sl r l (widthRegs w bs)
      | .tile sl _ r e row _, _ =>
        let k := r + row * e / 4
        let ps := mates.filterMap fun x => match x.dest, x.got with
          | .tile _ _ _ _ row pos, some bs => some (row, pos, bs)
          | _, _ => none
        landReg s o.tid.fid m sl k l (tileWord e l ((s.grp o.tid.fid m sl).laneOf k l) ps)
      | _, _ => s
    let mine (e : MemOp) : Bool := mates.any fun x => decide (x.id = e.id)
    let upd (e : MemOp) : MemOp :=
      if !mine e then e
      else if (e.dest.left took).lanes = 0 then { e with dest := .none, got := none } else { e with dest := e.dest.left took }
    clearOut { s with ops := (s.ops.map upd).filter fun e => !(mine e && e.got.isNone && !e.deed.writes) } o

/-- The CT of an acquiring word's read joins the horizon of its acquire (R311). -/
def acquireOf (s : State) (o : MemOp) (ct : Nat) : State :=
  match o.acq, o.str with
  | true, some n =>
    let m := o.member s
    let upd (a : Nat × Nat × Nat × Nat) : Nat × Nat × Nat × Nat :=
      if a.1 = m ∧ a.2.1 = o.seq then (a.1, a.2.1, a.2.2.1, max a.2.2.2 ct) else a
    s.modThr o.tid fun x =>
      let st := x.streams.get n Stream.unbound
      { x with streams := x.streams.set n { st with acqs := st.acqs.map upd } }
  | _, _ => s

/-- A lane access has performed; what it has read stands until its lanes take it (R42, R235). -/
def keepRead (s : State) (o : MemOp) (deed : Deed) (bs : List Byte) : State :=
  { s with ops := s.ops.map fun e => if e.id = o.id then { e with made := some (dt s), got := some bs, deed := deed } else e }

/-- An access performed, where it can be; a generator's result is delivered at once, that of a lane access stands ready to
land. The state alone changes where it cannot perform yet (a fill may have been claimed). -/
def perform (s : State) (o : MemOp) : State :=
  if (if gathers s o then blockedByOthers s o else blockedBySame s o) || o.made.isSome then s
  else
    match o.deed with
    | .load =>
      match readNow s o with
      | (s, none) => s
      | (s, some (bs, ct)) =>
        let s := acquireOf (noteRead s o ct) o ct
        let bs := raceBytes s o bs
        if o.str.isNone then dropOp (landGen s o bs) o.id else keepRead s o .load bs
    | .store d =>
      match writeNow s o (leBytes o.n d) with
      | (s, .notYet) => s
      | (s, .done g) => dropOp (noteWrite s o g) o.id
      | (s, .owed) => markMade s fun e => decide (e.id = o.id)
    | .atomic op v cmp _ =>
      match gathers s o, o.place with
      | true, .glob _ pa => (gatherNow s o op pa).1
      | _, _ =>
        match atomicNow s o op v cmp with
        | (s, none, _) => s
        | (s, some _, .notYet) => s
        | (s, some (bs, ct), m) =>
          let s := match m with
            | .done g => noteWrite s o g
            | _ => s
          let owed := match m with
            | .done _ => false
            | _ => true
          if o.dest = .none then (if owed then markMade s fun e => decide (e.id = o.id) else dropOp s o.id)
          else
            let s := acquireOf (noteRead s o ct) o ct
            if o.str.isSome then keepRead s o (if owed then o.deed else .load) bs
            else if owed then markMade (landGen s o bs) fun e => decide (e.id = o.id) else dropOp (landGen s o bs) o.id

/-- A made write whose GWCT has become known joins its horizon (R159, R298); a posted store to the host window completes
now (R306). -/
def settle (s : State) (o : MemOp) : State :=
  match o.gw, serveOf s o with
  | some g, _ => dropOp (noteWrite s o g) o.id
  | none, .home _ pa => if o.deed.reads then s else if isHost pa then dropOp (noteWrite s o (gwctOf s o.pid pa)) o.id else s
  | none, _ => s

/-- An access that can go on goes on: it performs, its result lands in some lanes, or its GWCT becomes known. -/
def progressOp (s : State) (o : MemOp) : State :=
  match o.made with
  | some _ => if o.got.isSome then landSpread s o else settle s o
  | none => perform s o

end Sys2Proof.Machine
end

