-- ==== Sys2Proof/Machine/Scalar.lean ====
section
/-! DEFINITION. Scalar integer and FP32 instructions of a generator thread (R325 to R327) and their long
forms (R32). -/

namespace Sys2Proof.Machine

/-! ## Values -/

/-- Signed quotient truncated toward zero; b = 0 gives −1 (R325). -/
def sdiv64 (a b : Word64) : Word64 := if b = 0 then wrap64 (-1) else wrap64 (Int.tdiv a.toInt b.toInt)
/-- Unsigned quotient; b = 0 gives all ones (R325). -/
def udiv64 (a b : Word64) : Word64 := if b = 0 then BitVec.allOnes 64 else wrap64 ((a.toNat / b.toNat : Nat) : Int)
/-- Signed remainder; b = 0 gives a (R325). -/
def srem64 (a b : Word64) : Word64 := if b = 0 then a else wrap64 (a.toInt - b.toInt * Int.tdiv a.toInt b.toInt)
/-- A shift count (R325): b[7:0]. -/
def count8 (b : Word64) : Nat := b.toNat % 256
def shl64 (a : Word64) (n : Nat) : Word64 := a <<< n
def shr64 (a : Word64) (n : Nat) : Word64 := a >>> n
def sar64 (a : Word64) (n : Nat) : Word64 := a.sshiftRight n
def flag64 (b : Bool) : Word64 := if b then 1 else 0
/-- Number of leading zero bits (R325). -/
def clz64 (a : Word64) : Nat := if a = 0 then 64 else 63 - Nat.log2 a.toNat

/-- The immediate of a short form: sext(imm11, 11) (R326). -/
def simm (i : BitVec 11) : Word64 := i.signExtend 64
/-- The immediate of a long form: sext(ext23 : imm11, 34) (R32). -/
def limm (e : BitVec 23) (i : BitVec 11) : Word64 := (e ++ i).signExtend 64
/-- INSH (R326, R32). -/
def inshVal (old i : Word64) : Word64 := (i <<< 34) ||| BitVec.ofNat 64 (old.toNat % 2 ^ 34)

/-! ## R format -/

def alu (d a b : GReg) (f : Word64 → Word64 → Word64) (s : State) : Out := put s 4 d (f (rd s a) (rd s b))

def execAdd (_sb : Bool) (d a b : GReg) (s : State) : Out := alu d a b (· + ·) s
def execSub (_sb : Bool) (d a b : GReg) (s : State) : Out := alu d a b (· - ·) s
def execMul (_sb : Bool) (d a b : GReg) (s : State) : Out := alu d a b (· * ·) s
def execMulh (_sb : Bool) (d a b : GReg) (s : State) : Out :=
  alu d a b (fun x y => wrap64 (x.toInt * y.toInt / 2 ^ 64)) s
def execMulhu (_sb : Bool) (d a b : GReg) (s : State) : Out :=
  alu d a b (fun x y => wrap64 ((x.toNat * y.toNat / 2 ^ 64 : Nat) : Int)) s
def execDiv (_sb : Bool) (d a b : GReg) (s : State) : Out := alu d a b sdiv64 s
def execDivu (_sb : Bool) (d a b : GReg) (s : State) : Out := alu d a b udiv64 s
def execRem (_sb : Bool) (d a b : GReg) (s : State) : Out := alu d a b srem64 s
def execAndR (_sb : Bool) (d a b : GReg) (s : State) : Out := alu d a b (· &&& ·) s
def execOrR (_sb : Bool) (d a b : GReg) (s : State) : Out := alu d a b (· ||| ·) s
def execXorR (_sb : Bool) (d a b : GReg) (s : State) : Out := alu d a b (· ^^^ ·) s
def execShlR (_sb : Bool) (d a b : GReg) (s : State) : Out := alu d a b (fun x y => shl64 x (count8 y)) s
def execShrR (_sb : Bool) (d a b : GReg) (s : State) : Out := alu d a b (fun x y => shr64 x (count8 y)) s
def execSarR (_sb : Bool) (d a b : GReg) (s : State) : Out := alu d a b (fun x y => sar64 x (count8 y)) s
def execMinR (_sb : Bool) (d a b : GReg) (s : State) : Out := alu d a b (fun x y => if y.slt x then y else x) s
def execMaxR (_sb : Bool) (d a b : GReg) (s : State) : Out := alu d a b (fun x y => if x.slt y then y else x) s
def execSlt (_sb : Bool) (d a b : GReg) (s : State) : Out := alu d a b (fun x y => flag64 (x.slt y)) s
def execSltu (_sb : Bool) (d a b : GReg) (s : State) : Out := alu d a b (fun x y => flag64 (x.ult y)) s
def execSeq (_sb : Bool) (d a b : GReg) (s : State) : Out := alu d a b (fun x y => flag64 (x == y)) s
/-- CSEL (R325): gd unchanged where a is 0. -/
def execCsel (_sb : Bool) (d a b : GReg) (s : State) : Out :=
  if rd s a = 0 then .next (advance s 4) else put s 4 d (rd s b)
def execPopc (_sb : Bool) (d a : GReg) (s : State) : Out := put s 4 d (BitVec.ofNat 64 (popCount 64 (rdN s a)))
def execClz (_sb : Bool) (d a : GReg) (s : State) : Out := put s 4 d (BitVec.ofNat 64 (clz64 (rd s a)))

/-! ## I format -/

def aluI (n : Nat) (d a : GReg) (i : Word64) (f : Word64 → Word64 → Word64) (s : State) : Out :=
  put s n d (f (rd s a) i)

def execAddi (_sb : Bool) (d a : GReg) (imm : BitVec 11) (s : State) : Out := aluI 4 d a (simm imm) (· + ·) s
def execAndi (_sb : Bool) (d a : GReg) (imm : BitVec 11) (s : State) : Out := aluI 4 d a (simm imm) (· &&& ·) s
def execOri (_sb : Bool) (d a : GReg) (imm : BitVec 11) (s : State) : Out := aluI 4 d a (simm imm) (· ||| ·) s
def execXori (_sb : Bool) (d a : GReg) (imm : BitVec 11) (s : State) : Out := aluI 4 d a (simm imm) (· ^^^ ·) s
def execShli (_sb : Bool) (d a : GReg) (cnt : BitVec 6) (s : State) : Out := put s 4 d (shl64 (rd s a) cnt.toNat)
def execShri (_sb : Bool) (d a : GReg) (cnt : BitVec 6) (s : State) : Out := put s 4 d (shr64 (rd s a) cnt.toNat)
def execSari (_sb : Bool) (d a : GReg) (cnt : BitVec 6) (s : State) : Out := put s 4 d (sar64 (rd s a) cnt.toNat)
def execSlti (_sb : Bool) (d a : GReg) (imm : BitVec 11) (s : State) : Out :=
  aluI 4 d a (simm imm) (fun x y => flag64 (x.slt y)) s
def execSltiu (_sb : Bool) (d a : GReg) (imm : BitVec 11) (s : State) : Out :=
  aluI 4 d a (simm imm) (fun x y => flag64 (x.ult y)) s
def execMovi (_sb : Bool) (d : GReg) (imm : BitVec 11) (s : State) : Out := put s 4 d (simm imm)
def execInsh (_sb : Bool) (d : GReg) (imm : BitVec 11) (s : State) : Out := put s 4 d (inshVal (rd s d) (simm imm))

def execAddiLong (_sb : Bool) (d a : GReg) (ext : BitVec 23) (imm : BitVec 11) (s : State) : Out :=
  aluI 8 d a (limm ext imm) (· + ·) s
def execAndiLong (_sb : Bool) (d a : GReg) (ext : BitVec 23) (imm : BitVec 11) (s : State) : Out :=
  aluI 8 d a (limm ext imm) (· &&& ·) s
def execOriLong (_sb : Bool) (d a : GReg) (ext : BitVec 23) (imm : BitVec 11) (s : State) : Out :=
  aluI 8 d a (limm ext imm) (· ||| ·) s
def execXoriLong (_sb : Bool) (d a : GReg) (ext : BitVec 23) (imm : BitVec 11) (s : State) : Out :=
  aluI 8 d a (limm ext imm) (· ^^^ ·) s
def execSltiLong (_sb : Bool) (d a : GReg) (ext : BitVec 23) (imm : BitVec 11) (s : State) : Out :=
  aluI 8 d a (limm ext imm) (fun x y => flag64 (x.slt y)) s
def execSltiuLong (_sb : Bool) (d a : GReg) (ext : BitVec 23) (imm : BitVec 11) (s : State) : Out :=
  aluI 8 d a (limm ext imm) (fun x y => flag64 (x.ult y)) s
def execMoviLong (_sb : Bool) (d : GReg) (ext : BitVec 23) (imm : BitVec 11) (s : State) : Out :=
  put s 8 d (limm ext imm)
def execInshLong (_sb : Bool) (d : GReg) (ext : BitVec 23) (imm : BitVec 11) (s : State) : Out :=
  put s 8 d (inshVal (rd s d) (limm ext imm))

/-! ## Scalar FP32 (R327) -/

/-- The f32 bits of a register: bits [31:0]. -/
def rdF (s : State) (r : GReg) : Nat := rdN s r % 2 ^ 32
def valF (s : State) (r : GReg) : Val := fF32.value (rdF s r)
/-- INVALID where an operand is a signalling NaN (R195). -/
def snanEv (s : State) (rs : List GReg) : Ev := Ev.when (rs.any fun r => fF32.snan (rdF s r)) Ev.invalid

/-- A scalar FP32 result: the register, the events' record, and the next parcel. -/
def putF (s : State) (d : GReg) (r : Nat × Ev) : Out := put (aelScalar s r.2) 4 d (BitVec.ofNat 64 r.1)

/-- A rounded scalar result. -/
def rounded (s : State) (rnd : BitVec 2) (rs : List GReg) (x : Val × Bool) : Nat × Ev :=
  let r := roundStep fF32 (rmode rnd.toNat) false false x
  (r.1, r.2.or (snanEv s rs))

/-- Whether mode rm makes an exact zero sum negative (R179). -/
def isRm (rnd : BitVec 2) : Bool := rnd == 2

def execSfadd (_sb : Bool) (d a b : GReg) (rnd : BitVec 2) (s : State) : Out :=
  putF s d (rounded s rnd [a, b] (Val.add (isRm rnd) (valF s a) (valF s b)))
def execSfsub (_sb : Bool) (d a b : GReg) (rnd : BitVec 2) (s : State) : Out :=
  putF s d (rounded s rnd [a, b] (Val.add (isRm rnd) (valF s a) (valF s b).neg))
def execSfmul (_sb : Bool) (d a b : GReg) (rnd : BitVec 2) (s : State) : Out :=
  putF s d (rounded s rnd [a, b] (Val.mul (valF s a) (valF s b)))
/-- gd + a × b, fused (R327). -/
def execSfmac (_sb : Bool) (d a b : GReg) (rnd : BitVec 2) (s : State) : Out :=
  let p := Val.mul (valF s a) (valF s b)
  let t := Val.add (isRm rnd) p.1 (valF s d)
  putF s d (rounded s rnd [a, b, d] (t.1, t.2 || p.2))
def execSfmin (_sb : Bool) (d a b : GReg) (s : State) : Out := putF s d (fMinMax fF32 true (rdF s a) (rdF s b))
def execSfmax (_sb : Bool) (d a b : GReg) (s : State) : Out := putF s d (fMinMax fF32 false (rdF s a) (rdF s b))
def execSfcmp (_sb : Bool) (d a b : GReg) (cond : BitVec 3) (s : State) : Out :=
  let r := fCond fF32 cond.toNat (rdF s a) (rdF s b)
  putF s d (b2n r.1, r.2)

/-- SFCVT's source and destination types by kind (R327): kinds 6 and 7 are no instructions. -/
def sfKind (k : Nat) : Nat × Nat :=
  match k with
  | 0 => (10, 7)
  | 1 => (10, 3)
  | 2 => (7, 10)
  | 3 => (3, 10)
  | 4 => (10, 6)
  | _ => (10, 2)

def execSfcvt (_sb : Bool) (d a : GReg) (kind : BitVec 3) (rnd : BitVec 2) (s : State) : Out :=
  let (src, dst) := sfKind kind.toNat
  let r := convert src dst (rmode rnd.toNat) false (rdN s a % 2 ^ tyWidth src)
  let v := if dst = 6 then truncNat (sextInt r.1 32) 64 else r.1
  putF s d (v, r.2)

end Sys2Proof.Machine
end

