-- ==== Sys2Proof/Machine/Control.lean ====
section
/-! DEFINITION. Branches, TRAP, SRET, GEXIT and ICINV of a generator thread (R330 to R334, R339). -/

namespace Sys2Proof.Machine

/-! ## Branches (R330, R331) -/

/-- The target of a branch: the parcel's address plus 4 × the signed offset (R30). -/
def target (s : State) (off : Int) : Word64 := (me s).pc + wrap64 (4 * off)

def branch (taken : Bool) (off : BitVec 11) (s : State) : Out :=
  .next (if taken then setPc s (target s off.toInt) else advance s 4)

def execBeq (_sb : Bool) (a b : GReg) (off : BitVec 11) (s : State) : Out := branch (rd s a == rd s b) off s
def execBne (_sb : Bool) (a b : GReg) (off : BitVec 11) (s : State) : Out := branch (rd s a != rd s b) off s
def execBlt (_sb : Bool) (a b : GReg) (off : BitVec 11) (s : State) : Out := branch ((rd s a).slt (rd s b)) off s
def execBge (_sb : Bool) (a b : GReg) (off : BitVec 11) (s : State) : Out := branch (!(rd s a).slt (rd s b)) off s
def execBltu (_sb : Bool) (a b : GReg) (off : BitVec 11) (s : State) : Out := branch ((rd s a).ult (rd s b)) off s
def execBgeu (_sb : Bool) (a b : GReg) (off : BitVec 11) (s : State) : Out := branch (!(rd s a).ult (rd s b)) off s
def execJmp (_sb : Bool) (off : BitVec 23) (s : State) : Out := .next (setPc s (target s off.toInt))
/-- CALL (R330): g63 := the address of the parcel after it. -/
def execCall (_sb : Bool) (off : BitVec 23) (s : State) : Out :=
  .next (setPc (wr s 63 ((me s).pc + 4)) (target s off.toInt))
/-- JR (R331); a target that is no parcel address traps ALIGN, TVAL the target (DEDUCED, log 21). -/
def execJr (_sb : Bool) (a : GReg) (s : State) : Out :=
  if rdN s a % 4 ≠ 0 then trap s .align (rd s a) else .next (setPc s (rd s a))
def execCallr (_sb : Bool) (a : GReg) (s : State) : Out :=
  if rdN s a % 4 ≠ 0 then trap s .align (rd s a) else .next (setPc (wr s 63 ((me s).pc + 4)) (rd s a))

/-! ## TRAP, SRET, GEXIT (R333, R334) -/

/-- TRAP (R333): cause SOFT, resuming at the parcel after it. -/
def execTrap (_sb : Bool) (n : BitVec 5) (s : State) : Out :=
  .next (takeTrap s s.cur .soft (n.zeroExtend 64) ((me s).pc + 4))

/-- SRET (R333): an illegal instruction while INTRAP = 0. -/
def execSret (sb : Bool) (s : State) : Out :=
  if (me s).intrap then .next (trapReturn s) else trap s .illegal (wordOf (.sret sb))

/-- An open capture is abandoned, and its reel left undefined (R360). -/
def dropCapture (s : State) : State :=
  match (me s).capture with
  | none => s
  | some (n, _) =>
    modMe (s.modCtx (myCtx s) fun c => { c with reels := c.reels.erase n }) fun x => { x with capture := none }

/-- GEXIT (R334). A trap that is held behind INTRAP can no longer be taken, so the thread halts
(DEDUCED, log 22). -/
def execGexit (sb : Bool) (s : State) : Out :=
  let x := me s
  if x.streams.any fun e => !e.2.openRun.isEmpty then trap s .run (wordOf (.gexit sb))
  else
    let s := modMe (dropCapture s) fun x => { x with status := .exited, pc := x.pc + 4 }
    match x.held with
    | [] => .next s
    | h :: _ => .next (haltThread s s.cur h.cause h.tval (x.pc + 4))

/-! ## ICINV (R339) -/

/-- The clusters that run a flock of a context. -/
def clustersOf (s : State) (ctx : Nat) : List Nat :=
  ((s.flocks.filter fun f => decide (f.2.ctx = ctx) && f.2.resident).flatMap fun f => f.2.clus).dedup

/-- Instruction-cache lines of a context that overlap a range dropped on one cluster. -/
def dropCode (s : State) (pid ctx lo n : Nat) (all : Bool) : State :=
  s.modClu pid fun c => { c with icache := c.icache.filter fun l =>
    !(decide (l.ctx = ctx) && (all || rangesMeet l.va 256 lo n)) }

/-- ICINV (R339): a length of 2^40 or more is an illegal instruction; a length of 0 names every line. The
thread stalls until the lines are dropped. -/
def execIcinv (sb : Bool) (a b : GReg) (scope : BitVec 3) (s : State) : Out :=
  if 2 ^ 40 ≤ rdN s b then trap s .illegal (wordOf (.icinv sb a b scope))
  else if !canonical (rdN s a) then trap s .noncanon (rd s a)
  else
    let reach := (clustersOf s (myCtx s)).filter fun p => within scope.toNat (myFlk s).clus (myPid s) p
    afterStall s fun s => .next (advance (reach.foldl (fun t p => dropCode t p (myCtx s) (rdN s a) (rdN s b) (decide (rdN s b = 0))) s) 4)

end Sys2Proof.Machine
end

