-- ==== Sys2Proof/Machine/GenMem.lean ====
section
/-! DEFINITION. Generator loads, stores, atomics and FENCE (R294, R295, R310, R312, R328, R335). -/

namespace Sys2Proof.Machine

/-! ## Release and acquire of a thread (R310, R312) -/

/-- An access that a fence of the thread covers: its own (where `own` says so), or one of the marked words. -/
def covered (t : Tid) (own : Bool) (marks : List Mark) (o : MemOp) : Bool :=
  decide (o.tid = t) && ((own && o.str.isNone) || marks.any fun m => o.below t m)

/-- An access whose read has still to return. -/
def readOwed (o : MemOp) : Bool := o.deed.reads && decide (o.dest ≠ .none)

/-- DT has passed a horizon; a horizon of 0 is none. -/
def passed (s : State) (h : Nat) : Bool := decide (h = 0) || decide (h < dt s)

/-- The release part of a fence is over (R310, steps 1 and 2). -/
def releaseDone (s : State) (t : Tid) (own : Bool) (sc : Nat) (marks : List Mark) : Bool :=
  let x := s.thr t
  (marks.all fun m => memBelow s t m.str m.seq)
    && !(s.ops.any fun o => covered t own marks o && o.deed.writes)
    && (!own || passed s (x.hor.rel sc))
    && marks.all fun m => (x.streams.get m.str Stream.unbound).hor.all fun h => passed s (h.2.rel sc)

/-- The acquire part may be made: every covered read has returned. -/
def acquireReady (s : State) (t : Tid) (marks : List Mark) : Bool :=
  (marks.all fun m => memBelow s t m.str m.seq) && !(s.ops.any fun o => covered t true marks o && readOwed o)

/-- The acquire part: at .quad or wider, older L1 sectors go (R310). -/
def acquire (s : State) (t : Tid) (sc : Nat) (marks : List Mark) : State :=
  if sc < 2 then s
  else
    let x := s.thr t
    let s := l1Invalidate s (s.pidOf t.fid t.clu) x.hor.acq
    marks.foldl (init := s) fun s m =>
      (x.streams.get m.str Stream.unbound).hor.foldl (init := s) fun s h =>
        l1Invalidate s (s.pidOf t.fid h.1) h.2.acq

/-- The clusters on which a thread's accesses and those of its streams perform. -/
def acquirePids (s : State) (t : Tid) : List Nat :=
  (s.pidOf t.fid t.clu :: (s.thr t).streams.flatMap fun e => (setBits 16 e.2.cmask).map (s.pidOf t.fid)).dedup

/-- The acquire, at every scope, of a thread that has observed a phase or takes a trap with a record (R315, R429): once
the thread's earlier reads have returned, L1 sectors granted before the moment go, on its cluster and where its streams
are bound. -/
def acquirePhase (s : State) (t : Tid) (h : Nat) : Option State :=
  if s.ops.any fun o => decide (o.tid = t) && o.str.isNone && readOwed o then none
  else some ((acquirePids s t).foldl (fun s p => l1Invalidate s p h) s)

/-- The acquire part of an ordered GATOM (R295): it is made once the old value has returned; until then no
later LDG, STG, GATOM or FENCE issues. -/
def gatomAcquired (s : State) : Option State :=
  match (me s).acqOp with
  | none => some s
  | some (id, sc) =>
    if (findOp s id).any readOwed || !acquireReady s s.cur [] then none
    else some (modMe (acquire s s.cur sc []) fun x => { x with acqOp := none })

/-- FENCE (R335, R312). -/
def execFence (_sb : Bool) (order : BitVec 2) (scope : BitVec 3) (s : State) : Out :=
  match gatomAcquired s with
  | none => .next s
  | some s =>
    let w := (me s).wait.getD ⟨s.now, closedMarks (me s), none⟩
    let rel := order.getLsbD 1
    let acq := order.getLsbD 0
    if (!rel || releaseDone s s.cur true scope.toNat w.marks) && (!acq || acquireReady s s.cur w.marks) then
      let s := if acq then acquire s s.cur scope.toNat w.marks else s
      .next (advance (endWait s) 4)
    else stall s w

/-! ## LDG and STG (R328) -/

/-- A generator access in its first state. -/
def genOp (s : State) (va pa n : Nat) (deed : Deed) (dest : Dest) (pri : Nat) (na : Bool) (scope : Nat) (acq : Bool) :
    MemOp :=
  { id := s.nextId, tid := s.cur, ctx := myCtx s, pid := myPid s, str := none, bind := 0, seq := 0, pos := 0, slot := 0
    lane := 0, place := .glob va pa, n := n, deed := deed, dest := dest, pri := pri, na := na, scope := scope
    acq := acq, made := none, word := EWord.nop, alt := [], gw := none, got := none }

/-- The L1 fill that a load asks for where it misses (R153 to R155). -/
def askFill (s : State) (o : MemOp) : State :=
  match serveOf s o, o.deed with
  | .home _ pa, .load => if o.na || bypasses o then s else (l1Read s o pa).1
  | _, _ => s

/-- A read that has issued: the thread goes on, or waits at the parcel where the value comes from the host
window, so that a CXL error is precise (R428). -/
def sendRead (s : State) (o : MemOp) (n : Nat) : State :=
  let id := s.nextId
  let s := pushOp s o
  let pa := match o.place with
    | .glob _ pa => pa
    | .loc _ _ _ pa _ => pa
  if isHost pa then modMe s fun x => { x with hostOp := some (id, n) } else advance s n

/-- The VA of an access: ga + offset (R30, R32). -/
def genVa (s : State) (a : GReg) (off : Int) : Nat := (rd s a + wrap64 off).toNat

/-- LDG of `w` bytes (R328). -/
def genLoad (n : Nat) (d a : GReg) (off : Int) (w : Nat) (sx : Bool) (pri : BitVec 2) (na : Bool) (s : State) : Out :=
  match gatomAcquired s with
  | none => .next s
  | some s =>
    let va := genVa s a off
    if va % w ≠ 0 then trap s .align (BitVec.ofNat 64 va)
    else match translate s (myPid s) (myCtx s) va .load with
    | (s, .error c) => trap s c (BitVec.ofNat 64 va)
    | (s, .ok pa) =>
      let o := genOp s va pa w .load (.gen d.toNat sx) pri.toNat na 0 false
      let s := outstanding (askFill s o) d.toNat (.mem s.nextId)
      .next (sendRead s o n)

/-- STG of `w` bytes (R328). -/
def genStore (n : Nat) (d a : GReg) (off : Int) (w : Nat) (pri : BitVec 2) (na : Bool) (scope : BitVec 3) (s : State) : Out :=
  match gatomAcquired s with
  | none => .next s
  | some s =>
    let va := genVa s a off
    if va % w ≠ 0 then trap s .align (BitVec.ofNat 64 va)
    else match translate s (myPid s) (myCtx s) va (globalAcc s (myPid s) va .store) with
    | (s, .error c) => trap s c (BitVec.ofNat 64 va)
    | (s, .ok pa) =>
      let data := rdN s d % 2 ^ (8 * w)
      .next (advance (pushOp s (genOp s va pa w (.store data) .none pri.toNat na scope.toNat false)) n)

/-- The offset of a short form: sext(off5, 5) × w (R30). -/
def soff (off : BitVec 5) (w : Nat) : Int := off.toInt * w
/-- The offset of a long form: sext(ext23 : off5, 28) × w (R32). -/
def loff (e : BitVec 23) (off : BitVec 5) (w : Nat) : Int := (e ++ off).toInt * w

def execLdgN8 (_sb : Bool) (d a : GReg) (pri : BitVec 2) (na : Bool) (off : BitVec 5) (s : State) : Out :=
  genLoad 4 d a (soff off 1) 1 false pri na s
def execLdgS8 (_sb : Bool) (d a : GReg) (pri : BitVec 2) (na : Bool) (off : BitVec 5) (s : State) : Out :=
  genLoad 4 d a (soff off 1) 1 true pri na s
def execLdgN16 (_sb : Bool) (d a : GReg) (pri : BitVec 2) (na : Bool) (off : BitVec 5) (s : State) : Out :=
  genLoad 4 d a (soff off 2) 2 false pri na s
def execLdgS16 (_sb : Bool) (d a : GReg) (pri : BitVec 2) (na : Bool) (off : BitVec 5) (s : State) : Out :=
  genLoad 4 d a (soff off 2) 2 true pri na s
def execLdgN32 (_sb : Bool) (d a : GReg) (pri : BitVec 2) (na : Bool) (off : BitVec 5) (s : State) : Out :=
  genLoad 4 d a (soff off 4) 4 false pri na s
def execLdgS32 (_sb : Bool) (d a : GReg) (pri : BitVec 2) (na : Bool) (off : BitVec 5) (s : State) : Out :=
  genLoad 4 d a (soff off 4) 4 true pri na s
def execLdgB64 (_sb : Bool) (d a : GReg) (pri : BitVec 2) (na : Bool) (off : BitVec 5) (s : State) : Out :=
  genLoad 4 d a (soff off 8) 8 false pri na s
def execStgB8 (_sb : Bool) (d a : GReg) (pri : BitVec 2) (na : Bool) (scope : BitVec 3) (off : BitVec 5) (s : State) :
    Out := genStore 4 d a (soff off 1) 1 pri na scope s
def execStgB16 (_sb : Bool) (d a : GReg) (pri : BitVec 2) (na : Bool) (scope : BitVec 3) (off : BitVec 5) (s : State) :
    Out := genStore 4 d a (soff off 2) 2 pri na scope s
def execStgB32 (_sb : Bool) (d a : GReg) (pri : BitVec 2) (na : Bool) (scope : BitVec 3) (off : BitVec 5) (s : State) :
    Out := genStore 4 d a (soff off 4) 4 pri na scope s
def execStgB64 (_sb : Bool) (d a : GReg) (pri : BitVec 2) (na : Bool) (scope : BitVec 3) (off : BitVec 5) (s : State) :
    Out := genStore 4 d a (soff off 8) 8 pri na scope s
def execLdgN8Long (_sb : Bool) (d a : GReg) (ext : BitVec 23) (pri : BitVec 2) (na : Bool) (off : BitVec 5)
    (s : State) : Out := genLoad 8 d a (loff ext off 1) 1 false pri na s
def execLdgS8Long (_sb : Bool) (d a : GReg) (ext : BitVec 23) (pri : BitVec 2) (na : Bool) (off : BitVec 5)
    (s : State) : Out := genLoad 8 d a (loff ext off 1) 1 true pri na s
def execLdgN16Long (_sb : Bool) (d a : GReg) (ext : BitVec 23) (pri : BitVec 2) (na : Bool) (off : BitVec 5)
    (s : State) : Out := genLoad 8 d a (loff ext off 2) 2 false pri na s
def execLdgS16Long (_sb : Bool) (d a : GReg) (ext : BitVec 23) (pri : BitVec 2) (na : Bool) (off : BitVec 5)
    (s : State) : Out := genLoad 8 d a (loff ext off 2) 2 true pri na s
def execLdgN32Long (_sb : Bool) (d a : GReg) (ext : BitVec 23) (pri : BitVec 2) (na : Bool) (off : BitVec 5)
    (s : State) : Out := genLoad 8 d a (loff ext off 4) 4 false pri na s
def execLdgS32Long (_sb : Bool) (d a : GReg) (ext : BitVec 23) (pri : BitVec 2) (na : Bool) (off : BitVec 5)
    (s : State) : Out := genLoad 8 d a (loff ext off 4) 4 true pri na s
def execLdgB64Long (_sb : Bool) (d a : GReg) (ext : BitVec 23) (pri : BitVec 2) (na : Bool) (off : BitVec 5)
    (s : State) : Out := genLoad 8 d a (loff ext off 8) 8 false pri na s
def execStgB8Long (_sb : Bool) (d a : GReg) (ext : BitVec 23) (pri : BitVec 2) (na : Bool) (scope : BitVec 3)
    (off : BitVec 5) (s : State) : Out := genStore 8 d a (loff ext off 1) 1 pri na scope s
def execStgB16Long (_sb : Bool) (d a : GReg) (ext : BitVec 23) (pri : BitVec 2) (na : Bool) (scope : BitVec 3)
    (off : BitVec 5) (s : State) : Out := genStore 8 d a (loff ext off 2) 2 pri na scope s
def execStgB32Long (_sb : Bool) (d a : GReg) (ext : BitVec 23) (pri : BitVec 2) (na : Bool) (scope : BitVec 3)
    (off : BitVec 5) (s : State) : Out := genStore 8 d a (loff ext off 4) 4 pri na scope s
def execStgB64Long (_sb : Bool) (d a : GReg) (ext : BitVec 23) (pri : BitVec 2) (na : Bool) (scope : BitVec 3)
    (off : BitVec 5) (s : State) : Out := genStore 8 d a (loff ext off 8) 8 pri na scope s

/-! ## GATOM (R294, R295) -/

/-- The control value of a GATOM obeys R294, and R288 admits the operation at the width. -/
def gatomOk (op ctl : Nat) (d b : GReg) : Bool :=
  let w := ctl % 4
  decide (ctl / 2 ^ 16 = 0) && decide (fld ctl 15 13 ≤ 6) && decide (fld ctl 7 2 = 0) && decide (w ≤ 2)
    && (if op = 10 then true else if op = 1 then decide (w = 0) else decide (w ≤ 1))
    && (decide (w ≠ 2) || (decide (d.toNat % 2 = 0) && decide (b.toNat % 2 = 0) && decide (d.toNat ≠ 0)))

/-- A register, or a register pair, as a number of `w` bytes. -/
def rdWide (s : State) (r : GReg) (w : Nat) : Nat :=
  if w = 16 then rdN s r + 2 ^ 64 * rdN s (r + 1) else rdN s r % 2 ^ (8 * w)

/-- GATOM (R295): ATOMARG, then ALIGN and the translation causes; the release wait; the atomic is sent. -/
def execGatom (sb : Bool) (d a b : GReg) (op : BitVec 4) (s : State) : Out :=
  match gatomAcquired s with
  | none => .next s
  | some s =>
    let ctl := rdN s (a + 1)
    let w := if ctl % 4 = 0 then 4 else if ctl % 4 = 1 then 8 else 16
    let va := rdN s a
    let scope := fld ctl 15 13
    let order := fld ctl 12 11
    if !gatomOk op.toNat ctl d b then trap s .atomarg (wordOf (.gatom sb d a b op))
    else if va % w ≠ 0 then trap s .align (rd s a)
    else match translate s (myPid s) (myCtx s) va .atomic with
    | (s, .error c) => trap s c (rd s a)
    | (s, .ok pa) =>
      let wt := (me s).wait.getD ⟨s.now, closedMarks (me s), none⟩
      if 2 ≤ order && !releaseDone s s.cur true scope wt.marks then stall s wt
      else
        let acq := order % 2 = 1
        let dest := if w = 16 then .genPair d.toNat else .gen d.toNat false
        let o := genOp s va pa w (.atomic op.toNat (rdWide s b w) (rdWide s d w) false) dest (fld ctl 10 9)
          (ctl.testBit 8) scope acq
        let id := s.nextId
        let s := outstanding (endWait s) d.toNat (.mem id)
        let s := if w = 16 then outstanding s (d.toNat + 1) (.mem id) else s
        let s := if acq then modMe s fun x => { x with acqOp := some (id, scope) } else s
        .next (sendRead s o 4)

end Sys2Proof.Machine
end

