-- ==== Sys2Proof/Machine/Barrier.lean ====
section
/-! DEFINITION. Barrier objects and stage rings: handles (R364, R365), phases (R366 to R368), the barrier and
stage words of a generator thread (R370 to R374, R378 to R381), and doorbells (R382). -/

namespace Sys2Proof.Machine

/-! ## Handles -/

def hGen (h : Nat) : Nat := fld h 31 20
def hClu (h : Nat) : Nat := fld h 19 16
def hSlot (h : Nat) : Nat := fld h 15 8
def hKind (h : Nat) : Nat := fld h 7 6
def hExt (h : Nat) : Bool := h.testBit 5

def barAt (s : State) (fid : Nat) (k : Nat × Nat) : BarSlot := (s.flk fid).bars.get k BarSlot.free
def setBar (s : State) (fid : Nat) (k : Nat × Nat) (b : BarSlot) : State :=
  s.modFlk fid fun f => { f with bars := f.bars.set k b }

/-- The checks of R365 in order; `allowed` says which slots the operation accepts (R369). -/
def handleCheck (s : State) (fid h : Nat) (allowed : BarSlot → Bool) : Except Cause (Nat × Nat) :=
  let k := (hClu h, hSlot h)
  let b := barAt s fid k
  if decide (h % 32 ≠ 0) || decide (s.size fid ≤ hClu h) || decide ((s.flk fid).rcd.bars ≤ hSlot h) then .error .bararg
  else if !b.used then .error .barstate
  else if hGen h ≠ b.gen then .error .bargen
  else if decide (hKind h ≠ b.kind) || decide (hExt h ≠ b.ext) || !allowed b then .error .barkind
  else .ok k

/-- The handle of a slot. -/
def handleOf (b : BarSlot) (k : Nat × Nat) : Nat :=
  b.gen * 2 ^ 20 + k.1 * 2 ^ 16 + k.2 * 2 ^ 8 + b.kind * 64 + b2n b.ext * 32

/-! ## Phases -/

/-- Every lane of SCOPE has arrived or has exited (R366). -/
def lanesIn (s : State) (fid : Nat) (b : BarSlot) : Bool :=
  b.scope.all fun (m, slots) => (setBits 16 slots).all fun sl =>
    decide ((b.arrived.get (m, sl) 0 ||| (s.grp fid m sl).exit) % 2 ^ 32 = 2 ^ 32 - 1)

/-- The condition of R366. -/
def phaseDone (s : State) (fid : Nat) (b : BarSlot) : Bool :=
  match b.kind with
  | 1 => lanesIn s fid b && decide (b.b ≤ b.land)
  | 3 => if b.phase % 2 = 0 then decide (b.e ≤ b.arr) && decide (b.b ≤ b.land) else decide (b.ec ≤ b.rels)
  | _ => decide (b.e ≤ b.arr) && decide (b.b ≤ b.land)

/-- One completion (R366). A full stage member consumes its releases alone, and kinds 1 and 3 carry no
arrivals (DEDUCED, log 24). -/
def completeOnce (b : BarSlot) (t : Nat) : BarSlot :=
  let full := decide (b.kind = 3) && decide (b.phase % 2 = 1)
  { b with
    arr := if b.kind = 3 then 0 else b.arr - b.e
    land := if full then b.land else b.land - b.b
    rels := if full then 0 else b.rels
    arrived := [], e := b.e0, b := b.b0, phase := (b.phase + 1) % 65536, t := t }

/-- How many further phases the carried counts complete in the same step, each consuming a nonzero
expectation (R366): for kinds 0 and 2 in one count. -/
def carried (s : State) (fid : Nat) (b : BarSlot) (t : Nat) : BarSlot :=
  match b.kind with
  | 0 | 2 =>
    let ka := if b.e0 = 0 then none else some (b.arr / b.e0)
    let kb := if b.b0 = 0 then none else some (b.land / b.b0)
    let k := match ka, kb with
      | none, none => 0
      | some x, none => x
      | none, some y => y
      | some x, some y => min x y
    { b with arr := b.arr - k * b.e0, land := b.land - k * b.b0, phase := (b.phase + k) % 65536, t := t }
  | 1 =>
    if b.b0 = 0 || !lanesIn s fid b then b
    else
      let k := b.land / b.b0
      { b with land := b.land - k * b.b0, phase := (b.phase + k) % 65536, t := t }
  | _ =>
    let again (b : BarSlot) : BarSlot :=
      if phaseDone s fid b && (if b.phase % 2 = 1 then decide (1 ≤ b.ec) else decide (1 ≤ b.e) || decide (1 ≤ b.b))
      then completeOnce b t else b
    again (again b)

/-- The bound of a BAR.WAIT (R373): DT reached it in an earlier cycle of the slot's cluster. -/
def timedOut (s : State) (pid t0 timeout : Nat) : Bool :=
  let d := (t0 / 1000 + timeout) * 1000
  decide (timeout ≠ 0) && decide (d ≤ s.now) && !sameCycle s pid d

/-- The waits of BAR.WAIT on a slot that a completed phase ends: the phase where the bound's cycle has not passed, else
the timeout (R373). -/
def endBarWaits (s : State) (fid : Nat) (k : Nat × Nat) (b : BarSlot) : State :=
  let upd (t : Tid) (x : Thread) : Thread := match x.wait with
    | some ⟨t0, ms, some w⟩ =>
      if decide (t.fid = fid) && decide ((hClu w.h, hSlot w.h) = k) && decide (hGen w.h = b.gen) && w.out.isNone
          && decide (w.p < 2 ^ 16) && decide (b.phase ≠ w.p) then
        let late := timedOut s (s.pidOf fid k.1) t0 w.timeout
        { x with wait := some ⟨t0, ms, some { w with out := some (if late then (2 ^ 16 + w.p, 0) else (b.phase, b.t)) }⟩ }
      else x
    | _ => x
  { s with threads := s.threads.mapVals upd }

/-- PHASE_COMPLETE (R366): what an event does to a slot; a completed phase ends the waits on it, and is progress
(R383). -/
def barEvent (s : State) (fid : Nat) (k : Nat × Nat) : State :=
  let b := barAt s fid k
  if b.used && phaseDone s fid b then
    let c := carried s fid (completeOnce b (dt s)) (dt s)
    progress (endBarWaits (setBar s fid k c) fid k c) (s.flk fid).ctx
  else s

/-- Arrivals added, where ARR stays below 65,536 (R367). -/
def addArrivals (s : State) (fid : Nat) (k : Nat × Nat) (n : Nat) : Option State :=
  let b := barAt s fid k
  if 65535 < b.arr + n then none else some (barEvent (setBar s fid k { b with arr := b.arr + n }) fid k)

/-- Landed bytes added, where LAND stays below 2^40 (R367). -/
def addLanded (s : State) (fid : Nat) (k : Nat × Nat) (n : Nat) : Option State :=
  let b := barAt s fid k
  if 2 ^ 40 ≤ b.land + n then none else some (barEvent (setBar s fid k { b with land := b.land + n }) fid k)

/-- A release of a stage member; the count is 8 bits wide, and what it holds past 255 is a free value
(log 14). -/
def addRelease (s : State) (fid : Nat) (k : Nat × Nat) : State :=
  let b := barAt s fid k
  let r := if b.rels < 255 then b.rels + 1 else (Config.freeWord s.tick 256).toNat % 256
  barEvent (setBar s fid k { b with rels := r }) fid k

/-- Bytes that an engine counts, in one addition, into the barrier of a control value (R127, R263): an overflow gives
the emitting thread BAROVER. -/
def countBytes (s : State) (t : Tid) (h n : Nat) : State :=
  match addLanded s t.fid (hClu h, hSlot h) n with
  | some s => s
  | none => raiseTrap s t .barover (BitVec.ofNat 64 h) 0

/-- Bytes that count one by one, each an event of its own: those of a PFT (R117, R366, R367). -/
def countEach (s : State) (t : Tid) (h n : Nat) : State := (List.range n).foldl (fun s _ => countBytes s t h 1) s

/-- Lanes of a member and slot that arrive (R368, R377); a second arrival, or one outside SCOPE, is
ignored; the second gives BAROVER. -/
def addLanes (s : State) (t : Tid) (h m slot lanes : Nat) : State :=
  let k := (hClu h, hSlot h)
  let b := barAt s t.fid k
  if !(b.scope.any fun e => decide (e.1 = m) && e.2.testBit slot) || decide (lanes = 0) then s
  else
    let old := b.arrived.get (m, slot) 0
    let s := if old ||| lanes = old then s
      else barEvent (setBar s t.fid k { b with arrived := b.arrived.set (m, slot) (old ||| lanes) }) t.fid k
    if old &&& lanes = 0 then s else raiseTrap s t .barover (BitVec.ofNat 64 h) 0

/-- A lane that exits is an event for the lane-counted slots whose SCOPE holds it (R366, R368). -/
def exitEvent (s : State) (fid m slot : Nat) : State :=
  (s.flk fid).bars.foldl (init := s) fun s (k, b) =>
    if b.used && decide (b.kind = 1) && b.scope.any fun e => decide (e.1 = m) && e.2.testBit slot
    then barEvent s fid k else s

/-! ## Generator words -/

/-- The low half of a handle register (R364). -/
def handle (s : State) (r : GReg) : Nat := rdN s r % 2 ^ 32
def myFid (s : State) : Nat := s.cur.fid

/-- The bound pairs of a stream as SCOPE entries (R363, R368). -/
def scopeOfStream (st : Stream) : List (Nat × Nat) := (setBits 16 st.cmask).map fun c => (c, st.gmask)

/-- The stream that is current, where one is. -/
def curStream (x : Thread) : Option (Nat × Stream) :=
  x.current.bind fun n => (x.streams.find n).map fun st => (n, st)

/-- BAR.NEW's limits (R370). -/
def barNewOk (s : State) (kind cfg b0 : Nat) : Bool :=
  let k := fld cfg 47 40
  let ec := fld cfg 39 32
  let e0 := fld cfg 31 16
  let pool := (myFlk s).rcd.bars
  decide (fld cfg 63 48 = 0) && decide (fld cfg 11 8 = 0) && decide (b0 < 2 ^ 40)
    && decide (fld cfg 15 12 < s.size (myFid s))
    && (match kind with
        | 0 => decide (k = 0) && decide (ec = 0) && decide (1 ≤ e0) && decide (fld cfg 7 0 < pool)
        | 3 => decide (2 ≤ k) && decide (k ≤ 16) && decide (1 ≤ ec) && decide (1 ≤ e0) && decide (e0 ≤ 255)
            && decide (fld cfg 7 0 + k ≤ pool)
        | _ => decide (k = 0) && decide (ec = 0) && decide (e0 = 0) && decide (fld cfg 7 0 < pool))

/-- BAR.NEW (R370). -/
def execBarNew (sb : Bool) (d a b : GReg) (ext : Bool) (kind : BitVec 2) (s : State) : Out :=
  let i := wordOf (.barNew sb d a b ext kind)
  let cfg := rdN s a
  let kd := kind.toNat
  let fid := myFid s
  if !barNewOk s kd cfg (rdN s b) then trap s .bararg i
  else if kd = 1 && (curStream (me s)).isNone then trap s .stream i
  else
    let clu := fld cfg 15 12
    let slot := fld cfg 7 0
    let n := if kd = 3 then fld cfg 47 40 else 1
    let set := (List.range n).map fun j => (clu, slot + j)
    if set.any fun k => (barAt s fid k).used then trap s .barstate i
    else
      let g := set.foldl (fun acc k => max acc (barAt s fid k).gen) 0
      let scope := match curStream (me s) with
        | some (_, st) => if kd = 1 then scopeOfStream st else []
        | none => []
      let fresh (k : Nat × Nat) : BarSlot :=
        { gen := g, used := true, kind := kd, ext := ext, phase := 0, e0 := fld cfg 31 16, e := fld cfg 31 16
          b0 := rdN s b, b := rdN s b, arr := 0, land := 0, scope := scope, arrived := [], ec := fld cfg 39 32
          rels := 0, ring := if kd = 3 ∧ k.2 = slot then n else 0, t := (barAt s fid k).t }
      let s' := set.foldl (fun t k => setBar t fid k (fresh k)) s
      put s' 4 d (BitVec.ofNat 64 (handleOf (fresh (clu, slot)) (clu, slot)))

/-- BAR.EXPECT (R371). -/
def execBarExpect (sb : Bool) (d a b : GReg) (base : Bool) (s : State) : Out :=
  let i := wordOf (.barExpect sb d a b base)
  let fid := myFid s
  match handleCheck s fid (handle s a) (fun x => decide (x.kind ≤ 2)) with
  | .error c => trap s c i
  | .ok k =>
    let inc := rdN s b
    let ia := fld inc 55 40
    let ib := fld inc 39 0
    let x := barAt s fid k
    if 2 ^ 56 ≤ inc then trap s .bararg i
    else if ia ≠ 0 ∧ x.kind ≠ 0 then trap s .barkind i
    else if decide (65535 < x.e + ia) || decide (2 ^ 40 ≤ x.b + ib)
        || (base && (decide (65535 < x.e0 + ia) || decide (2 ^ 40 ≤ x.b0 + ib))) then trap s .barover i
    else
      let y := { x with e := x.e + ia, b := x.b + ib, e0 := if base then x.e0 + ia else x.e0
                        b0 := if base then x.b0 + ib else x.b0 }
      let s := barEvent (setBar s fid k y) fid k
      put s 4 d (BitVec.ofNat 64 (barAt s fid k).phase)

/-- BAR.ARRIVE (R372). -/
def execBarArrive (sb : Bool) (d a b : GReg) (s : State) : Out :=
  let i := wordOf (.barArrive sb d a b)
  let fid := myFid s
  match handleCheck s fid (handle s a) (fun x => decide (x.kind = 0) && !x.ext) with
  | .error c => trap s c i
  | .ok k =>
    let n := rdN s b
    if 2 ^ 16 ≤ n ∨ n = 0 then trap s .bararg i
    else
      let ph := (barAt s fid k).phase
      match addArrivals s fid k n with
      | none => trap s .barover i
      | some s => put s 4 d (BitVec.ofNat 64 ph)

/-- A handle check that fails while the thread already waits means that the slot was freed (R373, R378). -/
def waitCause (s : State) (c : Cause) : Cause := if (me s).wait.isSome then .bargen else c

/-- The end of a BAR.WAIT: the value goes to the destination, after the acquire where a phase was observed; until that
can be made the thread waits on. -/
def finishWait (w : Wait) (bw : BarWait) (d : GReg) (v h : Nat) (s : State) : Out :=
  if 2 ^ 16 ≤ v then put (endWait s) 4 d (BitVec.ofNat 64 v)
  else match acquirePhase s s.cur h with
    | none => stall s { w with bar := some { bw with out := some (v, h) } }
    | some s => put (endWait s) 4 d (BitVec.ofNat 64 v)

/-- What a BAR.WAIT that has already ended brought: its value and its horizon. -/
def waitOut (s : State) : Option (Wait × BarWait × Nat × Nat) :=
  (me s).wait.bind fun w => w.bar.bind fun b => b.out.map fun o => (w, b, o.1, o.2)

/-- BAR.WAIT (R373). -/
def execBarWait (sb : Bool) (d a b : GReg) (s : State) : Out :=
  let i := wordOf (.barWait sb d a b)
  let fid := myFid s
  match waitOut s with
  | some (w, bw, v, h) => finishWait w bw d v h s
  | none =>
    match handleCheck s fid (handle s a) (fun _ => true) with
    | .error c => trap s (waitCause s c) i
    | .ok k =>
      let x := rdN s b
      let p := x % 65536
      let timeout := fld x 47 16
      if 2 ^ 48 ≤ x then trap s .bararg i
      else
        let slot := barAt s fid k
        let t0 := ((me s).wait.map (·.t0)).getD s.now
        let bw : BarWait := ⟨handle s a, p, timeout, d.toNat, i, none⟩
        if slot.phase ≠ p then finishWait ⟨t0, [], none⟩ bw d slot.phase slot.t s
        else if timedOut s (s.pidOf fid k.1) t0 timeout then finishWait ⟨t0, [], none⟩ bw d (2 ^ 16 + p) 0 s
        else stall s ⟨t0, [], some bw⟩

/-- BAR_WAIT_TIMEOUT (R373): the timeout of a waiting BAR.WAIT runs out while the phase stands. -/
def execBarWaitTimeout (fid clu t : Nat) (s : State) : Out :=
  let tid : Tid := ⟨fid, clu, t⟩
  let x := s.thr tid
  match x.wait with
  | some ⟨t0, _, some w⟩ =>
    if decide (x.status = .running) && decide (x.stopped = none) && timedOut s (s.pidOf fid (hClu w.h)) t0 w.timeout && w.out.isNone
        && decide ((barAt s fid (hClu w.h, hSlot w.h)).phase = w.p) && decide ((barAt s fid (hClu w.h, hSlot w.h)).gen = hGen w.h)
    then .next (s.modThr tid fun x => { x.setGr w.d (BitVec.ofNat 64 (2 ^ 16 + w.p)) with pc := x.pc + 4, wait := none })
    else .next s
  | _ => .next s

/-- The slots of the set that a handle names: a whole ring, or one slot. -/
def barSet (s : State) (fid : Nat) (k : Nat × Nat) : List (Nat × Nat) :=
  let b := barAt s fid k
  if b.ring = 0 then [k] else (List.range b.ring).map fun j => (k.1, k.2 + j)

/-- The handle that a copy or matrix word counts into (R123, R250, R257). -/
def EWord.bar? (w : EWord) : Option Nat :=
  let op := fld w.w.toNat 61 52
  if 0x300 ≤ op ∧ op ≤ 0x304 then
    let c := w.uc.toNat / 2 ^ 64
    if c.testBit 32 then some (c % 2 ^ 32) else none
  else if op = 0x308 ∨ op = 0x309 then
    let a := w.ua.toNat / 2 ^ 64
    if a.testBit 63 then some (a % 2 ^ 32) else none
  else if op = 0x30A then
    let a := w.ua.toNat % 2 ^ 64
    if a.testBit 63 then some (a % 2 ^ 32) else none
  else none

/-- The handle that a tensor descriptor counts into (R116). -/
def descBar (d : List Byte) : Option Nat :=
  if (leNat ((d.drop 48).take 8)).testBit 7 then some (leNat ((d.drop 56).take 4)) else none

/-- The words of closed runs that a (member, slot) has still to issue. -/
def leftOf (s : State) (t : Tid) (n : Nat) (p : Nat × Nat) : List EWord :=
  ((restRuns ((s.thr t).streams.get n Stream.unbound) p).flatMap (·.words)).drop (posOf s t n p)

/-- A copy, a matrix word or a PFT of the flock that names a slot is unretired: it has been emitted and not issued,
stands in an engine (R127, R374). -/
def engineNames (s : State) (fid : Nat) (set : List (Nat × Nat)) : Bool :=
  let names (t : Tid) (h : Option Nat) : Bool :=
    decide (t.fid = fid) && h.any fun h => set.contains (hClu h, hSlot h)
  (s.clusters.any fun e =>
    let c := e.2
    (c.cq.any fun q => q.2.ents.any fun x => names x.tid x.word.bar?)
    || ((c.mq ++ c.array).any fun x => names x.tid x.word.bar?)
    || c.pft.any fun x => names x.tid (descBar x.desc))
  || (s.threads.any fun e => decide (e.1.fid = fid) && e.2.streams.any fun st =>
    ((st.2.openRun ++ st.2.playRun).any fun w => names e.1 w.bar?)
      || (pairs st.2).any fun p => (leftOf s e.1 st.1 p).any fun w => names e.1 w.bar?)

/-- A deferred stage operation on a slot is pending (R381). -/
def deferredTo (s : State) (fid : Nat) (set : List (Nat × Nat)) : Bool :=
  s.threads.any fun e => decide (e.1.fid = fid) && e.2.deferred.any fun d => set.contains (d.clu, d.slot)

/-- A freed slot (R374). -/
def freeSlot (b : BarSlot) : BarSlot :=
  { BarSlot.free with gen := (b.gen + 1) % 4096, t := b.t }

/-- The threads that wait on a slot of a set: their waits end with BARGEN, precise at their parcels (R373, R374,
R378). A BAR.WAIT that a phase has ended already waits no longer, and one whose bound has passed has timed out. -/
def endWaiters (s : State) (fid : Nat) (set : List (Nat × Nat)) : State :=
  s.threads.foldl (init := s) fun s e => match e.2.wait with
    | some ⟨t0, ms, some w⟩ =>
      if decide (e.1.fid = fid) && decide (e.1 ≠ s.cur) && set.contains (hClu w.h, hSlot w.h) && w.out.isNone then
        if timedOut s (s.pidOf fid (hClu w.h)) t0 w.timeout then s.modThr e.1 fun x => { x with wait := some ⟨t0, ms, some { w with out := some (2 ^ 16 + w.p, 0) }⟩ }
        else takeTrap s e.1 .bargen w.word e.2.pc
      else s
    | _ => s

/-- BAR.FREE (R374): the waits of threads on the set end with BARGEN; an LWAIT finds it when it next looks. -/
def execBarFree (sb : Bool) (a : GReg) (s : State) : Out :=
  let i := wordOf (.barFree sb a)
  let fid := myFid s
  match handleCheck s fid (handle s a) (fun b => decide (b.kind ≠ 3) || decide (b.ring ≠ 0)) with
  | .error c => trap s c i
  | .ok k =>
    let set := barSet s fid k
    if engineNames s fid set || deferredTo s fid set then stall s ((me s).wait.getD ⟨s.now, [], none⟩)
    else .next (advance (endWait (set.foldl (fun t k => setBar t fid k (freeSlot (barAt t fid k))) (endWaiters s fid set))) 4)

/-! ## Stage rings (R378 to R381) -/

/-- A ring by its first member's handle (R378). -/
def ringCheck (s : State) (a : GReg) : Except Cause (Nat × Nat) :=
  handleCheck s (myFid s) (handle s a) (fun b => decide (b.kind = 3) && decide (b.ring ≠ 0))

/-- The greater of two horizons, time by time. -/
def Horizon.sup (h k : Horizon) : Horizon := ⟨max h.cl k.cl, max h.die k.die, max h.pkg k.pkg, max h.acq k.acq⟩

/-- The horizon of the writes of marked words that have completed. -/
def marksHor (x : Thread) (ms : List Mark) : Horizon :=
  ms.foldl (init := Horizon.zero) fun h m => (x.streams.get m.str Stream.unbound).hor.foldl (fun h e => h.sup e.2) h

/-- A deferred arrival or release, after those already pending (R381). -/
def defer (s : State) (k : Nat × Nat) (release : Bool) (scope : BitVec 3) : State :=
  modMe s fun x => { x with deferred := x.deferred ++ [⟨k.1, k.2, release, closedMarks x, scope.toNat, marksHor x (closedMarks x)⟩] }

/-- What a thread that waits in a ring remembers: the ring's first handle and its word (R378). -/
def ringWait (s : State) (a : GReg) (i : Word64) : Wait :=
  (me s).wait.getD ⟨s.now, [], some ⟨handle s a, 2 ^ 16, 0, 0, i, none⟩⟩

/-- STAGE.PUT (R379). -/
def execStagePut (sb : Bool) (d a b : GReg) (scope : BitVec 3) (s : State) : Out :=
  let i := wordOf (.stagePut sb d a b scope)
  let fid := myFid s
  match ringCheck s a with
  | .error c => trap s (waitCause s c) i
  | .ok k =>
    let n := (barAt s fid k).ring
    let pos := rdN s d
    let m := (k.1, k.2 + pos % n)
    let x := barAt s fid m
    if 2 ^ 40 ≤ rdN s b then trap s .bararg i
    else if x.phase ≠ 2 * (pos / n) % 65536 then stall s (ringWait s a i)
    else if 2 ^ 40 ≤ x.b + rdN s b then trap s .barover i
    else match acquirePhase s s.cur x.t with
    | none => stall s (ringWait s a i)
    | some s =>
      let s := setBar s fid m { x with b := x.b + rdN s b }
      put (endWait (defer s m false scope)) 4 d (BitVec.ofNat 64 (pos + 1))

/-- STAGE.TAKE (R380). The release of the stage before is deferred once, when the word first executes. -/
def execStageTake (sb : Bool) (d a : GReg) (scope : BitVec 3) (last : Bool) (s : State) : Out :=
  let i := wordOf (.stageTake sb d a scope last)
  let fid := myFid s
  match ringCheck s a with
  | .error c => trap s (waitCause s c) i
  | .ok k =>
    let n := (barAt s fid k).ring
    let pos := rdN s d
    let s := if pos = 0 || (me s).wait.isSome then s else defer s (k.1, k.2 + (pos - 1) % n) true scope
    if last then .next (advance (endWait s) 4)
    else
      let m := (k.1, k.2 + pos % n)
      let x := barAt s fid m
      if x.phase ≠ (2 * (pos / n) + 1) % 65536 then stall s (ringWait s a i)
      else match acquirePhase s s.cur x.t with
      | none => stall s (ringWait s a i)
      | some s => put (endWait s) 4 d (BitVec.ofNat 64 (pos + 1))

/-- Every write of the words that a deferred operation covers has been made, and DT has passed their horizon (R381). -/
def stageReleased (s : State) (t : Tid) (d : Deferred) : Bool :=
  !(s.ops.any fun o => covered t false d.marks o && o.deed.writes) && passed s (d.hor.rel d.scope)

/-- DEFERRED_STAGE_OPERATION (R381): the oldest deferred arrival or release of a thread is made once the
words it covers have retired and DT has passed the release horizon for them. -/
def execDeferredStageOperation (fid clu t : Nat) (s : State) : Out :=
  let tid : Tid := ⟨fid, clu, t⟩
  let x := s.thr tid
  match x.deferred with
  | [] => .next s
  | d :: rest =>
    if (d.marks.all fun m => retiredBelow s tid m) && stageReleased s tid d && (s.flk fid).resident then
      let s := s.modThr tid fun x => { x with deferred := rest }
      if d.release then .next (addRelease s fid (d.clu, d.slot))
      else match addArrivals s fid (d.clu, d.slot) 1 with
        | some s => .next s
        | none => .next (raiseTrap s tid .barover (BitVec.ofNat 64 (handleOf (barAt s fid (d.clu, d.slot)) (d.clu, d.slot))) 0)
    else .next s

/-- BARDOOR (R382): a doorbell from the host or a peer, for every flock of the context in which the handle
passes R365; a failure anywhere sets DOORERR. -/
def execBardoor (ctx : Nat) (v : BitVec 64) (s : State) : Out :=
  let h := fld v.toNat 31 0
  let n := fld v.toNat 47 32
  let doorErr (s : State) : State := s.modCtx ctx fun c => { c with doorErr := true }
  let mine := s.flocks.filter fun f => decide (f.2.ctx = ctx) && !f.2.ended
    && (match handleCheck s f.1 h (fun b => decide (b.kind = 0) && b.ext) with
        | .ok _ => true
        | .error _ => false)
  if n = 0 || mine.isEmpty then .next (doorErr s)
  else .next (mine.foldl (init := s) fun s f =>
    match addArrivals s f.1 (hClu h, hSlot h) n with
    | some s => progress s ctx
    | none => doorErr s)

end Sys2Proof.Machine
end

