-- ==== Sys2Proof/Machine/Fetch.lean ====
section
/-! DEFINITION. Fetching code (R28, R336 to R338) and the register scoreboard of a thread (R320). -/

namespace Sys2Proof.Machine

/-! ## Instruction caches -/

/-- A line installed in one instruction cache: 8 ways a set, least recently used replaced (R336, R337). -/
def installIc (s : State) (pid ctx va : Nat) (data : List Byte) : State :=
  s.modClu pid fun c =>
    let rest := c.icache.filter fun l => !decide ((l.ctx, l.va) = (ctx, va))
    let inSet := rest.filter fun l => decide (icSetOf l.va = icSetOf va)
    let rest := if inSet.length < 8 then rest
      else match inSet.reverse.head? with
        | some v => rest.filter fun l => !decide ((l.ctx, l.va) = (v.ctx, v.va))
        | none => rest
    { c with icache := ⟨ctx, va, data⟩ :: rest }

/-- The clusters of a die that run the same context and code image as a flock (R337). -/
def fetchers (s : State) (fid pid : Nat) : List Nat :=
  let f := s.flk fid
  (pid :: ((s.flocks.filter fun e => decide (e.2.ctx = f.ctx) && decide (e.2.rcd.image = f.rcd.image) && e.2.resident).flatMap
    fun e => e.2.clus.filter fun p => decide (p / 64 = pid / 64))).dedup

/-- One fill by the die's fetch agent (R336, R337): translated, read at the home, delivered to every cluster
that runs the image. -/
def icFill (s : State) (fid pid va : Nat) : State × Except Cause (List Byte) :=
  let ctx := (s.flk fid).ctx
  let line := va / 256 * 256
  match translate s pid ctx va .fetch with
  | (s, .error c) => (s, .error c)
  | (s, .ok pa) =>
    let (s, data, _) := readAtHome (holdIf (readHeld s pa) s) (pa / 256 * 256) 256
    let s := l2Touch s (pa / 256 * 256) 256 2 false false
    ((fetchers s fid pid).foldl (fun s p => installIc s p ctx line data) s, .ok data)

/-- The line that holds an address: a cached one, which becomes the most recently used, or a fill. -/
def icLine (s : State) (fid pid va : Nat) : State × Except Cause (List Byte) :=
  let ctx := (s.flk fid).ctx
  let line := va / 256 * 256
  match (s.clu pid).icache.find? fun l => decide ((l.ctx, l.va) = (ctx, line)) with
  | some l => (s.modClu pid fun c => { c with icache := l :: c.icache.filter fun x => !decide ((x.ctx, x.va) = (ctx, line)) }, .ok l.data)
  | none => icFill s fid pid va

/-- `n` bytes of code at an address, within one line. -/
def fetchBytes (s : State) (fid pid va n : Nat) : State × Except Cause (List Byte) :=
  if !canonical va then (s, .error .noncanon)
  else match icLine s fid pid va with
    | (s, .error c) => (s, .error c)
    | (s, .ok data) => (s, .ok ((data.drop (va % 256)).take n))

/-- INSTRUCTION_FILL (R336, R337): the fetch agent fills the line of a running thread's PC, or of the parcel
after it, ahead of the thread. -/
def execInstructionFill (pid fid va : Nat) (s : State) : Out :=
  let wanted := s.threads.any fun e => decide (e.1.fid = fid) && decide (s.pidOf fid e.1.clu = pid)
    && decide (e.2.status = .running) && (decide (e.2.pc.toNat = va) || decide ((e.2.pc + 4).toNat = va))
  if !wanted || !(s.flk fid).resident || !canonical va || !(s.ctx (s.flk fid).ctx).en then .next s
  else .next (icFill s fid pid va).1

/-! ## The instruction at PC (R28) -/

/-- A fetch fault: the cause and the faulting address (R83). -/
structure FetchFault where
  cause : Cause
  va : Nat
  deriving DecidableEq, Repr

/-- The instruction that the thread in focus executes next; a word that is no instruction is the event
ILLEGAL_INSTRUCTION with its TVAL (R33), a lane word its emission. -/
def fetchInstr (s : State) : State × Except FetchFault Instr :=
  let fid := s.cur.fid
  let pid := myPid s
  let pc := (me s).pc.toNat
  let aligned := decide (pc % 8 = 0)
  match fetchBytes s fid pid pc (if aligned then 8 else 4) with
  | (s, .error c) => (s, .error ⟨c, pc⟩)
  | (s, .ok bs) =>
    let lo : Parcel := BitVec.ofNat 32 (leNat (bs.take 4))
    let hi : Parcel := BitVec.ofNat 32 (leNat (bs.drop 4))
    let bad : Instr := .illegalInstruction (lo.zeroExtend 64)
    let w : BitVec 64 := BitVec.ofNat 64 (leNat bs)
    let lane : Instr := match decodeLane w with
      | .ok (.trl x) => .trl x
      | _ => .laneWordEmit w
    if aligned && decide (pCls hi = 3) then (s, .ok lane)
    else if isPrefix lo then
      let long (q : Parcel) : Instr := match decodeLong lo q with
        | .ok i => i
        | .error _ => bad
      if aligned then (s, .ok (long hi))
      else
        let va := (pc + 4) % 2 ^ 64
        match fetchBytes s fid pid va 4 with
        | (s, .error c) => (s, .error ⟨c, va⟩)
        | (s, .ok q) => (s, .ok (long (BitVec.ofNat 32 (leNat q))))
    else match decodeShort lo with
      | .ok i => (s, .ok i)
      | .error _ => (s, .ok bad)

/-- ILLEGAL_INSTRUCTION (R33). -/
def execIllegalInstruction (tval : BitVec 64) (s : State) : Out := trap s .illegal tval

/-! ## The scoreboard (R320) -/

/-- The uniform fields of a lane opcode: for A, B and C, how many g registers the field names where it
holds a g code (R36, R37); 0 where the field names none. -/
def uniShape (op : Nat) (x : LaneWord) : Nat × Nat × Nat :=
  if op ≤ 0x01B then (1, 1, 1)
  else if 0x080 ≤ op ∧ op ≤ 0x08A then (1, 1, 1)
  else if op = 0x100 ∨ op = 0x101 then
    (if LaneWord.cvtSpan (LaneWord.cvtN (tyWidth x.srcTy) (tyWidth x.ty)) (tyWidth x.srcTy) = 4 then 2 else 1, 1, 0)
  else if 0x102 ≤ op ∧ op ≤ 0x104 then (1, 1, 0)
  else match op with
    | 0x180 | 0x181 | 0x183 | 0x184 => (1, 1, 0)
    | 0x188 | 0x189 | 0x18A | 0x18B | 0x18C | 0x18D | 0x18E | 0x190 => (1, 0, 0)
    | 0x191 => (1, 1, 0)
    | 0x200 | 0x205 => (0, 1, 1)
    | 0x201 | 0x202 | 0x203 | 0x204 => (0, 0, 1)
    | 0x280 | 0x281 | 0x282 | 0x283 | 0x284 | 0x285 => (1, 0, 0)
    | 0x288 => (1, 1, 1)
    | 0x289 | 0x28A => (1, 0, 1)
    | 0x300 | 0x303 | 0x304 => (1, 1, 2)
    | 0x301 | 0x302 => (2, 2, 2)
    | 0x308 | 0x309 => (2, 2, 0)
    | 0x30A | 0x30B | 0x311 | 0x319 => (1, 0, 0)
    | 0x312 => (2, 0, 0)
    | 0x318 => (1, 1, 0)
    | 0x3C0 | 0x3C1 | 0x3C2 => (1, 1, 0)
    | _ => (0, 0, 0)

/-- The g registers that a field reads. -/
def fieldRegs (c n : Nat) : List Nat := if 192 ≤ c then (List.range n).map fun k => c - 192 + k else []

/-- The g registers that the emission of a lane word reads, and that UNI writes. -/
def laneRegs (w : BitVec 64) : List Nat :=
  let op := (lOp w).toNat
  let x := laneFields w
  let (na, nb, nc) := uniShape op x
  fieldRegs x.aN na ++ fieldRegs x.bN nb ++ fieldRegs x.cN nc ++ (if op = 0x207 then fieldRegs x.dN 1 else [])

/-- The g registers that a generator instruction reads or writes. -/
def gUse : Instr → List Nat
  | .add _ d a b => [d.toNat, a.toNat, b.toNat]
  | .sub _ d a b => [d.toNat, a.toNat, b.toNat]
  | .mul _ d a b => [d.toNat, a.toNat, b.toNat]
  | .mulh _ d a b => [d.toNat, a.toNat, b.toNat]
  | .mulhu _ d a b => [d.toNat, a.toNat, b.toNat]
  | .div _ d a b => [d.toNat, a.toNat, b.toNat]
  | .divu _ d a b => [d.toNat, a.toNat, b.toNat]
  | .rem _ d a b => [d.toNat, a.toNat, b.toNat]
  | .andR _ d a b => [d.toNat, a.toNat, b.toNat]
  | .orR _ d a b => [d.toNat, a.toNat, b.toNat]
  | .xorR _ d a b => [d.toNat, a.toNat, b.toNat]
  | .shlR _ d a b => [d.toNat, a.toNat, b.toNat]
  | .shrR _ d a b => [d.toNat, a.toNat, b.toNat]
  | .sarR _ d a b => [d.toNat, a.toNat, b.toNat]
  | .minR _ d a b => [d.toNat, a.toNat, b.toNat]
  | .maxR _ d a b => [d.toNat, a.toNat, b.toNat]
  | .slt _ d a b => [d.toNat, a.toNat, b.toNat]
  | .sltu _ d a b => [d.toNat, a.toNat, b.toNat]
  | .seq _ d a b => [d.toNat, a.toNat, b.toNat]
  | .csel _ d a b => [d.toNat, a.toNat, b.toNat]
  | .popc _ d a => [d.toNat, a.toNat]
  | .clz _ d a => [d.toNat, a.toNat]
  | .sfadd _ d a b _ => [d.toNat, a.toNat, b.toNat]
  | .sfsub _ d a b _ => [d.toNat, a.toNat, b.toNat]
  | .sfmul _ d a b _ => [d.toNat, a.toNat, b.toNat]
  | .sfmac _ d a b _ => [d.toNat, a.toNat, b.toNat]
  | .sfmin _ d a b => [d.toNat, a.toNat, b.toNat]
  | .sfmax _ d a b => [d.toNat, a.toNat, b.toNat]
  | .sfcmp _ d a b _ => [d.toNat, a.toNat, b.toNat]
  | .sfcvt _ d a _ _ => [d.toNat, a.toNat]
  | .jr _ a => [a.toNat]
  | .callr _ a => [a.toNat, 63]
  | .icinv _ a b _ => [a.toNat, b.toNat]
  | .vqPop _ d => [d.toNat]
  | .vqPeek _ d => [d.toNat]
  | .barNew _ d a b _ _ => [d.toNat, a.toNat, b.toNat]
  | .barExpect _ d a b _ => [d.toNat, a.toNat, b.toNat]
  | .barArrive _ d a b => [d.toNat, a.toNat, b.toNat]
  | .barWait _ d a b => [d.toNat, a.toNat, b.toNat]
  | .barFree _ a => [a.toNat]
  | .stagePut _ d a b _ => [d.toNat, a.toNat, b.toNat]
  | .stageTake _ d a _ _ => [d.toNat, a.toNat]
  | .reelOpen _ a => [a.toNat]
  | .reelPlay _ a => [a.toNat]
  | .reelDrop _ a => [a.toNat]
  | .strBind _ a b _ => [a.toNat, b.toNat]
  | .maskRd _ d a _ => [d.toNat, a.toNat]
  | .maskWr _ a b => [a.toNat, b.toNat]
  | .parkReplay _ a b => [a.toNat, b.toNat]
  | .unpark _ a b _ => [a.toNat, b.toNat]
  | .launch _ d a b => [d.toNat, a.toNat, b.toNat]
  | .gatom _ d a b _ => [d.toNat, a.toNat, a.toNat + 1, b.toNat]
  | .pinSet _ d a b _ _ => [d.toNat, a.toNat, b.toNat]
  | .pinClr _ d a => [d.toNat, a.toNat]
  | .addi _ d a _ => [d.toNat, a.toNat]
  | .andi _ d a _ => [d.toNat, a.toNat]
  | .ori _ d a _ => [d.toNat, a.toNat]
  | .xori _ d a _ => [d.toNat, a.toNat]
  | .shli _ d a _ => [d.toNat, a.toNat]
  | .shri _ d a _ => [d.toNat, a.toNat]
  | .sari _ d a _ => [d.toNat, a.toNat]
  | .slti _ d a _ => [d.toNat, a.toNat]
  | .movi _ d _ => [d.toNat]
  | .insh _ d _ => [d.toNat]
  | .sltiu _ d a _ => [d.toNat, a.toNat]
  | .srd _ d _ => [d.toNat]
  | .swr _ a _ => [a.toNat]
  | .pft _ a _ => [a.toNat]
  | .addiLong _ d a _ _ => [d.toNat, a.toNat]
  | .andiLong _ d a _ _ => [d.toNat, a.toNat]
  | .oriLong _ d a _ _ => [d.toNat, a.toNat]
  | .xoriLong _ d a _ _ => [d.toNat, a.toNat]
  | .sltiLong _ d a _ _ => [d.toNat, a.toNat]
  | .sltiuLong _ d a _ _ => [d.toNat, a.toNat]
  | .moviLong _ d _ _ => [d.toNat]
  | .inshLong _ d _ _ => [d.toNat]
  | .pftLong _ a _ _ => [a.toNat]
  | .ldgN8 _ d a _ _ _ => [d.toNat, a.toNat]
  | .ldgS8 _ d a _ _ _ => [d.toNat, a.toNat]
  | .ldgN16 _ d a _ _ _ => [d.toNat, a.toNat]
  | .ldgS16 _ d a _ _ _ => [d.toNat, a.toNat]
  | .ldgN32 _ d a _ _ _ => [d.toNat, a.toNat]
  | .ldgS32 _ d a _ _ _ => [d.toNat, a.toNat]
  | .ldgB64 _ d a _ _ _ => [d.toNat, a.toNat]
  | .stgB8 _ d a _ _ _ _ => [d.toNat, a.toNat]
  | .stgB16 _ d a _ _ _ _ => [d.toNat, a.toNat]
  | .stgB32 _ d a _ _ _ _ => [d.toNat, a.toNat]
  | .stgB64 _ d a _ _ _ _ => [d.toNat, a.toNat]
  | .ldgN8Long _ d a _ _ _ _ => [d.toNat, a.toNat]
  | .ldgS8Long _ d a _ _ _ _ => [d.toNat, a.toNat]
  | .ldgN16Long _ d a _ _ _ _ => [d.toNat, a.toNat]
  | .ldgS16Long _ d a _ _ _ _ => [d.toNat, a.toNat]
  | .ldgN32Long _ d a _ _ _ _ => [d.toNat, a.toNat]
  | .ldgS32Long _ d a _ _ _ _ => [d.toNat, a.toNat]
  | .ldgB64Long _ d a _ _ _ _ => [d.toNat, a.toNat]
  | .stgB8Long _ d a _ _ _ _ _ => [d.toNat, a.toNat]
  | .stgB16Long _ d a _ _ _ _ _ => [d.toNat, a.toNat]
  | .stgB32Long _ d a _ _ _ _ _ => [d.toNat, a.toNat]
  | .stgB64Long _ d a _ _ _ _ _ => [d.toNat, a.toNat]
  | .beq _ a b _ => [a.toNat, b.toNat]
  | .bne _ a b _ => [a.toNat, b.toNat]
  | .blt _ a b _ => [a.toNat, b.toNat]
  | .bge _ a b _ => [a.toNat, b.toNat]
  | .bltu _ a b _ => [a.toNat, b.toNat]
  | .bgeu _ a b _ => [a.toNat, b.toNat]
  | .call _ _ => [63]
  | .laneWordEmit w => laneRegs w
  | _ => []

/-- The second registers of the pairs of a GATOM whose control register says WIDTH 2 (R295). -/
def pairUse (x : Thread) : Instr → List Nat
  | .gatom _ d a b _ => if (x.gr (a.toNat + 1)).toNat % 4 = 2 then [d.toNat + 1, b.toNat + 1] else []
  | _ => []

/-- The scoreboard holds an instruction that reads or writes an outstanding register (R320). -/
def scoreboardHolds (x : Thread) (i : Instr) : Bool :=
  (gUse i ++ pairUse x i).any fun r => decide (r ≠ 0) && x.out.any fun o => decide (o.reg = r)

end Sys2Proof.Machine
end

