-- ==== Sys2Proof/Machine/Emission.lean ====
section
/-! DEFINITION. Emission: the checks of a lane word (R52 to R57, R124, R146, R162, R230, R254, R276, R365), its
entry into a stream with what it captures (R232, R243, R258, R259), trailers and open runs (R40, R43). -/

namespace Sys2Proof.Machine

/-! ## Uniform operands (R36, R37) -/

/-- The uniform operand that a field holds: one register, or a pair. -/
def uniField (rdg : Nat → Nat) (c n : Nat) : Uniform :=
  if c < 192 then 0
  else if n = 2 then BitVec.ofNat 128 (rdg (c - 192) + 2 ^ 64 * rdg ((c - 192 + 1) % 64))
  else BitVec.ofNat 128 (rdg (c - 192))

/-- A lane word with its uniform operands read. -/
def withUniforms (rdg : Nat → Nat) (w : BitVec 64) (yoke : Nat) : EWord :=
  let x := laneFields w
  let (na, nb, nc) := uniShape (lOp w).toNat x
  { w := w, ua := uniField rdg x.aN na, ub := uniField rdg x.bN nb, uc := uniField rdg x.cN nc, seq := 0
    yoke := yoke, banks := [] }

def EWord.isTrl (e : EWord) : Bool := decide (e.op = 0x380)

/-! ## Roles (R52) -/

def isCopyOp (op : Nat) : Bool := decide (0x300 ≤ op) && decide (op ≤ 0x305)
def isMatrixOp (op : Nat) : Bool := decide (0x308 ≤ op) && decide (op ≤ 0x30B)
def isTaOp (op : Nat) : Bool := decide (0x310 ≤ op) && decide (op ≤ 0x315)
def isStashOp (op : Nat) : Bool := decide (0x288 ≤ op) && decide (op ≤ 0x28A)
def isRetired (op : Nat) : Bool := decide (0x3C0 ≤ op) && decide (op ≤ 0x3C2)
/-- NOP, LWAIT and TRL accept any role. -/
def roleOk (r : Role) (op : Nat) : Bool :=
  if op = 0x186 ∨ op = 0x318 ∨ op = 0x380 then true
  else if isCopyOp op then decide (r = .copy)
  else if isMatrixOp op then decide (r = .matrix)
  else decide (r = .vector)
/-- A full-mask word (R52). -/
def fullMask (op : Nat) : Bool := isCopyOp op || isMatrixOp op

/-- An opcode slot that R51 assigns. -/
def assigned (op : Nat) : Bool :=
  decide (op ≤ 0x016) || (decide (0x018 ≤ op) && decide (op ≤ 0x01B)) || (decide (0x080 ≤ op) && decide (op ≤ 0x08A))
    || (decide (0x100 ≤ op) && decide (op ≤ 0x104)) || (decide (0x180 ≤ op) && decide (op ≤ 0x186))
    || (decide (0x188 ≤ op) && decide (op ≤ 0x18E)) || (decide (0x190 ≤ op) && decide (op ≤ 0x191))
    || (decide (0x200 ≤ op) && decide (op ≤ 0x207)) || (decide (0x280 ≤ op) && decide (op ≤ 0x286))
    || isStashOp op || isCopyOp op || isMatrixOp op || isTaOp op || decide (op = 0x318) || decide (op = 0x319)
    || decide (op = 0x380) || isRetired op

/-- Checks 1 to 4 of R55 for a word and a role; a retired word is checked by its handler (R56). -/
def formCheck (r : Role) (w : BitVec 64) : Option Cause :=
  let op := (lOp w).toNat
  if !assigned op || !LaneWord.ok op (laneFields w) then some .illegal
  else if !roleOk r op then some .role
  else if fullMask op && !(laneFields w).always then some .mask
  else none

/-! ## Address arguments -/

/-- The largest byte offset of a space on every member that the word reaches: LOCAL below the accumulator
window, PLANE below the share (R122). -/
def spaceTop (s : State) (fid : Nat) (cmask : Nat) (sp a : Nat) : Nat :=
  if sp = 1 then s.accBase fid
  else
    let ms := if a.testBit 63 then setBits 16 cmask else [fld a 59 56]
    ms.foldl (fun acc m => min acc (s.planeSize (s.pidOf fid m))) (2 ^ 26)

/-- An address operand of a copy (R122): zero fields and CLU, or canonicity. -/
def copyBase (s : State) (fid sp a : Nat) : Bool :=
  if sp = 0 then canonical a
  else decide (fld a 62 60 = 0) && decide (fld a 55 25 = 0) && (a.testBit 63 || decide (fld a 59 56 < s.size fid))

/-- Rows of `len` bytes at OFF + i × stride, i below `rows`, all inside the space. -/
def copyRows (s : State) (fid cmask sp a : Nat) (stride : Int) (rows len : Nat) : Bool :=
  if sp = 0 then true
  else
    let off : Int := (a % 2 ^ 25 : Nat)
    let last : Int := off + stride * ((rows - 1 : Nat) : Int)
    decide (0 ≤ min off last) && decide (max off last + (len : Int) ≤ (spaceTop s fid cmask sp a : Int))

/-- The control pair's second register (R123). -/
def copyCtl (c : Nat) : Bool :=
  decide (fld c 63 39 = 0) && decide (1 ≤ fld c 38 36) && decide (fld c 38 36 ≤ 6) && decide (fld c 35 33 = 0)

def s64 (x : Nat) : Int := sextInt x 64

/-- The argument check of a copy word (R124, R131 to R135). -/
def copyArgs (s : State) (fid cmask : Nat) (e : EWord) : Bool :=
  let x := e.x
  let dsp := x.flags / 4
  let ssp := x.flags % 4
  let a := lo64 e.ua
  let b := lo64 e.ub
  let c := lo64 e.uc
  let sa := s64 (hi64 e.ua)
  let sb := s64 (hi64 e.ub)
  let ebytes := 2 ^ x.ty6
  let rows := fld c 47 32
  match e.op with
  | 0x300 => copyCtl (hi64 e.uc) && decide (1 ≤ c) && decide (c ≤ 2 ^ 34) && copyBase s fid dsp a && copyBase s fid ssp b
      && copyRows s fid cmask dsp a 0 1 c && copyRows s fid cmask ssp b 0 1 c
  | 0x301 =>
    let len := fld c 31 0
    copyCtl (hi64 e.uc) && decide (fld c 63 48 = 0) && decide (1 ≤ rows) && decide (1 ≤ len) && decide (len ≤ 2 ^ 31)
      && decide (rows * len ≤ 2 ^ 34) && copyBase s fid dsp a && copyBase s fid ssp b
      && copyRows s fid cmask dsp a sa rows len && copyRows s fid cmask ssp b sb rows len
  | 0x302 =>
    let cols := fld c 15 0
    copyCtl (hi64 e.uc) && decide (fld c 63 48 = 0) && decide (fld c 31 16 = 0) && decide (1 ≤ rows) && decide (1 ≤ cols)
      && decide (rows * cols * ebytes ≤ 2 ^ 34) && copyBase s fid dsp a && copyBase s fid ssp b
      && decide (a % ebytes = 0) && decide (b % ebytes = 0) && decide (sa % ebytes = 0) && decide (sb % ebytes = 0)
      && copyRows s fid cmask dsp a sa cols (rows * ebytes) && copyRows s fid cmask ssp b sb rows (cols * ebytes)
  | 0x303 => copyCtl (hi64 e.uc) && decide (1 ≤ c) && decide (c ≤ 4096) && copyBase s fid dsp a
      && copyRows s fid cmask dsp a 0 1 1 && decide (b % 16 = 0) && decide (b + 16 * c ≤ s.accBase fid)
  | 0x304 => copyCtl (hi64 e.uc) && decide (1 ≤ c) && decide (c ≤ 2 ^ 34) && decide (c % ebytes = 0)
      && decide (a % ebytes = 0) && copyBase s fid dsp a && copyRows s fid cmask dsp a 0 1 c
  | _ => true

/-- Rows, columns per cluster and depth of a shape code for an element type (R49, R50). -/
def shapeM (sh : Nat) : Nat := 32 * (sh / 8 + 1)
def shapeN (sh : Nat) : Nat := if sh.testBit 2 then 128 else 64
def kBase (t : Nat) : Nat := if t = 13 then 256 else if t = 8 ∨ t = 9 then 64 else 128
def shapeK (t sh : Nat) : Nat := kBase t * 4 ^ (sh % 4)
/-- Bytes of a row of A (R250). -/
def rowBytes (t sh : Nat) : Nat :=
  if t = 13 then shapeK t sh / 2 else if t = 8 ∨ t = 9 then 2 * shapeK t sh else shapeK t sh
/-- Values of k in a plane row (R251). -/
def planeK (t : Nat) : Nat := if t = 13 then 128 else if t = 14 then 256 else if t = 8 ∨ t = 9 then 32 else 64
/-- Plane rows of the scales (R251). -/
def scaleRows (t sh : Nat) : Nat :=
  if t = 13 then ceilDiv (shapeK t sh) 2048 else if t = 14 then ceilDiv (shapeK t sh) 4096 else 0

/-- YOKE obeys R259 for a stream. -/
def yokeOk (s : State) (fid cmask y : Nat) : Bool :=
  let n := popCount 16 y
  decide (2 ≤ n) && decide (n ≤ 8) && decide (y < 2 ^ s.size fid) && decide (y ||| cmask = y)

/-- The argument check of a matrix word (R254). -/
def matrixArgs (s : State) (fid cmask : Nat) (e : EWord) : Bool :=
  let x := e.x
  let tileOk := decide (x.tile < (s.flk fid).rcd.acc)
  let a := lo64 e.ua
  let a1 := hi64 e.ua
  let b := lo64 e.ub
  let b1 := hi64 e.ub
  let t := x.ty6
  let sh := x.shape
  let top := s.accBase fid
  let plane := spaceTop s fid cmask 2 (2 ^ 63)
  let boff := b
  let rowsB := ceilDiv (shapeK t sh) (planeK t)
  let astr := fld a 47 32
  let aoff := a % 2 ^ 25
  let ascl := fld a1 56 32
  let mm := decide (fld a 63 48 = 0) && decide (fld a 31 25 = 0) && decide (fld a1 62 57 = 0)
    && decide (astr % 64 = 0) && decide (rowBytes t sh ≤ astr) && decide (aoff % 64 = 0)
    && decide (aoff + (shapeM sh - 1) * astr + rowBytes t sh ≤ top)
    && (if t = 13 then decide (ascl % 16 = 0) && decide (ascl + shapeM sh * (shapeK t sh / 32) ≤ top) else decide (ascl = 0))
    && decide (boff % 8192 = 0) && decide (boff + 8192 * rowsB ≤ plane)
    && (if t = 13 ∨ t = 14 then decide (b1 % 8192 = 0) && decide (b1 + 8192 * scaleRows t sh ≤ plane) else decide (b1 = 0))
    && tileOk
  match e.op with
  | 0x308 => mm
  | 0x309 => mm && yokeOk s fid cmask e.yoke
  | 0x30A => decide (fld a 62 32 = 0) && tileOk
  | _ => decide (a % 16 = 0) && decide (a + 1024 ≤ top)

/-- CTLD's operands (R230). -/
def ctldArgs (s : State) (fid : Nat) (e : EWord) : Bool :=
  let a := lo64 e.ua
  let b := lo64 e.ub
  let sh := sextInt (b / 2 ^ 32) 8
  decide (a % 16 = 0) && decide (s.stashTop fid ≤ a) && decide (a + 4096 ≤ s.accBase fid) && decide (fld b 63 40 = 0)
    && decide (-32 ≤ sh) && decide (sh ≤ 32) && decide (fld b 30 23 ≠ 255)

/-- The operands of the stash words (R162). -/
def stashArgs (s : State) (fid : Nat) (e : EWord) : Bool :=
  let a := lo64 e.ua
  let b := lo64 e.ub
  let c := lo64 e.uc
  canonical a && decide (a % 4096 = 0) && decide (c ≠ 0) && decide (c % 4096 = 0) && decide (c ≤ 1572864)
    && (decide (e.op ≠ 0x288) || (decide (b % 4096 = 0) && decide (b + c ≤ s.stashTop fid)))

/-- The base of a lane memory word in SPACE 1 (R146). -/
def localArgs (s : State) (fid : Nat) (e : EWord) : Bool :=
  let a := lo64 e.ua
  decide (e.x.space ≠ 1) || (decide (fld a 62 60 = 0) && decide (fld a 55 25 = 0)
    && (a.testBit 63 || decide (fld a 59 56 < s.size fid)))

/-- TA.DLY's operand (R276). -/
def taArgs (s : State) (fid : Nat) (e : EWord) : Bool :=
  let a := lo64 e.ua
  decide (e.op ≠ 0x311) || (decide (a % 128 = 0) && decide (a + 16384 ≤ s.accBase fid))

/-- The handle that a lane word names: that of LWAIT and LARR, or the one an engine counts into. -/
def EWord.handle? (e : EWord) : Option Nat :=
  if e.op = 0x318 ∨ e.op = 0x319 then some (lo64 e.ua % 2 ^ 32) else e.bar?

/-- What a word accepts of a slot: LARR, kinds 0 and 1 without EXT (R375). -/
def handleAllowed (op : Nat) (b : BarSlot) : Bool :=
  decide (op ≠ 0x319) || ((decide (b.kind = 0) || decide (b.kind = 1)) && !b.ext)

/-- The upper half of a handle register is not part of the handle (R364); the operand is checked whole. -/
def handleWord (s : State) (fid : Nat) (e : EWord) : Option Cause :=
  match e.handle? with
  | none => none
  | some h => match handleCheck s fid h (handleAllowed e.op) with
    | .error c => some c
    | .ok _ => none

/-- The argument checks that follow R55, then the handle (R57). -/
def argCheck (s : State) (fid cmask : Nat) (e : EWord) : Option Cause :=
  let op := e.op
  if 0x280 ≤ op ∧ op ≤ 0x285 ∧ !localArgs s fid e then some .lsarg
  else if isStashOp op && !stashArgs s fid e then some .stasharg
  else if op = 0x191 ∧ !ctldArgs s fid e then some .ctarg
  else if isCopyOp op && !copyArgs s fid cmask e then some .cparg
  else if isMatrixOp op && !matrixArgs s fid cmask e then some .mmarg
  else if isTaOp op && !taArgs s fid e then some .taarg
  else handleWord s fid e

/-! ## Buffers (R342, R346) -/

/-- Words of a stream that a (member, slot) has still to issue, trailers included. -/
def buffered (s : State) (t : Tid) (n : Nat) (p : Nat × Nat) : Nat :=
  let st := (s.thr t).streams.get n Stream.unbound
  (restRuns st p).foldl (fun acc r => acc + r.words.length + 1) 0 - posOf s t n p + st.openRun.length + st.playRun.length

/-- Some member's buffer is full. -/
def bufferFull (s : State) (t : Tid) (n : Nat) : Bool :=
  (pairs ((s.thr t).streams.get n Stream.unbound)).any fun p => decide (256 ≤ buffered s t n p)

def modStr (s : State) (t : Tid) (n : Nat) (f : Stream → Stream) : State :=
  s.modThr t fun x => { x with streams := x.streams.set n (f (x.streams.get n Stream.unbound)) }
def strOf (s : State) (t : Tid) (n : Nat) : Stream := (s.thr t).streams.get n Stream.unbound

/-! ## What a word captures as it enters the buffers -/

/-- Loads emitted to a bank, and finished in it. -/
def BankCtl.emit (b : BankCtl) (k : Nat) : Nat := b.emitted.get k 0
def BankCtl.fin (b : BankCtl) (k : Nat) : Nat := b.finished.get k 0
/-- What a word carries of a bank: the bank, and how many loads had been emitted to it, its own among them. -/
def bankCode (k n : Nat) : Nat := k + 2 * n
/-- The target of a load, and the pointer moved to it (R232.1, R258.1). -/
def BankCtl.aim (b : BankCtl) : BankCtl × Nat :=
  let k := 1 - b.ptr
  ({ b with ptr := k, emitted := b.emitted.set k (b.emit k + 1) }, bankCode k (b.emit k + 1))
/-- A use that captures the bank the pointer names (R232.2, R258.2). -/
def BankCtl.capture (b : BankCtl) : BankCtl × Nat :=
  let i := (b.ptr, b.emit b.ptr)
  ({ b with count := b.count.set i (b.count.get i 0 + 1) }, bankCode i.1 i.2)
/-- The in-flight count of a captured bank falls by 1. -/
def BankCtl.retire (b : BankCtl) (code : Nat) : BankCtl :=
  let i := (code % 2, code / 2)
  { b with count := b.count.set i (b.count.get i 0 - 1) }
/-- Finished loads beyond a count, taken in order. -/
def absorb (k : Nat) (early : List (Nat × Nat)) : Nat → Nat → Nat
  | 0, f => f
  | fuel + 1, f => if early.contains (k, f + 1) then absorb k early fuel (f + 1) else f
/-- A load has finished in its bank, or does not act on this cluster: it counts once every earlier one does. -/
def BankCtl.finish (b : BankCtl) (code : Nat) : BankCtl :=
  let k := code % 2
  let early := (k, code / 2) :: b.early
  let f := absorb k early early.length (b.fin k)
  { b with finished := b.finished.set k f, early := early.filter fun e => !(decide (e.1 = k) && decide (e.2 ≤ f)) }
/-- A captured bank still waits for a load that was emitted before the capture (R232.5, R258.4; DEDUCED, log
27). -/
def BankCtl.waits (b : BankCtl) (code : Nat) : Bool := decide (b.fin (code % 2) < code / 2)
/-- Uses that captured a load's target before the load was emitted are in flight (R232.3, R258.3). -/
def BankCtl.used (b : BankCtl) (code : Nat) : Bool :=
  b.count.any fun e => decide (e.1.1 = code % 2) && decide (e.1.2 < code / 2) && decide (e.2 ≠ 0)

/-- A word of type cb2 that uses the codebook (R258). -/
def usesCode (op : Nat) (x : LaneWord) : Bool := decide (op = 0x102) || ((decide (op = 0x308) || decide (op = 0x309)) && decide (x.ty6 = 14))

/-- The banks that a word captures on one member. -/
def captureOn (e : EWord) (c : Cluster) : Cluster × Option Nat :=
  let op := e.op
  let t := e.x.cN
  if op = 0x191 then
    let (b, k) := (c.curve.get t BankCtl.placed).aim
    ({ c with curve := c.curve.set t b }, some k)
  else if op = 0x190 then
    let (b, k) := (c.curve.get t BankCtl.placed).capture
    ({ c with curve := c.curve.set t b }, some k)
  else if op = 0x30B then
    let (b, k) := c.code.aim
    ({ c with code := b }, some k)
  else if usesCode op e.x then
    let (b, k) := c.code.capture
    ({ c with code := b }, some k)
  else (c, none)

/-- The banks captured on every member of a stream. -/
def captureAll (s : State) (fid cmask : Nat) (e : EWord) : State × EWord :=
  (setBits 16 cmask).foldl (init := (s, e)) fun (s, e) m =>
    let pid := s.pidOf fid m
    match captureOn e (s.clu pid) with
    | (c, some k) => (s.setClu pid c, { e with banks := e.banks.set m k })
    | (_, none) => (s, e)

/-- The entries of the vote queue that a thread has reserved and not removed (R243, R355). -/
def Thread.queued (x : Thread) : List VoteEnt := x.votes.filter fun v => !v.popped

/-- A vote entry reserved, or UNI's destination marked outstanding (R243, R320). -/
def reserve (s : State) (t : Tid) (n : Nat) (st : Stream) (e : EWord) : State :=
  if e.op = 0x201 then
    let v : VoteEnt := { str := n, seq := e.seq, op := e.x.mode, members := popCount 16 st.cmask, need := pairs st
                         ones := 0, zeros := 0, present := false, popped := false }
    s.modThr t fun x => { x with votes := x.votes ++ [v] }
  else if e.op = 0x207 then
    let p : Pend := .uni n e.seq e (pairs st) (pairs st) []
    s.modThr t fun x => { x with out := x.out ++ [⟨e.x.dN - 192, p⟩] }
  else s

/-- A lane word entering a stream, from its thread or from a play (R342, R346). -/
def enterWord (s : State) (t : Tid) (n : Nat) (e : EWord) (play : Bool) : State :=
  let st := strOf s t n
  let (s, e) := captureAll s t.fid st.cmask { e with seq := st.seq }
  let s := reserve s t n st e
  let first := st.openRun.isEmpty && st.playRun.isEmpty
  let born := if first then s.nextId else st.openBorn
  let s := { s with nextId := if first then s.nextId + 1 else s.nextId }
  modStr s t n fun st =>
    { st with seq := (st.seq + 1) % 2 ^ 32, openBorn := born
              openRun := if play then st.openRun else st.openRun ++ [e]
              playRun := if play then st.playRun ++ [e] else st.playRun }

/-- A trailer closes the open run, or the run that a play feeds (R40). -/
def closeRun (s : State) (t : Tid) (n : Nat) (w : BitVec 64) (play : Bool) : State :=
  modStr s t n fun st =>
    let ws := if play then st.playRun else st.openRun
    { st with nextRun := st.nextRun + 1, runs := st.runs ++ [⟨st.nextRun, ws, w, st.openBorn⟩]
              openRun := if play then st.openRun else [], playRun := if play then [] else st.playRun }

/-! ## LANE_WORD_EMIT -/

/-- The run structure of R43, as a word finds the open run of its stream. -/
def runCheck (st : Option Stream) (op : Nat) : Option Cause :=
  match st with
  | none => none
  | some st =>
    let n := st.openRun.length
    if op = 0x380 then (if n = 0 then some .run else none)
    else if 32 ≤ n then some .run
    else if n ≠ 0 && (decide (op = 0x318) || st.openRun.any fun e => decide (e.op = 0x318)) then some .run
    else none

/-- The doubleword after a word with T = 1 is a trailer (R43). -/
def trailerNext (s : State) (w : BitVec 64) : State × Option (Cause × Word64) :=
  if !w.getLsbD 10 || decide ((lOp w).toNat = 0x380) then (s, none)
  else
    let va := ((me s).pc + 8).toNat
    match fetchBytes s s.cur.fid (myPid s) va 8 with
    | (s, .error c) => (s, some (c, BitVec.ofNat 64 va))
    | (s, .ok bs) =>
      let v : BitVec 64 := BitVec.ofNat 64 (leNat bs)
      if lCls v = 3 ∧ lOp v = 0x380 then (s, none) else (s, some (.run, w))

/-- Words recorded into the open capture (R351). -/
def record (s : State) (w : BitVec 64) : State :=
  modMe s fun x => { x with capture := x.capture.map fun c => (c.1, c.2 ++ [w]) }

/-- The thread's own emission waits: the buffer is full (R321), or plays are queued on the stream, behind
which the word enters (R352; log 26). -/
def emitHeld (s : State) : Bool :=
  match curStream (me s) with
  | none => false
  | some (n, st) => !st.plays.isEmpty || bufferFull s s.cur n

/-- LANE_WORD_EMIT (R55): the checks in order, then the word enters the current stream; a retired word after its emulation
handler has run (R56, R434). -/
def execLaneWordEmit (w : BitVec 64) (s : State) : Out :=
  if emitHeld s then .next s
  else match formCheck (me s).role w with
  | some c => trap s c w
  | none =>
    let op := (lOp w).toNat
    let cur := curStream (me s)
    match runCheck (cur.map (·.2)) op, trailerNext s w with
    | some c, _ => trap s c w
    | none, (s, some (c, v)) => trap s c v
    | none, (s, none) =>
      match cur with
      | none => trap s .stream w
      | some (n, st) =>
        if op = 0x380 then .next (advance (record (closeRun s s.cur n w false) w) 8)
        else
          let e := withUniforms (fun r => ((me s).gr r).toNat) w (me s).yoke
          match argCheck s s.cur.fid st.cmask e with
          | some c => trap s c w
          | none =>
            if decide (op = 0x201) && decide (32 ≤ (me s).queued.length) then trap s .vqfull w
            else if isRetired op then afterStall s fun s => .next (advance (record (enterWord s s.cur n e false) w) 8)
            else .next (advance (record (enterWord s s.cur n e false) w) 8)

end Sys2Proof.Machine
end

