-- ==== Sys2Proof/Machine/Streams.lean ====
section
/-! DEFINITION. Streams, reels, the vote queue, UNI and the three masks, as a generator thread reaches them
(R342 to R361). -/

namespace Sys2Proof.Machine

/-! ## The three masks (R357) -/

/-- The value of a mask register. -/
def maskOf (s : State) (fid clu slot which : Nat) : Nat :=
  let g := s.grp fid clu slot
  if (s.flk fid).rcd.groups ≤ slot then 0
  else match which with
    | 0 => g.ex
    | 1 => g.park
    | _ => g.exit

/-- EXMASK written: a parked or exited lane is never restored (R358). -/
def setEx (s : State) (fid clu slot v : Nat) : State :=
  if (s.flk fid).rcd.groups ≤ slot then s
  else s.modGrp fid clu slot fun g =>
    { g with ex := (v % 2 ^ 32) &&& ((g.park ||| g.exit) ^^^ (2 ^ 32 - 1)) }

/-- The place of a mask word behind queued plays: how many of them are still to be fed, above this number (R352,
R358). -/
def playBase : Nat := 2 ^ 40

/-- Whether the words of a stream below a sequence number have issued on one (member, slot). -/
def pairIssued (s : State) (t : Tid) (n seq : Nat) (p : Nat × Nat) : Bool :=
  let st := strOf s t n
  let older (e : EWord) : Bool := decide ((seq + 2 ^ 32 - e.seq) % 2 ^ 32 < 2 ^ 31) && decide (e.seq ≠ seq)
  match restRuns st p with
  | [] => !(st.openRun.any older)
  | r :: rest => !((r.words.drop (posOf s t n p)).any older) && !(rest.any fun r => r.words.any older)
      && !(st.openRun.any older)

/-- The MASK.RD words of a thread that executed before a turn, and whose words have issued, take their value (R358). -/
def settleMaskRdUntil (s : State) (t : Tid) (k : Nat) : State :=
  let x := s.thr t
  let upd (o : OutReg) : OutReg :=
    match o.pend with
    | .maskRd which slot m j =>
      if decide (j < k) && (decide (m.seq ≤ playBase) || decide (playBase + 16 < m.seq)) && pairIssued s t m.str m.seq (t.clu, slot)
      then { o with pend := .value (BitVec.ofNat 64 (maskOf s t.fid t.clu slot which)) } else o
    | _ => o
  if x.out.any fun o => match o.pend with
      | .maskRd _ _ _ _ => true
      | _ => false
  then s.modThr t fun x => { x with out := x.out.map upd } else s

/-- Every MASK.RD of a thread whose words have issued takes its value. -/
def settleMaskRd (s : State) (t : Tid) : State := settleMaskRdUntil s t (s.tick + 1)

/-- The MASK.WR words of a stream that a (member, slot) has reached take effect, in order, each behind the MASK.RDs that came
before it; the moves of a REGROUP come before those behind it (R245, R358). -/
def applyMasks (s : State) (t : Tid) (n : Nat) (p : Nat × Nat) : State :=
  let st := strOf s t n
  let due (m : Nat × Nat × Nat × Nat) : Bool := decide (m.2.1 = p.1 * 16 + p.2) && decide (m.1 ≤ st.prog.get p 0)
  if !(st.masks.any due) || regroupPending s t.fid p.1 p.2 then s
  else modStr ((st.masks.filter due).foldl (fun s m => setEx (settleMaskRdUntil s t m.2.2.2) t.fid p.1 p.2 m.2.2.1) s) t n fun st =>
    { st with masks := st.masks.filter fun m => !due m }

/-- A place among the runs or the words of a stream, or behind the plays that are queued on it. -/
def behindPlays (st : Stream) (k : Nat) : Nat := if st.plays.isEmpty then k else playBase + st.plays.length

/-- One play fewer stands before a place; behind the last one it becomes what it is among the runs or the words. -/
def lessPlay (k now : Nat) : Nat := if k ≤ playBase ∨ playBase + 16 < k then k else if k = playBase + 1 then now else k - 1

/-- The head play of a stream has ended: the mask words behind it move up (R352, R358). -/
def playEnded (s : State) (t : Tid) (n : Nat) : State :=
  let st := strOf s t n
  let out (o : OutReg) : OutReg := match o.pend with
    | .maskRd a b m k => if m.str = n then { o with pend := .maskRd a b ⟨n, lessPlay m.seq st.seq⟩ k } else o
    | _ => o
  let s := s.modThr t fun x => { x with out := x.out.map out }
  let s := modStr s t n fun st =>
    { st with plays := st.plays.drop 1, masks := st.masks.map fun m => (lessPlay m.1 st.nextRun, m.2) }
  (setBits 16 st.cmask).foldl (init := s) fun s c => (setBits 16 st.gmask).foldl (init := s) fun s g => applyMasks s t n (c, g)

/-- A MASK.WR placed in a stream, on each member (R358). -/
def placeMask (s : State) (t : Tid) (n slot v : Nat) : State :=
  let st := strOf s t n
  let k := behindPlays st (st.nextRun + (if st.openRun.isEmpty then 0 else 1))
  let ms := setBits 16 st.cmask
  let s := modStr s t n fun st => { st with masks := st.masks ++ ms.map fun m => (k, m * 16 + slot, v, s.tick) }
  ms.foldl (fun s m => applyMasks s t n (m, slot)) s

/-- The slot operand of MASK.RD and MASK.WR: a slot that the current stream binds (R358). -/
def maskSlot (s : State) (a : Nat) : Option (Nat × Stream) :=
  match curStream (me s) with
  | none => none
  | some (n, st) => if decide (a < 16) && st.gmask.testBit a then some (n, st) else none

/-- MASK.RD (R358). -/
def execMaskRd (sb : Bool) (d a : GReg) (which : BitVec 2) (s : State) : Out :=
  match maskSlot s (rdN s a) with
  | none => trap s .strarg (wordOf (.maskRd sb d a which))
  | some (n, st) =>
    let s := outstanding s d.toNat (.maskRd which.toNat (rdN s a) ⟨n, behindPlays st st.seq⟩ s.tick)
    .next (advance (settleMaskRd s s.cur) 4)

/-- MASK.WR (R358). -/
def execMaskWr (sb : Bool) (a b : GReg) (s : State) : Out :=
  match maskSlot s (rdN s a) with
  | none => trap s .strarg (wordOf (.maskWr sb a b))
  | some (n, _) => .next (advance (placeMask s s.cur n (rdN s a) (rdN s b % 2 ^ 32)) 4)

/-! ## Bindings (R342 to R345) -/

/-- What the words of an earlier binding have still to do is kept under stream n + 4, with sequence numbers above those of
every binding before it (R312, R342). -/
def retireBinding (s : State) (t : Tid) (n : Nat) : State :=
  let old := strOf s t n
  let up (q : Nat) : Nat := old.bind * 2 ^ 32 + q
  let mine (u : Tid) (k : Nat) : Bool := decide (u = t) && decide (k = n)
  let lab (u : Tid) (k : Nat) : Nat := if mine u k then n + 4 else k
  let num (u : Tid) (k q : Nat) : Nat := if mine u k then up q else q
  let word (u : Tid) (k : Nat) (w : EWord) : EWord := { w with seq := num u k w.seq }
  let mk (m : Mark) : Mark := ⟨lab t m.str, num t m.str m.seq⟩
  let vote (v : VoteEnt) : VoteEnt := { v with str := lab t v.str, seq := num t v.str v.seq }
  let pend (p : Pend) : Pend := match p with
    | .vote k q => .vote (lab t k) (num t k q)
    | .uni k q w all need seen => .uni (lab t k) (num t k q) (word t k w) all need seen
    | .maskRd a b m k => .maskRd a b ⟨lab t m.str, m.seq⟩ k
    | p => p
  let op (o : MemOp) : MemOp := { o with str := o.str.map (lab o.tid), seq := num o.tid (o.str.getD 8) o.seq }
  let run (p : PipeRun) : PipeRun := { p with
    str := lab p.tid p.str, run := { p.run with words := p.run.words.map (word p.tid p.str) } }
  let load (l : BankLoad) : BankLoad := { l with src := l.src.map fun (u, k, q, off) => (u, lab u k, num u k q, off) }
  let fixClu (c : Cluster) : Cluster :=
    { c with
      pipes := c.pipes.mapVals fun _ p => run p
      cuts := c.cuts.map run
      code := { c.code with loading := c.code.loading.mapVals fun _ l => load l }
      cq := c.cq.map fun q => (q.1, { q.2 with ents := q.2.ents.map fun e => { e with str := lab e.tid e.str, word := word e.tid e.str e.word } })
      mq := c.mq.map fun e => { e with str := lab e.tid e.str, word := word e.tid e.str e.word }
      array := c.array.map fun e => { e with str := lab e.tid e.str, word := word e.tid e.str e.word }
      ta := { c.ta with ents := c.ta.ents.map fun e => { e with str := lab e.tid e.str, word := word e.tid e.str e.word } } }
  let park (r : ParkRec) : ParkRec := { r with
    str := lab r.tid r.str, first := num r.tid r.str r.first
    words := r.words.map fun w => (word r.tid r.str w.1, w.2) }
  let fixGrp (g : Group) : Group := { g with
    out := g.out.map fun o => { o with str := lab o.tid o.str, seq := num o.tid o.str o.seq }
    prec := g.prec.map park }
  let s := { s with
    ops := s.ops.map op, clusters := s.clusters.map fun c => (c.1, fixClu c.2), groups := s.groups.map fun g => (g.1, fixGrp g.2) }
  let s := modStr s t (n + 4) fun st =>
    { st with
      hor := old.hor.foldl (fun h e => h.set e.1 (e.2.join (h.get e.1 Horizon.zero))) st.hor
      acqs := st.acqs ++ old.acqs.map fun a => (a.1, up a.2.1, a.2.2) }
  s.modThr t fun x => { x with
    votes := x.votes.map vote
    out := x.out.map fun o => { o with pend := pend o.pend }
    deferred := x.deferred.map fun d => { d with marks := d.marks.map mk }
    wait := x.wait.map fun w => { w with marks := w.marks.map mk } }

/-- The cluster mask that STR.BIND takes: its own cluster where gb[15:0] is 0. -/
def bindMask (s : State) (b : Nat) : Nat := if b % 2 ^ 16 = 0 then 2 ^ s.cur.clu else b % 2 ^ 16

/-- STR.BIND's limits (R344). -/
def bindOk (s : State) (a b : Nat) : Bool :=
  let g := a % 2 ^ 16
  let c := bindMask s b
  decide (a < 2 ^ 16) && decide (b < 2 ^ 16) && decide (g ≠ 0) && decide (g < 2 ^ (myFlk s).rcd.groups)
    && c.testBit s.cur.clu && decide (popCount 16 c ≤ 8) && decide (c < 2 ^ s.size s.cur.fid)

/-- STR.BIND (R344). -/
def execStrBind (sb : Bool) (a b : GReg) (n : BitVec 2) (s : State) : Out :=
  let k := n.toNat
  let i := wordOf (.strBind sb a b n)
  if (strOf s s.cur k).gmask ≠ 0 then trap s .stream i
  else if !bindOk s (rdN s a) (rdN s b) then trap s .strarg i
  else
    let g := rdN s a
    let c := bindMask s (rdN s b)
    let s := retireBinding s s.cur k
    let s := modStr s s.cur k fun _ => { Stream.unbound with bind := s.nextId, gmask := g, cmask := c }
    let s := { s with nextId := s.nextId + 1 }
    let s := modMe s fun x => { x with current := x.current.or (some k) }
    .next (advance s 4)

/-- The current stream has an open run (R43). -/
def hasOpenRun (s : State) : Bool :=
  match curStream (me s) with
  | some (_, st) => !st.openRun.isEmpty
  | none => false

/-- STR.SEL (R344, R350). -/
def execStrSel (sb : Bool) (n : BitVec 2) (s : State) : Out :=
  let i := wordOf (.strSel sb n)
  if hasOpenRun s then trap s .run i
  else if (me s).capture.isSome then trap s .reelstate i
  else if (strOf s s.cur n.toNat).gmask = 0 then trap s .stream i
  else .next (advance (modMe s fun x => { x with current := some n.toNat }) 4)

/-- Every word of a stream has issued on every member and every play has finished (R344). -/
def drained (st : Stream) : Bool :=
  st.openRun.isEmpty && st.playRun.isEmpty && st.plays.isEmpty && (pairs st).all fun p => (restRuns st p).isEmpty

/-- STR.FREE (R344). -/
def execStrFree (sb : Bool) (n : BitVec 2) (s : State) : Out :=
  let k := n.toNat
  let i := wordOf (.strFree sb n)
  let st := strOf s s.cur k
  if (me s).current = some k ∧ !st.openRun.isEmpty then trap s .run i
  else if (me s).capture.isSome then trap s .reelstate i
  else if st.gmask = 0 then .next (advance s 4)
  else if !drained st then stall s ((me s).wait.getD ⟨s.now, [], none⟩)
  else
    let s := endWait (modStr s s.cur k fun st => { st with gmask := 0, cmask := 0 })
    .next (advance (modMe s fun x => { x with current := if x.current = some k then none else x.current }) 4)

/-! ## Reels (R349 to R353) -/

/-- The reel number of a reel word, or REELARG (R350, R390). -/
def reelArg (s : State) (a : GReg) : Option Nat :=
  if decide (1024 ≤ rdN s a) || decide ((myFlk s).rcd.reels = 0) then none else some (rdN s a)

/-- REEL.OPEN (R350, R351). -/
def execReelOpen (sb : Bool) (a : GReg) (s : State) : Out :=
  let i := wordOf (.reelOpen sb a)
  if hasOpenRun s then trap s .run i
  else match reelArg s a with
  | none => trap s .reelarg i
  | some n =>
    if (me s).capture.isSome then trap s .reelstate i
    else if (curStream (me s)).isNone then trap s .stream i
    else .next (advance (modMe s fun x => { x with capture := some (n, []) }) 4)

/-- REEL.SHUT (R351): a capture of more than 4096 words leaves the reel undefined and traps REELFULL at the
parcel after it; any other stalls until every reel cache has dropped its copy. -/
def execReelShut (sb : Bool) (s : State) : Out :=
  let i := wordOf (.reelShut sb)
  if hasOpenRun s then trap s .run i
  else match (me s).capture with
  | none => trap s .reelstate i
  | some (n, ws) =>
    let shut (s : State) : State := dropReels (modMe s fun x => { x with capture := none }) (myCtx s) fun k => decide (k = n)
    if 4096 < ws.length then .next (takeTrap (shut s) s.cur .reelfull i ((me s).pc + 4))
    else afterStall s fun s => .next (advance ((shut s).modCtx (myCtx s) fun c => { c with reels := c.reels.set n ws }) 4)

/-- REEL.DROP (R353): the thread stalls until every reel cache has dropped the reel. -/
def execReelDrop (sb : Bool) (a : GReg) (s : State) : Out :=
  if 1024 ≤ rdN s a then trap s .reelarg (wordOf (.reelDrop sb a))
  else afterStall s fun s => .next (advance (dropReels s (myCtx s) fun k => decide (k = rdN s a)) 4)

/-- The g registers that the holes of a reel name (R351). -/
def holes (ws : List (BitVec 64)) : List Nat :=
  (ws.flatMap fun w =>
    let x := laneFields w
    let (na, nb, nc) := uniShape (lOp w).toNat x
    fieldRegs x.aN na ++ fieldRegs x.bN nb ++ fieldRegs x.cN nc).dedup

/-- The value that a hole is bound to. -/
def bindOf (b : List (Nat × Word64)) (r : Nat) : Nat := ((b.find? fun e => decide (e.1 = r)).map (·.2.toNat)).getD 0

/-- The checks of R57 for one word of a reel. -/
def playCheck (s : State) (cur : Option Stream) (b : List (Nat × Word64)) (w : BitVec 64) : Option Cause :=
  let op := (lOp w).toNat
  if !roleOk (me s).role op then some .role
  else match cur with
    | none => some .stream
    | some st => if op = 0x380 then none else argCheck s s.cur.fid st.cmask (withUniforms (bindOf b) w (me s).yoke)

/-- A register that a hole of a reel names is outstanding: its play waits for it (R352). -/
def holesOwed (s : State) (ws : List (BitVec 64)) : Bool :=
  (me s).out.any fun o => decide (o.reg ≠ 0) && (holes ws).contains o.reg

/-- A REEL.PLAY that waits for an outstanding hole register (R352, R444). -/
def playHeld (s : State) : Instr → Bool
  | .reelPlay _ a => ((reelArg s a).bind fun n => (s.ctx (myCtx s)).reels.find n).any (holesOwed s)
  | _ => false

/-- REEL.PLAY (R352): the reel is checked word by word with the values its holes are bound to, and queued. -/
def execReelPlay (sb : Bool) (a : GReg) (s : State) : Out :=
  let i := wordOf (.reelPlay sb a)
  if hasOpenRun s then trap s .run i
  else match reelArg s a with
  | none => trap s .reelarg i
  | some n =>
    if (me s).capture.isSome then trap s .reelstate i
    else match (s.ctx (myCtx s)).reels.find n with
    | none => trap s .reelarg i
    | some ws =>
      let hs := holes ws
      let cur := curStream (me s)
      if holesOwed s ws then .next s
      else
        let b := hs.map fun r => (r, (me s).gr r)
        match ws.findSome? (playCheck s (cur.map (·.2)) b), cur with
        | some c, _ => trap s c i
        | none, none => trap s .stream i
        | none, some (k, st) =>
          if 4 ≤ st.plays.length then stall s ((me s).wait.getD ⟨s.now, [], none⟩)
          else
            let p : Play := ⟨n, ws, b, 0, (me s).yoke, false⟩
            let s := if ws.isEmpty then s else modStr s s.cur k fun st => { st with plays := st.plays ++ [p] }
            .next (advance (endWait s) 4)

/-- A play that stops before its next word: the fed part of its run is closed with the recorded trailer, and
the rest is discarded (R352). -/
def stopPlay (s : State) (t : Tid) (n : Nat) (p : Play) : State :=
  let s := if (strOf s t n).playRun.isEmpty then s
    else match (p.words.drop p.pos).find? fun w => decide ((lOp w).toNat = 0x380) with
    | some w => closeRun s t n w true
    | none => s
  playEnded s t n

/-- The 256-byte units that a reel takes in a reel cache (R349). -/
def reelUnits (ws : List (BitVec 64)) : Nat := ceilDiv (8 * ws.length) 256

/-- The reels that plays of a flock feed on a cluster. -/
def fedReels (s : State) (fid pid : Nat) : List Nat :=
  (s.threads.filter fun e => decide (e.1.fid = fid) && decide (s.pidOf fid e.1.clu = pid)).flatMap fun e =>
    e.2.streams.filterMap fun k => (k.2.plays.head?).bind fun p => if p.ready then some p.num else none

/-- The reels of a share, the least recently played first, that stay when they may take `room` units; those that are fed
stay. None where they take more. -/
def makeRoom (fed : Nat → Bool) : List ReelEnt → Nat → Option (List ReelEnt)
  | [], _ => some []
  | e :: es, room =>
    if (e :: es).foldl (fun acc x => acc + x.size) 0 ≤ room then some (e :: es)
    else if !fed e.num then makeRoom fed es room
    else if room < e.size then none
    else (makeRoom fed es (room - e.size)).map (e :: ·)

/-- The play at the head of a stream is looked up in the reel cache of its cluster: a miss loads the reel whole into the
flock's share where it is given room, else the play is fed from the store (R349). -/
def loadReel (s : State) (t : Tid) (n : Nat) (p : Play) : State :=
  let pid := s.pidOf t.fid t.clu
  let all := (s.clu pid).reels
  let (mine, others) := (all.filter fun e => decide (e.fid = t.fid), all.filter fun e => !decide (e.fid = t.fid))
  let share := 16 * (s.flk t.fid).rcd.reelShare
  let e : ReelEnt := ⟨t.fid, p.num, reelUnits p.words⟩
  let kept := if mine.any fun x => decide (x.num = p.num) then some (mine.filter fun x => !decide (x.num = p.num))
    else if share < e.size then none
    else makeRoom (fun k => (fedReels s t.fid pid).contains k) mine (share - e.size)
  let s := match kept with
    | some l => s.modClu pid fun c => { c with reels := others ++ l ++ [e] }
    | none => s
  modStr s t n fun st => { st with plays := { p with ready := true } :: st.plays.drop 1 }

/-- REEL_PLAY_FEED (R352): the head play of a stream feeds its next word, once its words are there; a full buffer pauses
it. One that is to stop feeds the run it is in to its end, past a full buffer too (R359; DESIGN CHOICE, log 132). -/
def execReelPlayFeed (fid clu t str : Nat) (s : State) : Out :=
  let tid : Tid := ⟨fid, clu, t⟩
  let st := strOf s tid str
  match st.plays with
  | [] => .next s
  | p :: _ =>
    let stop := (s.flk fid).preReq
    if !(s.flk fid).resident || (bufferFull s tid str && !(stop && !st.playRun.isEmpty)) || (stop && st.playRun.isEmpty) then .next s
    else if !p.ready then .next (loadReel s tid str p)
    else match p.words.drop p.pos with
    | [] => .next (playEnded s tid str)
    | w :: more =>
      let op := (lOp w).toNat
      let e := withUniforms (bindOf p.bind) w p.yoke
      let bad : Option (Cause × Word64) :=
        match handleWord s fid e with
        | some c => some (c, if c = .bargen then BitVec.ofNat 64 ((e.handle?).getD 0) else w)
        | none => if decide (op = 0x201) && decide (32 ≤ (s.thr tid).queued.length) then some (.vqfull, seqVal st.seq str) else none
      match bad with
      | some (c, v) => .next (raiseTrap (stopPlay s tid str p) tid c v 0)
      | none =>
        let s := if op = 0x380 then closeRun s tid str w true else enterWord s tid str e true
        if more.isEmpty then .next (playEnded s tid str)
        else .next (modStr s tid str fun st => { st with plays := { p with pos := p.pos + 1 } :: st.plays.drop 1 })

/-! ## Votes (R242, R243, R354, R355) -/

/-- The RESULT of an entry whose word has issued everywhere (R242). -/
def VoteEnt.result (v : VoteEnt) : Nat :=
  match v.op with
  | 0 => b2n (decide (v.ones ≠ 0))
  | 1 => b2n (decide (v.zeros = 0))
  | _ => v.ones

/-- An entry as VQ.POP delivers it (R354). -/
def VoteEnt.bits (v : VoteEnt) : Word64 :=
  BitVec.ofNat 64 (v.seq * 2 ^ 32 + v.str % 4 * 2 ^ 30 + v.op * 2 ^ 28 + v.members * 2 ^ 24 + v.result)

/-- The oldest entry that no VQ.POP has removed, removed. -/
def popHead : List VoteEnt → List VoteEnt
  | [] => []
  | v :: vs => if v.popped then v :: popHead vs else if v.present then vs else { v with popped := true } :: vs

/-- VQ.POP (R355, R320): the head entry leaves the queue; its register is outstanding until the entry is present. -/
def execVqPop (sb : Bool) (d : GReg) (s : State) : Out :=
  match (me s).queued with
  | [] => trap s .vqempty (wordOf (.vqPop sb d))
  | v :: _ =>
    let pc := (me s).pc
    let s := modMe s fun x => { x with votes := popHead x.votes, popAt := if v.present then none else x.popAt.or (some pc) }
    .next (advance (outstanding s d.toNat (if v.present then .value v.bits else .vote v.str v.seq)) 4)

/-- VQ.PEEK (R355). -/
def execVqPeek (_sb : Bool) (d : GReg) (s : State) : Out :=
  let v := match (me s).queued with
    | v :: _ => if v.present then v.bits else 0
    | [] => 0
  .next (advance (outstanding s d.toNat (.value v)) 4)

/-- The register that waits for a vote entry has its value on the way. -/
def deliverVote (v : VoteEnt) : List OutReg → List OutReg
  | [] => []
  | o :: os => if o.pend = .vote v.str v.seq then { o with pend := .value v.bits } :: os else o :: deliverVote v os

/-- The VQ.POPs that have issued since the one a thread waits at. -/
def Thread.pops (x : Thread) (at_ : Word64) : Nat := (x.pc - at_).toNat / 4

/-- The oldest VQ.POP that waits has its entry: the thread waits at the next one, if any. -/
def passPop (x : Thread) : Thread :=
  { x with popAt := x.popAt.bind fun a =>
      if (x.votes.filter (·.popped)).length = x.pops a then (if x.pops a = 1 then none else some (a + 4)) else some a }

/-- Entries un-popped from the end, `k` of those that a VQ.POP has removed. -/
def unpop : List VoteEnt → Nat → List VoteEnt × Nat
  | [], k => ([], k)
  | v :: vs, k =>
    let (vs, k) := unpop vs k
    if v.popped ∧ 0 < k then ({ v with popped := false } :: vs, k - 1) else (v :: vs, k)

/-- A thread that waits at a VQ.POP goes back to it (R355). -/
def undoPops (x : Thread) : Thread :=
  match x.popAt with
  | none => x
  | some a =>
    let votes := (unpop x.votes (x.pops a)).1
    let waits (o : OutReg) : Bool := votes.any fun v => v.popped && decide (o.pend = .vote v.str v.seq)
    let isVote (o : OutReg) : Bool := match o.pend with
      | .vote _ _ => true
      | _ => false
    { x with votes := votes, out := x.out.filter (fun o => !isVote o || waits o), pc := a, popAt := none }

/-- VOTE_ENTRY_PRESENT (R243): the oldest entry that is not present becomes so, once its word has issued on
every bound group of every member; a removed one goes to its register. -/
def execVoteEntryPresent (fid clu t : Nat) (s : State) : Out :=
  let tid : Tid := ⟨fid, clu, t⟩
  let vs := (s.thr tid).votes
  let old := vs.takeWhile (·.present)
  match vs.dropWhile (·.present) with
  | [] => .next s
  | v :: rest =>
    if !v.need.isEmpty then .next s
    else if v.popped then .next (s.modThr tid fun x => { passPop x with votes := old ++ rest, out := deliverVote v x.out })
    else .next (s.modThr tid fun x => { x with votes := old ++ { v with present := true } :: rest })

/-! ## Arrivals at generator registers (R320, R356) -/

/-- The first of a register's outstanding results that satisfies a test, taken out of the list. -/
def takeOut (p : OutReg → Bool) : List OutReg → Option (OutReg × List OutReg)
  | [] => none
  | o :: os => if p o then some (o, os) else (takeOut p os).map fun r => (r.1, o :: r.2)

/-- GENERATOR_RESULT_ARRIVAL (R320): an outstanding value arrives in its register. -/
def execGeneratorResultArrival (fid clu t reg : Nat) (s : State) : Out :=
  let tid : Tid := ⟨fid, clu, t⟩
  let x := s.thr tid
  match x.out.find? fun o => decide (o.reg = reg) with
  | none => .next s
  | some o =>
    match o.pend with
    | .value v => .next (s.modThr tid fun x => { x.setGr reg v with out := x.out.eraseP fun o => decide (o.reg = reg) })
    | .mem id => match findOp s id with
      | some op => if (s.flk fid).resident then .next (progressOp s op) else .next s
      | none => .next s
    | .maskRd _ _ _ _ => .next (settleMaskRd s tid)
    | .vote _ _ => .next s
    | .uni _ _ _ _ _ _ => .next s

/-- UNI's lanes in the order of members, slots and lanes (R356). -/
def uniOrder (seen : List (Nat × Nat × Nat × Nat)) : List (Nat × Nat × Nat × Nat) :=
  sortBy (fun e => e.1 * 1024 + e.2.1 * 32 + e.2.2.1) seen

/-- TVAL of UNIDIFF (R356): none where every lane agrees with the reference. -/
def uniDiff (seen : List (Nat × Nat × Nat × Nat)) : Option Nat :=
  match uniOrder seen with
  | [] => none
  | (rm, rs, rl, rv) :: l =>
    let all := (rm, rs, rl, rv) :: l
    match l.find? fun e => decide (e.2.2.2 ≠ rv) with
    | none => none
    | some (m, sl, _, _) =>
      let lanes := (all.filter fun e => decide (e.1 = m) && decide (e.2.1 = sl) && decide (e.2.2.2 ≠ rv)).foldl
        (fun acc e => acc ||| 2 ^ e.2.2.1) 0
      some (lanes + sl * 2 ^ 32 + m * 2 ^ 36)

/-- UNI_RESULT_ARRIVAL (R356). -/
def execUniResultArrival (fid clu t reg : Nat) (s : State) : Out :=
  let tid : Tid := ⟨fid, clu, t⟩
  let ready (o : OutReg) : Bool := decide (o.reg = reg) && (match o.pend with
    | .uni _ _ _ _ need _ => need.isEmpty
    | _ => false)
  match takeOut ready (s.thr tid).out with
  | none => .next s
  | some (o, rest) =>
    match o.pend with
    | .uni _ _ _ _ _ seen =>
      let s := s.modThr tid fun x => { x with out := rest }
      match uniDiff seen with
      | some v => .next (raiseTrap s tid .unidiff (BitVec.ofNat 64 v) 0)
      | none =>
        let v := match seen with
          | [] => 0
          | e :: _ => e.2.2.2
        .next (s.modThr tid fun x => x.setGr reg (BitVec.ofNat 64 v))
    | _ => .next s

end Sys2Proof.Machine
end

