-- ==== Sys2Proof/Machine/Operands.lean ====
section
/-! DEFINITION. Lane operands: what a word reads and writes in the group it issues on (R36 to R39, R44, R173,
R196 to R200), predicates and the guard (R38), and elements (R200). -/

namespace Sys2Proof.Machine

/-! ## The group in focus -/

def laneTid (s : State) : Tid := s.lane.tid
/-- The member on which the word in focus issues. -/
def laneMember (s : State) : Nat := (s.flk s.lane.tid.fid).clus.idxOf s.lane.pid
def laneGrp (s : State) : Group := s.grp s.lane.tid.fid (laneMember s) s.lane.slot
def modLaneGrp (s : State) (f : Group → Group) : State := s.modGrp s.lane.tid.fid (laneMember s) s.lane.slot f
/-- The run on the pipe in focus. -/
def laneRun (s : State) : Option PipeRun := (s.clu s.lane.pid).pipes.find s.lane.pipe
def modLaneRun (s : State) (f : PipeRun → PipeRun) : State :=
  s.modClu s.lane.pid fun c => { c with pipes := match c.pipes.find s.lane.pipe with
    | some p => c.pipes.set s.lane.pipe (f p)
    | none => c.pipes }

/-- The physical lane-group slot of a flock slot (R397). -/
def physSlot (s : State) (fid m slot : Nat) : Nat := ((s.flk fid).slots.getD m []).getD slot 0

/-! ## Reading (R39, R44) -/

/-- The writes to a register or predicate of the group in focus, newest first. -/
def writesTo (s : State) (code : Nat) : List FixWrite :=
  (((laneGrp s).tail ++ ((laneRun s).map (·.fix)).getD []).filter fun f => decide (f.code = code)).reverse

/-- The newest of them that has not landed yet. -/
def inFlight (s : State) (code : Nat) : Option FixWrite := (writesTo s code).find? fun f => decide (s.now < f.lands)

/-- What a lane reads of a register, from its writes newest first: a landed one gives the new value; of one in flight
the lane reads the new value or what it replaces, which an earlier one in flight may leave open in turn (R39, R201). -/
def laneReads (s : State) (code lane : Nat) (val : Word32) (old : FixWrite → Word32) : List FixWrite → Word32
  | [] => val
  | f :: rest =>
    if !f.mask.testBit lane then laneReads s code lane val old rest
    else if s.now < f.lands then
      (if Config.freeBit s.tick ((code * 32 + lane) * 64 + rest.length) then val else laneReads s code lane (old f) old rest)
    else val

/-- A run temporary: a lane that no word of the run has written reads as an undetermined value (R44). -/
def tempRow (s : State) (k : Nat) : Row :=
  let w := ((laneRun s).map (·.w)).getD []
  (List.range 32).map fun l => ((w.getD k []).getD l none).getD (Config.freeWord s.tick (k * 32 + l))

/-- A v or w register of the group, as written so far. -/
def rowNow (s : State) (code : Nat) : Row := if code < 128 then (laneGrp s).row code else tempRow s (code - 128)

/-- A register as a word reads it: with an undersized stall count each lane reads the old or the new value
(R39). -/
def regRow (s : State) (code : Nat) : Row :=
  match inFlight s code with
  | none => rowNow s code
  | some _ =>
    let new := rowNow s code
    (List.range 32).map fun l => laneReads s code l (new.getD l 0) (fun f => f.old.getD l 0) (writesTo s code)

/-- Register `k` of an operand: part of a uniform value, or a register of the span. -/
def srcRow (s : State) (code : Nat) (u : Uniform) (k : Nat) : Row :=
  if 192 ≤ code then List.replicate 32 (BitVec.ofNat 32 (u.toNat / 2 ^ (32 * k))) else regRow s (code + k)

/-- An operand of `n` registers in each lane, as one number. -/
def srcNat (s : State) (code : Nat) (u : Uniform) : Nat → List Nat
  | 0 => List.replicate 32 0
  | n + 1 => List.zipWith (fun a (b : Word32) => a + b.toNat * 2 ^ (32 * n)) (srcNat s code u n) (srcRow s code u n)

def srcA (s : State) (x : LaneWord) (n : Nat) : List Nat := srcNat s x.aN s.lane.word.ua n
def srcB (s : State) (x : LaneWord) (n : Nat) : List Nat := srcNat s x.bN s.lane.word.ub n
def srcC (s : State) (x : LaneWord) (n : Nat) : List Nat := srcNat s x.cN s.lane.word.uc n
/-- D read as a source (ST, PACK, atomics). -/
def srcD (s : State) (x : LaneWord) (n : Nat) : List Nat := srcNat s x.dN 0 n

/-- A predicate of the group: bit l for lane l. -/
def predNow (s : State) (k : Nat) : Nat := (laneGrp s).p.get k 0
def predMask (s : State) (k : Nat) : Nat :=
  match inFlight s (256 + k) with
  | none => predNow s k
  | some _ =>
    let bit (m l : Nat) : Word32 := BitVec.ofNat 32 (b2n (m.testBit l))
    (List.range 32).foldl (fun acc l => acc + 2 ^ l *
      (laneReads s (256 + k) l (bit (predNow s k) l) (fun f => bit (f.old.getD 0 0).toNat l) (writesTo s (256 + k))).toNat) 0

/-! ## The guard (R38) -/

def allLanes : Nat := 2 ^ 32 - 1
/-- Lanes whose guard holds. -/
def guardMask (s : State) (x : LaneWord) : Nat :=
  if x.sel.toNat = 12 then allLanes
  else if x.neg then predMask s x.sel.toNat ^^^ allLanes else predMask s x.sel.toNat
/-- EXMASK, or the lanes of a replay (R426). -/
def baseMask (s : State) : Nat :=
  if s.lane.replay then s.lane.act
  else match (laneGrp s).exWas with
    | some (t0, old) => if sameCycle s s.lane.pid t0 then old &&& (((laneGrp s).park ||| (laneGrp s).exit) ^^^ allLanes) else (laneGrp s).ex
    | none => (laneGrp s).ex
/-- active(group) (R38). -/
def activeMask (s : State) (x : LaneWord) : Nat := baseMask s &&& guardMask s x

/-! ## Writing (R39, R201) -/

/-- A fixed-latency write to some lanes, in flight for `lat` cycles. -/
def noteFix (s : State) (code mask lat : Nat) (old : Row) : State :=
  modLaneRun s fun p => { p with fix := p.fix ++ [⟨code, mask, cyclesAhead s s.lane.pid lat, old, s.lane.word.seq⟩] }

/-- One lane of a run temporary written. -/
def setTemp (w : List (List (Option Word32))) (k l : Nat) (v : Word32) : List (List (Option Word32)) :=
  let w := w ++ List.replicate (8 - w.length) []
  let row := w.getD k []
  setAt w k (setAt (row ++ List.replicate (32 - row.length) none) l (some v))

/-- The lanes of a mask of one v or w register written. -/
def writeRow (s : State) (code mask : Nat) (vals : Row) : State :=
  if code < 128 then modLaneGrp s fun g => (setBits 32 mask).foldl (fun g l => g.setLane code l (vals.getD l 0)) g
  else modLaneRun s fun p =>
    { p with w := (setBits 32 mask).foldl (fun w l => setTemp w (code - 128) l (vals.getD l 0)) p.w }

/-- A destination of `n` registers written in the lanes of a mask, landing after `lat` cycles. -/
def putDest (s : State) (code n lat mask : Nat) (vals : List Nat) : State :=
  if mask = 0 then s
  else (List.range n).foldl (init := s) fun s k =>
    let old := rowNow s (code + k)
    let s := writeRow s (code + k) mask (vals.map fun v => BitVec.ofNat 32 (v / 2 ^ (32 * k)))
    noteFix s (code + k) mask lat old

/-- A predicate written in the lanes of a mask. -/
def putPred (s : State) (k lat mask new : Nat) : State :=
  if mask = 0 then s
  else
    let old := predNow s k
    let v := (old &&& (mask ^^^ allLanes)) ||| (new &&& mask)
    noteFix (modLaneGrp s fun g => { g with p := g.p.set k v }) (256 + k) mask lat [BitVec.ofNat 32 old]

/-! ## Elements (R173, R200) -/

/-- Element `j` of width `w` of a number. -/
def elemAt (w x j : Nat) : Nat := x / 2 ^ (w * j) % 2 ^ w
/-- Elements side by side. -/
def joinElems (w : Nat) : List Nat → Nat
  | [] => 0
  | e :: es => e % 2 ^ w + 2 ^ w * joinElems w es
/-- Elements of an operand of a type: all of them where packed, else the low one. -/
def elemCount (t : Nat) (packed : Bool) : Nat := if packed then 32 / tyWidth t else 1
/-- A result put into D: packed elements, or one extended to 32 bits (R200). -/
def putElems (t : Nat) (packed : Bool) (es : List Nat) : Nat :=
  if packed then joinElems (tyWidth t) es
  else
    let e := es.getD 0 0
    if tyWidth t < 32 && isIntTy t && isSigned t then truncNat (sextInt e (tyWidth t)) 32 else e

/-- One lane of an element-wise operation on three operands. -/
def mapElems (t : Nat) (packed : Bool) (f : Nat → Nat → Nat → Nat) (a b c : Nat) : Nat :=
  let w := tyWidth t
  putElems t packed ((List.range (elemCount t packed)).map fun j => f (elemAt w a j) (elemAt w b j) (elemAt w c j))

/-- The same with events. -/
def mapElemsEv (t : Nat) (packed : Bool) (f : Nat → Nat → Nat → Nat × Ev) (a b c : Nat) : Nat × Ev :=
  let w := tyWidth t
  let rs := (List.range (elemCount t packed)).map fun j => f (elemAt w a j) (elemAt w b j) (elemAt w c j)
  (putElems t packed (rs.map (·.1)), rs.foldl (fun e r => e.or r.2) Ev.none)

/-- Three lists combined lane by lane. -/
def zip3 {α β γ δ : Type} (f : α → β → γ → δ) : List α → List β → List γ → List δ
  | a :: as, b :: bs, c :: cs => f a b c :: zip3 f as bs cs
  | _, _, _ => []

/-- Events of the active lanes of a group. -/
def eventsOf (mask : Nat) (rs : List (Nat × Ev)) : Ev :=
  (setBits 32 mask).foldl (fun e l => match rs[l]? with
    | some r => e.or r.2
    | none => e) Ev.none

end Sys2Proof.Machine
end

