-- ==== Sys2Proof/Machine/Issue.lean ====
section
/-! DEFINITION. The issue of a lane word: payment (R202, R409, R410, R413), the end of a word and of a run (R17,
R40, R198, R358, R424), once-per-cluster words (R483), event records (R195, R433). -/

namespace Sys2Proof.Machine

/-! ## Paying (R409, R410) -/

/-- The debit of a price on a cluster. -/
def debitOf (s : State) (pid price : Nat) : Nat := ceilDiv (price * classEighths (s.quad (pid / 4)).f) 8

def modPurse (s : State) (pid : Nat) (f : Purse → Purse) : State := s.modClu pid fun c => { c with purse := f c.purse }

/-- The start (ps) of the present arithmetic cycle of a cluster. -/
def cycleStart (s : State) (pid : Nat) : Nat :=
  let f := cluMHz s pid
  s.now * f / 1000000 * 1000000 / f

/-- The windows of 64 arithmetic cycles that have ended are closed, and the present one is open: windows lie on the edges of
cycles (R413). -/
def rollSpend (s : State) (pid : Nat) : State :=
  let p := (s.clu pid).purse
  let f := cluMHz s pid
  let first := p.windowStart * f / 1000000
  let n := (s.now * f / 1000000 - first) / 64
  let after (x : Nat) : Nat := max 2560 (x + 1024)
  if n = 0 then s
  else modPurse s pid fun p => { p with
    lastSpend := if n = 1 then p.spend else 0
    lastLimit := if n = 1 then p.limit else if n = 2 then after p.spend else 2560
    limit := if n = 1 then after p.spend else 2560
    spend := 0
    windowStart := ceilDiv ((first + 64 * n) * 1000000) f }

/-- Tokens that the present arithmetic cycle may spend: a credit counts from the first cycle that begins after the ring
cycle that made it (R410). -/
def spendable (s : State) (pid : Nat) (p : Purse) : Nat :=
  let f := cluMHz s pid
  let c := s.now * f / 1000000
  p.tokens - (p.fresh.filter fun e => decide (c * 2700 < (e.1 + 1) * f)).foldl (fun acc e => acc + e.2) 0

/-- A chunk of a copy queue, and a pipe, as payers: queues 0 to 3 with their chunks ascending, then the pipes (R410). -/
def copyWho (q k : Nat) : Nat := 2 + 2 ^ 32 * q + k % 2 ^ 32
def pipeWho (p : Nat) : Nat := 2 ^ 40 + p

/-- The order in which a settlement takes its payers (R410). -/
def payerFirst (age who age' who' : Nat) : Bool := decide (age < age') || (decide (age = age') && decide (who < who'))

/-- The age of a payer: the cycle in which it first asked. -/
def ageOf (ps : List Payer) (who now : Nat) : Nat := ((ps.find? fun p => decide (p.who = who)).map (·.age)).getD now

/-- The settlement of the denied payers that come before one: what it leaves of the purse, the window's spend, and what is
reserved. -/
def settleBefore (limit : Nat) (ps : List Payer) (tokens spend : Nat) : Nat × Nat × Nat :=
  ps.foldl (init := (tokens, spend, 0)) fun (t, u, r) q =>
    if q.debit + r ≤ t ∧ u + q.debit ≤ limit then (t - q.debit, u + q.debit, r) else (t, u, r + q.debit)

/-- The denied payers that a settlement takes before one, in its order. -/
def payersBefore (ps : List Payer) (who age : Nat) : List Payer :=
  let before := ps.filter fun q => decide (q.who ≠ who) && payerFirst q.age q.who age who
  before.foldl (init := []) fun l q =>
    (l.filter fun x => payerFirst x.age x.who q.age q.who) ++ q :: l.filter fun x => !payerFirst x.age x.who q.age q.who

/-- A payer that first asks in this cycle, after the cycle's pass has served one that comes after it: it asks too late to
pay in this cycle. -/
def tooLate (p : Purse) (cycle who age : Nat) : Bool :=
  decide (age = cycle) && p.pass.any fun k => decide (k.1 = cycle) && payerFirst age who k.2.1 k.2.2

/-- The pass has served a payer. -/
def servePass (p : Purse) (cycle who age : Nat) : Purse :=
  let later := p.pass.any fun k => decide (k.1 = cycle) && payerFirst age who k.2.1 k.2.2
  { p with pass := if later then p.pass else some (cycle, age, who) }

/-- A payer that asks and is denied: it keeps its age. -/
def deny (s : State) (pid who d : Nat) : State :=
  modPurse s pid fun p => { p with
    payers := (p.payers.filter fun q => !decide (q.who = who)) ++ [⟨who, d, ageOf p.payers who (cycleStart s pid)⟩] }

/-- PAYMENT_SETTLEMENT (R410) for one payer: it pays, or it is denied and keeps its age. A cut cluster denies
every payer (R421); a price of 0 is paid at once. -/
def pay (s : State) (pid who price : Nat) : State × Bool :=
  if price = 0 then (s, true)
  else
    let s := rollSpend s pid
    let p := (s.clu pid).purse
    let d := debitOf s pid price
    let cycle := cycleStart s pid
    let age := ageOf p.payers who cycle
    let (t, u, r) := settleBefore p.limit (payersBefore p.payers who age) (spendable s pid p) p.spend
    if tooLate p cycle who age then (deny s pid who d, false)
    else
      let s := modPurse s pid fun p => servePass p cycle who age
      if p.cut.isNone && decide (d + r ≤ t) && decide (u + d ≤ p.limit) then
        (modPurse s pid fun p => { p with
          tokens := p.tokens - d
          spend := p.spend + d
          payers := p.payers.filter fun q => !decide (q.who = who) }, true)
      else (deny s pid who d, false)

/-- The price of a lane word on its group: weight × ⌈active lanes ÷ 8⌉ (R202). -/
def lanePrice (weight act : Nat) : Nat := weight * ceilDiv (popCount 32 act) 8
def payLane (s : State) (weight act : Nat) : State × Bool :=
  pay s s.lane.pid (pipeWho s.lane.pipe) (lanePrice weight act)

/-- A word that cannot issue yet keeps its pipe (R17). -/
def holdWord (s : State) : Out := .next { s with lane := { s.lane with held := true } }

/-! ## The end of a run -/

/-- The member key under which a stream remembers that a word was refused on some member (R347). -/
def refusedKey : Nat := 255

/-- Runs that every bound group has finished leave the stream (R346), and what was kept of their words. -/
def pruneRuns (st : Stream) : Stream :=
  let runs := st.runs.filter fun r => (pairs st).any fun p => decide (st.prog.get p 0 ≤ r.idx)
  { st with
    runs := runs
    checkStops := st.checkStops.filter fun k => runs.any fun r => decide (r.idx = k)
    cissue := st.cissue.filter fun e => decide (e.1.1 ≠ refusedKey) || runs.any fun r => r.words.any fun w => decide (w.seq = e.1.2) }

/-- LANEFAULT of a run that has ended on every bound slot of every member (R424). -/
def laneFaultDue (s : State) (t : Tid) (n idx : Nat) : State :=
  let st := strOf s t n
  match st.parked.find? fun e => decide (e.1 = idx) with
  | none => s
  | some (_, va, after) =>
    if (pairs st).all fun p => decide (idx < st.prog.get p 0) then
      raiseTrap (modStr s t n fun st => { st with parked := st.parked.filter fun e => !decide (e.1 = idx) }) t .lanefault
        (BitVec.ofNat 64 va) after
    else s

/-- A replay run that has ended: the record stays until UNPARK, and a lane that faulted again gives
LANEFAULT (R426). -/
def endReplay (s : State) (p : PipeRun) : State :=
  let s := modLaneGrp s fun g => { g with prec := g.prec.map fun r => { r with replaying := false, queued := r.queued - 1 } }
  match p.faultRec with
  | none => s
  | some (va, after) => raiseTrap s p.tid .lanefault (BitVec.ofNat 64 va) after

/-- The run in focus ends on its pipe (R17, R40, R198). -/
def endRun (s : State) (p : PipeRun) : State :=
  let last := p.fix.foldl (fun acc f => max acc f.lands) 0
  let s := s.modClu s.lane.pid fun c => { c with pipes := c.pipes.erase s.lane.pipe }
  let s := modLaneGrp s fun g => { g with fixEnd := max g.fixEnd last, tail := p.fix.filter fun f => decide (s.now < f.lands) }
  if p.replay then endReplay s p
  else
    let pr := (laneMember s, p.slot)
    let s := modStr s p.tid p.str fun st => { st with prog := st.prog.set pr (p.run.idx + 1) }
    let s := applyMasks s p.tid p.str pr
    let s := laneFaultDue s p.tid p.str p.run.idx
    modStr s p.tid p.str pruneRuns

/-- A host-window read of the run in focus on this group is still out: an error would park its lane, so the
run does not end (R428; DEDUCED, log 29). -/
def hostOwed (s : State) : Bool :=
  s.ops.any fun o => decide (o.tid = s.lane.tid) && decide (o.str = some s.lane.str) && decide (o.pid = s.lane.pid)
    && decide (o.slot = s.lane.slot) && o.deed.reads && o.made.isNone && o.onHost

/-- The run in focus ends once every word has issued. -/
def tryEnd (s : State) : State :=
  match laneRun s with
  | some p => if decide (p.run.words.length ≤ p.pos) && !hostOwed s then endRun s p else s
  | none => s

/-- The park record of the group takes each word that issues after its first (R424). -/
def recordPark (s : State) (act : Nat) (acted : Bool) : State :=
  if s.lane.replay then s
  else modLaneGrp s fun g => { g with prec := g.prec.map fun r => { r with words := r.words ++ [(s.lane.word, act, acted)] } }

/-- The word in focus has issued with an active set: the next one issues no earlier than 1 + stall cycles
later (R39), the pipe issues once in a cycle (R14), and after the last word the run ends. Issue is progress (R383). -/
def issued (s : State) (x : LaneWord) (act : Nat) (acted : Bool) : State :=
  let next := cyclesAhead s s.lane.pid (1 + x.stall.toNat)
  let s := modLaneRun s fun p =>
    { p with pos := p.pos + 1, ready := next, acts := p.acts ++ [(act, acted)] }
  let s := s.modClu s.lane.pid fun c => { c with pipeNext := c.pipeNext.set s.lane.pipe (cyclesAhead s s.lane.pid 1) }
  let s := recordPark s act acted
  let s := progress s (s.ctxOf s.lane.tid)
  settleMaskRd (tryEnd s) s.lane.tid

/-! ## Free and priced words -/

/-- A free word (R202): it issues on its group with its active set. -/
def freeWordAct (x : LaneWord) (body : State → Nat → State) (s : State) : Out :=
  let act := activeMask s x
  .next (issued (body s act) x act true)

/-- A word with a class weight: it pays per bound group at its issue (R202). -/
def pricedWord (weight : Nat) (x : LaneWord) (body : State → Nat → State) (s : State) : Out :=
  let act := activeMask s x
  match payLane s weight act with
  | (s, false) => holdWord s
  | (s, true) => .next (issued (body s act) x act true)

/-- The sequence number of the first word of the run in focus (R433). -/
def firstSeq (s : State) : Nat :=
  if s.lane.replay then ((laneGrp s).prec.map (·.first)).getD s.lane.word.seq
  else (((laneRun s).bind fun p => p.run.words.head?).map (·.seq)).getD s.lane.word.seq

/-- The record of a lane word's events on its group (R195, R433). -/
def aelLane (s : State) (e : Ev) : State :=
  aelRecord s (s.ctxOf s.lane.tid) s.lane.pid e 0 (laneMember s) s.lane.slot s.lane.tid.t (s.lane.str % 4) (firstSeq s)

/-! ## Variable-latency destinations (R42) -/

/-- The entries of a trailer. -/
def trlEntries (w : BitVec 64) : List Nat :=
  let x := laneFields w
  let es := [x.dN, x.aN, x.bN, x.cN]
  (List.range 4).filterMap fun k => if x.m.testBit k then es[k]? else none

/-- A destination that waits for a variable-latency result, where some lane is active. -/
def noteOut (s : State) (reg span lanes : Nat) : State :=
  if lanes = 0 then s
  else
    let named := match laneRun s with
      | some p => (trlEntries p.run.trl).contains reg
      | none => false
    modLaneGrp s fun g =>
      { g with out := g.out ++ [⟨reg, span, lanes, s.lane.tid, s.lane.str, s.lane.word.seq, named⟩] }

/-! ## Words that act once per cluster (R483) -/

/-- What the groups of this member have found of the word in focus so far. -/
def cissueOf (s : State) : CIssue :=
  ((strOf s s.lane.tid s.lane.str).cissue.get (laneMember s, s.lane.word.seq) default)

/-- What they will have found once this group issues it with an active set; `full` is the full-mask test. -/
def cissueNext (s : State) (act : Nat) : CIssue :=
  let st := strOf s s.lane.tid s.lane.str
  let c := cissueOf s
  let first := decide (c.slots = 0)
  { slots := c.slots ||| 2 ^ s.lane.slot, active := c.active || decide (act ≠ 0)
    full := (first || c.full) && decide (baseMask s = allLanes)
    done := decide ((c.slots ||| 2 ^ s.lane.slot) = st.gmask), inputs := c.inputs, acq := c.acq
    masks := c.masks ++ [(s.lane.slot, act)] }

def setCissue (s : State) (c : CIssue) : State :=
  modStr s s.lane.tid s.lane.str fun st => { st with cissue := st.cissue.set (laneMember s, s.lane.word.seq) c }
def dropCissue (s : State) : State :=
  modStr s s.lane.tid s.lane.str fun st => { st with cissue := st.cissue.erase (laneMember s, s.lane.word.seq) }

/-- The runs on the pipes of this member, and its park records, note that the word in focus has acted (R426). -/
def markActed (s : State) : State :=
  let st := strOf s s.lane.tid s.lane.str
  let noted (p : PipeRun) : PipeRun :=
    if p.tid = s.lane.tid ∧ p.str = s.lane.str ∧ !p.replay then
      { p with acts := (p.acts.zip (p.run.words.map (·.seq))).map fun a => if a.2 = s.lane.word.seq then (a.1.1, true) else a.1 } else p
  let s := s.modClu s.lane.pid fun c => { c with pipes := c.pipes.mapVals fun _ p => noted p }
  let mark (w : EWord × Nat × Bool) : EWord × Nat × Bool :=
    if w.1.seq = s.lane.word.seq then (w.1, w.2.1, true) else w
  (setBits 16 st.gmask).foldl (init := s) fun s sl =>
    s.modGrp s.lane.tid.fid (laneMember s) sl fun g => { g with prec := g.prec.map fun r =>
      if r.tid = s.lane.tid ∧ r.str = s.lane.str then { r with words := r.words.map mark } else r }

/-- A word that acts once per cluster: an earlier group only records its masks; at the cluster issue the
action is tried, and the word is held where it cannot be made yet. A replay makes the action that the
first issue did not make (R426). -/
def onceWord (x : LaneWord) (act1 : State → CIssue → State × Bool) (s : State) : Out :=
  let act := activeMask s x
  let c := if s.lane.replay
    then { slots := 2 ^ s.lane.slot, active := decide (act ≠ 0), full := false, done := true, inputs := [], masks := [(s.lane.slot, act)], acq := none }
    else cissueNext s act
  if !c.done then .next (issued (setCissue s c) x act false)
  else match act1 s c with
  | (s, true) =>
    let s := if c.active then markActed s else s
    .next (issued (if s.lane.replay then s else dropCissue s) x act c.active)
  | (s, false) => holdWord s

/-- A boundary trap for the word in focus, raised once however many members find its cause (R245, R347). -/
def raiseOnce (s : State) (cause : Cause) : State :=
  let st := strOf s s.lane.tid s.lane.str
  let k := (refusedKey, s.lane.word.seq)
  if (st.cissue.find k).isSome then s
  else raiseTrap (modStr s s.lane.tid s.lane.str fun st => { st with cissue := st.cissue.set k default }) s.lane.tid cause
    (seqVal s.lane.word.seq (s.lane.str % 4)) 0

/-- A full-mask word refused on this member (R347). -/
def refuseWord (s : State) : State := raiseOnce s .mask

end Sys2Proof.Machine
end

