-- ==== Sys2Proof/Machine/LaneInt.lean ====
section
/-! DEFINITION. The integer lane words (R204 to R210). All are free words of fixed latency (R201, R202). -/

namespace Sys2Proof.Machine

/-- Latency of an integer word: 3 on 64-bit types, else 2 (R201). -/
def intLat (t : Nat) : Nat := if tyWidth t = 64 then 3 else 2
/-- Latency of a multiply: 6 on 64-bit types, else 4 (R201). -/
def mulLat (t : Nat) : Nat := if tyWidth t = 64 then 6 else 4

/-- One lane of an element-wise integer operation whose exact result is reduced to the type (R205). -/
def intLane (x : LaneWord) (op : Int → Int → Int → Int) (a b c : Nat) : Nat :=
  let t := x.ty
  mapElems t x.pk0 (fun a b c => narrow x.sat0 (isSigned t) (tyWidth t) (op (intVal t a) (intVal t b) (intVal t c))) a b c

/-- An element-wise word of up to three sources. -/
def elemWord (x : LaneWord) (lat : Nat) (f : Nat → Nat → Nat → Nat) : State → Out :=
  let n := tySpan x.ty
  freeWordAct x fun s act =>
    putDest s x.dN n lat act (zip3 f (srcA s x n) (srcB s x n) (srcC s x n))

/-- An exact integer operation of the type. -/
def intWord (x : LaneWord) (lat : Nat) (op : Int → Int → Int → Int) : State → Out := elemWord x lat (intLane x op)
/-- An operation on elements as bit strings. -/
def bitWord (x : LaneWord) (lat : Nat) (op : Nat → Nat → Nat) : State → Out :=
  elemWord x lat (mapElems x.ty x.pk0 fun a b _ => op a b % 2 ^ tyWidth x.ty)

def execIadd (x : LaneWord) (s : State) : Out := intWord x (intLat x.ty) (fun a b _ => a + b) s
def execIsub (x : LaneWord) (s : State) : Out := intWord x (intLat x.ty) (fun a b _ => a - b) s
def execImul (x : LaneWord) (s : State) : Out := intWord x (mulLat x.ty) (fun a b _ => a * b) s
/-- IMULH (R205): the high half of the product, rounded down. -/
def execImulh (x : LaneWord) (s : State) : Out :=
  intWord x (mulLat x.ty) (fun a b _ => (a * b) / ((2 ^ tyWidth x.ty : Nat) : Int)) s
def execImad (x : LaneWord) (s : State) : Out := intWord x (mulLat x.ty) (fun a b c => a * b + c) s
def execImin (x : LaneWord) (s : State) : Out := intWord x (intLat x.ty) (fun a b _ => min a b) s
def execImax (x : LaneWord) (s : State) : Out := intWord x (intLat x.ty) (fun a b _ => max a b) s
def execIabs (x : LaneWord) (s : State) : Out := intWord x (intLat x.ty) (fun a _ _ => (a.natAbs : Int)) s
def execAndLane (x : LaneWord) (s : State) : Out := bitWord x (intLat x.ty) (· &&& ·) s
def execOrLane (x : LaneWord) (s : State) : Out := bitWord x (intLat x.ty) (· ||| ·) s
def execXorLane (x : LaneWord) (s : State) : Out := bitWord x (intLat x.ty) (· ^^^ ·) s
def execNotLane (x : LaneWord) (s : State) : Out :=
  bitWord x (intLat x.ty) (fun a _ => a ^^^ (2 ^ tyWidth x.ty - 1)) s
def execMovLane (x : LaneWord) (s : State) : Out := bitWord x (intLat x.ty) (fun a _ => a) s
def execIadd3 (x : LaneWord) (s : State) : Out := intWord x (intLat x.ty) (fun a b c => a + b + c) s

/-! ## Shifts (R206) -/

def execShlLane (x : LaneWord) (s : State) : Out :=
  bitWord x (intLat x.ty) (fun a b => a * 2 ^ (b % 256)) s
/-- SHR rounds down, read signed for s types. -/
def shrElem (t a b : Nat) : Nat := truncNat (intVal t a / ((2 ^ (b % 256) : Nat) : Int)) (tyWidth t)
def execShrLane (x : LaneWord) (s : State) : Out := bitWord x (intLat x.ty) (shrElem x.ty) s
def rotElem (w a b : Nat) : Nat :=
  let k := b % 256 % w
  a * 2 ^ k % 2 ^ w ||| a / 2 ^ (w - k)
def execRotl (x : LaneWord) (s : State) : Out := bitWord x (intLat x.ty) (rotElem (tyWidth x.ty)) s

/-! ## Bit fields and bit counts (R207) -/

/-- BFE: bits above the width read as zero, or as the sign. -/
def bfeElem (t a b : Nat) : Nat :=
  let w := tyWidth t
  let pos := b % 256
  let len := min (b / 256 % 256) w
  let wide := truncNat (intVal t a) (w + 512)
  let f := wide / 2 ^ pos % 2 ^ len
  if len = 0 then 0 else if isSigned t then truncNat (sextInt f len) w else f

/-- BFI: the field's bits that lie below the width are replaced. -/
def bfiElem (t a b c : Nat) : Nat :=
  let w := tyWidth t
  let pos := b % 256
  let len := min (b / 256 % 256) w
  let m := (2 ^ len - 1) * 2 ^ pos % 2 ^ w
  (c &&& (m ^^^ (2 ^ w - 1))) ||| (a * 2 ^ pos &&& m)

/-- BFE and BFI take B from one register even for 64-bit types. -/
def execBfe (x : LaneWord) (s : State) : Out :=
  let n := tySpan x.ty
  freeWordAct x (fun s act => putDest s x.dN n (intLat x.ty) act
    (List.zipWith (bfeElem x.ty) (srcA s x n) (srcB s x 1))) s
def execBfi (x : LaneWord) (s : State) : Out :=
  let n := tySpan x.ty
  freeWordAct x (fun s act => putDest s x.dN n (intLat x.ty) act
    (zip3 (bfiElem x.ty) (srcA s x n) (srcB s x 1) (srcC s x n))) s

/-- Leading zero bits of a `w`-bit number. -/
def leadingZeros (w a : Nat) : Nat := if a % 2 ^ w = 0 then w else w - 1 - Nat.log2 (a % 2 ^ w)
/-- The number with its `w` bits in reverse order. -/
def reverseBits (w a : Nat) : Nat := (List.range w).foldl (fun acc k => acc + b2n (a.testBit k) * 2 ^ (w - 1 - k)) 0

/-- POPC and CLZ write 32 bits for both types. -/
def execPopcLane (x : LaneWord) (s : State) : Out :=
  freeWordAct x (fun s act => putDest s x.dN 1 (intLat x.ty) act ((srcA s x (tySpan x.ty)).map (popCount (tyWidth x.ty)))) s
def execClzLane (x : LaneWord) (s : State) : Out :=
  freeWordAct x (fun s act => putDest s x.dN 1 (intLat x.ty) act ((srcA s x (tySpan x.ty)).map (leadingZeros (tyWidth x.ty)))) s
def execBrev (x : LaneWord) (s : State) : Out :=
  bitWord x (intLat x.ty) (fun a _ => reverseBits (tyWidth x.ty) a) s

/-! ## Sums of differences, widening products, dot products (R208 to R210) -/

/-- The 32-bit type of the same sign. -/
def t32 (t : Nat) : Nat := if isSigned t then 6 else 2
/-- Σ over the packed elements, exact. -/
def sumElems (t : Nat) (packed : Bool) (f : Int → Int → Int) (a b : Nat) : Int :=
  (List.range (elemCount t packed)).foldl (init := 0) fun acc j =>
    acc + f (intVal t (elemAt (tyWidth t) a j)) (intVal t (elemAt (tyWidth t) b j))

/-- A 32-bit sum into C: ISAD, IDP4, IDP2. -/
def sumWord (x : LaneWord) (lat : Nat) (f : Int → Int → Int) : State → Out :=
  let t := x.ty
  freeWordAct x fun s act =>
    putDest s x.dN 1 lat act (zip3 (fun a b c =>
      narrow x.sat0 (isSigned t) 32 (intVal (t32 t) c + sumElems t x.pk0 f a b)) (srcA s x 1) (srcB s x 1) (srcC s x 1))

def execIsad (x : LaneWord) (s : State) : Out := sumWord x 2 (fun a b => ((a - b).natAbs : Int)) s
def execIdp4 (x : LaneWord) (s : State) : Out := sumWord x 4 (fun a b => a * b) s
def execIdp2 (x : LaneWord) (s : State) : Out := sumWord x 4 (fun a b => a * b) s

/-- One lane of IMULW or IMADW (R209): elements of double width over two registers. -/
def wideLane (x : LaneWord) (addC : Bool) (a b c : Nat) : Nat :=
  let t := x.ty
  let w := tyWidth t
  let ext (v : Nat) : Int := if isSigned t then sextInt v (2 * w) else (v : Int)
  joinElems (2 * w) ((List.range (32 / w)).map fun j =>
    narrow x.sat0 (isSigned t) (2 * w)
      (intVal t (elemAt w a j) * intVal t (elemAt w b j) + (if addC then ext (elemAt (2 * w) c j) else 0)))

def execImulw (x : LaneWord) (s : State) : Out :=
  freeWordAct x (fun s act => putDest s x.dN 2 4 act
    (zip3 (wideLane x false) (srcA s x 1) (srcB s x 1) (srcB s x 1))) s
def execImadw (x : LaneWord) (s : State) : Out :=
  freeWordAct x (fun s act => putDest s x.dN 2 4 act
    (zip3 (wideLane x true) (srcA s x 1) (srcB s x 1) (srcC s x 2))) s

end Sys2Proof.Machine
end

