-- ==== Sys2Proof/Machine/LaneFloat.lean ====
section
/-! DEFINITION. Floating-point, conversion, packing and special-function lane words (R211 to R220, R227, R228).
All but PACK and UNPK pay the floating-point class price (R202). -/

namespace Sys2Proof.Machine

/-! ## Floating point (R211 to R214) -/

/-- A floating-point word: results and events per lane; the group writes one record (R203). -/
def floatWord (x : LaneWord) (lat n : Nat) (res : State → List (Nat × Ev)) : State → Out :=
  pricedWord 1 x fun s act =>
    let rs := res s
    aelLane (putDest s x.dN n lat act (rs.map (·.1))) (eventsOf act rs)

/-- One element of FADD, FSUB, FMUL or FFMA (R212). -/
def floatElem (x : LaneWord) (op : Val → Val → Val → Val × Bool) (a b c : Nat) : Nat × Ev :=
  let F := fmtOf x.ty
  let f := F.flush x.ftz
  let r := roundStep F (rmode x.rnd) false x.ftz (op (F.value (f a)) (F.value (f b)) (F.value (f c)))
  (if x.sat1 then clamp01 F r.1 else r.1, r.2)

/-- INVALID for a signalling NaN among the operands that a word has. -/
def snanIn (t : Nat) (l : List Nat) : Ev := Ev.when (l.any (fmtOf t).snan) Ev.invalid

/-- A word of two operands: element by element. -/
def float2 (x : LaneWord) (op : Bool → Val → Val → Val × Bool) (s : State) : List (Nat × Ev) :=
  let rm := decide (x.rnd = 2)
  List.zipWith (fun a b => mapElemsEv x.ty x.pk1 (fun a b _ =>
    let r := floatElem x (fun a b _ => op rm a b) a b 0
    (r.1, r.2.or (snanIn x.ty [a, b]))) a b 0) (srcA s x 1) (srcB s x 1)

def execFadd (x : LaneWord) (s : State) : Out := floatWord x 4 1 (float2 x Val.add) s
def execFsub (x : LaneWord) (s : State) : Out := floatWord x 4 1 (float2 x fun rm a b => Val.add rm a b.neg) s
def execFmul (x : LaneWord) (s : State) : Out := floatWord x 4 1 (float2 x fun _ a b => Val.mul a b) s

/-- a × b + c with one rounding; ∞ × 0 is INVALID even when c is NaN (R212). -/
def fmaVal (rm : Bool) (a b c : Val) : Val × Bool :=
  let (p, i) := Val.mul a b
  let (r, j) := Val.add rm p c
  (r, i || j)

def execFfma (x : LaneWord) (s : State) : Out :=
  floatWord x 4 1 (fun s => zip3 (fun a b c => mapElemsEv x.ty x.pk1 (fun a b c =>
    let r := floatElem x (fmaVal (decide (x.rnd = 2))) a b c
    (r.1, r.2.or (snanIn x.ty [a, b, c]))) a b c) (srcA s x 1) (srcB s x 1) (srcC s x 1)) s

/-- FMIN and FMAX (R212): one of the operands after the flush, not rounded. -/
def minMax (x : LaneWord) (isMin : Bool) (s : State) : List (Nat × Ev) :=
  let F := fmtOf x.ty
  List.zipWith (fun a b => mapElemsEv x.ty x.pk1 (fun a b _ =>
    fMinMax F isMin (F.flush x.ftz a) (F.flush x.ftz b)) a b 0) (srcA s x 1) (srcB s x 1)

def execFmin (x : LaneWord) (s : State) : Out := floatWord x 2 1 (minMax x true) s
def execFmax (x : LaneWord) (s : State) : Out := floatWord x 2 1 (minMax x false) s

/-- FABS and FNEG act on bits and raise no event. -/
def signWord (x : LaneWord) (f : Nat → Nat → Nat) (s : State) : List (Nat × Ev) :=
  let top := 2 ^ (tyWidth x.ty - 1)
  (srcA s x 1).map fun a => (mapElems x.ty x.pk1 (fun a _ _ => f top a) a 0 0, Ev.none)

def execFabs (x : LaneWord) (s : State) : Out := floatWord x 2 1 (signWord x fun top a => a % top) s
def execFneg (x : LaneWord) (s : State) : Out := floatWord x 2 1 (signWord x fun top a => a ^^^ top) s

/-- One lane of FDP2 or FDP4 (R213): an exact sum rounded once to f32. With a NaN operand and infinities of both signs,
INVALID is raised where the infinities meet before the NaN in the order of the elements (DESIGN CHOICE, log 113). -/
def dotLane (x : LaneWord) (n a b c : Nat) : Nat × Ev :=
  let F := fmtOf x.ty
  let rm := decide (x.rnd = 2)
  let f := F.flush x.ftz
  let es := (List.range n).map fun j => (elemAt 16 a j, elemAt 16 b j)
  let step (acc : Val × Bool) (e : Nat × Nat) : Val × Bool :=
    let (p, i) := Val.mul (F.value (f e.1)) (F.value (f e.2))
    let (r, k) := Val.add rm acc.1 p
    (r, acc.2 || i || k)
  let sum := es.foldl step (fF32.value (fF32.flush x.ftz c), false)
  let r := roundStep fF32 (rmode x.rnd) false x.ftz sum
  (if x.sat1 then clamp01 fF32 r.1 else r.1,
    (r.2.or (snanIn x.ty (es.flatMap fun e => [e.1, e.2]))).or (Ev.when (fF32.snan c) Ev.invalid))

def execFdp2 (x : LaneWord) (s : State) : Out :=
  floatWord x 5 1 (fun s => zip3 (dotLane x 2) (srcA s x 1) (srcB s x 1) (srcC s x 1)) s
def execFdp4 (x : LaneWord) (s : State) : Out :=
  floatWord x 5 1 (fun s => zip3 (dotLane x 4) (srcA s x 2) (srcB s x 2) (srcC s x 1)) s

/-- FRND of one element (R214). -/
def frndElem (x : LaneWord) (a : Nat) : Nat × Ev :=
  let F := fmtOf x.ty
  let a' := F.flush x.ftz a
  let sn := Ev.when (F.snan a) Ev.invalid
  match F.value a' with
  | .nan => (F.nan, sn)
  | .inf _ => (a', Ev.none)
  | .fin n m e =>
    if m = 0 ∨ 0 ≤ e then (a', Ev.none)
    else
      let k := (-e).toNat
      let lo := m / 2 ^ k
      let num := m % 2 ^ k
      let y := lo + b2n (roundUp (rmode x.rnd) n lo num k)
      let r := if y = 0 then F.zero n else (roundTo F .rn false false (.fin n y 0)).1
      (r, Ev.when (decide (num ≠ 0)) Ev.inexact)

def execFrnd (x : LaneWord) (s : State) : Out :=
  floatWord x 4 1 (fun s => (srcA s x 1).map fun a => mapElemsEv x.ty x.pk1 (fun a _ _ => frndElem x a) a 0 0) s

/-! ## Conversions (R182 to R187, R215 to R218) -/

/-- The state that a seed gives lane `l` of lane-group slot `g` (R188). -/
def seedState (seed : Word32) (g l : Nat) : Word32 :=
  let v := seed ^^^ BitVec.ofNat 32 ((32 * g + l) * 2 ^ 16)
  if v = 0 then 1 else v

/-- A cluster on which a written seed has taken effect (R188). -/
def Cluster.seeded (c : Cluster) : Cluster :=
  match c.srNext with
  | some (_, v) => { c with srSeed := v, sr := [], srNext := none }
  | none => c

/-- A seed that was written before this cycle has taken effect (R188). -/
def settleSeed (s : State) (pid : Nat) : State :=
  if (s.clu pid).srNext.all fun w => sameCycle s pid w.1 then s else s.modClu pid Cluster.seeded

/-- The stochastic state of a lane of the group in focus (R184, R188). -/
def srState (s : State) (l : Nat) : Word32 :=
  let c := s.clu s.lane.pid
  let g := physSlot s s.lane.tid.fid (laneMember s) s.lane.slot
  c.sr.get (g, l) (seedState c.srSeed g l)
def setSr (s : State) (l : Nat) (v : Word32) : State :=
  let g := physSlot s s.lane.tid.fid (laneMember s) s.lane.slot
  s.modClu s.lane.pid fun c => { c with sr := c.sr.set (g, l) v }

/-- Elements converted in order, the generator stepping once for each where `sr` is asked for (R186, R187). -/
def convLane (sr : Bool) (rnd : Nat) (f : RMode → Nat → Nat → Nat × Ev) : Nat → List Nat → Word32 → List Nat × Ev × Word32
  | _, [], st => ([], Ev.none, st)
  | j, e :: es, st =>
    let st := if sr then srStep st else st
    let r := f (if sr then .sr (st.toNat / 256) else rmode rnd) j e
    let (rs, ev, st) := convLane sr rnd f (j + 1) es st
    (r.1 :: rs, r.2.or ev, st)

/-- A conversion of `n` elements of width `wS` to width `wD` in each active lane. -/
def convWord (x : LaneWord) (lat n wS wD : Nat) (round : Bool) (els : Nat → List Nat)
    (f : State → Nat → RMode → Nat → Nat → Nat × Ev) : State → Out :=
  let sr := decide (x.rnd = 4) && round
  let nS := LaneWord.cvtSpan n wS
  let nD := LaneWord.cvtSpan n wD
  pricedWord 1 x fun s act =>
    let s := if sr then settleSeed s s.lane.pid else s
    let av := srcA s x nS
    let rs := (List.range 32).map fun l => convLane sr x.rnd (f s l) 0 (els (av.getD l 0)) (srState s l)
    let s' := putDest s x.dN nD lat act (rs.map fun r => joinElems wD r.1)
    let s' := if sr then (setBits 32 act).foldl (fun t l => match rs[l]? with
      | some r => setSr t l r.2.2
      | none => t) s' else s'
    aelLane s' (eventsOf act (rs.map fun r => (0, r.2.1)))

/-- CVT (R216). -/
def execCvt (x : LaneWord) (s : State) : Out :=
  let wS := tyWidth x.srcTy
  let wD := tyWidth x.ty
  let n := LaneWord.cvtN wS wD
  convWord x 4 n wS wD (canRound x.srcTy x.ty) (fun a => (List.range n).map (elemAt wS a))
    (fun _ _ mode _ e => convert x.srcTy x.ty mode x.sat2 e) s

/-- `scale_of` (R175): the scale byte of element `j` of lane `l`, read from the scale lane as it stands. -/
def scaleOf (rows : Row) (n blk l j sel : Nat) : Nat :=
  ((rows.getD ((n * l + j) / blk) 0).toNat / 2 ^ (8 * sel)) % 256

/-- CVTS of one element with scale X (R176, R217). -/
def cvtsElem (x : LaneWord) (mode : RMode) (X e : Nat) : Nat × Ev :=
  let S := fmtOf x.srcTy
  let D := fmtOf x.ty
  let sn := Ev.when (S.snan e) Ev.invalid
  if LaneWord.isNarrow x.srcTy then
    if X = 255 then (D.nan, Ev.when (!(S.value e).isNan) Ev.invalid |>.or sn)
    else
      let r := roundTo D mode x.sat2 false (Val.scale ((X : Int) - 127) (S.value e))
      (r.1, r.2.or sn)
  else if X = 255 then (if D.hasNan then D.nan else 0, (Ev.when (!(S.value e).isNan || !D.hasNan) Ev.invalid).or sn)
  else
    let r := roundTo D mode x.sat2 false (Val.scale (127 - (X : Int)) (S.value e))
    (r.1, r.2.or sn)

/-- CVTS (R217). Its conversions count as ones that can round, so that sr steps the generator for every element (DESIGN CHOICE,
log 112). -/
def execCvts (x : LaneWord) (s : State) : Out :=
  let wS := tyWidth x.srcTy
  let wD := tyWidth x.ty
  let n := LaneWord.cvtN wS wD
  convWord x 5 n wS wD true (fun a => (List.range n).map (elemAt wS a))
    (fun s l mode j e => cvtsElem x mode (scaleOf (regRow s x.bN) n 32 l j x.bs) e) s

/-- What the word in focus captured of a bank on its member (R218, R232, R258). -/
def bankIn (s : State) : Nat := s.lane.word.banks.get (laneMember s) 0
/-- The magnitude vector of an index in a codebook bank (R177). -/
def codeVec (c : Cluster) (bank idx : Nat) : Nat :=
  leNat (((c.codeTab.getD (bank % 2) []).drop (4 * (idx / 256))).take 4)

/-- A load of the bank is emitted and not finished (R258.4). -/
def codeLoading (s : State) : Bool := (s.clu s.lane.pid).code.waits (bankIn s)

/-- The word releases the bank it captured when the last group of the member has issued it (R232, R258). -/
def retireUse (s : State) (f : Cluster → Cluster) : State :=
  if s.lane.replay then s
  else
    let c := cissueNext s 0
    if c.done then dropCissue (s.modClu s.lane.pid f) else setCissue s c

/-- CBD of a weight of index `q` in units of 1/8 (R218). -/
def cbdElem (x : LaneWord) (mode : RMode) (X : Nat) (q : Int) : Nat × Ev :=
  let D := fmtOf x.ty
  if X = 255 then (D.nan, Ev.invalid)
  else if q = 0 then (0, Ev.none)
  else roundTo D mode x.sat2 false (.fin (decide (q < 0)) q.natAbs ((X : Int) - 130))

/-- CBD (R218). It is held while its captured bank has a load emitted but not finished (R258.4). Under sr it steps the generator
for every element (DESIGN CHOICE, log 112). -/
def execCbd (x : LaneWord) (s : State) : Out :=
  if codeLoading s then holdWord s
  else
    let wD := tyWidth x.ty
    let bank := bankIn s
    let pos (q : Int) : Nat := (q + 31).toNat
    let weights (c : Cluster) (a : Nat) : List Nat :=
      (List.range 2).flatMap fun i => (cb2Decode (elemAt 16 a i) (codeVec c bank (elemAt 16 a i))).map pos
    let c0 := s.clu s.lane.pid
    match convWord x 6 16 2 wD true (weights c0)
      (fun s l mode j e => cbdElem x mode (scaleOf (regRow s x.bN) 16 64 l j x.bs) ((e : Int) - 31)) s with
    | .next t => if t.lane.held then .next t
        else .next (retireUse t fun c => { c with code := c.code.retire bank })
    | r => r

/-! ## PACK and UNPK (R219, R220) -/

def packLane (x : LaneWord) (a b d : Nat) : Nat :=
  if x.ty = 1 then elemAt 16 a (x.bs % 2) + 2 ^ 16 * elemAt 16 b (x.bs / 2)
  else elemAt 8 a x.bs + 2 ^ 8 * elemAt 8 b x.bs + 2 ^ 16 * (d % 2 ^ 16)
def execPack (x : LaneWord) (s : State) : Out :=
  freeWordAct x (fun s act => putDest s x.dN 1 2 act (zip3 (packLane x) (srcA s x 1) (srcB s x 1) (srcD s x 1))) s

def unpkLane (x : LaneWord) (a : Nat) : Nat :=
  let w := tyWidth x.srcTy
  let e := elemAt w a x.bs
  if x.ty = 6 then truncNat (sextInt e w) 32 else e
def execUnpk (x : LaneWord) (s : State) : Out :=
  freeWordAct x (fun s act => putDest s x.dN 1 2 act ((srcA s x 1).map (unpkLane x))) s

/-! ## Special functions (R227, R228) -/

def specialWord (x : LaneWord) (op lat : Nat) : State → Out :=
  floatWord x lat 1 fun s => (srcA s x 1).map fun a => specialFn op x.ty (a % 2 ^ tyWidth x.ty)

def execRcp (x : LaneWord) (s : State) : Out := specialWord x 0x188 12 s
def execRsq (x : LaneWord) (s : State) : Out := specialWord x 0x189 12 s
def execSqrt (x : LaneWord) (s : State) : Out := specialWord x 0x18A 14 s
def execExp2 (x : LaneWord) (s : State) : Out := specialWord x 0x18B 12 s
def execLog2 (x : LaneWord) (s : State) : Out := specialWord x 0x18C 12 s
def execSin (x : LaneWord) (s : State) : Out := specialWord x 0x18D 12 s
def execCos (x : LaneWord) (s : State) : Out := specialWord x 0x18E 12 s

end Sys2Proof.Machine
end

