-- ==== Sys2Proof/Machine/LaneMisc.lean ====
section
/-! DEFINITION. Compares, predicates, SEL, LEXIT, NOP, the retired words (R53, R56, R434), and the two-banked
stores: curve tables (R229 to R232) and the codebook (R258). -/

namespace Sys2Proof.Machine

/-! ## Compares and predicates (R221 to R224) -/

/-- A lane mask from one Boolean for each lane. -/
def maskFrom (bs : List Bool) : Nat := (bs.zip (List.range 32)).foldl (fun acc b => acc + b2n b.1 * 2 ^ b.2) 0

/-- COMBINE on lane masks (R48). -/
def combineMask (code old new : Nat) : Nat :=
  match code with
  | 0 => new
  | 1 => old &&& new
  | 2 => old ||| new
  | _ => old ^^^ new

def execIcmp (x : LaneWord) (s : State) : Out :=
  let t := x.ty
  let n := tySpan t
  freeWordAct x (fun s act =>
    let r := maskFrom (List.zipWith (fun a b => iCond x.cond (intVal t a) (intVal t b)) (srcA s x n) (srcB s x n))
    putPred s x.dN 2 act (combineMask x.comb (predMask s x.dN) r)) s

def execFcmp (x : LaneWord) (s : State) : Out :=
  let F := fmtOf x.ty
  let w := tyWidth x.ty
  pricedWord 1 x (fun s act =>
    let rs := List.zipWith (fun a b => fCond F x.cond (a % 2 ^ w) (b % 2 ^ w)) (srcA s x 1) (srcB s x 1)
    let s' := putPred s x.dN 2 act (combineMask x.comb (predMask s x.dN) (maskFrom (rs.map (·.1))))
    aelLane s' (eventsOf act (rs.map fun r => (0, r.2)))) s

/-- PLOP (R222): the truth table is field C [23:20]. -/
def execPlop (x : LaneWord) (s : State) : Out :=
  freeWordAct x (fun s act =>
    let a := predMask s x.aN
    let b := predMask s x.bN
    let lut := x.cN % 16
    putPred s x.dN 1 act (maskFrom ((List.range 32).map fun l => lut.testBit (2 * b2n (a.testBit l) + b2n (b.testBit l))))) s

/-- PMOV (R223): `.set` by type code 0, `.get` by 1. -/
def execPmov (x : LaneWord) (s : State) : Out :=
  freeWordAct x (fun s act =>
    if x.ty = 0 then
      let a := srcA s x 1
      let b := srcB s x 1
      (List.range 12).foldl (init := s) fun s k =>
        let sel := maskFrom (b.map (·.testBit k))
        putPred s k 1 (act &&& sel) (maskFrom (a.map (·.testBit k)))
    else
      let ps := (List.range 12).map (predMask s)
      putDest s x.dN 1 1 act ((List.range 32).map fun l =>
        (ps.zip (List.range 12)).foldl (fun acc p => acc + b2n (p.1.testBit l) * 2 ^ p.2) 0)) s

def execSel (x : LaneWord) (s : State) : Out :=
  let n := tySpan x.ty
  freeWordAct x (fun s act =>
    let p := predMask s x.cN
    putDest s x.dN n 2 act (zip3 (fun l a b => if p.testBit l then a else b) (List.range 32) (srcA s x n) (srcB s x n))) s

/-! ## LEXIT and NOP (R225, R226) -/

/-- LEXIT: active lanes move to EXITMASK, which is an event for lane-counted barriers (R366). -/
def execLexit (x : LaneWord) (s : State) : Out :=
  freeWordAct x (fun s act =>
    let off := act ^^^ allLanes
    let s := modLaneGrp s fun g => { g with ex := g.ex &&& off, park := g.park &&& off, exit := g.exit ||| act }
    if act = 0 then s else exitEvent s s.lane.tid.fid (laneMember s) s.lane.slot) s

def execNop (x : LaneWord) (s : State) : Out := freeWordAct x (fun s _ => s) s

/-! ## Trailers (R40, R41) -/

/-- TRL: the trailer at PC closes the open run of the current stream, as its emission (R55). -/
def execTrl (x : LaneWord) (s : State) : Out := execLaneWordEmit (encLane 0x380 x) s

/-! ## Retired words (R53, R434) -/

/-- A word that the emulation handler's expansion stands for: D is written before the next word issues. -/
def retiredWord (price : Nat) (x : LaneWord) (f : Nat → Nat → Nat) : State → Out :=
  pricedWord price x fun s act => putDest s x.dN 1 0 act (List.zipWith f (srcA s x 1) (srcB s x 1))

/-- The quotient of IDIV (R53). -/
def idivQ (t a b : Nat) : Nat :=
  if b % 2 ^ 32 = 0 then 2 ^ 32 - 1 else truncNat (Int.tdiv (intVal t a) (intVal t b)) 32
def execIdiv (x : LaneWord) (s : State) : Out := retiredWord 4 x (idivQ x.ty) s
def iremR (t a b : Nat) : Nat :=
  if b % 2 ^ 32 = 0 then a else truncNat (intVal t a - intVal t b * intVal t (idivQ t a b)) 32
def execIrem (x : LaneWord) (s : State) : Out := retiredWord 4 x (iremR x.ty) s

/-- A quotient of magnitudes, with a sticky bit below 64 quotient bits: every rounding of it is the
rounding of the exact quotient. -/
def divVal (a b : Val) : Val :=
  match a, b with
  | .nan, _ => .nan
  | _, .nan => .nan
  | .inf _, .inf _ => .nan
  | .inf n, .fin k _ _ => .inf (n != k)
  | .fin n _ _, .inf k => .fin (n != k) 0 0
  | .fin n m e, .fin k m' e' =>
    if m' = 0 then (if m = 0 then .nan else .inf (n != k))
    else
      let num := m * 2 ^ 64
      .fin (n != k) (2 * (num / m') + b2n (decide (num % m' ≠ 0))) (e - e' - 65)
def fdivR (x : LaneWord) (a b : Nat) : Nat :=
  (roundTo fF32 (rmode x.rnd) false false (divVal (fF32.value a) (fF32.value b))).1
def execFdiv (x : LaneWord) (s : State) : Out := retiredWord 6 x (fdivR x) s

/-! ## Curve tables (R229 to R232) -/

/-- The price of CTLD, MCBT, TA.DLY and the stash words on a cluster (R409). -/
def oncePrice : Nat := 8
def payOnce (s : State) : State × Bool := pay s s.lane.pid (pipeWho s.lane.pipe) oncePrice

def curveCtl (c : Cluster) (t : Nat) : BankCtl := c.curve.get t BankCtl.placed
def modCurve (t : Nat) (f : BankCtl → BankCtl) (c : Cluster) : Cluster := { c with curve := c.curve.set t (f (curveCtl c t)) }

/-- u = (x − LO) × 2^SH and one evaluation (R231). DESIGN CHOICE: the position t is +0 where the scaled value is -0 (log 141). -/
def cteLane (b : CurveBank) (a : Nat) : Nat × Ev :=
  let F := fF32
  let v := F.value a
  let sn := Ev.when (F.snan a) Ev.invalid
  let coef (i : Nat) := b.coef.get i (0, 0, 0)
  let eval (i t : Nat) (ev : Ev) : Nat × Ev :=
    let (c0, c1, c2) := coef i
    let step (c t d : Nat) : Nat × Ev :=
      let r := roundStep F .rn false false (fmaVal false (F.value t) (F.value d) (F.value c))
      (r.1, r.2.or (Ev.when (F.snan c || F.snan d) Ev.invalid))
    let h := step c1.toNat t c2.toNat
    let d := step c0.toNat t h.1
    (d.1, (ev.or h.2).or d.2)
  match v with
  | .nan => (F.nan, sn)
  | .inf n => if n then eval 0 0 Ev.none else eval 255 0x3F80_0000 Ev.none
  | v =>
    match Val.scale b.sh (Val.add false v (F.value b.lo.toNat).neg).1 with
    | .fin n m e =>
      if n && decide (m ≠ 0) then eval 0 0 Ev.none
      else
        let big := m * 2 ^ e.toNat
        let k := (-e).toNat
        let i := big / 2 ^ k
        if 256 ≤ i then eval 255 0x3F80_0000 Ev.none
        else
          let t := roundTo F .rn false false (.fin false (big % 2 ^ k) (-(k : Int)))
          eval i t.1 t.2
    | _ => (F.nan, sn)

/-- CTE (R231, R232): held while its captured bank waits for a load. -/
def execCte (x : LaneWord) (s : State) : Out :=
  let t := x.cN % 4
  let code := bankIn s
  let c := s.clu s.lane.pid
  if (curveCtl c t).waits code then holdWord s
  else
    let b := c.curves.get (t, code % 2) CurveBank.zero
    match floatWord x 10 1 (fun s => (srcA s x 1).map (cteLane b)) s with
    | .next s' => if s'.lane.held then .next s' else .next (retireUse s' (modCurve t fun k => k.retire code))
    | r => r

/-- An earlier access of the same stream on the cluster still touches local bytes of this member (R152). -/
def localBlocked (s : State) (off n : Nat) : Bool :=
  let m := laneMember s
  s.ops.any fun o => decide (o.tid = s.lane.tid) && decide (o.str.map (· % 4) = some (s.lane.str % 4)) && decide (o.pid = s.lane.pid)
    && o.made.isNone && o.deed.writes && (match serveOf s o with
      | .stash pid _ k _ => decide (pid = s.lane.pid) && rangesMeet k o.n off n
      | .sram c k => decide (c = m) && rangesMeet k o.n off n
      | .home _ _ => false)

/-- CTLD (R230, R232). DESIGN CHOICE: the 4096 bytes are read at the moment the load begins (log 133). -/
def execCtld (x : LaneWord) (s : State) : Out :=
  let t := x.cN % 4
  onceWord x (fun s c =>
    let code := bankIn s
    let k := code % 2
    let ctl := curveCtl (s.clu s.lane.pid) t
    let off := lo64 s.lane.word.ua
    let b := lo64 s.lane.word.ub
    if !c.active then (s.modClu s.lane.pid (modCurve t fun b => b.finish code), true)
    else if ctl.used code || (ctl.loading.find k).isSome || localBlocked s off 4096 then (s, false)
    else match payOnce s with
    | (s, false) => (s, false)
    | (s, true) =>
      let load : BankLoad := ⟨code / 2, s.now, s.localRead s.lane.tid.fid (laneMember s) off 4096, BitVec.ofNat 32 b, sextInt (b / 2 ^ 32) 8, none⟩
      (s.modClu s.lane.pid (modCurve t fun b => { b with loading := b.loading.set k load }), true)) s

/-- A load in progress has taken its cycles. -/
def loadDone (s : State) (pid n : Nat) (l : BankLoad) : Bool := decide (n ≤ cyclesSince (cluMHz s pid) l.t0 s.now)

def word32At (bs : List Byte) (k : Nat) : Word32 := BitVec.ofNat 32 (leNat ((bs.drop k).take 4))

/-- CURVE_TABLE_LOAD_FINISH (R232.3): after 32 cycles the bank and its descriptor hold the new table. -/
def execCurveTableLoadFinish (pid tbl bank : Nat) (s : State) : Out :=
  match (curveCtl (s.clu pid) tbl).loading.find bank with
  | none => .next s
  | some l =>
    if !loadDone s pid 32 l then .next s
    else
      let coef := (List.range 256).map fun i =>
        (i, (word32At l.data (16 * i), word32At l.data (16 * i + 4), word32At l.data (16 * i + 8)))
      let s := s.modClu pid fun c => { c with curves := c.curves.set (tbl, bank) ⟨l.lo, l.sh, coef⟩ }
      .next (s.modClu pid (modCurve tbl fun b => { b.finish (bankCode bank l.n) with loading := b.loading.erase bank }))

/-! ## The codebook (R258) -/

/-- Local bytes read as a LOCAL load: sectors of a stash entry that are not filled are claimed first (R167,
R258.3); true once every byte can be read. -/
def localReady (s : State) (fid m off n : Nat) : State × Bool :=
  let pid := s.pidOf fid m
  (List.range ((off % 32 + n + 31) / 32)).foldl (init := (s, true)) fun (s, ok) k =>
    let o := off / 32 * 32 + 32 * k
    match stashOff s fid m o with
    | none => (s, ok)
    | some e =>
      match e.st (e.secAt o) with
      | .unfilled => match translate s pid (s.flk fid).ctx (e.va + (o - e.off)) .load with
        | (s, .ok pa) => (stashClaim s pid e (e.secAt o) pa, false)
        | (s, .error _) => (s, ok)
      | .pending _ _ _ => (s, false)
      | _ => (s, ok)

/-- MCBT (R258): a full-mask word that acts once per cluster. Its LOCAL load may wait for stash sectors to fill: the word
has issued then, and the load reads when it can. -/
def execMcbt (x : LaneWord) (s : State) : Out :=
  onceWord x (fun s c =>
    let code := bankIn s
    let k := code % 2
    let ctl := (s.clu s.lane.pid).code
    let off := lo64 s.lane.word.ua
    let skip (s : State) : State := s.modClu s.lane.pid fun c => { c with code := c.code.finish code }
    if !c.full then (refuseWord (skip s), true)
    else if ctl.used code || (ctl.loading.find k).isSome || localBlocked s off 1024 then (s, false)
    else match payOnce s with
      | (s, false) => (s, false)
      | (s, true) =>
        let m := laneMember s
        let (s, ready) := localReady s s.lane.tid.fid m off 1024
        let load : BankLoad := if ready then ⟨code / 2, s.now, s.localRead s.lane.tid.fid m off 1024, 0, 0, none⟩
          else ⟨code / 2, s.now, [], 0, 0, some (s.lane.tid, s.lane.str, s.lane.word.seq, off)⟩
        (s.modClu s.lane.pid fun c => { c with code := { c.code with loading := c.code.loading.set k load } }, true)) s

/-- CODEBOOK_LOAD_FINISH (R258.3): a load that waits for its bytes reads them once it can; 8 cycles after it began to
read, the bank is written. -/
def execCodebookLoadFinish (pid bank : Nat) (s : State) : Out :=
  match (s.clu pid).code.loading.find bank with
  | none => .next s
  | some l =>
    match l.src with
    | some (t, _, _, off) =>
      let m := (s.flk t.fid).clus.idxOf pid
      let (s, ready) := localReady s t.fid m off 1024
      let l : BankLoad := { l with t0 := s.now, data := s.localRead t.fid m off 1024, src := none }
      .next (if ready then s.modClu pid fun c => { c with code := { c.code with loading := c.code.loading.set bank l } } else s)
    | none =>
      if !loadDone s pid 8 l then .next s
      else .next (s.modClu pid fun c =>
        { c with codeTab := setAt (c.codeTab ++ List.replicate (2 - c.codeTab.length) []) (bank % 2) l.data
                 code := { c.code.finish (bankCode bank l.n) with loading := c.code.loading.erase bank } })

end Sys2Proof.Machine
end

