-- ==== Sys2Proof/Machine/CrossLane.lean ====
section
/-! DEFINITION. Cross-lane words (R233 to R246) and the lane side of VOTE and UNI (R242, R356). -/

namespace Sys2Proof.Machine

/-! ## Contributors and receivers (R233, R234) -/

/-- The member mask of field C. -/
def memberMask (s : State) (x : LaneWord) : Nat := if x.cN = 0 then allLanes else lo64 s.lane.word.uc % 2 ^ 32
/-- Lanes in the member mask that have not exited. -/
def contributors (s : State) (x : LaneWord) : Nat := memberMask s x &&& ((laneGrp s).exit ^^^ allLanes)
/-- Lanes of a sub-group. -/
def subSize (x : LaneWord) : Nat := 2 ^ (x.sg + 1)

/-- A word that moves values: `src l` names the source lane of a receiver, where it has one. An omitted
receiver, or one whose source is no contributor, writes its own A (R234, R238, R239). -/
def moveWord (x : LaneWord) (src : State → Nat → Option Nat) : State → Out :=
  let n := tySpan x.ty4
  freeWordAct x fun s act =>
    let av := srcA s x n
    let mem := memberMask s x
    let con := contributors s x
    putDest s x.dN n (if n = 2 then 5 else 4) act ((List.range 32).map fun l =>
      match src s l with
      | some k => if mem.testBit l && con.testBit k then av.getD k 0 else av.getD l 0
      | none => av.getD l 0)

/-- SHFL (R238). -/
def execShfl (x : LaneWord) (s : State) : Out :=
  let n := subSize x
  moveWord x (fun s l =>
    let u := ((srcB s x 1).getD l 0)
    let i := l % n
    let j := match x.mode with
      | 0 => u % n
      | 1 => (i + n - u % n) % n
      | 2 => (i + u) % n
      | _ => (i ^^^ u) % n
    some (l - i + j)) s

/-- BCAST (R239). -/
def execBcast (x : LaneWord) (s : State) : Out :=
  let n := subSize x
  moveWord x (fun s l =>
    let b := l - l % n
    if x.mode = 0 then some (b + lo64 s.lane.word.ub % 2 ^ 32 % n)
    else ((List.range n).map (b + ·)).find? fun k => (contributors s x).testBit k) s

/-! ## REDUCE and SCAN (R189, R240) -/

/-- One step of a reduction on two values of a type, with its events. -/
def redStep (t op : Nat) (a b : Nat) : Nat × Ev :=
  if isIntTy t then
    let w := tyWidth t
    let r := match op with
      | 0 => truncNat (intVal t a + intVal t b) w
      | 1 => if intVal t b < intVal t a then b else a
      | 2 => if intVal t a < intVal t b then b else a
      | 3 => a &&& b
      | 4 => a ||| b
      | _ => a ^^^ b
    (r, Ev.none)
  else
    let F := fmtOf t
    match op with
    | 0 =>
      let r := roundStep F .rn false false (Val.add false (F.value a) (F.value b))
      (r.1, r.2.or (snanIn t [a, b]))
    | 1 => fMinMax F true a b
    | _ => fMinMax F false a b

/-- The identity of an operation (R189). -/
def redIdentity (t op : Nat) : Nat :=
  if isIntTy t then
    let w := tyWidth t
    match op with
    | 1 => truncNat (maxInt (isSigned t) w) w
    | 2 => truncNat (minInt (isSigned t) w) w
    | 3 => 2 ^ w - 1
    | _ => 0
  else
    let F := fmtOf t
    match op with
    | 0 => F.zero true
    | 1 => F.infBits false
    | _ => F.infBits true

/-- A step on values that carry their events. -/
def redEv (t op : Nat) (a b : Nat × Ev) : Nat × Ev :=
  let r := redStep t op a.1 b.1
  (r.1, (a.2.or b.2).or r.2)

/-- The values that `fold` gives to the positions of a list, in order. -/
def scanFold {α : Type} (f : α → α → α) : α → List α → List α
  | y, [] => [y]
  | y, a :: as => y :: scanFold f (f y a) as

/-- The inputs of a sub-group: contributors' values, and the identity elsewhere. -/
def redInputs (s : State) (x : LaneWord) (b : Nat) : List (Nat × Ev) :=
  let t := x.ty4
  let av := srcA s x (tySpan t)
  let con := contributors s x
  (List.range (subSize x)).map fun i =>
    (if con.testBit (b + i) then av.getD (b + i) 0 % 2 ^ tyWidth t else redIdentity t x.mode, Ev.none)

/-- The results of the sub-groups in lane order, with the events of the steps that are performed (R240). -/
def redResults (s : State) (x : LaneWord) (act : Nat) (scan : Bool) : List (Nat × Ev) :=
  let n := subSize x
  let recv := act &&& memberMask s x
  (List.range (32 / n)).flatMap fun k =>
    let b := n * k
    let ins := redInputs s x b
    let live := (List.range n).filter fun i => recv.testBit (b + i)
    if live.isEmpty then List.replicate n (0, Ev.none)
    else if scan then
      let top := live.foldl max 0
      match ins.take (top + 1) with
      | [] => List.replicate n (0, Ev.none)
      | y :: ys => (scanFold (redEv x.ty4 x.mode) y ys) ++ List.replicate (n - 1 - top) (0, Ev.none)
    else List.replicate n ((treeFold (redEv x.ty4 x.mode) (x.sg + 1) ins).headD (0, Ev.none))

/-- REDUCE and SCAN: omitted receivers write their own A. -/
def reduceBody (x : LaneWord) (scan : Bool) (lat : Nat) (s : State) (act : Nat) : State :=
  let t := x.ty4
  let n := tySpan t
  let av := srcA s x n
  let mem := memberMask s x
  let rs := redResults s x act scan
  let s' := putDest s x.dN n lat act ((List.range 32).map fun l =>
    if mem.testBit l then (rs.getD l (0, Ev.none)).1 else av.getD l 0 % 2 ^ tyWidth t)
  aelLane s' (rs.foldl (fun e r => e.or r.2) Ev.none)

def redLat (t : Nat) (scan : Bool) : Nat :=
  if !isIntTy t then (if scan then 14 else 10) else if tyWidth t = 64 then 8 else 6

/-- Float reductions pay the floating-point class price; the others are free (R237). -/
def reduceWord (x : LaneWord) (scan : Bool) : State → Out :=
  if isIntTy x.ty4 then freeWordAct x (reduceBody x scan (redLat x.ty4 scan))
  else pricedWord 1 x (reduceBody x scan (redLat x.ty4 scan))

def execReduce (x : LaneWord) (s : State) : Out := reduceWord x false s
def execScan (x : LaneWord) (s : State) : Out := reduceWord x true s

/-! ## BALLOT, VOTE, UNI (R241, R242, R356) -/

def execBallot (x : LaneWord) (s : State) : Out :=
  let n := subSize x
  freeWordAct x (fun s act =>
    let p := predMask s x.aN
    let mem := memberMask s x
    let on := contributors s x &&& p
    putDest s x.dN 1 3 act ((List.range 32).map fun l =>
      if mem.testBit l then on / 2 ^ (l - l % n) % 2 ^ n else b2n (p.testBit l))) s

/-- VOTE: the counted lanes of this group join the entry; in a replay it is skipped (R246). -/
def execVote (x : LaneWord) (s : State) : Out :=
  freeWordAct x (fun s act =>
    if s.lane.replay then s
    else
      let p := predMask s x.aN
      let cnt := act &&& memberMask s x
      let me := (laneMember s, s.lane.slot)
      let upd (v : VoteEnt) : VoteEnt :=
        if v.str = s.lane.str ∧ v.seq = s.lane.word.seq then
          { v with ones := v.ones + popCount 32 (cnt &&& p), zeros := v.zeros + popCount 32 (cnt &&& (p ^^^ allLanes))
                   need := v.need.filter fun q => !decide (q = me) }
        else v
      s.modThr s.lane.tid fun t => { t with votes := t.votes.map upd }) s

/-- UNI: the active lanes of this group join what the register waits for; in a replay it is skipped (R426). -/
def execUni (x : LaneWord) (s : State) : Out :=
  freeWordAct x (fun s act =>
    if s.lane.replay then s
    else
      let av := srcA s x (tySpan x.ty4)
      let m := laneMember s
      let mine := (setBits 32 act).map fun l => (m, s.lane.slot, l, av.getD l 0)
      let upd (o : OutReg) : OutReg :=
        match o.pend with
        | .uni str seq w all need seen =>
          if str = s.lane.str ∧ seq = s.lane.word.seq ∧ o.reg = x.dN - 192 then
            { o with pend := .uni str seq w all (need.filter fun q => !decide (q = (m, s.lane.slot))) (seen ++ mine) }
          else o
        | _ => o
      s.modThr s.lane.tid fun t => { t with out := t.out.map upd }) s

/-! ## REGROUP (R244, R245) -/

/-- An active position with its target, as (slot, lane) pairs; none where A breaks R244. -/
def regroupTarget (slots : List Nat) (groups a : Nat) : Option (Nat × Nat) :=
  if decide (a / 4096 ≠ 0) || decide (fld a 7 5 ≠ 0) || decide (slots.length ≤ fld a 11 8) || decide (groups = 0) then none
  else some (slots.getD (fld a 11 8) 0, a % 32)

/-- The moves of a well-formed REGROUP: pairs of source and target positions (R244, R245). -/
def regroupMoves (s : State) (fid m : Nat) (slots : List Nat) (src : List ((Nat × Nat) × Nat)) :
    Option (List ((Nat × Nat) × (Nat × Nat))) :=
  let ts := src.map fun e => (e.1, regroupTarget slots 1 e.2)
  if ts.any fun e => e.2.isNone then none
  else
    let mv := ts.map fun e => (e.1, e.2.getD (0, 0))
    let S := mv.map (·.1)
    let T := mv.map (·.2)
    let key (p : Nat × Nat) : Nat := p.1 * 32 + p.2
    let xs := sortBy key (T.filter (· ∉ S))
    let ys := sortBy key (S.filter (· ∉ T))
    let parked (p : Nat × Nat) : Bool := (s.grp fid m p.1).park.testBit p.2
    let exited (p : Nat × Nat) : Bool := (s.grp fid m p.1).exit.testBit p.2
    if decide (¬ T.Nodup) || (xs.any fun p => !exited p) || (S.any parked) || (T.any parked) then none
    else some (mv ++ xs.zip ys)

/-- The state of one lane position (R244): v registers, predicates, and its bits of EXMASK and EXITMASK. -/
def moveLane (old : State) (fid m : Nat) (s : State) (mv : (Nat × Nat) × (Nat × Nat)) : State :=
  let src := old.grp fid m mv.1.1
  let l := mv.1.2
  let k := mv.2.2
  let putBit (v : Nat) (b : Bool) : Nat := (v &&& (2 ^ k ^^^ allLanes)) ||| (b2n b * 2 ^ k)
  s.modGrp fid m mv.2.1 fun g =>
    let regs := ((src.v.map (·.1)) ++ (g.v.map (·.1))).dedup
    let preds := ((src.p.map (·.1)) ++ (g.p.map (·.1))).dedup
    let g := regs.foldl (fun g r => g.setLane r k (src.laneOf r l)) g
    let g := preds.foldl (fun g p => { g with p := g.p.set p (putBit (g.p.get p 0) ((src.p.get p 0).testBit l)) }) g
    { g with ex := putBit g.ex (src.ex.testBit l), exit := putBit g.exit (src.exit.testBit l) }

/-- A lane-counted slot after the moves of a REGROUP on a member: the arrived bits of SCOPE go with their lanes
(R368). -/
def moveArrived (m : Nat) (mv : List ((Nat × Nat) × (Nat × Nat))) (b : BarSlot) : BarSlot :=
  let within (slot : Nat) : Bool := b.scope.any fun e => decide (e.1 = m) && e.2.testBit slot
  { b with arrived := mv.foldl (init := b.arrived) fun a p =>
      if within p.2.1 then
        a.set (m, p.2.1) ((a.get (m, p.2.1) 0 &&& (2 ^ p.2.2 ^^^ allLanes))
          ||| (b2n (within p.1.1 && (b.arrived.get (m, p.1.1) 0).testBit p.1.2) * 2 ^ p.2.2))
      else a }

/-- The moves of a REGROUP made: lane state, and arrived bits. -/
def moveLanes (s : State) (fid m : Nat) (mv : List ((Nat × Nat) × (Nat × Nat))) : State :=
  (mv.foldl (moveLane s fid m) s).modFlk fid fun f =>
    { f with bars := f.bars.mapVals fun _ b => if b.used && decide (b.kind = 1) then moveArrived m mv b else b }

/-- What R245 waits for: every earlier run on the bound slots has ended, with its accesses and its fixed-latency writes, and no
result is outstanding to a lane at the positions named. The groups of a REGROUP's own run do not wait for one another. -/
def regroupReady (s : State) (slots : List Nat) (ps : List (Nat × Nat)) : Bool :=
  let fid := s.lane.tid.fid
  let m := laneMember s
  let c := s.clu s.lane.pid
  let idx := ((laneRun s).map (·.run.idx)).getD 0
  let mine (p : PipeRun) : Bool := decide (p.tid = s.lane.tid) && decide (p.str = s.lane.str)
  let earlier (o : MemOp) : Bool := decide (o.tid.fid = fid) && decide (o.pid = s.lane.pid) && o.made.isNone && o.str.any fun n =>
    slots.contains o.slot && (!(decide (o.tid = s.lane.tid) && decide (n = s.lane.str)) || decide (o.seq < firstSeq s))
  (slots.all fun sl => decide (idx ≤ (strOf s s.lane.tid s.lane.str).prog.get (m, sl) 0)
      && decide ((s.grp fid m sl).fixEnd ≤ s.now))
    && !((c.pipes.map (·.2) ++ c.cuts).any fun p => decide (p.tid.fid = fid) && slots.contains p.slot && !(mine p && decide (p.run.idx = idx)))
    && !(s.ops.any earlier)
    && ps.all fun p => (s.grp fid m p.1).out.all fun o => !o.lanes.testBit p.2

/-- The MASK.WRs that a REGROUP has held back on the slots of a member take effect (R245, R358). -/
def masksAfter (s : State) (fid m : Nat) (slots : List Nat) : State :=
  s.threads.foldl (init := s) fun s t => if t.1.fid ≠ fid then s
    else t.2.streams.foldl (init := s) fun s e => slots.foldl (init := s) fun s sl => applyMasks s t.1 e.1 (m, sl)

/-- REGROUP (R245): the wait holds the word on every group; an earlier group records its active lanes and their targets, and
the last one makes the moves of its cluster. -/
def execRegroup (x : LaneWord) (s : State) : Out :=
  let act := activeMask s x
  let a := (srcA s x 1).flatMap fun v => leBytes 4 v
  let c := cissueNext s act
  let c := { c with inputs := c.inputs ++ a }
  let fid := s.lane.tid.fid
  let m := laneMember s
  let slots := setBits 16 (strOf s s.lane.tid s.lane.str).gmask
  let src := (c.masks.zip (List.range 16)).flatMap fun e =>
    (setBits 32 e.1.2).map fun l => ((e.1.1, l), leNat ((c.inputs.drop (128 * e.2 + 4 * l)).take 4))
  let targets := src.filterMap fun e => regroupTarget slots 1 e.2
  if s.lane.replay then .next (issued s x act true)
  else if !regroupReady s slots ((setBits 32 act).map fun l => (s.lane.slot, l))
      || (c.done && !regroupReady s slots (src.map (·.1) ++ targets)) then holdWord s
  else if !c.done then .next (issued (setCissue s c) x act false)
  else
    let s' := match regroupMoves s fid m slots src with
      | some mv => moveLanes s fid m mv
      | none => raiseOnce s .regroup
    .next (issued (masksAfter (dropCissue s') fid m slots) x act true)

end Sys2Proof.Machine
end

