-- ==== Sys2Proof/Machine/LaneMem.lean ====
section
/-! DEFINITION. Lane memory words: LD, ST, LDT, LDB, ATOM, RED, LFENCE and the stash words (R144 to R167, R288 to
R293, R309 to R313), and the parking of faulting lanes (R424). -/

namespace Sys2Proof.Machine

/-! ## Parking (R424) -/

/-- One lane's column of the run temporaries copied from one set to another. -/
def copyTemps (src dst : List (List (Option Word32))) (mask : Nat) : List (List (Option Word32)) :=
  (List.range 8).map fun k => (List.range 32).map fun l =>
    if mask.testBit l then (src.getD k []).getD l none else (dst.getD k []).getD l none

/-- A lane memory record (KIND 1, R430). -/
def laneRecord (x : EWord) (cause : Cause) (slot faddr done parked mixed pos t str pid : Nat) : List Byte :=
  recHead cause.code 1 slot x.seq ++ leBytes 8 faddr ++ leBytes 4 done ++ leBytes 4 parked ++ leBytes 4 mixed
    ++ leBytes 1 pos ++ leBytes 1 (t * 4 + str % 4) ++ leBytes 2 pid ++ leBytes 8 x.w.toNat ++ leBytes 8 (lo64 x.ua)

/-- The index of a word in its run: a replay counts from the record's first word. -/
def runPos (s : State) (pos : Nat) : Nat :=
  if s.lane.replay then pos + ((laneGrp s).prec.map (·.base)).getD 0 else pos

/-- A park record reached back to an earlier word of its run, whose fault was found late (R428). -/
def reachBack (r : ParkRec) (pos : Nat) (past : List (EWord × Nat × Bool)) : ParkRec :=
  if r.base ≤ pos then r
  else
    { r with
      base := pos
      words := past.take (r.base - pos) ++ r.words
      resume := r.resume.mapVals fun _ k => k + (r.base - pos)
      since := r.since.mapVals fun _ k => k + (r.base - pos) }

/-- Faulting lanes of a word leave EXMASK for PARKMASK, a record is written, and the slot takes or extends its
park record (R424). `faults` holds lane, cause and address, lowest lane first. -/
def parkLanes (s : State) (x : EWord) (pos done : Nat) (faults : List (Nat × Cause × Nat)) : State :=
  match faults with
  | [] => s
  | (_, cause, faddr) :: _ =>
    let mask := faults.foldl (fun acc f => acc ||| 2 ^ f.1) 0
    let mixed := faults.foldl (fun acc f => if f.2.1 = cause then acc else acc ||| 2 ^ f.1) 0
    let tid := s.lane.tid
    let (s, va, after) := faultRecord s (s.ctxOf tid) s.lane.pid
      (laneRecord x cause s.lane.slot faddr done mask mixed (runPos s pos) tid.t s.lane.str s.lane.pid)
    let temps := ((laneRun s).map (·.w)).getD []
    if s.lane.replay then
      let upd (r : ParkRec) : ParkRec :=
        { r with resume := faults.foldl (fun t f => t.set f.1 pos) r.resume, w := copyTemps temps r.w mask }
      modLaneRun (modLaneGrp s fun g => { g with prec := g.prec.map upd }) fun p =>
        { p with faultRec := some ((p.faultRec.map (·.1)).getD va, max ((p.faultRec.map (·.2)).getD 0) after), lost := p.lost ||| mask }
    else
      let run := laneRun s
      let idx := ((run.map (·.run.idx)).getD 0)
      let here := ((run.map (·.pos)).getD 0)
      let words := ((run.map (·.run.words)).getD [])
      let acts := ((run.map (·.acts)).getD [])
      -- the words from the first faulting one that have issued, with their active sets
      let past := (((words.zip acts).take here).drop pos).map fun e => (e.1, e.2.1, e.2.2)
      let fresh : ParkRec :=
        { tid := tid, str := s.lane.str, first := firstSeq s, base := pos, words := past, resume := [], since := []
          trl := (run.map (·.run.trl)).getD 0, w := [], replaying := false, queued := 0 }
      let s := modLaneGrp s fun g =>
        let r := reachBack (g.prec.getD fresh) pos past
        let r := { r with
          resume := faults.foldl (fun t f => t.set f.1 (pos - r.base)) r.resume
          since := faults.foldl (fun t f => t.set f.1 (here - r.base)) r.since
          w := copyTemps temps r.w mask }
        { g with ex := g.ex &&& (mask ^^^ allLanes), park := g.park ||| mask, prec := some r }
      modStr s tid s.lane.str fun st =>
        if st.parked.any fun e => decide (e.1 = idx)
        then { st with parked := st.parked.map fun e => if e.1 = idx then (e.1, e.2.1, max e.2.2 after) else e }
        else { st with parked := st.parked ++ [(idx, va, after)] }

/-! ## Addresses (R146, R147, R482) -/

/-- The 64-bit address of a lane: a VA, or a local address in the form of R122. -/
def laneAddr (s : State) (off : Int) : Nat := truncNat ((lo64 s.lane.word.ua : Int) + off) 64

/-- The member whose SRAM a LOCAL access reaches. -/
def localTarget (s : State) : Nat :=
  let a := lo64 s.lane.word.ua
  if a.testBit 63 then laneMember s else fld a 59 56
/-- o(l): exact, and it may be negative. -/
def localOff (s : State) (off : Int) : Int := (lo64 s.lane.word.ua % 2 ^ 25 : Nat) + off

/-- A range cut at sector boundaries: (distance from the start, length). -/
def cutSectors (a : Nat) : Nat → Nat → Nat → List (Nat × Nat)
  | 0, _, _ => []
  | fuel + 1, d, n =>
    if n = 0 then []
    else
      let k := min n (32 - (a + d) % 32)
      (d, k) :: cutSectors a fuel (d + k) (n - k)

/-- The place of a LOCAL piece. The first touch of an unfilled stash sector translates it, and so does every write: a
write by local offset counts as a store (R79, R159). -/
def localPlace (s : State) (m off : Nat) (acc : Acc) : State × Except Cause Place :=
  let fid := s.lane.tid.fid
  match stashOff s fid m off with
  | none => (s, .ok (.loc m off 0 0 false))
  | some e =>
    let va := e.va + (off - e.off)
    match e.paAt (e.secAt off), acc.writes with
    | some pa, false => (s, .ok (.loc m off va (pa + off % 32) true))
    | kept, _ => match translate s (s.pidOf fid m) (s.flk fid).ctx va (stashAcc e (e.secAt off) acc) with
      | (s, .error c) => (s, .error c)
      | (s, .ok pa) => (s, .ok (.loc m off va ((kept.map fun p => p + off % 32).getD pa) true))

/-- The pieces of one lane's access of `n` bytes aligned to `al`, or its fault (R147, R293, R482). -/
def lanePieces (s : State) (x : LaneWord) (acc : Acc) (off : Int) (n al : Nat) :
    State × Except Cause (List (Nat × Nat × Place)) :=
  let fid := s.lane.tid.fid
  let ctx := (s.flk fid).ctx
  if x.space = 1 then
    let m := localTarget s
    let o := localOff s off
    let peer := decide (m ≠ laneMember s)
    let top : Int := if peer || decide (acc = .atomic) then s.accBase fid else s.declared fid
    if o % (al : Int) ≠ 0 then (s, .error .align)
    else if decide (o < 0) || decide (top < o + (n : Int)) then (s, .error .localrange)
    else (cutSectors o.toNat (n + 1) 0 n).foldl (init := (s, .ok [])) fun (s, r) p =>
      match r with
      | .error c => (s, .error c)
      | .ok ps => match localPlace s m (o.toNat + p.1) acc with
        | (s, .error c) => (s, .error c)
        | (s, .ok q) => (s, .ok (ps ++ [(p.1, p.2, q)]))
  else
    let va := laneAddr s off
    if va % al ≠ 0 then (s, .error .align)
    else (cutSectors va (n + 1) 0 n).foldl (init := (s, .ok [])) fun (s, r) p =>
      match r with
      | .error c => (s, .error c)
      | .ok ps => match translate s s.lane.pid ctx ((va + p.1) % 2 ^ 64) (globalAcc s s.lane.pid ((va + p.1) % 2 ^ 64) acc) with
        | (s, .error c) => (s, .error c)
        | (s, .ok pa) => (s, .ok (ps ++ [(p.1, p.2, .glob ((va + p.1) % 2 ^ 64) pa)]))

/-! ## Fences and holds of a stream on a cluster (R310, R311, R166) -/

/-- The accesses of the stream in focus on this cluster, those of its earlier binding among them (stream n + 4). -/
def streamOps (s : State) : List MemOp :=
  s.ops.filter fun o => decide (o.tid = s.lane.tid) && decide (o.str.map (· % 4) = some (s.lane.str % 4)) && decide (o.pid = s.lane.pid)

/-- Those that come before a sequence number. -/
def opsBefore (s : State) (seq : Nat) : List MemOp :=
  (streamOps s).filter fun o => decide (o.str ≠ some s.lane.str) || decide (o.seq < seq)

/-- Every earlier lane memory word of the stream has issued on every bound group of this member. -/
def memIssuedBelow (s : State) : Bool :=
  let t := s.lane.tid
  let m := laneMember s
  let clear (n : Nat) (late : EWord → Bool) : Bool := (setBits 16 (strOf s t n).gmask).all fun j =>
    (leftOf s t n (m, j)).all fun w => late w || !isMemOp w.op
  clear s.lane.str (fun w => decide (s.lane.word.seq ≤ w.seq)) && clear (s.lane.str + 4) fun _ => false

/-- The horizons of the stream on this cluster: of its binding, and of the one before. -/
def laneHor (s : State) : Horizon :=
  let hor (n : Nat) : Horizon := (strOf s s.lane.tid n).hor.get (laneMember s) Horizon.zero
  (hor s.lane.str).sup (hor (s.lane.str + 4))

/-- The release of R310 at a scope, for the stream in focus on this cluster. -/
def releaseLane (s : State) (sc : Nat) : Bool :=
  memIssuedBelow s && !((opsBefore s s.lane.word.seq).any fun o => o.deed.writes) && passed s ((laneHor s).rel sc)

/-- The acquire of R310 may be made: every earlier read has returned. -/
def acquireLane (s : State) : Bool :=
  memIssuedBelow s && !((opsBefore s s.lane.word.seq).any readOwed)

/-- The acquiring word of a sequence number has issued on every bound group of this member, and its reads and all that
come before it have returned (R310, R311). -/
def acqReturned (s : State) (seq : Nat) : Bool :=
  let t := s.lane.tid
  let n := s.lane.str
  ((setBits 16 (strOf s t n).gmask).all fun j => (stillToIssue s t n (laneMember s) j).all fun w =>
      decide (seq < w.seq) || !isMemOp w.op)
    && !((opsBefore s (seq + 1)).any readOwed)

/-- The acquires of one binding's words that are ready are made: at .quad or wider, older L1 sectors go. -/
def makeAcqs (s : State) (n : Nat) (ready : Nat → Bool) : State :=
  let m := laneMember s
  let done := (strOf s s.lane.tid n).acqs.filter fun a => decide (a.1 = m) && ready a.2.1
  if done.isEmpty then s
  else
    let s := done.foldl (fun s a => if 2 ≤ a.2.2.1 then l1Invalidate s s.lane.pid a.2.2.2 else s) s
    modStr s s.lane.tid n fun st => { st with acqs := st.acqs.filter fun a => !done.contains a }

/-- The acquires of words whose reads have returned are made (R311): those of an earlier binding, whose words have all issued,
and those of this one. -/
def settleAcqs (s : State) : State :=
  let old := s.lane.str + 4
  let owed := (streamOps s).any fun o => decide (o.str = some old) && readOwed o
  makeAcqs (makeAcqs s old fun _ => !owed) s.lane.str (acqReturned s)

/-- Later lane memory words wait for the acquire of an acquiring word (R310, R311), and for an LFENCE or a stash word
that this group has issued and the cluster has not made yet (R163, R310, R483; DEDUCED, log 28). -/
def orderHeld (s : State) : Bool :=
  let st := strOf s s.lane.tid s.lane.str
  let m := laneMember s
  let own (op : Nat) : Bool := decide (op = 0x286) || isStashOp op
  (st.acqs.any fun a => decide (a.1 = m) && decide (a.2.1 < s.lane.word.seq))
    || ((strOf s s.lane.tid (s.lane.str + 4)).acqs.any fun a => decide (a.1 = m))
    || st.cissue.any fun c => decide (c.1.1 = m) && c.2.slots.testBit s.lane.slot && decide (c.1.2 < s.lane.word.seq)
      && st.runs.any fun r => r.words.any fun w => decide (w.seq = c.1.2) && own w.op

/-- Tiles of the accumulator window that a range touches (R165). -/
def tilesOf (s : State) (off n : Nat) : List Nat :=
  let b := s.accBase s.lane.tid.fid
  if off + n ≤ b then [] else
    let lo := (off - b) / 65536
    (List.range ((off + n - 1 - b) / 65536 + 1 - lo)).map (lo + ·)

/-- A matrix instruction to a tile has entered the engine and has not retired (R166). -/
def tileBusy (s : State) (fid pid t : Nat) : Bool :=
  ((s.clu pid).mq ++ (s.clu pid).array).any fun e => decide (e.tid.fid = fid) && decide (e.word.op ≤ 0x30A) && decide (e.word.x.tile = t)

/-- Lane after matrix (R166). -/
def tileHeld (s : State) (x : LaneWord) (act n : Nat) (offs : List Int) : Bool :=
  decide (x.space = 1) && decide (localTarget s = laneMember s)
    && (setBits 32 act).any fun l => decide (0 ≤ localOff s (offs.getD l 0)) && (tilesOf s (localOff s (offs.getD l 0)).toNat n).any fun t =>
      tileBusy s s.lane.tid.fid s.lane.pid t

/-! ## The common path -/

/-- What a lane memory word asks for: bytes of a lane's access, its alignment, whether the offset is scaled,
whether one access serves the group, what each piece does, where its result goes (lane, distance and the
mask of receivers), the destination that waits, whether every receiver waits for every lane's access, and its scope. -/
structure MemReq where
  acc : Acc
  n : Nat
  al : Nat
  scaled : Bool
  single : Bool
  deed : Nat → Deed
  dest : Nat → Nat → Nat → Dest
  outReg : Nat
  outSpan : Nat
  all : Bool
  scope : Nat

/-- One lane's pieces pushed as accesses. -/
def pushPieces (s : State) (x : LaneWord) (r : MemReq) (recv lane : Nat) (ps : List (Nat × Nat × Place)) : State :=
  ps.foldl (init := s) fun s p =>
    let o : MemOp :=
      { id := s.nextId, tid := s.lane.tid, ctx := s.ctxOf s.lane.tid, pid := s.lane.pid, str := some s.lane.str
        bind := if s.lane.str < 4 then (strOf s s.lane.tid s.lane.str).bind else s.lane.word.seq / 2 ^ 32, seq := s.lane.word.seq, pos := ((laneRun s).map (·.pos)).getD 0, slot := s.lane.slot, lane := lane
        place := p.2.2, n := p.2.1, deed := r.deed lane, dest := r.dest lane p.1 recv, pri := x.pri, na := x.na
        scope := r.scope, acq := decide (x.order % 2 = 1), made := none, word := s.lane.word, alt := [], gw := none, got := none }
    pushOp (askFill s o) o

/-- The lanes that receive the fields of an LDT: those active, and in a replay every lane that was active
when the word first issued and has not faulted again (R151; DEDUCED, log 44). -/
def receivers (s : State) (act bad : Nat) : Nat :=
  if s.lane.replay then
    let pos := ((laneRun s).map (·.pos)).getD 0
    let lost := ((laneRun s).map (·.lost)).getD 0
    let first := (((laneGrp s).prec.bind fun r => r.words[pos]?).map (·.2.1)).getD 0
    (first ||| act) &&& ((lost ||| bad) ^^^ allLanes)
  else act

/-- An acquiring word that has issued on a group, with or without an active lane there: its acquire is to be made on the
cluster (R311). -/
def noteAcq (s : State) (sc : Nat) : State :=
  let m := laneMember s
  let seq := s.lane.word.seq
  modStr s s.lane.tid s.lane.str fun st =>
    if st.acqs.any fun a => decide (a.1 = m) && decide (a.2.1 = seq) then st else { st with acqs := st.acqs ++ [(m, seq, sc, 0)] }

/-- A lane memory word on its group (R147 to R151, R292): holds, payment, then each active lane's access, or
its park. -/
def memWord (x : LaneWord) (req : State → MemReq) (s : State) : Out :=
  let s := settleAcqs s
  let act := activeMask s x
  let r := req s
  let lanes := if r.single then (setBits 32 act).take 1 else setBits 32 act
  let offs := if r.single then List.replicate 32 0 else (srcB s x 1).map fun b => laneOff x r.scaled b
  if orderHeld s || (decide (2 ≤ x.order) && !releaseLane s r.scope) || tileHeld s x act r.n offs then holdWord s
  else match payLane s 2 act with
  | (s, false) => holdWord s
  | (s, true) =>
    let (s, good, bad) := lanes.foldl (init := (s, [], [])) fun (s, good, bad) l =>
      match lanePieces s x r.acc (offs.getD l 0) r.n r.al with
      | (s, .ok ps) => (s, good ++ [(l, ps)], bad)
      | (s, .error c) => (s, good, bad ++ [(l, c, laneAddr s (offs.getD l 0))])
    let bad := if r.single then bad.flatMap fun b => (setBits 32 act).map fun l => (l, b.2) else bad
    let badMask := bad.foldl (fun acc b => acc ||| 2 ^ b.1) 0
    let recv := receivers s act badMask
    let s := good.foldl (fun s g => pushPieces s x r recv g.1 g.2) s
    let s := if x.order % 2 = 1 then noteAcq s r.scope else s
    let done := act &&& (badMask ^^^ allLanes)
    let waits := if good.isEmpty then 0 else if r.all then recv else done
    let s := if r.outSpan = 0 then s else noteOut s r.outReg r.outSpan waits
    let s := parkLanes s s.lane.word (((laneRun s).map (·.pos)).getD 0) done bad
    .next (issued s x act true)

/-! ## LD, ST, LDT, LDB (R148 to R151) -/

/-- The scope of a word: the scope field has no effect on LOCAL accesses of these words, which order as at .cl (R144; DEDUCED,
log 125). -/
def memScope (x : LaneWord) : Nat := if x.space = 1 then 0 else x.scope

def execLd (x : LaneWord) (s : State) : Out :=
  let n := widthBytes x.width
  memWord x (fun s =>
    { acc := .load, n := n, al := n, scaled := x.scale, single := false, deed := fun _ => .load
      dest := fun l _ _ => .lane s.lane.slot l x.dN x.width, outReg := x.dN, outSpan := LaneWord.wSpan x.width, all := false, scope := memScope x }) s

def execSt (x : LaneWord) (s : State) : Out :=
  let n := widthBytes x.width
  memWord x (fun s =>
    let data := srcD s x (LaneWord.wSpan x.width)
    { acc := .store, n := n, al := n, scaled := x.scale, single := false
      deed := fun l => .store (data.getD l 0 % 2 ^ (8 * n)), dest := fun _ _ _ => .none, outReg := 0, outSpan := 0, all := false, scope := memScope x }) s

/-- LDT: lane l supplies row l of 32 elements. -/
def execLdt (x : LaneWord) (s : State) : Out :=
  let e := widthBytes x.width
  memWord x (fun s =>
    { acc := .load, n := 32 * e, al := e, scaled := x.scale, single := false, deed := fun _ => .load
      dest := fun l d recv => .tile s.lane.slot recv x.dN e l d, outReg := x.dN, outSpan := 8 * e, all := true, scope := memScope x }) s

def execLdb (x : LaneWord) (s : State) : Out :=
  let n := widthBytes x.width
  let act := activeMask s x
  memWord x (fun s =>
    { acc := .load, n := n, al := n, scaled := false, single := true, deed := fun _ => .load
      dest := fun _ _ _ => .bcast s.lane.slot act x.dN x.width, outReg := x.dN, outSpan := LaneWord.wSpan x.width, all := false, scope := memScope x }) s

/-! ## ATOM and RED (R288 to R293, R296) -/

/-- The operand of an atomic in each lane: value, and for cas the compared value in the lower half. -/
def atomOperands (s : State) (x : LaneWord) : Nat → Nat × Nat :=
  let n := widthBytes x.width
  let d := srcD s x (LaneWord.atomSpan x)
  fun l =>
    let v := d.getD l 0
    if x.atomOp = 10 then (v / 2 ^ (8 * n), v % 2 ^ (8 * n)) else (v % 2 ^ (8 * n), 0)

def execAtom (x : LaneWord) (s : State) : Out :=
  let n := widthBytes x.width
  memWord x (fun s =>
    let ops := atomOperands s x
    { acc := .atomic, n := n, al := n, scaled := false, single := false
      deed := fun l => .atomic x.atomOp (ops l).1 (ops l).2 false
      dest := fun l _ _ => .lane s.lane.slot l x.dN x.width, outReg := x.dN, outSpan := LaneWord.atomSpan x, all := false, scope := x.scope }) s

/-- A RED may gather where R296 allows it; that is decided as it performs. -/
def execRed (x : LaneWord) (s : State) : Out :=
  let n := widthBytes x.width
  memWord x (fun s =>
    let ops := atomOperands s x
    { acc := .atomic, n := n, al := n, scaled := false, single := false
      deed := fun l => .atomic x.atomOp (ops l).1 (ops l).2 (decide (x.space = 0))
      dest := fun _ _ _ => .none, outReg := 0, outSpan := 0, all := false, scope := x.scope }) s

/-! ## LFENCE (R309, R310) -/

/-- LFENCEs with a release that groups of this member have issued and the cluster has not made, below a sequence number. -/
def fenceOpen (s : State) (slot seq : Nat) : Bool :=
  let st := strOf s s.lane.tid s.lane.str
  st.cissue.any fun c => decide (c.1.1 = laneMember s) && c.2.slots.testBit slot && decide (c.1.2 < seq) && decide (c.1.2 ≠ s.lane.word.seq)
    && st.runs.any fun r => r.words.any fun w => decide (w.seq = c.1.2) && decide (w.op = 0x286) && decide (2 ≤ w.x.order)

/-- The lanes that LARRs have brought behind the LFENCE in focus arrive, now that it is made (R310, R315, R377; DEDUCED,
log 126). -/
def arriveOwed (s : State) : State :=
  let ready (a : Nat × Nat × Nat × Nat × Nat) : Bool := decide (a.1 = laneMember s) && !fenceOpen s a.2.1 a.2.2.1
  let as_ := (strOf s s.lane.tid s.lane.str).owedArr.filter ready
  let s := as_.foldl (init := s) fun s a => match handleCheck s s.lane.tid.fid a.2.2.2.1 (fun _ => true) with
    | .ok _ => addLanes s s.lane.tid a.2.2.2.1 a.1 a.2.1 a.2.2.2.2
    | .error _ => s
  if as_.isEmpty then s else modStr s s.lane.tid s.lane.str fun st => { st with owedArr := st.owedArr.filter fun a => !ready a }

def execLfence (x : LaneWord) (s : State) : Out :=
  onceWord x (fun s _ =>
    let rel := decide (2 ≤ x.order)
    let acq := decide (x.order % 2 = 1)
    if (rel && !releaseLane s x.scope) || (acq && !acquireLane s) then (s, false)
    else
      (arriveOwed (if acq && decide (2 ≤ x.scope) then l1Invalidate s s.lane.pid (laneHor s).acq else s), true)) s

/-! ## STASH.MAP, STASH.FLUSH, STASH.DROP (R161 to R163) -/

/-- A write-back of the word in focus joins the release horizon of its stream at the word's scope (R163), and that of every
stage operation that covers the word (R381). -/
def noteBack (s : State) (scope : Nat) (g : Gwct) : State :=
  let s := modStr s s.lane.tid s.lane.str fun st =>
    { st with hor := st.hor.set (laneMember s) ((st.hor.get (laneMember s) Horizon.zero).addWrite g scope) }
  let covers (d : Deferred) : Bool := d.marks.any fun m => decide (m.str = s.lane.str) && decide (s.lane.word.seq < m.seq)
  s.modThr s.lane.tid fun x => { x with
    deferred := x.deferred.map fun d => if covers d then { d with hor := d.hor.addWrite g scope } else d }

/-- Sectors of an entry, by number. -/
def sectorsOf (e : StashEnt) : List Nat := List.range (e.len / 32)

/-- The priority and no-allocate bit of a stash word's write-backs (R162). -/
def backHint (x : LaneWord) : BackHint := ⟨x.pri, x.na, false⟩

/-- Every listed sector of an entry emptied, dirty ones written back. -/
def emptyEntry (s : State) (x : LaneWord) (e : StashEnt) : State :=
  (e.sectors.map (·.1)).foldl (init := s) fun s k =>
    match (s.clu s.lane.pid).stash.find? fun f => decide (f.va = e.va) with
    | none => s
    | some f => match evictSector s s.lane.pid (backHint x) f k with
      | (s, some g) => noteBack s x.scope g
      | (s, none) => s

/-- A DIRTY sector written back and left CLEAN (R163). -/
def flushSector (s : State) (x : LaneWord) (e : StashEnt) (k : Nat) : State :=
  match e.st k with
  | .dirty pa ot t =>
    let (s, g) := writeBack s s.lane.pid (backHint x) e k pa t
    noteBack (setSector s s.lane.pid e.va k (.clean pa ot)) x.scope g
  | _ => s

/-- The stash words act once per cluster, where some bound group has an active lane; they follow the stream's
earlier accesses there (R152, R483). -/
def stashWord (x : LaneWord) (go : State → State) : State → Out :=
  onceWord x fun s c =>
    let s := settleAcqs s
    if !c.active then (s, true)
    else if (streamOps s).any (fun o => o.made.isNone) || orderHeld s then (s, false)
    else match payOnce s with
    | (s, false) => (s, false)
    | (s, true) => (go s, true)

def execStashMap (x : LaneWord) (s : State) : Out :=
  stashWord x (fun s =>
    let va := lo64 s.lane.word.ua
    let off := lo64 s.lane.word.ub
    let len := lo64 s.lane.word.uc
    let fid := s.lane.tid.fid
    let m := laneMember s
    let es := (s.clu s.lane.pid).stash
    let hit (e : StashEnt) : Bool := rangesMeet e.va e.len va len
      || (decide (e.fid = fid) && decide (e.clu = m) && rangesMeet e.off e.len off len)
    if 64 < es.length - (es.filter hit).length + 1 then raiseOnce s .stashfull
    else
      let s := (es.filter hit).foldl (fun s e => emptyEntry s x e) s
      s.modClu s.lane.pid fun c => { c with stash := (c.stash.filter fun e => !hit e) ++ [⟨fid, m, va, len, off, []⟩] }) s

/-- The listed sectors of every entry that lie within the named range, each as the sectors before it have left it. -/
def stashRange (s : State) (f : State → StashEnt → Nat → State) : State :=
  let va := lo64 s.lane.word.ua
  let len := lo64 s.lane.word.uc
  (s.clu s.lane.pid).stash.foldl (init := s) fun s e =>
    (e.sectors.map (·.1)).foldl (init := s) fun s k =>
      match (s.clu s.lane.pid).stash.find? fun g => decide (g.va = e.va) with
      | none => s
      | some g => if va ≤ g.va + 32 * k ∧ g.va + 32 * k < va + len then f s g k else s

def execStashFlush (x : LaneWord) (s : State) : Out :=
  stashWord x (fun s => stashRange s fun s e k => flushSector s x e k) s

def execStashDrop (x : LaneWord) (s : State) : Out :=
  stashWord x (fun s => stashRange s fun s e k =>
    match evictSector s s.lane.pid (backHint x) e k with
    | (s, some g) => noteBack s x.scope g
    | (s, none) => s) s

end Sys2Proof.Machine
end

