-- ==== Sys2Proof/Machine/Copy.lean ====
section
/-! DEFINITION. The copy engine: the copy words at their cluster issue (R119, R120, R130 to R136, R347), chunks
(R125 to R129, R141), faults and CQCTL (R137 to R139). -/

namespace Sys2Proof.Machine

def copyQ (s : State) (pid q : Nat) : CopyQ := (s.clu pid).cq.get q CopyQ.empty
def setCopyQ (s : State) (pid q : Nat) (x : CopyQ) : State := s.modClu pid fun c => { c with cq := c.cq.set q x }
def modHead (s : State) (pid q : Nat) (f : CopyEnt → CopyEnt) : State :=
  let x := copyQ s pid q
  match x.ents with
  | [] => s
  | e :: es => setCopyQ s pid q { x with ents := f e :: es }

/-! ## Entering a queue (R119, R136, R347) -/

/-- The queues that a copy word enters. -/
def queuesOf (x : LaneWord) (op : Nat) : List Nat := if op = 0x305 then setBits 4 x.cN else [x.queue]
def copyFull (s : State) (pid : Nat) (qs : List Nat) : Bool := qs.any fun q => decide (32 ≤ (copyQ s pid q).ents.length)

/-- A copy word at its cluster issue: refused where some group's EXMASK was not full, held while a queue is
full. -/
def copyWord (x : LaneWord) (op : Nat) : State → Out :=
  onceWord x fun s c =>
    let pid := s.lane.pid
    let qs := queuesOf x op
    if !c.full then (refuseWord s, true)
    else if copyFull s pid qs then (s, false)
    else
      let e : CopyEnt :=
        { id := s.nextId, tid := s.lane.tid, str := s.lane.str, word := s.lane.word, done := 0, chunks := []
          fault := none, told := false, list := [] }
      let s := { s with nextId := s.nextId + 1 }
      (qs.foldl (fun s q => setCopyQ s pid q { copyQ s pid q with ents := (copyQ s pid q).ents ++ [e] }) s, true)

def execCp (x : LaneWord) (s : State) : Out := copyWord x 0x300 s
def execCp2d (x : LaneWord) (s : State) : Out := copyWord x 0x301 s
def execCpt (x : LaneWord) (s : State) : Out := copyWord x 0x302 s
def execCpg (x : LaneWord) (s : State) : Out := copyWord x 0x303 s
def execCpset (x : LaneWord) (s : State) : Out := copyWord x 0x304 s
def execQfence (x : LaneWord) (s : State) : Out := copyWord x 0x305 s

/-! ## The destination stream (R125, R131 to R135) -/

/-- A stretch of the destination stream whose bytes lie together on both sides: position, destination and
source addresses, and length. -/
structure Seg where
  pos : Nat
  dst : Nat
  src : Nat
  n : Nat
  deriving Repr, Inhabited

/-- Bytes of the destination stream; for CPG, as far as its entries have been read (R138). -/
def CopyEnt.total (e : CopyEnt) : Nat :=
  let c := lo64 e.word.uc
  match e.word.op with
  | 0x301 => fld c 47 32 * fld c 31 0
  | 0x302 => fld c 47 32 * fld c 15 0 * 2 ^ e.word.x.ty6
  | 0x303 => e.list.foldl (fun acc p => acc + p.2.2) 0
  | _ => c

/-- The list entry that holds a stream position, with the position of its first byte. -/
def listAt (l : List (Nat × Nat × Nat)) (p base : Nat) : Option (Nat × Nat × Nat) :=
  match l with
  | [] => none
  | (_, src, n) :: rest => if p < base + n then some (base, src, n) else listAt rest p (base + n)

/-- Destination and source address of a stream position, and how many bytes lie together from there. -/
def CopyEnt.place (e : CopyEnt) (p : Nat) : Nat × Nat × Nat :=
  let a := lo64 e.word.ua
  let b := lo64 e.word.ub
  let c := lo64 e.word.uc
  let sa := s64 (hi64 e.word.ua)
  let sb := s64 (hi64 e.word.ub)
  let w (x : Int) : Nat := truncNat x 64
  match e.word.op with
  | 0x301 =>
    let len := fld c 31 0
    let i : Int := (p / len : Nat)
    let k : Int := (p % len : Nat)
    (w (a + i * sa + k), w (b + i * sb + k), len - p % len)
  | 0x302 =>
    let el := 2 ^ e.word.x.ty6
    let row := fld c 47 32 * el
    let j : Int := (p / row : Nat)
    let i : Int := (p % row / el : Nat)
    let r : Int := (p % el : Nat)
    (w (a + j * sa + i * el + r), w (b + i * sb + j * el + r), el - p % el)
  | 0x303 =>
    match listAt e.list p 0 with
    | some (base, src, n) => (w (a + p), w ((src : Int) + ((p - base : Nat) : Int)), base + n - p)
    | none => (w (a + p), 0, 1)
  | 0x304 => (w (a + p), 0, 4096)
  | _ => (w (a + p), w (b + p), 4096)

/-- The stretches of positions `p` to `stop`, none crossing a 32-byte sector on either side. -/
def CopyEnt.segs (e : CopyEnt) (stop : Nat) : Nat → Nat → List Seg
  | 0, _ => []
  | fuel + 1, p =>
    if stop ≤ p then []
    else
      let (d, sr, k) := e.place p
      let n := min (min k (stop - p)) (min (32 - d % 32) (32 - sr % 32))
      ⟨p, d, sr, n⟩ :: segs e stop fuel (p + n)

def CopyEnt.chunkSegs (e : CopyEnt) (n : Nat) : List Seg := e.segs (min (4096 * n + 4096) e.total) 4097 (4096 * n)

/-! ## Places of bytes (R122, R141, R159) -/

/-- Where some bytes of a copy lie. -/
inductive Loc where
  | home (va pa : Nat)
  | stash (pid : Nat) (e : StashEnt) (off pa : Nat)
  | sram (m off : Nat)
  | plane (pid off : Nat)
  deriving Repr

/-- Translation of an address for a chunk: a page that it has translated for such an access, or, once it has started
(`fin`), for any, keeps its translation (R87, R125). -/
def chunkPa (s : State) (pages : List ChunkPage) (fin : Bool) (pid ctx a : Nat) (acc : Acc) : State × Except Cause Nat :=
  match pages.find? fun p => decide (p.va = a / 65536) && (fin || decide (p.acc = acc)) with
  | some p => (s, .ok (p.pa * 65536 + a % 65536))
  | none => translate s pid ctx a acc

/-- The place that an address of a space names for a copy on a cluster, and the page it is in. A stash sector is
translated as a lane access of its kind is (R141, R159). -/
def resolve (s : State) (pages : List ChunkPage) (fin : Bool) (t : Tid) (pid sp a : Nat) (acc : Acc) :
    State × Except Cause (Loc × List ChunkPage) :=
  let fid := t.fid
  let ctx := (s.flk fid).ctx
  let self := (s.flk fid).clus.idxOf pid
  let m := if a.testBit 63 then self else fld a 59 56
  let off := a % 2 ^ 25
  match sp with
  | 0 =>
    let acc := globalAcc s pid a acc
    match chunkPa s pages fin pid ctx a acc with
    | (s, .error c) => (s, .error c)
    | (s, .ok pa) => (s, .ok (match stashVa s pid a with
        | some e => .stash pid e (e.off + (a - e.va)) pa
        | none => .home a pa, [⟨a / 65536, acc, pa / 65536⟩]))
  | 1 => match stashOff s fid m off with
    | none => (s, .ok (.sram m off, []))
    | some e =>
      let va := e.va + (off - e.off)
      let acc := stashAcc e (e.secAt off) acc
      match e.paAt (e.secAt off), acc.writes with
      | some pa, false => (s, .ok (.stash (s.pidOf fid m) e off (pa + off % 32), [⟨va / 65536, acc, pa / 65536⟩]))
      | kept, _ => match chunkPa s pages fin (s.pidOf fid m) ctx va acc with
        | (s, .error c) => (s, .error c)
        | (s, .ok pa) => (s, .ok (.stash (s.pidOf fid m) e off ((kept.map fun p => p + off % 32).getD pa), [⟨va / 65536, acc, pa / 65536⟩]))
  | _ => (s, .ok (.plane (s.pidOf fid m) off, []))

/-- Source bytes as they stand; none where a home holds the read or a stash sector waits for its fill. A line that a
copy allocates takes priority normal (R126). -/
def readLoc (s : State) (t : Tid) (l : Loc) (n : Nat) : State × Option (List Byte) :=
  match l with
  | .home _ pa => if readHeld s pa then (s, none) else
      let (s, bs, _) := readAtHome s pa n
      (l2Touch s pa n 1 false false, some bs)
  | .stash pid e off pa => stashRead s pid e off pa n
  | .sram m off => (s, some (s.localRead t.fid m off n))
  | .plane pid off => (s, some (s.planeRead pid off n))

/-- Destination bytes can be written now: their home does not hold them. A stash sector takes them at once (R156). -/
def canWrite (s : State) (l : Loc) : Bool :=
  match l with
  | .home _ pa => !writeHeld s pa
  | _ => true

/-- What the landing of written bytes waits for: the moment that DT must pass (0: none), and the sector whose grant
decides that moment. -/
abbrev Landing := Nat × List Owed

/-- Destination bytes written at a scope class. LOCAL and PLANE bytes have landed then; GLOBAL bytes wait for their GWCT
(R125). A racing read of a pending fill may still return what a byte held before (R157). -/
def writeLoc (s : State) (t : Tid) (pid sp cls : Nat) (l : Loc) (bs : List Byte) : State × Landing :=
  match l with
  | .home va pa =>
    let (s, g) := writeAtHome (noteRaces (l2Touch s pa bs.length 1 false true) none 512 (.home va pa) pa bs.length) pid pa bs
    (reelTouch s (s.flk t.fid).ctx va pa bs.length, g.at cls, [])
  | .stash p e off pa =>
    let s := noteRaces s none p (.stash p e off pa) pa bs.length
    match stashWrite (reelTouch s (s.flk t.fid).ctx (e.va + (off - e.off)) pa bs.length) p e off bs pa with
    | (s, some g) => (s, if sp = 0 then g.at cls else 0, [])
    | (s, none) => (s, 0, if sp = 0 then [⟨p, e.va, e.secAt off, pa, dt s, cls⟩] else [])
  | .sram m off => (s.localWrite t.fid m off bs, 0, [])
  | .plane p off => (s.planeWrite p off bs, 0, [])

def dstSpace (e : CopyEnt) : Nat := e.word.x.flags / 4
def srcSpace (e : CopyEnt) : Nat := e.word.x.flags % 4
/-- The scope at which a copy's bytes land (R123). -/
def CopyEnt.scope (e : CopyEnt) : Nat := fld (hi64 e.word.uc) 38 36

/-- The pattern bytes of CPSET from a position (R135). -/
def pattern (e : CopyEnt) (p n : Nat) : List Byte :=
  let el := 2 ^ e.word.x.ty6
  (List.range n).map fun i => BitVec.ofNat 8 (lo64 e.word.ub / 2 ^ (8 * ((p + i) % el)))

/-! ## CPG's list (R134) -/

/-- A list entry is faulted: its zero field, its length, its source range, the total, the destination. R134 gives LEN
the range 1 to 2^31 and names no cause for a greater one: it faults CPDESC too (DESIGN CHOICE, log 97). -/
def listBad (s : State) (e : CopyEnt) (pid src n z : Nat) : Bool :=
  let fid := e.tid.fid
  let ssp := srcSpace e
  let dsp := dstSpace e
  let cm := 2 ^ (s.flk fid).clus.idxOf pid
  let total := e.total + n
  decide (n = 0) || decide (z ≠ 0) || decide (2 ^ 31 < n) || decide (2 ^ 34 < total)
    || (decide (ssp ≠ 0) && (!copyBase s fid ssp src || !copyRows s fid cm ssp src 0 1 n))
    || (decide (dsp ≠ 0) && !copyRows s fid cm dsp (lo64 e.word.ua) 0 1 total)

/-- What reading the list gives: every entry that is needed, an entry that waits for a stash fill (R159), or a fault with
the index of its entry. -/
inductive ListRead where
  | done
  | waits
  | bad (c : Cause) (i : Nat)
  deriving DecidableEq, Repr

/-- Entries are read, each once and whole, until they cover a position or the list ends (R134, R138). The list is read
as a LOCAL access reads it. -/
def readEntries (pid upto : Nat) : Nat → State → CopyEnt → State × CopyEnt × ListRead
  | 0, s, e => (s, e, .done)
  | fuel + 1, s, e =>
    let k := e.list.length
    if upto ≤ e.total ∨ lo64 e.word.uc ≤ k then (s, e, .done)
    else
      let m := (s.flk e.tid.fid).clus.idxOf pid
      let off := lo64 e.word.ub + 16 * k
      match resolve s [] false e.tid pid 1 (2 ^ 63 + off) .load with
      | (s, .error c) => (s, e, .bad c k)
      | (s, .ok _) => match localReady s e.tid.fid m off 16 with
        | (s, false) => (s, e, .waits)
        | (s, true) =>
          let bs := s.localRead e.tid.fid m off 16
          let src := leNat (bs.take 8)
          let n := leNat ((bs.drop 8).take 4)
          let z := leNat (bs.drop 12)
          if listBad s e pid src n z then (s, e, .bad .cpdesc k)
          else readEntries pid upto fuel s { e with list := e.list ++ [(k, src, n)] }

/-- Every entry of a CPG has been read. -/
def CopyEnt.complete (e : CopyEnt) : Bool := decide (e.word.op ≠ 0x303) || decide (lo64 e.word.uc ≤ e.list.length)

/-! ## Chunks (R125, R126, R129) -/

/-- The engine may start chunks of a flock and let them begin to write: it is resident and not asked to stop (R140), and
its die has not tripped (R421). -/
def engineRuns (s : State) (pid fid : Nat) : Bool :=
  (s.flk fid).resident && !(s.flk fid).preReq && !(s.die (pid / 64)).tripped

/-- The chunk that an entry starts next. -/
def CopyEnt.nextChunk (e : CopyEnt) : Nat := e.done + e.chunks.length

/-- Every page of a chunk translated in both spaces: the first fault in stream order, source before destination (DESIGN
CHOICE, log 30), with the bytes that the reads have returned so far and the pages. -/
def startSegs (pid : Nat) (e : CopyEnt) : List Seg → State → List ChunkPage →
    State × Except (Cause × Nat) (List (Option Byte) × List ChunkPage)
  | [], s, pages => (s, .ok ([], pages))
  | g :: gs, s, pages =>
    let (s, r) := if e.word.op = 0x304 then (s, Except.ok ((pattern e g.pos g.n).map some, []))
      else match resolve s pages false e.tid pid (srcSpace e) g.src .load with
        | (s, .error c) => (s, .error (c, g.src))
        | (s, .ok (l, ps)) => match readLoc s e.tid l g.n with
          | (s, some bs) => (s, .ok (bs.map some, ps))
          | (s, none) => (s, .ok (List.replicate g.n none, ps))
    match r with
    | .error f => (s, .error f)
    | .ok (bs, ps) => match resolve s (pages ++ ps) false e.tid pid (dstSpace e) g.dst .store with
      | (s, .error c) => (s, .error (c, g.dst))
      | (s, .ok (_, qs)) => match startSegs pid e gs s (pages ++ ps ++ qs).dedup with
        | (s, .error f) => (s, .error f)
        | (s, .ok (more, all)) => (s, .ok (bs ++ more, all))

/-- Chunks that the engine of a cluster has started. -/
def chunksUp (s : State) (pid : Nat) : Nat :=
  (s.clu pid).cq.foldl (fun acc q => acc + (q.2.ents.map (·.chunks.length)).foldl (· + ·) 0) 0

/-- A chunk that has started. -/
def Chunk.fresh (k : Nat) (src : List (Option Byte)) (pages : List ChunkPage) : Chunk := ⟨k, .started, src, pages, [], [], 0, []⟩

/-- The payers of a queue other than its chunks. -/
def notChunk (q : Nat) (p : Payer) : Bool := !(decide (copyWho q 0 ≤ p.who) && decide (p.who < copyWho (q + 1) 0))

/-- No chunk of a queue asks to pay any more (R410). -/
def dropAsks (s : State) (pid q : Nat) : State := modPurse s pid fun p => { p with payers := p.payers.filter (notChunk q) }

/-- An operation faults at a chunk: an earlier one replaces the fault of a later one, and that chunk and every later one are
abandoned (R137). -/
def CopyEnt.failAt (e : CopyEnt) (k : Nat) (c : Cause) (a i : Nat) : CopyEnt :=
  if e.fault.all fun f => decide (k < f.1)
  then { e with fault := some (k, c, a, i), chunks := e.chunks.filter fun x => decide (x.k < k) } else e

/-- The operation at a queue's head faults; no chunk behind is ready to pay any more (R137, R410). -/
def faultHead (s : State) (pid q k : Nat) (c : Cause) (a i : Nat) : State :=
  modHead (dropAsks s pid q) pid q fun e => e.failAt k c a i

/-- The chunks behind a denied one that are ready in every respect except tokens ask with it (R410). -/
def askBehind (s : State) (pid q : Nat) (e : CopyEnt) : State :=
  let room := min (16 - chunksUp s pid) (8 - e.chunks.length)
  (List.range room).foldl (init := s) fun s i =>
    let k := e.nextChunk + i
    if i = 0 ∨ e.total ≤ 4096 * k ∨ ((s.clu pid).purse.payers.any fun p => decide (p.who = copyWho q k)) then s
    else deny s pid (copyWho q k) (debitOf s pid 64)

/-- COPY_CHUNK_START (R125, R126, R129): the next chunk of a queue's head pays, translates and reads. -/
def execCopyChunkStart (pid q : Nat) (s : State) : Out :=
  let x := copyQ s pid q
  match x.ents with
  | [] => .next s
  | e :: _ =>
    let k := e.nextChunk
    if x.halted || e.fault.isSome || decide (e.word.op = 0x305) || decide (16 ≤ chunksUp s pid) || decide (8 ≤ e.chunks.length)
        || !engineRuns s pid e.tid.fid then .next s
    else
      let (s, e, l) := if e.word.op = 0x303 then readEntries pid (4096 * k + 4096) 4097 s e else (s, e, .done)
      if decide (l = .waits) || (decide (l = .done) && decide (e.total ≤ 4096 * k)) then .next (modHead s pid q fun _ => e)
      else match pay s pid (copyWho q k) 64 with
      | (s, false) => .next (askBehind (modHead s pid q fun _ => e) pid q e)
      | (s, true) =>
        let s := progress s (s.flk e.tid.fid).ctx
        match l with
        | .bad c i => .next (faultHead (modHead s pid q fun _ => e) pid q k c (lo64 e.word.ub + 16 * i) i)
        | _ => match startSegs pid e (e.chunkSegs k) s [] with
          | (s, .error (c, a)) => .next (faultHead (modHead s pid q fun _ => e) pid q k c a 0)
          | (s, .ok (bs, ps)) => .next (modHead s pid q fun _ => { e with chunks := e.chunks ++ [.fresh k bs ps] })

/-- Source bytes sampled: a byte that no read has returned yet takes the present value where there is one; any other
keeps its value or takes the present one, as freely chosen (R126, R128). -/
def sampleSegs (pid : Nat) (e : CopyEnt) (pages : List ChunkPage) : List Seg → State → List (Option Byte) → State × List (Option Byte)
  | [], s, _ => (s, [])
  | g :: gs, s, src =>
    let (s, now) := if e.word.op = 0x304 then (s, none)
      else match resolve s pages true e.tid pid (srcSpace e) g.src .load with
        | (s, .error _) => (s, none)
        | (s, .ok (l, _)) => readLoc s e.tid l g.n
    let pick (i : Nat) : Option Byte := match src.getD i none, now with
      | some b, some bs => some (if Config.freeBit s.tick ((g.pos + i) % 4096) then bs.getD i 0 else b)
      | none, some bs => some (bs.getD i 0)
      | b, none => b
    let (s, more) := sampleSegs pid e pages gs s (src.drop g.n)
    (s, (List.range g.n).map pick ++ more)

/-- The CXL ports that the destination of a chunk needs. -/
def chunkPorts (s : State) (pid : Nat) (e : CopyEnt) (c : Chunk) : List Nat :=
  ((e.chunkSegs c.k).filterMap fun g => match (resolve s c.pages true e.tid pid (dstSpace e) g.dst .store).2 with
    | .ok (.home _ pa, _) => if isHost pa then some (portOf s pa) else none
    | _ => none).dedup

/-- Every copy queue of the machine, those of pre-empted flocks included. -/
def allQueues (s : State) : List CopyQ :=
  s.clusters.flatMap (fun e => e.2.cq.map (·.2)) ++ s.flocks.flatMap fun f => f.2.saved.flatMap fun v => v.cq.map (·.2)

/-- Chunks for which a port has reserved 4096 bytes (R140). -/
def reservedAt (s : State) (p : Nat) : Nat :=
  ((allQueues s).flatMap fun q => q.ents.flatMap fun e => e.chunks.filter fun c => c.ports.contains p).length

/-- Bytes of a stretch written: all of it at once, or single bytes. -/
def writeSeg (s : State) (pid : Nat) (e : CopyEnt) (c : Chunk) (g : Seg) (ps : List Nat) : State × Landing :=
  match resolve s c.pages true e.tid pid (dstSpace e) g.dst .store with
  | (s, .error _) => (s, 0, [])
  | (s, .ok (l, _)) =>
    let base := g.pos % 4096
    let byte (p : Nat) : Byte := ((c.src[p]?).join).getD 0
    let put (s : State) (l : Loc) (bs : List Byte) := writeLoc s e.tid pid (dstSpace e) (scopeClass e.scope) l bs
    if ps.length = g.n then put s l (ps.map byte)
    else ps.foldl (init := (s, 0, [])) fun (s, t, o) p =>
      match resolve s c.pages true e.tid pid (dstSpace e) (g.dst + (p - base)) .store with
      | (s, .error _) => (s, t, o)
      | (s, .ok (l, _)) =>
        let (s, u, v) := put s l [byte p]
        (s, max t u, o ++ v)

/-- The destination of a stretch is not held at its home. -/
def segFree (s : State) (pid : Nat) (e : CopyEnt) (c : Chunk) (g : Seg) : Bool :=
  match (resolve s c.pages true e.tid pid (dstSpace e) g.dst .store).2 with
  | .ok (l, _) => canWrite s l
  | .error _ => false

/-- A chunk that has begun writes some of its bytes, freely chosen: two writers of a range mix byte by byte (R121). -/
def writeSome (s : State) (pid : Nat) (e : CopyEnt) (c : Chunk) : State × Chunk :=
  (e.chunkSegs c.k).foldl (init := (s, c)) fun (s, c) g =>
    let here (p : Nat) : Bool := decide (g.pos % 4096 ≤ p) && decide (p < g.pos % 4096 + g.n)
    let ps := c.left.filter fun p => here p && (Config.freeBit s.tick 4097 || Config.freeBit s.tick (8192 + p))
    if ps.isEmpty || !segFree s pid e c g then (s, c)
    else
      let (s, t, o) := writeSeg s pid e c g ps
      (s, { c with left := c.left.filter fun p => !ps.contains p, gwct := max c.gwct t, owed := (c.owed ++ o).dedup })

/-- A chunk of a queue's head replaced. -/
def setChunk (s : State) (pid q : Nat) (c : Chunk) : State :=
  modHead s pid q fun e => { e with chunks := e.chunks.map fun x => if x.k = c.k then c else x }

/-- A started chunk that may begin: its reads have returned and its ports have room (R125, R140). -/
def mayBegin (s : State) (pid : Nat) (e : CopyEnt) (c : Chunk) (ports : List Nat) : Bool :=
  engineRuns s pid e.tid.fid && c.src.all (·.isSome) && ports.all fun p => decide (reservedAt s p < 16)

/-- COPY_CHUNK_WRITE (R125, R126, R140): the earliest chunk of a queue's head that has not written goes on: it reads its
source again and may begin to write, or it writes some more of its bytes. That no later chunk overtakes it, and that a later
chunk's source is read again only then, is the model's choice (DESIGN CHOICE, log 98). -/
def execCopyChunkWrite (pid q : Nat) (s : State) : Out :=
  match (copyQ s pid q).ents with
  | [] => .next s
  | e :: _ =>
    match e.chunks.find? fun c => !decide (c.st = .written) with
    | none => .next s
    | some c =>
      if !(s.flk e.tid.fid).resident || (s.die (pid / 64)).tripped then .next s
      else if c.st = .started then
        let (s, src) := sampleSegs pid e c.pages (e.chunkSegs c.k) s c.src
        let c := { c with src := src }
        let ports := chunkPorts s pid e c
        let c := if mayBegin s pid e c ports && Config.freeBit s.tick 4096
          then { c with st := .writing, left := List.range src.length, ports := ports } else c
        .next (setChunk s pid q c)
      else
        let (s, c) := writeSome s pid e c
        .next (setChunk s pid q (if c.left.isEmpty then { c with st := .written } else c))

/-- A QFENCE that has reached the head of every queue which still holds it leaves them all (R136). -/
def popFences (s : State) (pid : Nat) : Nat → State
  | 0 => s
  | fuel + 1 =>
    let heads := (List.range 4).filterMap fun q => ((copyQ s pid q).ents.head?).map fun e => (q, e)
    let ready := heads.find? fun h => decide (h.2.word.op = 0x305) && (List.range 4).all fun q =>
      !((copyQ s pid q).ents.any fun e => decide (e.id = h.2.id)) || (!(copyQ s pid q).halted
        && ((copyQ s pid q).ents.head?).any fun e => decide (e.id = h.2.id))
    match ready with
    | none => s
    | some (_, f) =>
      let s := (List.range 4).foldl (init := s) fun s q =>
        let x := copyQ s pid q
        setCopyQ s pid q { x with ents := x.ents.filter fun e => !decide (e.id = f.id) }
      popFences s pid fuel

/-- The oldest chunk of a queue, where it has landed: its operation, the bytes it counts, and what the queue holds after
it. The last chunk ends its operation. -/
def CopyQ.land (s : State) (x : CopyQ) : Option (CopyEnt × Nat × List CopyEnt) :=
  match x.ents with
  | [] => none
  | e :: rest => match e.chunks with
    | [] => none
    | c :: more =>
      if !decide (c.st = .written) || !c.owed.isEmpty || !passed s c.gwct then none
      else
        let last := e.complete && decide (e.total ≤ 4096 * (c.k + 1))
        some (e, min 4096 (e.total - 4096 * c.k), if last then rest else { e with done := e.done + 1, chunks := more } :: rest)

/-- The bytes of a landed chunk counted into its barrier (R127). -/
def countLanded (s : State) (e : CopyEnt) (n : Nat) : State :=
  match e.word.bar? with
  | some h => countBytes s e.tid h n
  | none => s

/-- Bytes that a saved chunk has merged into a sector of a flock that stayed: whether the sector still waits for its grant, or
when they land. A sector that has gone since wrote them to their home. -/
def Owed.settle (s : State) (o : Owed) : Option Nat :=
  match ((s.clu o.pid).stash.find? fun e => decide (e.va = o.va)).map (fun e => e.st o.sec) with
  | some (StashSt.pending _ none _) => none
  | some (StashSt.pending _ (some t) _) => some (max o.t t)
  | some (StashSt.clean _ t) => some (max o.t t)
  | some (StashSt.dirty _ t _) => some (max o.t t)
  | _ => some ((gwctOf s o.pid o.pa).at o.cls)

/-- The chunks of a saved queue, with what their landing waits for as it stands now (R140, R159). -/
def CopyQ.settle (s : State) (x : CopyQ) : CopyQ :=
  let upd (c : Chunk) : Chunk :=
    { c with
      owed := c.owed.filter fun o => (o.settle s).isNone
      gwct := (c.owed.filterMap fun o => o.settle s).foldl max c.gwct }
  { x with ents := x.ents.map fun e => { e with chunks := e.chunks.map upd } }

/-- A chunk that was written before its flock halted on a cluster lands, as progress of its context: it counts into the saved
slot (R140, R383, R385). -/
def landSaved (s : State) (pid q : Nat) : State :=
  s.flocks.foldl (init := s) fun s f =>
    if f.2.resident then s
    else (List.range f.2.saved.length).foldl (init := s) fun s m =>
      match decide (f.2.clus.getD m 512 = pid), (f.2.saved[m]?).bind fun v => (v.cq.find q).bind fun x => ((x.settle s).land s).map fun r => (v, x.settle s, r) with
      | true, some (v, x, e, n, ents) =>
        (progress (countLanded s e n) f.2.ctx).modFlk f.1 fun f => { f with saved := setAt f.saved m { v with cq := v.cq.set q { x with ents := ents } } }
      | _, _ => s

/-- COPY_CHUNK_LAND (R125, R127): the oldest chunk lands once DT has passed its GWCT; it counts its bytes, and
the last one ends its operation. The fences that reach the head leave. -/
def execCopyChunkLand (pid q : Nat) (s : State) : Out :=
  let s := landSaved (popFences s pid 128) pid q
  match (copyQ s pid q).land s with
  | none => .next s
  | some (e, n, ents) =>
    let s := progress (countLanded s e n) (s.flk e.tid.fid).ctx
    .next (popFences (setCopyQ s pid q { copyQ s pid q with ents := ents }) pid 128)

/-! ## Faults (R137, R138) and CQCTL (R139) -/

/-- A copy fault record (R138). -/
def copyRecord (e : CopyEnt) (q k : Nat) (c : Cause) (faddr ent : Nat) : List Byte :=
  recHead c.code 2 q e.word.seq ++ leBytes 8 faddr ++ leBytes 8 (4096 * k) ++ leBytes 8 e.total
    ++ leBytes 8 e.word.w.toNat ++ leBytes 8 (lo64 e.word.ua) ++ leBytes 4 ent

/-- COPY_CHUNK_FAULT (R137): once every earlier chunk has landed the queue halts, a record is written, and the
emitting thread takes COPYFAULT; an operation that has been reported before, and comes to the head of its queue again behind
those of another flock, halts it again (log 99). -/
def execCopyChunkFault (pid q : Nat) (s : State) : Out :=
  let x := copyQ s pid q
  match x.ents with
  | [] => .next s
  | e :: _ =>
    match e.fault with
    | none => .next s
    | some (k, c, a, i) =>
      let left := e.chunks.filter fun c => decide (c.k < k)
      if x.halted || !left.isEmpty || !(s.flk e.tid.fid).resident then .next s
      else
        let halt (s : State) : State := setCopyQ s pid q { copyQ s pid q with halted := true }
        if e.told then .next (halt s)
        else
        let (s, va, after) := faultRecord s (s.flk e.tid.fid).ctx pid (copyRecord e q k c a i)
        let s := modHead (halt s) pid q fun e => { e with chunks := [], told := true }
        .next (raiseTrap s e.tid .copyfault (BitVec.ofNat 64 va) after)

/-- CQCTL.ABORT of one queue: the faulted operation ends and every entry behind it is dropped. Words that
captured a codebook bank are none here; the fence's other queues stay (R136, R139). No chunk of the queue asks to pay any
more (R410). -/
def execCqctlAbort (pid q : Nat) (s : State) : Out :=
  let x := copyQ s pid q
  if !x.halted then .next s
  else
    .next (popFences (setCopyQ (dropAsks s pid q) pid q ⟨[], false⟩) pid 128)

/-- CQCTL.RESUME of one queue: the faulted operation restarts at its faulting chunk, and a faulted list entry
is read again. -/
def execCqctlResume (pid q : Nat) (s : State) : Out :=
  let x := copyQ s pid q
  if !x.halted then .next s
  else .next (modHead (setCopyQ s pid q { x with halted := false }) pid q fun e => { e with fault := none, told := false, chunks := [] })

/-- CQSTAT of a cluster (R139). Entries past the 32nd wait behind the queue (log 99). -/
def cqstat (s : State) (pid : Nat) : Nat :=
  (List.range 4).foldl (init := 0) fun acc q =>
    let x := copyQ s pid q
    let st := if x.halted then 2 else if x.ents.isEmpty then 0 else 1
    acc + (min 32 x.ents.length + 64 * st) * 2 ^ (8 * q)

end Sys2Proof.Machine
end

