-- ==== Sys2Proof/Machine/Matrix.lean ====
section
/-! DEFINITION. The matrix engine: its queue (R247), yokes (R259 to R261), start and retirement (R262 to R266), the
values (R191 to R193, R250, R251, R255), and errors (R268). -/

namespace Sys2Proof.Machine

/-! ## Entering the queue (R247, R347) -/

/-- A captured codebook bank is given back (R258). -/
def releaseCode (s : State) (pid m : Nat) (e : EWord) : State :=
  if usesCode e.op e.x then s.modClu pid fun c => { c with code := c.code.retire (e.banks.get m 0) } else s

/-- A matrix word at its cluster issue: refused where some group's EXMASK was not full, held while the queue
is full. -/
def matrixWord (x : LaneWord) : State → Out :=
  onceWord x fun s c =>
    let pid := s.lane.pid
    if !c.full then (releaseCode (refuseWord s) pid (laneMember s) s.lane.word, true)
    else if 8 ≤ (s.clu pid).mq.length then (s, false)
    else
      let e : MatEnt :=
        { tid := s.lane.tid, str := s.lane.str, word := s.lane.word, paid := false, yop := none, start := none, snap := []
          lead := (laneMember s, s.lane.word), peerErr := false }
      (s.modClu pid fun c => { c with mq := c.mq ++ [e] }, true)

def execMm (x : LaneWord) (s : State) : Out := matrixWord x s
def execMmy (x : LaneWord) (s : State) : Out := matrixWord x s
def execMzero (x : LaneWord) (s : State) : Out := matrixWord x s

/-! ## Shape of an entry -/

def MatEnt.ty (e : MatEnt) : Nat := e.word.x.ty6
def MatEnt.sh (e : MatEnt) : Nat := e.word.x.shape
def MatEnt.tile (e : MatEnt) : Nat := e.word.x.tile
def MatEnt.isZero (e : MatEnt) : Bool := decide (e.word.op = 0x30A)
def MatEnt.isYoked (e : MatEnt) : Bool := decide (e.word.op = 0x309)
def MatEnt.acc (e : MatEnt) : Bool := e.word.x.m.testBit 2
/-- The type of A: B's, or the format that cb2 names (R250). -/
def MatEnt.aTy (e : MatEnt) : Nat := if e.ty = 14 then (if e.word.x.m.testBit 3 then 12 else 11) else e.ty

/-- The streaming length S (R263). -/
def MatEnt.streamLen (e : MatEnt) : Nat :=
  if e.isZero then 0
  else ceilDiv (shapeK e.ty e.sh) (if e.ty = 13 then 256 else 128) * shapeM e.sh * (if e.ty = 8 ∨ e.ty = 9 then 2 else 1)
/-- Cycles from the start to the end of streaming, and to retirement (R263). -/
def MatEnt.streamEnd (e : MatEnt) : Nat := 24 + (if e.isYoked then 32 else 0) + e.streamLen
def MatEnt.length (e : MatEnt) : Nat :=
  if e.isZero then 128 else 40 + (if e.isYoked then 32 else 0) + e.streamLen + shapeM e.sh * shapeN e.sh / 128
/-- The price of an entry (R266). -/
def MatEnt.price (e : MatEnt) : Nat :=
  if e.isZero then 4 else 4 * (shapeM e.sh / 32) * (shapeN e.sh / 64) * 4 ^ (e.sh % 4)

/-! ## Operands (R250, R251, R165) -/

/-- The bytes of A's rows, of A's scales, of B, of B's scales and of the tile, as they stand. -/
def matBytes (s : State) (pid m : Nat) (e : MatEnt) : List (List Byte) :=
  let fid := e.tid.fid
  let t := e.ty
  let a := lo64 e.lead.2.ua
  let b := e.word.ub
  let aRow (i : Nat) := s.localRead fid e.lead.1 (a % 2 ^ 25 + i * fld a 47 32) (rowBytes t e.sh)
  if e.isZero then []
  else
    [ (List.range (shapeM e.sh)).flatMap aRow
    , if t = 13 then s.localRead fid e.lead.1 (fld (hi64 e.lead.2.ua) 56 32) (shapeM e.sh * (shapeK t e.sh / 32)) else []
    , s.planeRead pid (lo64 b) (8192 * ceilDiv (shapeK t e.sh) (planeK t))
    , s.planeRead pid (hi64 b) (8192 * scaleRows t e.sh)
    , if e.acc then s.localRead fid m (s.accBase fid + 65536 * e.tile) 65536 else [] ]

/-- Bytes taken again while the entry streams: each is the one taken before or the one that stands now
(R265). -/
def mixBytes (tick base : Nat) (old new : List Byte) : List Byte :=
  (List.range new.length).map fun i => if Config.freeBit tick (base + i) then new.getD i 0 else old.getD i 0
def mixSnap (tick : Nat) (old new : List (List Byte)) : List (List Byte) :=
  (List.range new.length).map fun k => mixBytes tick (k * 2 ^ 24) (old.getD k []) (new.getD k [])

/-- An entry that still streams takes its bytes again; a yoke's A is taken by its lead alone (R260). -/
def MatEnt.again (s : State) (pid : Nat) (e : MatEnt) : MatEnt :=
  let m := (s.flk e.tid.fid).clus.idxOf pid
  match e.start with
  | some t0 =>
    if e.isZero || decide (e.streamEnd ≤ cyclesSince (cluMHz s pid) t0 s.now) then e
    else
      let new := mixSnap s.tick e.snap (matBytes s pid m e)
      { e with snap := if e.lead.1 = m then new else e.snap.take 2 ++ new.drop 2 }
  | none => e

/-- A, as a yoke's lead has read it, goes to every fellow (R260). -/
def multicastA (s : State) (e : MatEnt) : State :=
  let put (x : MatEnt) : MatEnt := if x.yop = e.yop then { x with snap := e.snap.take 2 ++ x.snap.drop 2 } else x
  if e.yop.isNone then s else { s with clusters := s.clusters.mapVals fun _ c => { c with array := c.array.map put } }

/-- Every entry of the array that still streams takes its bytes again (R265). -/
def refreshArray (s : State) (pid : Nat) : State :=
  let s := s.modClu pid fun c => { c with array := c.array.map (MatEnt.again s pid) }
  ((s.clu pid).array.filter fun e => decide (e.lead.1 = (s.flk e.tid.fid).clus.idxOf pid)).foldl multicastA s

/-! ## Values (R191, R192) -/

def byteAt (bs : List Byte) (i : Nat) : Nat := (bs.getD i 0).toNat
def halfAt (bs : List Byte) (i : Nat) : Nat := byteAt bs i + 256 * byteAt bs (i + 1)
def nibAt (bs : List Byte) (i : Nat) : Nat := byteAt bs (i / 2) / 16 ^ (i % 2) % 16

/-- Element (m, k) of A, in rows of `row` bytes (R250). -/
def aElem (t row : Nat) (bs : List Byte) (m k : Nat) : Nat :=
  if t = 13 then nibAt bs (2 * (m * row) + k)
  else if t = 8 ∨ t = 9 then halfAt bs (m * row + 2 * k) else byteAt bs (m * row + k)

/-- Element (k, c) of B; for cb2 the index that holds it (R251). -/
def bElem (t : Nat) (bs : List Byte) (k c : Nat) : Nat :=
  let o := 8192 * (k / planeK t) + 64 * c
  let j := k % planeK t
  if t = 13 then nibAt bs (2 * o + j)
  else if t = 14 then halfAt bs (o + 2 * (j / 8))
  else if t = 8 ∨ t = 9 then halfAt bs (o + 2 * j) else byteAt bs (o + j)

/-- B's scale of block `b` of column `c` (R251). -/
def bScale (bs : List Byte) (b c : Nat) : Nat := byteAt bs (8192 * (b / 64) + 64 * c + b % 64)

/-- An exact product with the events of its operands (R191, R195); `vec` is the codebook bank. A cb2 weight of magnitude 0 has
the sign +, and its product with an element has the sign of R191's product like any other (DESIGN CHOICE, log 127). -/
def matProduct (e : MatEnt) (vec : Nat → Nat) (m k c : Nat) : Val × Ev :=
  let sec (i : Nat) := e.snap.getD i []
  let t := e.ty
  let FA := fmtOf e.aTy
  let a := aElem t (rowBytes t e.sh) (sec 0) m k
  let b := bElem t (sec 2) k c
  let va := FA.value a
  let sn (F : Fmt) (x : Nat) : Ev := Ev.when (F.snan x) Ev.invalid
  if t = 13 then
    let xa := byteAt (sec 1) (m * (shapeK t e.sh / 32) + k / 32)
    let xb := bScale (sec 3) (k / 32) c
    if xa = 255 ∨ xb = 255 then (.nan, Ev.invalid)
    else (Val.scale ((xa : Int) + xb - 254) (Val.mul va (FA.value b)).1, Ev.none)
  else if t = 14 then
    let X := bScale (sec 3) (k / 64) c
    let q := (cb2Decode b (vec b)).getD (k % 8) 0
    if X = 255 then (.nan, (Ev.when (!va.isNan) Ev.invalid).or (sn FA a))
    else
      let r := Val.mul va (.fin (decide (q < 0)) q.natAbs ((X : Int) - 130))
      (r.1, (Ev.when r.2 Ev.invalid).or (sn FA a))
  else
    let r := Val.mul va ((fmtOf t).value b)
    (r.1, ((Ev.when r.2 Ev.invalid).or (sn FA a)).or (sn (fmtOf t) b))

def Val.isInf (n : Bool) : Val → Bool
  | .inf k => k == n
  | _ => false

/-- G(g) of R191: the exact sum of a group, rounded once to f32. -/
def groupSum (ps : List (Val × Ev)) : Nat × Ev :=
  let ev := ps.foldl (fun acc p => acc.or p.2) Ev.none
  let vs := ps.map (·.1)
  if vs.any Val.isNan then (fF32.nan, ev)
  else if (vs.any (Val.isInf true)) && (vs.any (Val.isInf false)) then (fF32.nan, ev.or Ev.invalid)
  else
    let sum := match vs with
      | [] => Val.fin false 0 0
      | v :: vs => vs.foldl (fun acc v => (Val.add false acc v).1) v
    let r := roundTo fF32 .rn false false sum
    (r.1, ev.or r.2)

/-- acc + G, rounded (R191). -/
def accStep (a g : Nat × Ev) : Nat × Ev :=
  let r := roundStep fF32 .rn false false (Val.add false (fF32.value a.1) (fF32.value g.1))
  (r.1, ((a.2.or g.2).or r.2).or (Ev.when (fF32.snan a.1) Ev.invalid))

/-- One element of the result (R191, R192). -/
def matElem (e : MatEnt) (vec : Nat → Nat) (m c : Nat) : Nat × Ev :=
  let K := shapeK e.ty e.sh
  let old := leNat (((e.snap.getD 4 []).drop (4 * (128 * m + c))).take 4)
  if e.ty = 0 ∨ e.ty = 4 then
    let sum := (List.range K).foldl (init := (0 : Int)) fun acc k =>
      acc + intVal e.ty (aElem e.ty (rowBytes e.ty e.sh) (e.snap.getD 0 []) m k) * intVal e.ty (bElem e.ty (e.snap.getD 2 []) k c)
    (truncNat (sum + (if e.acc then (old : Int) else 0)) 32, Ev.none)
  else
    let g (i : Nat) := groupSum ((List.range 16).map fun j => matProduct e vec m (16 * i + j) c)
    if e.acc then (List.range (K / 16)).foldl (fun a i => accStep a (g i)) (old, Ev.none)
    else (List.range (K / 16 - 1)).foldl (fun a i => accStep a (g (i + 1))) (g 0)

/-! ## Yokes (R260) -/

/-- The members of a yoke with their clusters; the first is the lead. -/
def yokeOf (s : State) (fid members : Nat) : List (Nat × Nat) := (setBits 16 members).map fun m => (m, s.pidOf fid m)

/-- The instance that a member has in its latch: an MMY of the yoke at the head of its queue. -/
def latchedAt (s : State) (fid members pid : Nat) : Option MatEnt :=
  ((s.clu pid).mq.head?).filter fun e =>
    decide (e.tid.fid = fid) && e.isYoked && decide (e.word.yoke = members) && e.yop.isNone

/-- Two instances match. -/
def sameOp (a b : MatEnt) : Bool :=
  decide (a.ty = b.ty) && decide (a.aTy = b.aTy) && decide (a.acc = b.acc) && decide (a.sh = b.sh)
    && decide (a.word.yoke = b.word.yoke)

def modMqHead (s : State) (pid : Nat) (f : MatEnt → MatEnt) : State :=
  s.modClu pid fun c => { c with mq := match c.mq with
    | e :: es => f e :: es
    | [] => [] }

/-- YOKE_LATCH_COMPLETE (R260): every member has placed its instance; they match, or every one is removed and
each emitting thread takes YOKE once. -/
def execYokeLatchComplete (fid members : Nat) (s : State) : Out :=
  let ms := yokeOf s fid members
  let es := ms.filterMap fun p => (latchedAt s fid members p.2).map fun e => (p, e)
  match es with
  | [] => .next s
  | ((lm, _), lead) :: _ =>
    if es.length ≠ ms.length || !(s.flk fid).resident || (s.flk fid).preReq then .next s
    else if es.all fun e => sameOp lead e.2 then
      let op := s.nextId
      let s := { s with nextId := op + 1 }
      .next (es.foldl (fun s e => modMqHead s e.1.2 fun x => { x with yop := some op, lead := (lm, lead.word) }) s)
    else
      let s := es.foldl (init := s) fun s e =>
        releaseCode (s.modClu e.1.2 fun c => { c with mq := c.mq.drop 1 }) e.1.2 e.1.1 e.2.word
      let ts := (es.map fun e => e.2.tid).dedup
      .next (ts.foldl (init := s) fun s t =>
        match es.find? fun e => decide (e.2.tid = t) with
        | some e => raiseTrap s t .yoke (seqVal e.2.word.seq (e.2.str % 4)) 0
        | none => s)

/-! ## Start (R262, R266) -/

/-- A lane store to a tile that has issued and not performed (R166). -/
def tileStores (s : State) (fid m tile : Nat) : Bool :=
  s.ops.any fun o => decide (o.tid.fid = fid) && o.deed.writes && (match o.place with
    | .loc c off _ _ _ => decide (c = m) && rangesMeet off o.n (s.accBase fid + 65536 * tile) 65536
    | .glob _ _ => false)

/-- Conditions 1 to 4 of R262, at most eight entries in the array (R249), and that the engine may start anything (R267,
R421). -/
def matReady (s : State) (pid m : Nat) (e : MatEnt) : Bool :=
  let c := s.clu pid
  engineRuns s pid e.tid.fid && decide (c.array.length < 8)
    && (c.array.all fun a => decide (a.streamLen ≤ cyclesSince (cluMHz s pid) (a.start.getD 0) s.now))
    && !(c.array.any fun a => decide (a.tid.fid = e.tid.fid) && decide (a.tile = e.tile))
    && !tileStores s e.tid.fid m e.tile
    && (!usesCode e.word.op e.word.x || !c.code.waits (e.word.banks.get m 0))

/-- The head of a cluster's queue starts. -/
def startHead (s : State) (pid m : Nat) : State :=
  match (s.clu pid).mq with
  | [] => s
  | e :: es =>
    let e := { e with start := some s.now, paid := true }
    let e := { e with snap := matBytes s pid m e }
    progress (s.modClu pid fun c => { c with mq := es, array := c.array ++ [e] }) (s.ctxOf e.tid)

/-- MATRIX_ENTRY_START (R262): the head of the queue pays and starts; a yoked one starts with its fellows once
the last of them has paid and every one is ready (R260). Entries that stream take their bytes again (R265). -/
def execMatrixEntryStart (pid : Nat) (s : State) : Out :=
  let s := refreshArray s pid
  match (s.clu pid).mq with
  | [] => .next s
  | e :: _ =>
    let fid := e.tid.fid
    let m := (s.flk fid).clus.idxOf pid
    if !matReady s pid m e || (e.isYoked && e.yop.isNone) then .next s
    else
      let (s, paid) := if e.paid then (s, true) else pay s pid 0 e.price
      if !paid then .next s
      else if !e.isYoked then .next (startHead s pid m)
      else
        let s := modMqHead s pid fun x => { x with paid := true }
        let ms := yokeOf s fid e.word.yoke
        if ms.all fun p => ((s.clu p.2).mq.head?).any fun x => x.paid && decide (x.yop = e.yop) && matReady s p.2 p.1 x then
          .next (ms.foldl (fun s p => startHead s p.2 p.1) s)
        else .next s

/-! ## Retirement (R263, R268) -/

/-- A matrix fault record (R430). -/
def matRecord (e : MatEnt) (pid : Nat) (done : Bool) : List Byte :=
  let body := recHead Cause.uncorr.code 3 e.tile e.word.seq ++ leBytes 8 e.word.w.toNat
    ++ leBytes 1 (if done then 2 ^ e.tile else 0)
  body ++ List.replicate (30 - body.length) 0 ++ leBytes 2 pid

/-- The tile with the elements of an entry written into it. -/
def tileBytes (old : List Byte) (e : MatEnt) (els : List Nat) : List Byte :=
  (List.range 128).flatMap fun r => (List.range 128).flatMap fun c =>
    if r < shapeM e.sh ∧ c < shapeN e.sh then leBytes 4 (els.getD (r * shapeN e.sh + c) 0)
    else (old.drop (4 * (128 * r + c))).take 4

/-- The write-out of an entry: the rows it changes, its events, its byte count. -/
def writeOut (s : State) (pid m : Nat) (e : MatEnt) : State :=
  let fid := e.tid.fid
  let off := s.accBase fid + 65536 * e.tile
  if e.isZero then
    let s := s.localWrite fid m off (List.replicate 65536 0)
    match e.word.bar? with
    | some h => countBytes s e.tid h 65536
    | none => s
  else
    let vec (idx : Nat) := codeVec (s.clu pid) (e.word.banks.get m 0 % 2) idx
    let rs := (List.range (shapeM e.sh)).flatMap fun r => (List.range (shapeN e.sh)).map fun c => matElem e vec r c
    let s := s.localWrite fid m off (tileBytes (s.localRead fid m off 65536) e (rs.map (·.1)))
    let ev := rs.foldl (fun acc r => acc.or r.2) Ev.none
    let s := aelRecord s (s.ctxOf e.tid) pid ⟨ev.bits &&& 20⟩ 1 m 0 e.tid.t (e.str % 4) e.word.seq
    match e.word.bar? with
    | some h => countBytes s e.tid h (4 * shapeM e.sh * shapeN e.sh)
    | none => s

/-- A member of a yoke has found an error: the records of its fellows show their tiles retired (R268). Those
that have retired write theirs now, the others as they retire. -/
def tellFellows (s : State) (pid : Nat) (e : MatEnt) : State :=
  match e.yop with
  | none => s
  | some op =>
    (yokeOf s e.tid.fid e.word.yoke).foldl (init := s) fun s p =>
      if p.2 = pid then s
      else
        let gone := (s.clu p.2).retired.filter fun x => decide (x.yop = some op) && !x.peerErr
        let s := gone.foldl (fun s x => (faultRecord s (s.ctxOf x.tid) p.2 (matRecord x p.2 true)).1) s
        let mark (x : MatEnt) : MatEnt := if x.yop = some op then { x with peerErr := true } else x
        s.modClu p.2 fun c => { c with array := c.array.map mark, retired := c.retired.map mark }

/-- The instances of a yoke operation are forgotten once its last member has retired. -/
def sweepYoke (s : State) (e : MatEnt) : State :=
  match e.yop with
  | none => s
  | some op =>
    let ms := yokeOf s e.tid.fid e.word.yoke
    if ms.any fun p => (s.clu p.2).array.any fun x => decide (x.yop = some op) then s
    else ms.foldl (init := s) fun s p => s.modClu p.2 fun c => { c with retired := c.retired.filter fun x => !decide (x.yop = some op) }

/-- MATRIX_RETIREMENT (R263) of the entry to a tile, with or without an uncorrectable error (R268). -/
def execMatrixRetirement (pid tile : Nat) (err : Bool) (s : State) : Out :=
  match (s.clu pid).array.find? fun e => decide (e.tile = tile) && decide (e.length ≤ cyclesSince (cluMHz s pid) (e.start.getD 0) s.now) with
  | none => .next s
  | some e =>
    let fid := e.tid.fid
    let m := (s.flk fid).clus.idxOf pid
    let ctx := s.ctxOf e.tid
    let isE (x : MatEnt) : Bool := decide (x.tile = tile) && decide (x.tid.fid = fid)
    let bad := err && !e.isZero
    let s := if bad then s else writeOut s pid m e
    let s := releaseCode s pid m e.word
    let s := if bad then
        let (s, va, after) := faultRecord s ctx pid (matRecord e pid false)
        tellFellows (raiseTrap s e.tid .matrixfault (BitVec.ofNat 64 va) after) pid e
      else if e.peerErr then (faultRecord s ctx pid (matRecord e pid true)).1
      else s
    let keep := if e.yop.isSome then [{ e with snap := [], peerErr := e.peerErr || bad }] else []
    let s := s.modClu pid fun c => { c with array := c.array.filter (fun x => !isE x), retired := c.retired ++ keep }
    .next (progress (sweepYoke s e) ctx)

/-- MQSTAT (R249). Entries past the eighth wait behind the queue (log 99). -/
def mqstat (s : State) (pid : Nat) : Nat :=
  let c := s.clu pid
  let latch := (c.mq.head?).any fun e => e.isYoked && e.yop.isNone
  let tok := !latch && c.purse.payers.any fun p => decide (p.who = 0)
  min 8 c.mq.length + 256 * c.array.length + 2 ^ 14 * b2n tok + 2 ^ 15 * b2n latch

end Sys2Proof.Machine
end

