-- ==== Sys2Proof/Machine/Temporal.lean ====
section
/-! DEFINITION. The temporal array: its queue (R272), the TA words (R277 to R282), its work and price (R283, R284)
and errors (R287). -/

namespace Sys2Proof.Machine

def modTa (s : State) (pid : Nat) (f : TArray → TArray) : State := s.modClu pid fun c => { c with ta := f c.ta }

/-! ## Entering the queue (R272, R279) -/

/-- The inputs of a TA.GO as the group in focus supplies them (R279). -/
def goInputs (s : State) (x : LaneWord) (act : Nat) : List Byte :=
  (((srcA s x 1).map fun v => leBytes 4 v).zip (List.range 32)).flatMap fun e =>
    if act.testBit e.2 then e.1 else List.replicate 4 255

/-- A TA word on one group: the bound group of the lowest slot records the inputs of a TA.GO, a TA.CAPT marks its
destination outstanding; at the cluster issue, where some group had an active lane, the word enters the
queue, or is held while that is full. -/
def taWord (x : LaneWord) (go capt : Bool) (s : State) : Out :=
  let st := strOf s s.lane.tid s.lane.str
  let act := activeMask s x
  let lowest := decide ((setBits 16 st.gmask).head? = some s.lane.slot)
  let mine := if go && lowest then goInputs s x act else []
  let c := cissueOf s
  let fresh := { c with inputs := c.inputs ++ mine }
  let last := s.lane.replay || decide ((c.slots ||| 2 ^ s.lane.slot) = st.gmask)
  if last && (c.active || decide (act ≠ 0)) && decide (8 ≤ (s.clu s.lane.pid).ta.ents.length) then holdWord s
  else
    let s := if s.lane.replay then s else setCissue s fresh
    let s := if capt then noteOut s x.dN 1 act else s
    onceWord x (fun s c =>
      if !c.active then (s, true)
      else
        let e : TaEnt :=
          { id := s.nextId, tid := s.lane.tid, str := s.lane.str, word := s.lane.word
            inputs := if s.lane.replay then mine else c.inputs, masks := c.masks, paid := false, start := none, snap := [] }
        (modTa { s with nextId := s.nextId + 1 } s.lane.pid fun a => { a with ents := a.ents ++ [e] }, true)) s

def execTaWin (x : LaneWord) (s : State) : Out := taWord x false false s
def execTaDly (x : LaneWord) (s : State) : Out := taWord x false false s
def execTaMode (x : LaneWord) (s : State) : Out := taWord x false false s
def execTaGo (x : LaneWord) (s : State) : Out := taWord x true false s
def execTaCapt (x : LaneWord) (s : State) : Out := taWord x false true s
def execTaClr (x : LaneWord) (s : State) : Out := taWord x false false s

/-! ## The window (R269, R280) -/

/-- d(i, c); 255 opens the crosspoint. -/
def TArray.d (a : TArray) (i c : Nat) : Nat := (a.delay.getD i []).getD c 255

/-- The arrivals at column `c` over its closed rows: none for never. -/
def taArrivals (a : TArray) (rise out : List (Option Nat)) (c : Nat) : List (Option Nat) :=
  ((List.range 128).filter fun i => decide (a.d i c ≠ 255)).map fun i =>
    let r := rise.getD i none
    let o := out.getD i none
    let src := if a.loop then (match r, o with
      | some x, some y => some (min x y)
      | some x, none => some x
      | none, y => y) else r
    src.map (· + a.d i c)

/-- fires(c, t). -/
def taFires (a : TArray) (rise out : List (Option Nat)) (c t : Nat) : Bool :=
  let arr := taArrivals a rise out c
  let ok (x : Option Nat) : Bool := x.any fun v => decide (v ≤ t)
  if a.kinds.testBit c then !arr.isEmpty && arr.all ok else arr.any ok

/-- One pass over the columns at a tick. -/
def taPass (a : TArray) (rise out : List (Option Nat)) (t : Nat) : List (Option Nat) :=
  (List.range 128).map fun c => match out.getD c none with
    | some v => some v
    | none => if taFires a rise out c t then some t else none

/-- Passes until nothing changes; 128 suffice, since each that changes something fires a column. -/
def taSettle (a : TArray) (rise : List (Option Nat)) (t : Nat) : Nat → List (Option Nat) → List (Option Nat)
  | 0, out => out
  | n + 1, out =>
    let next := taPass a rise out t
    if next = out then out else taSettle a rise t n next

/-- ta_window (R280): the outputs, 255 for never. -/
def taWindow (a : TArray) (x : List Byte) : List Nat :=
  let rise := (List.range 128).map fun i =>
    let v := (x.getD i 255).toNat
    if v < a.window then some v else none
  let out := (List.range a.window).foldl (fun out t => taSettle a rise t 128 out) (List.replicate 128 none)
  out.map fun o => o.getD 255

/-- The merge of R281. -/
def taMerge (latch out : List Nat) : List Nat := (List.range 128).map fun c => min (latch.getD c 255) (out.getD c 255)

/-! ## Captures (R282) -/

/-- The outputs that rose, by tick and then by index. -/
def taOrder (latch : List Nat) : List Nat :=
  sortBy (fun c => latch.getD c 255 * 128 + c) ((List.range 128).filter fun c => decide (latch.getD c 255 ≠ 255))

/-- The result R of a capture: mode 0 VALUE, 1 RANK, 2 FIRSTK. -/
def taResult (latch : List Nat) (mode k : Nat) : List Byte :=
  let order := taOrder latch
  (List.range 128).map fun c => BitVec.ofNat 8 (match mode with
    | 0 => latch.getD c 255
    | 1 => if latch.getD c 255 = 255 then 255 else order.idxOf c
    | _ => if c < min k order.length then order.getD c 255 else 255)

/-- A capture written into D of the lanes that were active at its issue, all in one cycle; the scoreboard releases D. Where
no trailer names D, a word that reads a lane of D in that cycle reads the old value or the new one (R42, R235, R282). -/
def landCapture (s : State) (pid : Nat) (e : TaEnt) : State :=
  let fid := e.tid.fid
  let m := (s.flk fid).clus.idxOf pid
  let bs := taResult (s.clu pid).ta.latch e.word.x.m e.word.x.cN
  let d := e.word.x.dN
  let mine (o : OutLane) : Bool := decide (o.tid = e.tid) && decide (o.str = e.str) && decide (o.seq = e.word.seq)
  e.masks.foldl (init := s) fun s g =>
    let old := (s.grp fid m g.1).row d
    let free := !((s.grp fid m g.1).out.any fun o => mine o && o.named)
    let s := (setBits 32 g.2).foldl (fun s l => landReg s fid m g.1 d l (BitVec.ofNat 32 (leNat ((bs.drop (4 * l)).take 4)))) s
    s.modGrp fid m g.1 fun gr => { gr with
      tail := if free then gr.tail.filter (fun f => decide (s.now < f.lands)) ++ [⟨d, g.2, cyclesAhead s pid 1, old, e.word.seq⟩] else gr.tail
      out := gr.out.filter fun o => !mine o }

/-! ## Performing (R272, R277, R278, R283, R284) -/

/-- The price of an entry. -/
def TaEnt.price (e : TaEnt) : Nat := if e.word.op = 0x313 then 32 else if e.word.op = 0x311 then 8 else 0

/-- The entry at the head has retired. -/
def retireTa (s : State) (pid : Nat) : State :=
  match (s.clu pid).ta.ents with
  | [] => s
  | e :: es => progress (modTa s pid fun a => { a with ents := es, lastRet := some s.now }) (s.ctxOf e.tid)

def modTaHead (s : State) (pid : Nat) (f : TaEnt → TaEnt) : State :=
  modTa s pid fun a => { a with ents := match a.ents with
    | e :: es => f e :: es
    | [] => [] }

/-- The bytes that a TA.DLY reads. -/
def dlyBytes (s : State) (pid : Nat) (e : TaEnt) : List Byte :=
  s.localRead e.tid.fid ((s.flk e.tid.fid).clus.idxOf pid) (lo64 e.word.ua % 2 ^ 25) 16384

/-- TA.DLY's read is ordered after its stream's stores (R278, R152). -/
def dlyBlocked (s : State) (pid : Nat) (e : TaEnt) : Bool :=
  let off := lo64 e.word.ua % 2 ^ 25
  s.ops.any fun o => decide (o.tid = e.tid) && decide (o.str.map (· % 4) = some (e.str % 4)) && decide (o.pid = pid)
    && decide (o.seq < e.word.seq) && o.made.isNone && o.deed.writes && (match serveOf s o with
      | .stash p _ k _ => decide (p = pid) && rangesMeet k o.n off 16384
      | .sram c k => decide (c = (s.flk e.tid.fid).clus.idxOf pid) && rangesMeet k o.n off 16384
      | .home _ _ => false)

/-- Cycles of a cluster from the one in which an entry started to the present one. -/
def taCycles (s : State) (pid : Nat) (e : TaEnt) : Nat :=
  let f := cluMHz s pid
  s.now * f / 1000000 - e.start.getD s.now * f / 1000000

/-- Cycles of the work of an entry but for TA.GO: it retires as the last of them ends (R283). -/
def TaEnt.cycles (e : TaEnt) : Nat := if e.word.op = 0x311 then 128 else if e.word.op = 0x314 then 6 else 1

/-- The previous entry retired inside the present cycle, so that none starts in it; one that retired as the cycle began did
so in the cycle before (R283). -/
def retiredNow (s : State) (pid : Nat) : Bool :=
  let f := cluMHz s pid
  (s.clu pid).ta.lastRet.any fun t => sameCycle s pid t && decide (ceilDiv (s.now * f / 1000000 * 1000000) f < t)

/-- What TA.WIN, TA.MODE, TA.CLR and TA.DLY leave in the array (R277, R278). -/
def TaEnt.perform (e : TaEnt) (a : TArray) : TArray :=
  match e.word.op with
  | 0x310 => { a with window := e.word.x.cN }
  | 0x312 => { a with kinds := e.word.ua.toNat, loop := e.word.x.m.testBit 0 }
  | 0x315 => { a with latch := List.replicate 128 255 }
  | _ => { a with delay := (List.range 128).map fun i => ((e.snap.drop (128 * i)).take 128).map (·.toNat) }

/-- TA_ENTRY_START (R272, R277, R278, R283): the head entry starts, once it has paid, in the cycle after the one in which
the previous entry retired. One that has started goes on: a TA.DLY takes its bytes again until its 128 cycles have
passed; TA.WIN, TA.MODE and TA.CLR perform after one cycle. -/
def execTaEntryStart (pid : Nat) (s : State) : Out :=
  match (s.clu pid).ta.ents with
  | [] => .next s
  | e :: _ =>
    let op := e.word.op
    match e.start with
    | some _ =>
      if op = 0x313 ∨ op = 0x314 then .next s
      else if e.cycles ≤ taCycles s pid e then .next (retireTa (modTa s pid e.perform) pid)
      else if op = 0x311 then .next (modTaHead s pid fun e => { e with snap := mixBytes s.tick 0 e.snap (dlyBytes s pid e) })
      else .next s
    | none =>
      if !engineRuns s pid e.tid.fid || retiredNow s pid || (decide (op = 0x311) && dlyBlocked s pid e) then .next s
      else
        let (s, paid) := if e.paid then (s, true) else pay s pid 1 e.price
        if !paid then .next s
        else
          let s := progress s (s.ctxOf e.tid)
          .next (modTaHead s pid fun x => { x with
            paid := true
            start := some s.now
            snap := if op = 0x311 then dlyBytes s pid e else [] })

/-- A temporal fault record (R430). -/
def taRecord (e : TaEnt) (pid : Nat) : List Byte :=
  let body := recHead Cause.uncorr.code 4 0 e.word.seq ++ leBytes 8 e.word.w.toNat
  body ++ List.replicate (30 - body.length) 0 ++ leBytes 2 pid

/-- A TA.GO has taken 4 cycles and W ticks of the 5.4 GHz clock, rounded up to a cycle edge, and 1 cycle (R283). -/
def windowOver (s : State) (pid : Nat) (e : TaEnt) : Bool :=
  let f := cluMHz s pid
  decide (e.start.getD s.now * f / 1000000 + 5 + ceilDiv ((s.clu pid).ta.window * f) 5400 ≤ s.now * f / 1000000)

/-- TA_WINDOW_END (R281): the latches merge and the TA.GO retires; with an uncorrectable error the merge is
suppressed (R287). -/
def execTaWindowEnd (pid : Nat) (err : Bool) (s : State) : Out :=
  match (s.clu pid).ta.ents with
  | [] => .next s
  | e :: _ =>
    if decide (e.word.op ≠ 0x313) || e.start.isNone || !windowOver s pid e then .next s
    else if err then
      let (s, va, after) := faultRecord s (s.ctxOf e.tid) pid (taRecord e pid)
      .next (retireTa (raiseTrap s e.tid .tafault (BitVec.ofNat 64 va) after) pid)
    else .next (retireTa (modTa s pid fun a => { a with latch := taMerge a.latch (taWindow a e.inputs) }) pid)

/-- TKWIN (R270) and TASTAT (R273). Entries past the eighth wait behind the queue (log 99). -/
def tkwin (s : State) (pid : Nat) : Nat := (s.clu pid).ta.window
def tastat (s : State) (pid : Nat) : Nat :=
  let c := s.clu pid
  let win := (c.ta.ents.head?).any fun e => decide (e.word.op = 0x313) && e.start.isSome && decide (4 ≤ taCycles s pid e)
  let tok := c.purse.payers.any fun p => decide (p.who = 1)
  min 8 c.ta.ents.length + 2 ^ 14 * b2n tok + 2 ^ 15 * b2n win

end Sys2Proof.Machine
end

