-- ==== Sys2Proof/Machine/LaneSync.lean ====
section
/-! DEFINITION. LWAIT and LARR (R375 to R377), PARK.REPLAY and UNPARK (R425, R426). -/

namespace Sys2Proof.Machine

/-! ## LWAIT and LARR -/

/-- The handle of the word in focus and its slot. -/
def laneHandle (s : State) : Nat := lo64 s.lane.word.ua % 2 ^ 32
def laneSlotKey (s : State) : Nat × Nat := (hClu (laneHandle s), hSlot (laneHandle s))

/-- The handle is checked again at issue (R365): the slot still is what the handle names. -/
def handleLive (s : State) : Bool :=
  match handleCheck s s.lane.tid.fid (laneHandle s) (handleAllowed s.lane.word.op) with
  | .ok _ => true
  | .error _ => false

/-- BARGEN at the emitting thread's next boundary, TVAL the handle (R422). -/
def raiseGen (s : State) : State := raiseTrap s s.lane.tid .bargen (BitVec.ofNat 64 (laneHandle s)) 0

/-- LWAIT (R376): held until the slot's phase is not p (B[15:0], DEDUCED, log 31); then an acquire whose horizon
is the moment of the phase change, once on each cluster, which waits for the stream's earlier reads there (R310). A slot
that was freed ends the hold. -/
def execLwait (x : LaneWord) (s : State) : Out :=
  let act := activeMask s x
  let c := cissueOf s
  let p := lo64 s.lane.word.ub % 65536
  let b := barAt s s.lane.tid.fid (laneSlotKey s)
  let pass (s : State) : Out :=
    .next (issued (setCissue s { c with slots := c.slots ||| 2 ^ s.lane.slot, done := true }) x act true)
  let acquire (s : State) (h : Nat) : Out :=
    if acquireLane s then pass (l1Invalidate s s.lane.pid h) else holdWord s
  if c.done then pass s
  else match c.acq with
  | some h => acquire s h
  | none =>
    if !handleLive s then pass (raiseGen s)
    else if b.phase = p then holdWord s
    else acquire (setCissue s { c with acq := some b.t }) b.t

/-- LARR (R377): on a lane-counted slot each group's active lanes arrive at its issue, or, behind an LFENCE that the
cluster has not made, when it makes it (log 126); on an arrival-counted one the member arrives once, at its cluster issue,
where some group had an active lane. -/
def execLarr (x : LaneWord) (s : State) : Out :=
  let h := laneHandle s
  if hKind h = 1 then
    freeWordAct x (fun s act =>
      if !handleLive s then raiseGen s
      else if fenceOpen s s.lane.slot s.lane.word.seq then modStr s s.lane.tid s.lane.str fun st =>
        { st with owedArr := st.owedArr ++ [(laneMember s, s.lane.slot, s.lane.word.seq, h, act)] }
      else addLanes s s.lane.tid h (laneMember s) s.lane.slot act) s
  else onceWord x (fun s c =>
    if !handleLive s then (raiseGen s, true)
    else if !c.active then (s, true)
    else match addArrivals s s.lane.tid.fid (laneSlotKey s) 1 with
      | some s => (s, true)
      | none => (raiseTrap s s.lane.tid .barover (BitVec.ofNat 64 h) 0, true)) s

/-! ## PARK.REPLAY and UNPARK (R426) -/

/-- The selected (member, slot) pairs, or none where an operand breaks R426. -/
def parkPairs (s : State) (a b : GReg) : Option (List (Nat × Nat)) :=
  match curStream (me s) with
  | none => none
  | some (_, st) =>
    let g := rdN s a
    let c := rdN s b
    if decide (g < 2 ^ 16) && decide (c < 2 ^ 16) && decide (g ||| st.gmask = st.gmask) && decide (c ||| st.cmask = st.cmask)
    then some ((setBits 16 (if c = 0 then st.cmask else c)).flatMap fun m => (setBits 16 g).map fun k => (m, k))
    else none

/-- PARK.REPLAY: a replay run is queued on each selected pair that has a park record. -/
def execParkReplay (sb : Bool) (a b : GReg) (s : State) : Out :=
  let i := wordOf (.parkReplay sb a b)
  match parkPairs s a b with
  | none => trap s .strarg i
  | some ps =>
    if hasOpenRun s then trap s .run i
    else .next (advance (ps.foldl (fun s p => s.modGrp (myFid s) p.1 p.2 fun g =>
      { g with prec := g.prec.map fun r => { r with queued := r.queued + 1 } }) s) 4)

/-- The parked lanes of a pair go back to EXMASK, or exit, and the record is cleared. -/
def unparkPair (s : State) (kill : Bool) (p : Nat × Nat) : State :=
  let g := s.grp (myFid s) p.1 p.2
  if g.prec.isNone then s
  else
    let s := s.modGrp (myFid s) p.1 p.2 fun g =>
      { g with ex := if kill then g.ex else g.ex ||| g.park, exit := if kill then g.exit ||| g.park else g.exit
               park := 0, prec := none }
    if kill && decide (g.park ≠ 0) then exitEvent s (myFid s) p.1 p.2 else s

/-- An access of a replayed word has not retired: it belongs to a lane that is still parked, at or behind the lane's resume
position (R381, R426). -/
def replayAccess (pid slot : Nat) (g : Group) (r : ParkRec) (o : MemOp) : Bool :=
  decide (o.tid = r.tid) && decide (o.str = some r.str) && decide (o.pid = pid) && decide (o.slot = slot) && g.park.testBit o.lane
    && (r.words.drop (r.resume.get o.lane 33)).any fun w => decide (w.1.seq = o.seq)

/-- A replay of a pair is queued, runs, or has accesses that have not retired. -/
def replayOwed (s : State) (p : Nat × Nat) : Bool :=
  let g := s.grp (myFid s) p.1 p.2
  g.prec.any fun r => decide (0 < r.queued) || r.replaying
    || s.ops.any (replayAccess (s.pidOf (myFid s) p.1) p.2 g r)

/-- UNPARK: it stalls until the replays queued on the selected pairs have retired. -/
def execUnpark (sb : Bool) (a b : GReg) (kill : Bool) (s : State) : Out :=
  match parkPairs s a b with
  | none => trap s .strarg (wordOf (.unpark sb a b kill))
  | some ps =>
    if ps.any (replayOwed s) then
      stall s ((me s).wait.getD ⟨s.now, [], none⟩)
    else .next (advance (endWait (ps.foldl (fun s p => unparkPair s kill p) s)) 4)

end Sys2Proof.Machine
end

