-- ==== Sys2Proof/Machine/RunStart.lean ====
section
/-! DEFINITION. The pipes: the registers a lane word reads and writes, the runs a pipe may take and the issue
arbiter's choice (R17, R42, R198, R414, R425), the turn of a pipe, replays (R426), and the checking
scoreboard (R449). -/

namespace Sys2Proof.Machine

/-! ## Registers of a lane word (R199) -/

/-- The predicates that a word reads (R38, R48, R221 to R224, R241, R242). -/
def lanePreds (op : Nat) (x : LaneWord) : List Nat :=
  (if x.sel.toNat < 12 then [x.sel.toNat] else []) ++ match op with
  | 0x180 | 0x181 => if x.comb = 0 then [] else [x.dN]
  | 0x182 => [x.aN, x.bN]
  | 0x183 => if x.m = 0 then [] else List.range 12
  | 0x184 => [x.cN]
  | 0x201 | 0x202 => [x.aN]
  | _ => []

/-- A word reads or writes a v register of a span. -/
def touches (e : EWord) (reg n : Nat) : Bool :=
  (laneSpans e.op e.x).any fun f => decide (f.1 < 128) && rangesMeet f.1 f.2.1 reg n

/-! ## The meaning of each lane opcode, by number -/

/-- A lane word by its opcode: what its pipe does with it. A word that is no lane instruction of a run does
nothing. -/
def issueOp (op : Nat) (x : LaneWord) (s : State) : Out :=
  match op with
  | 0x000 => execIadd x s | 0x001 => execIsub x s | 0x002 => execImul x s | 0x003 => execImulh x s
  | 0x004 => execImad x s | 0x005 => execImin x s | 0x006 => execImax x s | 0x007 => execIabs x s
  | 0x008 => execAndLane x s | 0x009 => execOrLane x s | 0x00A => execXorLane x s | 0x00B => execNotLane x s
  | 0x00C => execShlLane x s | 0x00D => execShrLane x s | 0x00E => execRotl x s | 0x00F => execBfe x s
  | 0x010 => execBfi x s | 0x011 => execPopcLane x s | 0x012 => execClzLane x s | 0x013 => execBrev x s
  | 0x014 => execMovLane x s | 0x015 => execIadd3 x s | 0x016 => execIsad x s | 0x018 => execImulw x s
  | 0x019 => execImadw x s | 0x01A => execIdp4 x s | 0x01B => execIdp2 x s
  | 0x080 => execFadd x s | 0x081 => execFsub x s | 0x082 => execFmul x s | 0x083 => execFfma x s
  | 0x084 => execFmin x s | 0x085 => execFmax x s | 0x086 => execFabs x s | 0x087 => execFneg x s
  | 0x088 => execFdp2 x s | 0x089 => execFdp4 x s | 0x08A => execFrnd x s
  | 0x100 => execCvt x s | 0x101 => execCvts x s | 0x102 => execCbd x s | 0x103 => execPack x s
  | 0x104 => execUnpk x s | 0x180 => execIcmp x s | 0x181 => execFcmp x s | 0x182 => execPlop x s
  | 0x183 => execPmov x s | 0x184 => execSel x s | 0x185 => execLexit x s | 0x186 => execNop x s
  | 0x188 => execRcp x s | 0x189 => execRsq x s | 0x18A => execSqrt x s | 0x18B => execExp2 x s
  | 0x18C => execLog2 x s | 0x18D => execSin x s | 0x18E => execCos x s | 0x190 => execCte x s
  | 0x191 => execCtld x s | 0x200 => execShfl x s | 0x201 => execVote x s | 0x202 => execBallot x s
  | 0x203 => execReduce x s | 0x204 => execScan x s | 0x205 => execBcast x s | 0x206 => execRegroup x s
  | 0x207 => execUni x s | 0x280 => execLd x s | 0x281 => execSt x s | 0x282 => execLdt x s
  | 0x283 => execLdb x s | 0x284 => execAtom x s | 0x285 => execRed x s | 0x286 => execLfence x s
  | 0x288 => execStashMap x s | 0x289 => execStashFlush x s | 0x28A => execStashDrop x s
  | 0x300 => execCp x s | 0x301 => execCp2d x s | 0x302 => execCpt x s | 0x303 => execCpg x s
  | 0x304 => execCpset x s | 0x305 => execQfence x s | 0x308 => execMm x s | 0x309 => execMmy x s
  | 0x30A => execMzero x s | 0x30B => execMcbt x s | 0x310 => execTaWin x s | 0x311 => execTaDly x s
  | 0x312 => execTaMode x s | 0x313 => execTaGo x s | 0x314 => execTaCapt x s | 0x315 => execTaClr x s
  | 0x318 => execLwait x s | 0x319 => execLarr x s | 0x3C0 => execIdiv x s | 0x3C1 => execIrem x s
  | 0x3C2 => execFdiv x s
  | _ => .next s

/-! ## The focus of a pipe -/

/-- The state with a run on a pipe and a word of it in focus. -/
def focusWord (s : State) (pid pipe : Nat) (p : PipeRun) (w : EWord) (act : Nat) : State :=
  { s with lane := { pid := pid, pipe := pipe, tid := p.tid, str := p.str, slot := p.slot, word := w, act := act
                     replay := p.replay, held := false } }

/-- A word that acts once per cluster (R483). -/
def isOnce (e : EWord) : Bool :=
  let op := e.op
  isCopyOp op || isMatrixOp op || decide (op = 0x191) || isTaOp op || isStashOp op || decide (op = 0x286)
    || (decide (op = 0x319) && decide (hKind (lo64 e.ua % 2 ^ 32) ≠ 1))

/-- The entry of the park record at a replay's position. -/
def replayEntry (s : State) (p : PipeRun) (pid : Nat) : Option (EWord × Nat × Bool) :=
  (s.grp p.tid.fid ((s.flk p.tid.fid).clus.idxOf pid) p.slot).prec.bind fun r => r.words[p.pos]?

/-- A replay passes over VOTE, UNI and a word that has acted for its cluster (R426). -/
def skipped (s : State) (p : PipeRun) (pid : Nat) : Bool :=
  p.replay && (replayEntry s p pid).any fun w => decide (w.1.op = 0x201) || decide (w.1.op = 0x207) || (isOnce w.1 && w.2.2)

/-- The lanes of a replay at its position: those still parked whose resume position it has reached; a word from
the position at which the lane parked counts as one that the lane was active for, and an earlier one counts where it was
(R246, R426, R428; DEDUCED, log 44). -/
def replayLanes (s : State) (p : PipeRun) (pid : Nat) : Nat :=
  let g := s.grp p.tid.fid ((s.flk p.tid.fid).clus.idxOf pid) p.slot
  match g.prec with
  | none => 0
  | some r =>
    (setBits 32 (g.park &&& (p.lost ^^^ allLanes))).foldl (init := 0) fun acc l =>
      if decide (r.resume.get l 33 ≤ p.pos) && (decide (r.since.get l 0 ≤ p.pos) || ((r.words[p.pos]?).any fun w => w.2.1.testBit l))
      then acc ||| 2 ^ l else acc

/-- The word at a run's position, in focus on a pipe. -/
def focusRun (s : State) (pid pipe : Nat) (p : PipeRun) : Option State :=
  (p.run.words[p.pos]?).map fun w => focusWord s pid pipe p w (if p.replay then replayLanes s p pid else 0)

/-! ## Runs that a pipe may take (R17, R425, R436) -/

def freshRun (s : State) (t : Tid) (n slot : Nat) (r : Run) : PipeRun :=
  { tid := t, str := n, slot := slot, run := r, pos := 0, ready := s.now, w := [], fix := [], acts := []
    replay := false, faultRec := none, lost := 0, checked := false, denied := none }

/-- The replay that a park record asks for. -/
def replayRun (s : State) (slot : Nat) (r : ParkRec) : PipeRun :=
  { freshRun s r.tid r.str slot ⟨r.base, r.words.map (·.1), r.trl, 0⟩ with w := r.w, replay := true }

/-- The next unfinished run of every stream on every bound group of a cluster. -/
def streamHeads (s : State) (pid : Nat) : List PipeRun :=
  s.threads.flatMap fun t =>
    let f := s.flk t.1.fid
    if !f.resident || f.preReq then []
    else
      let m := f.clus.idxOf pid
      t.2.streams.flatMap fun e =>
        if !e.2.cmask.testBit m || decide (f.clus.length ≤ m) then []
        else (setBits 16 e.2.gmask).filterMap fun sl => ((restRuns e.2 (m, sl)).head?).map fun r => freshRun s t.1 e.1 sl r

/-- The replays queued on a cluster. -/
def queuedReplays (s : State) (pid : Nat) : List PipeRun :=
  s.groups.filterMap fun g =>
    let f := s.flk g.1.1
    match g.2.prec with
    | some r => if f.resident && !f.preReq && decide (0 < r.queued) && !r.replaying && decide (f.clus.getD g.1.2.1 512 = pid)
        then some (replayRun s g.1.2.2 r) else none
    | none => none

/-- The slot of a run is free: no other pipe runs it, a cut remainder comes first, and a park record lets in
nothing but its replay. -/
def slotFree (s : State) (pid : Nat) (p : PipeRun) (cut : Bool) : Bool :=
  let c := s.clu pid
  let m := (s.flk p.tid.fid).clus.idxOf pid
  let g := s.grp p.tid.fid m p.slot
  !(c.pipes.any fun e => decide (e.2.tid.fid = p.tid.fid) && decide (e.2.slot = p.slot))
    && (cut || !(c.cuts.any fun e => decide (e.tid.fid = p.tid.fid) && decide (e.slot = p.slot)))
    && (p.replay || cut || g.prec.isNone) && decide (g.fixEnd ≤ s.now) && (cut || !regroupPending s p.tid.fid m p.slot)

/-- The scoreboard lets a run start: no register that a trailer named, and that a word of the run reads or
writes, awaits its result (R42). -/
def boardClear (s : State) (pid : Nat) (p : PipeRun) : Bool :=
  let g := s.grp p.tid.fid ((s.flk p.tid.fid).clus.idxOf pid) p.slot
  !(g.out.any fun o => o.named && (p.run.words.drop p.pos).any fun w => touches w o.reg o.span)

/-- The state in which a run stands on a pipe. -/
def place (s : State) (pid pipe : Nat) (p : PipeRun) : State :=
  s.modClu pid fun c => { c with pipes := c.pipes.set pipe p }

/-- A purse that pays everything in a window that begins now, at the debit factor 1: what it spends is the price. -/
def richPurse (now : Nat) : Purse := { Purse.placed with tokens := 2 ^ 40, limit := 2 ^ 40, windowStart := now }

/-- The price of a run's next word, where it is ready in every respect except tokens (R17): the word is tried
with a purse that pays everything. -/
def readyPrice (s : State) (pid pipe : Nat) (p : PipeRun) : Option Nat :=
  if skipped s p pid then some 0
  else
    let t := place s pid pipe p
    let t := (modPurse t pid fun _ => richPurse s.now).modQuad (pid / 4) fun q => { q with f := 3 }
    match focusRun t pid pipe p with
    | none => some 0
    | some t => match issueOp t.lane.word.op t.lane.word.x t with
      | .next u => if u.lane.held then none else some ((u.clu pid).purse.spend)
      | _ => none

def keyOf (p : PipeRun) : ReadyKey := ⟨p.tid, p.str, p.slot, p.run.idx, p.replay⟩

/-- The runs that a pipe may take now, with their prices. -/
def readyRuns (s : State) (pid pipe : Nat) : List (PipeRun × Nat) :=
  let c := s.clu pid
  let ok (cut : Bool) (p : PipeRun) : Option (PipeRun × Nat) :=
    if slotFree s pid p cut && boardClear s pid p then (readyPrice s pid pipe p).map fun k => (p, k) else none
  c.cuts.filterMap (ok true) ++ (queuedReplays s pid).filterMap (ok false) ++ (streamHeads s pid).filterMap (ok false)

/-! ## The arbiter's choice (R414) -/

/-- The first element of a list under a key of three numbers in order. -/
def pickMin {α : Type} (key : α → Nat × Nat × Nat) : List α → Option α
  | [] => none
  | a :: l => match pickMin key l with
    | none => some a
    | some b =>
      let x := key a
      let y := key b
      if y.1 < x.1 ∨ (y.1 = x.1 ∧ (y.2.1 < x.2.1 ∨ (y.2.1 = x.2.1 ∧ y.2.2 < x.2.2))) then some b else some a

/-- When the arbiter first found a run ready (log 32). -/
def readySince (c : Cluster) (now : Nat) (p : PipeRun) : Nat :=
  ((c.ready.find? fun e => decide (e.1 = keyOf p)).map (·.2)).getD now

/-- R414: a run ready for 256 cycles, oldest first; after a heavy window the smallest price; else the oldest. -/
def chooseRun (s : State) (pid : Nat) (rs : List (PipeRun × Nat)) : Option (PipeRun × Nat) :=
  let c := s.clu pid
  let heavy := decide (c.purse.lastLimit < 2 * c.purse.lastSpend)
  pickMin (fun e =>
    let t := readySince c s.now e.1
    if 256 ≤ cyclesSince (cluMHz s pid) t s.now then (0, t, e.1.run.born)
    else (1, if heavy then e.2 else t, e.1.run.born)) rs

/-- The denied word of a cut run asks on its new pipe with the age it had (R420). -/
def rejoin (s : State) (pid pipe : Nat) (p : PipeRun) : State :=
  match p.denied with
  | some (age, debit) => modPurse s pid fun x => { x with payers := x.payers ++ [⟨pipeWho pipe, debit, age⟩] }
  | none => s

/-- The arbiter notes which runs of a cluster are ready, and since when; readiness needs no free pipe, so the trial is made on
a pipe of its own (R17, R414; log 32). -/
def noteReadyAt (s : State) (pid : Nat) : List (ReadyKey × Nat) :=
  (readyRuns s pid 4).map fun e => (keyOf e.1, readySince (s.clu pid) s.now e.1)

/-- The same for every cluster. -/
def noteReady (s : State) : State :=
  { s with clusters := s.clusters.mapVals fun pid c => { c with ready := noteReadyAt s pid } }

/-- RUN_START (R17, R414): the free pipe of the lowest number takes the chosen run. A pipe that has issued in this cycle is
not free (R14). -/
def execRunStart (pid pipe : Nat) (s : State) : Out :=
  let free (k : Nat) : Bool := ((s.clu pid).pipes.find k).isNone && decide ((s.clu pid).pipeNext.get k 0 ≤ s.now)
  if 4 ≤ pipe || !free pipe || (List.range pipe).any free || (s.die (pid / 64)).tripped then .next s
  else
    let s := rollSpend s pid
    let rs := readyRuns s pid pipe
    match chooseRun s pid rs with
    | none => .next s
    | some (p, _) =>
      let s := s.modClu pid fun c =>
        { c with ready := c.ready.filter fun e => !decide (e.1 = keyOf p)
                 cuts := c.cuts.filter fun e => !decide (keyOf e = keyOf p) }
      let s := if p.replay then s.modGrp p.tid.fid ((s.flk p.tid.fid).clus.idxOf pid) p.slot fun g =>
          { g with prec := g.prec.map fun r => { r with replaying := true } }
        else s
      .next (rejoin (place s pid pipe { p with denied := none }) pid pipe p)

/-! ## The turn of a pipe -/

/-- A shortfall of R449 at the word of a run: a fixed-latency result of the run that has not landed is read, or
a variable-latency one of an earlier run, named in no trailer, is read or written. -/
def shortfall (s : State) (p : PipeRun) (g : Group) (w : EWord) : Bool :=
  let fs := laneSpans w.op w.x
  let fixed := p.fix.any fun f => decide (s.now < f.lands) &&
    ((fs.any fun r => r.2.2.1 && decide (r.1 ≤ f.code) && decide (f.code < r.1 + r.2.1) && decide (f.code < 192))
      || (lanePreds w.op w.x).any fun k => decide (f.code = 256 + k))
  let mine (o : OutLane) : Bool := decide (o.tid = p.tid) && decide (o.str = p.str) && p.run.words.any fun e => decide (e.seq = o.seq)
  fixed || g.out.any fun o => !o.named && !mine o && touches w o.reg o.span

/-- What a pipe does on its turn: nothing, or the lane word in focus issues. -/
inductive PipeTurn where
  | idle (s : State)
  | word (s : State) (op : Nat) (x : LaneWord)
  deriving Repr

/-- The turn of a pipe: its run ends, waits, passes over a word, stops the thread for the checking scoreboard,
or issues its next word. -/
def pipeTurn (s : State) (pid pipe : Nat) : PipeTurn :=
  match (s.clu pid).pipes.find pipe with
  | none => .idle s
  | some p =>
    if (s.die (pid / 64)).tripped then .idle s
    else match focusRun s pid pipe p with
    | none => .idle (tryEnd (focusWord s pid pipe p EWord.nop 0))
    | some t =>
      if s.now < p.ready then .idle s
      else if skipped s p pid then .idle (modLaneRun t fun p => { p with pos := p.pos + 1, acts := p.acts ++ [(0, true)] })
      else if (s.ctx (s.ctxOf p.tid)).check && shortfall s p (laneGrp t) t.lane.word then
        if p.checked then .idle s
        else
          let t := modLaneRun t fun p => { p with checked := true }
          if !p.replay && (strOf t p.tid p.str).checkStops.contains p.run.idx then .idle t
          else
            let t := if p.replay then t else modStr t p.tid p.str fun st => { st with checkStops := st.checkStops ++ [p.run.idx] }
            .idle (t.modThr p.tid fun y => { y with stopNext := y.stopNext.or (some t.lane.word.seq) })
      else .word t t.lane.word.op t.lane.word.x

/-- A run whose first word turns out to be held by something other than tokens has not started: its pipe is free for others,
and what it asked of the purse is withdrawn (R17). -/
def giveBack (s : State) : State :=
  let pid := s.lane.pid
  let pipe := s.lane.pipe
  match laneRun s with
  | none => s
  | some p =>
    if !s.lane.held || decide (p.pos ≠ 0) || !p.acts.isEmpty then s
    else
      let t := s.modClu pid fun c => { c with pipes := c.pipes.erase pipe }
      if (readyPrice t pid pipe p).isSome then s
      else
        let t := modPurse t pid fun x => { x with payers := x.payers.filter fun q => !decide (q.who = pipeWho pipe) }
        if p.replay then t.modGrp p.tid.fid (laneMember s) p.slot fun g => { g with prec := g.prec.map fun r => { r with replaying := false } }
        else t

end Sys2Proof.Machine
end

