-- ==== Sys2Proof/Machine/MemEvents.lean ====
section
/-! DEFINITION. The events of the memory system: results that land, writes that perform, leases, fills, stash
ownership, update-only grants, walks, the host's accesses and CXL errors. An event whose condition does not hold
changes nothing. -/

namespace Sys2Proof.Machine

/-- The flock of an access is on its clusters. -/
def MemOp.live (s : State) (o : MemOp) : Bool := (s.flk o.tid.fid).resident

/-! ## Performing and landing -/

/-- The TA.CAPT of a number that has been at the head of its queue for 6 cycles (R282). -/
def captureDue (s : State) (id : Nat) : Option (Nat × TaEnt) :=
  s.clusters.findSome? fun e => ((e.2.ta.ents.head?).filter fun t =>
    decide (t.id = id) && decide (t.word.op = 0x314) && t.start.isSome && decide (t.cycles ≤ taCycles s e.1 t)).map fun t => (e.1, t)

/-- VARIABLE_RESULT_LAND (R42): the read of a lane access performs and its result lands; a TA.CAPT lands. -/
def execVariableResultLand (id : Nat) (s : State) : Out :=
  match findOp s id with
  | some o => if o.str.isSome && decide (o.dest ≠ .none) && o.live s then .next (progressOp s o) else .next s
  | none => match captureDue s id with
    | some (pid, t) => .next (retireTa (landCapture s pid t) pid)
    | none => .next s

/-- HOME_WRITE_PERFORM (R306): a store or a RED performs, or a write made earlier learns its GWCT. -/
def execHomeWritePerform (id : Nat) (s : State) : Out :=
  match findOp s id with
  | some o => if o.deed.writes && decide (o.dest = .none) && o.live s then .next (progressOp s o) else .next s
  | none => .next s

/-! ## Leases and fills of the L1 (R303, R304, R153, R155, R156) -/

/-- The L1 sector of an address. -/
def l1Sec (s : State) (pid pa : Nat) : Option L1Sector :=
  (l1Line (s.clu pid) (lineOf pa)).bind fun l => l.sectors.find (pa / 32 % 8)

def modL1Sec (s : State) (pid pa : Nat) (f : Table Nat L1Sector → Table Nat L1Sector) : State :=
  s.modClu pid fun c => { c with l1 := c.l1.map fun l => if l.line = lineOf pa then { l with sectors := f l.sectors } else l }

/-- LEASE_GRANT (R304): the home grants a fill that is pending in a cluster's L1. -/
def execLeaseGrant (pid _ctx pa : Nat) (s : State) : Out :=
  match l1Sec s pid pa with
  | some x => if x.pending && !x.granted && !readHeld s pa then .next (l1Grant s pid pa) else .next s
  | none => .next s

/-- LEASE_EXPIRY (R153): a copy whose lease is over leaves the L1. -/
def execLeaseExpiry (pid pa : Nat) (s : State) : Out :=
  match l1Sec s pid pa with
  | some x => if !x.pending && decide (x.expiry ≤ dt s) then .next (modL1Sec s pid pa fun t => t.erase (pa / 32 % 8)) else .next s
  | none => .next s

/-- The fill of a stash sector: only the bytes that no write has touched (R156, R159). -/
def stashFill (s : State) (pid : Nat) (e : StashEnt) (k pa ot touched : Nat) : State :=
  let old := s.localRead e.fid e.clu (e.off + 32 * k) 32
  let bs := (List.range 32).map fun i => if touched.testBit i then old.getD i 0 else s.mem.read (pa + i)
  let s := s.localWrite e.fid e.clu (e.off + 32 * k) bs
  setSector s pid e.va k (if touched = 0 then .clean pa ot else .dirty pa ot touched)

/-- The stash sectors of a cluster that hold a physical address and are in a state of interest. -/
def stashAt (c : Cluster) (pa : Nat) (f : StashSt → Bool) : Option (StashEnt × Nat × StashSt) :=
  c.stash.findSome? fun e => e.sectors.findSome? fun k =>
    let p := match k.2 with
      | .unfilled => none
      | .pending p _ _ => some p
      | .clean p _ => some p
      | .dirty p _ _ => some p
    if p = some (pa / 32 * 32) ∧ f k.2 then some (e, k.1, k.2) else none

/-- SECTOR_FILL_LAND (R155, R156): a granted fill lands, in the L1 or in a stash sector of the cluster; or a fill of the
cluster's own L2 slice lands. -/
def execSectorFillLand (pid pa : Nat) (s : State) : Out :=
  let l1Done := (l1Sec s pid pa).any fun x => x.pending && x.granted
  if l1Done then
    .next (modL1Sec s pid pa fun t => t.mapVals fun k x => if k = pa / 32 % 8 then { x with pending := false, touched := 0 } else x)
  else
    let granted : StashSt → Bool := fun x => match x with
      | .pending _ ot _ => ot.isSome
      | _ => false
    match stashAt (s.clu pid) pa granted with
    | some (e, k, .pending p (some ot) t) => .next (stashFill s pid e k p ot t)
    | _ => .next (s.modClu pid fun c => l2Land c pa)

/-! ## Ownership of stash sectors (R159, R160) -/

/-- Every lease that the home has recorded against a line is over. -/
def leasesOver (s : State) (pa : Nat) : Bool := (s.homeOf pa).expiry.all fun e => decide (e.2 ≤ dt s)

/-- STASH_OWNERSHIP_GRANT (R159): the home makes the cluster the sole owner, once no lease of the line lives, with
ownership from the host where that owns the line (R92), and nothing holds the claim. The bytes that have merged already
learn their GWCT (R307). -/
def execStashOwnershipGrant (pid va : Nat) (s : State) : Out :=
  match stashVa s pid va with
  | none => .next s
  | some e =>
    let k := (va - e.va) / 32
    match e.st k with
    | .pending pa none t =>
      if !leasesOver s pa || writeHeld s pa || !(s.flk e.fid).resident then .next s
      else
        let s := l2Touch (obtain (oweSector (atHome s pa 32) pid e k (some (dt s)) default) pa 32 2) pa 32 1 false false
        let s := s.modHome pa fun h => { h with owners := h.owners.set (pa / 32 % 8) (pid, e.va + 32 * k) }
        .next (setSector s pid e.va k (.pending pa (some (dt s)) t))
    | _ => .next s

/-- An access to some byte of a range is waiting to perform at its home. -/
def waitsAtHome (s : State) (a n : Nat) (p : MemOp → Bool) : Bool :=
  s.ops.any fun o => o.made.isNone && o.live s && p o && (match serveOf s o with
    | .home _ pa => rangesMeet pa o.n a n
    | _ => false)

/-- STASH_RECALL (R160): the home recalls an owned sector for an access from elsewhere. -/
def execStashRecall (pa : Nat) (s : State) : Out :=
  if waitsAtHome s (pa / 32 * 32) 32 (fun _ => true) then .next (recallSector s pa) else .next s

/-! ## Update-only lines (R298, R299) -/

/-- The refusal of a grant: the gathered elements go to the home as REDs (R298), each an atomic of its own (R453). -/
def uoRefuse (s : State) (pid line : Nat) (u : UoLine) : State :=
  let (s, g) := applyVals (atHome s (line * 256) 256) pid line u true
  (owe s (fun o => o.inUo pid line) none g).modClu pid fun c => { c with l1 := c.l1.map fun l =>
    if l.line = line then { l with uo := some { u with vals := [], refused := true } } else l }

/-- UPDATE_ONLY_GRANT (R298): the home enters the cluster in the sharer set, or refuses. -/
def execUpdateOnlyGrant (pid line : Nat) (room : Bool) (s : State) : Out :=
  match uoAt (s.clu pid) line with
  | none => .next s
  | some u =>
    let pa := line * 256
    if u.ut.isSome || u.refused || !leasesOver s pa || writeHeld s pa then .next s
    else
      let s := (List.range 8).foldl (init := s) fun s k => recallSector s (pa + 32 * k)
      if !room then .next (uoRefuse s pid line u)
      else
        let other := (s.homeOf pa).sharers.any fun p => (uoAt (s.clu p) line).any fun v =>
          decide (v.op ≠ u.op) || decide (v.width ≠ u.width)
        let s := if other then combine s line else s
        let s := owe s (fun o => o.inUo pid line) (some (dt s)) default
        let s := s.modHome pa fun h => { h with sharers := h.sharers ++ [pid] }
        .next (s.modClu pid fun c => { c with l1 := c.l1.map fun l =>
          if l.line = line then { l with uo := some { u with ut := some (dt s) } } else l })

/-- UPDATE_ONLY_COMBINE (R299): the home combines a line for an access that does not gather. -/
def execUpdateOnlyCombine (line : Nat) (s : State) : Out :=
  if waitsAtHome s (line * 256) 256 (fun o => !gathers s o) && decide ((s.homeOf (line * 256)).sharers ≠ [])
  then .next (combine s line) else .next s

/-! ## Walks (R78, R82) -/

/-- TABLE_WALK (R78): a walker resolves a page for a cluster that runs the context. -/
def execTableWalk (pid ctx va : Nat) (s : State) : Out :=
  let runs := s.flocks.any fun f => decide (f.2.ctx = ctx) && f.2.resident && f.2.clus.contains pid
  if !runs || !canonical va || !(s.ctx ctx).en then .next s else .next (leafFor s pid ctx va).1

/-! ## The host (R74, R92, R305) -/

/-- The device gives a line back to the host: owned sectors are recalled, every L1 copy loses its lease, and the slice
drops the line (R92, R160, R305). -/
def snoopLine (s : State) (pa : Nat) : State :=
  let a := pa / 256 * 256
  let s := (List.range 8).foldl (init := s) fun s k => recallSector s (a + 32 * k)
  let s := (l1EndLease s (lineOf pa)).modClu (homeSlice s pa) fun c => { c with
    l2 := c.l2.filter fun l => !decide (l.line = lineOf pa)
    pins := c.pins.filter fun l => !decide (l.line = lineOf pa) }
  s.modHome pa fun h => { h with grant := 0 }

/-- One byte of the host's access. On a device-biased page it is served at the home, and a host copy of the line is
recorded; a migration's lock holds a write, which then stands there (R89). On a host-biased page memory serves it, once the host has taken back what
the device holds of the line: all of it for a write, its ownership for a read (R92, R317). -/
def hostByte (s : State) (wr : Bool) (pa data : Nat) : State :=
  let s := holdIf (pinHeld s pa) s
  let byte : Byte := BitVec.ofNat 8 data
  if wr && lockHeld s pa then { s with late := s.late ++ [⟨noClu, pa, [byte], 0, false⟩] }
  else if devBiased s pa then
    let s := if wr then (writeAtHome (noteRaces s none noClu (.home pa pa) pa 1) noClu pa [byte]).1 else (readAtHome s pa 1).1
    s.modHome pa fun h => { h with hostCopy := true }
  else
    let s := if (if wr then 1 else 2) ≤ (s.homeOf pa).grant then snoopLine s pa else s
    if wr then (homeWrite (noteRaces s none noClu (.home pa pa) pa 1) noClu pa [byte]).1 else s

/-- HOST_CXL_MEM_ACCESS (R74, R92): a read or write of `len` bytes of device memory by the host. -/
def execHostCxlMemAccess (wr : Bool) (hpa len data : Nat) (s : State) : Out :=
  if hpa < s.pkg.hb ∨ s.pkg.hb + devTop < hpa + len then .fault (.noSuchAddress hpa)
  else if s.pkg.stage < 2 then .next s
  else .next ((List.range len).foldl (fun s i => hostByte s wr (hpa - s.pkg.hb + i) (data / 256 ^ i)) s)

/-- CXL_CACHE_SNOOP (R305, R160): the host takes a line that it owns from the device. -/
def execCxlCacheSnoop (pa : Nat) (s : State) : Out :=
  if devBiased s pa || !(isDev pa || isHost pa) then .next s
  else .next (snoopLine s pa)

/-! ## CXL errors (R428) -/

/-- A posted store whose completion is an error: a write-back record and the context events WBFAULT and CXLERR. It has
performed, or, where it has not yet, whether the host took the bytes is open (log 33). -/
def postedError (s : State) (o : MemOp) : State :=
  let s := if o.made.isNone && Config.freeBit s.tick 0 then perform s o else s
  let s := dropOp (noteWrite s o (gwctOf s o.pid o.pa)) o.id
  let r := recHead Cause.cxlerr.code 5 0 o.seq ++ leBytes 8 o.va ++ leBytes 4 o.n ++ List.replicate 10 0 ++ leBytes 2 o.pid
  let s := (faultRecord s o.ctx o.pid r).1
  ctxEvent (ctxEvent s o.ctx 4) o.ctx 5

/-- A generator load or atomic whose completion is an error traps precisely. -/
def genReadError (s : State) (o : MemOp) : State :=
  let s := dropOp s o.id
  let keep (r : OutReg) : Bool := !decide (r.pend = .mem o.id)
  let s := s.modThr o.tid fun x => { x with out := x.out.filter keep, hostOp := none, acqOp := x.acqOp.filter fun a => !decide (a.1 = o.id) }
  takeTrap s o.tid .cxlerr (BitVec.ofNat 64 o.va) (s.thr o.tid).pc

/-- The pipe that still runs the run of a lane access. -/
def pipeOf (s : State) (o : MemOp) : Option (Nat × PipeRun) :=
  (s.clu o.pid).pipes.find? fun e => decide (e.2.tid = o.tid) && decide (some e.2.str = o.str) && decide (e.2.slot = o.slot)
    && (e.2.run.words[o.pos]?).any fun w => decide (w.seq = o.seq)

/-- The lanes that lose an access: its own, or every receiver of an LDB; and how far into the lane's access it
starts. -/
def MemOp.losers (o : MemOp) : Nat × Nat :=
  match o.dest with
  | .bcast _ m _ _ => (m, 0)
  | .tile _ _ _ _ _ d => (2 ^ o.lane, d)
  | _ => (2 ^ o.lane, 0)

/-- A lane load or atomic whose completion is an error: its lane parks at that word, late. A lane that has exited
since does not park: the masks never share a bit (R357; DEDUCED, log 45). -/
def laneReadError (s : State) (o : MemOp) : State :=
  match pipeOf s o with
  | none => s
  | some (pipe, p) =>
    let (lost, d) := o.losers
    let same (e : MemOp) : Bool := decide (e.tid = o.tid) && decide (e.str = o.str) && decide (e.seq = o.seq)
      && decide (e.pid = o.pid) && decide (e.slot = o.slot) && decide (e.pos = o.pos) && decide (e.lane = o.lane)
      && (e.made.isNone || e.got.isSome)
    let s := clearOut { s with ops := s.ops.filter fun e => !same e } o
    let cur := s.lane
    let s := focusWord s o.pid pipe p o.word 0
    let g := laneGrp s
    let gone := lost ||| (if p.replay then p.lost else g.park)
    let done := ((p.acts.getD o.pos (0, false)).1) &&& (gone ^^^ allLanes)
    let s := parkLanes s o.word o.pos done ((setBits 32 (lost &&& (g.exit ^^^ allLanes))).map fun l => (l, .cxlerr, o.va - d))
    { s with lane := cur }

/-- A copy chunk with a source that it has still to read, or a destination, in the host window: where it begins there.
DESIGN CHOICE: of several, the source comes before the destination (log 30). -/
def hostSeg (s : State) (pid : Nat) (e : CopyEnt) (c : Chunk) : Option Nat :=
  let onHost (sp a : Nat) (acc : Acc) : Bool := match (resolve s c.pages true e.tid pid sp a acc).2 with
    | .ok (.home _ pa, _) => isHost pa
    | .ok (.stash _ _ _ pa, _) => isHost pa
    | _ => false
  (e.chunkSegs c.k).findSome? fun g =>
    if e.word.op ≠ 0x304 ∧ c.st = .started ∧ onHost (srcSpace e) g.src .load then some g.src
    else if onHost (dstSpace e) g.dst .store then some g.dst else none

/-- The first chunk of an operation that a CXL error can be about: the earliest that uses the host window and has not landed
(log 30). -/
def hostChunk (s : State) (pid : Nat) (e : CopyEnt) : Option (Nat × Nat) :=
  e.chunks.findSome? fun c => (hostSeg s pid e c).map fun a => (c.k, a)

/-- A copy chunk that CXL answers with an error faults; the posted writes of a chunk of a pre-empted flock are answered too,
and its queue faults once it is back (R137, R140). -/
def copyError (s : State) (id : Nat) : State :=
  let at_ (e : CopyEnt) (x : CopyQ) : Bool := decide (e.id = id) && !x.halted
  let live := s.clusters.findSome? fun c => c.2.cq.findSome? fun q => ((q.2.ents.head?).filter fun e => at_ e q.2).map fun e => (c.1, q.1, e)
  match live with
  | some (pid, q, e) => match hostChunk s pid e with
    | none => s
    | some (k, a) => faultHead s pid q k .cxlerr a 0
  | none =>
    let fix (f : Flock) (m : Nat) (v : SavedClu) : SavedClu := { v with cq := v.cq.mapVals fun _ x => match x.ents with
      | [] => x
      | e :: es => match at_ e x, hostChunk s (f.clus.getD m 512) e with
        | true, some (k, a) => { x with ents := e.failAt k .cxlerr a 0 :: es }
        | _, _ => x }
    { s with flocks := s.flocks.mapVals fun _ f =>
        if f.saved.isEmpty then f else { f with saved := (List.range f.saved.length).filterMap fun m => (f.saved[m]?).map (fix f m) } }

/-- The completion of a host-window access is an error. -/
def cxlFail (s : State) (id : Nat) : State :=
  match findOp s id with
  | none => copyError s id
  | some o =>
    let atHost := match serveOf s o with
      | .home _ pa => isHost pa
      | _ => false
    if !atHost || o.gw.isSome || (o.made.isSome && o.deed.reads) || !o.live s then s
    else match o.deed, o.str with
    | .store _, _ => postedError s o
    | _, none => if (s.thr o.tid).hostOp.any fun h => decide (h.1 = o.id) then genReadError s o else s
    | _, some _ => laneReadError s o

/-- CXLERR (R428). -/
def execCxlerr (id : Nat) (s : State) : Out := .next (cxlFail s id)

/-- CXL_COMPLETION_TIMEOUT (R428): it completes as CXLERR. -/
def execCxlCompletionTimeout (id : Nat) (s : State) : Out := .next (cxlFail s id)

end Sys2Proof.Machine
end

