-- ==== Sys2Proof/Machine/Debug.lean ====
section
/-! DEFINITION. Debug stops, sampling and boundary traps of threads (R423, R442 to R449), and the turn of a thread
(R320). -/

namespace Sys2Proof.Machine

/-! ## Threads of a context on a cluster -/

/-- The threads of a context's resident flocks on a cluster. -/
def threadsOn (s : State) (ctx pid : Nat) : List (Tid × Thread) :=
  s.threads.filter fun e => (s.flk e.1.fid).resident && decide ((s.flk e.1.fid).ctx = ctx) && decide (s.pidOf e.1.fid e.1.clu = pid)

/-- A thread that has started and not ended (R443). -/
def TStatus.alive : TStatus → Bool
  | .ended => false
  | _ => true

def modCtxThreads (s : State) (ctx : Nat) (f : Tid → Thread → Thread) : State :=
  { s with threads := s.threads.map fun e => if (s.flk e.1.fid).ctx = ctx then (e.1, f e.1 e.2) else e }

/-- Between two instructions: none has begun and waits (log 34). -/
def Thread.atBoundary (x : Thread) : Bool := x.wait.isNone && x.hostOp.isNone

/-- The die of a thread's cluster has tripped (R421). -/
def dieStopped (s : State) (pid : Nat) : Bool := (s.die (pid / 64)).tripped

/-- A thread that can go on: running, not stopped, on a cluster that issues. -/
def canRun (s : State) (t : Tid) : Bool :=
  let x := s.thr t
  (s.flk t.fid).resident && decide (x.status = .running) && x.stopped.isNone && !dieStopped s (s.pidOf t.fid t.clu)

/-! ## Safe points (R31, R445) -/

/-- The stop bit of an instruction: bit 29 of its first parcel; a lane word has none (R31). DESIGN CHOICE: a parcel that is
no instruction is no safe point, whatever its bit 29 and the table say (log 134). -/
def stopBit (i : Instr) : Bool :=
  match i with
  | .laneWordEmit _ => false
  | .trl _ => false
  | _ => match encode i with
    | some (_, w) => w.testBit 29
    | none => false

/-- The safe-point table of a thread's kernel image, ascending by address (R72, R445; log 35). -/
def safeTable (s : State) (t : Tid) : List (Nat × Word64) :=
  let f := s.flk t.fid
  s.pkg.safePoints.get (f.ctx, f.rcd.image) []

/-- The addresses of the safe points of a thread's kernel image. -/
def safeOf (s : State) (t : Tid) : List Nat := (safeTable s t).map (·.1)

/-- The live mask names a register at a safe point; away from safe points every register counts (R445). -/
def liveAt (s : State) (t : Tid) (pc reg : Nat) : Bool :=
  match (safeTable s t).find? fun e => decide (e.1 = pc) with
  | some e => e.2.getLsbD reg
  | none => true

/-- The ordinal of the safe point at a thread's PC, where it is one. DESIGN CHOICE: a parcel that cannot be fetched is none
(log 134). -/
def safeAt (s : State) (t : Tid) : State × Option Nat :=
  let pc := (s.thr t).pc.toNat
  let l := safeOf s t
  if !l.contains pc then (s, none)
  else match fetchInstr { s with cur := t } with
    | (s, .ok i) => (s, if stopBit i then some (l.idxOf pc) else none)
    | (s, .error _) => (s, none)

/-- The breakpoint that an address equals (R446). -/
def breakAt (c : Ctx) (pc : Nat) : Option Nat := (List.range 4).find? fun k => decide (c.bps.getD k 0 ≠ 0) && decide (c.bps.getD k 0 = pc)

/-- The stop that a thread takes at its boundary, if any: a CHECK stop anywhere, the others at a safe point
(R447, R449). -/
def stopDue (s : State) (t : Tid) : State × Option DbgStop :=
  let x := s.thr t
  if !x.atBoundary then (s, none)
  else match x.stopNext with
    | some q => (s, some ⟨3, 0, q % 2 ^ 32⟩)
    | none =>
      let bp := breakAt (s.ctx (s.ctxOf t)) x.pc.toNat
      if x.resumed || !(x.stopReq || bp.isSome) then (s, none)
      else match safeAt s t with
        | (s, none) => (s, none)
        | (s, some _) => (s, some (if x.stopReq then ⟨1, 0, 0⟩ else ⟨2, bp.getD 0, 0⟩))

/-- A register that the live mask of a thread's safe point names is outstanding. -/
def liveOwed (s : State) (t : Tid) : Bool :=
  let x := s.thr t
  x.out.any fun o => decide (o.reg ≠ 0) && liveAt s t x.pc.toNat o.reg

/-- A stop taken. At a safe point it lands once every register that the live mask names has its value (R445; log 135). -/
def takeStop (s : State) (t : Tid) (d : DbgStop) : State :=
  if decide (d.reason ≠ 3) && liveOwed s t then s
  else watchSync (s.modThr t fun x => { x with
    stopped := some d, stopReq := x.stopReq && decide (d.reason = 3), stopNext := if d.reason = 3 then none else x.stopNext }) (s.ctxOf t)

/-- DEBUG_STOP (R447): a thread stops at a safe point under a request or a breakpoint. -/
def execDebugStop (fid clu t : Nat) (s : State) : Out :=
  let tid : Tid := ⟨fid, clu, t⟩
  if !canRun s tid then .next s
  else match stopDue s tid with
    | (s, some d) => if d.reason = 3 then .next s else .next (takeStop s tid d)
    | (s, none) => .next s

/-- CHECK_SCOREBOARD_STOP (R449): the debug stop of a shortfall. -/
def execCheckScoreboardStop (fid clu t : Nat) (s : State) : Out :=
  let tid : Tid := ⟨fid, clu, t⟩
  if !canRun s tid then .next s
  else match stopDue s tid with
    | (s, some d) => if d.reason = 3 then .next (takeStop s tid d) else .next s
    | (s, none) => .next s

/-- STOP (R446): a stop requested of the threads that DBGCTL.THREADS names. -/
def execStop (ctx : Nat) (s : State) : Out :=
  .next (modCtxThreads s ctx fun t x =>
    if (s.ctx ctx).dbgThreads.testBit t.t ∧ x.status.alive then { x with stopReq := true } else x)

/-- DBGCTL_RESUME (R446): every stopped thread goes on. The watchdog counts again (R447). -/
def execDbgctlResume (ctx : Nat) (s : State) : Out :=
  .next (watchSync (modCtxThreads s ctx fun _ x => if x.stopped.isSome then { x with stopped := none, resumed := true } else x) ctx)

/-- The thread that DBGSEL names (R446). -/
def dbgThread (s : State) (ctx : Nat) : Option (Tid × Thread) :=
  let c := s.ctx ctx
  (threadsOn s ctx c.dbgClu).find? fun e => decide (e.1.t = c.dbgThread)

/-- DBGDATA_WRITE (R448). A result that is still to come to the register comes before the write in program order: it has
nowhere to go. -/
def execDbgdataWrite (ctx : Nat) (v : BitVec 64) (s : State) : Out :=
  match dbgThread s ctx with
  | none => .next s
  | some (t, x) =>
    if x.stopped.isNone || decide ((s.ctx ctx).dbgKind ≠ 0) then .next s
    else
      let r := (s.ctx ctx).dbgReg
      .next (s.modThr t fun x => { x.setGr r v with out := x.out.map fun o => if o.reg = r then { o with reg := 0 } else o })

/-- DBGDATA as it reads (R448); g0 reads 0. At a stop, a register outside the live mask of the safe point, or whose result is
still to come, holds some value (R445; log 103). -/
def dbgdata (s : State) (ctx : Nat) : Word64 :=
  let c := s.ctx ctx
  match dbgThread s ctx with
  | none => 0
  | some (t, x) => match c.dbgKind with
    | 0 =>
      if c.dbgReg = 0 ∨ x.stopped = none ∨ (liveAt s t x.pc.toNat c.dbgReg ∧ !x.out.any fun o => decide (o.reg = c.dbgReg)) then x.gr c.dbgReg
      else Config.freeWord s.tick (4096 + c.dbgReg) ++ Config.freeWord s.tick (4160 + c.dbgReg)
    | 1 => x.pc
    | 2 => match x.stopped with
      | some d => BitVec.ofNat 64 (d.seq * 2 ^ 32 + d.bp * 16 + d.reason)
      | none => 0
    | _ => 0

/-- DBGSTAT as it reads (R446). -/
def dbgstat (s : State) (ctx : Nat) : Word64 :=
  let here := threadsOn s ctx (s.ctx ctx).dbgClu
  let bits (p : Thread → Bool) : Nat := here.foldl (fun acc e => if p e.2 then acc ||| 2 ^ e.1.t else acc) 0
  let some1 (p : Thread → Bool) : Bool := s.threads.any fun e => decide ((s.flk e.1.fid).ctx = ctx) && p e.2
  let stopped (x : Thread) : Bool := x.stopped.isSome
  let pend (x : Thread) : Bool := x.stopReq && x.status.alive && x.stopped.all fun d => decide (d.reason = 3)
  BitVec.ofNat 64 (bits stopped * 2 ^ 56 + bits pend * 2 ^ 40 + b2n (some1 pend) * 2 + b2n (some1 stopped))

/-! ## Boundary traps (R423) -/

/-- The oldest held trap is taken (R423). A trap with a record waits until DT has passed its stores, and
acts as an acquire at .sys (R429, R310). -/
def takeHeld (s : State) (t : Tid) : State :=
  let x := s.thr t
  match x.held with
  | [] => s
  | h :: rest =>
    if x.intrap || decide (x.status ≠ .running) || x.stopped.isSome || (decide (h.after ≠ 0) && decide (dt s ≤ h.after)) then s
    else
      let v := s.modThr t fun x => { x with held := rest, resumed := false }
      match if h.after = 0 then some v else acquirePhase v t (max x.hor.acq h.after) with
      | none => s
      | some u => takeTrap u t h.cause h.tval x.pc

/-- BOUNDARY_TRAP (R423): the oldest held trap of a thread is taken at an instruction boundary. -/
def execBoundaryTrap (fid clu t : Nat) (s : State) : Out :=
  let tid : Tid := ⟨fid, clu, t⟩
  if !canRun s tid || !(s.thr tid).atBoundary || (s.flk fid).preReq then .next s
  else match stopDue s tid with
    | (s, some _) => .next s
    | (s, none) => .next (takeHeld s tid)

/-! ## The turn of a thread (R320) -/

/-- What a thread does on its turn: nothing but what the state says, or an instruction executes with the thread in
focus. -/
inductive ThreadTurn where
  | idle (s : State)
  | word (s : State) (i : Instr)
  deriving Repr

/-- The last safe point that a thread has executed, once the parcel at its PC has (R443). -/
def ordAfter (s : State) (t : Tid) : Nat := ((safeAt s t).2).getD (s.thr t).ord

/-- A host-window read of the thread has returned: it goes past the parcel (R428). -/
def hostReturn (s : State) (t : Tid) : State :=
  match (s.thr t).hostOp with
  | some (id, n) => if (findOp s id).any readOwed then s
      else s.modThr t fun x => { x with hostOp := none, pc := x.pc + BitVec.ofNat 64 n, ord := ordAfter s t }
  | none => s

/-- The arithmetic cycle in which a thread last issued, or none before its first issue (R321). -/
def issueCycle (s : State) (x : Thread) (pid : Nat) : Option Nat := if x.ran then some (x.lastIssue * cluMHz s pid / 1000000) else none

/-- A thread that is ready: its next parcel has been fetched, and neither the scoreboard nor a full buffer holds it (R321).
One that waits inside an instruction has issued it. -/
def readyToIssue (s : State) (t : Tid) : Bool :=
  let x := s.thr t
  let s := { s with cur := t }
  let line := x.pc.toNat / 256 * 256
  canRun s t && x.atBoundary && !(myFlk s).preReq
    && ((s.clu (myPid s)).icache.any fun l => decide ((l.ctx, l.va) = (s.ctxOf t, line)))
    && match (fetchInstr s).2 with
      | .ok (.laneWordEmit _) => !emitHeld s
      | .ok (.trl _) => !emitHeld s
      | .ok i => !scoreboardHolds x i
      | .error _ => false

/-- Two threads in the order of the arbiter: the one that has waited longer since it last issued, then the lower thread
number (R321). -/
def waitsBefore (s : State) (pid : Nat) (a b : Tid × Thread) : Bool :=
  let key (e : Tid × Thread) : Nat := match issueCycle s e.2 pid with
    | none => 0
    | some c => c + 1
  decide (key a < key b) || (decide (key a = key b) && (decide (a.1.t < b.1.t) || (decide (a.1.t = b.1.t) && decide (a.1.fid < b.1.fid))))

/-- A thread may issue in this cycle (R321): it has not issued in it, and of the two issues of its core one is left, once
the threads that have issued are counted and those before it that are ready and have still to take their turn in this
cycle (log 104). -/
def mayIssue (s : State) (t : Tid) : Bool :=
  let pid := s.pidOf t.fid t.clu
  let x := s.thr t
  let gone (y : Thread) : Bool := y.ran && sameCycle s pid y.lastIssue
  let others := (s.threads.filter fun e => decide (e.1 ≠ t) && (s.flk e.1.fid).resident && decide (s.pidOf e.1.fid e.1.clu = pid))
  let n := (others.filter fun e => gone e.2).length
  let first := others.filter fun e => !gone e.2 && !(e.2.tried.any (sameCycle s pid)) && waitsBefore s pid e (t, x) && readyToIssue s e.1
  !gone x && decide (n + first.length < 2)

/-- The turn of a thread: it waits, stops, takes a held trap, takes a fetch fault, or executes the instruction at
its PC. -/
def threadTurn (s : State) (t : Tid) : ThreadTurn :=
  if !canRun s t then .idle s
  else
    let s := { s with cur := t }
    if (me s).hostOp.isSome then .idle (hostReturn s t)
    else if (myFlk s).preReq then .idle s
    else match stopDue s t with
      | (s, some d) => .idle (takeStop s t d)
      | (s, none) =>
        let x := me s
        if !x.held.isEmpty && !x.intrap && x.atBoundary then .idle (takeHeld s t)
        else match fetchInstr s with
          | (s, .error f) => .idle (takeTrap (modMe s fun x => { x with resumed := false }) t f.cause (BitVec.ofNat 64 f.va) (me s).pc)
          | (s, .ok i) =>
            if s.held || scoreboardHolds (me s) i || ((me s).wait.isNone && !mayIssue s t) then .idle s
            else .word (modMe s fun x => { x with resumed := false, tried := some s.now }) i

/-- A branch always issues, wherever it goes. -/
def isJump : Instr → Bool
  | .beq _ _ _ _ => true
  | .bne _ _ _ _ => true
  | .blt _ _ _ _ => true
  | .bge _ _ _ _ => true
  | .bltu _ _ _ _ => true
  | .bgeu _ _ _ _ => true
  | .jmp _ _ => true
  | .call _ _ => true
  | .jr _ _ => true
  | .callr _ _ => true
  | _ => false

/-- The instruction that a thread attempted has issued: it waited for nothing before, and it left the thread changed, be it
to wait (R321). -/
def hasIssued (i : Instr) (before after : Thread) : Bool := before.wait.isNone && (isJump i || decide (after ≠ before))

/-- The instruction that a thread attempted has executed: it waits for nothing more, and no trap was taken in its place. -/
def hasExecuted (i : Instr) (before after : Thread) : Bool :=
  (isJump i || decide (after ≠ before)) && after.wait.isNone && after.hostOp.isNone && (before.intrap || !after.intrap)
    && decide (after.status ≠ .halted)

/-- VQ.POP, whose wait for its entry a pre-emption undoes while nothing has issued after it (R355). -/
def isVqPop : Instr → Bool
  | .vqPop _ _ => true
  | _ => false

/-- After a thread's attempt: an issue is progress (R383), and the sampler sees it and the safe point that was executed
(R443). -/
def afterAttempt (i : Instr) (s t : State) : State :=
  let l := safeOf s s.cur
  let pc := (me s).pc.toNat
  let t := if hasExecuted i (me s) (t.thr s.cur) && l.contains pc && stopBit i
    then t.modThr s.cur fun x => { x with ord := l.idxOf pc } else t
  if hasIssued i (me s) (t.thr s.cur)
  then progress (t.modThr s.cur fun x => { x with lastIssue := t.now, ran := true, popAt := if isVqPop i then x.popAt else none }) (s.ctxOf s.cur)
  else t

/-! ## Sampling (R442 to R444) -/

/-- SAMPCTL_WRITE (R442): INTERVAL 1 to 255 becomes 256. The interval starts anew. -/
def execSampctlWrite (ctx : Nat) (v : BitVec 64) (s : State) : Out :=
  let n := v.toNat % 2 ^ 32
  let n := if 1 ≤ n ∧ n ≤ 255 then 256 else n
  .next (s.modCtx ctx fun c => { c with sampIv := n, sampLast := (clustersOf s ctx).map fun p => (p, s.now) })

/-- The loads and stores of a thread (R328). -/
def isGenAccess : Instr → Bool
  | .ldgN8 _ _ _ _ _ _ => true
  | .ldgS8 _ _ _ _ _ _ => true
  | .ldgN16 _ _ _ _ _ _ => true
  | .ldgS16 _ _ _ _ _ _ => true
  | .ldgN32 _ _ _ _ _ _ => true
  | .ldgS32 _ _ _ _ _ _ => true
  | .ldgB64 _ _ _ _ _ _ => true
  | .stgB8 _ _ _ _ _ _ _ => true
  | .stgB16 _ _ _ _ _ _ _ => true
  | .stgB32 _ _ _ _ _ _ _ => true
  | .stgB64 _ _ _ _ _ _ _ => true
  | .ldgN8Long _ _ _ _ _ _ _ => true
  | .ldgS8Long _ _ _ _ _ _ _ => true
  | .ldgN16Long _ _ _ _ _ _ _ => true
  | .ldgS16Long _ _ _ _ _ _ _ => true
  | .ldgN32Long _ _ _ _ _ _ _ => true
  | .ldgS32Long _ _ _ _ _ _ _ => true
  | .ldgB64Long _ _ _ _ _ _ _ => true
  | .stgB8Long _ _ _ _ _ _ _ _ => true
  | .stgB16Long _ _ _ _ _ _ _ _ => true
  | .stgB32Long _ _ _ _ _ _ _ _ => true
  | .stgB64Long _ _ _ _ _ _ _ _ => true
  | _ => false

/-- The code of a wait by the instruction that waits (R444), where the table has a code for it. -/
def waitCode (s : State) (i : Instr) (waits : Bool) : Option Nat :=
  let acq := (gatomAcquired s).isNone
  match i with
  | .laneWordEmit _ => if waits then some 2 else if emitHeld s then some 5 else none
  | .trl _ => if emitHeld s then some 5 else none
  | .reelPlay _ _ => if waits then some 5 else none
  | .barWait _ _ _ _ => if waits then some 6 else none
  | .stagePut _ _ _ _ _ => if waits then some 7 else none
  | .stageTake _ _ _ _ _ => if waits then some 7 else none
  | .reelShut _ => if waits then some 9 else none
  | .reelDrop _ _ => if waits then some 9 else none
  | .icinv _ _ _ _ => if waits then some 9 else none
  | .strFree _ _ => if waits then some 9 else none
  | .unpark _ _ _ _ => if waits then some 9 else none
  | .pinSet _ _ _ _ _ _ => if waits then some 10 else none
  | .pinClr _ _ _ => if waits then some 10 else none
  | .launch _ _ _ _ => if waits then some 10 else none
  | .pft _ _ _ => if waits then some 10 else none
  | .pftLong _ _ _ _ => if waits then some 10 else none
  | .fence _ _ _ => if waits || acq then some 8 else none
  | .gatom _ _ _ _ _ => if waits || acq then some 8 else none
  | i => if waits then some 13 else if acq && isGenAccess i then some 8 else none

/-- REASON of a thread that did not issue: the first cause of R444 that applies. -/
def sampleReason (s : State) (t : Tid) : Nat :=
  let s := { s with cur := t }
  let x := me s
  let ctx := s.ctxOf t
  let line := x.pc.toNat / 256 * 256
  if x.stopped.isSome || decide (x.status = .halted) then 1
  else if x.status = .exited then 13
  else if x.wait.isNone && x.hostOp.isNone && !((s.clu (myPid s)).icache.any fun l => decide ((l.ctx, l.va) = (ctx, line))) then 3
  else match (fetchInstr s).2 with
    | .error _ => 3
    | .ok i =>
      if scoreboardHolds x i || playHeld s i then 4
      else match waitCode s i x.wait.isSome with
        | some k => k
        | none =>
          let off := dieStopped s (myPid s)
          if !off && !x.held.isEmpty && !x.intrap then 12 else if off || x.hostOp.isSome || (myFlk s).preReq then 13 else 11

/-- The thread that a cluster samples next: ascending thread number from the one after the last, with wrap. -/
def sampleNext (s : State) (ctx pid : Nat) : Option (Tid × Thread) :=
  let live := (threadsOn s ctx pid).filter fun e => e.2.status.alive
  let key (e : Tid × Thread) : Nat := (e.1.t * 65536 + e.1.fid % 65536)
  let l := sortBy key live
  match l.find? fun e => decide ((s.clu pid).sampleT ≤ key e) with
  | some e => some e
  | none => l.head?

/-- SAMPLE_RECORD (R443): a cluster samples a thread of the context that it runs and writes 16 bytes. -/
def execSampleRecord (pid : Nat) (s : State) : Out :=
  match s.flocks.find? fun f => f.2.resident && f.2.clus.contains pid with
  | none => .next s
  | some (_, f) =>
    let c := s.ctx f.ctx
    if c.sampIv = 0 ∨ cyclesSince (cluMHz s pid) (c.sampLast.get pid 0) s.now < c.sampIv then .next s
    else
      let s := s.modCtx f.ctx fun c => { c with sampLast := c.sampLast.set pid s.now }
      match sampleNext s f.ctx pid with
      | none => .next s
      | some (t, x) =>
        let issued := x.ran && sameCycle s pid x.lastIssue
        let bs := leBytes 4 x.ord ++ leBytes 1 (b2n issued * 128 + t.t) ++ leBytes 1 (if issued then 0 else sampleReason s t)
          ++ leBytes 2 pid ++ leBytes 8 (dt s)
        let va := c.sampBase * 4096 + 16 * (c.sampHead % 2 ^ (c.sampLog2 + 8))
        let s := s.modCtx f.ctx fun c => { c with sampHead := c.sampHead + 1 }
        let s := s.modClu pid fun c => { c with sampleT := t.t * 65536 + t.fid % 65536 + 1 }
        .next (recStore s f.ctx pid va bs).1

end Sys2Proof.Machine
end

