-- ==== Sys2Proof/Machine/Translate.lean ====
section
/-! DEFINITION. Translation commands: TTBASE, XLCMD with INVAL, INVAL.ALL, MIGRATE and the bias flips, and their
finish (R84 to R93). -/

namespace Sys2Proof.Machine

/-! ## TTBASE (R84) -/

/-- TTBASE_WRITE: ROOT and EN; no cached translation is dropped. -/
def execTtbaseWrite (ctx : Nat) (v : BitVec 64) (s : State) : Out :=
  .next (s.modCtx ctx fun c => { c with root := fld v.toNat 51 12, en := v.getLsbD 0 })

/-! ## Checks (R84, R85) -/

/-- Bytes that a range of pages covers. -/
def rangeLen (count size : Nat) : Nat := count * 2 ^ pageBits size

/-- A range of VAs is aligned, canonical and ends inside the address space. -/
def vaRangeOk (a count size : Nat) : Bool :=
  decide (a % 2 ^ pageBits size = 0) && canonical a && decide (a + rangeLen count size ≤ 2 ^ 64)
    && canonical (a + rangeLen count size - 1) && decide ((a < 2 ^ 63) = (a + rangeLen count size - 1 < 2 ^ 63))

/-- ERR of a command before any walk. Where several apply, R84 does not say which is reported: the model reports the
lowest code (DESIGN CHOICE, log 101). Before Stage 2 no page is in device memory (R475; DEDUCED, log 128). -/
def xlCheck (stage : Nat) (c : Ctx) (op count size : Nat) : Nat :=
  let a := c.xlarg0.toNat
  let b := c.xlarg1.toNat
  if op = 0 ∨ 5 < op ∨ 3 ≤ size ∨ count = 0 ∨ 2 ^ 32 ≤ count ∨ (op = 3 ∧ count ≠ 1) ∨ (4 ≤ op ∧ size ≠ 0) then 1
  else match op with
  | 1 => if vaRangeOk a count size then 0 else 2
  | 2 => 0
  | 3 =>
    if !vaRangeOk a 1 size || decide (b % 2 ^ pageBits size ≠ 0) then 2
    else if !c.xlmode then 3
    else if size = 2 ∨ stage < 2 ∨ 2 ^ 40 < b + 2 ^ pageBits size then 4 else 0
  | _ => if a % 65536 ≠ 0 then 2 else if stage < 2 ∨ 2 ^ 40 < a + rangeLen count 0 then 6 else 0

/-! ## INVAL (R86, R87) -/

/-- A VA range meets another; `all` stands for every address. -/
def vaMeets (all : Bool) (lo n a k : Nat) : Bool := all || rangesMeet lo n a k

/-- Step 1 of R87: no cache holds an entry of the context that maps a byte of the range, nor a table entry on its
walk path; an INVAL drops the instruction-cache lines of the range too (R336). -/
def dropLeaves (s : State) (ctx : Nat) (all code : Bool) (lo n : Nat) : State :=
  let off (e : TlbEnt) : Bool := decide (e.ctx = ctx) && vaMeets all lo n e.va (2 ^ pageBits e.level)
  let keep (c : Cluster) : Cluster :=
    { c with
      icache := c.icache.filter fun l => !(code && decide (l.ctx = ctx) && vaMeets all lo n l.va 256)
      tlb1 := c.tlb1.filter fun e => !off e
      tlb := c.tlb.filter fun e => !off e
      nodes := c.nodes.filter fun e => !(decide (e.1 = ctx)
        && vaMeets all (lo % 2 ^ 57) n (e.2.2.1 * 2 ^ (12 + 9 * e.2.1)) (2 ^ (12 + 9 * e.2.1))) }
  { s with clusters := s.clusters.map fun e => (e.1, keep e.2) }

/-- The accesses in flight that were translated in the range (R87 step 3). -/
def drainList (s : State) (ctx : Nat) (all : Bool) (lo n : Nat) : List Nat :=
  (s.ops.filter fun o => decide (o.ctx = ctx) && vaMeets all lo n o.va o.n).map (·.id)

/-- A copy chunk in flight has translated a page of the range. -/
def chunkUses (s : State) (ctx : Nat) (all : Bool) (lo n : Nat) : Bool :=
  s.clusters.any fun c => c.2.cq.any fun q => q.2.ents.any fun e => decide ((s.flk e.tid.fid).ctx = ctx)
    && e.chunks.any fun k => !decide (k.st = .written) && k.pages.any fun p => vaMeets all lo n (p.va * 65536) 65536

/-- Step 4 of R87: the context's stash entries in the range are written back, under the translation that filled them,
and dropped. Entries in the image of a pre-empted flock are on no cluster and stay there, with every sector UNFILLED (DESIGN
CHOICE, log 130). -/
def dropStash (s : State) (ctx : Nat) (all : Bool) (lo n : Nat) : State :=
  s.clusters.foldl (init := s) fun s c =>
    let hit := c.2.stash.filter fun e => decide ((s.flk e.fid).ctx = ctx) && vaMeets all lo n e.va e.len
    let s := hit.foldl (init := s) fun s e => e.sectors.foldl (init := s) fun s k => (evictSector s c.1 ⟨1, false, true⟩ e k.1).1
    s.modClu c.1 fun c => { c with stash := c.stash.filter fun e => !(hit.any fun h => decide (h.va = e.va)) }

/-! ## MIGRATE (R89, R90) -/

/-- The homes of a page that keep something. -/
def homesIn (s : State) (pa n : Nat) : List Nat :=
  (s.homes.map (·.1)).filter fun l => decide (pa ≤ l * 256) && decide (l * 256 < pa + n)

/-- Owned sectors of a page recalled, update-only lines combined (R89 step 3, R93). -/
def cleanPage (s : State) (pa n : Nat) : State :=
  (homesIn s pa n).foldl (init := s) fun s l =>
    let s := (List.range 8).foldl (init := s) fun s k => recallSector s (l * 256 + 32 * k)
    if (s.homeOf (l * 256)).sharers = [] then s else combine s l

/-- An address of page P becomes that of Q. -/
def moved (p q n a : Nat) : Nat := if p ≤ a ∧ a < p + n then a - p + q else a

/-- P copied to Q (R89 step 4), with the completion times of its sectors. What other units hold of Q is recalled first,
host copies of it are back-invalidated, and lines that the host owns are obtained from it (R92, R160, R299). -/
def copyPage (s : State) (p q n : Nat) : State :=
  let s := obtain (obtain (cleanPage s q n) p n 1) q n 2
  let s := (homesIn s q n).foldl (init := s) fun s l => backInvalidate s (l * 256) 256
  let cells := s.mem.filter fun c => decide (p ≤ c.1) && decide (c.1 < p + n)
  let m := cells.foldl (fun m c => Mem.write m (c.1 - p + q) c.2) (Mem.clearRange s.mem q (q + n))
  (homesIn s p n).foldl (init := { s with mem := m }) fun s l =>
    let ct := (s.homeOf (l * 256)).ct
    s.modHome (moved p q n (l * 256)) fun h => { h with ct := ct.foldl (fun t e => t.set e.1 (max e.2 (t.get e.1 0))) h.ct }

def Place.moved (p q n : Nat) : Place → Place
  | .glob va pa => .glob va (Machine.moved p q n pa)
  | .loc c o va pa m => .loc c o va (if m then Machine.moved p q n pa else pa) m

def StashSt.moved (p q n : Nat) : StashSt → StashSt
  | .pending pa ot t => .pending (Machine.moved p q n pa) ot t
  | x => x

def Chunk.moved (p q n : Nat) (c : Chunk) : Chunk :=
  { c with pages := c.pages.map fun x => { x with pa := Machine.moved p q n (x.pa * 65536) / 65536 } }

/-- A copy chunk that has begun has bytes left for a page. -/
def chunkHeld (s : State) (inside : Nat → Bool) : Bool :=
  s.clusters.any fun c => c.2.cq.any fun q => q.2.ents.any fun e => e.chunks.any fun k =>
    decide (k.st = .writing) && k.pages.any fun x => x.acc.writes && inside (x.pa * 65536)

/-- Whether a write to P was held (R89 step 2): one that has arrived stands in the state as an access, a gathered value,
merged stash bytes or a chunk that has begun. -/
def heldAt (s : State) (p n : Nat) : Bool :=
  let inside (a : Nat) : Bool := decide (p ≤ a) && decide (a < p + n)
  (s.ops.any fun o => o.deed.writes && inside o.pa) || chunkHeld s inside || (s.late.any fun w => inside w.pa && !w.done)
    || s.clusters.any fun c => (c.2.l1.any fun l => l.uo.isSome && inside (l.line * 256))
      || c.2.stash.any fun e => e.sectors.any fun k => match k.2 with
        | .pending pa none t => inside pa && decide (t ≠ 0)
        | _ => false

/-- The writes that stand held at P, in the order of their arrival, perform at Q (R89); a walker's bit is set there, and its
walk goes on. -/
def releaseLate (s : State) (p q n : Nat) : State :=
  let mine (w : LateWrite) : Bool := decide (p ≤ w.pa) && decide (w.pa < p + n) && !w.done
  let s' := (s.late.filter mine).foldl (init := s) fun s w =>
    let a := moved p q n w.pa
    if w.bit = 0 then (writeAtHome s w.pid a w.bs).1
    else
      let (s, bs, _) := readAtHome s a 8
      (writeAtHome s w.pid a (leBytes 8 (leNat bs ||| w.bit))).1
  { s' with late := (s'.late.filter fun w => !mine w || decide (w.bit ≠ 0)).map fun w => if mine w then { w with done := true } else w }

/-- Step 6 of R89: the held writes, claims and grant requests go to Q, and with them a read that comes after a held write in
its stream (R90); other reads of P are served from P. The L2 lines of P are dropped. -/
def releaseTo (s : State) (p q n : Nat) : State :=
  let inside (a : Nat) : Bool := decide (p ≤ a) && decide (a < p + n)
  let move (c : Cluster) : Cluster :=
    let uos := (c.l1.filter fun l => l.uo.isSome && inside (l.line * 256)).map fun l => { l with line := moved p q n (l.line * 256) / 256 }
    let rest := c.l1.filter fun l => !(l.uo.isSome && inside (l.line * 256)) && !(uos.any fun u => decide (u.line = l.line))
    { c with
      l1 := uos ++ rest
      l2 := c.l2.filter fun l => !inside (l.line * 256)
      pins := c.pins.filter fun l => !inside (l.line * 256)
      stash := c.stash.map fun e => { e with sectors := e.sectors.mapVals fun _ k => k.moved p q n }
      cq := c.cq.mapVals fun _ x => { x with ents := x.ents.map fun e => { e with chunks := e.chunks.map fun k => k.moved p q n } } }
  let after (o : MemOp) : Bool := s.ops.any fun e => e.deed.writes && inside e.pa && e.sameStream o && decide (e.pid = o.pid)
    && precedes e o && e.place.meets e.n o.place o.n
  let s := { s with
    ops := s.ops.map fun o => if o.deed.writes || after o then { o with place := o.place.moved p q n } else o
    flocks := s.flocks.mapVals fun _ f => { f with ops := f.ops.map fun o => if o.deed.writes then { o with place := o.place.moved p q n } else o }
    clusters := s.clusters.map fun c => (c.1, move c.2) }
  releaseLate s p q n

/-! ## Bias flips (R93) -/

/-- Update-only lines that no home has granted yet, in a range: their elements go to the home. -/
def applyOwn (s : State) (pa n : Nat) : State :=
  s.clusters.foldl (init := s) fun s c =>
    (c.2.l1.filter fun l => l.uo.isSome && decide (pa ≤ l.line * 256) && decide (l.line * 256 < pa + n)).foldl
      (init := s) fun s l => sendGathered s c.1 l.line

/-- A sector with bytes of its own: DIRTY, or PENDING with bytes that writes have touched. -/
def StashSt.hasBytes : StashSt → Bool
  | .dirty _ _ _ => true
  | .pending _ _ t => decide (t ≠ 0)
  | _ => false

/-- The owned sector of an address is written back and left UNFILLED where it has bytes of its own (R93); a clean one
stays, and the device keeps the ownership that its home then has from the host. -/
def dirtyBack (s : State) (pa : Nat) : State :=
  match (s.homeOf pa).owners.find (pa / 32 % 8) with
  | none => s
  | some (pid, va) => match stashVa s pid va with
    | none => s
    | some e =>
      if (e.st ((va - e.va) / 32)).hasBytes then recallSector s pa else s.modHome pa fun h => { h with grant := 2 }

/-- The bit of a page in the bias table (R91): the table's byte in device memory, and the list that the homes look at. -/
def setBias (s : State) (p : Nat) (on : Bool) : State :=
  let mem := match s.pkg.biasAt with
    | none => s.mem
    | some b =>
      let a := b + p / 8
      let old := (s.mem.read a).toNat
      let bit := 2 ^ (p % 8)
      s.mem.write a (BitVec.ofNat 8 (if on then old ||| bit else old &&& (255 - bit)))
  { s with mem := mem, bias := if on then s.bias ++ [p] else s.bias.filter fun x => !decide (x = p) }

/-- One page goes to the device's side: every host copy is back-invalidated, and what the device had obtained from the
host it now owns itself. -/
def pageToDev (s : State) (p : Nat) : State :=
  let s := (homesIn s (p * 65536) 65536).foldl (init := s) fun s l => s.modHome (l * 256) fun h => { h with hostCopy := false, grant := 0 }
  setBias s p true

/-- What the device gives up of a page that goes to the host's side: its update-only lines and its dirty stash sectors. -/
def givePage (s : State) (p : Nat) : State :=
  let s := (homesIn s (p * 65536) 65536).foldl (init := s) fun s l =>
    let s := if (s.homeOf (l * 256)).sharers = [] then s else combine s l
    (List.range 8).foldl (init := s) fun s k => dirtyBack s (l * 256 + 32 * k)
  applyOwn s (p * 65536) 65536

/-- One page goes to the host's side: its L1 copies and its L2 and pinned lines go. -/
def pageToHost (s : State) (p : Nat) : State :=
  let inside (l : Nat) : Bool := decide (l / 256 = p)
  let drop (c : Cluster) : Cluster :=
    { c with
      l1 := c.l1.map fun l => if inside l.line then { l with sectors := [] } else l
      l2 := c.l2.filter fun l => !inside l.line
      pins := c.pins.filter fun l => !inside l.line }
  setBias { s with clusters := s.clusters.map fun c => (c.1, drop c.2) } p false

/-- A flip: the pages of the range that are not in the requested bias, ascending. In what order and when the pages of
one command change their bits R93 leaves open: the model flips all of them at the finish (DESIGN CHOICE, log 102). -/
def flip (s : State) (toDev : Bool) (pa count : Nat) : State :=
  let ps := ((List.range count).map fun i => pa / 65536 + i).filter fun p => !(s.bias.contains p == toDev)
  if toDev then ps.foldl pageToDev s else ps.foldl pageToHost (ps.foldl givePage s)

/-! ## XLCMD (R84, R85) -/

/-- A command starts: it is refused, or its first steps are made. A write while another command runs sets OVR. MIGRATE walks from
ROOT whatever TTBASE.EN says (R84, R89; DESIGN CHOICE, log 129). -/
def xlStart (s : State) (ctx op count size : Nat) : State :=
  let c := s.ctx ctx
  if c.xl.isSome then s.setCtx ctx { c with xlovr := true }
  else
    let run (s : State) (err p entry : Nat) (drain : List Nat) : State := s.modCtx ctx fun c =>
      { c with xl := some ⟨op, count, size, err, c.xlarg0.toNat, c.xlarg1.toNat, p, entry, drain⟩ }
    let err := xlCheck s.pkg.stage c op count size
    if err ≠ 0 then run s err 0 0 []
    else match op with
    | 3 => match walkFrom ctx c.xlarg0.toNat walkLevels s (c.root * 4096) [] with
      | (t, .ok (leaf, _), _) =>
        if leaf.level = size then run (cleanPage t leaf.pa (2 ^ pageBits size)) 0 leaf.pa leaf.entry [] else run s 5 0 0 []
      | (_, .error _, _) => run s 5 0 0 []
    | 1 | 2 =>
      let all := decide (op = 2)
      let lo := c.xlarg0.toNat
      let n := rangeLen count size
      run (dropLeaves s ctx all true lo n) 0 0 0 (drainList s ctx all lo n)
    | _ => run s 0 0 0 []

/-- XLCMD as it is written (R84). -/
def xlWrite (s : State) (ctx : Nat) (v : Word64) : State := xlStart s ctx (fld v.toNat 3 0) (fld v.toNat 63 32) (fld v.toNat 5 4)

def execInval (ctx count size : Nat) (s : State) : Out := .next (xlStart s ctx 1 count size)
def execInvalAll (ctx count size : Nat) (s : State) : Out := .next (xlStart s ctx 2 count size)
def execMigrate (ctx count size : Nat) (s : State) : Out := .next (xlStart s ctx 3 count size)
def execBiasHost (ctx count size : Nat) (s : State) : Out := .next (xlStart s ctx 4 count size)
def execBiasDev (ctx count size : Nat) (s : State) : Out := .next (xlStart s ctx 5 count size)

/-- BUSY clears, SEQ advances and ERR tells the result. -/
def xlEnd (s : State) (ctx err : Nat) : State :=
  s.modCtx ctx fun c => { c with xl := none, xlseq := (c.xlseq + 1) % 2 ^ 32, xlerr := err }

/-- Steps 4 to 6 of R89, made at the finish; the lock is off for them: the copier is exempt from it. The leaf's store waits
where another lock, a flip or the end of a pin window holds its line. -/
def migrateEnd (s : State) (ctx : Nat) (r : XlRun) : State :=
  let n := 2 ^ pageBits r.size
  let p := r.oldPa
  let q := r.arg1
  let held := heldAt s p n
  let s := copyPage (s.modCtx ctx fun c => { c with xl := none }) p q n
  let (s, e) := readEntry (holdIf (writeHeld s r.entry) s) r.entry
  let e := e - fld e 51 8 * 256 + q
  let s := (writeAtHome s noClu r.entry (leBytes 8 (if held then e ||| 64 else e))).1
  releaseTo (dropLeaves s ctx false false r.arg0 n) p q n

/-- XLCMD_FINISH (R87, R89, R93): the command in progress finishes, once an INVAL has drained. -/
def execXlcmdFinish (ctx : Nat) (s : State) : Out :=
  match (s.ctx ctx).xl with
  | none => .next s
  | some r =>
    if r.err ≠ 0 then .next (xlEnd s ctx r.err)
    else match r.op with
    | 3 => .next (xlEnd (migrateEnd s ctx r) ctx 0)
    | 4 => .next (flip (xlEnd s ctx 0) false r.arg0 r.count)
    | 5 => .next (flip (xlEnd s ctx 0) true r.arg0 r.count)
    | _ =>
      let all := decide (r.op = 2)
      let n := rangeLen r.count r.size
      let owed := s.ops.any fun o => r.drain.contains o.id && (o.made.isNone || readOwed o)
      if owed || chunkUses s ctx all r.arg0 n then .next s
      else .next (xlEnd (dropStash s ctx all r.arg0 n) ctx 0)

/-- XLSTAT as it reads (R84). -/
def xlstat (s : State) (ctx : Nat) : Word64 :=
  let c := s.ctx ctx
  BitVec.ofNat 64 (c.xlseq * 2 ^ 32 + c.xlerr * 16 + b2n c.xlovr * 2 + b2n c.xl.isSome)

end Sys2Proof.Machine
end

