-- ==== Sys2Proof/Machine/Pin.lean ====
section
/-! DEFINITION. Pin windows, placement hints and the prefetch queue (R105 to R118). -/

namespace Sys2Proof.Machine

/-! ## HINTDROP (R118) -/

/-- One more dropped hint; the count holds at its largest value. -/
def countDrop (s : State) (ctx : Nat) : State :=
  s.modCtx ctx fun c => { c with
    hintdrop := if c.hintdrop = BitVec.allOnes 64 then c.hintdrop else c.hintdrop + 1
    hintAt := some s.now }

/-! ## Windows (R106, R107, R111) -/

def unit4M : Nat := 4194304

/-- Banks that an L2 window takes on each target (R106). -/
def banksPer (len k : Nat) : Nat := ceilDiv len (k * unit4M)

def Window.banks (w : Window) : Nat := if w.plane then 0 else banksPer w.len w.targets.length

/-- Units charged (R106). -/
def chargeOf (plane : Bool) (len k : Nat) : Nat := if plane then ceilDiv len unit4M else k * banksPer len k

/-- A window that PIN.CLR has not yet ended. -/
def Window.stands (w : Window) : Bool := decide (w.stage ≤ 1)

/-- Runs of physically contiguous frames of a window, in the order of its addresses. What counts as one run R111 leaves
open: the model counts inside each window and adds up (DESIGN CHOICE, log 68). -/
def frameRuns : List Nat → Nat
  | [] => 0
  | [_] => 1
  | a :: b :: l => (if b = a + 1 then 0 else 1) + frameRuns (b :: l)

/-- The frames of a range, in order of VA; none where some page is unmapped, lacks Rd, or lies in the host window.
DESIGN CHOICE: the range goes on past VA 2^64 as from VA 0 (log 139). -/
def framesOf (ctx pid : Nat) : Nat → Nat → State → State × Option (List Nat)
  | 0, _, s => (s, some [])
  | n + 1, va, s =>
    match translate s pid ctx va .load with
    | (s, .error _) => (s, none)
    | (s, .ok pa) =>
      if !isDev pa then (s, none)
      else match framesOf ctx pid n (va + 65536) s with
        | (s, none) => (s, none)
        | (s, some fs) => (s, some (pa / 65536 :: fs))

/-- Every window that stands, with its context. -/
def allWindows (s : State) : List (Nat × Window) :=
  s.ctxs.flatMap fun c => (c.2.windows.filter Window.stands).map fun w => (c.1, w)

/-- Banks of a slice that windows hold or have been promised. -/
def banksHeld (s : State) (pid : Nat) : Nat :=
  (s.clu pid).pinb + ((allWindows s).filter fun w => decide (w.2.stage = 0) && w.2.targets.contains pid).foldl
    (fun acc w => acc + w.2.banks) 0

/-- Check 1 of R111. -/
def pinArgBad (s : State) (base b : Nat) (plane : Bool) : Bool :=
  let len := fld b 31 0
  let poff := fld b 47 32
  let mask := fld b 63 48
  let ms := setBits 16 mask
  !canonical base || decide (base % 65536 ≠ 0) || decide (len = 0) || decide (65536 < len) || decide (mask = 0)
    || decide (2 ^ s.size s.cur.fid ≤ mask)
    || (if plane then decide (ms.length ≠ 1) || decide (s.planeSize (s.pidOf s.cur.fid (ms.headD 0)) < (poff + len) * 65536)
        else decide (poff ≠ 0))

/-- The checks of R111 in order: the status, and the window where it is 0. -/
def pinCheck (s : State) (base b : Nat) (fill plane : Bool) : State × Nat × Window :=
  let len := fld b 31 0 * 65536
  let poff := fld b 47 32 * 65536
  let ctx := myCtx s
  let die := myPid s / 64
  let targets := (setBits 16 (fld b 63 48)).map fun m => s.pidOf s.cur.fid m
  let w : Window := { fid := s.cur.fid, die := die, va := base, len := len, plane := plane, poff := poff, frames := []
                      targets := targets, mask := fld b 63 48, charge := chargeOf plane len targets.length, stage := 0, fill := fill, kept := false }
  if pinArgBad s base b plane then (s, 5, w)
  else match framesOf ctx (myPid s) (len / 65536) base s with
  | (_, none) => (s, 6, w)
  | (t, some fs) =>
    let w := { w with frames := fs }
    let c := s.ctx ctx
    let inDie := (allWindows s).filter fun x => decide (x.2.die = die)
    if fs.any fun f => !devBiased s (f * 65536) then (s, 7, w)
    else if (c.windows.any fun x => x.stands && rangesMeet x.va x.len base len)
        || (allWindows s).any fun x => x.2.frames.any fun f => fs.contains f then (s, 2, w)
    else if fld c.pincap.toNat (8 * die + 7) (8 * die) < c.pinuse.getD die 0 + w.charge then (s, 1, w)
    else if (!plane && targets.any fun p => decide (8 - (s.clu p).wpb < banksHeld s p + w.banks + 1))
        || (plane && (allWindows s).any fun x => x.2.plane && decide (x.2.targets = targets) && rangesMeet x.2.poff x.2.len poff len)
      then (s, 3, w)
    else if decide (256 < ((inDie.filter fun x => !x.2.plane).foldl (fun acc x => acc + frameRuns x.2.frames) 0) + (if plane then 0 else frameRuns fs))
        || decide (64 < (inDie.filter fun x => decide (x.1 = ctx)).length + 1) then (s, 4, w)
    else (t, 0, w)

/-- A PIN.CLR of the context on the die is still writing back (R113). -/
def clearPending (s : State) : Bool :=
  (s.ctx (myCtx s)).windows.any fun w => decide (w.die = myPid s / 64) && !w.stands

/-- PIN.SET (R111, R112): the checks, the charge and the record, in one step. -/
def execPinSet (_sb : Bool) (d a b : GReg) (fill kind : Bool) (s : State) : Out :=
  if clearPending s then stall s ((me s).wait.getD ⟨s.now, [], none⟩)
  else
    let (t, status, w) := pinCheck s (rdN s a) (rdN s b) fill kind
    let ctx := myCtx s
    let t := if status = 0 then t.modCtx ctx fun c => { c with
          windows := c.windows ++ [w], pinuse := setAt c.pinuse w.die (c.pinuse.getD w.die 0 + w.charge) }
      else if status = 6 then countDrop t ctx else t
    put (endWait t) 4 d (BitVec.ofNat 64 status)

/-- A window found by its base, changed. -/
def modWindow (s : State) (ctx die va : Nat) (f : Window → Option Window) : State :=
  s.modCtx ctx fun c => { c with windows := c.windows.filterMap fun w => if w.die = die ∧ w.va = va then f w else some w }

def findWindow (s : State) (ctx die va : Nat) (p : Window → Bool) : Option Window :=
  (s.ctx ctx).windows.find? fun w => decide (w.die = die) && decide (w.va = va) && p w

/-- A window that ends: stage 2 where it had its banks, 3 where it had not. -/
def Window.ending (w : Window) : Window := { w with stage := if w.stage = 1 then 2 else 3 }

/-- PIN.CLR (R114): 0 where the window is found, else 8. -/
def execPinClr (_sb : Bool) (d a : GReg) (s : State) : Out :=
  let ctx := myCtx s
  let die := myPid s / 64
  match findWindow s ctx die (rdN s a) Window.stands with
  | none => put s 4 d 8
  | some _ => put (modWindow s ctx die (rdN s a) fun w => some (if w.stands then w.ending else w)) 4 d 0

/-- The update-only lines that have a slice for their home are combined (R95, R112). -/
def combineHomed (s : State) (pid : Nat) : State :=
  ((s.homes.filter fun h => !h.2.sharers.isEmpty && decide (homeSlice s (h.1 * 256) = pid)).map (·.1)).foldl combine s

/-- The lines of frames combined, and dropped from every L2 slice (R112, R114). -/
def settleFrames (s : State) (frames : List Nat) : State :=
  let s := ((s.homes.map (·.1)).filter fun l => frames.contains (l / 256)).foldl (init := s) fun s l =>
    if (s.homeOf (l * 256)).sharers = [] then s else combine s l
  { s with clusters := s.clusters.mapVals fun _ c => { c with
      l2 := c.l2.filter fun l => !frames.contains (l.line / 256)
      pins := c.pins.filter fun l => !frames.contains (l.line / 256) } }

/-- A fill of a window, in the form of a descriptor of target 0 and priority retain-high (R110). -/
def fillDesc (w : Window) : List Byte :=
  leBytes 8 w.va ++ leBytes 4 65536 ++ leBytes 4 (w.len / 65536) ++ leBytes 4 1 ++ leBytes 4 1 ++ leBytes 8 65536
    ++ leBytes 8 0 ++ leBytes 8 0 ++ leBytes 8 (3 * 32) ++ leBytes 8 0

/-- The banks of a window taken on its targets, and its frames settled at their old homes (R112). -/
def takeBanks (s : State) (w : Window) : State :=
  if w.plane then s
  else
    let s := w.targets.foldl (init := s) fun s p => (combineHomed s p).modClu p fun c => { c with pinb := c.pinb + w.banks, l2 := [] }
    settleFrames s w.frames

/-- The fill of a window enters the prefetch queue of its first target, once that has room (R110, R117). -/
def startFill (s : State) (ctx : Nat) (w : Window) : State :=
  let pid := w.targets.headD 0
  if !w.fill || decide (16 ≤ (s.clu pid).pft.length) then s
  else
    let e : PftEnt := ⟨s.nextId, ⟨w.fid, 0, 0⟩, fillDesc w, 0, false⟩
    let s := modWindow s ctx w.die w.va fun x => some (if x = w then { x with fill := false } else x)
    { s with nextId := s.nextId + 1 }.modClu pid fun c => { c with pft := c.pft ++ [e] }

/-- PIN_REHOME (R112): the banks are taken, the frames get their new homes, and the fill starts. -/
def execPinRehome (ctx die va : Nat) (s : State) : Out :=
  match findWindow s ctx die va fun w => decide (w.stage = 0) || (decide (w.stage = 1) && w.fill) with
  | none => .next s
  | some w =>
    let s := if w.stage = 0 then takeBanks s w else s
    let w1 := { w with stage := 1 }
    .next (startFill (modWindow s ctx die va fun x => some (if x = w then w1 else x)) ctx w1)

/-- The banks of an L2 window given back, and its frames settled (R114). -/
def giveBanks (s : State) (w : Window) : State :=
  if w.plane || decide (w.stage ≠ 2) then s
  else w.targets.foldl (init := settleFrames s w.frames) fun s p => s.modClu p fun c => { c with pinb := c.pinb - w.banks }

/-- The write-back of a window that ends, and of any other with its base that ends with it; each gives back its banks and its
charge (R114). The windows are out of the pin map by then, so the accesses they held go on at the default homes. -/
def windowGone (s : State) (ctx : Nat) (w : Window) : State :=
  let same (x : Window) : Bool := decide (x.die = w.die) && decide (x.va = w.va) && decide (x.stage = w.stage)
  let gone := (s.ctx ctx).windows.filter same
  let s := s.modCtx ctx fun c => { c with
    windows := c.windows.filter fun x => !same x
    pinuse := setAt c.pinuse w.die (c.pinuse.getD w.die 0 - gone.foldl (fun n x => n + x.charge) 0) }
  gone.foldl giveBanks s

/-- PIN_CLR_WRITEBACK (R114). -/
def execPinClrWriteback (ctx die va : Nat) (s : State) : Out :=
  match findWindow s ctx die va fun w => !w.stands with
  | none => .next s
  | some w => .next (windowGone s ctx w)

/-- The windows that a flock has set, with their context (R109). -/
def windowsOf (s : State) (fid : Nat) : List Window := ((s.ctx (s.flk fid).ctx).windows.filter fun w => decide (w.fid = fid))

/-- Another resident flock beside a flock on a cluster. -/
def fellowOn (s : State) (fid pid : Nat) : Option Nat :=
  (s.flocks.find? fun e => e.2.resident && e.2.clus.contains pid && decide (e.1 ≠ fid)).map (·.1)

/-- A plane window goes over to a flock that stays on its cluster (R398). -/
def handWindow (s : State) (ctx : Nat) (w : Window) (f : Nat) : State :=
  let m := (s.flk f).clus.idxOf (w.targets.headD 0)
  modWindow s ctx w.die w.va fun x => some (if x = w then { x with fid := f, mask := 2 ^ m, kept := true } else x)

/-- A window ends with its write-back. -/
def endWindow (s : State) (ctx : Nat) (w : Window) : State :=
  let e := if w.stands then w.ending else w
  windowGone (modWindow s ctx w.die w.va fun x => some (if x = w then e else x)) ctx e

/-- A flock ends: a PIN.CLR of each window that it has set, with its write-back (R109); a plane window that it holds as part of
a plane goes over to a flock that stays there (R398). -/
def clearWindows (s : State) (fid : Nat) : State :=
  let ctx := (s.flk fid).ctx
  (windowsOf s fid).foldl (init := s) fun s w => match w.kept && w.stands, fellowOn s fid (w.targets.headD 0) with
    | true, some f => handWindow s ctx w f
    | _, _ => endWindow s ctx w

/-! ## Reads of a thread that wait for their value (R115, R404) -/

/-- A read of an instruction whose bytes lie in the host window is first sent as a read of its own, at which the thread
waits, so that a CXL error is precise (R428); when it has returned, the instruction executes again and reads its
bytes. None where there is nothing to send. -/
def probeHost (s : State) (va pa n : Nat) : Option State :=
  if !isHost pa || (me s).wait.isSome then none
  else
    let o := genOp s va pa n .load (.gen 0 false) 1 true 0 false
    some (modMe (sendRead (outstanding s 0 (.mem s.nextId)) o 0) fun x => { x with wait := some ⟨s.now, closedMarks x, none⟩ })

/-- `n` sectors read as a generator load would read them, from an address whose page has been translated; none
while one of them is not there yet. -/
def readSectors : Nat → Nat → Nat → State → State × Option (List Byte)
  | 0, _, _, s => (s, some [])
  | n + 1, va, pa, s =>
    let o := genOp s va pa 32 .load .none 1 false 0 false
    if blockedByEarlier s o (fun _ => true) then (s, none)
    else match readNow s o with
      | (s, none) => ((readSectors n (va + 32) (pa + 32) s).1, none)
      | (s, some (bs, ct)) =>
        match readSectors n (va + 32) (pa + 32) (noteRead s o ct) with
        | (s, none) => (s, none)
        | (s, some more) => (s, some (bs ++ more))

/-! ## PFT (R115 to R117) -/

/-- The fields of a tensor descriptor (R116). -/
structure Tensor where
  base : Nat
  dims : List Nat
  strs : List Int
  prio : Nat
  tgt : Nat
  clu : Nat
  poff : Nat
  bar : Option Nat
  deriving DecidableEq, Repr

def tensorOf (d : List Byte) : Tensor :=
  let at_ (o n : Nat) : Nat := leNat ((d.drop o).take n)
  let c := at_ 48 8
  { base := at_ 0 8, dims := [at_ 8 4, at_ 12 4, at_ 16 4, at_ 20 4]
    strs := [sextInt (at_ 24 8) 64, sextInt (at_ 32 8) 64, sextInt (at_ 40 8) 64]
    prio := fld c 6 5, tgt := fld c 3 2, clu := fld c 31 28, poff := fld c 47 32 * 1024, bar := descBar d }

def Tensor.total (t : Tensor) : Nat := t.dims.foldl (· * ·) 1

/-- The limits of R116. -/
def tensorOk (s : State) (fid : Nat) (d : List Byte) : Bool :=
  let t := tensorOf d
  let c := leNat ((d.drop 48).take 8)
  let d0 := t.dims.headD 0
  decide (1 ≤ d0) && decide (d0 ≤ 2 ^ 31) && (t.dims.drop 1).all (fun n => decide (1 ≤ n) && decide (n ≤ 65535))
    && decide (t.total ≤ 2 ^ 34) && decide (fld c 63 48 = 0) && decide (fld c 27 8 = 0) && !c.testBit 4
    && decide (fld c 1 0 = 0) && decide (t.tgt ≤ 1) && decide (leNat (d.drop 60) = 0)
    && (decide (t.tgt = 0) || (decide (d0 % 64 = 0) && decide (t.clu < s.size fid)
        && decide (t.poff + t.total ≤ s.planeSize (s.pidOf fid t.clu))))

/-- PFT at a descriptor address; `n` bytes of code. -/
def prefetch (i : Instr) (n : Nat) (a : GReg) (off : Int) (s : State) : Out :=
  match gatomAcquired s with
  | none => .next s
  | some s =>
    let va := genVa s a off
    if va % 64 ≠ 0 then trap s .align (BitVec.ofNat 64 va)
    else match translate s (myPid s) (myCtx s) va .load with
    | (s, .error c) => trap s c (BitVec.ofNat 64 va)
    | (s, .ok pa) =>
      match probeHost s va pa 64 with
      | some s => .next s
      | none => match readSectors 2 va pa s with
      | (s, none) => stall s ((me s).wait.getD ⟨s.now, [], none⟩)
      | (s, some d) =>
        if !tensorOk s s.cur.fid d then trap s .pftdesc (wordOf i)
        else
          let bad := (descBar d).bind fun h => match handleCheck s s.cur.fid h (handleAllowed 0x300) with
            | .error c => some c
            | .ok _ => none
          match bad with
          | some c => trap s c (wordOf i)
          | none =>
            if 16 ≤ (s.clu (myPid s)).pft.length
            then stall s ((me s).wait.getD ⟨s.now, [], none⟩)
            else
              let e : PftEnt := ⟨s.nextId, s.cur, d, 0, false⟩
              let s := { s with nextId := s.nextId + 1 }.modClu (myPid s) fun c => { c with pft := c.pft ++ [e] }
              .next (advance (endWait s) n)

/-- PFT, short and long form. -/
def execPft (sb : Bool) (a : GReg) (imm : BitVec 11) (s : State) : Out := prefetch (.pft sb a imm) 4 a imm.toInt s
def execPftLong (sb : Bool) (a : GReg) (ext : BitVec 23) (imm : BitVec 11) (s : State) : Out :=
  prefetch (.pftLong sb a ext imm) 8 a (ext ++ imm).toInt s

/-- Where byte `q` of a tensor lies (R117): its address and how many bytes of its innermost run follow, at most
to the end of its sector. -/
def Tensor.place (t : Tensor) (q : Nat) : Nat × Nat :=
  let d (k : Nat) : Nat := t.dims.getD k 1
  let st (k : Nat) : Int := t.strs.getD k 0
  let o := q % d 0
  let i1 := q / d 0 % d 1
  let i2 := q / (d 0 * d 1) % d 2
  let i3 := q / (d 0 * d 1 * d 2)
  let a := truncNat ((t.base : Int) + o + i1 * st 0 + i2 * st 1 + i3 * st 2) 64
  (a, min (d 0 - o) (32 - a % 32))

/-- PFT_TARGET_FILL (R117): the next bytes of a descriptor become resident, or are copied into the plane, or are
dropped; all of them count. A fill of the reel store leaves the reels it touches undefined (R349). DESIGN CHOICE: a read for
target 1 allocates in the L2 at priority normal, since PRIO is target 0's (log 137). -/
def execPftTargetFill (pid id : Nat) (s : State) : Out :=
  match (s.clu pid).pft.find? fun e => decide (e.id = id) with
  | none => .next s
  | some e =>
    let t := tensorOf e.desc
    let (a, n) := t.place e.pos
    let ctx := (s.flk e.tid.fid).ctx
    if !engineRuns s pid e.tid.fid then .next s
    else
      let (s, r) := translate s pid ctx a .load
      let pa : Option Nat := match r with
        | .ok pa => if t.tgt = 1 ∧ isDev pa ∧ !devBiased s pa then none else some pa
        | .error _ => none
      if pa.any (readHeld s) then .next s
      else
        let s := match pa with
          | none => s
          | some p =>
            if t.tgt = 0 then reelTouch (l2Touch (obtain s p n 1) p n t.prio false false) ctx a p n
            else
              let (s, bs, _) := readAtHome s p n
              (l2Touch s p n 1 false false).planeWrite (s.pidOf e.tid.fid t.clu) (t.poff + e.pos) bs
        let s := match t.bar with
          | some h => countEach s e.tid h n
          | none => s
        let e := { e with pos := e.pos + n, dropped := e.dropped || pa.isNone }
        let s := progress s ctx
        if e.pos < t.total then .next (s.modClu pid fun c => { c with pft := c.pft.map fun x => if x.id = id then e else x })
        else
          let s := s.modClu pid fun c => { c with pft := c.pft.filter fun x => !decide (x.id = id) }
          .next (if e.dropped then countDrop s ctx else s)

end Sys2Proof.Machine
end

