-- ==== Sys2Proof/Machine/Power.lean ====
section
/-! DEFINITION. Operating classes, the token ring, purses and claims, allowances, sensors, refresh and the hardware
protections (R405 to R421). -/

namespace Sys2Proof.Machine

/-! ## Operating classes (R405 to R407) -/

/-- Picoseconds in a microsecond. -/
def usPs : Nat := 1000000

/-- The present voltage of a quad: 10 mV per µs toward the target's (R406). -/
def voltNow (q : Quad) (now : Nat) : Nat :=
  let v := classMv q.t
  if !q.ramp then q.mv
  else
    let d := (now - q.reqAt) * 10 / usPs
    if q.mv ≤ v then min v (q.mv + d) else max v (q.mv - d)

/-- A request for a class (R406, QUAD_REASSIGN): a falling clock step takes 200 ns, and the voltage follows. -/
def requestClass (s : State) (quad c : Nat) : State :=
  s.modQuad quad fun q =>
    let falls := decide (classMHz c < classMHz q.f)
    { q with
      t := c, mv := voltNow q s.now, ramp := true
      reqAt := if falls then s.now + 200000 else s.now
      stepAt := if falls then some (c, s.now + 200000) else none }

/-- CLOCK_STEP_DOWN (R406): the step is done; the quad joins the pool of the class. -/
def execClockStepDown (quad : Nat) (s : State) : Out :=
  match (s.quad quad).stepAt with
  | some (c, t) => if t ≤ s.now then .next (s.modQuad quad fun q => { q with f := c, stepAt := none }) else .next s
  | none => .next s

/-- VOLTAGE_RAMP_REACHES_TARGET (R406): the clock steps up where it has to, and the ramp ends. -/
def execVoltageRampReachesTarget (quad : Nat) (s : State) : Out :=
  let q := s.quad quad
  if !q.ramp || q.stepAt.isSome || decide (voltNow q s.now ≠ classMv q.t) then .next s
  else .next (s.modQuad quad fun q => { q with mv := classMv q.t, f := q.t, ramp := false })

/-- OPCLASS as it reads (R407). -/
def opclass (s : State) (pid : Nat) : Nat :=
  let q := s.quad (pid / 4)
  voltNow q s.now * 2 ^ 16 + b2n q.ramp * 256 + q.t * 16 + q.f

/-! ## The ring (R408, R411, R412, R415) -/

/-- The count of a new flit (R408, R421). -/
def injection (s : State) (die : Nat) : Nat :=
  let d := s.die die
  if s.pkg.clampEnd.isSome then 64 else max 64 (min d.palow d.tallow)

/-- The resident flocks' context of a cluster. -/
def ctxAt (s : State) (pid : Nat) : Option Nat :=
  (s.flocks.find? fun f => f.2.resident && f.2.clus.contains pid).map fun f => f.2.ctx

/-- Tokens taken per token credited (R407). -/
def stationFactor (s : State) (pid : Nat) : Nat := if (s.quad (pid / 4)).ramp then 2 else 1

/-- ASHARE.SHARE as a flit that was injected in a ring cycle carries it (R412). -/
def shareFor (c : Ctx) (cycle : Nat) : Nat :=
  match c.ashare.find? fun e => decide (e.1 ≤ cycle) with
  | some e => e.2
  | none => (c.ashare.getLastD (0, 4096)).2

/-- ASHARE_WRITE (R412): clamped; in force from the first flit of the next ring cycle. -/
def execAshareWrite (ctx : Nat) (v : BitVec 64) (s : State) : Out :=
  let x := fld v.toNat 12 0
  let n := if x = 0 then 1 else if 4096 < x then 4096 else x
  let c := ringCycle s + 1
  .next (s.modCtx ctx fun k => { k with
    ashare := (c, n) :: (k.ashare.filter fun e => decide (e.1 < c)).take 32 })

/-- The debits of a cluster's denied payers. -/
def deniedSum (p : Purse) : Nat := p.payers.foldl (fun acc x => acc + x.debit) 0

/-- The station of a cluster takes from the flit that passes it: the purse, and the count left (R411, R415, R420). -/
def stationTake (s : State) (cycle : Nat) (claims : Bool) (pid left : Nat) : State × Nat :=
  let p := (s.clu pid).purse
  let f := stationFactor s pid
  let share := match ctxAt s pid with
    | some c => shareFor (s.ctx c) (cycle - (1 + pid / 4 % 16))
    | none => 0
  let want := match p.claim, claims with
    | some c, true => f * (if p.retire = 0 then min c.amount (4096 - p.tokens) else p.retire)
    | none, true => 0
    | _, false => min (f * (if p.retire = 0 then 4096 - p.tokens else p.retire)) (f * share)
  let take := if p.cut.isSome then 0 else min left want
  let got := take / f
  let upd (p : Purse) : Purse :=
    if p.retire ≠ 0 then { p with retire := p.retire - got }
    else
      let rest := (p.claim.map fun c => c.amount - got).getD 0
      let p := { p with
        tokens := p.tokens + got
        fresh := if got = 0 then p.fresh else (cycle, got) :: p.fresh.take 15 }
      if !claims then p
      else if rest = 0 then { p with claim := none, starved := 0 }
      else { p with claim := p.claim.map fun c => { c with amount := rest } }
  (modPurse s pid upd, left - take)

/-- The clusters of a quad of a die with a resident flock, ascending. -/
def quadClusters (s : State) (die q : Nat) : List Nat :=
  ((List.range 4).map fun k => die * 64 + 4 * q + k).filter fun p => (ctxAt s p).isSome

/-- The clusters of a die whose claims are served in a ring cycle: those posted earliest among the claims that are
visible (R415). -/
def servedClaims (s : State) (die cycle : Nat) : List Nat :=
  let vis := ((List.range 64).map fun k => die * 64 + k).filterMap fun p =>
    ((s.clu p).purse.claim.filter fun c => decide (c.cycle < cycle)).map fun c => (p, c.cycle)
  let first := vis.foldl (fun acc e => min acc e.2) cycle
  (vis.filter fun e => decide (e.2 = first)).map (·.1)

/-- The starvation counts at the start of a ring cycle (R415, R416). -/
def countStarved (s : State) (die : Nat) : State :=
  (List.range 16).foldl (init := s) fun s q => (quadClusters s die q).foldl (init := s) fun s p =>
    modPurse s p fun x =>
      if x.payers.isEmpty then { x with starved := 0 }
      else if x.cut.isSome || s.pkg.clampEnd.isSome then x else { x with starved := x.starved + 1 }

/-- TOKEN_FLIT_INJECT (R408): the next ring cycle of a die, as it begins. Every flit moves one hop, the one that
returns is retired, a new one is emitted, and each station takes from the flit at its hop. -/
def execTokenFlitInject (die : Nat) (s : State) : Out :=
  let t := (s.die die).cycle
  if !s.pkg.powered || decide (ringCycle s < t) then .next s
  else
    let s := countStarved s die
    let claims := servedClaims s die t
    let ring := injection s die :: (s.die die).ring.take 16
    let (s, ring) := (List.range 16).foldl (init := (s, ring)) fun (s, ring) q =>
      let ps := (quadClusters s die q).filter fun p => claims.isEmpty || claims.contains p
      let (s, left) := ps.foldl (init := (s, ring.getD (q + 1) 0)) fun (s, left) p => stationTake s t (!claims.isEmpty) p left
      (s, setAt ring (q + 1) left)
    .next (s.modDie die fun d => { d with ring := ring, cycle := t + 1 })

/-- What a claim asks for. -/
def claimAmount (p : Purse) : Nat := min 4096 (deniedSum p) - p.tokens

/-- A station has a claim to post. -/
def claimDue (s : State) (pid : Nat) : Bool :=
  let p := (s.clu pid).purse
  p.claim.isNone && decide (136 ≤ p.starved) && decide (claimAmount p ≠ 0) && (ctxAt s pid).isSome

/-- CLAIM_POST (R415): after 136 starved ring cycles the station posts a claim, where its amount is above 0. -/
def execClaimPost (pid : Nat) (s : State) : Out :=
  if !claimDue s pid then .next s
  else .next (modPurse s pid fun p => { p with claim := some ⟨claimAmount p, (s.die (pid / 64)).cycle⟩ })

/-- The oldest denied payer. -/
def oldestPayer (p : Purse) : Option Payer := pickMin (fun x => (x.age, x.who, 0)) p.payers

/-- PURSE as it reads (R412). -/
def purseReg (s : State) (pid : Nat) : Nat :=
  let p := (s.clu pid).purse
  ((oldestPayer p).map (·.debit)).getD 0 * 2 ^ 16 + b2n p.claim.isSome * 2 ^ 15 + b2n (s.quad (pid / 4)).ramp * 2 ^ 14 + p.tokens

/-! ## Step windows (R413) -/

/-- SPEND_WINDOW_ROLLOVER (R413): after 64 arithmetic cycles the next window opens. -/
def execSpendWindowRollover (pid : Nat) (s : State) : Out := .next (rollSpend s pid)

/-! ## Allowances, sensors, refresh (R417 to R419) -/

/-- The safe envelope of a die (R421). -/
def safeDie (d : Die) : Die := { d with safe := true, palow := 64, tallow := 64 }
def safeAll (s : State) : State := (List.range 8).foldl (fun s k => s.modDie k safeDie) s

/-- TALLOW (R418). -/
def tallowOf (tj ta tb : Nat) : Nat :=
  let b := if tj ≤ 95 then 2000 else max 64 (2000 - 100 * (tj - 95))
  let h := b2n (decide (85 ≤ ta)) + b2n (decide (85 ≤ tb))
  max 64 (b * 7 ^ h / 8 ^ h)

/-- THALLOW_UPDATE (R418): running Priade firmware writes the allowances; the safe envelope ends. -/
def execThallowUpdate (die pallow : Nat) (s : State) : Out :=
  if !s.pkg.fwrun then .next s
  else
    let t := tallowOf (s.die die).tj (s.stk (2 * die)).temp (s.stk (2 * die + 1)).temp
    .next ((s.modDie die fun d => { d with safe := false, palow := pallow % 65536, tallow := t }).modPkg fun p => { p with fwStart := none })

/-- A stack's sensor, and its refresh rate (R419). -/
def stackSensor (k : Stack) (t : Nat) : Stack :=
  { k with temp := min t 255, dbl := if 85 ≤ t then true else if t < 82 then false else k.dbl }

/-- SENSOR_SAMPLE (R417): the sixteen quad temperatures of a die and its two stacks'. -/
def execSensorSample (die : Nat) (temps : List Nat) (ta tb : Nat) (s : State) : Out :=
  let temp (q : Nat) : Nat := min 255 (temps.getD q 0)
  let s := (List.range 16).foldl (init := s) fun s q => s.modQuad (die * 16 + q) fun x => { x with temp := temp q }
  let tj := (List.range 16).foldl (fun acc q => max acc (temp q)) 0
  let s := s.modDie die fun d => { d with tj := tj }
  .next ((s.modStk (2 * die) fun k => stackSensor k ta).modStk (2 * die + 1) fun k => stackSensor k tb)

/-- The refresh period of a stack (ps). -/
def refreshPeriod (k : Stack) : Nat := if k.dbl then 1950000 else 3900000

/-- BANK_REFRESH (R419): a bank is refreshed, once in a period. Only latencies feel it. -/
def execBankRefresh (stack bank : Nat) (s : State) : Out :=
  let k := s.stk stack
  let p := refreshPeriod k
  match k.refreshed.find bank with
  | some t => if t / p < s.now / p then .next (s.modStk stack fun k => { k with refreshed := k.refreshed.set bank s.now }) else .next s
  | none => .next (s.modStk stack fun k => { k with refreshed := k.refreshed.set bank s.now })

/-- THALLOW as it reads (R417). -/
def thallow (s : State) (pid : Nat) : Nat :=
  let die := pid / 64
  let d := s.die die
  let a := s.stk (2 * die)
  let b := s.stk (2 * die + 1)
  b.temp * 2 ^ 56 + a.temp * 2 ^ 48 + d.tj * 2 ^ 40 + b2n d.safe * 2 ^ 35 + b2n b.dbl * 2 ^ 34 + b2n a.dbl * 2 ^ 33
    + d.palow * 2 ^ 16 + d.tallow

/-! ## Hardware protections (R421) -/

/-- DROOP_DETECT: the cluster is cut from credits and payments. -/
def execDroopDetect (pid : Nat) (s : State) : Out := .next (modPurse s pid fun p => { p with cut := some s.now })

/-- DROOP_RECOVERY: after 64 cycles within 20 mV the cut ends. -/
def execDroopRecovery (pid : Nat) (s : State) : Out :=
  match (s.clu pid).purse.cut with
  | some t => if 64 ≤ cyclesSince (cluMHz s pid) t s.now then .next (modPurse s pid fun p => { p with cut := none }) else .next s
  | none => .next s

/-- CORE_RAIL_CLAMP: every injector emits FLOOR for 1 µs. -/
def execCoreRailClamp (s : State) : Out := .next (s.modPkg fun p => { p with clampEnd := some (s.now + usPs) })

/-- CLAMP_FLOOR_END. -/
def execClampFloorEnd (s : State) : Out :=
  if s.pkg.clampEnd.any fun t => decide (t ≤ s.now) then .next (s.modPkg fun p => { p with clampEnd := none }) else .next s

/-- The contexts with a flock on a die. -/
def ctxsOnDie (s : State) (die : Nat) : List Nat :=
  ((s.flocks.filter fun f => f.2.resident && f.2.clus.any fun p => decide (p / 64 = die)).map fun f => f.2.ctx).dedup

/-- JUNCTION_TRIP: the die stops, and each context on it receives THERMTRIP. -/
def execJunctionTrip (die : Nat) (s : State) : Out :=
  if (s.die die).tripped then .next s
  else .next ((ctxsOnDie s die).foldl (fun s c => ctxEvent s c 3) (s.modDie die fun d => { d with tripped := true }))

/-- FIRMWARE_HEARTBEAT_MISS: the safe envelope governs every die. -/
def execFirmwareHeartbeatMiss (s : State) : Out := .next (safeAll s)

end Sys2Proof.Machine
end

