-- ==== Sys2Proof/Machine/SysRegs.lean ====
section
/-! DEFINITION. System registers: SRD, SWR and the writes with an effect of their own (R322 to R324). -/

namespace Sys2Proof.Machine

/-! ## The register map (R323) -/

/-- A system register, by its number; masks with their slot. -/
inductive SysReg where
  | tpc | tcause | tval | tstat | tvec | tscr | gtid | yoke
  | dtime | lease | hintdrop | pincap | pinuse | srseed | colsplit | stashstat | cqstat | cqctl | mqstat | tkwin | tastat
  | ttbase | xlmode | xlarg0 | xlarg1 | xlcmd | xlstat
  | thallow | opclass | purse | ashare
  | exmask (slot : Nat) | parkmask (slot : Nat) | exitmask (slot : Nat)
  deriving DecidableEq, Repr

/-- The register that a number names; none where it is unassigned. -/
def sysReg (n : Nat) : Option SysReg :=
  if 0x080 ≤ n ∧ n ≤ 0x08F then some (.exmask (n - 0x080))
  else if 0x090 ≤ n ∧ n ≤ 0x09F then some (.parkmask (n - 0x090))
  else if 0x0A0 ≤ n ∧ n ≤ 0x0AF then some (.exitmask (n - 0x0A0))
  else match n with
    | 0x000 => some .tpc | 0x001 => some .tcause | 0x002 => some .tval | 0x003 => some .tstat
    | 0x004 => some .tvec | 0x005 => some .tscr | 0x006 => some .gtid | 0x007 => some .yoke
    | 0x010 => some .dtime | 0x011 => some .lease | 0x012 => some .hintdrop | 0x013 => some .pincap
    | 0x014 => some .pinuse | 0x015 => some .srseed | 0x016 => some .colsplit | 0x017 => some .stashstat
    | 0x018 => some .cqstat | 0x019 => some .cqctl | 0x01A => some .mqstat | 0x01B => some .tkwin | 0x01C => some .tastat
    | 0x020 => some .ttbase | 0x021 => some .xlmode | 0x022 => some .xlarg0 | 0x023 => some .xlarg1
    | 0x024 => some .xlcmd | 0x025 => some .xlstat
    | 0x040 => some .thallow | 0x041 => some .opclass | 0x042 => some .purse | 0x043 => some .ashare
    | _ => none

/-- A register of the translation controls (R84). -/
def SysReg.isXl : SysReg → Bool
  | .ttbase => true
  | .xlmode => true
  | .xlarg0 => true
  | .xlarg1 => true
  | .xlcmd => true
  | .xlstat => true
  | _ => false

/-- A read or a write that a thread without privilege is denied; COLSPLIT denies every write (R94, R323). -/
def sysDenied (r : SysReg) (wr priv : Bool) : Bool :=
  match r with
  | .colsplit => wr
  | .pincap => wr && !priv
  | .ashare => wr && !priv
  | r => r.isXl && !priv

/-- A register whose SRD leaves its destination outstanding (R320). -/
def SysReg.late : SysReg → Bool
  | .tcause => true
  | .tval => true
  | .cqstat => true
  | .mqstat => true
  | .tastat => true
  | _ => false

/-! ## Values -/

/-- STASHSTAT (R164): the entries of the reading thread's flock (DEDUCED, log 138). -/
def stashstat (s : State) (fid pid : Nat) : Nat :=
  let st := (s.clu pid).stash.filter fun e => decide (e.fid = fid)
  let dirty (k : StashSt) : Bool := match k with
    | .dirty _ _ _ => true
    | _ => false
  (st.foldl (fun acc e => acc + (e.sectors.filter fun k => dirty k.2).length) 0) * 256 + st.length

/-- COLSPLIT (R94). -/
def colsplit (s : State) (pid : Nat) : Nat := (s.clu pid).pinb * 256 + (s.clu pid).wpb

/-- GTID (R324). -/
def gtid (t : Tid) (r : Role) : Nat :=
  let k := match r with
    | .copy => 0
    | .matrix => 1
    | .vector => 2
  t.clu * 2 ^ 16 + k * 256 + t.t

/-- PINUSE (R105). -/
def pinuse (c : Ctx) : Nat := (List.range 8).foldl (fun acc d => acc + c.pinuse.getD d 0 * 2 ^ (8 * d)) 0

/-- The TTBASE register (R84). -/
def ttbase (c : Ctx) : Nat := c.root * 4096 + b2n c.en

/-- The value that SRD delivers; a write-only register reads 0. -/
def sysValue (s : State) (r : SysReg) : Word64 :=
  let x := me s
  let pid := myPid s
  let c := s.ctx (myCtx s)
  let n (v : Nat) : Word64 := BitVec.ofNat 64 v
  match r with
  | .tpc => x.tpc
  | .tcause => n x.tcause
  | .tval => x.tval
  | .tstat => n (b2n (myPriv s) * 2 + b2n x.intrap)
  | .tvec => x.tvec
  | .tscr => x.tscr
  | .gtid => n (gtid s.cur x.role)
  | .yoke => n x.yoke
  | .dtime => n (dt s)
  | .lease => n c.leaseNs
  | .hintdrop => c.hintdrop
  | .pincap => c.pincap
  | .pinuse => n (pinuse c)
  | .srseed => 0
  | .colsplit => n (colsplit s pid)
  | .stashstat => n (stashstat s s.cur.fid pid)
  | .cqstat => n (cqstat s pid)
  | .cqctl => 0
  | .mqstat => n (mqstat s pid)
  | .tkwin => n (tkwin s pid)
  | .tastat => n (tastat s pid)
  | .ttbase => n (ttbase c)
  | .xlmode => n (b2n c.xlmode)
  | .xlarg0 => c.xlarg0
  | .xlarg1 => c.xlarg1
  | .xlcmd => 0
  | .xlstat => xlstat s (myCtx s)
  | .thallow => n (thallow s pid)
  | .opclass => n (opclass s pid)
  | .purse => n (purseReg s pid)
  | .ashare => n (((c.ashare.headD (0, 4096)).2))
  | .exmask k => n (maskOf s s.cur.fid s.cur.clu k 0)
  | .parkmask k => n (maskOf s s.cur.fid s.cur.clu k 1)
  | .exitmask k => n (maskOf s s.cur.fid s.cur.clu k 2)

/-- SRD (R322): unassigned, then denied, then the value. -/
def execSrd (sb : Bool) (d : GReg) (num : BitVec 11) (s : State) : Out :=
  let i := wordOf (.srd sb d num)
  match sysReg num.toNat with
  | none => trap s .illegal i
  | some r =>
    if sysDenied r false (myPriv s) then trap s .priv i
    else if r.late then .next (advance (outstanding s d.toNat (.value (sysValue s r))) 4)
    else put s 4 d (sysValue s r)

/-! ## Writes with an effect of their own -/

/-- LEASE as it is stored (R303). -/
def clampLease (v : Nat) : Nat :=
  let n := v % 2 ^ 17
  if n < 128 then 128 else if 64000 < n then 64000 else n

def setLease (s : State) (ctx : Nat) (v : Word64) : State := s.modCtx ctx fun c => { c with leaseNs := clampLease v.toNat }

/-- LEASE_WRITE (R303). -/
def execLeaseWrite (ctx : Nat) (v : BitVec 64) (s : State) : Out := .next (setLease s ctx v)

/-- SRSEED written (R188): every generator of the cluster takes its state from the new seed, for words that issue after
this cycle. -/
def setSeed (s : State) (pid : Nat) (v : Word64) : State :=
  (settleSeed s pid).modClu pid fun c => { c with srNext := some (s.now, BitVec.ofNat 32 v.toNat) }

/-- SRSEED_WRITE (R188). -/
def execSrseedWrite (pid : Nat) (v : BitVec 64) (s : State) : Out := .next (setSeed s pid v)

/-- EXMASK as the thread in focus writes it (R358): as a MASK.WR where its current stream binds the slot, else when
written, though a word that issues on the slot in this cycle still sees the old value. -/
def writeEx (s : State) (slot v : Nat) : State :=
  match maskSlot s slot with
  | some (n, _) => placeMask s s.cur n slot v
  | none =>
    let old := (s.grp s.cur.fid s.cur.clu slot).ex
    if (s.flk s.cur.fid).rcd.groups ≤ slot then s
    else (setEx s s.cur.fid s.cur.clu slot v).modGrp s.cur.fid s.cur.clu slot fun g => { g with exWas := some (s.now, old) }

/-- EXMASK_WRITE (R358). -/
def execExmaskWrite (slot : Nat) (v : BitVec 64) (s : State) : Out := .next (writeEx s slot (v.toNat % 2 ^ 32))

/-- HINTDROP written (R118): an increment of the same cycle counts on. -/
def setHintdrop (s : State) (pid ctx : Nat) (v : Word64) : State :=
  s.modCtx ctx fun c => { c with hintdrop := if (c.hintAt.any (sameCycle s pid)) && decide (v ≠ BitVec.allOnes 64) then v + 1 else v }

/-- A state that an instruction with no stop of its own leaves. -/
def outState (o : Out) (s : State) : State :=
  match o with
  | .next t => t
  | _ => s

/-- CQCTL written (R139): ABORT wins over RESUME. -/
def writeCqctl (s : State) (pid : Nat) (v : Nat) : State :=
  (List.range 4).foldl (init := s) fun s q =>
    if v.testBit (q + 4) then outState (execCqctlAbort pid q s) s
    else if v.testBit q then outState (execCqctlResume pid q s) s
    else s

/-- A VA[63:2] field (R324). -/
def parcelVa (v : Word64) : Word64 := BitVec.ofNat 64 (v.toNat / 4 * 4)

/-- What SWR writes. Read-only fields keep their values (R7). -/
def sysWrite (s : State) (r : SysReg) (v : Word64) : State :=
  let ctx := myCtx s
  let pid := myPid s
  match r with
  | .tpc => modMe s fun x => { x with tpc := parcelVa v }
  | .tvec => modMe s fun x => { x with tvec := parcelVa v }
  | .tscr => modMe s fun x => { x with tscr := v }
  | .yoke => modMe s fun x => { x with yoke := v.toNat % 2 ^ 16 }
  | .lease => setLease s ctx v
  | .hintdrop => setHintdrop s pid ctx v
  | .pincap => s.modCtx ctx fun c => { c with pincap := v }
  | .srseed => setSeed s pid v
  | .cqctl => writeCqctl s pid v.toNat
  | .ttbase => outState (execTtbaseWrite ctx v s) s
  | .xlmode => s.modCtx ctx fun c => { c with xlmode := v.getLsbD 0 }
  | .xlarg0 => s.modCtx ctx fun c => { c with xlarg0 := v }
  | .xlarg1 => s.modCtx ctx fun c => { c with xlarg1 := v }
  | .xlcmd => xlWrite s ctx v
  | .xlstat => s.modCtx ctx fun c => { c with xlovr := c.xlovr && !v.getLsbD 1 }
  | .ashare => outState (execAshareWrite ctx v s) s
  | .exmask k => writeEx s k (v.toNat % 2 ^ 32)
  | _ => s

/-- SWR (R322): unassigned, then denied, then the write. -/
def execSwr (sb : Bool) (a : GReg) (num : BitVec 11) (s : State) : Out :=
  let i := wordOf (.swr sb a num)
  match sysReg num.toNat with
  | none => trap s .illegal i
  | some r =>
    if sysDenied r true (myPriv s) then trap s .priv i
    else .next (advance (sysWrite s r (rd s a)) 4)

end Sys2Proof.Machine
end

