-- ==== Sys2Proof/Machine/Queues.lean ====
section
/-! DEFINITION. Work queues: QCMD, launch windows and seals, launch records and their checks, completion words and
LAUNCH (R386 to R393, R403, R404, R478). -/

namespace Sys2Proof.Machine

/-! ## The age of a head (R401) -/

/-- The age of a queue's head (R401): the multiples of 1000 ns that DT has reached since it was found blocked. -/
def Queue.ageAt (k : Queue) (s : State) : Nat :=
  match k.blockedAt with
  | some t => dt s / 1000 - t / 1000
  | none => k.age

/-- The age of a head has reached its level's limit, which holds until its record leaves the head. -/
def Queue.aged (k : Queue) (s : State) (r : Record) : Bool :=
  let lim := s.pkg.agelim.get r.prio 1000
  k.barred || (decide (lim ≠ 0) && decide (lim ≤ k.ageAt s))

/-- What has reached its limit is noted before a limit changes. -/
def noteAged (s : State) : State :=
  { s with queues := s.queues.mapVals fun _ k => { k with barred := k.head.any fun r => k.aged s r } }

/-! ## Queue descriptors (R386, R387, R478) -/

/-- A context that exists (R324). -/
def ctxExists (s : State) (ctx : Nat) : Bool := (s.ctxs.find ctx).isSome

/-- A cluster that discovery reports present (R1). -/
def present (s : State) (pid : Nat) : Bool := decide (pid < 512) && !s.absent.contains pid

/-- Bytes `lo` to `lo + n - 1` of a block, as a number. -/
def at_ (d : List Byte) (lo n : Nat) : Nat := leNat ((d.drop lo).take n)

/-- A field that the layout says is zero. -/
def zeroAt (d : List Byte) (lo n : Nat) : Bool := decide (at_ d lo n = 0)

/-- The clusters that a descriptor's DIEMASK and CMASKs name. -/
def descMask (s : State) (d : List Byte) : List Nat :=
  (List.range 512).filter fun p => (at_ d 18 1).testBit (p / 64) && (at_ d (32 + 8 * (p / 64)) 8).testBit (p % 64) && present s p

/-- A window that lies whole in device memory, which works from Stage 2 on, or whole in the host window (R475). -/
def windowOk (stage base n : Nat) : Bool :=
  let last := base + 256 * n - 1
  decide (base % 256 = 0) && ((decide (2 ≤ stage) && isDev base && isDev last) || (isHost base && isHost last))

/-- The limits of R386. -/
def descOk (s : State) (d : List Byte) : Bool :=
  decide (at_ d 8 1 ≤ 16) && windowOk s.pkg.stage (at_ d 0 8) (2 ^ at_ d 8 1) && decide (at_ d 9 1 ≤ 23) && decide (at_ d 10 2 ≤ 1)
    && ctxExists s (at_ d 12 4) && decide (at_ d 16 2 ≤ 2047) && zeroAt d 19 13 && zeroAt d 96 32

/-- Where the descriptor of a queue lies: BOOTQ for queue 0 before Stage 3, else QTBASE + 128 × q; none where the
register does not name the memory that the rule says. -/
def descAt (s : State) (q : Nat) : Option Nat :=
  let b := s.pkg.bootq.toNat
  let a := s.pkg.qtbase.toNat + 128 * q
  if s.pkg.stage < 3 then (if q = 0 ∧ isHost b then some b else none)
  else if isDev (a + 127) then some a else none

/-- LOAD: the descriptor is read, and H and T are set to 0. A head that still places flocks stays. -/
def loadQueue (s : State) (q : Nat) (d : List Byte) : State :=
  let mask := if s.pkg.stage < 3 then [0].filter (present s) else descMask s d
  s.modQue q fun k => { k with
    loaded := true, wbase := at_ d 0 8, log2n := at_ d 8 1, prio := at_ d 9 1, dev := decide (at_ d 10 2 = 1)
    ctx := at_ d 12 4, msix := at_ d 16 2, mask := mask, h := 0, t := 0 }

/-- A QCMD command: its ERR, and what it does. -/
def qcmdDo (s : State) (op q : Nat) : State × Nat :=
  if op ≠ 1 ∧ op ≠ 2 then (s, 1)
  else if s.pkg.stage < 3 ∧ q ≠ 0 then (s, 2)
  else if (op = 1) = (s.que q).loaded then (s, 3)
  else if op = 2 then (s.modQue q fun k => { k with loaded := false }, 0)
  else match descAt s q with
    | none => (s, 2)
    | some a =>
      let (s, d, _) := readAtHome (holdIf (readHeld s a) s) a 128
      if descOk s d then (loadQueue s q d, 0) else (s, 2)

/-- The end of a queue command (R387): what it does, its ERR, and one more command finished. -/
def qcmd (s : State) (op q : Nat) : State :=
  let (s, err) := qcmdDo s op q
  s.modPkg fun p => { p with qseq := (p.qseq + 1) % 2 ^ 32, qerr := err, qcmd := none }

/-- A write of QCMD (R387): it starts a command, unless one runs. A command that is refused for its OP is over at once. The
page is not reached before Stage 1. -/
def qcmdWrite (s : State) (op q : Nat) : State :=
  if s.pkg.stage = 0 ∨ s.pkg.qcmd.isSome then s
  else if op = 1 ∨ op = 2 then s.modPkg fun p => { p with qcmd := some (op, q) }
  else qcmd s op q

/-- A queue command: it is written to QCMD where none runs, and finishes where it is the one that runs (log 37). -/
def queueCommand (s : State) (op q : Nat) : State := if s.pkg.qcmd = some (op, q) then qcmd s op q else qcmdWrite s op q

def execLoad (q : Nat) (s : State) : Out := .next (queueCommand s 1 (q % 131072))
def execUnload (q : Nat) (s : State) : Out := .next (queueCommand s 2 (q % 131072))

/-- QCMDSTAT as it reads. -/
def qcmdstat (s : State) : Word64 := BitVec.ofNat 64 (s.pkg.qseq * 2 ^ 32 + s.pkg.qerr * 16 + b2n s.pkg.qcmd.isSome)

/-! ## Seals (R388) -/

/-- The address of a record's slot. -/
def slotAt (k : Queue) (n : Nat) : Nat := k.wbase + 256 * (n % 2 ^ k.log2n)

/-- The parity of a record's lap. -/
def lap (k : Queue) (n : Nat) : Nat := n / 2 ^ k.log2n % 2

/-- A seal that stands for a record number. -/
def sealed (k : Queue) (n b : Nat) : Bool := b.testBit 7 && decide (b % 2 = lap k n)

/-! ## Launch records (R390, R391) -/

/-- A generator thread of a record: PRESENT, ROLE, entry offset. -/
def threadOf (w : Nat) : Bool × Nat × Nat := (w.testBit 34, fld w 33 32, fld w 31 0)

/-- The fields of a record, under a queue. -/
def recordOf (s : State) (k : Queue) (d : List Byte) : Record :=
  { image := at_ d 0 8, reels := at_ d 8 8, done := at_ d 16 8, gx := at_ d 24 2, gy := at_ d 26 2, gz := at_ d 28 2
    flock := at_ d 30 1, groups := at_ d 31 1, cls := at_ d 32 1, acc := at_ d 33 1, bars := at_ d 34 2, stash := at_ d 36 2
    scratch := at_ d 38 2, wplane := at_ d 40 1, reelShare := at_ d 41 1, tokRate := at_ d 42 2
    threads := (List.range 8).map fun t => threadOf (at_ d (64 + 8 * t) 8)
    args := (List.range 15).map fun j => BitVec.ofNat 64 (at_ d (128 + 8 * j) 8)
    tag := at_ d 248 4, num := k.h, parsedAt := dt s, prio := k.prio, ctx := k.ctx, msix := k.msix
    boot := decide (s.pkg.stage < 3), mask := k.mask, serial := s.nextId }

/-- The declared total in 4 KiB units. -/
def Record.units (r : Record) : Nat := r.stash + r.scratch + 16 * r.acc
/-- The number of flocks. -/
def Record.flocks (r : Record) : Nat := r.gx * r.gy * r.gz

/-- A THREAD word within its limits: only the limit of ROLE is one of present threads (R390, R391). -/
def threadOk (w : Nat) : Bool :=
  decide (fld w 63 35 = 0) && decide (w % 4 = 0) && (!w.testBit 34 || decide (fld w 33 32 ≠ 3))

/-- The checks of ARG (R391). -/
def recordOk (r : Record) (d : List Byte) : Bool :=
  let ws := (List.range 8).map fun t => at_ d (64 + 8 * t) 8
  decide (1 ≤ r.gx) && decide (1 ≤ r.gy) && decide (1 ≤ r.gz) && decide (1 ≤ r.flock) && decide (r.flock ≤ 16)
    && decide (1 ≤ r.groups) && decide (r.groups ≤ 16) && decide (r.cls ≤ 7) && decide (r.acc ≤ 8)
    && decide (1 ≤ r.bars) && decide (r.bars ≤ 256) && decide (r.wplane ≤ 7) && decide (r.reelShare ≤ 16)
    && decide (r.tokRate ≤ 4096) && zeroAt d 44 20 && zeroAt d 252 3 && decide (fld (at_ d 255 1) 6 1 = 0)
    && ws.all threadOk && (ws.any fun w => w.testBit 34) && decide (r.units ≤ 384)
    && canonical r.image && decide (r.image % 256 = 0) && canonical r.reels && decide (r.reels % 2097152 = 0)
    && canonical r.done && decide (r.done % 8 = 0)

/-- The mask of a record holds FLOCK clusters on one die; a boot record has FLOCK 1, CLASS 0, WPLANE 0 (R478). -/
def recordFits (r : Record) : Bool :=
  ((List.range 8).any fun d => decide (r.flock ≤ (r.mask.filter fun p => decide (p / 64 = d)).length))
    && (!r.boot || (decide (r.flock = 1) && decide (r.cls = 0) && decide (r.wplane = 0)))

/-! ## Completion words (R392) -/

/-- A completion word written with a status; the queue's MSI-X entry goes out after it. -/
def complete (s : State) (r : Record) (pid status : Nat) : State :=
  let sig (s : State) (after : Nat) : State :=
    if r.msix = 0 then s else s.modPkg fun p => { p with msix := p.msix ++ [(r.msix, after)] }
  if r.done = 0 then sig s (dt s)
  else
    let w := leBytes 8 (status * 2 ^ 32 + r.tag)
    match if r.done % 8 = 0 then recStore s r.ctx pid r.done w else (s, none) with
    | (s, some g) => sig s g.pkg
    | (s, none) => s.modCtx r.ctx fun c => { c with donEerr := true }

/-- RECORD_PARSE (R388, R391): the next record of a queue whose head is empty. -/
def execRecordParse (q : Nat) (s : State) : Out :=
  let k := s.que q
  if !k.loaded || k.head.isSome then .next s
  else
    let a := slotAt k k.h
    let (t, b, _) := readAtHome (holdIf (readHeld s a) s) (a + 255) 1
    if !sealed k k.h (leNat b) then .next s
    else
      let (t, d, _) := readAtHome t a 256
      let r := recordOf t k d
      let t := { t with nextId := t.nextId + 1 }
      let reject (status : Nat) : Out :=
        let t := t.modQue q fun k => { k with h := k.h + 1 }
        let t := t.modCtx k.ctx fun c => { c with recErr := true }
        .next (complete t r (k.mask.headD 0) status)
      if !recordOk r d then reject 1
      else if !recordFits r then reject 2
      else .next (t.modQue q fun k => { k with
        h := k.h + 1, head := some r, placed := 0, blockedAt := none, age := 0, barred := false, ends := k.ends.set r.serial (0, false) })

/-- A flock of a record has ended (R392): the last one completes the record. -/
def flockDone (s : State) (q : Nat) (r : Record) (pid : Nat) (fault : Bool) : State :=
  let (n, bad) := (s.que q).ends.get r.serial (0, false)
  let bad := bad || fault
  if n + 1 < r.flocks then s.modQue q fun k => { k with ends := k.ends.set r.serial (n + 1, bad) }
  else complete (s.modQue q fun k => { k with ends := k.ends.erase r.serial }) r pid (if bad then 3 else 0)

/-! ## LAUNCH (R404) -/

/-- LAUNCH: the source record is read as by LDG; a queue that is not the context's DEV queue answers 2, a full window
1; else, after a release at .sys, the record and its seal are written. -/
def execLaunch (sb : Bool) (d a b : GReg) (s : State) : Out :=
  match gatomAcquired s with
  | none => .next s
  | some s =>
    let va := rdN s a
    if va % 256 ≠ 0 then trap s .align (rd s a)
    else if 2 ^ 17 ≤ rdN s b then trap s .illegal (wordOf (.launch sb d a b))
    else match translate s (myPid s) (myCtx s) va .load with
    | (s, .error c) => trap s c (rd s a)
    | (s, .ok pa) =>
      match probeHost s va pa 256 with
      | some s => .next s
      | none =>
      let w := (me s).wait.getD ⟨s.now, closedMarks (me s), none⟩
      match readSectors 8 va pa s with
      | (s, none) => stall s w
      | (s, some rec) =>
        let q := rdN s b
        let k := s.que q
        if !k.loaded || !k.dev || decide (k.ctx ≠ myCtx s) then put (endWait s) 4 d 2
        else if 2 ^ k.log2n ≤ k.t - k.h then put (endWait s) 4 d 1
        else if !releaseDone s s.cur true 6 w.marks then stall s w
        else
          let at0 := slotAt k k.t
          let s := (writeAtHome (holdIf (writeHeld s at0) s) (myPid s) at0 (rec.take 255)).1
          let s := (writeAtHome s (myPid s) (at0 + 255) [BitVec.ofNat 8 (128 + lap k k.t)]).1
          let s := s.modQue q fun k => { k with t := k.t + 1 }
          put (endWait s) 4 d (BitVec.ofNat 64 (k.t * 2 ^ 32))

end Sys2Proof.Machine
end

