-- ==== Sys2Proof/Machine/Placement.lean ====
section
/-! DEFINITION. The die dispatcher: what fits, the choice among sets of clusters, placement and resume, backfill,
ageing, and pre-emption by a blocked head (R394 to R402, R441). -/

namespace Sys2Proof.Machine

/-! ## What asks to be placed (R395, R400, R402) -/

/-- A flock that asks for clusters: its queue, its record, its place in the grid, and its number where it was
pre-empted. -/
structure Want where
  queue : Nat
  rcd : Record
  grid : Nat
  fid : Option Nat
  deriving DecidableEq, Repr

/-- The pre-empted flocks of a queue, earliest placed first. -/
def waiting (s : State) (q : Nat) : List (Nat × Flock) :=
  sortBy (fun e => e.2.placed) (s.flocks.filter fun e => decide (e.2.queue = q) && !e.2.resident && !e.2.ended)

/-- What is at the head of a queue: a pre-empted flock, else the next flock of the head's record. -/
def wantOf (s : State) (q : Nat) : Option Want :=
  match waiting s q with
  | (fid, f) :: _ => some ⟨q, f.rcd, f.grid, some fid⟩
  | [] => (s.que q).head.map fun r => ⟨q, r, (s.que q).placed, none⟩

/-- The queues of a level that ask, ascending from the one after the level's latest placement (R400). -/
def levelWants (s : State) (level : Nat) : List Want :=
  let start := s.pkg.levelStart.get level 131071
  let key (w : Want) : Nat := (w.queue + 131072 - (start + 1) % 131072) % 131072
  sortBy key ((s.queues.filterMap fun e => wantOf s e.1).filter fun w => decide (w.rcd.prio = level))

/-- Every head in the order in which it is tried: descending level. -/
def wants (s : State) : List Want := (List.range 24).flatMap fun i => levelWants s (23 - i)

/-! ## What fits (R394) -/

/-- The resident flocks of a cluster. -/
def residents (s : State) (pid : Nat) : List (Nat × Flock) :=
  s.flocks.filter fun e => e.2.resident && e.2.clus.contains pid

/-- A quad is idle when no flock resides on it (R396). -/
def idleQuad (s : State) (q : Nat) : Bool := !(s.flocks.any fun e => e.2.resident && e.2.clus.any fun p => decide (p / 4 = q))

/-- A quad is in the pool of a class: it runs the class and heads for no other (R406; DEDUCED, log 38). -/
def inPool (s : State) (q cls : Nat) : Bool :=
  let k := s.quad q
  decide (k.f = cls) && decide (k.t = cls) && k.stepAt.isNone

/-- The present threads of a record. -/
def Record.nThreads (r : Record) : Nat := (r.threads.filter (·.1)).length

/-- Room on a cluster beside some resident flocks. -/
def hasRoom (fs : List (Nat × Flock)) (r : Record) : Bool :=
  let used (f : Record → Nat) : Nat := fs.foldl (fun acc e => acc + f e.2.rcd) 0
  decide (used Record.groups + r.groups ≤ 16) && decide (used Record.nThreads + r.nThreads ≤ 8)
    && decide (used Record.units + r.units ≤ 384) && decide (used Record.bars + r.bars ≤ 256)
    && decide (used Record.reelShare + r.reelShare ≤ 16)

/-- A cluster fits a flock of a record, once some flocks are gone and some quads have joined the pool. -/
def fits (s : State) (gone extra : List Nat) (r : Record) (pid : Nat) : Bool :=
  let fs := (residents s pid).filter fun e => !gone.contains e.1
  (inPool s (pid / 4) r.cls || extra.contains (pid / 4))
    && (fs.all fun e => decide (e.2.ctx = r.ctx) && decide (e.2.rcd.wplane = r.wplane)) && hasRoom fs r

/-! ## Ageing (R401) -/

/-- The candidate region of a record: mask clusters whose quad is in the pool of CLASS or idle. -/
def inRegion (s : State) (r : Record) (pid : Nat) : Bool :=
  r.mask.contains pid && (inPool s (pid / 4) r.cls || idleQuad s (pid / 4))

/-- An aged head of another queue, at the level of a flock or above, bars a cluster to it. -/
def barred (s : State) (w : Want) (pid : Nat) : Bool :=
  s.queues.any fun e => decide (e.1 ≠ w.queue) && e.2.head.any fun r =>
    decide (w.rcd.prio ≤ r.prio) && e.2.aged s r && inRegion s r pid

/-- The clusters of a die that a flock may take, ascending. -/
def candidates (s : State) (gone extra : List Nat) (w : Want) (die : Nat) : List Nat :=
  w.rcd.mask.filter fun p => decide (p / 64 = die) && fits s gone extra w.rcd p && !barred s w p

/-- Some die has enough of them. -/
def canFit (s : State) (gone extra : List Nat) (w : Want) : Bool :=
  (List.range 8).any fun d => decide (w.rcd.flock ≤ (candidates s gone extra w d).length)

/-! ## The choice (R396) -/

/-- The sublists of a length, in the order of their members. -/
def combos {α : Type} : Nat → List α → List (List α)
  | 0, _ => [[]]
  | _ + 1, [] => []
  | n + 1, a :: l => (combos n l).map (a :: ·) ++ combos (n + 1) l

/-- The quads of a set. -/
def quadsOf (ps : List Nat) : List Nat := (ps.map (· / 4)).dedup

/-- TOKRATE over every cluster of every resident flock in a quad. -/
def quadLoad (s : State) (q : Nat) : Nat :=
  s.flocks.foldl (init := 0) fun acc e =>
    if e.2.resident then acc + e.2.rcd.tokRate * (e.2.clus.filter fun p => decide (p / 4 = q)).length else acc

/-- Test 1: every quad's station covers its load with the new flock's. -/
def covered1 (s : State) (r : Record) (ps : List Nat) : Bool :=
  (quadsOf ps).all fun q =>
    let load := quadLoad s q + r.tokRate * (ps.filter fun p => decide (p / 4 = q)).length
    decide (load * classMHz (s.quad q).f * 16 ≤ injection s (q / 16) * 2700)

/-- Tests 1 to 4, in their order, each the better the smaller: coverage, resident flocks, quads, the hottest quad. -/
def setRank (s : State) (r : Record) (ps : List Nat) : List Nat :=
  let quads := quadsOf ps
  [b2n (!covered1 s r ps), ps.foldl (fun acc p => acc + (residents s p).length) 0, quads.length,
    quads.foldl (fun acc q => max acc (s.quad q).temp) 0]

/-- The first of the best sets; sets come in the order of test 5. -/
def bestSet (s : State) (r : Record) (sets : List (List Nat)) : Option (List Nat) :=
  (sets.foldl (init := (none : Option (List Nat × List Nat))) fun best ps =>
    let k := setRank s r ps
    match best with
    | some (b, _) => if k < b then some (k, ps) else best
    | none => some (k, ps)).map (·.2)

/-- The set of clusters that a flock is placed on. -/
def chooseSet (s : State) (w : Want) : Option (List Nat) :=
  bestSet s w.rcd ((List.range 8).flatMap fun d => combos w.rcd.flock (candidates s [] [] w d))

/-! ## Engine state (R95, R398, R412) -/

/-- A cluster taken over by a context that has no flock on it: banks converted, the plane zero, engine state as at
placement; the generator states of R188 are the context's own. -/
def freshCluster (s : State) (pid ctx wplane : Nat) : State :=
  let s := if (s.clu pid).wpb = wplane then s else combineHomed s pid
  s.modClu pid fun c =>
    let own := decide (c.owner = some ctx)
    { c with
      owner := some ctx, wpb := wplane, plane := [], planeDirty := [], l2 := if c.wpb = wplane then c.l2 else [], reels := []
      srSeed := if own then c.srSeed else 0x2545_F491, sr := if own then c.sr else [], srNext := if own then c.srNext else none
      codeTab := [], code := BankCtl.placed, curves := [], curve := [], ta := { TArray.placed with ents := c.ta.ents, lastRet := c.ta.lastRet }
      purse := { c.purse with
        tokens := 0
        payers := []
        starved := 0
        claim := none
        retire := 0
        fresh := [] } }

/-- Instruction-cache lines of the context dropped where a flock comes (R338). -/
def coldCode (s : State) (pid ctx : Nat) : State := dropCode s pid ctx 0 0 true

/-- The translation caches and the L1 of a cluster where a flock resumes hold nothing of its context (R441); an update-only
line and a fill on its way, which another flock of the context has there, stay. -/
def coldCaches (s : State) (pid ctx : Nat) : State :=
  s.modClu pid fun c => { c with
    tlb1 := c.tlb1.filter fun e => !decide (e.ctx = ctx)
    tlb := c.tlb.filter fun e => !decide (e.ctx = ctx)
    nodes := c.nodes.filter fun e => !decide (e.1 = ctx)
    l1 := (c.l1.map fun l => { l with sectors := l.sectors.filter fun x => x.2.pending }).filter fun l => l.uo.isSome || !l.sectors.isEmpty }

/-- Free lane-group slots of a cluster. -/
def freeSlots (s : State) (pid : Nat) : List Nat :=
  let used := (residents s pid).flatMap fun e => e.2.slots.getD (e.2.clus.idxOf pid) []
  (List.range 16).filter fun k => !used.contains k

/-- The clusters of a flock take it: a cluster without another flock of the context is taken over. -/
def takeClusters (s : State) (ctx wplane : Nat) (set : List Nat) : State :=
  set.foldl (init := s) fun s p =>
    coldCode (if (residents s p).isEmpty then freshCluster s p ctx wplane else s) p ctx

/-! ## A new flock (R397) -/

/-- The start registers of a thread. -/
def startRegs (r : Record) (grid : Nat) : Table Nat Word64 :=
  let x := grid % r.gx
  let y := grid / r.gx % r.gy
  let z := grid / (r.gx * r.gy)
  ((List.range 15).map fun j => (j + 1, r.args.getD j 0))
    ++ [(16, BitVec.ofNat 64 (x + y * 2 ^ 16 + z * 2 ^ 32)), (17, BitVec.ofNat 64 r.num)]

def roleOf (n : Nat) : Role :=
  match n with
  | 0 => .copy
  | 1 => .matrix
  | _ => .vector

/-- One thread at its start; the start is an acquire at .sys whose horizon is the moment of the parse. -/
def startThread (s : State) (t : Tid) (r : Record) (grid : Nat) : State :=
  let (_, role, off) := r.threads.getD t.t (false, 0, 0)
  let x : Thread := { Thread.start with
    pc := BitVec.ofNat 64 (r.image + off), g := startRegs r grid, role := roleOf role, lastIssue := s.now }
  l1Invalidate (s.setThr t x) (s.pidOf t.fid t.clu) r.parsedAt

/-- The thread numbers of a record's present threads. -/
def Record.present (r : Record) : List Nat := (List.range 8).filter fun t => (r.threads.getD t (false, 0, 0)).1

/-- The lane state of a flock that has ended goes where its slots are taken again (R197). -/
def retakeSlots (s : State) (set : List Nat) (slots : List (List Nat)) : State :=
  let taken (pid k : Nat) : Bool := (set.zip slots).any fun e => decide (e.1 = pid) && e.2.contains k
  { s with groups := s.groups.filter fun e =>
      !((s.flk e.1.1).ended && taken (s.pidOf e.1.1 e.1.2.1) (physSlot s e.1.1 e.1.2.1 e.1.2.2)) }

/-- A flock placed on a set of clusters. -/
def placeNew (s : State) (w : Want) (set : List Nat) : State :=
  let fid := s.nextId + 1
  let slots := set.map fun p => (freeSlots s p).take w.rcd.groups
  let s := takeClusters (retakeSlots s set slots) w.rcd.ctx w.rcd.wplane set
  let f : Flock := { (default : Flock) with
    ctx := w.rcd.ctx, queue := w.queue, rcd := w.rcd, grid := w.grid, clus := set, slots := slots, resident := true
    placed := s.pkg.placed }
  let s := { s with nextId := fid }.setFlk fid f
  let s := watchSync s w.rcd.ctx
  let s := (List.range set.length).foldl (init := s) fun s c =>
    w.rcd.present.foldl (init := s) fun s t => startThread s ⟨fid, c, t⟩ w.rcd w.grid
  s.modQue w.queue fun k =>
    if k.placed + 1 < w.rcd.flocks then { k with placed := k.placed + 1 }
    else { k with head := none, placed := 0, blockedAt := none, age := 0, barred := false }

/-! ## A flock that resumes (R267, R286, R398, R420, R441) -/

/-- The words of a thread's stream that have still to issue on a member. -/
def leftOn (s : State) (t : Tid) (n m : Nat) (st : Stream) : List EWord :=
  ((setBits 16 st.gmask).flatMap fun sl => match restRuns st (m, sl) with
    | [] => []
    | r :: rest => r.words.drop (posOf s t n (m, sl)) ++ rest.flatMap (·.words)).dedup ++ st.playRun ++ st.openRun

/-- Every word of a flock that holds a bank on a member: in its streams and in the matrix queue of its cluster. -/
def bankWords (s : State) (fid m : Nat) : List EWord :=
  (s.threads.filter fun e => decide (e.1.fid = fid)).flatMap (fun e =>
    (e.2.streams.filter fun k => k.2.cmask.testBit m).flatMap fun k => leftOn s e.1 k.1 m k.2)
  ++ ((s.clu (s.pidOf fid m)).mq.filter fun e => decide (e.tid.fid = fid)).map (·.word)

/-- How a captured code reads on the cluster of a resume: it waits for those loads of its bank that come along and were
emitted before it, behind what the new cluster's control `base` has emitted; `come` holds the codes of the loads that come
along (R232, R258; log 39). -/
def newCode (base : BankCtl) (come : List Nat) (code : Nat) : Nat :=
  let k := code % 2
  match (come.filter fun c => decide (c % 2 = k) && decide (c / 2 ≤ code / 2)).length with
  | 0 => bankCode k (base.fin k)
  | j => bankCode k (base.emit k + j)

/-- The control of a new cluster with the loads and the uses that come along. -/
def newCtl (base : BankCtl) (loads uses : List Nat) : BankCtl :=
  let come (k : Nat) : Nat := (loads.filter fun c => decide (c % 2 = k)).length
  let b := { base with emitted := [(0, base.emit 0 + come 0), (1, base.emit 1 + come 1)] }
  uses.foldl (init := b) fun b c =>
    let c := newCode base loads c
    { b with count := b.count.set (c % 2, c / 2) (b.count.get (c % 2, c / 2) 0 + 1) }

/-- The words of a stream changed. -/
def Stream.mapWords (f : EWord → EWord) (st : Stream) : Stream :=
  let run (r : Run) : Run := { r with words := r.words.map f }
  { st with openRun := st.openRun.map f, playRun := st.playRun.map f, runs := st.runs.map run }

/-- The words of a flock changed wherever they wait. -/
def mapWords (s : State) (fid m : Nat) (f : EWord → EWord) : State :=
  let thr (e : Tid × Thread) : Tid × Thread :=
    if e.1.fid = fid then (e.1, { e.2 with streams := e.2.streams.mapVals fun _ st => st.mapWords f }) else e
  let ent (e : MatEnt) : MatEnt := if e.tid.fid = fid then { e with word := f e.word } else e
  let cut (p : PipeRun) : PipeRun :=
    if p.tid.fid = fid then { p with run := { p.run with words := p.run.words.map f } } else p
  { s with threads := s.threads.map thr }.modClu (s.pidOf fid m) fun c => { c with
    mq := c.mq.map ent, cuts := c.cuts.map cut }

/-- The banked stores of a member's new cluster take the words that come along (R232, R258). -/
def rebindBanks (s : State) (fid m : Nat) (old : SavedClu) (fresh : Bool) : State :=
  let pid := s.pidOf fid m
  let ws := bankWords s fid m
  let code (e : EWord) : Nat := e.banks.get m 0
  let base (now was : BankCtl) : BankCtl := if fresh then { BankCtl.placed with ptr := was.ptr } else now
  let loads (op t : Nat) : List Nat := (ws.filter fun e => decide (e.op = op) && (decide (op = 0x30B) || decide (e.x.cN % 4 = t))).map code
  let cteUses (t : Nat) : List Nat := (ws.filter fun e => decide (e.op = 0x190) && decide (e.x.cN % 4 = t)).map code
  let codeUses := (ws.filter fun e => usesCode e.op e.x).map code
  let curveWas (t : Nat) : BankCtl := old.curve.get t BankCtl.placed
  let curveBase (t : Nat) : BankCtl := base ((s.clu pid).curve.get t BankCtl.placed) (curveWas t)
  let codeBase := base (s.clu pid).code old.code
  let fix (e : EWord) : EWord :=
    let t := e.x.cN % 4
    if e.op = 0x190 ∨ e.op = 0x191 then { e with banks := e.banks.set m (newCode (curveBase t) (loads 0x191 t) (code e)) }
    else if e.op = 0x30B ∨ usesCode e.op e.x then { e with banks := e.banks.set m (newCode codeBase (loads 0x30B 0) (code e)) }
    else e
  let s := s.modClu pid fun c => { c with
    code := newCtl codeBase (loads 0x30B 0) codeUses
    curve := (List.range 4).foldl (fun k t => k.set t (newCtl (curveBase t) (loads 0x191 t) (cteUses t))) c.curve }
  mapWords s fid m fix

/-- The saved stash entries that come back to a cluster: those that overlap no entry there, in VA, while it has fewer than 64
(DESIGN CHOICE, log 107). -/
def joinStash (here saved : List StashEnt) : List StashEnt :=
  saved.foldl (init := here) fun es e =>
    if es.length < 64 ∧ !(es.any fun x => rangesMeet x.va x.len e.va e.len) then es ++ [e] else es

/-- A resident copy queue with one that comes back: behind it, or, where `front`, before it. -/
def joinQueue (front : Bool) (a b : CopyQ) : CopyQ :=
  let (x, y) := if front then (b, a) else (a, b)
  ⟨x.ents ++ y.ents, if x.ents.isEmpty then y.halted else x.halted⟩

/-- A member's saved cluster state restored (R398, R420): shared state only where no other flock of the context resides;
there the flock's denied payers keep their ages too. Entries re-enter their queues; the copy queues of the flock stand before
those of a resident flock where one of them is halted, all four alike, so that no two fences cross; entries past the end of a
queue wait behind it (log 99). -/
def restoreClu (s : State) (fid m : Nat) (v : SavedClu) (fresh : Bool) : State :=
  let pid := s.pidOf fid m
  let s := if !fresh then s
    else s.modClu pid fun c => { c with
      plane := v.plane, planeDirty := v.planeDirty, codeTab := v.codeTab, curves := v.curves
      ta := { v.ta with ents := c.ta.ents, lastRet := c.ta.lastRet }
      purse := { c.purse with
        tokens := v.purse.tokens
        payers := v.purse.payers
        starved := 0
        claim := none
        retire := v.purse.tokens
        fresh := [] } }
  let front := v.cq.any fun q => q.2.halted
  s.modClu pid fun c => { c with
    stash := joinStash c.stash v.stash
    cq := (List.range 4).map fun q => (q, joinQueue front (c.cq.get q CopyQ.empty) (v.cq.get q CopyQ.empty))
    mq := c.mq ++ v.mq, ta := { c.ta with ents := c.ta.ents ++ v.taEnts }, pft := c.pft ++ v.pft
    cuts := c.cuts ++ v.cuts.map fun p => if fresh then p else { p with denied := none }
    srSeed := c.seeded.srSeed
    sr := v.sr.foldl (fun k e => k.set (physSlot s fid m e.1.1, e.1.2) e.2) c.seeded.sr
    srNext := none }

/-- The windows of a flock, set again on its clusters with the same charge (R109). A plane window is restored with the
plane; where the resident plane stays, it is discarded with its copy (R398). -/
def resetWindows (s : State) (fid : Nat) (fresh : List Bool) : State :=
  let f := s.flk fid
  let d := f.clus.headD 0 / 64
  let again := f.windows.filter fun w => !w.plane || (setBits 16 w.mask).all fun m => fresh.getD m false
  let upd (w : Window) : Window := { w with
    die := d, targets := (setBits 16 w.mask).map fun m => f.clus.getD m 0, stage := if w.plane then w.stage else 0, fill := false }
  (s.modFlk fid fun f => { f with windows := [] }).modCtx f.ctx fun c => { c with
    windows := c.windows ++ again.map upd
    pinuse := again.foldl (fun u w => setAt u d (u.getD d 0 + w.charge)) c.pinuse }

/-- What an access of a lane or a thread needs of its page. -/
def MemOp.need (o : MemOp) : Acc :=
  match o.deed with
  | .load => .load
  | .store _ => .store
  | .atomic _ _ _ _ => .atomic

/-- A trailer that names no register (R40). -/
def emptyTrailer : BitVec 64 := encLane 0x380 { (default : LaneWord) with sel := 12 }

/-- A lane access of an image that has no translation any more faults at its lane, late (log 105): the access and its fellows of
the lane are dropped, a record is written, the lane parks with its word alone to replay, and the thread takes LANEFAULT. -/
def lateFault (s : State) (o : MemOp) (c : Cause) : State :=
  let (lost, d) := o.losers
  let same (e : MemOp) : Bool := decide (e.tid = o.tid) && decide (e.str = o.str) && decide (e.seq = o.seq)
    && decide (e.slot = o.slot) && decide (e.pos = o.pos) && decide (e.lane = o.lane)
  let s := clearOut { s with ops := s.ops.filter fun e => !same e } o
  let s := s.modFlk o.tid.fid fun f => { f with ops := f.ops.filter fun e => !same e }
  let m := o.member s
  let str := o.str.getD 0
  let live := lost &&& ((s.grp o.tid.fid m o.slot).exit ^^^ allLanes)
  let (s, va, after) := faultRecord s (s.ctxOf o.tid) o.pid
    (laneRecord o.word c o.slot (o.va - d) 0 live 0 o.pos o.tid.t str o.pid)
  let s := s.modGrp o.tid.fid m o.slot fun g =>
    let r : ParkRec := g.prec.getD
      { tid := o.tid, str := str, first := o.word.seq, base := o.pos, words := [], resume := [], since := [], trl := emptyTrailer
        w := [], replaying := false, queued := 0 }
    let at_ (t : Table Nat Nat) (k : Nat) : Table Nat Nat := (setBits 32 live).foldl (fun t l => t.set l k) t
    { g with ex := g.ex &&& (live ^^^ allLanes), park := g.park ||| live, prec := some { r with
        words := r.words ++ [(o.word, live, false)]
        resume := at_ r.resume r.words.length
        since := at_ r.since (r.words.length + 1) } }
  raiseTrap s o.tid .lanefault (BitVec.ofNat 64 va) after

/-- The accesses of a flock go on from its new clusters, with their addresses translated again; one that has no translation
any more faults (log 105). -/
def restoreOps (s : State) (fid : Nat) : State :=
  let s := (s.flk fid).ops.foldl (init := s) fun s o =>
    if !((s.flk fid).ops.any fun e => decide (e.id = o.id)) then s
    else
      let pid := s.pidOf fid o.pid
      let back (s : State) (place : Place) : State := { s with ops := s.ops ++ [{ o with pid := pid, place := place }] }
      let fault (s : State) (c : Cause) (va : Nat) : State :=
        if o.str.isSome then lateFault s { o with pid := pid } c
        else s.modThr o.tid fun x => { x with out := x.out.filter fun r => !decide (r.pend = .mem o.id), held := x.held ++ [⟨c, BitVec.ofNat 64 va, 0⟩] }
      match o.place with
      | .glob va _ => match translate s pid (s.flk fid).ctx va (globalAcc s pid va o.need) with
        | (s, .ok pa) => back s (.glob va pa)
        | (s, .error c) => fault s c va
      | .loc m off va _ true => match translate s (s.pidOf fid m) (s.flk fid).ctx va o.need with
        | (s, .ok pa) => back s (.loc m off va pa true)
        | (s, .error c) => fault s c va
      | p => back s p
  s.modFlk fid fun f => { f with ops := [] }

/-- A thread that resumes: an acquire at .sys with its saved horizons; a waiting word executes again, but for the
release that a STAGE.TAKE has deferred already (log 40). -/
def resumeThread (s : State) (t : Tid) : State :=
  let x := s.thr t
  let s := l1Invalidate s (s.pidOf t.fid t.clu) x.hor.acq
  let s := x.streams.foldl (init := s) fun s e => e.2.hor.foldl (init := s) fun s h => l1Invalidate s (s.pidOf t.fid h.1) h.2.acq
  s.modThr t fun x => { x with wait := x.wait.map fun w => { w with t0 := s.now } }

/-- A pre-empted flock placed again. -/
def placeAgain (s : State) (fid : Nat) (w : Want) (set : List Nat) : State :=
  let slots := set.map fun p => (freeSlots s p).take w.rcd.groups
  let fresh := set.map fun p => (residents s p).isEmpty
  let s := takeClusters (retakeSlots s set slots) w.rcd.ctx w.rcd.wplane set
  let s := set.foldl (fun s p => coldCaches s p w.rcd.ctx) s
  let saved := (s.flk fid).saved
  let s := s.modFlk fid fun f => { f with
    clus := set, slots := slots, resident := true, preReq := false, saved := [], image := none, placed := s.pkg.placed }
  let s := s.modCtx w.rcd.ctx fun c => { c with imgHeld := c.imgHeld.filter fun e => !decide (e.2 = fid) }
  let s := (List.range set.length).foldl (init := s) fun s m => match saved[m]? with
    | none => s
    | some v =>
      let s := restoreClu s fid m v (fresh.getD m false)
      rebindBanks s fid m v (fresh.getD m false)
  let s := restoreOps (resetWindows (watchSync s w.rcd.ctx) fid fresh) fid
  ((s.threads.filter fun e => decide (e.1.fid = fid)).map (·.1)).foldl resumeThread s

/-- A flock placed on a set of clusters; the level's starting point moves (R400). -/
def placeWant (s : State) (w : Want) (set : List Nat) : State :=
  let s := s.modPkg fun p => { p with placed := p.placed + 1, levelStart := p.levelStart.set w.rcd.prio w.queue }
  match w.fid with
  | some fid => placeAgain s fid w set
  | none => placeNew s w set

/-! ## A head that does not fit (R396, R401, R402) -/

/-- No quad of a die in the safe envelope is reassigned (R421). -/
def mayReassign (s : State) (q : Nat) : Bool := !(s.die (q / 16)).safe

/-- Idle quads of a mask that head for the class but do not run it yet. -/
def comingQuads (s : State) (r : Record) : List Nat :=
  (quadsOf r.mask).filter fun q => idleQuad s q && decide ((s.quad q).t = r.cls) && !inPool s q r.cls

/-- Idle quads of a mask that could be reassigned, coolest first. -/
def sparePool (s : State) (r : Record) : List Nat :=
  sortBy (fun q => (s.quad q).temp * 128 + q)
    ((quadsOf r.mask).filter fun q => idleQuad s q && decide ((s.quad q).t ≠ r.cls) && mayReassign s q)

/-- The fewest things of a list that pass a test, the first such set in the order of the list. -/
def fewest {α : Type} (p : List α → Bool) (l : List α) : Option (List α) :=
  (List.range (l.length + 1)).findSome? fun n => (combos n l).find? p

/-- Idle quads reassigned, where that would make the flock fit (R396). The answer tells whether the flock waits for
quads. -/
def reassign (s : State) (w : Want) : State × Bool :=
  let coming := comingQuads s w.rcd
  match fewest (fun qs => canFit s [] (coming ++ qs) w) (sparePool s w.rcd) with
  | none => (s, false)
  | some qs => (qs.foldl (fun s q => requestClass s q w.rcd.cls) s, true)

/-- Image slots that a context has free (R438). -/
def freeImages (s : State) (ctx : Nat) : Nat :=
  let c := s.ctx ctx
  c.imgSlots - c.imgHeld.length - (s.flocks.filter fun e => e.2.resident && e.2.preReq && decide (e.2.ctx = ctx)).length

/-- The first flocks of each context in a list, as many as it has image slots free. -/
def withImages (s : State) : List (Nat × Flock) → List Nat → List (Nat × Flock)
  | [], _ => []
  | e :: es, taken =>
    if (taken.filter fun c => decide (c = e.2.ctx)).length < freeImages s e.2.ctx then e :: withImages s es (e.2.ctx :: taken)
    else withImages s es taken

/-- Flocks that a head may pre-empt: of strictly lower level, the lowest level first, then the latest placed. -/
def victims (s : State) (level : Nat) : List Nat :=
  let l := s.flocks.filter fun e => e.2.resident && !e.2.preReq && decide (e.2.rcd.prio < level)
  (withImages s (sortBy (fun e => e.2.rcd.prio * 2 ^ 64 + (2 ^ 64 - 1 - e.2.placed)) l) []).map (·.1)

/-- Flocks that are asked to stop. -/
def leaving (s : State) : List Nat := (s.flocks.filter fun e => e.2.resident && e.2.preReq).map (·.1)

/-- The victims of a blocked head (R402): from the shortest prefix of the order that makes room, the fewest. -/
def chooseVictims (s : State) (w : Want) : Option (List Nat) :=
  let out := leaving s
  let l := victims s w.rcd.prio
  if canFit s out [] w then some []
  else match (List.range (l.length + 1)).find? fun n => canFit s (out ++ l.take n) [] w with
    | none => none
    | some n => fewest (fun v => canFit s (out ++ v) [] w) (l.take n)

/-- A request for pre-emption (R435). -/
def requestStop (s : State) (fid : Nat) : State := s.modFlk fid fun f => { f with preReq := true }

/-- A head that does not fit: it is blocked from now, may have quads reassigned, and at level 16 to 23 may pre-empt. -/
def blockHead (s : State) (w : Want) : State :=
  let s := s.modQue w.queue fun k => if k.head.isSome then { k with blockedAt := k.blockedAt.or (some (dt s)) } else k
  let (s, waits) := reassign s w
  if waits || decide (w.rcd.prio < 16) then s
  else match chooseVictims s w with
    | some v => v.foldl requestStop s
    | none => s

/-- Heads tried in order: the first that fits is placed, those before it are blocked. -/
def tryHeads (s : State) : List Want → State
  | [] => s
  | w :: ws => match chooseSet s w with
    | some set => placeWant s w set
    | none => tryHeads (blockHead s w) ws

/-- PLACEMENT_STEP (R400): one placement, or none where no head fits. -/
def execPlacementStep (s : State) : Out := if s.pkg.stage = 0 then .next s else .next (tryHeads s (wants s))

/-- HEAD_AGE_TICK (R401): at a multiple of 1000 ns every blocked head ages. -/
def execHeadAgeTick (s : State) : Out :=
  let m := dt s / 1000
  if m ≤ s.pkg.lastAge then .next s
  else .next { s.modPkg (fun p => { p with lastAge := m }) with
    queues := s.queues.map fun e => (e.1, match e.2.blockedAt with
      | some t => { e.2 with age := m - t / 1000 }
      | none => e.2) }

end Sys2Proof.Machine
end

