-- ==== Sys2Proof/Machine/Flocks.lean ====
section
/-! DEFINITION. The end of threads and flocks (R334, R399), CLEAR (R432), the watchdog (R383), and pre-emption with the
context image (R435 to R440). -/

namespace Sys2Proof.Machine

/-! ## The end of a thread (R334) -/

/-- An entry of an engine belongs to a thread. -/
def inEngine (s : State) (p : Tid → Bool) : Bool :=
  s.clusters.any fun e =>
    let c := e.2
    (c.cq.any fun q => q.2.ents.any fun x => p x.tid) || ((c.mq ++ c.array).any fun x => p x.tid)
      || (c.ta.ents.any fun x => p x.tid)

/-- Every word of a thread has retired, every reserved vote is present, and no stage operation is deferred. -/
def threadDone (s : State) (t : Tid) : Bool :=
  let x := s.thr t
  (x.streams.all fun e => drained e.2) && !(s.ops.any fun o => decide (o.tid = t)) && !inEngine s (fun u => decide (u = t))
    && (x.votes.all (·.present)) && x.deferred.isEmpty && x.held.isEmpty

/-- THREAD_END (R334, R360): a thread past its GEXIT ends, and its streams are unbound; what their accesses left in the
horizons stays with the thread for the end of its flock (R399). -/
def execThreadEnd (fid clu t : Nat) (s : State) : Out :=
  let tid : Tid := ⟨fid, clu, t⟩
  if (s.thr tid).status = .exited ∧ (s.flk fid).resident ∧ threadDone s tid then
    .next (s.modThr tid fun x => { x with
      status := .ended
      streams := []
      current := none
      hor := x.streams.foldl (fun h k => k.2.hor.foldl (fun h e => h.join e.2) h) x.hor })
  else .next s

/-- The halted threads of a context. -/
def haltedThreads (s : State) (ctx : Nat) : List Tid :=
  (s.threads.filter fun e => decide (e.2.status = .halted) && decide ((s.flk e.1.fid).ctx = ctx)).map (·.1)

/-- The open runs of a thread closed. -/
def closeRuns (s : State) (t : Tid) : State :=
  (s.thr t).streams.foldl (init := s) fun s e =>
    if e.2.openRun.isEmpty then s else closeRun s t e.1 emptyTrailer false

/-- Copy queues halted by a fault of one of these threads are aborted, those of pre-empted flocks too. -/
def abortQueues (s : State) (ts : List Tid) : State :=
  let end_ (x : CopyQ) : CopyQ := if x.halted && (x.ents.head?).any (fun h => ts.contains h.tid) then ⟨[], false⟩ else x
  let fix (v : SavedClu) : SavedClu := { v with cq := v.cq.mapVals fun _ x => end_ x }
  let s : State := { s with flocks := s.flocks.mapVals fun _ (f : Flock) => { f with saved := f.saved.map fix } }
  s.clusters.foldl (init := s) fun s e => (List.range 4).foldl (init := s) fun s q =>
    let x := copyQ s e.1 q
    if x.halted && (x.ents.head?).any fun h => ts.contains h.tid then outState (execCqctlAbort e.1 q s) s else s

/-- CLEAR (R432): every halted thread ends, once its words have retired. -/
def execClear (ctx : Nat) (s : State) : Out :=
  let ts := haltedThreads s ctx
  let s := ts.foldl closeRuns s
  let s := ts.foldl (init := s) fun s t =>
    s.modThr t fun x => { x with status := .exited, held := [], capture := none, wait := none, hostOp := none }
  .next (abortQueues s ts)

/-! ## The end of a flock (R399) -/

/-- The clusters of a flock. -/
def clustersFor (s : State) (fid : Nat) : List Nat := (s.flk fid).clus

/-- A pipe runs a run of a flock. -/
def onPipe (s : State) (fid : Nat) : Bool := s.clusters.any fun e => e.2.pipes.any fun p => decide (p.2.tid.fid = fid)

/-- The stash entries of a flock written back: all of them removed, or kept with every sector UNFILLED (R161). The
completion times of the write-backs are answered. -/
def drainStash (s : State) (fid : Nat) : State × List Gwct :=
  (clustersFor s fid).foldl (init := (s, [])) fun (s, gs) p =>
    ((s.clu p).stash.filter fun e => decide (e.fid = fid)).foldl (init := (s, gs)) fun (s, gs) e =>
      e.sectors.foldl (init := (s, gs)) fun (s, gs) k =>
        match evictSector s p .normal e k.1 with
        | (s, some g) => (s, gs ++ [g])
        | (s, none) => (s, gs)

/-- Update-only lines of the flock's clusters combined (R299). -/
def combineLines (s : State) (fid : Nat) : State :=
  (clustersFor s fid).foldl (init := s) fun s p =>
    ((s.clu p).l1.filter fun l => l.uo.isSome && (s.homeOf (l.line * 256)).sharers.contains p).foldl (init := s) fun s l =>
      combine s l.line

/-- Entries of a flock removed from the stash of its clusters. -/
def dropStashOf (s : State) (fid : Nat) : State :=
  (clustersFor s fid).foldl (init := s) fun s p => s.modClu p fun c => { c with stash := c.stash.filter fun e => !decide (e.fid = fid) }

/-- Writes that a flock's release at .sys has to wait for, noted with one of its threads. -/
def noteWrites (s : State) (fid : Nat) (gs : List Gwct) : State :=
  match (s.threads.filter fun e => decide (e.1.fid = fid)).head? with
  | some (t, _) => gs.foldl (init := s) fun s g => s.modThr t fun x => { x with hor := x.hor.addWrite g 6 }
  | none => s

/-- DT has passed every release horizon of a flock. -/
def flockReleased (s : State) (fid : Nat) : Bool :=
  s.threads.all fun e => !decide (e.1.fid = fid) || (passed s e.2.hor.pkg
    && e.2.streams.all fun k => k.2.hor.all fun h => passed s h.2.pkg)

/-- What R399 asks of the threads, the engines and the accesses of a flock. -/
def flockIdle (s : State) (fid : Nat) : Bool :=
  (s.threads.all fun e => !decide (e.1.fid = fid) || decide (e.2.status = .ended))
    && !(s.ops.any fun o => decide (o.tid.fid = fid)) && !inEngine s (fun t => decide (t.fid = fid)) && !onPipe s fid
    && !(s.clusters.any fun e => e.2.pft.any fun p => decide (p.tid.fid = fid))

/-- The code of a context leaves the caches of a flock's clusters (R338). -/
def dropCodeOf (s : State) (fid : Nat) : State :=
  (clustersFor s fid).foldl (fun s p => dropCode s p (s.flk fid).ctx 0 0 true) s

/-- The reels of a flock's share leave the reel caches of its clusters (R349). -/
def dropReelsOf (s : State) (fid : Nat) : State :=
  (clustersFor s fid).foldl (fun s p => s.modClu p fun c => { c with reels := c.reels.filter fun e => !decide (e.fid = fid) }) s

/-- A flock whose effects are complete gives up everything it holds; its lane registers stand until its slots are taken again
(R197, R465). -/
def releaseFlock (s : State) (fid : Nat) : State :=
  let f := s.flk fid
  let s := dropReelsOf (dropCodeOf s fid) fid
  let s := { s with
    threads := s.threads.filter fun e => !decide (e.1.fid = fid)
    locals := s.locals.filter fun e => !decide (e.1.1 = fid)
    localDirty := s.localDirty.filter fun e => !decide (e.1.1 = fid) }
  let s := s.modFlk fid fun f => { f with
    resident := false, ended := true, bars := f.bars.mapVals fun _ b => if b.used then freeSlot b else b }
  watchSync (flockDone s f.queue f.rcd (f.clus.headD 0) f.faulted) f.ctx

/-- FLOCK_END (R399): the end-of-flock effects are made once every thread has ended and every entry has retired; when
they are globally complete, the flock has ended. -/
def execFlockEnd (fid : Nat) (s : State) : Out :=
  let f := s.flk fid
  if !f.resident || !flockIdle s fid then .next s
  else
    let (s, gs) := drainStash s fid
    let s := noteWrites (dropStashOf (clearWindows (combineLines s fid) fid) fid) fid gs
    .next (if flockReleased s fid then releaseFlock s fid else s)

/-! ## The watchdog (R383, R384) -/

/-- The slot that a handle of a flock names is an EXT barrier. -/
def waitsExt (s : State) (fid h : Nat) : Bool := (barAt s fid (hClu h, hSlot h)).ext

/-- The threads of a context that wait, and whether they wait on an EXT barrier. -/
def threadWaiters (s : State) (ctx : Nat) : List Bool :=
  (s.threads.filter fun e => decide ((s.flk e.1.fid).ctx = ctx) && (s.flk e.1.fid).resident && decide (e.2.status = .running)).map
    fun e => (e.2.wait.bind (·.bar)).any fun b => waitsExt s e.1.fid b.h

/-- The next word of a run on a pipe is an LWAIT. -/
def atLwait (p : PipeRun) : Bool := (p.run.words[p.pos]?).any fun w => decide (w.op = 0x318)

/-- The runs of a context that hold a pipe, but for those that LWAIT holds. -/
def pipeWaiters (s : State) (ctx : Nat) : List Bool :=
  s.clusters.flatMap fun c => (c.2.pipes.filter fun p => decide (s.ctxOf p.2.tid = ctx) && !atLwait p.2).map fun _ => false

/-- The streams of a context that LWAIT holds, on a pipe or before one, and whether they wait on an EXT barrier. -/
def streamWaiters (s : State) (ctx : Nat) : List Bool :=
  (s.threads.filter fun e => decide (s.ctxOf e.1 = ctx) && (s.flk e.1.fid).resident).flatMap fun e => e.2.streams.filterMap fun k =>
    let next := (pairs k.2).filterMap fun p => ((restRuns k.2 p).head?).bind fun r => r.words[posOf s e.1 k.1 p]?
    (next.find? fun w => decide (w.op = 0x318)).map fun w => waitsExt s e.1.fid (lo64 w.ua % 2 ^ 32)

/-- Ring cycles without progress. -/
def idleCycles (s : State) (ctx : Nat) : Nat := cyclesSince 2700 (s.ctx ctx).wdLast s.now

/-- The watchdog of a context counts: not while the context is pre-empted or a thread of it is stopped (R383, R447). -/
def wdCounts (s : State) (ctx : Nat) : Bool :=
  let c := s.ctx ctx
  decide (c.wdLimit ≠ 0) && watchRuns s ctx

/-- WATCHDOG_REPORT (R383): a context without progress for LIMIT ring cycles is reported. -/
def execWatchdogReport (ctx : Nat) (s : State) : Out :=
  let c := s.ctx ctx
  if !wdCounts s ctx || decide (idleCycles s ctx < c.wdLimit) then .next s
  else
    let ws := threadWaiters s ctx ++ streamWaiters s ctx ++ pipeWaiters s ctx
    let s := progress s ctx
    if ws.any id then
      .next (ctxEvent (s.modCtx ctx fun c => { c with waiters := (ws.filter fun b => !b).length % 2 ^ 32 }) ctx 2)
    else .next (ctxEvent s ctx 1)

/-! ## Requests (R402, R432) -/

/-- PREEMPT (R432): pre-emption of every resident flock of the context. -/
def execPreempt (ctx : Nat) (s : State) : Out :=
  .next { s with flocks := s.flocks.map fun e =>
    if e.2.ctx = ctx ∧ e.2.resident then (e.1, { e.2 with preReq := true }) else e }

/-! ## The halt (R435, R436) -/

/-- A run is cut at its next word: the word is held, by anything that R436 lists or by the checking scoreboard. -/
def cutHere (s : State) (pid pipe : Nat) (p : PipeRun) : Bool :=
  match focusRun s pid pipe p with
  | none => false
  | some t =>
    if s.now < p.ready || skipped s p pid then false
    else if p.checked && (s.ctx (s.ctxOf p.tid)).check && shortfall s p (laneGrp t) t.lane.word then true
    else match issueOp t.lane.word.op t.lane.word.x t with
      | .next u => u.lane.held
      | _ => false

/-- The engines of a cluster have stopped for a flock. -/
def enginesStopped (c : Cluster) (fid : Nat) : Bool :=
  !(c.array.any fun e => decide (e.tid.fid = fid))
    && !((c.ta.ents.head?).any fun e => decide (e.tid.fid = fid) && e.start.isSome)
    && !(c.cq.any fun q => q.2.ents.any fun e => decide (e.tid.fid = fid) && e.chunks.any fun k => decide (k.st = .writing))
    && c.code.loading.isEmpty && c.curve.all fun b => b.2.loading.isEmpty

/-- An access that has done nothing yet and is ordered behind a word that is still to issue, so that it goes into the image
(R437; log 105). -/
def stuckOp (s : State) (o : MemOp) : Bool := o.made.isNone && o.got.isNone && blockedBySame s o

/-- The plays of a thread have come to a run boundary (R359). -/
def playsStopped (x : Thread) : Bool := x.streams.all fun k => k.2.playRun.isEmpty

/-- Every unit of a flock has stopped, and its accesses have performed, but for those that wait for words still to
issue. -/
def flockHalted (s : State) (fid : Nat) : Bool :=
  (s.threads.all fun e => !decide (e.1.fid = fid) || (e.2.hostOp.isNone && playsStopped e.2))
    && (s.ops.all fun o => !decide (o.tid.fid = fid) || stuckOp s o)
    && (clustersFor s fid).all fun p =>
      enginesStopped (s.clu p) fid
        && (s.clu p).pipes.all fun e => !decide (e.2.tid.fid = fid) || cutHere s p e.1 e.2

/-- The first image slot of a context that none of its flocks holds (R438). -/
def imageSlot (c : Ctx) : Option Nat := (List.range c.imgSlots).find? fun k => !(c.imgHeld.any fun e => decide (e.1 = k))

/-! ## The context image (R439, R440) -/

/-- Bytes in sectors of 32. -/
def sectors32 : Nat → List Byte → List (List Byte)
  | 0, _ => []
  | n + 1, bs => bs.take 32 :: sectors32 n (bs.drop 32)

/-- The tag and the payload of a sector: ZERO, REPEAT or RAW, the first that applies. -/
def codeSector (bs : List Byte) : Nat × List Byte :=
  if bs.all (· == 0) then (0, [])
  else if bs = (List.replicate 8 (bs.take 4)).flatten then (1, bs.take 4)
  else (2, bs)

/-- Bytes padded to a multiple of 8. -/
def pad8 (bs : List Byte) : List Byte := bs ++ List.replicate ((8 - bs.length % 8) % 8) 0

/-- The tag array of coded sectors: 2 bits per sector, in whole 64-bit words. -/
def tagBytes (tags : List Nat) : List Byte :=
  let n := tags.foldr (fun t acc => t + 4 * acc) 0
  leBytes (8 * ceilDiv tags.length 32) n

/-- A section: its head, then the tags and the payloads, padded (R440). -/
def section_ (type idx num : Nat) (bs : List Byte) : List Byte :=
  let n := bs.length / 32
  let coded := (sectors32 n bs).map codeSector
  let body := tagBytes (coded.map (·.1)) ++ coded.flatMap (·.2)
  pad8 (leBytes 1 type ++ leBytes 1 idx ++ leBytes 2 num ++ leBytes 4 n ++ leBytes 8 body.length ++ body)

/-- Bytes that the spec leaves open (log 14). -/
def freeBytes (s : State) (k n : Nat) : List Byte :=
  (List.range n).map fun i => BitVec.ofNat 8 (Config.freeWord s.tick (k + i)).toNat

/-- A private section: free bytes of a free length, coded like any other (log 41). -/
def privateSec (s : State) (type idx num : Nat) : List Byte :=
  let k := 2 ^ 20 * ((type * 16 + idx) * 65536 + num + 1)
  section_ type idx num (freeBytes s k (32 * ((Config.freeWord s.tick (k - 1)).toNat % 4096)))

/-- The image of a flock (R440): the header, and of each member the dirty local and plane units, the lane slots, the threads
and the cluster's engines, and what is the flock's as a whole. -/
def imageBytes (s : State) (fid : Nat) : List Byte :=
  let f := s.flk fid
  let member (m : Nat) : List Byte :=
    ((sortBy id (s.localDirty.get (fid, m) [])).flatMap fun u => section_ 1 m u (s.localRead fid m (4096 * u) 4096))
    ++ ((sortBy id (s.clu (s.pidOf fid m)).planeDirty).flatMap fun u => section_ 2 m u (s.planeRead (s.pidOf fid m) (65536 * u) 65536))
    ++ ((List.range f.rcd.groups).flatMap (privateSec s 3 m)) ++ (f.rcd.present.flatMap (privateSec s 4 m)) ++ privateSec s 5 m 0
  freeBytes s 1000 64 ++ (List.range f.clus.length).flatMap member ++ privateSec s 6 0 0

/-! ## Saving (R420, R436, R437) -/

/-- The entries of a flock in a copy queue (R140): a started chunk is abandoned, one that has written keeps its landing. -/
def savedQueue (fid : Nat) (q : CopyQ) : CopyQ :=
  let mine := q.ents.filter fun e => decide (e.tid.fid = fid)
  let held := q.halted && (q.ents.head?).any fun e => decide (e.tid.fid = fid)
  let stop (e : CopyEnt) : CopyEnt := { e with
    chunks := e.chunks.filter fun c => decide (c.st = .written)
    fault := if e.told then e.fault else none }
  ⟨mine.map stop, held⟩

/-- What a copy queue keeps of the other flocks. -/
def keptQueue (fid : Nat) (q : CopyQ) : CopyQ :=
  ⟨q.ents.filter fun e => !decide (e.tid.fid = fid), q.halted && !((q.ents.head?).any fun e => decide (e.tid.fid = fid))⟩

/-- A withdrawn matrix entry keeps its captured bank, its YOKE value and its paid mark; it matches again (R267). -/
def withdrawn (e : MatEnt) : MatEnt := { e with yop := none, start := none, snap := [] }

/-- The generator states of the slots that a flock has on a cluster, by flock slot and lane (R184). -/
def savedSr (s : State) (fid m : Nat) : Table (Nat × Nat) Word32 :=
  let c := (s.clu (s.pidOf fid m)).seeded
  (List.range (s.flk fid).rcd.groups).flatMap fun k => (List.range 32).map fun l =>
    let g := physSlot s fid m k
    ((k, l), c.sr.get (g, l) (seedState c.srSeed g l))

/-- The runs of a flock on the pipes of a cluster, each with the age and the debit of its denied word (R420, R436). -/
def cutRuns (c : Cluster) (fid : Nat) : List PipeRun :=
  (c.pipes.filter fun e => decide (e.2.tid.fid = fid)).map fun e =>
    { e.2 with denied := (c.purse.payers.find? fun p => decide (p.who = pipeWho e.1)).map fun p => (p.age, p.debit) }

/-- The payers of a cluster that belong to a flock: its runs on pipes, and the heads of the queues. -/
def ownPayer (c : Cluster) (fid : Nat) (p : Payer) : Bool :=
  let mine (t : Option Tid) : Bool := t.any fun t => decide (t.fid = fid)
  if pipeWho 0 ≤ p.who then mine ((c.pipes.find (p.who - pipeWho 0)).map (·.tid))
  else match p.who with
    | 0 => mine ((c.mq.head?).map (·.tid))
    | 1 => mine ((c.ta.ents.head?).map (·.tid))
    | k => mine (((c.cq.get ((k - 2) / 2 ^ 32) CopyQ.empty).ents.head?).map (·.tid))

/-- The payers that an image keeps (R420): the flock's own but for its pipes, whose cut runs keep theirs, and but for an MMY,
which is no payer again before it has matched again (R267, R410). -/
def savedPayer (c : Cluster) (fid : Nat) (p : Payer) : Bool :=
  ownPayer c fid p && decide (p.who < pipeWho 0) && !(decide (p.who = 0) && (c.mq.head?).any MatEnt.isYoked)

/-- The state of a member's cluster as a flock's image holds it. -/
def saveClu (s : State) (fid m : Nat) : SavedClu :=
  let c := s.clu (s.pidOf fid m)
  { plane := c.plane, planeDirty := c.planeDirty, codeTab := c.codeTab, code := c.code, curves := c.curves, curve := c.curve
    ta := c.ta
    purse := { c.purse with payers := c.purse.payers.filter (savedPayer c fid) }
    stash := (c.stash.filter fun e => decide (e.fid = fid)).map fun e => { e with sectors := [] }
    cq := c.cq.mapVals fun _ q => savedQueue fid q
    mq := (c.mq.filter fun e => decide (e.tid.fid = fid)).map withdrawn
    taEnts := c.ta.ents.filter fun e => decide (e.tid.fid = fid)
    pft := c.pft.filter fun e => decide (e.tid.fid = fid)
    sr := savedSr s fid m
    cuts := cutRuns c fid ++ c.cuts.filter fun p => decide (p.tid.fid = fid) }

/-- A cluster without a flock. -/
def clearClu (c : Cluster) (fid : Nat) : Cluster :=
  { c with
    stash := c.stash.filter fun e => !decide (e.fid = fid)
    cq := c.cq.mapVals fun _ q => keptQueue fid q
    mq := c.mq.filter fun e => !decide (e.tid.fid = fid)
    retired := c.retired.filter fun e => !decide (e.tid.fid = fid)
    ta := { c.ta with ents := c.ta.ents.filter fun e => !decide (e.tid.fid = fid) }
    pft := c.pft.filter fun e => !decide (e.tid.fid = fid)
    pipes := c.pipes.filter fun e => !decide (e.2.tid.fid = fid)
    cuts := c.cuts.filter fun p => !decide (p.tid.fid = fid)
    ready := c.ready.filter fun e => !decide (e.1.tid.fid = fid)
    reels := c.reels.filter fun e => !decide (e.fid = fid)
    purse := { c.purse with
      claim := none
      starved := if c.purse.claim.isSome then 0 else c.purse.starved
      payers := c.purse.payers.filter fun p => !ownPayer c fid p } }

/-- The loads and the uses of a flock's words leave the banked stores of a member's cluster: a load that goes away counts as
finished there, and a use as retired (R232, R258, R398). -/
def leaveBanks (s : State) (fid m : Nat) : State :=
  (bankWords s fid m).foldl (init := s) fun s e =>
    let code := e.banks.get m 0
    let t := e.x.cN % 4
    s.modClu (s.pidOf fid m) fun c =>
      if e.op = 0x191 then { c with curve := c.curve.set t ((c.curve.get t BankCtl.placed).finish code) }
      else if e.op = 0x190 then { c with curve := c.curve.set t ((c.curve.get t BankCtl.placed).retire code) }
      else if e.op = 0x30B then { c with code := c.code.finish code }
      else if usesCode e.op e.x then { c with code := c.code.retire code }
      else c

/-- A UNI that a (member, slot) has issued is put in front of what the slot has still to do: into its cut run, or as a run of
its own, with its run temporaries (R359). -/
def queueUni (t : Tid) (n slot prog : Nat) (w : EWord) (temps : List (List (Option Word32))) (cuts : List PipeRun)
    (fresh : PipeRun) : List PipeRun :=
  let own (p : PipeRun) : Bool := decide (p.tid = t) && decide (p.str = n) && decide (p.slot = slot) && !p.replay
  let add (p : PipeRun) : PipeRun := { p with run := { p.run with words := p.run.words.take p.pos ++ w :: p.run.words.drop p.pos } }
  if cuts.any own && (decide (w.x.aN < 128) || decide (prog = 0)) then cuts.map fun p => if own p then add p else p
  else { fresh with run := ⟨prog - 1, [w], emptyTrailer, 0⟩, w := temps } :: cuts

/-- The run temporaries that a UNI of a run that has ended read on a (member, slot): what it saw there (log 49). -/
def uniTemps (x : LaneWord) (p : Nat × Nat) (seen : List (Nat × Nat × Nat × Nat)) : List (List (Option Word32)) :=
  (List.range 8).map fun k => (List.range 32).map fun l =>
    let r := 128 + k
    if x.aN ≤ r ∧ r < x.aN + tySpan x.ty4 then
      (seen.find? fun e => decide ((e.1, e.2.1, e.2.2.1) = (p.1, p.2, l))).map fun e => BitVec.ofNat 32 (e.2.2.2 / 2 ^ (32 * (r - x.aN)))
    else none

/-- A UNI whose result has not arrived issues again on resume, on every bound group (R359). -/
def redoUnis (s : State) (fid : Nat) (saved : List SavedClu) : State × List SavedClu :=
  let ts := s.threads.filter fun e => decide (e.1.fid = fid)
  ts.foldl (init := (s, saved)) fun (s, saved) e =>
    let (x, saved) := e.2.out.foldr (init := (([] : List OutReg), saved)) fun o (os, saved) =>
      match o.pend with
      | .uni n q w all need seen =>
        let st := strOf s e.1 n
        let gone := all.filter fun p => !need.contains p
        ({ o with pend := .uni n q w all all [] } :: os,
          gone.foldl (init := saved) fun saved p => match saved[p.1]? with
            | some v => setAt saved p.1 { v with
                cuts := queueUni e.1 n p.2 (st.prog.get p 0) w (uniTemps w.x p seen) v.cuts (freshRun s e.1 n p.2 ⟨0, [], 0, 0⟩) }
            | none => saved)
      | _ => (o :: os, saved)
    (s.modThr e.1 fun y => { y with out := x }, saved)

/-- A thread saved at its parcel: what waits executes again, but a STAGE word remembers what it has deferred
(R355, R378; log 40). -/
def saveThread (x : Thread) : Thread :=
  { undoPops x with
    wait := x.wait.filter fun w => w.bar.any fun b => decide (b.p = 2 ^ 16) && decide (b.timeout = 0) && decide (b.d = 0) }

/-- A plane window as the image of a flock holds it for a member (R398, R440). -/
def Window.forImage (w : Window) (fid m : Nat) : Window :=
  { w with fid := fid, mask := 2 ^ m, kept := w.kept || decide (w.fid ≠ fid) }

/-- The plane windows on a cluster. -/
def planeWindows (s : State) (ctx pid : Nat) : List Window :=
  (s.ctx ctx).windows.filter fun w => w.plane && w.stands && decide (w.targets = [pid])

/-- The windows of a flock at its pre-emption (R109). Its L2 windows are written back and released, and their descriptors kept
in the image, with the plane windows of each of its clusters, whichever flock set them: they leave with the plane, or stay
with it where another flock of the context stays (R398; log 106). -/
def saveWindows (s : State) (fid : Nat) : State :=
  let ctx := (s.flk fid).ctx
  let banked := (windowsOf s fid).filter fun w => w.stands && !w.plane
  let planes := (List.range (s.size fid)).flatMap fun m => (planeWindows s ctx (s.pidOf fid m)).map (Window.forImage · fid m)
  let s := ((windowsOf s fid).filter Window.stands).foldl (init := s) fun s w => match w.plane, fellowOn s fid (w.targets.headD 0) with
    | true, some f => handWindow s ctx w f
    | _, _ => endWindow s ctx w
  s.modFlk fid fun f => { f with windows := banked ++ planes }

/-- The accesses of a flock taken into its image, their clusters by flock cluster index. -/
def saveOps (s : State) (fid : Nat) : State :=
  let mine := (s.ops.filter fun o => decide (o.tid.fid = fid)).map fun o => { o with pid := (s.flk fid).clus.idxOf o.pid }
  { s.modFlk fid fun f => { f with ops := mine } with ops := s.ops.filter fun o => !decide (o.tid.fid = fid) }

/-- Steps 1 to 5 of R437 with an image slot. -/
def saveFlock (s : State) (fid slot : Nat) : State :=
  let s := (drainStash (combineLines s fid) fid).1
  let s := dropCodeOf (saveWindows s fid) fid
  let ctx := (s.flk fid).ctx
  let base := (s.ctx ctx).imgBase * 2 ^ 29 + slot * 2 ^ 29
  let (s, saved) := redoUnis s fid ((List.range (s.size fid)).map (saveClu s fid))
  let img := imageBytes s fid
  let s := (writeAtHome (holdIf ((linesOf base img.length).any (writeHeld s)) s) ((clustersFor s fid).headD 0) base img).1
  let s := (List.range (s.size fid)).foldl (fun s m => leaveBanks s fid m) s
  let s := saveOps ((clustersFor s fid).foldl (fun s p => s.modClu p fun c => clearClu c fid) s) fid
  let thr (e : Tid × Thread) : Tid × Thread := if e.1.fid = fid then (e.1, saveThread e.2) else e
  let s := { s with threads := s.threads.map thr }
  let s := s.modCtx ctx fun c => { c with imgHeld := c.imgHeld ++ [(slot, fid)] }
  watchSync (s.modFlk fid fun f => { f with resident := false, preReq := false, saved := saved, image := some slot }) ctx

/-- PREEMPTION_HALT (R435, R437): a flock that was asked to stop is halted, saved, and leaves its clusters, once its
units have stopped and an image slot is free. -/
def execPreemptionHalt (fid : Nat) (s : State) : Out :=
  let f := s.flk fid
  if !f.resident || !f.preReq || !flockHalted s fid then .next s
  else match imageSlot (s.ctx f.ctx) with
    | some k => .next (saveFlock s fid k)
    | none => .next s

end Sys2Proof.Machine
end

