-- ==== Sys2Proof/Machine/BringUp.lean ====
section
/-! DEFINITION. Package reset, the stages, the Priade image and BRCMD (R475 to R478), context creation (R8), and the
register pages of the host (R7, R84, R387, R393, R429 to R446, R452, R476). -/

namespace Sys2Proof.Machine

/-! ## Stages (R475) -/

/-- PACKAGE_RESET (R475): every register of the package at its reset value. What is not a register of the package
stays: memory, the part's absent clusters, and the model's own fields (log 42). -/
def execPackageReset (s : State) : Out :=
  .next { State.reset with
    tick := s.tick, agenda := s.agenda, nextId := s.nextId, absent := s.absent, mem := s.mem
    pkg := { Pkg.reset with hb := s.pkg.hb, ports := s.pkg.ports, msix := s.pkg.msix, safePoints := s.pkg.safePoints } }

/-- RAILS_IN_REGULATION (R475): Stage 0, and DT counts from 0 (R300). -/
def execRailsInRegulation (s : State) : Out :=
  if s.pkg.powered then .next s else .next { s.modPkg (fun p => { p with powered := true, stage := 0 }) with now := 0 }

/-- FIRST_CONFIG_ACCESS (R475): Stage 1. -/
def execFirstConfigAccess (s : State) : Out :=
  if s.pkg.powered ∧ s.pkg.stage = 0 then .next (s.modPkg fun p => { p with stage := 1 }) else .next s

/-! ## The Priade image (R477) -/

/-- Bytes of the controller RAM. -/
def ctlRamSize : Nat := 4194304

/-- CONTROLLER_RAM_WRITE (R477): dropped while FWRUN is 1; no such address beyond the window. -/
def execControllerRamWrite (off : Nat) (v : BitVec 8) (s : State) : Out :=
  if ctlRamSize ≤ off then .fault (.noSuchAddress off)
  else if s.pkg.fwrun ∨ s.pkg.stage = 0 then .next s
  else .next (s.modPkg fun p => { p with ctlRam := p.ctlRam.write off v })

/-- One bit of CRC-32, least significant first. -/
def crcBit (c : BitVec 32) : BitVec 32 := if c.getLsbD 0 then (c >>> 1) ^^^ 0xEDB8_8320 else c >>> 1

/-- One byte of CRC-32. -/
def crcByte (c : BitVec 32) (b : Byte) : BitVec 32 := (List.range 8).foldl (fun c _ => crcBit c) (c ^^^ b.zeroExtend 32)

/-- CRC-32 of ISO/IEC 3309. -/
def crc32 (bs : List Byte) : BitVec 32 := ~~~(bs.foldl crcByte 0xFFFF_FFFF)

/-- The checks of START on the header and the CRC. -/
def imageOk (m : Mem) : Bool :=
  let len := m.readNat 0 4
  let entry := m.readNat 8 4
  decide (1 ≤ len) && decide (len ≤ ctlRamSize - 16) && decide (entry < len) && decide (entry % 4 = 0)
    && decide (m.readNat 12 4 = 0) && decide ((crc32 (m.readList 16 len)).toNat = m.readNat 4 4)

def setErr (s : State) (e : Nat) : State := s.modPkg fun p => { p with err := e }

/-- START (R476, R477). -/
def execStart (s : State) : Out :=
  if s.pkg.stage = 0 ∨ s.pkg.fwrun then .next (setErr s 4)
  else if !imageOk s.pkg.ctlRam then .next (setErr s 1)
  else .next (s.modPkg fun p => { p with fwrun := true, fwStart := some s.now, err := 0 })

/-- FIRMWARE_START_TIMEOUT (R477): no THALLOW within 1 ms. -/
def execFirmwareStartTimeout (s : State) : Out :=
  match s.pkg.fwStart with
  | some t => if s.pkg.fwrun ∧ t + 1000000000 ≤ s.now
      then .next (s.modPkg fun p => { p with fwrun := false, fwStart := none, err := 2 }) else .next s
  | none => .next s

/-- TRAIN (R475, R476). -/
def execTrain (s : State) : Out :=
  if s.pkg.stage = 1 ∧ s.pkg.fwrun then .next (s.modPkg fun p => { p with training := true, err := 0 })
  else .next (setErr s 4)

/-- TRAIN_COMPLETE (R475, R476): Stage 2, where the bias table is set up with every bit 0 (R91), or Stage 1 with STKFAIL
until a package reset. -/
def execTrainComplete (fails : BitVec 16) (s : State) : Out :=
  if !s.pkg.training then .next s
  else
    let f := s.pkg.stkfail ||| fails.toNat
    let b := Config.biasBlock % 2 ^ 19 * 2 ^ 21
    if f = 0 then .next { s.modPkg (fun p => { p with training := false, stage := 2, err := 0, biasAt := some b }) with
      bias := [], mem := Mem.clearRange s.mem b (b + 2 ^ 21) }
    else .next (s.modPkg fun p => { p with training := false, stkfail := f, err := 3 })

/-- RELEASE (R475): Stage 3; queue 0 goes back to QTBASE (R478). -/
def execRelease (s : State) : Out :=
  if s.pkg.stage = 2 then .next (s.modPkg fun p => { p with stage := 3, err := 0 }) else .next (setErr s 4)

/-- HALTFW (R477): the firmware stops, and every die is in the safe envelope. -/
def execHaltfw (s : State) : Out :=
  if s.pkg.fwrun then .next ((safeAll s).modPkg fun p => { p with fwrun := false, fwStart := none, err := 0 })
  else .next (setErr s 4)

/-- BRCMD written (R476). -/
def brcmd (s : State) (op : Nat) : Out :=
  match op with
  | 1 => execStart s
  | 2 => execTrain s
  | 3 => execRelease s
  | 4 => execHaltfw s
  | _ => .next (setErr s 4)

/-- BRSTAT as it reads (R476). -/
def brstat (s : State) : Word64 :=
  let p := s.pkg
  BitVec.ofNat 64 (p.stkfail * 2 ^ 48 + p.err * 2 ^ 40 + b2n p.fwrun * 8 + p.stage)

/-! ## Discovery (R454, R455) -/

/-- A record of 32 bytes. -/
def discRecord (bs : List Byte) : List Byte := bs ++ List.replicate (32 - bs.length) 0

/-- The present clusters of a die, bit c for physical cluster c. -/
def presentMask (s : State) (die : Nat) : Nat :=
  (List.range 64).foldl (fun acc c => acc + b2n (present s (64 * die + c)) * 2 ^ c) 0

/-- The quads of a die that hold a present cluster. -/
def quadMask (m : Nat) : Nat := (List.range 16).foldl (fun acc q => acc + b2n (decide (fld m (4 * q + 3) (4 * q) ≠ 0)) * 2 ^ q) 0

/-- TYPE 3: a type of B, its accumulator, rounding, scale operands, block, subnormals and Kbase (R50, R194). -/
def numericRecord (ty : Nat) : List Byte :=
  let int := isIntTy ty
  let scaled := if ty = 13 then (3, 32) else if ty = 14 then (2, 64) else (0, 0)
  let k := if ty = 13 then 256 else if ty = 8 ∨ ty = 9 then 64 else 128
  discRecord (leBytes 1 3 ++ leBytes 1 ty ++ leBytes 1 (b2n int) ++ leBytes 1 16 ++ leBytes 1 (if int then 0 else 3)
    ++ leBytes 1 scaled.1 ++ leBytes 2 scaled.2 ++ leBytes 1 (if int then 0 else 3) ++ leBytes 2 k)

/-- The records in order: the package, its dies, the element types of R455 (log 95). -/
def discRecords (s : State) : List (List Byte) :=
  let dies := (List.range 8).map fun d => (d, presentMask s d)
  let n := dies.foldl (fun acc d => acc + popCount 64 d.2) 0
  [discRecord (leBytes 1 1 ++ leBytes 1 0xFF ++ leBytes 2 0xFFFF ++ leBytes 2 n ++ leBytes 2 1024 ++ leBytes 1 s.pkg.ports ++ leBytes 1 7)]
    ++ (dies.map fun d => discRecord (leBytes 1 2 ++ leBytes 1 d.1 ++ leBytes 2 (quadMask d.2) ++ leBytes 4 0 ++ leBytes 8 d.2))
    ++ [11, 12, 9, 8, 13, 14, 4, 0].map numericRecord

/-- The discovery area of 4 KiB, as the host reads it (R454). -/
def discovery (s : State) : List Byte :=
  let rs := discRecords s
  let bs := leBytes 2 1 ++ leBytes 2 rs.length ++ List.replicate 12 0 ++ rs.flatten
  bs ++ List.replicate (4096 - bs.length) 0

/-! ## Contexts (R8) -/

/-- CONTEXT_CREATION (R8): every register of the context at its reset value. No cache holds anything of it (R81). A
context that has a flock stands. -/
def execContextCreation (ctx : Nat) (priv : Bool) (s : State) : Out :=
  if s.flocks.any fun e => decide (e.2.ctx = ctx) && !e.2.ended then .next s
  else
    let s := dropLeaves s ctx true true 0 0
    let free (c : Cluster) : Cluster := { c with owner := if c.owner = some ctx then none else c.owner }
    let s := { s with clusters := s.clusters.mapVals fun _ c => free c }
    .next (s.setCtx ctx { Ctx.created priv with wdLast := s.now, wdPause := some s.now })

/-! ## Register pages -/

/-- CTXSTAT as it reads (R393). -/
def ctxstat (c : Ctx) : Nat := b2n c.donEerr * 4 + b2n c.recErr * 2 + b2n c.doorErr

/-- A watched range written (R452, R453): setting EN starts the counts of the log anew, in the region of every slice. -/
def writeWatch (s : State) (ctx n v : Nat) : State :=
  let c := s.ctx ctx
  let old := c.watch.getD n ⟨0, 0, false⟩
  let w : Watch := ⟨fld v 63 52 + 1, fld v 51 8, v.testBit 0⟩
  let s := s.setCtx ctx { c with watch := setAt c.watch n w }
  if w.en && !old.en then
    let s := s.modCtx ctx fun c => { c with alog := [] }
    (List.range 512).foldl (init := s) fun s sl => if present s sl then logStore s sl ((s.ctx ctx).logRegion sl) (leBytes 8 0) else s
  else s

/-- DBGCTL written (R446): CHECK and THREADS, then RESUME, then STOP. -/
def writeDbgctl (s : State) (ctx : Nat) (v : Nat) : State :=
  let s := s.modCtx ctx fun c => { c with check := v.testBit 11, dbgThreads := fld v 7 0 }
  let s := if v.testBit 10 then outState (execDbgctlResume ctx s) s else s
  if v.testBit 9 then outState (execStop ctx s) s else s

/-- CTXCTL written (R432): MSIX, then CLEAR, then PREEMPT. -/
def writeCtxctl (s : State) (ctx : Nat) (v : Nat) : State :=
  let s := s.modCtx ctx fun c => { c with msix := fld v 26 16 }
  let s := if v.testBit 0 then outState (execClear ctx s) s else s
  if v.testBit 1 then outState (execPreempt ctx s) s else s

/-- A register of a context's page written; fields that a host may not write keep their values (R7). -/
def writeCtxReg (s : State) (ctx : Nat) (reg : HostReg) (v : Word64) : State :=
  let n := v.toNat
  let upd (f : Ctx → Ctx) : State := s.modCtx ctx f
  match reg with
  | .ttbase => outState (execTtbaseWrite ctx v s) s
  | .xlmode => upd fun c => { c with xlmode := v.getLsbD 0 }
  | .xlarg0 => upd fun c => { c with xlarg0 := v }
  | .xlarg1 => upd fun c => { c with xlarg1 := v }
  | .xlcmd => xlWrite s ctx v
  | .xlstat => upd fun c => { c with xlovr := c.xlovr && !v.getLsbD 1 }
  | .pincap => upd fun c => { c with pincap := v }
  | .lease => setLease s ctx v
  | .ashare => outState (execAshareWrite ctx v s) s
  | .bardoor => outState (execBardoor ctx v s) s
  | .ctxstat => upd fun c => { c with
      donEerr := c.donEerr && !n.testBit 2, recErr := c.recErr && !n.testBit 1, doorErr := c.doorErr && !n.testBit 0 }
  | .wdcyc => upd fun c => { c with wdLimit := fld n 39 0 }
  | .frbase => upd fun c => { c with frBase := fld n 63 12, frLog2 := fld n 3 0 }
  | .ctxevt => upd fun c => { c with evt := c.evt &&& (63 ^^^ fld n 5 0) }
  | .ctxctl => writeCtxctl s ctx n
  | .aelbase => upd fun c => { c with aelBase := fld n 63 12, aelLog2 := fld n 8 5, aelEn := fld n 4 0 }
  | .imgpool => upd fun c => { c with imgBase := fld n 63 29, imgSlots := fld n 7 0 }
  | .sampctl => outState (execSampctlWrite ctx v s) s
  | .sampbase => upd fun c => { c with sampBase := fld n 63 12, sampLog2 := fld n 3 0 }
  | .dbgctl => writeDbgctl s ctx n
  | .bp k => upd fun c => { c with bps := setAt c.bps k.toNat (n / 4 * 4) }
  | .dbgsel => upd fun c => { c with dbgClu := fld n 24 16, dbgKind := fld n 13 12, dbgThread := fld n 10 8, dbgReg := fld n 5 0 }
  | .dbgdata => outState (execDbgdataWrite ctx v s) s
  | .watch k => writeWatch s ctx k.toNat n
  | .alogctl => upd fun c => { c with alogBase := fld n 63 12, alogLog2 := fld n 3 0 }
  | _ => s

/-- REGISTER_WRITE (R7): a register of the package's pages, or of a context's page. No page is reached before
Stage 1, and a context that does not exist has none. -/
def execRegisterWrite (page : Nat) (reg : HostReg) (v : BitVec 64) (s : State) : Out :=
  let n := v.toNat
  if s.pkg.stage = 0 then .next s
  else match reg with
  | .qtbase => .next (s.modPkg fun p => { p with qtbase := BitVec.ofNat 64 (fld n 51 12 * 4096) })
  | .qcmd => .next (qcmdWrite s (fld n 3 0) (fld n 20 4))
  | .hdmbase => .next (s.modPkg fun p => { p with hb := fld n 50 0 })
  | .agelim k => .next (if k < 24 then (noteAged s).modPkg fun p => { p with agelim := p.agelim.set k (fld n 15 0) } else s)
  | .brcmd => brcmd s (fld n 3 0)
  | .bootq => .next (s.modPkg fun p => { p with bootq := BitVec.ofNat 64 (fld n 51 7 * 128) })
  | reg => .next (if ctxExists s page then writeCtxReg s page reg v else s)

/-- A register of the pages as the host reads it (R7): what is write-only or reserved reads 0. -/
def hostRead (s : State) (page : Nat) (reg : HostReg) : Word64 :=
  let c := s.ctx page
  let n (v : Nat) : Word64 := BitVec.ofNat 64 v
  match reg with
  | .ttbase => n (ttbase c)
  | .xlmode => n (b2n c.xlmode)
  | .xlarg0 => c.xlarg0
  | .xlarg1 => c.xlarg1
  | .xlcmd => 0
  | .xlstat => xlstat s page
  | .pincap => c.pincap
  | .lease => n c.leaseNs
  | .ashare => n ((c.ashare.headD (0, 4096)).2)
  | .bardoor => 0
  | .ctxstat => n (ctxstat c)
  | .wdcyc => n c.wdLimit
  | .frbase => n (c.frBase * 4096 + c.frLog2)
  | .loghead => n (c.aelHead * 2 ^ 32 + c.frHead)
  | .ctxevt => n (c.waiters * 2 ^ 32 + c.evt)
  | .ctxctl => n (c.msix * 2 ^ 16)
  | .aelbase => n (c.aelBase * 4096 + c.aelLog2 * 32 + c.aelEn)
  | .imgpool => n (c.imgBase * 2 ^ 29 + c.imgSlots)
  | .sampctl => n c.sampIv
  | .sampbase => n (c.sampBase * 4096 + c.sampLog2)
  | .dbgctl => n (b2n c.check * 2 ^ 11 + c.dbgThreads)
  | .dbgstat => dbgstat s page
  | .bp k => n (c.bps.getD k.toNat 0)
  | .dbgsel => n (c.dbgClu * 2 ^ 16 + c.dbgKind * 2 ^ 12 + c.dbgThread * 2 ^ 8 + c.dbgReg)
  | .dbgdata => dbgdata s page
  | .watch k =>
    let w := c.watch.getD k.toNat ⟨0, 0, false⟩
    n ((w.lines - 1) * 2 ^ 52 + w.base * 256 + b2n w.en)
  | .alogctl => n (c.alogBase * 4096 + c.alogLog2)
  | .qtbase => s.pkg.qtbase
  | .qcmd => 0
  | .qcmdstat => qcmdstat s
  | .agelim k => n (s.pkg.agelim.get k 1000)
  | .brstat => brstat s
  | .brcmd => 0
  | .bootq => s.pkg.bootq
  | .hdmbase => n s.pkg.hb

end Sys2Proof.Machine
end

