-- ==== Sys2Proof/Machine/Dispatch.lean ====
section
/-! DEFINITION. One arm per instruction: its meaning, by name. -/

namespace Sys2Proof.Machine

def exec (i : Instr) (s : State) : Host.Outcome State Fault Refusal :=
  match i with
  | .add sb d a b => Sys2Proof.Machine.execAdd sb d a b s
  | .sub sb d a b => Sys2Proof.Machine.execSub sb d a b s
  | .mul sb d a b => Sys2Proof.Machine.execMul sb d a b s
  | .mulh sb d a b => Sys2Proof.Machine.execMulh sb d a b s
  | .mulhu sb d a b => Sys2Proof.Machine.execMulhu sb d a b s
  | .div sb d a b => Sys2Proof.Machine.execDiv sb d a b s
  | .divu sb d a b => Sys2Proof.Machine.execDivu sb d a b s
  | .rem sb d a b => Sys2Proof.Machine.execRem sb d a b s
  | .andR sb d a b => Sys2Proof.Machine.execAndR sb d a b s
  | .orR sb d a b => Sys2Proof.Machine.execOrR sb d a b s
  | .xorR sb d a b => Sys2Proof.Machine.execXorR sb d a b s
  | .shlR sb d a b => Sys2Proof.Machine.execShlR sb d a b s
  | .shrR sb d a b => Sys2Proof.Machine.execShrR sb d a b s
  | .sarR sb d a b => Sys2Proof.Machine.execSarR sb d a b s
  | .minR sb d a b => Sys2Proof.Machine.execMinR sb d a b s
  | .maxR sb d a b => Sys2Proof.Machine.execMaxR sb d a b s
  | .slt sb d a b => Sys2Proof.Machine.execSlt sb d a b s
  | .sltu sb d a b => Sys2Proof.Machine.execSltu sb d a b s
  | .seq sb d a b => Sys2Proof.Machine.execSeq sb d a b s
  | .csel sb d a b => Sys2Proof.Machine.execCsel sb d a b s
  | .popc sb d a => Sys2Proof.Machine.execPopc sb d a s
  | .clz sb d a => Sys2Proof.Machine.execClz sb d a s
  | .gexit sb => Sys2Proof.Machine.execGexit sb s
  | .sfadd sb d a b rnd => Sys2Proof.Machine.execSfadd sb d a b rnd s
  | .sfsub sb d a b rnd => Sys2Proof.Machine.execSfsub sb d a b rnd s
  | .sfmul sb d a b rnd => Sys2Proof.Machine.execSfmul sb d a b rnd s
  | .sfmac sb d a b rnd => Sys2Proof.Machine.execSfmac sb d a b rnd s
  | .sfmin sb d a b => Sys2Proof.Machine.execSfmin sb d a b s
  | .sfmax sb d a b => Sys2Proof.Machine.execSfmax sb d a b s
  | .sfcmp sb d a b cond => Sys2Proof.Machine.execSfcmp sb d a b cond s
  | .sfcvt sb d a kind rnd => Sys2Proof.Machine.execSfcvt sb d a kind rnd s
  | .jr sb a => Sys2Proof.Machine.execJr sb a s
  | .callr sb a => Sys2Proof.Machine.execCallr sb a s
  | .sret sb => Sys2Proof.Machine.execSret sb s
  | .trap sb n => Sys2Proof.Machine.execTrap sb n s
  | .fence sb order scope => Sys2Proof.Machine.execFence sb order scope s
  | .icinv sb a b scope => Sys2Proof.Machine.execIcinv sb a b scope s
  | .vqPop sb d => Sys2Proof.Machine.execVqPop sb d s
  | .vqPeek sb d => Sys2Proof.Machine.execVqPeek sb d s
  | .barNew sb d a b ext kind => Sys2Proof.Machine.execBarNew sb d a b ext kind s
  | .barExpect sb d a b base => Sys2Proof.Machine.execBarExpect sb d a b base s
  | .barArrive sb d a b => Sys2Proof.Machine.execBarArrive sb d a b s
  | .barWait sb d a b => Sys2Proof.Machine.execBarWait sb d a b s
  | .barFree sb a => Sys2Proof.Machine.execBarFree sb a s
  | .stagePut sb d a b scope => Sys2Proof.Machine.execStagePut sb d a b scope s
  | .stageTake sb d a scope last => Sys2Proof.Machine.execStageTake sb d a scope last s
  | .reelOpen sb a => Sys2Proof.Machine.execReelOpen sb a s
  | .reelShut sb => Sys2Proof.Machine.execReelShut sb s
  | .reelPlay sb a => Sys2Proof.Machine.execReelPlay sb a s
  | .reelDrop sb a => Sys2Proof.Machine.execReelDrop sb a s
  | .strBind sb a b n => Sys2Proof.Machine.execStrBind sb a b n s
  | .strSel sb n => Sys2Proof.Machine.execStrSel sb n s
  | .strFree sb n => Sys2Proof.Machine.execStrFree sb n s
  | .maskRd sb d a which => Sys2Proof.Machine.execMaskRd sb d a which s
  | .maskWr sb a b => Sys2Proof.Machine.execMaskWr sb a b s
  | .parkReplay sb a b => Sys2Proof.Machine.execParkReplay sb a b s
  | .unpark sb a b kill => Sys2Proof.Machine.execUnpark sb a b kill s
  | .launch sb d a b => Sys2Proof.Machine.execLaunch sb d a b s
  | .gatom sb d a b op => Sys2Proof.Machine.execGatom sb d a b op s
  | .pinSet sb d a b fill kind => Sys2Proof.Machine.execPinSet sb d a b fill kind s
  | .pinClr sb d a => Sys2Proof.Machine.execPinClr sb d a s
  | .addi sb d a imm => Sys2Proof.Machine.execAddi sb d a imm s
  | .andi sb d a imm => Sys2Proof.Machine.execAndi sb d a imm s
  | .ori sb d a imm => Sys2Proof.Machine.execOri sb d a imm s
  | .xori sb d a imm => Sys2Proof.Machine.execXori sb d a imm s
  | .shli sb d a cnt => Sys2Proof.Machine.execShli sb d a cnt s
  | .shri sb d a cnt => Sys2Proof.Machine.execShri sb d a cnt s
  | .sari sb d a cnt => Sys2Proof.Machine.execSari sb d a cnt s
  | .slti sb d a imm => Sys2Proof.Machine.execSlti sb d a imm s
  | .movi sb d imm => Sys2Proof.Machine.execMovi sb d imm s
  | .insh sb d imm => Sys2Proof.Machine.execInsh sb d imm s
  | .sltiu sb d a imm => Sys2Proof.Machine.execSltiu sb d a imm s
  | .srd sb d num => Sys2Proof.Machine.execSrd sb d num s
  | .swr sb a num => Sys2Proof.Machine.execSwr sb a num s
  | .pft sb a imm => Sys2Proof.Machine.execPft sb a imm s
  | .addiLong sb d a ext imm => Sys2Proof.Machine.execAddiLong sb d a ext imm s
  | .andiLong sb d a ext imm => Sys2Proof.Machine.execAndiLong sb d a ext imm s
  | .oriLong sb d a ext imm => Sys2Proof.Machine.execOriLong sb d a ext imm s
  | .xoriLong sb d a ext imm => Sys2Proof.Machine.execXoriLong sb d a ext imm s
  | .sltiLong sb d a ext imm => Sys2Proof.Machine.execSltiLong sb d a ext imm s
  | .sltiuLong sb d a ext imm => Sys2Proof.Machine.execSltiuLong sb d a ext imm s
  | .moviLong sb d ext imm => Sys2Proof.Machine.execMoviLong sb d ext imm s
  | .inshLong sb d ext imm => Sys2Proof.Machine.execInshLong sb d ext imm s
  | .pftLong sb a ext imm => Sys2Proof.Machine.execPftLong sb a ext imm s
  | .ldgN8 sb d a pri na off => Sys2Proof.Machine.execLdgN8 sb d a pri na off s
  | .ldgS8 sb d a pri na off => Sys2Proof.Machine.execLdgS8 sb d a pri na off s
  | .ldgN16 sb d a pri na off => Sys2Proof.Machine.execLdgN16 sb d a pri na off s
  | .ldgS16 sb d a pri na off => Sys2Proof.Machine.execLdgS16 sb d a pri na off s
  | .ldgN32 sb d a pri na off => Sys2Proof.Machine.execLdgN32 sb d a pri na off s
  | .ldgS32 sb d a pri na off => Sys2Proof.Machine.execLdgS32 sb d a pri na off s
  | .ldgB64 sb d a pri na off => Sys2Proof.Machine.execLdgB64 sb d a pri na off s
  | .stgB8 sb d a pri na scope off => Sys2Proof.Machine.execStgB8 sb d a pri na scope off s
  | .stgB16 sb d a pri na scope off => Sys2Proof.Machine.execStgB16 sb d a pri na scope off s
  | .stgB32 sb d a pri na scope off => Sys2Proof.Machine.execStgB32 sb d a pri na scope off s
  | .stgB64 sb d a pri na scope off => Sys2Proof.Machine.execStgB64 sb d a pri na scope off s
  | .ldgN8Long sb d a ext pri na off => Sys2Proof.Machine.execLdgN8Long sb d a ext pri na off s
  | .ldgS8Long sb d a ext pri na off => Sys2Proof.Machine.execLdgS8Long sb d a ext pri na off s
  | .ldgN16Long sb d a ext pri na off => Sys2Proof.Machine.execLdgN16Long sb d a ext pri na off s
  | .ldgS16Long sb d a ext pri na off => Sys2Proof.Machine.execLdgS16Long sb d a ext pri na off s
  | .ldgN32Long sb d a ext pri na off => Sys2Proof.Machine.execLdgN32Long sb d a ext pri na off s
  | .ldgS32Long sb d a ext pri na off => Sys2Proof.Machine.execLdgS32Long sb d a ext pri na off s
  | .ldgB64Long sb d a ext pri na off => Sys2Proof.Machine.execLdgB64Long sb d a ext pri na off s
  | .stgB8Long sb d a ext pri na scope off => Sys2Proof.Machine.execStgB8Long sb d a ext pri na scope off s
  | .stgB16Long sb d a ext pri na scope off => Sys2Proof.Machine.execStgB16Long sb d a ext pri na scope off s
  | .stgB32Long sb d a ext pri na scope off => Sys2Proof.Machine.execStgB32Long sb d a ext pri na scope off s
  | .stgB64Long sb d a ext pri na scope off => Sys2Proof.Machine.execStgB64Long sb d a ext pri na scope off s
  | .beq sb a b off => Sys2Proof.Machine.execBeq sb a b off s
  | .bne sb a b off => Sys2Proof.Machine.execBne sb a b off s
  | .blt sb a b off => Sys2Proof.Machine.execBlt sb a b off s
  | .bge sb a b off => Sys2Proof.Machine.execBge sb a b off s
  | .bltu sb a b off => Sys2Proof.Machine.execBltu sb a b off s
  | .bgeu sb a b off => Sys2Proof.Machine.execBgeu sb a b off s
  | .jmp sb off => Sys2Proof.Machine.execJmp sb off s
  | .call sb off => Sys2Proof.Machine.execCall sb off s
  | .laneWordEmit w => Sys2Proof.Machine.execLaneWordEmit w s
  | .runStart pid pipe => Sys2Proof.Machine.execRunStart pid pipe s
  | .iadd x => Sys2Proof.Machine.execIadd x s
  | .isub x => Sys2Proof.Machine.execIsub x s
  | .imul x => Sys2Proof.Machine.execImul x s
  | .imulh x => Sys2Proof.Machine.execImulh x s
  | .imad x => Sys2Proof.Machine.execImad x s
  | .imin x => Sys2Proof.Machine.execImin x s
  | .imax x => Sys2Proof.Machine.execImax x s
  | .iabs x => Sys2Proof.Machine.execIabs x s
  | .andLane x => Sys2Proof.Machine.execAndLane x s
  | .orLane x => Sys2Proof.Machine.execOrLane x s
  | .xorLane x => Sys2Proof.Machine.execXorLane x s
  | .notLane x => Sys2Proof.Machine.execNotLane x s
  | .shlLane x => Sys2Proof.Machine.execShlLane x s
  | .shrLane x => Sys2Proof.Machine.execShrLane x s
  | .rotl x => Sys2Proof.Machine.execRotl x s
  | .bfe x => Sys2Proof.Machine.execBfe x s
  | .bfi x => Sys2Proof.Machine.execBfi x s
  | .popcLane x => Sys2Proof.Machine.execPopcLane x s
  | .clzLane x => Sys2Proof.Machine.execClzLane x s
  | .brev x => Sys2Proof.Machine.execBrev x s
  | .movLane x => Sys2Proof.Machine.execMovLane x s
  | .iadd3 x => Sys2Proof.Machine.execIadd3 x s
  | .isad x => Sys2Proof.Machine.execIsad x s
  | .imulw x => Sys2Proof.Machine.execImulw x s
  | .imadw x => Sys2Proof.Machine.execImadw x s
  | .idp4 x => Sys2Proof.Machine.execIdp4 x s
  | .idp2 x => Sys2Proof.Machine.execIdp2 x s
  | .fadd x => Sys2Proof.Machine.execFadd x s
  | .fsub x => Sys2Proof.Machine.execFsub x s
  | .fmul x => Sys2Proof.Machine.execFmul x s
  | .ffma x => Sys2Proof.Machine.execFfma x s
  | .fmin x => Sys2Proof.Machine.execFmin x s
  | .fmax x => Sys2Proof.Machine.execFmax x s
  | .fabs x => Sys2Proof.Machine.execFabs x s
  | .fneg x => Sys2Proof.Machine.execFneg x s
  | .fdp2 x => Sys2Proof.Machine.execFdp2 x s
  | .fdp4 x => Sys2Proof.Machine.execFdp4 x s
  | .frnd x => Sys2Proof.Machine.execFrnd x s
  | .cvt x => Sys2Proof.Machine.execCvt x s
  | .cvts x => Sys2Proof.Machine.execCvts x s
  | .cbd x => Sys2Proof.Machine.execCbd x s
  | .pack x => Sys2Proof.Machine.execPack x s
  | .unpk x => Sys2Proof.Machine.execUnpk x s
  | .icmp x => Sys2Proof.Machine.execIcmp x s
  | .fcmp x => Sys2Proof.Machine.execFcmp x s
  | .plop x => Sys2Proof.Machine.execPlop x s
  | .pmov x => Sys2Proof.Machine.execPmov x s
  | .sel x => Sys2Proof.Machine.execSel x s
  | .lexit x => Sys2Proof.Machine.execLexit x s
  | .nop x => Sys2Proof.Machine.execNop x s
  | .rcp x => Sys2Proof.Machine.execRcp x s
  | .rsq x => Sys2Proof.Machine.execRsq x s
  | .sqrt x => Sys2Proof.Machine.execSqrt x s
  | .exp2 x => Sys2Proof.Machine.execExp2 x s
  | .log2 x => Sys2Proof.Machine.execLog2 x s
  | .sin x => Sys2Proof.Machine.execSin x s
  | .cos x => Sys2Proof.Machine.execCos x s
  | .cte x => Sys2Proof.Machine.execCte x s
  | .ctld x => Sys2Proof.Machine.execCtld x s
  | .curveTableLoadFinish pid tbl bank => Sys2Proof.Machine.execCurveTableLoadFinish pid tbl bank s
  | .shfl x => Sys2Proof.Machine.execShfl x s
  | .vote x => Sys2Proof.Machine.execVote x s
  | .ballot x => Sys2Proof.Machine.execBallot x s
  | .reduce x => Sys2Proof.Machine.execReduce x s
  | .scan x => Sys2Proof.Machine.execScan x s
  | .bcast x => Sys2Proof.Machine.execBcast x s
  | .regroup x => Sys2Proof.Machine.execRegroup x s
  | .uni x => Sys2Proof.Machine.execUni x s
  | .ld x => Sys2Proof.Machine.execLd x s
  | .st x => Sys2Proof.Machine.execSt x s
  | .ldt x => Sys2Proof.Machine.execLdt x s
  | .ldb x => Sys2Proof.Machine.execLdb x s
  | .atom x => Sys2Proof.Machine.execAtom x s
  | .red x => Sys2Proof.Machine.execRed x s
  | .lfence x => Sys2Proof.Machine.execLfence x s
  | .stashMap x => Sys2Proof.Machine.execStashMap x s
  | .stashFlush x => Sys2Proof.Machine.execStashFlush x s
  | .stashDrop x => Sys2Proof.Machine.execStashDrop x s
  | .cp x => Sys2Proof.Machine.execCp x s
  | .cp2d x => Sys2Proof.Machine.execCp2d x s
  | .cpt x => Sys2Proof.Machine.execCpt x s
  | .cpg x => Sys2Proof.Machine.execCpg x s
  | .cpset x => Sys2Proof.Machine.execCpset x s
  | .qfence x => Sys2Proof.Machine.execQfence x s
  | .copyChunkStart pid q => Sys2Proof.Machine.execCopyChunkStart pid q s
  | .copyChunkWrite pid q => Sys2Proof.Machine.execCopyChunkWrite pid q s
  | .copyChunkLand pid q => Sys2Proof.Machine.execCopyChunkLand pid q s
  | .copyChunkFault pid q => Sys2Proof.Machine.execCopyChunkFault pid q s
  | .mm x => Sys2Proof.Machine.execMm x s
  | .mmy x => Sys2Proof.Machine.execMmy x s
  | .mzero x => Sys2Proof.Machine.execMzero x s
  | .mcbt x => Sys2Proof.Machine.execMcbt x s
  | .codebookLoadFinish pid bank => Sys2Proof.Machine.execCodebookLoadFinish pid bank s
  | .yokeLatchComplete fid members => Sys2Proof.Machine.execYokeLatchComplete fid members s
  | .matrixEntryStart pid => Sys2Proof.Machine.execMatrixEntryStart pid s
  | .matrixRetirement pid tile err => Sys2Proof.Machine.execMatrixRetirement pid tile err s
  | .taWin x => Sys2Proof.Machine.execTaWin x s
  | .taDly x => Sys2Proof.Machine.execTaDly x s
  | .taMode x => Sys2Proof.Machine.execTaMode x s
  | .taGo x => Sys2Proof.Machine.execTaGo x s
  | .taCapt x => Sys2Proof.Machine.execTaCapt x s
  | .taClr x => Sys2Proof.Machine.execTaClr x s
  | .taEntryStart pid => Sys2Proof.Machine.execTaEntryStart pid s
  | .taWindowEnd pid err => Sys2Proof.Machine.execTaWindowEnd pid err s
  | .lwait x => Sys2Proof.Machine.execLwait x s
  | .larr x => Sys2Proof.Machine.execLarr x s
  | .trl x => Sys2Proof.Machine.execTrl x s
  | .idiv x => Sys2Proof.Machine.execIdiv x s
  | .irem x => Sys2Proof.Machine.execIrem x s
  | .fdiv x => Sys2Proof.Machine.execFdiv x s
  | .variableResultLand id => Sys2Proof.Machine.execVariableResultLand id s
  | .generatorResultArrival fid clu t reg => Sys2Proof.Machine.execGeneratorResultArrival fid clu t reg s
  | .voteEntryPresent fid clu t => Sys2Proof.Machine.execVoteEntryPresent fid clu t s
  | .uniResultArrival fid clu t reg => Sys2Proof.Machine.execUniResultArrival fid clu t reg s
  | .reelPlayFeed fid clu t str => Sys2Proof.Machine.execReelPlayFeed fid clu t str s
  | .boundaryTrap fid clu t => Sys2Proof.Machine.execBoundaryTrap fid clu t s
  | .threadEnd fid clu t => Sys2Proof.Machine.execThreadEnd fid clu t s
  | .tableWalk pid ctx va => Sys2Proof.Machine.execTableWalk pid ctx va s
  | .leaseGrant pid ctx pa => Sys2Proof.Machine.execLeaseGrant pid ctx pa s
  | .leaseExpiry pid pa => Sys2Proof.Machine.execLeaseExpiry pid pa s
  | .homeWritePerform id => Sys2Proof.Machine.execHomeWritePerform id s
  | .stashOwnershipGrant pid va => Sys2Proof.Machine.execStashOwnershipGrant pid va s
  | .sectorFillLand pid pa => Sys2Proof.Machine.execSectorFillLand pid pa s
  | .stashRecall pa => Sys2Proof.Machine.execStashRecall pa s
  | .updateOnlyGrant pid line room => Sys2Proof.Machine.execUpdateOnlyGrant pid line room s
  | .updateOnlyCombine line => Sys2Proof.Machine.execUpdateOnlyCombine line s
  | .hostCxlMemAccess wr hpa len data => Sys2Proof.Machine.execHostCxlMemAccess wr hpa len data s
  | .cxlCacheSnoop pa => Sys2Proof.Machine.execCxlCacheSnoop pa s
  | .cxlerr id => Sys2Proof.Machine.execCxlerr id s
  | .cxlCompletionTimeout id => Sys2Proof.Machine.execCxlCompletionTimeout id s
  | .instructionFill pid fid va => Sys2Proof.Machine.execInstructionFill pid fid va s
  | .pftTargetFill pid id => Sys2Proof.Machine.execPftTargetFill pid id s
  | .pinRehome ctx die va => Sys2Proof.Machine.execPinRehome ctx die va s
  | .pinClrWriteback ctx die va => Sys2Proof.Machine.execPinClrWriteback ctx die va s
  | .inval ctx count size => Sys2Proof.Machine.execInval ctx count size s
  | .invalAll ctx count size => Sys2Proof.Machine.execInvalAll ctx count size s
  | .migrate ctx count size => Sys2Proof.Machine.execMigrate ctx count size s
  | .biasHost ctx count size => Sys2Proof.Machine.execBiasHost ctx count size s
  | .biasDev ctx count size => Sys2Proof.Machine.execBiasDev ctx count size s
  | .xlcmdFinish ctx => Sys2Proof.Machine.execXlcmdFinish ctx s
  | .ttbaseWrite ctx v => Sys2Proof.Machine.execTtbaseWrite ctx v s
  | .cqctlAbort pid q => Sys2Proof.Machine.execCqctlAbort pid q s
  | .cqctlResume pid q => Sys2Proof.Machine.execCqctlResume pid q s
  | .deferredStageOperation fid clu t => Sys2Proof.Machine.execDeferredStageOperation fid clu t s
  | .barWaitTimeout fid clu t => Sys2Proof.Machine.execBarWaitTimeout fid clu t s
  | .bardoor ctx v => Sys2Proof.Machine.execBardoor ctx v s
  | .watchdogReport ctx => Sys2Proof.Machine.execWatchdogReport ctx s
  | .load q => Sys2Proof.Machine.execLoad q s
  | .unload q => Sys2Proof.Machine.execUnload q s
  | .recordParse q => Sys2Proof.Machine.execRecordParse q s
  | .placementStep => Sys2Proof.Machine.execPlacementStep s
  | .headAgeTick => Sys2Proof.Machine.execHeadAgeTick s
  | .flockEnd fid => Sys2Proof.Machine.execFlockEnd fid s
  | .voltageRampReachesTarget quad => Sys2Proof.Machine.execVoltageRampReachesTarget quad s
  | .tokenFlitInject die => Sys2Proof.Machine.execTokenFlitInject die s
  | .spendWindowRollover pid => Sys2Proof.Machine.execSpendWindowRollover pid s
  | .claimPost pid => Sys2Proof.Machine.execClaimPost pid s
  | .ashareWrite ctx v => Sys2Proof.Machine.execAshareWrite ctx v s
  | .thallowUpdate die pallow => Sys2Proof.Machine.execThallowUpdate die pallow s
  | .sensorSample die temps ta tb => Sys2Proof.Machine.execSensorSample die temps ta tb s
  | .bankRefresh stack bank => Sys2Proof.Machine.execBankRefresh stack bank s
  | .droopDetect pid => Sys2Proof.Machine.execDroopDetect pid s
  | .droopRecovery pid => Sys2Proof.Machine.execDroopRecovery pid s
  | .coreRailClamp => Sys2Proof.Machine.execCoreRailClamp s
  | .clampFloorEnd => Sys2Proof.Machine.execClampFloorEnd s
  | .junctionTrip die => Sys2Proof.Machine.execJunctionTrip die s
  | .firmwareHeartbeatMiss => Sys2Proof.Machine.execFirmwareHeartbeatMiss s
  | .preempt ctx => Sys2Proof.Machine.execPreempt ctx s
  | .clear ctx => Sys2Proof.Machine.execClear ctx s
  | .preemptionHalt fid => Sys2Proof.Machine.execPreemptionHalt fid s
  | .sampleRecord pid => Sys2Proof.Machine.execSampleRecord pid s
  | .stop ctx => Sys2Proof.Machine.execStop ctx s
  | .dbgctlResume ctx => Sys2Proof.Machine.execDbgctlResume ctx s
  | .debugStop fid clu t => Sys2Proof.Machine.execDebugStop fid clu t s
  | .checkScoreboardStop fid clu t => Sys2Proof.Machine.execCheckScoreboardStop fid clu t s
  | .dbgdataWrite ctx v => Sys2Proof.Machine.execDbgdataWrite ctx v s
  | .srseedWrite pid v => Sys2Proof.Machine.execSrseedWrite pid v s
  | .exmaskWrite slot v => Sys2Proof.Machine.execExmaskWrite slot v s
  | .leaseWrite ctx v => Sys2Proof.Machine.execLeaseWrite ctx v s
  | .sampctlWrite ctx v => Sys2Proof.Machine.execSampctlWrite ctx v s
  | .registerWrite page reg v => Sys2Proof.Machine.execRegisterWrite page reg v s
  | .packageReset => Sys2Proof.Machine.execPackageReset s
  | .railsInRegulation => Sys2Proof.Machine.execRailsInRegulation s
  | .firstConfigAccess => Sys2Proof.Machine.execFirstConfigAccess s
  | .controllerRamWrite off v => Sys2Proof.Machine.execControllerRamWrite off v s
  | .start => Sys2Proof.Machine.execStart s
  | .firmwareStartTimeout => Sys2Proof.Machine.execFirmwareStartTimeout s
  | .train => Sys2Proof.Machine.execTrain s
  | .trainComplete fails => Sys2Proof.Machine.execTrainComplete fails s
  | .release => Sys2Proof.Machine.execRelease s
  | .haltfw => Sys2Proof.Machine.execHaltfw s
  | .illegalInstruction tval => Sys2Proof.Machine.execIllegalInstruction tval s
  | .contextCreation ctx priv => Sys2Proof.Machine.execContextCreation ctx priv s
  | .clockStepDown quad => Sys2Proof.Machine.execClockStepDown quad s

end Sys2Proof.Machine
end

