-- ==== Sys2Proof/Machine/Load.lean ====
section
/-! DEFINITION. Turns: which agent acts next and how much time passes; which instructions are acts of the machine or
of the outside on their own; and the placing of one instruction where the next step runs it (log 36). -/

namespace Sys2Proof.Machine

/-! ## Events -/

/-- The rows that are acts on their own. The others are words, or act only as part of a word: CQCTL, SRSEED and
EXMASK writes are SWRs (R139, R188, R358), and an illegal instruction is a fetched word (R33). -/
def isEvent : Instr → Bool
  | .runStart _ _ => true
  | .curveTableLoadFinish _ _ _ => true
  | .copyChunkStart _ _ => true
  | .copyChunkWrite _ _ => true
  | .copyChunkLand _ _ => true
  | .copyChunkFault _ _ => true
  | .codebookLoadFinish _ _ => true
  | .yokeLatchComplete _ _ => true
  | .matrixEntryStart _ => true
  | .matrixRetirement _ _ _ => true
  | .taEntryStart _ => true
  | .taWindowEnd _ _ => true
  | .variableResultLand _ => true
  | .generatorResultArrival _ _ _ _ => true
  | .voteEntryPresent _ _ _ => true
  | .uniResultArrival _ _ _ _ => true
  | .reelPlayFeed _ _ _ _ => true
  | .boundaryTrap _ _ _ => true
  | .threadEnd _ _ _ => true
  | .tableWalk _ _ _ => true
  | .leaseGrant _ _ _ => true
  | .leaseExpiry _ _ => true
  | .homeWritePerform _ => true
  | .stashOwnershipGrant _ _ => true
  | .sectorFillLand _ _ => true
  | .stashRecall _ => true
  | .updateOnlyGrant _ _ _ => true
  | .updateOnlyCombine _ => true
  | .hostCxlMemAccess _ _ _ _ => true
  | .cxlCacheSnoop _ => true
  | .cxlerr _ => true
  | .cxlCompletionTimeout _ => true
  | .instructionFill _ _ _ => true
  | .pftTargetFill _ _ => true
  | .pinRehome _ _ _ => true
  | .pinClrWriteback _ _ _ => true
  | .inval _ _ _ => true
  | .invalAll _ _ _ => true
  | .migrate _ _ _ => true
  | .biasHost _ _ _ => true
  | .biasDev _ _ _ => true
  | .xlcmdFinish _ => true
  | .ttbaseWrite _ _ => true
  | .deferredStageOperation _ _ _ => true
  | .barWaitTimeout _ _ _ => true
  | .bardoor _ _ => true
  | .watchdogReport _ => true
  | .load _ => true
  | .unload _ => true
  | .recordParse _ => true
  | .placementStep => true
  | .headAgeTick => true
  | .flockEnd _ => true
  | .voltageRampReachesTarget _ => true
  | .tokenFlitInject _ => true
  | .spendWindowRollover _ => true
  | .claimPost _ => true
  | .ashareWrite _ _ => true
  | .thallowUpdate _ _ => true
  | .sensorSample _ _ _ _ => true
  | .bankRefresh _ _ => true
  | .droopDetect _ => true
  | .droopRecovery _ => true
  | .coreRailClamp => true
  | .clampFloorEnd => true
  | .junctionTrip _ => true
  | .firmwareHeartbeatMiss => true
  | .preempt _ => true
  | .clear _ => true
  | .preemptionHalt _ => true
  | .sampleRecord _ => true
  | .stop _ => true
  | .dbgctlResume _ => true
  | .debugStop _ _ _ => true
  | .checkScoreboardStop _ _ _ => true
  | .dbgdataWrite _ _ => true
  | .leaseWrite _ _ => true
  | .sampctlWrite _ _ => true
  | .registerWrite _ _ _ => true
  | .packageReset => true
  | .railsInRegulation => true
  | .firstConfigAccess => true
  | .controllerRamWrite _ _ => true
  | .start => true
  | .firmwareStartTimeout => true
  | .train => true
  | .trainComplete _ => true
  | .release => true
  | .haltfw => true
  | .contextCreation _ _ => true
  | .clockStepDown _ => true
  | _ => false

/-! ## The next turn (log 1) -/

/-- The temporal queue's head starts, tried at a moment. -/
def taStarts (s : State) (pid d : Nat) : Bool :=
  let t := { s with now := d }
  ((outState (execTaEntryStart pid t) t).clu pid).ta.ents.head?.any fun e => e.start.isSome

/-- What the engines of a cluster do at an exact moment (ps): matrix entries and temporal entries retire, and a temporal entry
that may start does so before the present cycle ends (R264, R283, R484). Whether an uncorrectable error shows then is free. -/
def engineDue (s : State) (pid : Nat) (c : Cluster) : List (Nat × Exact) :=
  let f := cluMHz s pid
  let after (t0 n : Nat) : Nat := t0 + ceilDiv (n * usPs) f
  let err (k : Nat) : Bool := Config.freeBit s.tick (12288 + k)
  let matrix := c.array.filterMap fun e => e.start.map fun t => (after t e.length, Exact.matrix pid e.tile (err e.tile))
  let edge (t0 n : Nat) : Nat := ceilDiv ((t0 * f / usPs + n) * usPs) f
  let ta := (c.ta.ents.head?).bind fun e => match e.start with
    | none => if taStarts s pid (edge s.now 1 - 1) then some (edge s.now 1 - 1, Exact.entry pid) else none
    | some t =>
      if e.word.op = 0x314 then some (edge t e.cycles, Exact.capture e.id)
      else if e.word.op = 0x313 then some (edge t (5 + ceilDiv (c.ta.window * f) 5400), Exact.window pid (err 4096))
      else some (edge t e.cycles, Exact.entry pid)
  matrix ++ ta.toList

/-- What the ring of a die does as its next cycle begins (ps): claims are posted, and the flit is injected (R408, R415). -/
def ringDue (s : State) (die : Nat) : List (Nat × Exact) :=
  let d := ceilDiv ((s.die die).cycle * usPs) 2700
  let claims := (s.clusters.map (·.1)).filter fun p => decide (p / 64 = die) && claimDue s p
  claims.map (fun p => (d, Exact.claim p)) ++ [(d, Exact.flit die)]

/-- When a cluster samples a thread next (ps): every INTERVAL cycles of its clock (R443). -/
def sampleDue (s : State) (pid : Nat) : Option (Nat × Exact) :=
  match s.flocks.find? fun f => f.2.resident && f.2.clus.contains pid with
  | none => none
  | some (_, f) =>
    let c := s.ctx f.ctx
    if c.sampIv = 0 then none else some (c.sampLast.get pid 0 + ceilDiv (c.sampIv * usPs) (cluMHz s pid), .sample pid)

/-- When the watchdog of a context reports (ps): its counter has reached LIMIT (R383). -/
def wdDue (s : State) (ctx : Nat) : Option (Nat × Exact) :=
  let c := s.ctx ctx
  if wdCounts s ctx then some (c.wdLast + ceilDiv (c.wdLimit * usPs) 2700, .watchdog ctx) else none

/-- When the firmware has had its millisecond without a THALLOW (ps) (R477). -/
def firmwareDue (s : State) : Option (Nat × Exact) :=
  if s.pkg.fwrun then s.pkg.fwStart.map fun t => (t + 1000 * usPs, .firmware) else none

/-- What happens at an exact moment, by the event of its row. -/
def Exact.run (x : Exact) (s : State) : Out :=
  match x with
  | .matrix pid tile err => execMatrixRetirement pid tile err s
  | .window pid err => execTaWindowEnd pid err s
  | .entry pid => execTaEntryStart pid s
  | .capture id => execVariableResultLand id s
  | .claim pid => execClaimPost pid s
  | .flit die => execTokenFlitInject die s
  | .sample pid => execSampleRecord pid s
  | .watchdog ctx => execWatchdogReport ctx s
  | .firmware => execFirmwareStartTimeout s

/-- The earliest of some moments, the first of those that are equal. -/
def earliest : List (Nat × Exact) → Option (Nat × Exact)
  | [] => none
  | e :: es => match earliest es with
    | some x => if x.1 < e.1 then some x else some e
    | none => some e

/-- A line that a migration, a flip or an ended pin window holds keeps it from happening at its moment (log 47). -/
def waitsForLine (s : State) (e : Nat × Exact) : Bool := (outState (e.2.run { s with now := max e.1 s.now }) s).held

/-- Whatever is due at an exact moment. -/
def allDue (s : State) : List (Nat × Exact) :=
  s.clusters.flatMap (fun e => engineDue s e.1 e.2 ++ (sampleDue s e.1).toList) ++ (List.range 8).flatMap (ringDue s)
    ++ s.ctxs.filterMap (fun e => wdDue s e.1) ++ (firmwareDue s).toList

/-- What is due first. -/
def firstDue (s : State) : Option (Nat × Exact) := earliest ((allDue s).filter fun e => !waitsForLine s e)

/-- A turn, and what stands behind it: before time passes beyond a moment at which something is due, that happens, and the
turn waits for the rest of its time. -/
def splitTurn (s : State) (t : Turn) (rest : List Turn) : Turn × List Turn :=
  if t.elapse = 0 ∨ !s.pkg.powered then (t, rest)
  else match firstDue s with
    | none => (t, rest)
    | some (d, x) => if s.now + t.elapse < d then (t, rest) else (⟨d - s.now, .exact x⟩, ⟨t.elapse - (d - s.now), t.act⟩ :: rest)

/-- The turn that is due and the state in which it is taken: the head of the agenda, or a free turn, or what happens before
it at an exact moment. The arbiters of the pipes have noted which runs are ready (R17, R414; log 32). Device time starts with
Stage 0 (R475). -/
def nextTurn (s : State) : Turn × State :=
  let s := noteReady s
  let (t, rest) := match s.agenda with
    | t :: rest => (t, rest)
    | [] => (Config.schedule s.tick, [])
  let (t, rest) := splitTurn s t rest
  (t, { s with agenda := rest, tick := s.tick + 1, now := if s.pkg.powered then s.now + t.elapse else s.now })

/-- A turn at which nothing executes, or the instruction that does, in the state in which it does, or what happens at an exact
moment. -/
inductive Due where
  | idle (s : State)
  | word (s : State) (i : Instr)
  | own (s : State) (i : Instr)
  | lane (s : State) (i : Instr)
  | exact (s : State) (x : Exact)
  deriving Repr

/-- What the next turn executes: an event, an instruction of a thread, or a lane word of a pipe. -/
def due (s : State) : Due :=
  let (t, s) := nextTurn s
  match t.act with
  | .event i => if isEvent i then .own s i else .idle s
  | .exact x => .exact s x
  | .thread tid => match threadTurn s tid with
    | .idle s => .idle s
    | .word s i => .word s i
  | .issue pid pipe => match pipeTurn s pid pipe with
    | .idle s => .idle s
    | .word s _ _ => match decodeLane s.lane.word.w with
      | .ok i => .lane s i
      | .error _ => .idle s

/-! ## Placing one instruction (log 36) -/

/-- Where the placed instruction lies. -/
def codeVa : Nat := 0x1_0000

/-- A flock of one cluster, in context 0, whose one thread is at the placed instruction. -/
def hostFlock : Flock :=
  { (default : Flock) with
    ctx := 0, clus := [0], slots := [[0]], resident := true, rcd := { (default : Record) with image := codeVa, groups := 1 } }

/-- Bytes of code placed for thread (0,0,0): in memory, in the instruction cache of cluster 0, with the thread at
them and the part at Stage 3. -/
def placeCode (s : State) (bs : List Byte) : State :=
  let line := bs ++ List.replicate (256 - bs.length) 0
  let t : Tid := ⟨0, 0, 0⟩
  let s := { s with mem := s.mem.writeList codeVa bs }
  let s := s.modPkg fun p => { p with stage := 3, powered := true }
  let s := s.setFlk 0 hostFlock
  let s := s.modCtx 0 fun c => { c with en := true }
  let s := s.modClu 0 fun c => { c with
    icache := ⟨0, codeVa, line⟩ :: c.icache.filter fun l => !decide ((l.ctx, l.va) = (0, codeVa))
    tlb := ⟨0, 0, codeVa, codeVa, true, true, true, true, 0⟩ :: c.tlb.filter fun e => !decide ((e.ctx, e.va) = (0, codeVa)) }
  let s := s.modDie 0 fun d => { d with tripped := false }
  s.modThr t fun x => { x with
    pc := BitVec.ofNat 64 codeVa, status := .running, wait := none, out := [], held := [], stopped := none
    stopReq := false, stopNext := none, hostOp := none, acqOp := none, popAt := none, ran := false, tried := none }

/-- A lane word placed as the next word of a run on pipe 0 of cluster 0, for slot 0 of the same flock, with
tokens to pay for it. -/
def placeLane (s : State) (w : BitVec 64) : State :=
  let t : Tid := ⟨0, 0, 0⟩
  let e : EWord := { EWord.nop with w := w }
  let r : Run := ⟨0, [e], encLane 0x380 ({ (default : LaneWord) with sel := 12 }), 0⟩
  let s := s.modThr t fun x => { x with
    streams := x.streams.set 0 { Stream.unbound with gmask := 1, cmask := 1, seq := 2, nextRun := 1, runs := [r] }, current := some 0 }
  let s := s.modCtx 0 fun c => { c with check := false }
  s.modClu 0 fun c => { c with
    pipes := c.pipes.set 0 (freshRun s t 0 0 r), purse := { c.purse with tokens := 4096, cut := none, payers := [], fresh := [], pass := none } }

/-- A word of the opcode table placed so that the next step runs it: a lane word other than the trailer on a pipe,
every other instruction at the thread's PC. -/
def placeWord (s : State) (nbits w : Nat) : State :=
  let x : BitVec 64 := BitVec.ofNat 64 w
  let s := placeCode s (leBytes 8 (w % 2 ^ nbits))
  if nbits = 64 ∧ lCls x = 3 ∧ lOp x ≠ 0x380 then { placeLane s x with agenda := [⟨0, .issue 0 0⟩] }
  else { s with agenda := [⟨0, .thread ⟨0, 0, 0⟩⟩] }

end Sys2Proof.Machine
end

