-- ==== Sys2Proof/Machine/Step.lean ====
section
/-! DEFINITION. One step: one turn of one agent. -/

namespace Sys2Proof.Machine

/-- One step of the machine. A turn that meets a line that something holds has not happened yet, but for the time that has
passed and, for a thread, the fetch of its word (R89, R93, R114). A lane word that turns out to be held gives its pipe back
where its run has not started (R17). -/
def step (s : State) : Host.Outcome State Fault Refusal :=
  match due s with
  | .idle t => .next (endTurn (nextTurn s).2 t)
  | .own t i => match exec i t with
    | .next u => .next (endTurn (nextTurn s).2 u)
    | .fault f => .fault f
    | .refused r => .refused r
  | .lane t i => match exec i t with
    | .next u => .next (endTurn (nextTurn s).2 (giveBack u))
    | .fault f => .fault f
    | .refused r => .refused r
  | .exact t x => match x.run t with
    | .next u => .next (endTurn (nextTurn s).2 u)
    | .fault f => .fault f
    | .refused r => .refused r
  | .word t i => match exec i t with
    | .next u => .next (endTurn t (afterAttempt i t u))
    | .fault f => .fault f
    | .refused r => .refused r

/-- An instruction placed where the next step runs it. -/
def State.withFetchWord (s : State) (nbits w : Nat) : State := placeWord s nbits w

end Sys2Proof.Machine
end

