-- ==== Sys2Proof/Safety.lean ====
section
/-! DEFINITION. What counts as a safe run: the memories of the state keep their canonical form, so that equal
memories are equal data, and a step does not stop. -/

namespace Sys2Proof.Machine

/-- Every memory of the state is in canonical form: main memory (R73), the local SRAMs (R142), the weight planes
(R251), those that pre-empted flocks hold among them (R438), and the controller RAM (R477). -/
def State.wf (s : State) : Bool :=
  s.mem.wf && s.pkg.ctlRam.wf && s.locals.all (fun e => Mem.wf e.2) && s.clusters.all (fun e => Mem.wf e.2.plane)
    && s.flocks.all (fun e => e.2.saved.all fun v => Mem.wf v.plane)

/-- A step is safe where it answers a next state. -/
def Safe (s : State) : Prop := ∃ t, step s = .next t

/-- A run of some steps is safe where each of them is. -/
def SafeRun : Nat → State → Prop
  | 0, _ => True
  | k + 1, s => ∃ t, step s = .next t ∧ SafeRun k t

end Sys2Proof.Machine
end

