-- ==== Sys2Proof/Certificates/Slice0/Obligations.lean ====
section
/-! DEFINITION. The statements about the model: one proposition for each obligation, over the shared forms at the
head of the file. -/

namespace Sys2Proof.Claims

open Sys2Proof Sys2Proof.Machine

/-! ## Shared forms -/

/-- The answer is a next state with a property. -/
def Goes (o : Out) (P : State → Prop) : Prop := ∃ t, o = .next t ∧ P t

/-- Every byte of main memory reads as before. -/
def SameMem (s t : State) : Prop := ∀ a, t.mem.read a = s.mem.read a

/-- Nothing but one thread has changed. -/
def OnlyThread (s t : State) (u : Tid) : Prop :=
  t = { s with threads := t.threads } ∧ ∀ v, v ≠ u → t.thr v = s.thr v

/-- Of the thread in focus only the program counter and the general registers may have changed; of the rest of the
machine, nothing. -/
def OnlyRegs (s t : State) : Prop :=
  OnlyThread s t s.cur ∧ SameMem s t ∧ me t = { me s with pc := (me t).pc, g := (me t).g }

/-- One general register holds a new value, g0 reads 0, every other register its old value (R319). -/
def RegIs (s t : State) (d : Nat) (v : Word64) : Prop :=
  ∀ r, (me t).gr r = if r = d ∧ r ≠ 0 then v else (me s).gr r

/-- An instruction of `n` bytes of code that writes `v` to one general register, goes on after itself, and changes
nothing else. -/
def Writes (s : State) (o : Out) (n : Nat) (d : GReg) (v : Word64) : Prop :=
  Goes o fun t => OnlyRegs s t ∧ (me t).pc = (me s).pc + BitVec.ofNat 64 n ∧ RegIs s t d.toNat v

/-- A scalar floating-point word: the register is written and the thread goes on at the next parcel; the rest of the
thread is as before, and so is the rest of the machine where the context enables none of the events (R195, R433). -/
def FloatGoes (s : State) (o : Out) (d : GReg) (v : Word64) : Prop :=
  Goes o fun t => RegIs s t d.toNat v ∧ (me t).pc = (me s).pc + 4
    ∧ me t = { me s with pc := (me t).pc, g := (me t).g } ∧ (∀ u, u ≠ s.cur → t.thr u = s.thr u)
    ∧ ((s.ctx (myCtx s)).aelEn = 0 → OnlyRegs s t)

/-- The state with the program counter of the thread in focus at an address, and nothing else changed. -/
def At (s : State) (pc : Word64) : State := s.setThr s.cur { me s with pc := pc }

/-- The state after a precise trap of the thread in focus (R332): the handler is entered, or, where INTRAP is 1 or
there is no handler, the thread halts. -/
def Trapped (s : State) (cause : Cause) (value resume : Word64) : State :=
  if (me s).intrap = true ∨ (me s).tvec.toNat / 4 = 0 then haltThread s s.cur cause value resume
  else s.setThr s.cur { me s with
    tpc := resume, tcause := cause.code, tval := value, intrap := true, wait := none, popAt := none
    pc := BitVec.ofNat 64 (4 * ((me s).tvec.toNat / 4)) }

/-- The system-register numbers that R323 assigns. -/
def Assigned (n : Nat) : Prop :=
  n ≤ 0x007 ∨ (0x010 ≤ n ∧ n ≤ 0x01C) ∨ (0x020 ≤ n ∧ n ≤ 0x025) ∨ (0x040 ≤ n ∧ n ≤ 0x043) ∨ (0x080 ≤ n ∧ n ≤ 0x0AF)

/-- What an assigned number reads as, field by field (R324, R84, R94, R105, R118, R164, R303, R357, R412); a write-only
register reads 0 (R7). The status registers of the engines read through their own functions (R139, R249, R270, R273). -/
def RegValue (s : State) (n : Nat) : Word64 :=
  let x := me s
  let c := s.ctx (myCtx s)
  let k := s.clu (myPid s)
  let u (v : Nat) : Word64 := BitVec.ofNat 64 v
  let bit (b : Bool) : Nat := if b then 1 else 0
  let group (slot : Nat) (f : Group → Nat) : Word64 :=
    u (if slot < (myFlk s).rcd.groups then f (s.grp s.cur.fid s.cur.clu slot) else 0)
  if 0x080 ≤ n ∧ n ≤ 0x08F then group (n - 0x080) (·.ex)
  else if 0x090 ≤ n ∧ n ≤ 0x09F then group (n - 0x090) (·.park)
  else if 0x0A0 ≤ n ∧ n ≤ 0x0AF then group (n - 0x0A0) (·.exit)
  else match n with
  | 0x000 => x.tpc
  | 0x001 => u x.tcause
  | 0x002 => x.tval
  | 0x003 => u (2 * bit c.priv + bit x.intrap)
  | 0x004 => x.tvec
  | 0x005 => x.tscr
  | 0x006 => u (s.cur.clu * 2 ^ 16 + (match x.role with
      | .copy => 0
      | .matrix => 1
      | .vector => 2) * 2 ^ 8 + s.cur.t)
  | 0x007 => u x.yoke
  | 0x010 => u (s.now / 1000)
  | 0x011 => u c.leaseNs
  | 0x012 => c.hintdrop
  | 0x013 => c.pincap
  | 0x014 => u ((List.range 8).map fun d => c.pinuse.getD d 0 * 2 ^ (8 * d)).sum
  | 0x016 => u (k.pinb * 2 ^ 8 + k.wpb)
  | 0x017 => u (stashstat s s.cur.fid (myPid s))
  | 0x018 => u (cqstat s (myPid s))
  | 0x01A => u (mqstat s (myPid s))
  | 0x01B => u (tkwin s (myPid s))
  | 0x01C => u (tastat s (myPid s))
  | 0x020 => u (c.root * 2 ^ 12 + bit c.en)
  | 0x021 => u (bit c.xlmode)
  | 0x022 => c.xlarg0
  | 0x023 => c.xlarg1
  | 0x025 => u (c.xlseq * 2 ^ 32 + c.xlerr * 2 ^ 4 + bit c.xlovr * 2 + bit c.xl.isSome)
  | 0x040 => u (thallow s (myPid s))
  | 0x041 => u (opclass s (myPid s))
  | 0x042 => u (purseReg s (myPid s))
  | 0x043 => u (c.ashare.headD (0, 4096)).2
  | _ => 0

/-- No access has joined, left or changed, but for completion times that writes were owed. -/
def SameOps (s t : State) : Prop :=
  t.ops.map (fun o => { o with gw := none }) = s.ops.map fun o => { o with gw := none }

/-- An access has joined the machine as the newest one, with its operands; of the other accesses only completion times that
writes were owed, and no group, flock or other thread, have changed. -/
def AccessIssued (s t : State) (va pa n : Nat) (deed : Deed) (dest : Dest) : Prop :=
  (∃ (o : MemOp) (before : List MemOp), t.ops = before ++ [o] ∧ SameOps s { s with ops := before } ∧ o.id = s.nextId ∧ o.tid = s.cur ∧ o.pid = myPid s ∧ o.str = none
    ∧ o.place = .glob va pa ∧ o.n = n ∧ o.deed = deed ∧ o.dest = dest ∧ o.made = none)
  ∧ t.nextId = s.nextId + 1 ∧ (∀ u, u ≠ s.cur → t.thr u = s.thr u) ∧ t.groups = s.groups ∧ t.flocks = s.flocks
  ∧ t.cur = s.cur

/-- Every constructor field of a state but some clusters' contents is kept. -/
def OnlyClusters (s t : State) : Prop := t = { s with clusters := t.clusters }

/-- The answer of a step whose turn began in a state: a turn that met a held line has not happened yet (R89, R93, R114). -/
def Ends (base : State) (o : Out) : Out :=
  match o with
  | .next u => .next (endTurn base u)
  | .fault f => .fault f
  | .refused r => .refused r

/-- Nothing is due at an exact moment before a turn that takes some time. -/
def NothingDue (s : State) (elapse : Nat) : Prop :=
  elapse = 0 ∨ s.pkg.powered = false ∨ ∀ e, firstDue s = some e → s.now + elapse < e.1

/-- The three masks of a slot are 32 bits wide and share no bit (R357). -/
def MasksApart (g : Group) : Prop :=
  g.ex < 2 ^ 32 ∧ g.park < 2 ^ 32 ∧ g.exit < 2 ^ 32 ∧ g.ex &&& g.park = 0 ∧ g.ex &&& g.exit = 0 ∧ g.park &&& g.exit = 0

end Sys2Proof.Claims

open Sys2Proof Sys2Proof.Machine Sys2Proof.Claims

/-! ## Encoding and decoding -/

/-- R29 to R35, R54: every well-formed instruction that has words is read back from them, with every operand: at an
8-byte-aligned address where it is 64 bits long, and elsewhere where it is no lane word, whatever follows it. -/
def Obligations.EncodingRoundTrip : Prop :=
  ∀ (i : Instr) (n w : Nat), i.wf = true → encode i = some (n, w) →
    decodeTableWord n w = some i
    ∧ (n = 64 → ∀ rest, decode true (leBytes 8 w ++ rest) = .ok (i, rest))
    ∧ (n = 32 ∨ lCls (BitVec.ofNat 64 w) ≠ 3 → ∀ rest, decode false (leBytes (n / 8) w ++ rest) = .ok (i, rest))
    ∧ (n = 32 → ∀ rest, rest.length < 4 ∨ pCls (BitVec.ofNat 32 (leNat (rest.take 4))) ≠ 3 →
        decode true (leBytes 4 w ++ rest) = .ok (i, rest))

/-- R28, R33, R54: what the decoder accepts is well formed, and the bytes it has read are that instruction's words: no
reserved encoding is read as an instruction, and no two words as one. -/
def Obligations.DecodedWordsWellFormed : Prop :=
  ∀ (al : Bool) (bs rest : List Byte) (i : Instr), decode al bs = .ok (i, rest) →
    i.wf = true ∧ ∃ n w, encode i = some (n, w) ∧ bs = leBytes (n / 8) w ++ rest

/-- Words that the spec assembles bit by bit in its worked examples decode to the instructions that they stand for. -/
def Obligations.DecodeWords : Prop :=
  decodeTableWord 32 0x600A_2810 = some (.addi true 5 5 16)
  ∧ decodeTableWord 64 0x440E_0789_5FA4_68AC = some (.moviLong false 7 0x24_68AC 0x789)
  ∧ decodeTableWord 32 0x1F08_28C2 = some (.pinSet false 4 5 6 true false)
  ∧ decodeTableWord 32 0x1EB8_53CA = some (.gatom false 28 10 30 10)
  ∧ decodeTableWord 32 0x4D16_52C0 = some (.stgB32 false 11 10 1 false 6 0)
  ∧ decodeTableWord 32 0x4B32_E200 = some (.ldgB64 false 25 28 1 false 0)
  ∧ decodeTableWord 32 0x1200_0016 = some (.fence false 2 6)
  ∧ decodeTableWord 32 0x1280_5182 = some (.icinv false 10 12 2)
  ∧ decodeTableWord 32 0x4E06_0010 = some (.srd false 3 0x010)
  ∧ decodeTableWord 32 0x140A_3003 = some (.barNew false 5 6 0 false 3)
  ∧ decodeTableWord 32 0x1E08_28C0 = some (.launch false 4 5 6)
  ∧ decodeTableWord 32 0x1A00_3803 = some (.strBind false 7 0 3)
  ∧ decodeTableWord 32 0x132C_0000 = some (.vqPop false 22)
  ∧ decodeTableWord 32 0x1D80_20A1 = some (.unpark false 4 5 true)
  ∧ decodeTableWord 64 0xF800_0000_0006_0000 = some (.trl ⟨0, 0, 0, 0, false, 12, 0, false, 0⟩)
  ∧ decodeTableWord 64 0xC000_202C_3008_0580 = some (.iadd ⟨2, 2, 0xC3, 0, true, 0, 0, true, 0x180⟩)
  ∧ decodeTableWord 64 0xC830_401C_5041_A680 = some (.ffma ⟨4, 1, 0xC5, 4, false, 3, 4, true, 0x280⟩)
  ∧ decodeTableWord 64 0xE031_4080_0006_010A = some (.reduce ⟨0x14, 8, 0, 0, false, 12, 0, false, 0x10A⟩)
  ∧ decodeTableWord 64 0xE850_1C50_2006_0620 = some (.red ⟨1, 0xC5, 2, 0, false, 12, 0, true, 0x220⟩)
  ∧ decodeTableWord 64 0xF040_0DDC_0CC6_0404 = some (.cpset ⟨0, 0xDD, 0xC0, 0xCC, false, 12, 0, true, 4⟩)
  ∧ decodeTableWord 64 0xF080_0CEC_60D6_04B4 = some (.mm ⟨0, 0xCE, 0xC6, 0x0D, false, 12, 0, true, 0xB4⟩)
  ∧ decodeTableWord 64 0xF120_0C60_0006_0001 = some (.taMode ⟨0, 0xC6, 0, 0, false, 12, 0, false, 1⟩)

/-! ## Reset and invariants -/

/-- R94, R105, R357, R407, R417, R476 to R478: the values that package reset leaves. The general state of a part with
no context and no flock: nothing runs, no queue is loaded. (Memory that nothing has written reads 0, temperatures are
0 and the ports are all ones: the model's choices, logs 5, 7 and 11.) -/
def Sys2Proof.Claims.ResetValues : Prop :=
  let s := State.reset
  s.pkg.stage = 0 ∧ s.pkg.fwrun = false ∧ s.pkg.err = 0 ∧ s.pkg.stkfail = 0 ∧ s.pkg.bootq = 0 ∧ s.pkg.qtbase = 0
  ∧ (∀ k, (s.quad k).f = 0 ∧ (s.quad k).t = 0 ∧ (s.quad k).mv = 580 ∧ (s.quad k).ramp = false ∧ (s.quad k).temp = 0)
  ∧ (∀ d, (s.die d).palow = 64 ∧ (s.die d).tallow = 64 ∧ (s.die d).safe = true ∧ (s.die d).tripped = false ∧ (s.die d).tj = 0)
  ∧ (∀ h, (s.stk h).temp = 0 ∧ (s.stk h).dbl = false)
  ∧ (∀ p, (s.clu p).wpb = 4 ∧ (s.clu p).pinb = 0 ∧ (s.clu p).pipes = [] ∧ (s.clu p).stash = [])
  ∧ (∀ q, (s.que q).loaded = false) ∧ (∀ f, (s.flk f).resident = false)
  ∧ (∀ f m k, (s.grp f m k).ex = 2 ^ 32 - 1 ∧ (s.grp f m k).park = 0 ∧ (s.grp f m k).exit = 0)
  ∧ s.ops = [] ∧ s.threads = [] ∧ ∀ a, s.mem.read a = 0

/-- The memories of the state after reset have their canonical form, and its masks share no bit. -/
def Sys2Proof.Claims.ResetKeepsForm : Prop :=
  State.reset.wf = true ∧ ∀ e ∈ State.reset.groups, Sys2Proof.Claims.MasksApart e.2

/-- What package reset leaves, in the form that every step keeps.
The model's own readings in it: logs 5, 7, 11. -/
def Obligations.ResetState : Prop :=
  Sys2Proof.Claims.ResetValues ∧ Sys2Proof.Claims.ResetKeepsForm

/-- From every state in which every memory (R73, R142, R251, R438, R477) has its canonical form, the model's own, a step leads
to such a state. -/
def Obligations.StepKeepsMemories : Prop :=
  ∀ s t : State, s.wf = true → step s = .next t → t.wf = true

/-- R357: the three masks of one slot never share a bit, whatever executes. -/
def Obligations.StepKeepsMasksApart : Prop :=
  ∀ s t : State, (∀ e ∈ s.groups, Sys2Proof.Claims.MasksApart e.2) → step s = .next t →
    ∀ e ∈ t.groups, Sys2Proof.Claims.MasksApart e.2

/-- Nothing that a step executes is refused, and only a host access outside device memory (R74) or a write beyond the
controller RAM (R477) stops it: that these stop is the model's choice (log 93).
The model's own readings in it: log 93. -/
def Obligations.StepNeverRefuses : Prop :=
  ∀ s : State, (∃ t, step s = .next t) ∨ ∃ a, step s = .fault (.noSuchAddress a)
    ∧ ((∃ op pa n d, due s = .own (nextTurn s).2 (.hostCxlMemAccess op pa n d)) ∨ ∃ v, due s = .own (nextTurn s).2 (.controllerRamWrite a v))

/-! ## A step runs the decoded instruction -/

/-- R27, R28: the instruction at PC. Where the line of code at PC is in the cluster's instruction cache, and for the
last parcel of a line the next line too, the thread's instruction is the one that those bytes decode to, a lane word
being emitted; and fetching it changes no more than the order of the cached lines. -/
def Sys2Proof.Claims.FetchDecodes : Prop :=
  ∀ (s : State) (l m rest : List Byte) (i : Instr),
    let pc := (me s).pc.toNat
    let ctx := (myFlk s).ctx
    let has (va : Nat) (d : List Byte) : Prop := ((s.clu (myPid s)).icache.find? fun x => decide ((x.ctx, x.va) = (ctx, va))) = some ⟨ctx, va, d⟩
    canonical pc = true → has (pc / 256 * 256) l → l.length = 256 →
    (pc % 256 = 252 → isPrefix (BitVec.ofNat 32 (leNat (l.drop 252))) = true →
      canonical ((pc + 4) % 2 ^ 64) = true ∧ has ((pc + 4) % 2 ^ 64) m ∧ m.length = 256) →
    decode (decide (pc % 8 = 0)) (l.drop (pc % 256) ++ if pc % 256 = 252 then m else []) = .ok (i, rest) →
    (fetchInstr s).1 = { s with clusters := (fetchInstr s).1.clusters }
    ∧ ((∀ n w, encode i = some (n, w) → n = 32 ∨ lCls (BitVec.ofNat 64 w) ≠ 3) → (fetchInstr s).2 = .ok i)
    ∧ ∀ w : BitVec 64, encode i = some (64, w.toNat) → lCls w = 3 →
        (fetchInstr s).2 = .ok (match i with
          | .trl x => .trl x
          | _ => .laneWordEmit w)

/-- R320, R321, R423, R447: on its turn a thread that can run, with no stop, no pre-emption and no trap due, and no
register of its instruction outstanding, executes the instruction that it fetches where the arbiter of its core lets it
issue, or where it waits inside that instruction; its issue counts as progress (R383), and the sampler sees it and the safe
point that it executed (R443). An outstanding register keeps it back. The arbiters of the pipes have noted before which runs
are ready (log 32). -/
def Sys2Proof.Claims.TurnExecutes : Prop :=
  ∀ (s : State) (dt : Nat) (u : Tid) (rest : List Turn) (i : Instr),
    s.agenda = ⟨dt, .thread u⟩ :: rest → Sys2Proof.Claims.NothingDue (noteReady s) dt →
    let base : State := { noteReady s with agenda := rest, tick := s.tick + 1, now := if s.pkg.powered then s.now + dt else s.now }
    let s0 : State := { base with cur := u }
    let x := me s0
    canRun s0 u = true → x.hostOp = none → (myFlk s0).preReq = false → x.stopNext = none → x.stopReq = false →
    (∀ k, k < 4 → (s0.ctx (s0.ctxOf u)).bps.getD k 0 ≠ x.pc.toNat ∨ x.pc = 0) →
    (x.held = [] ∨ x.intrap = true ∨ x.wait.isSome = true) → (fetchInstr s0).2 = .ok i → (fetchInstr s0).1.held = false →
    let v := (fetchInstr s0).1
    let w : State := modMe v fun y => { y with
      resumed := false
      tried := some v.now }
    (scoreboardHolds (me v) i = false → ((me v).wait.isSome = true ∨ mayIssue v u = true) → step s = match exec i w with
      | .next t => .next (endTurn w (afterAttempt i w t))
      | .fault f => .fault f
      | .refused r => .refused r)
    ∧ (scoreboardHolds (me v) i = true → step s = .next (endTurn base v))

/-- On an event's turn it is executed; on a pipe's turn the next word of its run is, once it is ready, and a run whose first
word is held gives its pipe back (R17, R39); and before
time passes beyond a moment at which something is due, that happens (R264, R283, R408, R484). -/
def Sys2Proof.Claims.EventsAndPipes : Prop :=
  ∀ (s : State) (dt : Nat) (rest : List Turn),
    let r := noteReady s
    let s0 : State := { r with agenda := rest, tick := s.tick + 1, now := if s.pkg.powered then s.now + dt else s.now }
    (∀ i, s.agenda = ⟨dt, .event i⟩ :: rest → Sys2Proof.Claims.NothingDue r dt → isEvent i = true →
      step s = Sys2Proof.Claims.Ends s0 (exec i s0))
    ∧ (∀ act d x, s.agenda = ⟨dt, act⟩ :: rest → dt ≠ 0 → s.pkg.powered = true → firstDue r = some (d, x) → d ≤ s.now + dt →
        let s1 : State := { r with agenda := ⟨dt - (d - s.now), act⟩ :: rest, tick := s.tick + 1, now := s.now + (d - s.now) }
        step s = Sys2Proof.Claims.Ends s1 (x.run s1))
    ∧ ∀ pid k p w i, s.agenda = ⟨dt, .issue pid k⟩ :: rest → Sys2Proof.Claims.NothingDue r dt → (s0.clu pid).pipes.find k = some p →
        p.run.words[p.pos]? = some w → decodeLane w.w = .ok i → lOp w.w ≠ 0x380 → p.replay = false → p.ready ≤ s0.now →
        (s0.die (pid / 64)).tripped = false → (s0.ctx (s0.ctxOf p.tid)).check = false →
        step s = Sys2Proof.Claims.Ends s0 (match exec i (focusWord s0 pid k p w 0) with
          | .next u => .next (giveBack u)
          | o => o)

/-- R27, R28, R320: a step runs the decoded instruction.
The model's own readings in it: log 32. -/
def Obligations.StepRunsDecoded : Prop :=
  Sys2Proof.Claims.FetchDecodes ∧ Sys2Proof.Claims.TurnExecutes ∧ Sys2Proof.Claims.EventsAndPipes

/-- R325: the 64-bit integer words of the R format. Every value is written out from the rule's table, over the
exact integers that the operands denote; the word goes on at the next parcel and changes nothing else. -/
def Obligations.ScalarInteger : Prop :=
  ∀ (sb : Bool) (d a b : GReg) (s : State),
    let x := rd s a
    let y := rd s b
    let n := (y.extractLsb' 0 8).toNat
    let q : Int := if y.toInt = 0 then -1 else Int.tdiv x.toInt y.toInt
    Writes s (exec (.add sb d a b) s) 4 d (BitVec.ofInt 64 (x.toInt + y.toInt))
    ∧ Writes s (exec (.sub sb d a b) s) 4 d (BitVec.ofInt 64 (x.toInt - y.toInt))
    ∧ Writes s (exec (.mul sb d a b) s) 4 d (BitVec.ofInt 64 (x.toInt * y.toInt))
    ∧ Writes s (exec (.mulh sb d a b) s) 4 d (BitVec.ofInt 64 (x.toInt * y.toInt / 2 ^ 64))
    ∧ Writes s (exec (.mulhu sb d a b) s) 4 d (BitVec.ofNat 64 (x.toNat * y.toNat / 2 ^ 64))
    ∧ Writes s (exec (.div sb d a b) s) 4 d (BitVec.ofInt 64 q)
    ∧ Writes s (exec (.divu sb d a b) s) 4 d
        (BitVec.ofNat 64 (if y.toNat = 0 then 2 ^ 64 - 1 else x.toNat / y.toNat))
    ∧ Writes s (exec (.rem sb d a b) s) 4 d (BitVec.ofInt 64 (if y.toInt = 0 then x.toInt else x.toInt - y.toInt * q))
    ∧ Writes s (exec (.andR sb d a b) s) 4 d (BitVec.ofNat 64 (x.toNat &&& y.toNat))
    ∧ Writes s (exec (.orR sb d a b) s) 4 d (BitVec.ofNat 64 (x.toNat ||| y.toNat))
    ∧ Writes s (exec (.xorR sb d a b) s) 4 d (BitVec.ofNat 64 (x.toNat ^^^ y.toNat))
    ∧ Writes s (exec (.shlR sb d a b) s) 4 d (BitVec.ofNat 64 (x.toNat * 2 ^ n))
    ∧ Writes s (exec (.shrR sb d a b) s) 4 d (BitVec.ofNat 64 (x.toNat / 2 ^ n))
    ∧ Writes s (exec (.sarR sb d a b) s) 4 d (BitVec.ofInt 64 (x.toInt / 2 ^ n))
    ∧ Writes s (exec (.minR sb d a b) s) 4 d (BitVec.ofInt 64 (min x.toInt y.toInt))
    ∧ Writes s (exec (.maxR sb d a b) s) 4 d (BitVec.ofInt 64 (max x.toInt y.toInt))
    ∧ Writes s (exec (.slt sb d a b) s) 4 d (if x.toInt < y.toInt then 1 else 0)
    ∧ Writes s (exec (.sltu sb d a b) s) 4 d (if x.toNat < y.toNat then 1 else 0)
    ∧ Writes s (exec (.seq sb d a b) s) 4 d (if x = y then 1 else 0)
    ∧ Writes s (exec (.csel sb d a b) s) 4 d (if x ≠ 0 then y else rd s d)
    ∧ Writes s (exec (.popc sb d a) s) 4 d (BitVec.ofNat 64 ((List.range 64).filter fun i => x.getLsbD i).length)
    ∧ ∃ c : Nat, c ≤ 64 ∧ x.toNat < 2 ^ (64 - c) ∧ (c < 64 → 2 ^ (63 - c) ≤ x.toNat)
        ∧ Writes s (exec (.clz sb d a) s) 4 d (BitVec.ofNat 64 c)

/-- R326 and R32: the integer words of the I format, with the sign-extended 11-bit immediate in the short form and
the 34-bit immediate ext23 : imm11 in the long form; the shifts take a 6-bit count and have no long form, MOVI and INSH
no ga field; a word that breaks this is no instruction (R33). -/
def Obligations.ImmediateInteger : Prop :=
  ∀ (sb : Bool) (d a : GReg) (imm : BitVec 11) (ext : BitVec 23) (cnt : BitVec 6) (s : State),
    let x := rd s a
    let old := rd s d
    let i : Int := imm.toInt
    let j : Int := (ext ++ imm).toInt
    let insh (v : Int) : Word64 := BitVec.ofNat 64 ((v % 2 ^ 30).toNat * 2 ^ 34 + old.toNat % 2 ^ 34)
    Writes s (exec (.addi sb d a imm) s) 4 d (BitVec.ofInt 64 (x.toInt + i))
    ∧ Writes s (exec (.andi sb d a imm) s) 4 d (x &&& BitVec.ofInt 64 i)
    ∧ Writes s (exec (.ori sb d a imm) s) 4 d (x ||| BitVec.ofInt 64 i)
    ∧ Writes s (exec (.xori sb d a imm) s) 4 d (x ^^^ BitVec.ofInt 64 i)
    ∧ Writes s (exec (.shli sb d a cnt) s) 4 d (BitVec.ofNat 64 (x.toNat * 2 ^ cnt.toNat))
    ∧ Writes s (exec (.shri sb d a cnt) s) 4 d (BitVec.ofNat 64 (x.toNat / 2 ^ cnt.toNat))
    ∧ Writes s (exec (.sari sb d a cnt) s) 4 d (BitVec.ofInt 64 (x.toInt / 2 ^ cnt.toNat))
    ∧ Writes s (exec (.slti sb d a imm) s) 4 d (if x.toInt < i then 1 else 0)
    ∧ Writes s (exec (.sltiu sb d a imm) s) 4 d (if x.toNat < (i % 2 ^ 64).toNat then 1 else 0)
    ∧ Writes s (exec (.movi sb d imm) s) 4 d (BitVec.ofInt 64 i)
    ∧ Writes s (exec (.insh sb d imm) s) 4 d (insh i)
    ∧ Writes s (exec (.addiLong sb d a ext imm) s) 8 d (BitVec.ofInt 64 (x.toInt + j))
    ∧ Writes s (exec (.andiLong sb d a ext imm) s) 8 d (x &&& BitVec.ofInt 64 j)
    ∧ Writes s (exec (.oriLong sb d a ext imm) s) 8 d (x ||| BitVec.ofInt 64 j)
    ∧ Writes s (exec (.xoriLong sb d a ext imm) s) 8 d (x ^^^ BitVec.ofInt 64 j)
    ∧ Writes s (exec (.sltiLong sb d a ext imm) s) 8 d (if x.toInt < j then 1 else 0)
    ∧ Writes s (exec (.sltiuLong sb d a ext imm) s) 8 d (if x.toNat < (j % 2 ^ 64).toNat then 1 else 0)
    ∧ Writes s (exec (.moviLong sb d ext imm) s) 8 d (BitVec.ofInt 64 j)
    ∧ Writes s (exec (.inshLong sb d ext imm) s) 8 d (insh j)
    ∧ (let w (op : BitVec 6) : BitVec 32 := (1 : BitVec 2) ++ BitVec.ofBool sb ++ op ++ d ++ a ++ imm
      let short (op : BitVec 6) : Option Instr := decodeTableWord 32 (w op).toNat
      let long (op : BitVec 6) : Option Instr :=
        decodeTableWord 64 (((1 : BitVec 2) ++ (0 : BitVec 1) ++ op ++ d ++ a ++ imm) ++ ((1 : BitVec 2) ++ BitVec.ofBool sb ++ (0x3F : BitVec 6) ++ ext)).toNat
      let only (ok : Prop) [Decidable ok] (i : Instr) : Option Instr := if ok then some i else none
      let fits : Prop := imm.toNat < 64
      let count := imm.extractLsb' 0 6
      short 0x00 = some (.addi sb d a imm) ∧ short 0x01 = some (.andi sb d a imm) ∧ short 0x02 = some (.ori sb d a imm)
      ∧ short 0x03 = some (.xori sb d a imm) ∧ short 0x07 = some (.slti sb d a imm) ∧ short 0x0A = some (.sltiu sb d a imm)
      ∧ (fits → short 0x04 = some (.shli sb d a count) ∧ short 0x05 = some (.shri sb d a count) ∧ short 0x06 = some (.sari sb d a count))
      ∧ (¬fits → short 0x04 = none ∧ short 0x05 = none ∧ short 0x06 = none)
      ∧ long 0x04 = none ∧ long 0x05 = none ∧ long 0x06 = none
      ∧ short 0x08 = only (a = 0) (.movi sb d imm) ∧ short 0x09 = only (a = 0) (.insh sb d imm)
      ∧ long 0x08 = only (a = 0) (.moviLong sb d ext imm) ∧ long 0x09 = only (a = 0) (.inshLong sb d ext imm)
      ∧ long 0x00 = some (.addiLong sb d a ext imm) ∧ long 0x01 = some (.andiLong sb d a ext imm) ∧ long 0x02 = some (.oriLong sb d a ext imm)
      ∧ long 0x03 = some (.xoriLong sb d a ext imm) ∧ long 0x07 = some (.sltiLong sb d a ext imm) ∧ long 0x0A = some (.sltiuLong sb d a ext imm))

/-- R330 and R30: a branch goes to its own address plus four times its signed offset where its comparison holds, and
to the next parcel elsewhere; JMP and CALL always go, and CALL writes the address of the parcel after it to g63.
Nothing else changes. A target in the middle of a lane word is an illegal generator word, TPC the target. -/
def Obligations.Branches : Prop :=
  ∀ (sb : Bool) (a b : GReg) (off : BitVec 11) (far : BitVec 23) (s : State),
    let x := rd s a
    let y := rd s b
    let pc := (me s).pc
    let go (taken : Prop) [Decidable taken] : Out :=
      .next (At s (if taken then BitVec.ofInt 64 (pc.toNat + 4 * off.toInt) else pc + 4))
    exec (.beq sb a b off) s = go (x = y)
    ∧ exec (.bne sb a b off) s = go (x ≠ y)
    ∧ exec (.blt sb a b off) s = go (x.toInt < y.toInt)
    ∧ exec (.bge sb a b off) s = go (y.toInt ≤ x.toInt)
    ∧ exec (.bltu sb a b off) s = go (x.toNat < y.toNat)
    ∧ exec (.bgeu sb a b off) s = go (y.toNat ≤ x.toNat)
    ∧ exec (.jmp sb far) s = .next (At s (BitVec.ofInt 64 (pc.toNat + 4 * far.toInt)))
    ∧ Goes (exec (.call sb far) s) fun t =>
        OnlyRegs s t ∧ RegIs s t 63 (pc + 4) ∧ (me t).pc = BitVec.ofInt 64 (pc.toNat + 4 * far.toInt)
    ∧ (pc.toNat % 4 = 0 → (BitVec.ofInt 64 (pc.toNat + 4 * off.toInt)).toNat % 4 = 0 ∧ (BitVec.ofInt 64 (pc.toNat + 4 * far.toInt)).toNat % 4 = 0)
    ∧ (let near (op : BitVec 6) : Option Instr := decodeTableWord 32 ((2 : BitVec 2) ++ BitVec.ofBool sb ++ op ++ a ++ b ++ off).toNat
      let wide (op : BitVec 6) : Option Instr := decodeTableWord 32 ((2 : BitVec 2) ++ BitVec.ofBool sb ++ op ++ far).toNat
      near 0 = some (.beq sb a b off) ∧ near 1 = some (.bne sb a b off) ∧ near 2 = some (.blt sb a b off) ∧ near 3 = some (.bge sb a b off)
      ∧ near 4 = some (.bltu sb a b off) ∧ near 5 = some (.bgeu sb a b off) ∧ wide 0x20 = some (.jmp sb far) ∧ wide 0x21 = some (.call sb far))
    ∧ ∀ l : List Byte,
      let q : BitVec 32 := BitVec.ofNat 32 (leNat ((l.drop (pc.toNat % 256)).take 4))
      pc.toNat % 8 = 4 → canonical pc.toNat = true → l.length = 256 → 0xC000_0000 ≤ q.toNat →
      (s.clu (myPid s)).icache.find? (fun e => decide ((e.ctx, e.va) = ((myFlk s).ctx, pc.toNat / 256 * 256)))
        = some ⟨(myFlk s).ctx, pc.toNat / 256 * 256, l⟩ →
      (fetchInstr s).2 = .ok (.illegalInstruction (q.zeroExtend 64))
      ∧ exec (.illegalInstruction (q.zeroExtend 64)) s = .next (Trapped s .illegal (q.zeroExtend 64) pc)

/-- R331: JR and CALLR go to the address that a register holds, read before g63 is written; a target that is no
parcel address traps ALIGN at the parcel and changes nothing else. (TVAL is the target: the model's reading, log 21.) -/
def Sys2Proof.Claims.RegisterJumps : Prop :=
  ∀ (sb : Bool) (a : GReg) (s : State),
    let x := rd s a
    (x.toNat % 4 = 0 → exec (.jr sb a) s = .next (At s x)
      ∧ Goes (exec (.callr sb a) s) fun t => OnlyRegs s t ∧ RegIs s t 63 ((me s).pc + 4) ∧ (me t).pc = x)
    ∧ (x.toNat % 4 ≠ 0 → exec (.jr sb a) s = .next (Trapped s .align x (me s).pc)
      ∧ exec (.callr sb a) s = .next (Trapped s .align x (me s).pc))

/-- R332, R333 and R33: TRAP raises SOFT with its number as the value and resumes after itself; SRET goes back to
TPC with INTRAP cleared, and is an illegal instruction while INTRAP is 0; a word that is no instruction traps
ILLEGAL with its value. A trap saves the resume address, the cause and the value, sets INTRAP and enters the handler;
no general register changes. -/
def Sys2Proof.Claims.TrapsAndReturn : Prop :=
  ∀ (sb : Bool) (n : BitVec 5) (w : BitVec 64) (s : State),
    exec (.trap sb n) s = .next (Trapped s .soft (BitVec.ofNat 64 n.toNat) ((me s).pc + 4))
    ∧ exec (.illegalInstruction w) s = .next (Trapped s .illegal w (me s).pc)
    ∧ ((me s).intrap = true → exec (.sret sb) s = .next (s.setThr s.cur
        { me s with pc := BitVec.ofNat 64 (4 * ((me s).tpc.toNat / 4)), intrap := false }))
    ∧ ((me s).intrap = false →
        exec (.sret sb) s = .next (Trapped s .illegal (BitVec.ofNat 64 (0x1100_0000 + if sb then 2 ^ 29 else 0)) (me s).pc))

/-- R331 to R333 and R33: jumps through a register, traps and the return from one. -/
def Sys2Proof.Claims.ControlTransfers : Prop :=
  Sys2Proof.Claims.RegisterJumps ∧ Sys2Proof.Claims.TrapsAndReturn

/-- R332: a trap that cannot be taken halts the thread: a record of KIND 6 is written, whose cause is DOUBLE (9) where
INTRAP was 1, with the resume address, the value, the trap's own cause, the thread and the cluster; the thread fetches
nothing more, and CTXEVT.HALT (bit 0) is set. No general register changes. A record whose write faults is dropped (R429). -/
def Sys2Proof.Claims.UntakenTrapHalts : Prop :=
  ∀ (s : State) (c : Cause) (v r : Word64), ((me s).intrap = true ∨ (me s).tvec.toNat / 4 = 0) →
    let t := Trapped s c v r
    (me t).status = .halted ∧ (me t).g = (me s).g ∧ (me t).haltCause = c.code
    ∧ (t.ctx (myCtx s)).evt.testBit 0 = true ∧ (∀ u, u ≠ s.cur → t.thr u = s.thr u)
    ∧ (t.flk s.cur.fid).faulted = true
    ∧ (t.ctx (myCtx s)).frHead = ((s.ctx (myCtx s)).frHead + 1) % 2 ^ 32
    ∧ let k := s.ctx (myCtx s)
      let u := s.setCtx (myCtx s) { k with frHead := (k.frHead + 1) % 2 ^ 32 }
      s.mem.wf = true → ∀ z pa, translateRange u (myPid s) (myCtx s) (k.frBase * 4096 + 64 * (k.frHead % 2 ^ (k.frLog2 + 4))) 64 .store = (z, .ok pa) →
        t.mem.readList pa 64 = leBytes 2 (if (me s).intrap = true then 9 else c.code) ++ leBytes 2 6 ++ leBytes 4 0 ++ leBytes 8 r.toNat
          ++ leBytes 8 v.toNat ++ leBytes 2 c.code ++ leBytes 3 0 ++ leBytes 1 (4 * s.cur.t) ++ leBytes 2 (myPid s) ++ leBytes 32 0

/-- JR, CALLR, TRAP, SRET, illegal words, and a trap that no handler takes.
The model's own readings in it: log 21. -/
def Obligations.JumpsAndTraps : Prop :=
  Sys2Proof.Claims.ControlTransfers ∧ Sys2Proof.Claims.UntakenTrapHalts

/-- R327: the scalar FP32 words. They read the low 32 bits of their registers, write the zero-extended result (the
sign-extended one for a conversion to s32), round once, and leave the rest of the machine alone but for the record of
the enabled events. -/
def Sys2Proof.Claims.ScalarFloat : Prop :=
  ∀ (sb : Bool) (d a b : GReg) (rnd : BitVec 2) (s : State),
    let m : RMode := match rnd.toNat with
      | 0 => .rn
      | 1 => .rz
      | 2 => .rm
      | _ => .rp
    let bits (r : GReg) : Nat := (rd s r).toNat % 2 ^ 32
    let val (r : GReg) : Val := fF32.value (bits r)
    let down := decide (rnd = 2)
    let f32 (x : Val) : Word64 := BitVec.ofNat 64 (roundTo fF32 m false false x).1
    let goes (o : Out) (v : Word64) : Prop := FloatGoes s o d v
    goes (exec (.sfadd sb d a b rnd) s) (f32 (Val.add down (val a) (val b)).1)
    ∧ goes (exec (.sfsub sb d a b rnd) s) (f32 (Val.add down (val a) (val b).neg).1)
    ∧ goes (exec (.sfmul sb d a b rnd) s) (f32 (Val.mul (val a) (val b)).1)
    ∧ goes (exec (.sfmac sb d a b rnd) s) (f32 (Val.add down (Val.mul (val a) (val b)).1 (val d)).1)
    ∧ goes (exec (.sfcvt sb d a 0 rnd) s) (BitVec.ofNat 64 (toInt m true 64 (val a)).1)
    ∧ goes (exec (.sfcvt sb d a 1 rnd) s) (BitVec.ofNat 64 (toInt m false 64 (val a)).1)
    ∧ goes (exec (.sfcvt sb d a 2 rnd) s) (f32 (Val.ofInt (rd s a).toInt))
    ∧ goes (exec (.sfcvt sb d a 3 rnd) s) (f32 (Val.ofInt (rd s a).toNat))
    ∧ goes (exec (.sfcvt sb d a 4 rnd) s) ((BitVec.ofNat 32 (toInt m true 32 (val a)).1).signExtend 64)
    ∧ goes (exec (.sfcvt sb d a 5 rnd) s) (BitVec.ofNat 64 (toInt m false 32 (val a)).1)

/-- R327, R189 and R221: SFMIN and SFMAX ignore a single NaN, answer the canonical NaN for two and order −0 below +0;
SFCMP writes 1 where the condition holds and 0 elsewhere, the unordered conditions as R48 numbers them. -/
def Sys2Proof.Claims.ScalarFloatCompare : Prop :=
  ∀ (sb : Bool) (d a b : GReg) (s : State),
    let x := (rd s a).toNat % 2 ^ 32
    let y := (rd s b).toNat % 2 ^ 32
    let nan (z : Nat) : Prop := (fF32.value z).isNan = true
    let lt := Val.lt (fF32.value x) (fF32.value y)
    let gt := Val.lt (fF32.value y) (fF32.value x)
    (∃ lo hi : Nat, FloatGoes s (exec (.sfmin sb d a b) s) d (BitVec.ofNat 64 lo)
      ∧ FloatGoes s (exec (.sfmax sb d a b) s) d (BitVec.ofNat 64 hi)
      ∧ (nan x → nan y → lo = 0x7FC0_0000 ∧ hi = 0x7FC0_0000)
      ∧ (nan x → ¬ nan y → lo = y ∧ hi = y)
      ∧ (¬ nan x → nan y → lo = x ∧ hi = x)
      ∧ (lt = true → lo = x ∧ hi = y)
      ∧ (gt = true → lo = y ∧ hi = x)
      ∧ (¬ nan x → ¬ nan y → lt = false → gt = false →
          (x.testBit 31 = true → lo = x ∧ hi = y) ∧ (y.testBit 31 = true → x.testBit 31 = false → lo = y ∧ hi = x)))
    ∧ (∀ c : BitVec 3,
        let un := (fF32.value x).isNan || (fF32.value y).isNan
        let holds : Bool := match c.toNat with
          | 0 => !un && !lt && !gt
          | 1 => un || lt || gt
          | 2 => lt
          | 3 => !un && !gt
          | 4 => gt
          | 5 => !un && !lt
          | 6 => !un
          | _ => un
        FloatGoes s (exec (.sfcmp sb d a b c) s) d (if holds then 1 else 0))

/-- The scalar floating-point words round the exact result once. -/
def Obligations.ScalarFloats : Prop :=
  Sys2Proof.Claims.ScalarFloat ∧ Sys2Proof.Claims.ScalarFloatCompare

/-- R178 and R180: rounding to a format leaves a value that the format represents as it is, in every mode, with and
without saturation (the random word of mode sr has 24 bits, R186), and raises no event; a NaN rounds to the canonical NaN of a format that has one. -/
def Sys2Proof.Claims.RoundingKeepsRepresentable : Prop :=
  ∀ (F : Fmt) (m : RMode) (sat : Bool), F ∈ [fF32, fF16, fBf16, fE4m3, fE5m2, fE2m1] →
    (∀ u, m = .sr u → u < 2 ^ 24) →
    (F.hasNan = true → (roundTo F m sat false .nan).1 = F.nan)
    ∧ ∀ x, x < 2 ^ F.width → (F.value x).isNan = false → (∀ n, F.value x = .inf n → sat = false) →
        roundTo F m sat false (F.value x) = (x, Ev.none)

/-- R178 and R189: the exact sum and the exact product do not depend on the order of their operands, and a NaN operand
makes the result of a rounded sum or product the canonical NaN. -/
def Sys2Proof.Claims.FloatSumsCommute : Prop :=
  (∀ (rm : Bool) (x y : Val), Val.add rm x y = Val.add rm y x ∧ Val.mul x y = Val.mul y x)
  ∧ ∀ (F : Fmt) (m : RMode) (rm sat ftz : Bool) (x y : Val), F.hasNan = true → (x.isNan = true ∨ y.isNan = true) →
      (roundTo F m sat ftz (Val.add rm x y).1).1 = F.nan ∧ (roundTo F m sat ftz (Val.mul x y).1).1 = F.nan

/-- Rounding keeps what is representable; exact sums and products are symmetric. -/
def Obligations.RoundingAndSums : Prop :=
  Sys2Proof.Claims.RoundingKeepsRepresentable ∧ Sys2Proof.Claims.FloatSumsCommute

/-- R322 and R323: SRD. A number that is not assigned traps ILLEGAL; a translation register traps PRIV for a thread
without privilege; every other assigned number delivers its value: at once, or, for TCAUSE, TVAL, CQSTAT, MQSTAT and
TASTAT (R320), to a destination that is outstanding until it arrives. -/
def Obligations.SystemRegisterReads : Prop :=
  ∀ (sb : Bool) (d : GReg) (num : BitVec 11) (s : State),
    let n := num.toNat
    let word : Word64 := BitVec.ofNat 64 (2 ^ 30 + (if sb then 2 ^ 29 else 0) + 0x1C * 2 ^ 23 + d.toNat * 2 ^ 17 + n)
    let priv := (s.ctx (myCtx s)).priv
    let o := exec (.srd sb d num) s
    (¬ Assigned n → o = .next (Trapped s .illegal word (me s).pc))
    ∧ (0x20 ≤ n ∧ n ≤ 0x25 → priv = false → o = .next (Trapped s .priv word (me s).pc))
    ∧ (Assigned n → (0x20 ≤ n ∧ n ≤ 0x25 → priv = true) → n ∉ [0x001, 0x002, 0x018, 0x01A, 0x01C] →
        Writes s o 4 d (RegValue s n))
    ∧ (n ∈ [0x001, 0x002, 0x018, 0x01A, 0x01C] → o = .next (s.setThr s.cur { me s with
        pc := (me s).pc + 4, out := (me s).out ++ [⟨d.toNat, .value (RegValue s n)⟩] }))

/-- R322 to R324, R84, R94, R105 and R412: SWR. A number that is not assigned traps ILLEGAL; COLSPLIT always, and the
translation registers, PINCAP and ASHARE for a thread without privilege, trap PRIV; a read-only register keeps its
value without a trap. A write of one of the thread's own registers changes its fields and nothing else (HINTDROP counts an increment of the same cycle on, R118). A thread
that may write the register always completes the write: it goes on at the next parcel, with its general registers and
every other thread as they were. -/
def Sys2Proof.Claims.SystemRegisterWrites : Prop :=
  ∀ (sb : Bool) (a : GReg) (num : BitVec 11) (s : State),
    let n := num.toNat
    let v := rd s a
    let word : Word64 := BitVec.ofNat 64 (2 ^ 30 + (if sb then 2 ^ 29 else 0) + 0x1D * 2 ^ 23 + a.toNat * 2 ^ 11 + n)
    let priv := (s.ctx (myCtx s)).priv
    let o := exec (.swr sb a num) s
    let pc' := (me s).pc + 4
    (¬ Assigned n → o = .next (Trapped s .illegal word (me s).pc))
    ∧ (n = 0x16 ∨ (priv = false ∧ (n = 0x13 ∨ n = 0x43 ∨ (0x20 ≤ n ∧ n ≤ 0x25))) →
        o = .next (Trapped s .priv word (me s).pc))
    ∧ (n ∈ [0x001, 0x002, 0x003, 0x006, 0x010, 0x014, 0x017, 0x018, 0x01A, 0x01B, 0x01C, 0x040, 0x041, 0x042]
          ∨ (0x090 ≤ n ∧ n ≤ 0x0AF) → o = .next (At s pc'))
    ∧ (n = 0x000 → o = .next (s.setThr s.cur { me s with pc := pc', tpc := BitVec.ofNat 64 (4 * (v.toNat / 4)) }))
    ∧ (n = 0x004 → o = .next (s.setThr s.cur { me s with pc := pc', tvec := BitVec.ofNat 64 (4 * (v.toNat / 4)) }))
    ∧ (n = 0x005 → o = .next (s.setThr s.cur { me s with pc := pc', tscr := v }))
    ∧ (n = 0x007 → o = .next (s.setThr s.cur { me s with pc := pc', yoke := v.toNat % 2 ^ 16 }))
    ∧ (n = 0x012 → ((s.ctx (myCtx s)).hintAt.any (sameCycle s (myPid s))) = false →
        o = .next (At (s.setCtx (myCtx s) { s.ctx (myCtx s) with hintdrop := v }) pc'))
    ∧ (n = 0x012 → ((s.ctx (myCtx s)).hintAt.any (sameCycle s (myPid s))) = true →
        o = .next (At (s.setCtx (myCtx s) { s.ctx (myCtx s) with hintdrop := if v = BitVec.allOnes 64 then v else v + 1 }) pc'))
    ∧ (priv = true → n = 0x013 → o = .next (At (s.setCtx (myCtx s) { s.ctx (myCtx s) with pincap := v }) pc'))
    ∧ (priv = true → n = 0x021 → o = .next (At (s.setCtx (myCtx s) { s.ctx (myCtx s) with xlmode := v.getLsbD 0 }) pc'))
    ∧ (priv = true → n = 0x022 → o = .next (At (s.setCtx (myCtx s) { s.ctx (myCtx s) with xlarg0 := v }) pc'))
    ∧ (priv = true → n = 0x025 → o = .next (At (s.setCtx (myCtx s) { s.ctx (myCtx s) with
        xlovr := (s.ctx (myCtx s)).xlovr && !v.getLsbD 1 }) pc'))
    ∧ (priv = true → n = 0x023 → o = .next (At (s.setCtx (myCtx s) { s.ctx (myCtx s) with xlarg1 := v }) pc'))
    ∧ (Assigned n → n ≠ 0x16 → (priv = true ∨ ¬ (n = 0x13 ∨ n = 0x43 ∨ (0x20 ≤ n ∧ n ≤ 0x25))) →
        Goes o fun t => (me t).pc = pc' ∧ (∀ r, (me t).gr r = (me s).gr r) ∧ ∀ u, u ≠ s.cur → t.thr u = s.thr u)

/-- R84, R188, R303, R358 and R412: the register writes with a meaning of their own. TTBASE takes ROOT and EN and drops
no cached translation; LEASE is clamped to 128 to 64,000; ASHARE is clamped to 1 to 4096 and governs the flits of the
next ring cycle and later; SRSEED restarts every generator of its cluster from the new seed, for the words that issue
after the cycle of the write (a seed written in an earlier cycle has taken effect by then). An SWR of such a register makes that write and goes on at the next parcel. Nothing else
changes. -/
def Sys2Proof.Claims.RegisterWritesOfTheirOwn : Prop :=
  ∀ (sb : Bool) (a : GReg) (ctx pid : Nat) (v : BitVec 64) (s : State),
    let ttbase (s : State) (k : Nat) (v : Word64) : State :=
      s.setCtx k { s.ctx k with root := v.toNat / 2 ^ 12 % 2 ^ 40, en := v.getLsbD 0 }
    let lease (s : State) (k : Nat) (v : Word64) : State :=
      s.setCtx k { s.ctx k with leaseNs := min 64000 (max 128 (v.toNat % 2 ^ 17)) }
    let seed (s : State) (p : Nat) (v : Word64) : State :=
      let t := settleSeed s p
      t.setClu p { t.clu p with srNext := some (s.now, BitVec.ofNat 32 v.toNat) }
    exec (.ttbaseWrite ctx v) s = .next (ttbase s ctx v)
    ∧ exec (.leaseWrite ctx v) s = .next (lease s ctx v)
    ∧ exec (.srseedWrite pid v) s = .next (seed s pid v)
    ∧ (∀ at_ w, (s.clu pid).srNext = some (at_, w) →
        (sameCycle s pid at_ = true → settleSeed s pid = s)
        ∧ (sameCycle s pid at_ = false →
          settleSeed s pid = s.setClu pid { s.clu pid with srSeed := w, sr := [], srNext := none }))
    ∧ (Goes (exec (.ashareWrite ctx v) s) fun t =>
        t = s.setCtx ctx { s.ctx ctx with ashare := (t.ctx ctx).ashare }
        ∧ (∀ c, s.now * 2700 / 1000000 < c → shareFor (t.ctx ctx) c = min 4096 (max 1 (v.toNat % 2 ^ 13))))
    ∧ exec (.swr sb a 0x011) s = .next (At (lease s (myCtx s) (rd s a)) ((me s).pc + 4))
    ∧ exec (.swr sb a 0x015) s = .next (At (seed s (myPid s) (rd s a)) ((me s).pc + 4))
    ∧ ((s.ctx (myCtx s)).priv = true →
        exec (.swr sb a 0x020) s = .next (At (ttbase s (myCtx s) (rd s a)) ((me s).pc + 4)))

/-- SWR and the register writes of their own: what each changes. -/
def Obligations.SystemRegisterEffects : Prop :=
  Sys2Proof.Claims.SystemRegisterWrites ∧ Sys2Proof.Claims.RegisterWritesOfTheirOwn

/-- R84 to R87 and R336: an accepted INVAL or INVAL.ALL sets BUSY and leaves, at every cluster and in both levels of its
translation caches, no leaf of the context whose page meets the range, and, for INVAL.ALL, no instruction-cache line of
the context; no cached leaf of any other context is lost; memory, threads and every other context are as before. A command written while another runs sets OVR and does nothing else. -/
def Obligations.InvalDropsLeaves : Prop :=
  ∀ (ctx count size : Nat) (s : State),
    let c := s.ctx ctx
    let lo := c.xlarg0.toNat
    let n := count * 2 ^ pageBits size
    let leaves (k : Cluster) : List TlbEnt := k.tlb1 ++ k.tlb
    (c.xl.isSome = true → ∀ i ∈ [Instr.inval ctx count size, .invalAll ctx count size, .migrate ctx count size,
        .biasHost ctx count size, .biasDev ctx count size], exec i s = .next (s.setCtx ctx { c with xlovr := true }))
    ∧ (c.xl = none → 1 ≤ count → count < 2 ^ 32 → size ≤ 2 →
      (Goes (exec (.invalAll ctx count size) s) fun t =>
        t = { s with clusters := t.clusters, ctxs := t.ctxs } ∧ (∀ k, k ≠ ctx → t.ctx k = s.ctx k)
        ∧ (t.ctx ctx).xl.isSome = true ∧ (∀ p, ∀ e ∈ leaves (t.clu p), e.ctx ≠ ctx) ∧ (∀ p, ∀ l ∈ (t.clu p).icache, l.ctx ≠ ctx)
        ∧ ∀ p, ∀ e ∈ leaves (s.clu p), e.ctx ≠ ctx → e ∈ leaves (t.clu p))
      ∧ Goes (exec (.inval ctx count size) s) fun t =>
        t = { s with clusters := t.clusters, ctxs := t.ctxs } ∧ (∀ k, k ≠ ctx → t.ctx k = s.ctx k)
        ∧ (t.ctx ctx).xl.isSome = true
        ∧ (lo % 2 ^ pageBits size = 0 → lo + n ≤ 2 ^ 56 →
            ∀ p, ∀ e ∈ leaves (t.clu p), e.ctx = ctx → e.va + 2 ^ pageBits e.level ≤ lo ∨ lo + n ≤ e.va)
        ∧ ∀ p, ∀ e ∈ leaves (s.clu p), (e.ctx ≠ ctx ∨ e.va + 2 ^ pageBits e.level ≤ lo ∨ lo + n ≤ e.va) → e ∈ leaves (t.clu p))

/-- R85 and R87: a command whose operands are refused finishes with its error code and changes no memory, cache or
bias (that code 1 comes before any other, and that INVAL.ALL is checked too, are the model's readings, logs 101 and 67); a command that finishes clears BUSY, adds 1 to SEQ modulo 2^32 and reports its result. -/
def Sys2Proof.Claims.TranslationCommandsFinish : Prop :=
  ∀ (ctx count size : Nat) (s : State),
    let c := s.ctx ctx
    (c.xl = none → size = 3 ∨ count = 0 →
      ∀ i ∈ [Instr.inval ctx count size, .invalAll ctx count size, .migrate ctx count size, .biasHost ctx count size,
        .biasDev ctx count size],
      Goes (exec i s) fun t => t = s.setCtx ctx { c with xl := (t.ctx ctx).xl } ∧ (t.ctx ctx).xl.isSome = true
        ∧ exec (.xlcmdFinish ctx) t = .next (t.setCtx ctx { c with xl := none, xlseq := (c.xlseq + 1) % 2 ^ 32, xlerr := 1 }))
    ∧ (∀ r, c.xl = some r → r.err = 0 → r.op = 3 ∨ r.op = 4 ∨ r.op = 5 →
        Goes (exec (.xlcmdFinish ctx) s) fun t =>
          (t.ctx ctx).xl = none ∧ (t.ctx ctx).xlseq = (c.xlseq + 1) % 2 ^ 32 ∧ (t.ctx ctx).xlerr = 0
          ∧ t.threads = s.threads ∧ t.groups = s.groups)

/-- The bit array of R91 in device memory says what the bias of every page of 64 KiB is. -/
def Sys2Proof.Claims.BiasTable (s : State) : Prop :=
  ∀ b p, s.pkg.biasAt = some b → p < 2 ^ 24 → ((s.mem.read (b + p / 8)).toNat.testBit (p % 8) = true ↔ p ∈ s.bias)

/-- R89 to R93: the commands BIAS.HOST, BIAS.DEV and MIGRATE, once they are accepted (at Stage 2, R475) and finish. A flip to
device bias sets the bits of every page of COUNT and takes the host's copies of those that were host-biased; a flip to host
bias clears them, and every page of COUNT that was device-biased leaves no L1, L2 or pinned copy of its lines; the table in
device memory follows (R91). A migration, of one page, copies every byte of it to its new place, which no unit owns a sector of
and no cluster shares a line of; a write that the lock has held lands there. That a flip turns all its pages at its finish is
the model's choice (log 102). -/
def Sys2Proof.Claims.BiasAndMigration : Prop :=
  ∀ (ctx count : Nat) (s : State),
    let c := s.ctx ctx
    let lo := c.xlarg0.toNat
    let n := count * 65536
    let accepted : Prop := c.xl = none ∧ 2 ≤ s.pkg.stage ∧ 1 ≤ count ∧ count < 2 ^ 32 ∧ lo % 65536 = 0 ∧ lo + n ≤ 2 ^ 40
    let inside (a : Nat) : Prop := lo ≤ a ∧ a < lo + n
    (accepted → Goes (exec (.biasDev ctx count 0) s) fun t => t = s.setCtx ctx { c with xl := (t.ctx ctx).xl }
      ∧ Goes (exec (.xlcmdFinish ctx) t) fun u => (u.ctx ctx).xlerr = 0
        ∧ (∀ p, p ∈ u.bias ↔ p ∈ s.bias ∨ inside (p * 65536))
        ∧ (∀ a, (∀ b, s.pkg.biasAt = some b → a < b ∨ b + 2 ^ 21 ≤ a) → u.mem.read a = s.mem.read a)
        ∧ (s.mem.wf = true → Sys2Proof.Claims.BiasTable s → Sys2Proof.Claims.BiasTable u)
        ∧ (∀ l, inside (l * 256) → l / 256 ∉ s.bias → (u.homeOf (l * 256)).hostCopy = false))
    ∧ (accepted → Goes (exec (.biasHost ctx count 0) s) fun t => t = s.setCtx ctx { c with xl := (t.ctx ctx).xl }
      ∧ Goes (exec (.xlcmdFinish ctx) t) fun u => (u.ctx ctx).xlerr = 0
        ∧ (∀ p, p ∈ u.bias ↔ p ∈ s.bias ∧ ¬ inside (p * 65536))
        ∧ ∀ p, inside (p * 65536) → p ∈ s.bias → ∀ q, (∀ l ∈ (u.clu q).l2, l.line / 256 ≠ p)
            ∧ (∀ l ∈ (u.clu q).pins, l.line / 256 ≠ p) ∧ ∀ l ∈ (u.clu q).l1, l.line / 256 = p → l.sectors = [])
    ∧ (∀ r, c.xl = some r → r.err = 0 → r.op = 3 → Goes (exec (.xlcmdFinish ctx) s) fun t =>
        ((r.oldPa + 2 ^ pageBits r.size ≤ r.arg1 ∨ r.arg1 + 2 ^ pageBits r.size ≤ r.oldPa) →
          (r.entry + 8 ≤ r.oldPa ∨ r.oldPa + 2 ^ pageBits r.size ≤ r.entry) →
          (r.entry + 8 ≤ r.arg1 ∨ r.arg1 + 2 ^ pageBits r.size ≤ r.entry) →
          (s.homeOf r.entry).owners = [] → (s.homeOf r.entry).sharers = [] → r.entry % 8 = 0 → s.mem.wf = true →
          (∀ a, r.arg1 ≤ a → a < r.arg1 + 2 ^ pageBits r.size → (s.homeOf a).owners = [] ∧ (s.homeOf a).sharers = []) →
          (∀ w ∈ s.late, w.pa < r.oldPa ∨ r.oldPa + 2 ^ pageBits r.size ≤ w.pa) →
          ∀ i, i < 2 ^ pageBits r.size → t.mem.read (r.arg1 + i) = s.mem.read (r.oldPa + i))
        ∧ ∀ w, s.mem.wf = true → s.late = [w] → w.done = false → w.bit = 0 → r.oldPa ≤ w.pa →
          w.pa + w.bs.length ≤ r.oldPa + 2 ^ pageBits r.size →
          t.mem.readList (r.arg1 + (w.pa - r.oldPa)) w.bs.length = w.bs)
    ∧ ∀ size leaf word, c.xl = none → 2 ≤ s.pkg.stage → c.xlmode = true → size ≤ 1 → lo % 2 ^ pageBits size = 0 →
        lo + 2 ^ pageBits size ≤ 2 ^ 56 → c.xlarg1.toNat % 2 ^ pageBits size = 0 → c.xlarg1.toNat + 2 ^ pageBits size ≤ 2 ^ 40 →
        (walkFrom ctx lo walkLevels s (c.root * 4096) []).2.1 = .ok (leaf, word) → leaf.level = size →
        Goes (exec (.migrate ctx 1 size) s) fun t =>
          ∃ r, (t.ctx ctx).xl = some r ∧ r.op = 3 ∧ r.err = 0 ∧ r.oldPa = leaf.pa ∧ r.arg1 = c.xlarg1.toNat
            ∧ r.entry = leaf.entry ∧ t.threads = s.threads

/-- Translation commands: refused, finished, bias flips, migration.
The model's own readings in it: logs 67, 101, 102. -/
def Obligations.TranslationCommands : Prop :=
  Sys2Proof.Claims.TranslationCommandsFinish ∧ Sys2Proof.Claims.BiasAndMigration

/-- R406: a falling clock step that is due sets F to its class and ends; a ramp that has had the time to reach the
target's voltage, at 10 mV in each µs, and waits for no clock step, steps the clock to the target class and ends.
Before that, neither does anything. -/
def Sys2Proof.Claims.OperatingClassSteps : Prop :=
  ∀ (quad : Nat) (s : State),
    let q := s.quad quad
    let ready := (q.stepAt.any fun e => decide (e.2 ≤ s.now))
    let volts (k : Nat) : Int := [580, 600, 620, 640, 650, 660, 680, 760].getD k 760
    let reached : Prop := |volts q.t - q.mv| ≤ (((s.now - q.reqAt) * 10 / 1000000 : Nat) : Int)
    let set (x : Quad) : State := { s with quads := s.quads.set quad x }
    (∀ c t, q.stepAt = some (c, t) → t ≤ s.now →
        exec (.clockStepDown quad) s = .next (set { q with f := c, stepAt := none }))
    ∧ (ready = false → exec (.clockStepDown quad) s = .next s)
    ∧ (q.ramp = true → q.stepAt = none → reached → exec (.voltageRampReachesTarget quad) s
        = .next (set { q with mv := (volts q.t).toNat, f := q.t, ramp := false }))
    ∧ (q.ramp = false ∨ q.stepAt.isSome = true ∨ ¬ reached → exec (.voltageRampReachesTarget quad) s = .next s)

/-- R409, R410 and R413: a payment of a price above 0 takes the debit ⌈price × m ÷ 8⌉ from the purse and counts it into the
spend of the present window, or takes nothing and lists the payer, with the age at which it first asked. What is paid never
exceeds the tokens that the cycle may spend or the limit; the debit of a denied payer that comes before stays in the purse;
and a payer that none comes before pays where both cover it, unless the pass of this cycle has gone past it. A credit counts
from the first cycle that begins after its ring cycle. -/
def Obligations.Payments : Prop :=
  ∀ (s : State) (pid who price : Nat), price ≠ 0 →
    let p := ((rollSpend s pid).clu pid).purse
    let m := [6, 7, 7, 8, 8, 8, 8, 10].getD (s.quad (pid / 4)).f 8
    let d := (price * m + 7) / 8
    let r := pay s pid who price
    let p' := (r.1.clu pid).purse
    let now := cycleStart s pid
    let age := ((p.payers.find? fun y => decide (y.who = who)).map (·.age)).getD now
    let late := tooLate p now who age
    pay s pid who 0 = (s, true)
    ∧ (r.1 = s ∨ r.1 = s.setClu pid { s.clu pid with purse := p' })
    ∧ (r.2 = true → d ≤ spendable s pid p ∧ spendable s pid p ≤ p.tokens ∧ p.spend + d ≤ p.limit ∧ p.cut = none
        ∧ p' = { p with
          tokens := p.tokens - d
          spend := p.spend + d
          payers := p.payers.filter fun q => !decide (q.who = who)
          pass := p'.pass }
        ∧ ∀ q ∈ p.payers, q.who ≠ who → (q.age < age ∨ (q.age = age ∧ q.who < who)) → d + q.debit ≤ p.tokens)
    ∧ (r.2 = false → p'.tokens = p.tokens ∧ p'.spend = p.spend
        ∧ ∃ x ∈ p'.payers, x.who = who ∧ x.debit = d ∧ x.age = age)
    ∧ (late = false → p.cut = none → d ≤ spendable s pid p → p.spend + d ≤ p.limit →
        (∀ q ∈ p.payers, q.who ≠ who → age < q.age ∨ (age = q.age ∧ who < q.who)) → r.2 = true)
    ∧ ((∀ e ∈ p.fresh, (e.1 + 1) * cluMHz s pid ≤ s.now * cluMHz s pid / 1000000 * 2700) → spendable s pid p = p.tokens)

/-- R413: the spend windows of a cluster are its consecutive stretches of 64 arithmetic cycles, which begin on the edges of
cycles. Where one has ended, the
limit of the next is the greater of 2560 and the spend of the one that ended plus 1024, and its spend starts at 0; before
that nothing happens. The spend is the sum of the debits paid in the window; a payer that the limit denies keeps its age,
and the first in age pays in an unspent window as soon as its purse covers it. -/
def Obligations.SpendWindows : Prop :=
  ∀ (pid : Nat) (s : State),
    let p := (s.clu pid).purse
    let mhz := [2200, 2300, 2400, 2500, 2550, 2600, 2700, 3000].getD (s.quad (pid / 4)).f 3000
    let first := p.windowStart * mhz / 1000000
    let n := (s.now * mhz / 1000000 - first) / 64
    let after := max 2560 (p.spend + 1024)
    (1 ≤ n → let w := ((first + 64 * n) * 1000000 + mhz - 1) / mhz
        exec (.spendWindowRollover pid) s = .next (s.setClu pid { s.clu pid with purse := { p with
          limit := if n = 1 then after else 2560
          spend := 0
          lastSpend := if n = 1 then p.spend else 0
          lastLimit := if n = 1 then p.limit else if n = 2 then after else 2560
          windowStart := w } })
        ∧ p.windowStart < w ∧ w ≤ s.now)
    ∧ (n = 0 → exec (.spendWindowRollover pid) s = .next s)
    ∧ ∀ (who price : Nat), price ≠ 0 →
      let p := ((rollSpend s pid).clu pid).purse
      let d := (price * [6, 7, 7, 8, 8, 8, 8, 10].getD (s.quad (pid / 4)).f 8 + 7) / 8
      let r := pay s pid who price
      let p' := (r.1.clu pid).purse
      let now := cycleStart s pid
      let age := ((p.payers.find? fun y => decide (y.who = who)).map (·.age)).getD now
      let late := tooLate p now who age
      (r.2 = true → p'.spend = p.spend + d ∧ p'.spend ≤ p.limit) ∧ (r.2 = false → p'.spend = p.spend) ∧ p'.limit = p.limit
      ∧ (p.limit < p.spend + d → r.2 = false ∧ ∃ x ∈ p'.payers, x.who = who ∧ x.debit = d ∧ x.age = age)
      ∧ (price ≤ 2048 → d ≤ 2560)
      ∧ (price ≤ 2048 → p.spend = 0 → 2560 ≤ p.limit → p.cut = none → late = false → d ≤ spendable s pid p →
          (∀ y ∈ p.payers, y.who ≠ who → age < y.age ∨ (age = y.age ∧ who < y.who)) → r.2 = true)

/-- R415: a cluster with a resident flock that has been starved for 136 ring cycles and has no claim posts one, of the
amount min(4096, the debits of its denied payers) − purse, where that is above 0; in every other case nothing
happens. -/
def Sys2Proof.Claims.ClaimPosts : Prop :=
  ∀ (pid : Nat) (s : State),
    let p := (s.clu pid).purse
    let need := min 4096 ((p.payers.map (·.debit)).sum)
    let home := s.flocks.any fun f => f.2.resident && f.2.clus.contains pid
    (p.claim = none → 136 ≤ p.starved → p.tokens < need → home = true → exec (.claimPost pid) s = .next
        (s.setClu pid { s.clu pid with purse := { p with claim := some ⟨need - p.tokens, (s.die (pid / 64)).cycle⟩ } }))
    ∧ (p.claim.isSome = true ∨ p.starved < 136 ∨ need ≤ p.tokens ∨ home = false → exec (.claimPost pid) s = .next s)

/-- R408 and R411: a ring cycle of a powered die, not ahead of device time, injects a flit of max(64, min(PALOW,
TALLOW)) tokens, or of 64 under a clamp, moves every flit one hop, and advances the cycle by 1. No purse falls, and, claims or not, none that held at most 4096
tokens holds more. Nothing changes but the die's ring and the purses. When within its cycle the flit is injected and moves is the model's
choice (log 73). -/
def Sys2Proof.Claims.RingCycle : Prop :=
  ∀ (die : Nat) (s : State),
    let d := s.die die
    let here (p : Nat) : Prop := p / 64 = die
    (s.pkg.powered = true → d.cycle ≤ s.now * 2700 / 1000000 → Goes (exec (.tokenFlitInject die) s) fun t =>
        t = { s with dies := t.dies, clusters := t.clusters }
        ∧ t.die die = { d with ring := (t.die die).ring, cycle := d.cycle + 1 } ∧ (∀ k, k ≠ die → t.die k = s.die k)
        ∧ (t.die die).ring.length = min 17 (d.ring.length + 1)
        ∧ (t.die die).ring.head? = some (if s.pkg.clampEnd.isSome then 64 else max 64 (min d.palow d.tallow))
        ∧ (∀ p, t.clu p = { s.clu p with purse := (t.clu p).purse }) ∧ (∀ p, ¬ here p → t.clu p = s.clu p)
        ∧ (∀ p, here p → (s.clu p).purse.tokens ≤ (t.clu p).purse.tokens
            ∧ ((s.clu p).purse.tokens ≤ 4096 → (t.clu p).purse.tokens ≤ 4096)))
    ∧ (s.pkg.powered = false ∨ s.now * 2700 / 1000000 < d.cycle → exec (.tokenFlitInject die) s = .next s)

/-- R408, R411 and R415: the token ring and the claims. -/
def Sys2Proof.Claims.TokenRing : Prop :=
  Sys2Proof.Claims.ClaimPosts ∧ Sys2Proof.Claims.RingCycle

/-- R417 to R419: the allowances, the sensors and a bank's refresh. Running firmware writes PALLOW and the thermal
allowance of R418, which is at least 64 and at most 2000, and ends the safe envelope; without firmware nothing
happens. A sensor sample sets the die's quad, junction and stack temperatures, 255 at most, and a stack's refresh rate
doubles from 85 °C and stays doubled down to 82 °C. A bank is refreshed at most once in a refresh period, and a refresh that
comes late is not made up for (the model's choice, log 73). -/
def Sys2Proof.Claims.AllowancesAndSensors : Prop :=
  ∀ (die pallow ta tb stack bank : Nat) (temps : List Nat) (s : State),
    let d := s.die die
    let k := s.stk stack
    let period := if k.dbl then 1950000 else 3900000
    let again : State := { s with stks := s.stks.set stack { k with refreshed := k.refreshed.set bank s.now } }
    (s.pkg.fwrun = true → Goes (exec (.thallowUpdate die pallow) s) fun t =>
        t = { s with dies := t.dies, pkg := { s.pkg with fwStart := none } } ∧ (∀ k, k ≠ die → t.die k = s.die k)
        ∧ t.die die = { d with safe := false, palow := pallow % 65536, tallow := (t.die die).tallow }
        ∧ 64 ≤ (t.die die).tallow ∧ (t.die die).tallow ≤ 2000
        ∧ (d.tj ≤ 95 → (s.stk (2 * die)).temp < 85 → (s.stk (2 * die + 1)).temp < 85 → (t.die die).tallow = 2000))
    ∧ (s.pkg.fwrun = false → exec (.thallowUpdate die pallow) s = .next s)
    ∧ (Goes (exec (.sensorSample die temps ta tb) s) fun t =>
        t = { s with quads := t.quads, dies := t.dies, stks := t.stks }
        ∧ (∀ q, q < 16 → t.quad (die * 16 + q) = { s.quad (die * 16 + q) with temp := min 255 (temps.getD q 0) })
        ∧ (∀ q, q < 16 → (t.quad (die * 16 + q)).temp ≤ (t.die die).tj)
        ∧ (∃ q, q < 16 ∧ (t.die die).tj = (t.quad (die * 16 + q)).temp)
        ∧ (∀ u ∈ [(2 * die, ta), (2 * die + 1, tb)], (t.stk u.1).temp = min u.2 255
            ∧ (85 ≤ u.2 → (t.stk u.1).dbl = true) ∧ (u.2 < 82 → (t.stk u.1).dbl = false)
            ∧ (82 ≤ u.2 → u.2 < 85 → (t.stk u.1).dbl = (s.stk u.1).dbl)))
    ∧ (∀ t0, k.refreshed.find bank = some t0 → exec (.bankRefresh stack bank) s
        = .next (if t0 / period < s.now / period then again else s))
    ∧ (k.refreshed.find bank = none → exec (.bankRefresh stack bank) s = .next again)

/-- R421: the hardware protections. A droop cuts its cluster from payments until 64 cycles have passed; a rail clamp
makes every injector emit the floor for 1 µs; a junction trip stops its die and sets CTXEVT.THERMTRIP (bit 3) in each
context with a flock there; a missed heartbeat puts every die under the safe envelope. -/
def Sys2Proof.Claims.Protections : Prop :=
  ∀ (pid die : Nat) (s : State),
    let c := s.clu pid
    let cycles (t : Nat) : Nat := (s.now - t) * cluMHz s pid / 1000000
    let cut (x : Option Nat) : State := s.setClu pid { c with purse := { c.purse with cut := x } }
    let clamp (x : Option Nat) : State := { s with pkg := { s.pkg with clampEnd := x } }
    exec (.droopDetect pid) s = .next (cut (some s.now))
    ∧ (∀ t, c.purse.cut = some t → exec (.droopRecovery pid) s = .next (if 64 ≤ cycles t then cut none else s))
    ∧ (c.purse.cut = none → exec (.droopRecovery pid) s = .next s)
    ∧ (∀ who price, price ≠ 0 → c.purse.cut.isSome = true → (pay s pid who price).2 = false)
    ∧ exec .coreRailClamp s = .next (clamp (some (s.now + 1000000)))
    ∧ (∀ t, s.pkg.clampEnd = some t → exec .clampFloorEnd s = .next (if t ≤ s.now then clamp none else s))
    ∧ (s.pkg.clampEnd = none → exec .clampFloorEnd s = .next s)
    ∧ ((s.die die).tripped = true → exec (.junctionTrip die) s = .next s)
    ∧ ((s.die die).tripped = false → Goes (exec (.junctionTrip die) s) fun t =>
        t = { s with dies := t.dies, ctxs := t.ctxs, pkg := { s.pkg with msix := t.pkg.msix } }
        ∧ t.die die = { s.die die with tripped := true } ∧ (∀ k, k ≠ die → t.die k = s.die k)
        ∧ ∀ f ∈ s.flocks, f.2.resident = true → (∃ p ∈ f.2.clus, p / 64 = die) → (t.ctx f.2.ctx).evt.testBit 3 = true)
    ∧ (Goes (exec .firmwareHeartbeatMiss s) fun t => t = { s with dies := t.dies }
        ∧ ∀ k, k < 8 → t.die k = { s.die k with safe := true, palow := 64, tallow := 64 })

/-- R406 and R417 to R421: operating classes, allowances, sensors, refresh and hardware protections. -/
def Sys2Proof.Claims.PowerControls : Prop :=
  Sys2Proof.Claims.OperatingClassSteps ∧ Sys2Proof.Claims.AllowancesAndSensors ∧ Sys2Proof.Claims.Protections

/-- Operating classes, allowances, sensors, protections, the token ring and claims.
The model's own readings in it: log 73. -/
def Obligations.PowerAndTokens : Prop :=
  Sys2Proof.Claims.PowerControls ∧ Sys2Proof.Claims.TokenRing

/-- R334 and R360: GEXIT with an open run in a stream traps RUN; otherwise the thread has executed its last
instruction, an open capture is abandoned with its reel undefined, and nothing else changes. That a thread which ends with
a held trap halts is the model's inference (log 22). -/
def Sys2Proof.Claims.GeneratorExit : Prop :=
  ∀ (sb : Bool) (s : State),
    let x := me s
    let word : Word64 := BitVec.ofNat 64 (0x0B00_0000 + if sb then 2 ^ 29 else 0)
    let openRun := x.streams.any fun e => !e.2.openRun.isEmpty
    let gone : Thread := { x with status := .exited, pc := x.pc + 4 }
    (openRun = true → exec (.gexit sb) s = .next (Trapped s .run word x.pc))
    ∧ (openRun = false → x.held = [] → x.capture = none → exec (.gexit sb) s = .next (s.setThr s.cur gone))
    ∧ (∀ n ws, openRun = false → x.held = [] → x.capture = some (n, ws) → exec (.gexit sb) s
        = .next ((s.setCtx (myCtx s) { s.ctx (myCtx s) with reels := (s.ctx (myCtx s)).reels.erase n }).setThr s.cur
            { gone with capture := none }))
    ∧ (openRun = false → x.held ≠ [] → Goes (exec (.gexit sb) s) fun t => (me t).status = .halted)

/-- R339: ICINV of 2^40 bytes or more is an illegal instruction, one at a non-canonical address traps NONCANON. The
others drop, on every cluster within the scope that runs the context, the context's instruction-cache lines that meet
the range, or all of them where the length is 0, and no other line anywhere; the thread stalls at its first attempt and
the lines are gone when it goes on (how long it stalls is left open: log 136, the model's choice). -/
def Sys2Proof.Claims.InstructionCacheInvalidate : Prop :=
  ∀ (sb : Bool) (a b : GReg) (scope : BitVec 3) (s : State),
    let lo := (rd s a).toNat
    let n := (rd s b).toNat
    let i := Instr.icinv sb a b scope
    let reach (p : Nat) : Prop := (∃ f ∈ s.flocks, f.2.ctx = myCtx s ∧ f.2.resident = true ∧ p ∈ f.2.clus)
      ∧ within scope.toNat (myFlk s).clus (myPid s) p = true
    let hit (l : IcLine) : Prop := l.ctx = myCtx s ∧ (n = 0 ∨ (l.va < lo + n ∧ lo < l.va + 256))
    (2 ^ 40 ≤ n → exec i s = .next (Trapped s .illegal (wordOf i) (me s).pc))
    ∧ (n < 2 ^ 40 → 2 ^ 56 ≤ lo → lo < 2 ^ 64 - 2 ^ 56 → exec i s = .next (Trapped s .noncanon (rd s a) (me s).pc))
    ∧ (n < 2 ^ 40 → lo < 2 ^ 56 ∨ 2 ^ 64 - 2 ^ 56 ≤ lo → (me s).wait = none →
        exec i s = .next (s.setThr s.cur { me s with wait := some ⟨s.now, [], none⟩ }))
    ∧ (n < 2 ^ 40 → lo < 2 ^ 56 ∨ 2 ^ 64 - 2 ^ 56 ≤ lo → (me s).wait ≠ none → Goes (exec i s) fun t =>
        t = { s with clusters := t.clusters, threads := t.threads } ∧ me t = { me s with wait := none, pc := (me s).pc + 4 }
        ∧ (∀ u, u ≠ s.cur → t.thr u = s.thr u) ∧ (∀ p, t.clu p = { s.clu p with icache := (t.clu p).icache })
        ∧ ∀ p l, l ∈ (t.clu p).icache ↔ l ∈ (s.clu p).icache ∧ ¬ (reach p ∧ hit l))

/-- GEXIT and ICINV.
The model's own readings in it: logs 22, 136. -/
def Obligations.ExitAndCodeCoherence : Prop :=
  Sys2Proof.Claims.GeneratorExit ∧ Sys2Proof.Claims.InstructionCacheInvalidate

/-- R328, R30 and R32: the fourteen generator loads. The address is ga plus the scaled signed offset; a misaligned
one traps ALIGN, one whose translation fails traps its cause. Otherwise the access is the newest of the machine, its
register is outstanding, and the thread goes on, or waits at the parcel where the address lies in the host window
(R428). No byte of memory changes but those that translation marks, where the cluster gathers no update-only line. -/
def Obligations.GeneratorLoads : Prop :=
  ∀ (sb : Bool) (d a : GReg) (pri : BitVec 2) (na : Bool) (off : BitVec 5) (ext : BitVec 23) (s : State),
    (me s).acqOp = none →
    let o := off.toInt
    let l := (ext ++ off).toInt
    ∀ e ∈ ([(Instr.ldgN8 sb d a pri na off, 4, 1, false, o), (.ldgS8 sb d a pri na off, 4, 1, true, o),
        (.ldgN16 sb d a pri na off, 4, 2, false, o), (.ldgS16 sb d a pri na off, 4, 2, true, o),
        (.ldgN32 sb d a pri na off, 4, 4, false, o), (.ldgS32 sb d a pri na off, 4, 4, true, o),
        (.ldgB64 sb d a pri na off, 4, 8, false, o),
        (.ldgN8Long sb d a ext pri na off, 8, 1, false, l), (.ldgS8Long sb d a ext pri na off, 8, 1, true, l),
        (.ldgN16Long sb d a ext pri na off, 8, 2, false, l), (.ldgS16Long sb d a ext pri na off, 8, 2, true, l),
        (.ldgN32Long sb d a ext pri na off, 8, 4, false, l), (.ldgS32Long sb d a ext pri na off, 8, 4, true, l),
        (.ldgB64Long sb d a ext pri na off, 8, 8, false, l)] : List (Instr × Nat × Nat × Bool × Int)),
      let w := e.2.2.1
      let va := (BitVec.ofInt 64 ((rd s a).toNat + e.2.2.2.2 * w)).toNat
      let r := translate s (myPid s) (myCtx s) va .load
      (va % w ≠ 0 → exec e.1 s = .next (Trapped s .align (BitVec.ofNat 64 va) (me s).pc))
      ∧ (va % w = 0 → ∀ c, r.2 = .error c → exec e.1 s = .next (Trapped r.1 c (BitVec.ofNat 64 va) (me s).pc))
      ∧ (va % w = 0 → ∀ pa, r.2 = .ok pa → Goes (exec e.1 s) fun t =>
          AccessIssued s t va pa w .load (.gen d.toNat e.2.2.2.1)
          ∧ me t = { me s with
              out := (me s).out ++ [⟨d.toNat, .mem s.nextId⟩]
              pc := if isHost pa then (me s).pc else (me s).pc + BitVec.ofNat 64 e.2.1
              hostOp := if isHost pa then some (s.nextId, e.2.1) else (me s).hostOp }
          ∧ ((∀ x ∈ (r.1.clu (myPid s)).l1, x.uo = none) → SameMem r.1 t))

/-- R328, R30 and R32: the eight generator stores. A misaligned address traps ALIGN, one whose translation fails traps
its cause (where a stash entry maps it to a sector still to be filled, the page must be readable too, R79); otherwise the access, with the low bytes of the register as its data, is the newest of the machine, and the
thread goes on. Memory takes the bytes when the access performs (R301); until then no byte changes but those that
translation marks. -/
def Obligations.GeneratorStores : Prop :=
  ∀ (sb : Bool) (d a : GReg) (pri : BitVec 2) (na : Bool) (scope : BitVec 3) (off : BitVec 5) (ext : BitVec 23)
    (s : State), (me s).acqOp = none →
    let o := off.toInt
    let l := (ext ++ off).toInt
    ∀ e ∈ ([(Instr.stgB8 sb d a pri na scope off, 4, 1, o), (.stgB16 sb d a pri na scope off, 4, 2, o),
        (.stgB32 sb d a pri na scope off, 4, 4, o), (.stgB64 sb d a pri na scope off, 4, 8, o),
        (.stgB8Long sb d a ext pri na scope off, 8, 1, l), (.stgB16Long sb d a ext pri na scope off, 8, 2, l),
        (.stgB32Long sb d a ext pri na scope off, 8, 4, l), (.stgB64Long sb d a ext pri na scope off, 8, 8, l)] :
        List (Instr × Nat × Nat × Int)),
      let w := e.2.2.1
      let va := (BitVec.ofInt 64 ((rd s a).toNat + e.2.2.2 * w)).toNat
      let r := translate s (myPid s) (myCtx s) va (globalAcc s (myPid s) va .store)
      (va % w ≠ 0 → exec e.1 s = .next (Trapped s .align (BitVec.ofNat 64 va) (me s).pc))
      ∧ (va % w = 0 → ∀ c, r.2 = .error c → exec e.1 s = .next (Trapped r.1 c (BitVec.ofNat 64 va) (me s).pc))
      ∧ (va % w = 0 → ∀ pa, r.2 = .ok pa → Goes (exec e.1 s) fun t =>
          AccessIssued s t va pa w (.store ((rd s d).toNat % 2 ^ (8 * w))) .none
          ∧ me t = { me s with pc := (me s).pc + BitVec.ofNat 64 e.2.1 } ∧ SameMem r.1 t)

/-- R294 and R295: GATOM. A control value that breaks R294 traps ATOMARG, a misaligned address ALIGN, a failing
translation its cause. Otherwise, where no release part has to wait, the atomic is the newest access of the machine,
with the operands the registers hold; its register, or pair, is outstanding, and an acquire part holds later accesses. -/
def Obligations.GeneratorAtomics : Prop :=
  ∀ (sb : Bool) (d a b : GReg) (op : BitVec 4) (s : State), (me s).acqOp = none →
    let i := Instr.gatom sb d a b op
    let ctl := (rd s (a + 1)).toNat
    let wide := decide (ctl % 4 = 2)
    let w := if ctl % 4 = 0 then 4 else if ctl % 4 = 1 then 8 else 16
    let va := (rd s a).toNat
    let order := ctl / 2 ^ 11 % 4
    let scope := ctl / 2 ^ 13 % 8
    let val (r : GReg) : Nat := if wide then (rd s r).toNat + 2 ^ 64 * (rd s (r + 1)).toNat else (rd s r).toNat % 2 ^ (8 * w)
    let good : Prop := ctl < 2 ^ 16 ∧ scope ≤ 6 ∧ ctl / 4 % 64 = 0 ∧ ctl % 4 ≠ 3
      ∧ (op = 10 ∨ (op = 1 ∧ ctl % 4 = 0) ∨ (op ≠ 1 ∧ ctl % 4 ≤ 1))
      ∧ (ctl % 4 = 2 → d.toNat % 2 = 0 ∧ b.toNat % 2 = 0 ∧ d ≠ 0)
    let r := translate s (myPid s) (myCtx s) va .atomic
    (¬ good → exec i s = .next (Trapped s .atomarg (wordOf i) (me s).pc))
    ∧ (good → va % w ≠ 0 → exec i s = .next (Trapped s .align (rd s a) (me s).pc))
    ∧ (good → va % w = 0 → ∀ c, r.2 = .error c → exec i s = .next (Trapped r.1 c (rd s a) (me s).pc))
    ∧ (good → va % w = 0 → order < 2 → ∀ pa, r.2 = .ok pa → Goes (exec i s) fun t =>
        AccessIssued s t va pa w (.atomic op.toNat (val b) (val d) false) (if wide then .genPair d.toNat else .gen d.toNat false)
        ∧ me t = { me s with
            wait := none
            out := (me s).out ++ ⟨d.toNat, .mem s.nextId⟩ :: (if wide then [⟨d.toNat + 1, .mem s.nextId⟩] else [])
            acqOp := if order = 1 then some (s.nextId, scope) else none
            pc := if isHost pa then (me s).pc else (me s).pc + 4
            hostOp := if isHost pa then some (s.nextId, 4) else (me s).hostOp }
        ∧ SameMem r.1 t)

/-- R312 and R335: FENCE. A release waits while a write of the thread is still out, and changes nothing meanwhile but
what the wait remembers. With no access out, nothing emitted and the horizon of the scope passed, the fence completes;
its acquire part at .quad or wider leaves no L1 sector of the cluster that was granted before the thread's acquire
horizon. Memory and every general register are as before. -/
def Obligations.Fences : Prop :=
  ∀ (sb : Bool) (order : BitVec 2) (scope : BitVec 3) (s : State), (me s).acqOp = none → (me s).wait = none →
    let i := Instr.fence sb order scope
    let mine (o : MemOp) : Prop := o.tid = s.cur
    ((order.getLsbD 1 = true ∧ ∃ o ∈ s.ops, mine o ∧ o.str = none ∧ o.deed ≠ .load) → Goes (exec i s) fun t =>
      t = s.setThr s.cur { me s with wait := (me t).wait } ∧ (me t).wait.isSome = true)
    ∧ ((∀ o ∈ s.ops, ¬ mine o) → (me s).streams = [] →
        ((me s).hor.rel scope.toNat = 0 ∨ (me s).hor.rel scope.toNat < s.now / 1000) → Goes (exec i s) fun t =>
          t = { s with threads := t.threads, clusters := t.clusters }
          ∧ me t = { me s with pc := (me s).pc + 4 } ∧ (∀ u, u ≠ s.cur → t.thr u = s.thr u)
          ∧ (∀ p, t.clu p = { s.clu p with l1 := (t.clu p).l1 })
          ∧ (order.getLsbD 0 = true → 2 ≤ scope.toNat → ∀ l ∈ (t.clu (myPid s)).l1, ∀ x ∈ l.sectors,
              (x.2.pending = true ∧ x.2.granted = false) ∨ (me s).hor.acq ≤ x.2.grant))

/-- R301 and R306 (HOME_WRITE_PERFORM): a store of a live flock that nothing holds back, to bytes of one sector that no
stash, sharer or owner has a copy of, performs: memory takes its bytes, least significant first, every other byte
reads as before, and the access is gone; where the bytes lie in the host window it stays, made, until its completion. An
access that is none is left alone. -/
def Obligations.StoresPerform : Prop :=
  ∀ (s : State) (o : MemOp) (va pa data : Nat), findOp s o.id = some o → o.place = .glob va pa → o.deed = .store data →
    o.dest = .none → o.made = none → (s.flk o.tid.fid).resident = true → blockedBySame s o = false →
    stashVa s o.pid va = none → writeHeld s pa = false → uoAwaited s o.pid pa = false →
    0 < o.n → pa % 32 + o.n ≤ 32 → (s.homeOf pa).owners = [] → (s.homeOf pa).sharers = [] → s.mem.wf = true →
    (∀ id, findOp s id = none → exec (.homeWritePerform id) s = .next s)
    ∧ Goes (exec (.homeWritePerform o.id) s) fun t =>
      (∀ a, t.mem.read a = if pa ≤ a ∧ a < pa + o.n then BitVec.ofNat 8 (data / 256 ^ (a - pa)) else s.mem.read a)
      ∧ (isHost pa = false → findOp t o.id = none)
      ∧ (isHost pa = true → Goes (exec (.homeWritePerform o.id) t) fun u => findOp u o.id = none ∧ SameMem t u)
      ∧ t.groups = s.groups ∧ t.flocks = s.flocks ∧ t.bias = s.bias
      ∧ (∀ u, u ≠ o.tid → t.thr u = s.thr u) ∧ (∀ u, (t.thr u).g = (s.thr u).g ∧ (t.thr u).pc = (s.thr u).pc)

/-- R303, R304, R153, R156 and R308: the life of an L1 fill. The home grants a pending sector the bytes that memory holds
at the grant, the latest writes of every cluster included, with a lease that starts now; the fill then lands; when its
lease is over the sector leaves the L1. Memory is as before where no owner and no sharer holds the line. -/
def Obligations.LeasesAndFills : Prop :=
  ∀ (pid ctx pa : Nat) (s : State) (x : L1Sector), l1Sec s pid pa = some x →
    let now := s.now / 1000
    (x.pending = true → x.granted = false → readHeld s pa = false → (s.homeOf pa).owners = [] → (s.homeOf pa).sharers = [] →
      Goes (exec (.leaseGrant pid ctx pa) s) fun t => SameMem s t ∧ t.threads = s.threads ∧ t.groups = s.groups
        ∧ (∃ y, l1Sec t pid pa = some y ∧ y.granted = true ∧ y.grant = now ∧ y.expiry = now + x.ns
          ∧ ∀ i, i < 32 → y.data.getD i 0 = s.mem.read (pa / 32 * 32 + i))
        ∧ now + x.ns + 2 ≤ (t.homeOf pa).expiry.get (pid / 64) 0)
    ∧ (x.pending = true → x.granted = true → Goes (exec (.sectorFillLand pid pa) s) fun t =>
        t = s.setClu pid { s.clu pid with l1 := (t.clu pid).l1 }
        ∧ l1Sec t pid pa = some { x with pending := false, touched := 0 })
    ∧ (x.pending = false → x.expiry ≤ now → Goes (exec (.leaseExpiry pid pa) s) fun t =>
        t = s.setClu pid { s.clu pid with l1 := (t.clu pid).l1 } ∧ l1Sec t pid pa = none)
    ∧ (x.pending = true ∨ now < x.expiry → exec (.leaseExpiry pid pa) s = .next s)

/-- The stash entries of a cluster with one sector of the entry at a VA in a new state, every other sector as it was. -/
def Sys2Proof.Claims.SectorSet (l : List StashEnt) (va k : Nat) (st : StashSt) : List StashEnt :=
  l.map fun e => if e.va = va then { e with sectors := e.sectors.set k st } else e

/-- R159, R160, R163 and R79: the life of an owned stash sector, on a cluster with any entries. A pending claim that no lease,
lock or flip holds is granted: the home lists its owner, the ownership time is now, and the writes that have merged learn
their completion times. A granted fill writes the bytes of memory that no write has touched into the local bytes. A recall
for a waiting access leaves the sector UNFILLED and clears its owner; of a dirty sector it writes the touched bytes back to
memory, where the write-back translates as a store; where it does not, they are lost, and the loss is noted for its record.
Without a waiting access nothing happens. -/
def Obligations.StashOwnership : Prop :=
  ∀ (pid va pa : Nat) (s : State) (e : StashEnt), stashVa s pid va = some e → (s.flk e.fid).resident = true →
    pa % 32 = 0 → s.mem.wf = true → (s.localMem e.fid e.clu).wf = true →
    let k := (va - e.va) / 32
    let h := s.homeOf pa
    let now := s.now / 1000
    let filling (x : StashSt) : Bool := match x with
      | .pending _ ot _ => ot.isSome
      | _ => false
    let r := backCheck s pid (s.flk e.fid).ctx (e.va + 32 * k)
    let bytes := r.1.localRead e.fid e.clu (e.off + 32 * k) 32
    (∀ t0, e.st k = .pending pa none t0 → leasesOver s pa = true → writeHeld s pa = false →
        h.owners = [] → h.sharers = [] → Goes (exec (.stashOwnershipGrant pid va) s) fun t => SameMem s t
          ∧ (t.homeOf pa).owners.find (pa / 32 % 8) = some (pid, e.va + 32 * k)
          ∧ (t.clu pid).stash = SectorSet (s.clu pid).stash e.va k (.pending pa (some now) t0)
          ∧ ∀ o ∈ s.ops, ∀ m, o.made = some m → o.gw = none → o.inSector pid e k = true →
              { o with gw := some (Gwct.flat (max m now)) } ∈ t.ops)
    ∧ (∀ ot t0 j, stashAt (s.clu pid) pa filling = some (e, j, .pending pa (some ot) t0) → l1Sec s pid pa = none →
        Goes (exec (.sectorFillLand pid pa) s) fun t => SameMem s t
          ∧ (∀ i, i < 32 → (t.localMem e.fid e.clu).read (e.off + 32 * j + i)
              = if t0.testBit i then (s.localMem e.fid e.clu).read (e.off + 32 * j + i) else s.mem.read (pa + i))
          ∧ (t.clu pid).stash = SectorSet (s.clu pid).stash e.va j (if t0 = 0 then .clean pa ot else .dirty pa ot t0))
    ∧ (∀ ot, e.st k = .clean pa ot → h.owners.find (pa / 32 % 8) = some (pid, va) →
        waitsAtHome s pa 32 (fun _ => true) = true → Goes (exec (.stashRecall pa) s) fun t => SameMem s t
          ∧ (t.homeOf pa).owners = h.owners.erase (pa / 32 % 8)
          ∧ (t.clu pid).stash = SectorSet (s.clu pid).stash e.va k .unfilled)
    ∧ (∀ ot t0, e.st k = .dirty pa ot t0 → h.owners.find (pa / 32 % 8) = some (pid, va) →
        waitsAtHome s pa 32 (fun _ => true) = true → Goes (exec (.stashRecall pa) s) fun t =>
          (t.homeOf pa).owners = (r.1.homeOf pa).owners.erase (pa / 32 % 8)
          ∧ (t.clu pid).stash = SectorSet (r.1.clu pid).stash e.va k .unfilled
          ∧ (∀ c, r.2 = some c → SameMem r.1 t ∧ ∃ w, t.lost = r.1.lost ++ [w] ∧ w.cause = c ∧ w.pid = pid ∧ w.ctx = (s.flk e.fid).ctx)
          ∧ (r.2 = none → t.lost = r.1.lost ∧ ∀ a, t.mem.read a
              = if pa ≤ a ∧ a < pa + 32 ∧ t0.testBit (a - pa) = true then bytes.getD (a - pa) 0 else r.1.mem.read a))
    ∧ (waitsAtHome s pa 32 (fun _ => true) = false → exec (.stashRecall pa) s = .next s)

/-- Memory after the gathered elements of update-only lines, copy by copy, have been applied as REDs (R298, R299). -/
def Sys2Proof.Claims.Gathered (m : Mem) (line : Nat) (us : List UoLine) : Mem :=
  us.foldl (fun m u => u.vals.foldl (fun m v =>
    m.writeList (line * 256 + v.1 * u.width) (leBytes u.width
      (atomResult u.op u.width (m.readNat (line * 256 + v.1 * u.width) u.width) v.2 0))) m) m

/-- R298 and R299: update-only lines, of which no context logs the atomics. A line is granted beside the sharers of its
operation and width: it joins them with its grant time. Where a sharer has another operation or width, the old copies are
combined first and it is the one sharer. A refused one gives its elements up as REDs, after the sharers'. A combine for a
waiting access that does not gather leaves the line no sharer and none of the old sharers a gathered copy. Each element of
memory is then the one before with the gathered values applied, sharer by sharer. -/
def Obligations.UpdateOnlyLines : Prop :=
  ∀ (pid line : Nat) (room : Bool) (s : State),
    let pa := line * 256
    let old := (s.homeOf pa).sharers
    let copies := old.filterMap fun p => uoAt (s.clu p) line
    let waits := waitsAtHome s pa 256 fun o => !gathers s o
    (∀ c ∈ s.ctxs, ∀ w ∈ (s.ctx c.1).watch, w.en = false) → old.Nodup →
    (∀ u, uoAt (s.clu pid) line = some u → u.ut = none → u.refused = false → leasesOver s pa = true → writeHeld s pa = false →
        (s.homeOf pa).owners = [] → pid ∉ old →
        Goes (exec (.updateOnlyGrant pid line room) s) fun t => t.threads = s.threads ∧ t.groups = s.groups ∧
          if room = false then uoAt (t.clu pid) line = some { u with vals := [], refused := true } ∧ (t.homeOf pa).sharers = []
              ∧ t.mem = Gathered s.mem line (copies ++ [u])
          else uoAt (t.clu pid) line = some { u with ut := some (s.now / 1000) }
            ∧ if ∃ v ∈ copies, v.op ≠ u.op ∨ v.width ≠ u.width
              then (t.homeOf pa).sharers = [pid] ∧ (∀ p ∈ old, uoAt (t.clu p) line = none) ∧ t.mem = Gathered s.mem line copies
              else (t.homeOf pa).sharers = old ++ [pid] ∧ SameMem s t)
    ∧ (uoAt (s.clu pid) line = none → exec (.updateOnlyGrant pid line room) s = .next s)
    ∧ (waits = true → old ≠ [] → Goes (exec (.updateOnlyCombine line) s) fun t =>
        (t.homeOf pa).sharers = [] ∧ (∀ p ∈ old, uoAt (t.clu p) line = none)
        ∧ t.mem = Gathered s.mem line copies ∧ t.threads = s.threads ∧ t.groups = s.groups)
    ∧ (waits = false ∨ old = [] → exec (.updateOnlyCombine line) s = .next s)

/-- R78, R80 to R82: a walk for a cluster that runs the context installs the leaf it finds and leaves its A bit set in memory,
where no lock holds that write; a leaf whose page is reserved is not installed, nor are the table entries on its path. Without
such a flock, for a non-canonical address, or with EN = 0, nothing happens. -/
def Sys2Proof.Claims.TableWalks : Prop :=
  ∀ (pid ctx va : Nat) (s : State),
    let runs := s.flocks.any fun f => decide (f.2.ctx = ctx) && f.2.resident && f.2.clus.contains pid
    (runs = true → canonical va = true → (s.ctx ctx).en = true → Goes (exec (.tableWalk pid ctx va) s) fun t =>
        t.threads = s.threads ∧ t.groups = s.groups ∧ Sys2Proof.Claims.SameOps s t
        ∧ ∀ r leaf x ns, s.mem.wf = true → cachedLeaf s pid ctx va = none → walkBy atHome s pid ctx va = (r, .ok (leaf, x, ns)) →
            let res := reserved r (leaf.pa + va % 2 ^ pageBits leaf.level)
            let quiet : Prop := leaf.entry % 8 = 0 ∧ (r.homeOf leaf.entry).owners = [] ∧ (r.homeOf leaf.entry).sharers = []
            (res = true → t = r)
            ∧ (res = false → leaf ∈ (t.clu pid).tlb ∧ leaf ∈ (t.clu pid).tlb1
              ∧ (r.late = [] → lockHeld r leaf.entry = false → (t.mem.readNat leaf.entry 8).testBit 5 = true)
              ∧ (cachedLeaf r pid ctx va = none → quiet → cachedLeaf t pid ctx va = some leaf)))
    ∧ (∀ r c, runs = true → canonical va = true → (s.ctx ctx).en = true → cachedLeaf s pid ctx va = none →
        walkBy atHome s pid ctx va = (r, .error c) → exec (.tableWalk pid ctx va) s = .next r)
    ∧ (runs = false ∨ canonical va = false ∨ (s.ctx ctx).en = false → exec (.tableWalk pid ctx va) s = .next s)

/-- R74, R89, R92 and R317: the host's CXL.mem accesses. A write to host-biased pages, of lines that the device has not
obtained, writes exactly its bytes, a read none. A write to a line that the device has obtained takes it back first: no L1
keeps a copy of it. A write of a byte that a migration's lock holds stands with the held writes and leaves memory as it
was. That the run stops outside HB to HB + 1 TiB is the model's choice (log 93), as is that memory does not answer before
Stage 2 (log 62). -/
def Sys2Proof.Claims.HostMemoryAccess : Prop :=
  ∀ (hpa len data : Nat) (wr : Bool) (s : State), s.mem.wf = true →
    let pa := hpa - s.pkg.hb
    let free (a : Nat) : Prop := pinHeld s a = false ∧ lockHeld s a = false
    (s.clu noClu).l1 = [] →
    (hpa < s.pkg.hb ∨ s.pkg.hb + 2 ^ 40 < hpa + len → exec (.hostCxlMemAccess wr hpa len data) s = .fault (.noSuchAddress hpa))
    ∧ (s.pkg.hb ≤ hpa → hpa + len ≤ s.pkg.hb + 2 ^ 40 → s.pkg.stage < 2 → exec (.hostCxlMemAccess wr hpa len data) s = .next s)
    ∧ (s.pkg.hb ≤ hpa → hpa + len ≤ s.pkg.hb + 2 ^ 40 → 2 ≤ s.pkg.stage → (∀ i, i < len → (pa + i) / 65536 ∉ s.bias ∧ free (pa + i) ∧ (s.homeOf (pa + i)).grant = 0) →
        exec (.hostCxlMemAccess false hpa len data) s = .next s
        ∧ Goes (exec (.hostCxlMemAccess true hpa len data) s) fun t => t = { s with mem := t.mem, homes := t.homes, ops := t.ops }
          ∧ t.ops.map (fun o => { o with alt := [] }) = s.ops.map (fun o => { o with alt := [] })
          ∧ ∀ a, t.mem.read a = if pa ≤ a ∧ a < pa + len then BitVec.ofNat 8 (data / 256 ^ (a - pa)) else s.mem.read a)
    ∧ (s.pkg.hb ≤ hpa → hpa < s.pkg.hb + 2 ^ 40 → 2 ≤ s.pkg.stage → pa / 65536 ∉ s.bias → 1 ≤ (s.homeOf pa).grant → lockHeld s pa = false →
        Goes (exec (.hostCxlMemAccess true hpa 1 data) s) fun t => (t.homeOf pa).grant = 0
          ∧ ∀ p, ∀ l ∈ (t.clu p).l1, l.line = pa / 256 → l.sectors = [])
    ∧ (s.pkg.hb ≤ hpa → hpa < s.pkg.hb + 2 ^ 40 → 2 ≤ s.pkg.stage → pa / 65536 ∈ s.bias → (s.homeOf pa).owners = [] →
        (s.homeOf pa).sharers = [] → wr = false ∨ lockHeld s pa = false → Goes (exec (.hostCxlMemAccess wr hpa 1 data) s) fun t =>
          (t.homeOf pa).hostCopy = true ∧ t.threads = s.threads ∧ t.clusters = s.clusters
          ∧ ∀ a, t.mem.read a = if wr = true ∧ a = pa then BitVec.ofNat 8 data else s.mem.read a)
    ∧ (s.pkg.hb ≤ hpa → hpa < s.pkg.hb + 2 ^ 40 → 2 ≤ s.pkg.stage → lockHeld s pa = true →
        Goes (exec (.hostCxlMemAccess true hpa 1 data) s) fun t => t.late = s.late ++ [⟨noClu, pa, [BitVec.ofNat 8 data], 0, false⟩]
          ∧ t = { s with held := t.held, late := t.late })

/-- R305: a snoop of a line that the host owns ends every L1 copy of it in the package and drops it from its home
slice; the device-biased lines are none of the host's. -/
def Sys2Proof.Claims.SnoopsEndLeases : Prop :=
  ∀ (pa : Nat) (s : State),
    (devBiased s pa = true ∨ (2 ^ 40 ≤ pa ∧ pa < 2 ^ 51) ∨ 2 ^ 52 ≤ pa → exec (.cxlCacheSnoop pa) s = .next s)
    ∧ (devBiased s pa = false → pa < 2 ^ 40 ∨ (2 ^ 51 ≤ pa ∧ pa < 2 ^ 52) → Goes (exec (.cxlCacheSnoop pa) s) fun t =>
        (∀ p, ∀ l ∈ (t.clu p).l1, l.line = pa / 256 → l.sectors = [])
        ∧ (∀ l ∈ (t.clu (homeSlice t pa)).l2, l.line ≠ pa / 256) ∧ (∀ l ∈ (t.clu (homeSlice t pa)).pins, l.line ≠ pa / 256)
        ∧ (t.homeOf pa).grant = 0 ∧ t.threads = s.threads ∧ t.groups = s.groups ∧ Sys2Proof.Claims.SameOps s t ∧ t.flocks = s.flocks)

/-- R74, R92 and R305: what the host does to device memory and to the lines it owns. -/
def Sys2Proof.Claims.HostAndSnoops : Prop :=
  Sys2Proof.Claims.HostMemoryAccess ∧ Sys2Proof.Claims.SnoopsEndLeases

/-- R428: a host-window access whose completion is an error, or that exceeds the completion timeout. A generator read
traps CXLERR precisely, with the address as its value, and its register is outstanding no more; a posted store, performed
or not, sets WBFAULT and CXLERR (bits 4 and 5) in its context's CTXEVT, takes a fault record and is gone; an access
elsewhere, or one that a stash entry serves, is unaffected. -/
def Sys2Proof.Claims.CxlErrors : Prop :=
  ∀ (s : State) (o : MemOp) (va pa : Nat), findOp s o.id = some o → o.place = .glob va pa →
    let x := s.thr o.tid
    let i := Instr.cxlerr o.id
    exec (.cxlCompletionTimeout o.id) s = exec i s
    ∧ (isHost pa = false ∨ (stashVa s o.pid va).isSome = true → exec i s = .next s)
    ∧ (isHost pa = true → stashVa s o.pid va = none → o.gw = none → o.made = none → (s.flk o.tid.fid).resident = true → o.str = none → o.deed = .load →
        ∀ n, x.hostOp = some (o.id, n) → x.intrap = false → x.tvec.toNat / 4 ≠ 0 → Goes (exec i s) fun t =>
          findOp t o.id = none ∧ SameMem s t ∧ (∀ u, u ≠ o.tid → t.thr u = s.thr u)
          ∧ t.thr o.tid = { x with
              tpc := x.pc, tcause := 0x17, tval := BitVec.ofNat 64 va, intrap := true, wait := none, hostOp := none, popAt := none
              pc := BitVec.ofNat 64 (4 * (x.tvec.toNat / 4)), out := (t.thr o.tid).out, acqOp := (t.thr o.tid).acqOp }
          ∧ ∀ r ∈ (t.thr o.tid).out, r.pend ≠ .mem o.id)
    ∧ (isHost pa = true → stashVa s o.pid va = none → o.gw = none → (s.flk o.tid.fid).resident = true → ∀ data, o.deed = .store data →
        Goes (exec i s) fun t => findOp t o.id = none ∧ (t.ctx o.ctx).evt.testBit 4 = true ∧ (t.ctx o.ctx).evt.testBit 5 = true
          ∧ (t.ctx o.ctx).frHead = ((s.ctx o.ctx).frHead + 1) % 2 ^ 32)

/-- Host accesses to device memory, snoops, and CXL errors.
The model's own readings in it: logs 62, 93. -/
def Obligations.HostAccesses : Prop :=
  Sys2Proof.Claims.HostAndSnoops ∧ Sys2Proof.Claims.CxlErrors

/-- R336 and R337: the fetch agent's fill. For a line that a running thread of the flock fetches from, where the
address translates, every cluster of the die that runs the same image and context holds the line, with the bytes of
memory. Where no thread wants it, nothing happens. -/
def Sys2Proof.Claims.InstructionFills : Prop :=
  ∀ (pid fid va : Nat) (s : State),
    let ctx := (s.flk fid).ctx
    let wanted : Prop := ∃ e ∈ s.threads, e.1.fid = fid ∧ s.pidOf fid e.1.clu = pid ∧ e.2.status = .running
      ∧ (e.2.pc.toNat = va ∨ (e.2.pc + 4).toNat = va)
    (¬ wanted → exec (.instructionFill pid fid va) s = .next s)
    ∧ (wanted → (s.flk fid).resident = true → canonical va = true → (s.ctx ctx).en = true →
        ∀ pa, (translate s pid ctx va .fetch).2 = .ok pa → Goes (exec (.instructionFill pid fid va) s) fun t =>
          t.threads = s.threads ∧ t.groups = s.groups
          ∧ ∀ p, (p = pid ∨ (p / 64 = pid / 64 ∧ ∃ f ∈ s.flocks, f.2.ctx = ctx ∧ f.2.rcd.image = (s.flk fid).rcd.image
                ∧ f.2.resident = true ∧ p ∈ f.2.clus)) →
              ∃ l ∈ (t.clu p).icache, l.ctx = ctx ∧ l.va = va / 256 * 256 ∧ l.data = t.mem.readList (pa / 256 * 256) 256)

/-- Table walks and instruction fills. -/
def Obligations.WalksAndFills : Prop :=
  Sys2Proof.Claims.TableWalks ∧ Sys2Proof.Claims.InstructionFills

/-- R344: STR.BIND, STR.SEL and STR.FREE. A bound stream traps STREAM on a BIND, masks outside the limits trap STRARG;
else the stream starts afresh with its masks and becomes current where the thread has none. SEL needs no open run (RUN),
no capture (REELSTATE) and a bound stream (STREAM). FREE of a stream whose words have all issued unbinds it, of an
unbound one does nothing, and otherwise waits. No general register and no byte of memory changes. -/
def Obligations.StreamWords : Prop :=
  ∀ (sb : Bool) (a b : GReg) (n : BitVec 2) (s : State),
    let k := n.toNat
    let x := me s
    let st := strOf s s.cur k
    let g := (rd s a).toNat
    let c0 := (rd s b).toNat
    let c := if c0 = 0 then 2 ^ s.cur.clu else c0
    let limits : Prop := g < 2 ^ 16 ∧ c0 < 2 ^ 16 ∧ g ≠ 0 ∧ g < 2 ^ (myFlk s).rcd.groups ∧ c.testBit s.cur.clu = true
      ∧ popCount 16 c ≤ 8 ∧ c < 2 ^ (myFlk s).clus.length
    let bind := Instr.strBind sb a b n
    let sel := Instr.strSel sb n
    let free := Instr.strFree sb n
    let openRun := match curStream x with
      | some (_, st) => !st.openRun.isEmpty
      | none => false
    let now : State := s.setThr s.cur { x with
      pc := x.pc + 4, wait := none, current := if x.current = some k then none else x.current
      streams := x.streams.set k { st with gmask := 0, cmask := 0 } }
    (st.gmask ≠ 0 → exec bind s = .next (Trapped s .stream (wordOf bind) x.pc))
    ∧ (st.gmask = 0 → ¬ limits → exec bind s = .next (Trapped s .strarg (wordOf bind) x.pc))
    ∧ (st.gmask = 0 → limits → Goes (exec bind s) fun t => SameMem s t ∧ (∀ u, u ≠ s.cur → t.thr u = s.thr u)
        ∧ strOf t s.cur k = { Stream.unbound with bind := s.nextId, gmask := g, cmask := c }
        ∧ (∀ j, j < 4 → j ≠ k → strOf t s.cur j = strOf s s.cur j)
        ∧ (me t).current = (if x.current.isSome then x.current else some k) ∧ (me t).pc = x.pc + 4 ∧ (me t).g = x.g
        ∧ (me t).status = x.status ∧ (me t).intrap = x.intrap)
    ∧ exec sel s = (if openRun then .next (Trapped s .run (wordOf sel) x.pc)
        else if x.capture.isSome then .next (Trapped s .reelstate (wordOf sel) x.pc)
        else if st.gmask = 0 then .next (Trapped s .stream (wordOf sel) x.pc)
        else .next (s.setThr s.cur { x with current := some k, pc := x.pc + 4 }))
    ∧ exec free s = (if x.current = some k ∧ st.openRun ≠ [] then .next (Trapped s .run (wordOf free) x.pc)
        else if x.capture.isSome then .next (Trapped s .reelstate (wordOf free) x.pc)
        else if st.gmask = 0 then .next (At s (x.pc + 4))
        else if drained st then .next now
        else .next (s.setThr s.cur { x with wait := some (x.wait.getD ⟨s.now, [], none⟩) }))

/-- R350, R351 and R353: REEL.OPEN, REEL.SHUT and REEL.DROP. A capture needs no open run (RUN), a reel number below 1024
of a flock with a reel store (REELARG), no other capture (REELSTATE) and a current stream (STREAM). SHUT makes the
captured words the reel, or, past 4096 words, leaves the reel undefined and traps REELFULL at the parcel after it. DROP
makes the reel undefined. A reel that changes leaves every reel cache; SHUT and DROP stall at their first attempt, and the
caches have dropped their copies when the thread goes on (how long it stalls is left open: log 136, the model's choice). -/
def Sys2Proof.Claims.ReelCaptures : Prop :=
  ∀ (sb : Bool) (a : GReg) (s : State),
    let x := me s
    let k := s.ctx (myCtx s)
    let n := (rd s a).toNat
    let openRun := match curStream x with
      | some (_, st) => !st.openRun.isEmpty
      | none => false
    let trapAs (c : Cause) (i : Instr) : Out := .next (Trapped s c (wordOf i) x.pc)
    let kept (c : Nat) : List ReelEnt → List ReelEnt := fun l => l.filter fun e => ¬ ((s.flk e.fid).ctx = myCtx s ∧ e.num = c)
    let reels (c : Nat) (r : Table Nat (List (BitVec 64))) : State := { s.setCtx (myCtx s) { k with reels := r } with
      clusters := s.clusters.map fun p => (p.1, { p.2 with reels := kept c p.2.reels }) }
    let opn := Instr.reelOpen sb a
    let shut := Instr.reelShut sb
    let stalled : Out := .next (s.setThr s.cur { x with wait := some ⟨s.now, [], none⟩ })
    exec opn s = (if openRun then trapAs .run opn
      else if 1024 ≤ n ∨ (myFlk s).rcd.reels = 0 then trapAs .reelarg opn
      else if x.capture.isSome then trapAs .reelstate opn
      else if (curStream x).isNone then trapAs .stream opn
      else .next (s.setThr s.cur { x with capture := some (n, []), pc := x.pc + 4 }))
    ∧ (openRun = true → exec shut s = trapAs .run shut)
    ∧ (openRun = false → x.capture = none → exec shut s = trapAs .reelstate shut)
    ∧ (∀ r ws, openRun = false → x.capture = some (r, ws) → exec shut s =
        (if 4096 < ws.length then
          .next (Trapped ((reels r (k.reels.erase r)).setThr s.cur { x with capture := none }) .reelfull (wordOf shut) (x.pc + 4))
        else if x.wait = none then stalled
        else .next ((reels r ((k.reels.erase r).set r ws)).setThr s.cur { x with capture := none, wait := none, pc := x.pc + 4 })))
    ∧ exec (.reelDrop sb a) s = (if 1024 ≤ n then trapAs .reelarg (.reelDrop sb a)
        else if x.wait = none then stalled
        else .next ((reels n (k.reels.erase n)).setThr s.cur { x with wait := none, pc := x.pc + 4 }))

/-- R352 and R349: REEL.PLAY of a defined reel, none of whose hole registers is outstanding and every word of which passes its
checks, queues a play of the words as they stand, bound to the registers' present values, at the end of the stream's
plays; four queued plays make it wait. The head play is looked up in the reel cache of its cluster first: a reel that is
there becomes the most recently played one, one that is larger than the flock's share is fed from the store, and another
is loaded, or fed from the store, with the share never exceeded and the other flocks' reels untouched. A play that is ready
feeds its next lane word into the stream with the next sequence number, and a trailer closes the run it has fed. A word whose
handle is not valid ends the play, and a BARGEN trap with the handle as its value is held for the next boundary (R422). -/
def Sys2Proof.Claims.ReelPlays : Prop :=
  ∀ (sb : Bool) (a : GReg) (s : State) (n : Nat) (st : Stream) (ws : List (BitVec 64)),
    let x := me s
    let b := (holes ws).map fun r => (r, x.gr r)
    (curStream x = some (n, st) → st.openRun = [] → (rd s a).toNat < 1024 → (myFlk s).rcd.reels ≠ 0 → x.capture = none →
      (s.ctx (myCtx s)).reels.find (rd s a).toNat = some ws → ws ≠ [] → (∀ o ∈ x.out, o.reg = 0 ∨ o.reg ∉ holes ws) →
      (∀ w ∈ ws, playCheck s (some st) b w = none) →
      exec (.reelPlay sb a) s = .next (s.setThr s.cur (if st.plays.length < 4 then { x with
          pc := x.pc + 4, wait := none
          streams := x.streams.set n { strOf s s.cur n with
            plays := (strOf s s.cur n).plays ++ [⟨(rd s a).toNat, ws, b, 0, x.yoke, false⟩] } }
        else { x with wait := some (x.wait.getD ⟨s.now, [], none⟩) })))
    ∧ (∀ p rest, st = strOf s s.cur n → st.plays = p :: rest → (myFlk s).resident = true → (myFlk s).preReq = false →
        bufferFull s s.cur n = false → p.ready = false →
        let size := (8 * p.words.length + 255) / 256
        let share := 16 * (myFlk s).rcd.reelShare
        let mine (c : Cluster) : List ReelEnt := c.reels.filter fun e => e.fid = s.cur.fid
        Goes (exec (.reelPlayFeed s.cur.fid s.cur.clu s.cur.t n) s) fun t =>
          SameMem s t ∧ t.groups = s.groups ∧ (∀ u, u ≠ s.cur → t.thr u = s.thr u) ∧ (me t).g = x.g ∧ (me t).pc = x.pc
          ∧ strOf t s.cur n = { st with plays := { p with ready := true } :: rest }
          ∧ (∀ q, q ≠ myPid s → t.clu q = s.clu q)
          ∧ (t.clu (myPid s)).reels.filter (fun e => e.fid ≠ s.cur.fid) = (s.clu (myPid s)).reels.filter (fun e => e.fid ≠ s.cur.fid)
          ∧ ((∃ e ∈ mine (s.clu (myPid s)), e.num = p.num) →
              mine (t.clu (myPid s)) = (mine (s.clu (myPid s))).filter (fun e => e.num ≠ p.num) ++ [⟨s.cur.fid, p.num, size⟩])
          ∧ ((∀ e ∈ mine (s.clu (myPid s)), e.num ≠ p.num) → share < size → t.clu (myPid s) = s.clu (myPid s))
          ∧ ((∀ e ∈ mine (s.clu (myPid s)), e.num ≠ p.num) → size ≤ share → t.clu (myPid s) = s.clu (myPid s)
            ∨ ∃ l, mine (t.clu (myPid s)) = l ++ [⟨s.cur.fid, p.num, size⟩] ∧ (l.map (·.size)).sum + size ≤ share))
    ∧ (∀ p rest w more, st = strOf s s.cur n → st.plays = p :: rest → (myFlk s).resident = true → (myFlk s).preReq = false →
        p.ready = true → st.masks = [] →
        bufferFull s s.cur n = false → p.words.drop p.pos = w :: more → (lOp w).toNat ∉ [0x201, 0x207, 0x190, 0x191, 0x30B] →
        usesCode (lOp w).toNat (laneFields w) = false → handleWord s s.cur.fid (withUniforms (bindOf p.bind) w p.yoke) = none →
        Goes (exec (.reelPlayFeed s.cur.fid s.cur.clu s.cur.t n) s) fun t =>
          SameMem s t ∧ t.groups = s.groups ∧ (∀ u, u ≠ s.cur → t.thr u = s.thr u) ∧ (me t).g = x.g ∧ (me t).pc = x.pc
          ∧ (strOf t s.cur n).plays = (if more = [] then rest else { p with pos := p.pos + 1 } :: rest)
          ∧ (if (lOp w).toNat = 0x380 then
              (strOf t s.cur n).runs = st.runs ++ [⟨st.nextRun, st.playRun, w, st.openBorn⟩] ∧ (strOf t s.cur n).playRun = []
            else (strOf t s.cur n).seq = (st.seq + 1) % 2 ^ 32 ∧ (strOf t s.cur n).playRun
              = st.playRun ++ [{ withUniforms (bindOf p.bind) w p.yoke with seq := st.seq }]))
    ∧ (∀ p rest w more v, st = strOf s s.cur n → st.plays = p :: rest → (myFlk s).resident = true → (myFlk s).preReq = false →
        p.ready = true → bufferFull s s.cur n = false → p.words.drop p.pos = w :: more → st.masks = [] →
        handleWord s s.cur.fid (withUniforms (bindOf p.bind) w p.yoke) = some .bargen →
        (withUniforms (bindOf p.bind) w p.yoke).handle? = some v → x.status = .running → (∀ h ∈ x.held, h.cause ≠ .bargen) →
        Goes (exec (.reelPlayFeed s.cur.fid s.cur.clu s.cur.t n) s) fun t => OnlyThread s t s.cur ∧ (me t).g = x.g
          ∧ (∃ h, (me t).held = x.held ++ [h] ∧ h.cause = .bargen ∧ h.tval = BitVec.ofNat 64 v)
          ∧ (strOf t s.cur n).plays = rest ∧ (strOf t s.cur n).seq = st.seq)

/-- Captures and plays of reels.
The model's own readings in it: log 136. -/
def Obligations.Reels : Prop :=
  Sys2Proof.Claims.ReelCaptures ∧ Sys2Proof.Claims.ReelPlays

/-- R354, R355 and R243: the vote queue. VQ.POP of an empty queue traps VQEMPTY; else it takes the head entry, whose
bits are on their way to the register once it is present; until then the thread remembers the parcel it waits at. VQ.PEEK delivers the head's bits if it is present and 0
otherwise, and removes nothing. The oldest entry that is not present becomes so once no bound group still has to issue
its VOTE, and a popped one goes to its register. That a VQ.POP of an entry that is not present leaves its register outstanding and
goes on is the model's reading (log 92).
The model's own readings in it: log 92. -/
def Obligations.VoteQueue : Prop :=
  ∀ (sb : Bool) (d : GReg) (s : State),
    let x := me s
    let q := x.votes.filter fun v => !v.popped
    let later (p : Pend) (vs : List VoteEnt) (wait : Option Word64) : Out :=
      .next (s.setThr s.cur { x with pc := x.pc + 4, votes := vs, out := x.out ++ [⟨d.toNat, p⟩], popAt := wait })
    let popped := (x.votes.filter fun v => v.popped).length
    let arrive (t : Tid) : Instr := .voteEntryPresent t.fid t.clu t.t
    (q = [] → exec (.vqPop sb d) s = .next (Trapped s .vqempty (wordOf (.vqPop sb d)) x.pc)
      ∧ exec (.vqPeek sb d) s = later (.value 0) x.votes x.popAt)
    ∧ (∀ old v rest, x.votes = old ++ v :: rest → (∀ u ∈ old, u.popped = true) → v.popped = false →
        exec (.vqPeek sb d) s = later (.value (if v.present then v.bits else 0)) x.votes x.popAt
        ∧ exec (.vqPop sb d) s = (if v.present then later (.value v.bits) (old ++ rest) none
            else later (.vote v.str v.seq) (old ++ { v with popped := true } :: rest) (x.popAt.or (some x.pc))))
    ∧ (∀ v rest old, x.votes = old ++ v :: rest → (∀ u ∈ old, u.present = true) → v.present = false → v.popped = false →
        exec (arrive s.cur) s = .next (if v.need = [] then s.setThr s.cur { x with votes := old ++ { v with present := true } :: rest }
          else s))
    ∧ (∀ v rest o os, x.votes = v :: rest → v.present = false → v.popped = true → v.need = [] → x.out = o :: os →
        o.pend = .vote v.str v.seq →
        exec (arrive s.cur) s = .next (s.setThr s.cur { x with
          votes := rest, out := { o with pend := .value v.bits } :: os
          popAt := match x.popAt with
            | none => none
            | some at' =>
              if popped = (x.pc - at').toNat / 4 then (if (x.pc - at').toNat / 4 = 1 then none else some (at' + 4)) else some at' }))

/-- R357 and R358: the three masks. A slot that the current stream does not bind traps STRARG. MASK.RD leaves its
register outstanding, and it takes the mask at once where every earlier word of the stream has issued; behind plays that are
queued, both words take their place after them. An EXMASK write that the current stream does not govern takes effect at
once, never turns on a parked or exited lane, and leaves what a word of the same cycle still sees. That a mask word waits
behind queued plays is the model's choice (log 26).
The model's own readings in it: log 26. -/
def Obligations.MaskWords : Prop :=
  ∀ (sb : Bool) (d a b : GReg) (which : BitVec 2) (s : State),
    let x := me s
    let k := (rd s a).toNat
    let bound : Prop := ∃ n st, curStream x = some (n, st) ∧ k < 16 ∧ st.gmask.testBit k = true
    let rdI := Instr.maskRd sb d a which
    let wrI := Instr.maskWr sb a b
    let mask (f : Group → Nat) : Nat := if k < (myFlk s).rcd.groups then f (s.grp s.cur.fid s.cur.clu k) else 0
    let value := match which.toNat with
      | 0 => mask (·.ex)
      | 1 => mask (·.park)
      | _ => mask (·.exit)
    (¬ bound → exec rdI s = .next (Trapped s .strarg (wordOf rdI) x.pc) ∧ exec wrI s = .next (Trapped s .strarg (wordOf wrI) x.pc))
    ∧ (∀ n st, curStream x = some (n, st) → k < 16 → st.gmask.testBit k = true → st.plays ≠ [] → st.plays.length ≤ 4 →
        strOf s s.cur n = st →
        (x.out = [] → exec rdI s = .next (s.setThr s.cur { x with
          pc := x.pc + 4, out := [⟨d.toNat, .maskRd which.toNat k ⟨n, 2 ^ 40 + st.plays.length⟩ s.tick⟩] }))
        ∧ (st.masks = [] → st.cmask < 2 ^ 16 → (∀ p, st.prog.get p 0 ≤ 2 ^ 40) → exec wrI s = .next (s.setThr s.cur { x with
            pc := x.pc + 4
            streams := x.streams.set n { st with
              masks := (setBits 16 st.cmask).map fun m => (2 ^ 40 + st.plays.length, m * 16 + k, (rd s b).toNat % 2 ^ 32, s.tick) } })))
    ∧ (∀ n st, curStream x = some (n, st) → k < 16 → st.gmask.testBit k = true → st.plays = [] → st.openRun = [] → st.runs = [] →
        st.seq < 2 ^ 32 → x.out = [] → strOf s s.cur n = st →
        exec rdI s = .next (s.setThr s.cur { x with pc := x.pc + 4, out := [⟨d.toNat, .value (BitVec.ofNat 64 value)⟩] })
        ∧ (st.masks = [] → st.cmask = 2 ^ s.cur.clu → s.cur.clu < 16 → (∀ p, st.prog.get p 0 = st.nextRun) →
            k < (myFlk s).rcd.groups → regroupPending s s.cur.fid s.cur.clu k = false → Goes (exec wrI s) fun t =>
            (t.grp s.cur.fid s.cur.clu k) = { s.grp s.cur.fid s.cur.clu k with ex := (t.grp s.cur.fid s.cur.clu k).ex }
            ∧ (∀ l, l < 32 → (t.grp s.cur.fid s.cur.clu k).ex.testBit l = ((rd s b).getLsbD l
                && !(s.grp s.cur.fid s.cur.clu k).park.testBit l && !(s.grp s.cur.fid s.cur.clu k).exit.testBit l))
            ∧ (me t).g = x.g ∧ (me t).pc = x.pc + 4 ∧ SameMem s t ∧ (∀ u, u ≠ s.cur → t.thr u = s.thr u)))
    ∧ (∀ slot v, maskSlot s slot = none → slot < (myFlk s).rcd.groups → Goes (exec (.exmaskWrite slot v) s) fun t =>
        t = { s with groups := t.groups } ∧ (∀ f c g, (f, c, g) ≠ (s.cur.fid, s.cur.clu, slot) → t.grp f c g = s.grp f c g)
        ∧ t.grp s.cur.fid s.cur.clu slot = { s.grp s.cur.fid s.cur.clu slot with
            ex := (t.grp s.cur.fid s.cur.clu slot).ex, exWas := some (s.now, (s.grp s.cur.fid s.cur.clu slot).ex) }
        ∧ ∀ l, l < 32 → (t.grp s.cur.fid s.cur.clu slot).ex.testBit l = (v.getLsbD l
            && !(s.grp s.cur.fid s.cur.clu slot).park.testBit l && !(s.grp s.cur.fid s.cur.clu slot).exit.testBit l))
    ∧ (∀ slot v, (myFlk s).rcd.groups ≤ slot → maskSlot s slot = none → exec (.exmaskWrite slot v) s = .next s)

/-- R55, R40, R43 and R434: emission. A malformed word traps ILLEGAL, one of another role ROLE, a full-mask word under a
guard MASK, a trailer without an open run, a word in a full run and a second word beside an LWAIT RUN, a word with no
current stream STREAM, each before it enters. A word with T = 1 traps RUN where the next doubleword is no trailer, and with
the cause of the fetch where that fails. A word that passes, with T = 1 or without, joins the open run of the current stream
with the next sequence number, and a trailer closes the run; the program counter moves by 8, and no general register, group
or byte of memory changes (but for what fetching the doubleword after it does). A retired word first stalls for its
emulation. That the first check applies to a trailer too is the model's inference (log 50), and how long a retired word
stalls its choice (log 136).
The model's own readings in it: logs 50, 136. -/
def Obligations.LaneWordEmission : Prop :=
  ∀ (w : BitVec 64) (s : State),
    let x := me s
    let op := (lOp w).toNat
    let f := laneFields w
    let i := Instr.laneWordEmit w
    let trapAs (c : Cause) : Out := .next (Trapped s c w x.pc)
    let formed : Prop := assigned op = true ∧ f.ok op = true
    let e := withUniforms (fun r => (x.gr r).toNat) w x.yoke
    let next := fetchBytes s s.cur.fid (myPid s) (x.pc + 8).toNat 8
    let trailer (bs : List Byte) : Prop := lCls (BitVec.ofNat 64 (leNat bs)) = 3 ∧ lOp (BitVec.ofNat 64 (leNat bs)) = 0x380
    let passed (r : State) : Prop := (f.t = false ∧ r = s) ∨ (f.t = true ∧ ∃ bs, next = (r, .ok bs) ∧ trailer bs)
    let retired : Prop := 0x3C0 ≤ op ∧ op ≤ 0x3C2
    (emitHeld s = true → exec i s = .next s)
    ∧ (emitHeld s = false → ¬ formed → exec i s = trapAs .illegal)
    ∧ (emitHeld s = false → formed → roleOk x.role op = false → exec i s = trapAs .role)
    ∧ (emitHeld s = false → formed → roleOk x.role op = true → (isCopyOp op || isMatrixOp op) = true → f.always = false →
        exec i s = trapAs .mask)
    ∧ (emitHeld s = false → formed → roleOk x.role op = true → ((isCopyOp op || isMatrixOp op) = false ∨ f.always = true) →
      (curStream x = none → f.t = false ∨ op = 0x380 → exec i s = trapAs .stream)
      ∧ (∀ n st, curStream x = some (n, st) →
        (op = 0x380 → st.openRun = [] → exec i s = trapAs .run)
        ∧ (op ≠ 0x380 → 32 ≤ st.openRun.length → exec i s = trapAs .run)
        ∧ (op ≠ 0x380 → st.openRun ≠ [] → (op = 0x318 ∨ ∃ v ∈ st.openRun, v.op = 0x318) → exec i s = trapAs .run)
        ∧ (op = 0x380 → st.openRun ≠ [] → strOf s s.cur n = st → Goes (exec i s) fun t =>
            OnlyThread s t s.cur ∧ SameMem s t ∧ (me t).g = x.g ∧ (me t).pc = x.pc + 8
            ∧ strOf t s.cur n = { st with
                nextRun := st.nextRun + 1, runs := st.runs ++ [⟨st.nextRun, st.openRun, w, st.openBorn⟩], openRun := [] })
        ∧ (op ≠ 0x380 → st.openRun.length < 32 → (∀ v ∈ st.openRun, v.op ≠ 0x318) → (op = 0x318 → st.openRun = []) → f.t = true →
            (∀ r c, next = (r, .error c) → exec i s = .next (Trapped r c (x.pc + 8) x.pc))
            ∧ (∀ r bs, next = (r, .ok bs) → ¬ trailer bs → exec i s = .next (Trapped r .run w x.pc)))
        ∧ (op ≠ 0x380 → st.openRun.length < 32 → (∀ v ∈ st.openRun, v.op ≠ 0x318) → (op = 0x318 → st.openRun = []) →
            ∀ r, passed r → strOf s s.cur n = st → argCheck r s.cur.fid st.cmask e = none →
            ((x.votes.filter fun v => !v.popped).length < 32 ∨ op ≠ 0x201) →
            (retired → x.wait = none → exec i s = .next (r.setThr s.cur { x with wait := some ⟨r.now, [], none⟩ }))
            ∧ (¬ retired ∨ x.wait ≠ none → Goes (exec i s) fun t =>
            SameMem r t ∧ t.groups = s.groups ∧ (∀ u, u ≠ s.cur → t.thr u = s.thr u) ∧ (me t).g = x.g ∧ (me t).pc = x.pc + 8
            ∧ (strOf t s.cur n).seq = (st.seq + 1) % 2 ^ 32 ∧ (strOf t s.cur n).runs = st.runs
            ∧ ∃ v, (strOf t s.cur n).openRun = st.openRun ++ [v] ∧ v.w = w ∧ v.seq = st.seq ∧ v.ua = e.ua ∧ v.ub = e.ub ∧ v.uc = e.uc))))

/-- R320 and R356: an outstanding value arrives in its register, which is then outstanding no more; a load delivers its
bytes so (R328). UNI writes its register where every active lane of every member has one value, and raises UNIDIFF
otherwise. -/
def Obligations.GeneratorResultsArrive : Prop :=
  ∀ (s : State) (r : Nat),
    let x := me s
    let i := Instr.generatorResultArrival s.cur.fid s.cur.clu s.cur.t r
    let u := Instr.uniResultArrival s.cur.fid s.cur.clu s.cur.t r
    (∀ v os, x.out = ⟨r, .value v⟩ :: os → exec i s = .next (s.setThr s.cur { x.setGr r v with out := os }))
    ∧ ((∀ o ∈ x.out, o.reg ≠ r) → exec i s = .next s ∧ exec u s = .next s)
    ∧ (∀ o pa va sx os, x.out = ⟨r, .mem o.id⟩ :: os → (∀ y ∈ os, y.pend ≠ .mem o.id) → findOp s o.id = some o → o.tid = s.cur →
        o.str = none → o.made = none → o.deed = .load → o.dest = .gen r sx → o.place = .glob va pa → 0 < o.n →
        o.alt = [] → pa % 32 + o.n ≤ 32 → (myFlk s).resident = true → blockedBySame s o = false → stashVa s o.pid va = none →
        readHeld s pa = false → o.na = true → o.acq = false → uoAt (s.clu o.pid) (lineOf pa) = none → l1Hit s o.pid pa = none →
        (s.homeOf pa).owners = [] → (s.homeOf pa).sharers = [] →
        let v := leNat (s.mem.readList pa o.n)
        Goes (exec i s) fun t => SameMem s t ∧ findOp t o.id = none
          ∧ (me t).out = os ∧ (me t).pc = x.pc
          ∧ (∀ k, (me t).gr k = if k = r ∧ k ≠ 0 then
              (if sx then (BitVec.ofNat (8 * o.n) v).signExtend 64 else BitVec.ofNat 64 v) else x.gr k)
          ∧ (∀ y, y ≠ s.cur → t.thr y = s.thr y) ∧ t.groups = s.groups)
    ∧ (∀ str q w ps seen os v, x.out = ⟨r, .uni str q w ps [] seen⟩ :: os → seen ≠ [] → (∀ e ∈ seen, e.2.2.2 = v) →
        exec u s = .next (s.setThr s.cur ({ x with out := os }.setGr r (BitVec.ofNat 64 v))))
    ∧ (∀ str q w ps os, x.out = ⟨r, .uni str q w ps [] []⟩ :: os →
        exec u s = .next (s.setThr s.cur ({ x with out := os }.setGr r 0)))
    ∧ (∀ str q w ps seen os e f, x.out = ⟨r, .uni str q w ps [] seen⟩ :: os → e ∈ seen → f ∈ seen → e.2.2.2 ≠ f.2.2.2 →
        x.status = .running → (∀ h ∈ x.held, h.cause ≠ .unidiff) → Goes (exec u s) fun t =>
          OnlyThread s t s.cur ∧ (me t).g = x.g ∧ ∃ h, (me t).held = x.held ++ [h] ∧ h.cause = .unidiff)

/-- R404: LAUNCH. A misaligned source traps ALIGN, an operand of 2^17 or more ILLEGAL, a failing translation its cause.
A record in the host window is first sent for by an access that the thread waits at. Once it is read, a queue that is not the context's DEV queue answers 2 and a full window 1; otherwise,
the release being over, the record's bytes and then the seal of the lap are stored in the next slot, the tail advances,
and the register takes its number in bits 63 to 32. That the instruction runs again after that access, and takes the record's
bytes as they then stand, is the model's inference (log 118).
The model's own readings in it: log 118. -/
def Obligations.Launches : Prop :=
  ∀ (sb : Bool) (d a b : GReg) (s : State), (me s).acqOp = none →
    let i := Instr.launch sb d a b
    let va := (rd s a).toNat
    let q := (rd s b).toNat
    let r := translate s (myPid s) (myCtx s) va .load
    let marks := ((me s).wait.getD ⟨s.now, closedMarks (me s), none⟩).marks
    let answers (u : State) (o : Out) (v : Nat) (P : State → Prop) : Prop :=
      Goes o fun t => RegIs s t d.toNat (BitVec.ofNat 64 v) ∧ (me t).pc = (me s).pc + 4
        ∧ (∀ y, y ≠ s.cur → t.thr y = s.thr y) ∧ t.groups = s.groups
        ∧ (∀ c, c ≠ q → t.que c = u.que c) ∧ P t
    (va % 256 ≠ 0 → exec i s = .next (Trapped s .align (rd s a) (me s).pc))
    ∧ (va % 256 = 0 → 2 ^ 17 ≤ q → exec i s = .next (Trapped s .illegal (wordOf i) (me s).pc))
    ∧ (va % 256 = 0 → q < 2 ^ 17 → ∀ c, r.2 = .error c → exec i s = .next (Trapped r.1 c (rd s a) (me s).pc))
    ∧ (va % 256 = 0 → q < 2 ^ 17 → ∀ pa, r.2 = .ok pa → isHost pa = true → (me s).wait = none →
        Goes (exec i s) fun t => AccessIssued s t va pa 256 .load (.gen 0 false) ∧ (me t).pc = (me s).pc
          ∧ (me t).hostOp = some (s.nextId, 0) ∧ (me t).wait.isSome = true)
    ∧ (va % 256 = 0 → q < 2 ^ 17 → ∀ pa u rec, r.2 = .ok pa → isHost pa = false ∨ (me s).wait.isSome = true → readSectors 8 va pa r.1 = (u, some rec) →
        let k := u.que q
        let slot := k.wbase + 256 * (k.t % 2 ^ k.log2n)
        (k.loaded = false ∨ k.dev = false ∨ k.ctx ≠ myCtx s → answers u (exec i s) 2 fun t => SameMem u t ∧ t.que q = k)
        ∧ (k.loaded = true → k.dev = true → k.ctx = myCtx s → 2 ^ k.log2n ≤ k.t - k.h →
            answers u (exec i s) 1 fun t => SameMem u t ∧ t.que q = k)
        ∧ (k.loaded = true → k.dev = true → k.ctx = myCtx s → k.t - k.h < 2 ^ k.log2n → releaseDone u s.cur true 6 marks = true →
            rec.length = 256 → slot % 256 = 0 → (u.homeOf slot).owners = [] → (u.homeOf slot).sharers = [] → u.mem.wf = true →
            answers u (exec i s) (k.t * 2 ^ 32) fun t => t.que q = { k with t := k.t + 1 }
              ∧ ∀ x, t.mem.read x = if slot ≤ x ∧ x < slot + 255 then rec.getD (x - slot) 0
                  else if x = slot + 255 then BitVec.ofNat 8 (128 + k.t / 2 ^ k.log2n % 2) else u.mem.read x))

/-- R387: QCMD. Before Stage 1 the page is not reached. A write starts a command; while one runs, another is ignored. A
command that finishes advances SEQ: LOAD of a loaded queue and UNLOAD of an unloaded one answer 3, any queue but 0 before
Stage 3 answers 2, a descriptor outside R386 answers 2; UNLOAD stops the queue; LOAD takes window, size, priority, kind,
context, entry and clusters from the descriptor and starts at record 0. (The moment at which a command finishes is free, log
37.) -/
def Sys2Proof.Claims.QueueCommands : Prop :=
  ∀ (q : Nat) (s : State), q < 131072 →
    let k := s.que q
    let starts (op : Nat) : State := { s with pkg := { s.pkg with qcmd := some (op, q) } }
    let ends (t : State) (e : Nat) : State :=
      { t with pkg := { s.pkg with qseq := (s.pkg.qseq + 1) % 2 ^ 32, qerr := e, qcmd := none } }
    (s.pkg.qcmd = none → s.pkg.stage = 0 → exec (.load q) s = .next s ∧ exec (.unload q) s = .next s)
    ∧ (s.pkg.qcmd = none → 1 ≤ s.pkg.stage → exec (.load q) s = .next (starts 1) ∧ exec (.unload q) s = .next (starts 2))
    ∧ (∀ c, s.pkg.qcmd = some c → (c ≠ (1, q) → exec (.load q) s = .next s) ∧ (c ≠ (2, q) → exec (.unload q) s = .next s))
    ∧ (s.pkg.qcmd = some (2, q) →
        exec (.unload q) s = .next (if s.pkg.stage < 3 ∧ q ≠ 0 then ends s 2
          else if k.loaded then ends { s with queues := s.queues.set q { k with loaded := false } } 0 else ends s 3))
    ∧ (s.pkg.qcmd = some (1, q) →
        (s.pkg.stage < 3 → q ≠ 0 → exec (.load q) s = .next (ends s 2))
        ∧ (3 ≤ s.pkg.stage ∨ q = 0 →
          (k.loaded = true → exec (.load q) s = .next (ends s 3))
          ∧ (k.loaded = false → descAt s q = none → exec (.load q) s = .next (ends s 2))
          ∧ ∀ at0, k.loaded = false → descAt s q = some at0 → at0 % 128 = 0 → (s.homeOf at0).owners = [] →
              (s.homeOf at0).sharers = [] → readHeld s at0 = false →
              let d := s.mem.readList at0 128
              Goes (exec (.load q) s) fun t =>
                (descOk s d = false → t = { ends s 2 with homes := t.homes })
                ∧ (descOk s d = true → t = { ends s 0 with
                    homes := t.homes
                    queues := s.queues.set q { k with
                      loaded := true, h := 0, t := 0, wbase := at_ d 0 8, log2n := at_ d 8 1, prio := at_ d 9 1
                      dev := decide (at_ d 10 2 = 1), ctx := at_ d 12 4, msix := at_ d 16 2
                      mask := if s.pkg.stage < 3 then [0].filter (present s) else descMask s d } })))

/-- R388 and R391: the dispatcher parses the next record of a loaded queue with no head, once its seal stands for the
record's lap. A record within its limits becomes the head; any other counts past the queue, sets CTXSTAT.RECERR and is
completed with status 1 or 2. That a record without a completion word signals its MSI-X at once, with no store to wait for,
is the model's inference (log 77). -/
def Sys2Proof.Claims.RecordsParsed : Prop :=
  ∀ (q : Nat) (s : State),
    let k := s.que q
    let slot := k.wbase + 256 * (k.h % 2 ^ k.log2n)
    let mark := s.mem.read (slot + 255)
    let good := mark.getLsbD 7 = true ∧ mark.toNat % 2 = k.h / 2 ^ k.log2n % 2
    let d := s.mem.readList slot 256
    let r := recordOf s k d
    (k.loaded = false ∨ k.head.isSome = true → exec (.recordParse q) s = .next s)
    ∧ (k.loaded = true → k.head = none → slot % 256 = 0 → (s.homeOf slot).owners = [] → (s.homeOf slot).sharers = [] →
        readHeld s slot = false →
        let read := (readAtHome (readAtHome s (slot + 255) 1).1 slot 256).1
        (¬ good → exec (.recordParse q) s = .next s)
        ∧ (good → recordOk r d = true → recordFits r = true → Goes (exec (.recordParse q) s) fun t => t = { s with
            homes := t.homes
            nextId := s.nextId + 1
            queues := s.queues.set q { k with
              h := k.h + 1, head := some r, placed := 0, blockedAt := none, age := 0, barred := false, ends := k.ends.set r.serial (0, false) } })
        ∧ (good → recordOk r d = false ∨ recordFits r = false → Goes (exec (.recordParse q) s) fun t =>
            t.que q = { k with h := k.h + 1 } ∧ (t.ctx k.ctx).recErr = true ∧ t.threads = s.threads ∧ t.flocks = s.flocks
            ∧ (r.done = 0 → t.pkg.msix = s.pkg.msix ++ if r.msix = 0 then [] else [(r.msix, s.now / 1000)])
            ∧ ∀ pa, s.mem.wf = true → r.done ≠ 0 → r.done % 8 = 0 →
                (translate ({ read with nextId := s.nextId + 1, queues := s.queues.set q { k with h := k.h + 1 } }.setCtx k.ctx
                  { s.ctx k.ctx with recErr := true }) (k.mask.headD 0) k.ctx r.done .store).2 = .ok pa →
                t.mem.readNat pa 8 = (if recordOk r d then 2 else 1) * 2 ^ 32 + r.tag))

/-! ## Barriers and stage rings -/

/-- LOAD and UNLOAD of queues, and the parsing of launch records.
The model's own readings in it: logs 37, 77. -/
def Obligations.WorkQueues : Prop :=
  Sys2Proof.Claims.QueueCommands ∧ Sys2Proof.Claims.RecordsParsed

/-- Only some slots of one flock's pool, what the threads remember of their waits, and the watchdog's clock of its context
(R383), may have changed. -/
def Sys2Proof.Claims.OnlyBars (s t : State) (fid : Nat) (which : Nat × Nat → Prop) : Prop :=
  t = { s with flocks := t.flocks, ctxs := t.ctxs, threads := t.threads } ∧ (∀ f, f ≠ fid → t.flk f = s.flk f)
  ∧ (∀ u, t.thr u = { s.thr u with wait := (t.thr u).wait })
  ∧ t.flk fid = { s.flk fid with bars := (t.flk fid).bars } ∧ (∀ k, ¬ which k → barAt t fid k = barAt s fid k)
  ∧ (∀ c, t.ctx c = { s.ctx c with wdLast := (t.ctx c).wdLast }) ∧ ∀ c, c ≠ (s.flk fid).ctx → t.ctx c = s.ctx c

/-- Every lane of SCOPE has arrived or exited (R366). -/
def Sys2Proof.Claims.AllArrived (s : State) (fid : Nat) (b : BarSlot) (arrived : Nat × Nat → Nat) : Prop :=
  ∀ e ∈ b.scope, ∀ k, k < 16 → e.2.testBit k = true → ∀ l, l < 32 →
    (arrived (e.1, k)).testBit l = true ∨ ((s.grp fid e.1 k).exit).testBit l = true

/-- A wait that has not found its phase complete yet. -/
def Sys2Proof.Claims.WaitOn (w : BarWait) (k : Nat × Nat) : Prop :=
  w.out = none ∧ (w.h / 2 ^ 16 % 16, w.h / 2 ^ 8 % 256) = k

/-- The bound of a BAR.WAIT has passed: DT reached it in an earlier cycle of the slot's cluster, so that a phase that completes
in the cycle of the bound still satisfies the wait (R373). -/
def Sys2Proof.Claims.pastBound (s : State) (fid clu t0 timeout : Nat) : Bool :=
  decide (timeout ≠ 0) && decide ((t0 / 1000 + timeout) * 1000 ≤ s.now)
    && !sameCycle s (s.pidOf fid clu) ((t0 / 1000 + timeout) * 1000)

/-- R366: what an event does to a slot. No phase completes while the condition is false. Where it is true, the phase is
consumed and the expectations return to their bases; excess counts are carried and complete further phases as long
as they meet the base expectation and it consumes something; a stage member carries no arrivals. A completed phase ends
the BAR.WAITs on it: with the phase and its moment, or, past the bound, with the timeout (R373). That a completed phase leaves no arrivals, and a
full phase of a stage member no releases but its bytes, is the model's inference (log 24). -/
def Sys2Proof.Claims.PhaseEvents : Prop :=
  ∀ (s : State) (fid : Nat) (k : Nat × Nat),
    let b := barAt s fid k
    let t := barEvent s fid k
    let c := barAt t fid k
    let counts := b.e ≤ b.arr ∧ b.b ≤ b.land
    let same := c = { b with phase := c.phase, t := dt s, e := b.e0, b := b.b0, arr := c.arr, land := c.land, arrived := [], rels := c.rels }
    OnlyBars s t fid (· = k)
    ∧ (b.used = false → t = s)
    ∧ (b.used = true → b.kind = 0 ∨ b.kind = 2 → (¬ counts → t = s)
      ∧ (counts → ∃ n, same ∧ c.phase = (b.phase + 1 + n) % 65536 ∧ c.rels = b.rels
          ∧ c.arr + n * b.e0 = b.arr - b.e ∧ c.land + n * b.b0 = b.land - b.b
          ∧ (b.e0 = 0 → b.b0 = 0 → n = 0) ∧ ((1 ≤ b.e0 ∨ 1 ≤ b.b0) → c.arr < b.e0 ∨ c.land < b.b0)))
    ∧ (b.used = true → b.kind = 1 →
      let here := AllArrived s fid b fun q => b.arrived.get q 0
      (¬ (here ∧ b.b ≤ b.land) → t = s)
      ∧ (here → b.b ≤ b.land → ∃ n, same ∧ c.phase = (b.phase + 1 + n) % 65536 ∧ c.land + n * b.b0 = b.land - b.b
          ∧ (b.b0 = 0 ∨ ¬ AllArrived s fid b (fun _ => 0) → n = 0)
          ∧ (1 ≤ b.b0 → AllArrived s fid b (fun _ => 0) → c.land < b.b0)))
    ∧ (b.used = true → b.kind = 3 → b.phase % 2 = 0 → (¬ counts → t = s)
      ∧ (counts → b.rels < b.ec → same ∧ c.phase = (b.phase + 1) % 65536 ∧ c.arr = 0 ∧ c.land = b.land - b.b ∧ c.rels = b.rels))
    ∧ (b.used = true → b.kind = 3 → b.phase % 2 = 1 → (b.rels < b.ec → t = s)
      ∧ (b.ec ≤ b.rels → 1 ≤ b.e0 ∨ b.land < b.b0 → same ∧ c.phase = (b.phase + 1) % 65536 ∧ c.arr = 0
          ∧ c.land = b.land ∧ c.rels = 0))
    ∧ (b.used = true → phaseDone s fid b = true → ∀ (u : Tid) t0 ms w, (s.thr u).wait = some ⟨t0, ms, some w⟩ → u.fid = fid →
        WaitOn w k → w.h / 2 ^ 20 % 2 ^ 12 = b.gen → w.p < 2 ^ 16 → w.p ≠ c.phase →
        (t.thr u).wait = some ⟨t0, ms, some { w with
          out := some (if pastBound s fid k.1 t0 w.timeout then (2 ^ 16 + w.p, 0) else (c.phase, c.t)) }⟩)

/-- R364, R365: the checks of a handle, in order. -/
def Sys2Proof.Claims.HandleChecks : Prop :=
  ∀ (s : State) (fid h : Nat) (allowed : BarSlot → Bool),
    let k := (h / 2 ^ 16 % 16, h / 2 ^ 8 % 256)
    let b := barAt s fid k
    handleCheck s fid h allowed =
      if h % 32 ≠ 0 ∨ s.size fid ≤ k.1 ∨ (s.flk fid).rcd.bars ≤ k.2 then .error .bararg
      else if b.used = false then .error .barstate
      else if h / 2 ^ 20 % 2 ^ 12 ≠ b.gen then .error .bargen
      else if h / 64 % 4 ≠ b.kind ∨ decide (h / 32 % 2 = 1) ≠ b.ext ∨ allowed b = false then .error .barkind
      else .ok k

/-- R370: BAR.NEW. A limit broken traps BARARG, kind 1 without a current stream STREAM, a used slot BARSTATE; else every
slot of the set is made under the highest generation among them, and gd takes the handle. -/
def Sys2Proof.Claims.BarrierMade : Prop :=
  ∀ (sb ext : Bool) (d a b : GReg) (kind : BitVec 2) (s : State),
    let i := Instr.barNew sb d a b ext kind
    let g := (rd s a).toNat
    let b0 := (rd s b).toNat
    let kd := kind.toNat
    let fid := s.cur.fid
    let pool := (myFlk s).rcd.bars
    let k := g / 2 ^ 40 % 256
    let ec := g / 2 ^ 32 % 256
    let e0 := g / 2 ^ 16 % 2 ^ 16
    let clu := g / 2 ^ 12 % 16
    let slot := g % 256
    let limits := g < 2 ^ 48 ∧ g / 2 ^ 8 % 16 = 0 ∧ b0 < 2 ^ 40 ∧ clu < s.size fid
      ∧ (kd = 0 → k = 0 ∧ ec = 0 ∧ 1 ≤ e0 ∧ slot < pool)
      ∧ (kd = 1 ∨ kd = 2 → k = 0 ∧ ec = 0 ∧ e0 = 0 ∧ slot < pool)
      ∧ (kd = 3 → 2 ≤ k ∧ k ≤ 16 ∧ 1 ≤ ec ∧ 1 ≤ e0 ∧ e0 ≤ 255 ∧ slot + k ≤ pool)
    let n := if kd = 3 then k else 1
    let within (q : Nat × Nat) : Prop := q.1 = clu ∧ slot ≤ q.2 ∧ q.2 < slot + n
    (¬ limits → exec i s = .next (Trapped s .bararg (wordOf i) (me s).pc))
    ∧ (limits → kd = 1 → curStream (me s) = none → exec i s = .next (Trapped s .stream (wordOf i) (me s).pc))
    ∧ (limits → (kd = 1 → curStream (me s) ≠ none) → (∃ q, within q ∧ (barAt s fid q).used = true) →
        exec i s = .next (Trapped s .barstate (wordOf i) (me s).pc))
    ∧ (limits → (kd = 1 → curStream (me s) ≠ none) → (∀ q, within q → (barAt s fid q).used = false) →
        ∃ gen, (∀ q, within q → (barAt s fid q).gen ≤ gen) ∧ (gen = 0 ∨ ∃ q, within q ∧ (barAt s fid q).gen = gen)
          ∧ Goes (exec i s) fun t => RegIs s t d.toNat
                (BitVec.ofNat 64 (gen * 2 ^ 20 + clu * 2 ^ 16 + slot * 2 ^ 8 + kd * 64 + if ext then 32 else 0))
              ∧ (me t).pc = (me s).pc + 4 ∧ me t = { me s with pc := (me t).pc, g := (me t).g }
              ∧ OnlyBars s { t with threads := s.threads } fid within
              ∧ (∀ u, u ≠ s.cur → t.thr u = s.thr u)
              ∧ ∀ q, within q → barAt t fid q =
                  { gen := gen, used := true, kind := kd, ext := ext, phase := 0, e0 := e0, e := e0, b0 := b0, b := b0, arr := 0
                    land := 0, arrived := [], ec := ec, rels := 0, ring := if kd = 3 ∧ q.2 = slot then k else 0
                    t := (barAt s fid q).t
                    scope := match curStream (me s) with
                      | some (_, st) => if kd = 1 then (setBits 16 st.cmask).map fun c => (c, st.gmask) else []
                      | none => [] })

/-- R371, R372: BAR.EXPECT and BAR.ARRIVE. Their checks in order, each trap leaving everything unchanged; else the slot's
counts grow, the event of R366 follows, and gd takes the phase: after the event, or the one the arrival counted in. -/
def Sys2Proof.Claims.BarrierCounts : Prop :=
  ∀ (sb base : Bool) (d a b : GReg) (s : State),
    let x := (rd s b).toNat
    let fid := s.cur.fid
    let h := (rd s a).toNat % 2 ^ 32
    let trapped (i : Instr) (c : Cause) : Prop := exec i s = .next (Trapped s c (wordOf i) (me s).pc)
    let e := Instr.barExpect sb d a b base
    let r := Instr.barArrive sb d a b
    (∀ c, handleCheck s fid h (fun y => decide (y.kind ≤ 2)) = .error c → trapped e c)
    ∧ (∀ k, handleCheck s fid h (fun y => decide (y.kind ≤ 2)) = .ok k →
        let y := barAt s fid k
        let ia := x / 2 ^ 40 % 2 ^ 16
        let ib := x % 2 ^ 40
        let tooMany := 65535 < y.e + ia ∨ 2 ^ 40 ≤ y.b + ib ∨ (base = true ∧ (65535 < y.e0 + ia ∨ 2 ^ 40 ≤ y.b0 + ib))
        let z := { y with e := y.e + ia, b := y.b + ib, e0 := if base then y.e0 + ia else y.e0, b0 := if base then y.b0 + ib else y.b0 }
        (2 ^ 56 ≤ x → trapped e .bararg) ∧ (x < 2 ^ 56 → ia ≠ 0 → y.kind ≠ 0 → trapped e .barkind)
        ∧ (x < 2 ^ 56 → (ia = 0 ∨ y.kind = 0) → tooMany → trapped e .barover)
        ∧ (x < 2 ^ 56 → (ia = 0 ∨ y.kind = 0) → ¬ tooMany →
            let t := barEvent (setBar s fid k z) fid k
            Writes t (exec e s) 4 d (BitVec.ofNat 64 (barAt t fid k).phase)))
    ∧ (∀ c, handleCheck s fid h (fun y => decide (y.kind = 0) && !y.ext) = .error c → trapped r c)
    ∧ ∀ k, handleCheck s fid h (fun y => decide (y.kind = 0) && !y.ext) = .ok k →
        let y := barAt s fid k
        (x = 0 ∨ 2 ^ 16 ≤ x → trapped r .bararg) ∧ (0 < x → x < 2 ^ 16 → 65535 < y.arr + x → trapped r .barover)
        ∧ (0 < x → y.arr + x ≤ 65535 →
            Writes (barEvent (setBar s fid k { y with arr := y.arr + x }) fid k) (exec r s) 4 d (BitVec.ofNat 64 y.phase))

/-- The acquire of a wait that has seen a phase (R310, R315): no read of the thread's own is still to return, and on every
cluster on which it and its streams perform, L1 sectors granted before a moment go. -/
def Sys2Proof.Claims.ReadsBack (s : State) : Prop := ∀ o ∈ s.ops, o.tid = s.cur → o.str = none → readOwed o = false

/-- The state after the acquire. -/
def Sys2Proof.Claims.Acquired (s : State) (moment : Nat) : State :=
  (acquirePids s s.cur).foldl (fun u pid => l1Invalidate u pid moment) s

/-- R373, R374: BAR.WAIT leaves once the phase is not p, with an acquire at the moment of the change; at its timeout it
answers 2^16 + p; else it waits. A wait whose phase has completed leaves with what it then found. BAR.FREE waits for the
engines and the deferred operations that name the set, then frees every slot of it under the next generation. A slot freed
under a waiter gives it BARGEN, precise at its parcel, unless the waiter's bound has passed: that wait has timed out. -/
def Sys2Proof.Claims.BarrierWaits : Prop :=
  ∀ (sb : Bool) (d a b : GReg) (s : State),
    let x := (rd s b).toNat
    let fid := s.cur.fid
    let h := (rd s a).toNat % 2 ^ 32
    let p := x % 65536
    let timeout := x / 2 ^ 16 % 2 ^ 32
    let w := Instr.barWait sb d a b
    let f := Instr.barFree sb a
    let t0 := ((me s).wait.map (·.t0)).getD s.now
    let free (y : BarSlot) : Bool := decide (y.kind ≠ 3) || decide (y.ring ≠ 0)
    let awake : State := s.setThr s.cur { me s with wait := none }
    let out := ((me s).wait.bind (·.bar)).bind (·.out)
    let seen (o : Option (Nat × Nat)) : BarWait := ⟨h, p, timeout, d.toNat, wordOf w, o⟩
    let waits (o : Option (Nat × Nat)) : Out := .next (s.setThr s.cur { me s with wait := some ⟨t0, [], some (seen o)⟩ })
    (∀ v moment, out = some (v, moment) → (2 ^ 16 ≤ v → Writes awake (exec w s) 4 d (BitVec.ofNat 64 v))
        ∧ (v < 2 ^ 16 → ReadsBack s → Writes (Acquired awake moment) (exec w s) 4 d (BitVec.ofNat 64 v)))
    ∧ (∀ c, out = none → handleCheck s fid h (fun _ => true) = .error c →
        exec w s = .next (Trapped s (if (me s).wait = none then c else .bargen) (wordOf w) (me s).pc))
    ∧ (∀ k, out = none → handleCheck s fid h (fun _ => true) = .ok k →
        (2 ^ 48 ≤ x → exec w s = .next (Trapped s .bararg (wordOf w) (me s).pc))
        ∧ (x < 2 ^ 48 → (barAt s fid k).phase ≠ p → (barAt s fid k).phase < 2 ^ 16 →
            (ReadsBack s → Writes (Acquired awake (barAt s fid k).t) (exec w s) 4 d (BitVec.ofNat 64 (barAt s fid k).phase))
            ∧ (¬ ReadsBack s → exec w s = waits (some ((barAt s fid k).phase, (barAt s fid k).t))))
        ∧ (x < 2 ^ 48 → (barAt s fid k).phase = p → pastBound s fid k.1 t0 timeout = true →
            Writes awake (exec w s) 4 d (BitVec.ofNat 64 (65536 + p)))
        ∧ (x < 2 ^ 48 → (barAt s fid k).phase = p → pastBound s fid k.1 t0 timeout = false →
            exec w s = waits none))
    ∧ (∀ c, handleCheck s fid h free = .error c → exec f s = .next (Trapped s c (wordOf f) (me s).pc))
    ∧ ∀ k, handleCheck s fid h free = .ok k →
        let n := (barAt s fid k).ring
        let set := if n = 0 then [k] else (List.range n).map fun j => (k.1, k.2 + j)
        let busy := engineNames s fid set || deferredTo s fid set
        let waiter (u : Tid) (tw : Nat) (ms : List Mark) (v : BarWait) : Prop := u ≠ s.cur ∧ u.fid = fid ∧ v.out = none
          ∧ (v.h / 2 ^ 16 % 16, v.h / 2 ^ 8 % 256) ∈ set ∧ (s.thr u).wait = some ⟨tw, ms, some v⟩
        let past (tw : Nat) (v : BarWait) : Bool := pastBound s fid (v.h / 2 ^ 16 % 16) tw v.timeout
        (busy = true → Goes (exec f s) fun t => OnlyThread s t s.cur ∧ me t = { me s with wait := (me t).wait })
        ∧ (busy = false → (s.threads.map (·.1)).Nodup → (∀ u tw ms v, waiter u tw ms v → past tw v = false → (s.thr u).intrap = false ∧ 4 ≤ (s.thr u).tvec.toNat) →
            Goes (exec f s) fun t => me t = { me s with pc := (me s).pc + 4, wait := none }
            ∧ (∀ u, u ≠ s.cur → (∀ tw ms v, ¬ waiter u tw ms v) → t.thr u = s.thr u)
            ∧ (∀ u tw ms v, waiter u tw ms v → past tw v = true → t.thr u = { s.thr u with
                wait := some ⟨tw, ms, some { v with out := some (2 ^ 16 + v.p, 0) }⟩ })
            ∧ (∀ u tw ms v, waiter u tw ms v → past tw v = false → t.thr u = { s.thr u with
                tpc := (s.thr u).pc, tcause := 0x3A, tval := v.word, intrap := true, wait := none, popAt := none
                pc := BitVec.ofNat 64 (4 * ((s.thr u).tvec.toNat / 4)) })
            ∧ OnlyBars s { t with threads := s.threads } fid (· ∈ set)
            ∧ ∀ q ∈ set, barAt t fid q = { BarSlot.free with gen := ((barAt s fid q).gen + 1) % 4096, t := (barAt s fid q).t })

/-- R379, R380: STAGE.PUT waits for its stage to be empty in the counter's lap, raises the bytes expected and leaves its
arrival deferred; STAGE.TAKE defers the release of the stage before, once, and waits for its stage to be full, unless
LAST asks only for the release. Each acquires at the moment of the change, once the thread's reads have returned, and counts
its register up. -/
def Sys2Proof.Claims.StageWords : Prop :=
  ∀ (sb last : Bool) (d a b : GReg) (scope : BitVec 3) (s : State),
    let fid := s.cur.fid
    let pos := (rd s d).toNat
    let n40 := (rd s b).toNat
    let ring := handleCheck s fid ((rd s a).toNat % 2 ^ 32) (fun y => decide (y.kind = 3) && decide (y.ring ≠ 0))
    let p := Instr.stagePut sb d a b scope
    let q := Instr.stageTake sb d a scope last
    let x := me s
    let late (c : Cause) (i : Instr) : Out := .next (Trapped s (if x.wait = none then c else .bargen) (wordOf i) x.pc)
    let deferred (k : Nat × Nat) (release : Bool) : List Deferred :=
      x.deferred ++ [⟨k.1, k.2, release, closedMarks x, scope.toNat, marksHor x (closedMarks x)⟩]
    (∀ c, ring = .error c → exec p s = late c p ∧ exec q s = late c q)
    ∧ ∀ k, ring = .ok k →
        let n := (barAt s fid k).ring
        let m := (k.1, k.2 + pos % n)
        let y := barAt s fid m
        let opened := 2 * (pos / n) % 65536
        (2 ^ 40 ≤ n40 → exec p s = .next (Trapped s .bararg (wordOf p) x.pc))
        ∧ (n40 < 2 ^ 40 → y.phase ≠ opened → Goes (exec p s) fun t => OnlyThread s t s.cur
            ∧ me t = { x with wait := (me t).wait } ∧ (me t).wait.isSome = true)
        ∧ (n40 < 2 ^ 40 → y.phase = opened → 2 ^ 40 ≤ y.b + n40 → exec p s = .next (Trapped s .barover (wordOf p) x.pc))
        ∧ (y.phase = opened → y.b + n40 < 2 ^ 40 → ¬ ReadsBack s → Goes (exec p s) fun t => OnlyThread s t s.cur
            ∧ me t = { x with wait := (me t).wait } ∧ (me t).wait.isSome = true)
        ∧ (y.phase = opened → y.b + n40 < 2 ^ 40 → ReadsBack s →
            Writes (setBar (Acquired (s.setThr s.cur { x with wait := none, deferred := deferred m false }) y.t)
              fid m { y with b := y.b + n40 }) (exec p s) 4 d (BitVec.ofNat 64 (pos + 1)))
        ∧ (let before := (k.1, k.2 + (pos - 1) % n)
           let z : Thread := if pos = 0 ∨ x.wait ≠ none then x else { x with deferred := deferred before true }
           (last = true → exec q s = .next (s.setThr s.cur { z with wait := none, pc := x.pc + 4 }))
           ∧ (last = false → y.phase ≠ (2 * (pos / n) + 1) % 65536 ∨ ¬ ReadsBack s → Goes (exec q s) fun t => OnlyThread s t s.cur
                ∧ me t = { z with wait := (me t).wait } ∧ (me t).wait.isSome = true)
           ∧ (last = false → y.phase = (2 * (pos / n) + 1) % 65536 → ReadsBack s →
                Writes (Acquired (s.setThr s.cur { z with wait := none }) y.t) (exec q s) 4 d
                  (BitVec.ofNat 64 (pos + 1))))

/-- R373, R381, R382: the events of a barrier: a timeout that has run out ends its wait; the oldest deferred arrival or
release is made once what it covers has retired and is released; a doorbell arrives in every flock of its context in which the handle
passes, and sets DOORERR where none does, its count is 0, or one of the counts would overflow, which then stays. -/
def Sys2Proof.Claims.BarrierActs : Prop :=
  ∀ (s : State) (fid clu th ctx : Nat) (v : BitVec 64),
    let u : Tid := ⟨fid, clu, th⟩
    let x := s.thr u
    (∀ t0 ms w, x.wait = some ⟨t0, ms, some w⟩ → x.status = .running → x.stopped = none → w.out = none →
        let k := (w.h / 2 ^ 16 % 16, w.h / 2 ^ 8 % 256)
        (barAt s fid k).phase = w.p → (barAt s fid k).gen = w.h / 2 ^ 20 % 2 ^ 12 →
        let past := pastBound s fid (w.h / 2 ^ 16 % 16) t0 w.timeout
        (past = false → exec (.barWaitTimeout fid clu th) s = .next s)
        ∧ (past = true → exec (.barWaitTimeout fid clu th) s = .next (s.setThr u
            { x.setGr w.d (BitVec.ofNat 64 (65536 + w.p)) with pc := x.pc + 4, wait := none })))
    ∧ (x.deferred = [] → exec (.deferredStageOperation fid clu th) s = .next s)
    ∧ (∀ d rest, x.deferred = d :: rest →
        let k := (d.clu, d.slot)
        let written := (∀ o ∈ s.ops, o.deed.writes = true → ∀ m ∈ d.marks, o.below u m = false)
          ∧ (d.hor.rel d.scope = 0 ∨ d.hor.rel d.scope < dt s)
        let go := (d.marks.all fun m => retiredBelow s u m) = true ∧ written ∧ (s.flk fid).resident = true
        let w : State := s.setThr u { x with deferred := rest }
        (¬ go → exec (.deferredStageOperation fid clu th) s = .next s)
        ∧ (go → d.release = true → (barAt s fid k).rels < 255 → exec (.deferredStageOperation fid clu th) s =
            .next (barEvent (setBar w fid k { barAt s fid k with rels := (barAt s fid k).rels + 1 }) fid k))
        ∧ (go → d.release = false → (barAt s fid k).arr < 65535 → exec (.deferredStageOperation fid clu th) s =
            .next (barEvent (setBar w fid k { barAt s fid k with arr := (barAt s fid k).arr + 1 }) fid k)))
    ∧ (let h := v.toNat % 2 ^ 32
       let n := v.toNat / 2 ^ 32 % 2 ^ 16
       let k := (h / 2 ^ 16 % 16, h / 2 ^ 8 % 256)
       let hits (f : Nat) : Prop := (s.flk f).ctx = ctx ∧ (s.flk f).ended = false
         ∧ handleCheck s f h (fun b => decide (b.kind = 0) && b.ext) = .ok k
       let refused : State := s.setCtx ctx { s.ctx ctx with doorErr := true }
       (s.flocks.map (·.1)).Nodup →
       (n = 0 ∨ (∀ f, ¬ hits f) → exec (.bardoor ctx v) s = .next refused)
       ∧ (0 < n → (∃ f, hits f) → Goes (exec (.bardoor ctx v) s) fun t =>
           let made (f : Nat) : State := barEvent (setBar s f k { barAt s f k with arr := (barAt s f k).arr + n }) f k
           (∀ f, hits f → (barAt s f k).arr + n ≤ 65535 → t.flk f = (made f).flk f ∧ ∀ y, y.fid = f → t.thr y = (made f).thr y)
           ∧ (∀ f, ¬ hits f ∨ 65535 < (barAt s f k).arr + n → t.flk f = s.flk f ∧ ∀ y, y.fid = f → t.thr y = s.thr y)
           ∧ ((t.ctx ctx).doorErr = true ↔ (s.ctx ctx).doorErr = true ∨ ∃ f, hits f ∧ 65535 < (barAt s f k).arr + n)
           ∧ t = { s with flocks := t.flocks, threads := t.threads, ctxs := t.ctxs }))

/-- R364 to R374: barriers and the words that make, raise, count, await and free them. -/
def Sys2Proof.Claims.BarrierWords : Prop :=
  Sys2Proof.Claims.PhaseEvents ∧ Sys2Proof.Claims.HandleChecks ∧ Sys2Proof.Claims.BarrierMade ∧ Sys2Proof.Claims.BarrierCounts
    ∧ Sys2Proof.Claims.BarrierWaits

/-- R373, R379 to R382: stage rings, and the barrier's own events. -/
def Sys2Proof.Claims.StageRings : Prop := Sys2Proof.Claims.StageWords ∧ Sys2Proof.Claims.BarrierActs

/-! ## Pin windows and prefetches -/

/-- Barrier objects, stage rings and their waits.
The model's own readings in it: log 24. -/
def Obligations.BarriersAndStages : Prop :=
  Sys2Proof.Claims.BarrierWords ∧ Sys2Proof.Claims.StageRings

/-- R110 to R113: PIN.SET makes its checks in the order of R111; a failure gives the status alone (and, for DROP, one
more dropped hint), and a success records and charges the window at once. It waits for a PIN.CLR of the context on the
die that is still writing back. -/
def Sys2Proof.Claims.PinSetChecks : Prop :=
  ∀ (sb fill kind : Bool) (d a b : GReg) (s : State),
    let i := Instr.pinSet sb d a b fill kind
    let base := (rd s a).toNat
    let g := (rd s b).toNat
    let ctx := myCtx s
    let c := s.ctx ctx
    let die := myPid s / 64
    let n := g % 2 ^ 32
    let len := n * 65536
    let poff := g / 2 ^ 32 % 2 ^ 16
    let members := setBits 16 (g / 2 ^ 48)
    let targets := members.map fun m => s.pidOf s.cur.fid m
    let k := targets.length
    let banks := if kind then 0 else ceilDiv len (k * 4194304)
    let charge := if kind then ceilDiv len 4194304 else k * banks
    let awake : State := s.setThr s.cur { me s with wait := none }
    let fails (v : Nat) : Prop := Writes awake (exec i s) 4 d (BitVec.ofNat 64 v)
    let clearing := ∃ w ∈ c.windows, w.die = die ∧ 2 ≤ w.stage
    let arg := canonical base = false ∨ base % 65536 ≠ 0 ∨ n = 0 ∨ 65536 < n ∨ members = [] ∨ (∃ m ∈ members, s.size s.cur.fid ≤ m)
      ∨ (kind = true ∧ (k ≠ 1 ∨ ∃ p ∈ targets, s.planeSize p < (poff + n) * 65536)) ∨ (kind = false ∧ poff ≠ 0)
    let inDie := (allWindows s).filter fun x => decide (x.2.die = die)
    let biased (fs : List Nat) : Prop := ∃ f ∈ fs, devBiased s (f * 65536) = false
    let overlap (fs : List Nat) : Prop := (∃ w ∈ c.windows, w.stage ≤ 1 ∧ w.va < base + len ∧ base < w.va + w.len)
      ∨ ∃ e ∈ allWindows s, ∃ f ∈ e.2.frames, f ∈ fs
    let full := c.pincap.toNat / 2 ^ (8 * die) % 256 < c.pinuse.getD die 0 + charge
    let space := (kind = false ∧ ∃ p ∈ targets, 8 - (s.clu p).wpb < banksHeld s p + banks + 1)
      ∨ (kind = true ∧ ∃ e ∈ allWindows s, e.2.plane = true ∧ e.2.targets = targets ∧ e.2.poff < poff * 65536 + len ∧ poff * 65536 < e.2.poff + e.2.len)
    let table (fs : List Nat) : Prop :=
      256 < ((inDie.filter fun x => !x.2.plane).map fun x => frameRuns x.2.frames).sum + (if kind then 0 else frameRuns fs)
      ∨ 64 < (inDie.filter fun x => decide (x.1 = ctx)).length + 1
    (clearing → Goes (exec i s) fun t => OnlyThread s t s.cur ∧ me t = { me s with wait := (me t).wait } ∧ (me t).wait.isSome = true)
    ∧ (¬ clearing → arg → fails 5)
    ∧ (¬ clearing → ¬ arg → (framesOf ctx (myPid s) n base s).2 = none →
        Writes (awake.setCtx ctx { c with hintdrop := if c.hintdrop.toNat = 2 ^ 64 - 1 then c.hintdrop else c.hintdrop + 1, hintAt := some s.now })
          (exec i s) 4 d 6)
    ∧ ∀ fs, ¬ clearing → ¬ arg → (framesOf ctx (myPid s) n base s).2 = some fs →
        (biased fs → fails 7)
        ∧ (¬ biased fs → overlap fs → fails 2)
        ∧ (¬ biased fs → ¬ overlap fs → full → fails 1)
        ∧ (¬ biased fs → ¬ overlap fs → ¬ full → space → fails 3)
        ∧ (¬ biased fs → ¬ overlap fs → ¬ full → ¬ space → table fs → fails 4)
        ∧ (¬ biased fs → ¬ overlap fs → ¬ full → ¬ space → ¬ table fs →
            die < ((framesOf ctx (myPid s) n base s).1.ctx ctx).pinuse.length → Goes (exec i s) fun t =>
            RegIs s t d.toNat 0 ∧ (me t).pc = (me s).pc + 4 ∧ (∀ u, u ≠ s.cur → t.thr u = s.thr u)
            ∧ me t = { me s with pc := (me t).pc, g := (me t).g, wait := none }
            ∧ (t.ctx ctx).pinuse.getD die 0 = ((framesOf ctx (myPid s) n base s).1.ctx ctx).pinuse.getD die 0 + charge
            ∧ (t.ctx ctx).windows = ((framesOf ctx (myPid s) n base s).1.ctx ctx).windows ++
                [{ fid := s.cur.fid, die := die, va := base, len := len, plane := kind, poff := poff * 65536, frames := fs
                   targets := targets, mask := g / 2 ^ 48, charge := charge, stage := 0, fill := fill, kept := false }])

/-- R112, R114: PIN.CLR ends the context's window with that base on the die, or answers 8. Rehoming takes the banks of
an L2 window on every target and drops its lines; its end gives them back, and the charge with them. No byte of memory
changes where no update-only copy of its lines, or of a line of a slice that gives up banks, is left to combine. A fill
enters the prefetch queue of the first target once that has room. Where the windows of a context came to share a base, the
write-back takes every one of that state, each with its own banks and charge. That rehoming combines the update-only lines of
its slices, drops all their lines and keeps a fill for a later step is the model's inference (log 115). -/
def Sys2Proof.Claims.PinWindowsEnd : Prop :=
  (∀ (sb : Bool) (d a : GReg) (s : State),
    let ctx := myCtx s
    let die := myPid s / 64
    let here (w : Window) : Prop := w.die = die ∧ w.va = (rd s a).toNat
    ((∀ w ∈ (s.ctx ctx).windows, here w → 2 ≤ w.stage) → Writes s (exec (.pinClr sb d a) s) 4 d 8)
    ∧ ((∃ w ∈ (s.ctx ctx).windows, here w ∧ w.stage ≤ 1) → Goes (exec (.pinClr sb d a) s) fun t =>
        RegIs s t d.toNat 0 ∧ (me t).pc = (me s).pc + 4 ∧ (∀ u, u ≠ s.cur → t.thr u = s.thr u) ∧ SameMem s t
        ∧ (∀ x, x ≠ ctx → t.ctx x = s.ctx x) ∧ t.clusters = s.clusters
        ∧ t.ctx ctx = { s.ctx ctx with windows := (s.ctx ctx).windows.map fun w =>
            if w.die = die ∧ w.va = (rd s a).toNat ∧ w.stage ≤ 1 then { w with stage := 3 - w.stage } else w }))
  ∧ ∀ (ctx die va : Nat) (s : State),
    let ws := (s.ctx ctx).windows
    let settled (w : Window) : Prop := ∀ l ∈ s.homes, w.frames.contains (l.1 / 256) = true → l.2.sharers = []
    let apart (w : Window) : Prop := ∀ l ∈ s.homes, homeSlice s (l.1 * 256) ∈ w.targets → l.2.sharers = []
    let room (w : Window) : Prop := (s.clu (w.targets.headD 0)).pft.length < 16
    let filling (w : Window) (t : State) : Prop := ∃ e, (t.clu (w.targets.headD 0)).pft = (s.clu (w.targets.headD 0)).pft ++ [e]
      ∧ e.tid.fid = w.fid ∧ e.pos = 0 ∧ at_ e.desc 0 8 = w.va % 2 ^ 64 ∧ e.desc.length = 64
    let first := ws.find? fun w => decide (w.die = die) && decide (w.va = va) && (decide (w.stage = 0) || (decide (w.stage = 1) && w.fill))
    ((∀ w ∈ ws, w.die = die → w.va = va → w.stage ≠ 0 ∧ ¬ (w.stage = 1 ∧ w.fill = true)) → exec (.pinRehome ctx die va) s = .next s)
    ∧ ((∀ w ∈ ws, w.die = die → w.va = va → w.stage ≤ 1) → exec (.pinClrWriteback ctx die va) s = .next s)
    ∧ (∀ w, first = some w → w.stage = 0 → settled w → apart w →
        Goes (exec (.pinRehome ctx die va) s) fun t => SameMem s t ∧ t.threads = s.threads ∧ t.groups = s.groups
          ∧ (t.ctx ctx).windows = ws.map (fun x => if x = w ∨ x = { w with stage := 1 } then
              (if w.fill = true ∧ room w then { w with stage := 1, fill := false } else { w with stage := 1 }) else x)
          ∧ (∀ p, (t.clu p).pinb = (s.clu p).pinb + if w.plane then 0 else w.targets.count p * ceilDiv w.len (w.targets.length * 4194304))
          ∧ (w.plane = false → ∀ p ∈ w.targets, (t.clu p).l2 = [])
          ∧ (w.fill = true → room w → filling w t) ∧ (w.fill = true → ¬ room w → ∀ p, (t.clu p).pft = (s.clu p).pft))
    ∧ (∀ w, first = some w → w.stage = 1 → room w → Goes (exec (.pinRehome ctx die va) s) fun t =>
        t.mem = s.mem ∧ t.threads = s.threads ∧ t.groups = s.groups ∧ filling w t ∧ (∀ p, (t.clu p).pinb = (s.clu p).pinb)
        ∧ (t.ctx ctx).windows = ws.map (fun x => if x = w then { w with fill := false } else x))
    ∧ ∀ w, (ws.find? fun w => decide (w.die = die) && decide (w.va = va) && !decide (w.stage ≤ 1)) = some w →
        let same (x : Window) : Bool := decide (x.die = w.die) && decide (x.va = w.va) && decide (x.stage = w.stage)
        let gone := ws.filter same
        (∀ x ∈ gone, settled x) → Goes (exec (.pinClrWriteback ctx die va) s) fun t => SameMem s t ∧ t.threads = s.threads ∧ t.groups = s.groups
          ∧ (t.ctx ctx).windows = ws.filter (fun x => !same x)
          ∧ (w.die < (s.ctx ctx).pinuse.length →
              (t.ctx ctx).pinuse.getD w.die 0 = (s.ctx ctx).pinuse.getD w.die 0 - (gone.map (·.charge)).sum)
          ∧ ∀ p, (t.clu p).pinb = (s.clu p).pinb - (gone.map fun x =>
              if x.plane = true ∨ x.stage ≠ 2 then 0 else x.targets.count p * ceilDiv x.len (x.targets.length * 4194304)).sum

/-- R115 to R117: PFT. A descriptor that is misaligned, untranslated or outside its limits traps; a full queue makes it
wait; else the descriptor joins the cluster's queue. A descriptor in the host window is first sent for by an access that the
thread waits at (that the word then runs again and takes the bytes as they stand is the model's inference, log 118). -/
def Sys2Proof.Claims.Prefetches : Prop :=
  (∀ (sb : Bool) (a : GReg) (imm : BitVec 11) (ext : BitVec 23) (s : State), (me s).acqOp = none →
    let x := me s
    let one (i : Instr) (n : Nat) (off : Int) : Prop :=
      let va := (((rd s a).toNat : Int) + off) % 2 ^ 64 |>.toNat
      let w := BitVec.ofNat 64 va
      let r := translate s (myPid s) (myCtx s) va .load
      let waits (u : State) : Prop := Goes (exec i s) fun t => OnlyThread u t u.cur ∧ me t = { me u with wait := (me t).wait } ∧ (me t).wait.isSome = true
      (va % 64 ≠ 0 → exec i s = .next (Trapped s .align w x.pc))
      ∧ (va % 64 = 0 → ∀ c, r.2 = .error c → exec i s = .next (Trapped r.1 c w x.pc))
      ∧ (va % 64 = 0 → ∀ pa, r.2 = .ok pa → isHost pa = true → x.wait = none →
          Goes (exec i s) fun t => AccessIssued s t va pa 64 .load (.gen 0 false) ∧ (me t).pc = x.pc
            ∧ (me t).hostOp = some (s.nextId, 0) ∧ (me t).wait.isSome = true)
      ∧ (va % 64 = 0 → ∀ pa u, r.2 = .ok pa → isHost pa = false ∨ x.wait.isSome = true → readSectors 2 va pa r.1 = (u, none) → waits u)
      ∧ (va % 64 = 0 → ∀ pa u ds, r.2 = .ok pa → isHost pa = false ∨ x.wait.isSome = true → readSectors 2 va pa r.1 = (u, some ds) →
          (tensorOk u u.cur.fid ds = false → exec i s = .next (Trapped u .pftdesc (wordOf i) (me u).pc))
          ∧ (∀ h c, tensorOk u u.cur.fid ds = true → descBar ds = some h → handleCheck u u.cur.fid h (fun _ => true) = .error c →
              exec i s = .next (Trapped u c (wordOf i) (me u).pc))
          ∧ (tensorOk u u.cur.fid ds = true → (∀ h, descBar ds = some h → ∃ k, handleCheck u u.cur.fid h (fun _ => true) = .ok k) →
              let pid := myPid u
              (16 ≤ (u.clu pid).pft.length → waits u)
              ∧ ((u.clu pid).pft.length < 16 → exec i s = .next ((({ u with nextId := u.nextId + 1 } : State).setClu pid
                  { u.clu pid with pft := (u.clu pid).pft ++ [⟨u.nextId, u.cur, ds, 0, false⟩] }).setThr u.cur
                    { me u with wait := none, pc := (me u).pc + BitVec.ofNat 64 n }))))
    one (.pft sb a imm) 4 imm.toInt ∧ one (.pftLong sb a ext imm) 8 (ext ++ imm).toInt)
  ∧ ∀ (pid id : Nat) (s : State),
    ((s.clu pid).pft.find? fun e => decide (e.id = id)) = none → exec (.pftTargetFill pid id) s = .next s

/-- R116, R117: the limits of a descriptor, and the address of each of its bytes. -/
def Sys2Proof.Claims.TensorDescriptors : Prop :=
  ∀ (s : State) (fid : Nat) (d : List Byte), d.length = 64 →
    let ctrl := at_ d 48 8
    let dim0 := at_ d 8 4
    let n (k : Nat) : Nat := at_ d (8 + 4 * k) 4
    let total := n 0 * n 1 * n 2 * n 3
    let tgt := ctrl / 4 % 4
    let clu := ctrl / 2 ^ 28 % 16
    let poff := ctrl / 2 ^ 32 % 2 ^ 16 * 1024
    (tensorOk s fid d = true ↔ 1 ≤ dim0 ∧ dim0 ≤ 2 ^ 31 ∧ (∀ k, 1 ≤ k → k < 4 → 1 ≤ n k ∧ n k ≤ 65535) ∧ total ≤ 2 ^ 34
      ∧ ctrl / 2 ^ 48 = 0 ∧ ctrl / 2 ^ 8 % 2 ^ 20 = 0 ∧ ctrl / 16 % 2 = 0 ∧ ctrl % 4 = 0 ∧ tgt ≤ 1 ∧ at_ d 60 4 = 0
      ∧ (tgt = 1 → dim0 % 64 = 0 ∧ clu < s.size fid ∧ poff + total ≤ s.planeSize (s.pidOf fid clu)))
    ∧ (descBar d = if ctrl / 2 ^ 7 % 2 = 1 then some (at_ d 56 4) else none)
    ∧ (tensorOk s fid d = true → ∀ q, q < total →
        let o := q % dim0
        let i1 := q / dim0 % n 1
        let i2 := q / (dim0 * n 1) % n 2
        let i3 := q / (dim0 * n 1 * n 2)
        let str (k : Nat) : Int := (BitVec.ofNat 64 (at_ d (24 + 8 * k) 8)).toInt
        let p := (tensorOf d).place q
        p.1 = (((at_ d 0 8 : Int) + o + i1 * str 0 + i2 * str 1 + i3 * str 2) % 2 ^ 64).toNat
        ∧ 1 ≤ p.2 ∧ p.2 ≤ dim0 - o ∧ p.2 ≤ 32 - p.1 % 32)

/-- R117: the next bytes of a descriptor. A page that does not translate, or is host-biased for target 1, drops them;
else target 1 takes into its plane what their home holds. They count into the barrier that the descriptor names, and
the last ones end the descriptor, with one dropped hint where any byte was dropped. Bytes prefetched into the reel store leave
the reels they touch undefined (R349). That pages of the host window are not dropped for target 1 is the model's inference
(log 69). -/
def Sys2Proof.Claims.TargetFills : Prop :=
  ∀ (pid : Nat) (s : State) (e : PftEnt), ((s.clu pid).pft.find? fun x => decide (x.id = e.id)) = some e →
    let x := tensorOf e.desc
    let a := (x.place e.pos).1
    let n := (x.place e.pos).2
    let ctx := (s.flk e.tid.fid).ctx
    let r := translate s pid ctx a .load
    let u := r.1
    let drops := ∀ pa, r.2 = .ok pa → x.tgt = 1 ∧ isDev pa = true ∧ devBiased u pa = false
    let stops := (s.flk e.tid.fid).resident = false ∨ (s.flk e.tid.fid).preReq = true ∨ (s.die (pid / 64)).tripped = true
    let o := exec (.pftTargetFill pid e.id) s
    (stops → o = .next s)
    ∧ (¬ stops → ∀ pa, r.2 = .ok pa → ¬ drops → readHeld u pa = true → o = .next u)
    ∧ (¬ stops → x.bar = none → (drops ∨ ∃ pa, r.2 = .ok pa ∧ readHeld u pa = false ∧ pa % 32 + n ≤ 32 ∧ (u.homeOf pa).owners = [] ∧ (u.homeOf pa).sharers = []) →
        Goes o fun t => SameMem u t ∧ t.threads = u.threads ∧ t.groups = u.groups
          ∧ (e.pos + n < x.total → ∃ b : Bool, (b = true ↔ e.dropped = true ∨ drops) ∧ (t.clu pid).pft = (u.clu pid).pft.map fun y =>
              if y.id = e.id then { e with pos := e.pos + n, dropped := b } else y)
          ∧ (x.total ≤ e.pos + n → (t.clu pid).pft = (u.clu pid).pft.filter fun y => !decide (y.id = e.id))
          ∧ (x.total ≤ e.pos + n → e.dropped = false → ¬ drops → (t.ctx ctx).hintdrop = (u.ctx ctx).hintdrop)
          ∧ (x.total ≤ e.pos + n → e.dropped = true ∨ drops → (u.ctx ctx).hintdrop.toNat < 2 ^ 64 - 1 →
              (t.ctx ctx).hintdrop = (u.ctx ctx).hintdrop + 1)
          ∧ (∀ pa, r.2 = .ok pa → x.tgt = 0 → ∀ f ∈ u.flocks, f.2.ctx = ctx → f.2.rcd.reels ≠ 0 → ∀ k,
              k * 32768 + f.2.rcd.reels < a + n → a < k * 32768 + f.2.rcd.reels + 32768 → (t.ctx ctx).reels.find k = none)
          ∧ ∀ pa, r.2 = .ok pa → ¬ drops → x.tgt = 1 → (u.clu (s.pidOf e.tid.fid x.clu)).plane.wf = true →
              t.planeRead (s.pidOf e.tid.fid x.clu) (x.poff + e.pos) n = u.mem.readList pa n)

/-- R106 to R117: pin windows. -/
def Sys2Proof.Claims.PinWindows : Prop := Sys2Proof.Claims.PinSetChecks ∧ Sys2Proof.Claims.PinWindowsEnd

/-- R115 to R117: the prefetch queue. -/
def Sys2Proof.Claims.PrefetchQueue : Prop :=
  Sys2Proof.Claims.Prefetches ∧ Sys2Proof.Claims.TensorDescriptors ∧ Sys2Proof.Claims.TargetFills

/-! ## Parked groups -/

/-- Pin windows, tensor descriptors and prefetch.
The model's own readings in it: logs 69, 115, 118. -/
def Obligations.PinsAndPrefetch : Prop :=
  Sys2Proof.Claims.PinWindows ∧ Sys2Proof.Claims.PrefetchQueue

/-- R425, R426: PARK.REPLAY queues a replay on every selected pair that has a park record, and UNPARK, once no selected
pair has one queued, running or with an access that has not retired, gives the parked lanes back to EXMASK, or with KILL to EXITMASK, and clears the record.
An operand outside the current stream traps STRARG, a replay under an open run RUN. That both words act on the current stream,
and what a further fault in a replay does, is the model's inference (log 59), as is that UNPARK waits for the accesses of
parked lanes at or behind their resume positions (log 121).
The model's own readings in it: logs 59, 121. -/
def Obligations.ParkedGroups : Prop :=
  ∀ (sb kill : Bool) (a b : GReg) (s : State),
    let x := me s
    let g := (rd s a).toNat
    let c := (rd s b).toNat
    let fid := s.cur.fid
    let p := Instr.parkReplay sb a b
    let q := Instr.unpark sb a b kill
    let legal (st : Stream) : Prop := g < 2 ^ 16 ∧ c < 2 ^ 16 ∧ (∀ k, g.testBit k = true → st.gmask.testBit k = true)
      ∧ ∀ m, c.testBit m = true → st.cmask.testBit m = true
    let selected (st : Stream) (m k : Nat) : Prop := m < 16 ∧ k < 16 ∧ g.testBit k = true
      ∧ (if c = 0 then st.cmask else c).testBit m = true
    (curStream x = none → exec p s = .next (Trapped s .strarg (wordOf p) x.pc) ∧ exec q s = .next (Trapped s .strarg (wordOf q) x.pc))
    ∧ ∀ n st, curStream x = some (n, st) →
      (¬ legal st → exec p s = .next (Trapped s .strarg (wordOf p) x.pc) ∧ exec q s = .next (Trapped s .strarg (wordOf q) x.pc))
      ∧ (legal st → st.openRun ≠ [] → exec p s = .next (Trapped s .run (wordOf p) x.pc))
      ∧ (legal st → st.openRun = [] → Goes (exec p s) fun t =>
          t = { s with threads := t.threads, groups := t.groups } ∧ me t = { x with pc := x.pc + 4 }
          ∧ (∀ u, u ≠ s.cur → t.thr u = s.thr u)
          ∧ (∀ m k, selected st m k → t.grp fid m k = { s.grp fid m k with
              prec := (s.grp fid m k).prec.map fun r => { r with queued := r.queued + 1 } })
          ∧ ∀ f m k, f ≠ fid ∨ ¬ selected st m k → t.grp f m k = s.grp f m k)
      ∧ (let busy := ∃ m k r, selected st m k ∧ (s.grp fid m k).prec = some r ∧ (r.queued ≠ 0 ∨ r.replaying = true
          ∨ ∃ o ∈ s.ops, o.tid = r.tid ∧ o.str = some r.str ∧ o.pid = s.pidOf fid m ∧ o.slot = k ∧ (s.grp fid m k).park.testBit o.lane = true
            ∧ ∃ w ∈ r.words.drop (r.resume.get o.lane 33), w.1.seq = o.seq)
         (legal st → busy → Goes (exec q s) fun t => OnlyThread s t s.cur ∧ me t = { x with wait := (me t).wait } ∧ (me t).wait.isSome = true)
         ∧ (legal st → ¬ busy → Goes (exec q s) fun t =>
            t = { s with threads := t.threads, groups := t.groups, flocks := t.flocks, ctxs := t.ctxs }
            ∧ me t = { x with pc := x.pc + 4, wait := none }
            ∧ (∀ u, u ≠ s.cur → t.thr u = { s.thr u with wait := (t.thr u).wait } ∧ (kill = false → t.thr u = s.thr u))
            ∧ (∀ m k, selected st m k → (s.grp fid m k).prec ≠ none →
                let y := s.grp fid m k
                t.grp fid m k = { y with
                  ex := if kill then y.ex else y.ex ||| y.park, exit := if kill then y.exit ||| y.park else y.exit, park := 0, prec := none })
            ∧ (∀ f m k, f ≠ fid ∨ ¬ selected st m k ∨ (s.grp fid m k).prec = none → t.grp f m k = s.grp f m k)
            ∧ (kill = false → t.flocks = s.flocks ∧ t.ctxs = s.ctxs)))

/-! ## Lane words: registers and issue -/

/-- Lane `l` of a v register of the group in focus. -/
def Sys2Proof.Claims.vreg (s : State) (r l : Nat) : Word32 := (laneGrp s).laneOf r l

/-- The word issues on its group at once, and each active lane `l` writes the low 32 `n` bits of `f l` to its `n`
destination registers, landing after `lat` cycles. -/
def Sys2Proof.Claims.LaneWrites (s : State) (o : Out) (x : LaneWord) (lat n : Nat) (f : Nat → Nat) : Prop :=
  let act := activeMask s x
  o = .next (issued (putDest s x.dN n lat act ((List.range 32).map f)) x act true)

/-- R36 to R39, R199: what a word reads and writes. A uniform operand is its captured value in every lane; a register
operand with no write in flight is the group's registers, low register lowest. A destination of v registers takes the
values in the lanes of the mask, and nothing else of the machine changes but what the pipe remembers of the write. A word is
active in the lanes of EXMASK, as it stood at the start of the cycle but for lanes that have parked or exited (R358), whose
guard holds. -/
def Sys2Proof.Claims.LaneOperands : Prop :=
  (∀ (s : State) (code n : Nat) (u : Uniform) (l : Nat), l < 32 →
    (192 ≤ code → (srcNat s code u n).getD l 0 = u.toNat % 2 ^ (32 * n))
    ∧ (code + n ≤ 128 → (∀ k, k < n → inFlight s (code + k) = none) →
        (srcNat s code u n).getD l 0 = ((List.range n).map fun k => (vreg s (code + k) l).toNat * 2 ^ (32 * k)).sum))
  ∧ (∀ (s : State) (code n lat mask : Nat) (vals : List Nat), code + n ≤ 128 → mask < 2 ^ 32 → vals.length = 32 →
    let t := putDest s code n lat mask vals
    t = { s with groups := t.groups, clusters := t.clusters }
    ∧ (∀ f m k, (f, m, k) ≠ (s.lane.tid.fid, laneMember s, s.lane.slot) → t.grp f m k = s.grp f m k)
    ∧ laneGrp t = { laneGrp s with v := (laneGrp t).v }
    ∧ (∀ r l, l < 32 → vreg t r l = if code ≤ r ∧ r < code + n ∧ mask.testBit l = true
        then BitVec.ofNat 32 (vals.getD l 0 / 2 ^ (32 * (r - code))) else vreg s r l)
    ∧ ∀ p, p ≠ s.lane.pid → t.clu p = s.clu p)
  ∧ ∀ (s : State) (x : LaneWord) (l : Nat), l < 32 →
    let g := laneGrp s
    let base : Bool := if s.lane.replay then s.lane.act.testBit l else match g.exWas with
      | some (t0, old) =>
        if sameCycle s s.lane.pid t0 then old.testBit l && !g.park.testBit l && !g.exit.testBit l else g.ex.testBit l
      | none => g.ex.testBit l
    (x.sel = 12 → (activeMask s x).testBit l = base)
    ∧ (x.sel.toNat < 12 → inFlight s (256 + x.sel.toNat) = none →
        (activeMask s x).testBit l = (base && ((g.p.get x.sel.toNat 0).testBit l != x.neg)))

/-- R14, R17, R39, R410: the issue of a word. Its run goes on at the next word, no earlier than 1 + stall cycles later, and
its pipe issues no other word in the cycle; no register, memory or access changes by that. A word that cannot be paid for is
held where it is, and its payer, listed with the denied ones, keeps the age of its first request. -/
def Sys2Proof.Claims.LaneIssue : Prop :=
  ∀ (s : State) (x : LaneWord) (act : Nat) (acted : Bool) (p : PipeRun),
    laneRun s = some p → p.pos + 1 < p.run.words.length →
    let t := issued s x act acted
    laneRun t = some { p with pos := p.pos + 1, ready := cyclesAhead s s.lane.pid (1 + x.stall.toNat), acts := p.acts ++ [(act, acted)] }
    ∧ t = { s with clusters := t.clusters, groups := t.groups, ctxs := t.ctxs, threads := t.threads }
    ∧ (∀ q, q ≠ s.lane.pid → t.clu q = s.clu q)
    ∧ (∀ f m k, t.grp f m k = { s.grp f m k with prec := (t.grp f m k).prec })
    ∧ (∀ f m k, (f, m, k) ≠ (s.lane.tid.fid, laneMember s, s.lane.slot) → t.grp f m k = s.grp f m k)
    ∧ (∀ u, t.thr u = { s.thr u with out := (t.thr u).out })
    ∧ (t.clu s.lane.pid).pipeNext.get s.lane.pipe 0 = cyclesAhead s s.lane.pid 1
    ∧ ∀ i ∈ [Instr.fadd x, .fsub x, .fmul x, .ffma x, .fdp2 x, .fdp4 x, .fmin x, .fmax x, .fabs x, .fneg x, .fcmp x, .cvt x],
      let pid := s.lane.pid
      let r := (payLane s 1 (activeMask s x)).1
      let first := ((((rollSpend s pid).clu pid).purse.payers.find? fun y => decide (y.who = pipeWho s.lane.pipe)).map (·.age)).getD
        (cycleStart s pid)
      (payLane s 1 (activeMask s x)).2 = false → exec i s = .next { r with lane := { r.lane with held := true } }
        ∧ r = s.setClu pid { s.clu pid with purse := (r.clu pid).purse } ∧ laneRun r = some p
        ∧ ∃ y ∈ (r.clu pid).purse.payers, y.who = pipeWho s.lane.pipe ∧ y.age = first

/-- R17, R36 to R39, R199: lane operands, and the issue of a word. -/
def Sys2Proof.Claims.LaneRegisters : Prop := Sys2Proof.Claims.LaneOperands ∧ Sys2Proof.Claims.LaneIssue

/-! ## Integer lane words -/

/-- Element `j` of width `w` of an operand (R173). -/
def Sys2Proof.Claims.elem (w a j : Nat) : Nat := a / 2 ^ (w * j) % 2 ^ w

/-- The integer that an element of a type denotes (R171). -/
def Sys2Proof.Claims.ival (t e : Nat) : Int := if 4 ≤ t ∧ 2 ^ (tyWidth t - 1) ≤ e then (e : Int) - 2 ^ tyWidth t else e

/-- `clamp` or `wrap` to an integer of `w` bits (R172), as bits. -/
def Sys2Proof.Claims.fit (sat signed : Bool) (w : Nat) (v : Int) : Nat :=
  let lo : Int := if signed then -(2 ^ (w - 1)) else 0
  let hi : Int := if signed then 2 ^ (w - 1) - 1 else 2 ^ w - 1
  ((if sat then (if v < lo then lo else if hi < v then hi else v) else v) % 2 ^ w).toNat

/-- A result of elements (R200): side by side where packed, else the one element extended to 32 bits. -/
def Sys2Proof.Claims.putAll (t : Nat) (packed : Bool) (f : Nat → Nat) : Nat :=
  let w := tyWidth t
  if packed then ((List.range (32 / w)).map fun j => f j * 2 ^ (w * j)).sum
  else if t < 8 ∧ 4 ≤ t ∧ w < 32 ∧ 2 ^ (w - 1) ≤ f 0 then 2 ^ 32 - 2 ^ w + f 0 else f 0

/-- R203 to R205: the element-wise integer words. Each result is the exact one, wrapped or clamped to the type. -/
def Sys2Proof.Claims.LaneIntegers : Prop :=
  ∀ (x : LaneWord) (s : State), x.ty < 8 → (x.pk0 = true → tyWidth x.ty < 32) →
    let t := x.ty
    let w := tyWidth t
    let n := tySpan t
    let A (l : Nat) : Nat := (srcA s x n).getD l 0
    let B (l : Nat) : Nat := (srcB s x n).getD l 0
    let C (l : Nat) : Nat := (srcC s x n).getD l 0
    let lat := if w = 64 then 3 else 2
    let mlat := if w = 64 then 6 else 4
    let int3 (op : Int → Int → Int → Int) (l : Nat) : Nat := putAll t x.pk0 fun j =>
      fit x.sat0 (decide (4 ≤ t)) w (op (ival t (elem w (A l) j)) (ival t (elem w (B l) j)) (ival t (elem w (C l) j)))
    let bits (op : Nat → Nat → Nat) (l : Nat) : Nat := putAll t x.pk0 fun j => op (elem w (A l) j) (elem w (B l) j) % 2 ^ w
    LaneWrites s (exec (.iadd x) s) x lat n (int3 fun a b _ => a + b)
    ∧ LaneWrites s (exec (.isub x) s) x lat n (int3 fun a b _ => a - b)
    ∧ LaneWrites s (exec (.imul x) s) x mlat n (int3 fun a b _ => a * b)
    ∧ LaneWrites s (exec (.imulh x) s) x mlat n (int3 fun a b _ => a * b / 2 ^ w)
    ∧ LaneWrites s (exec (.imad x) s) x mlat n (int3 fun a b c => a * b + c)
    ∧ LaneWrites s (exec (.imin x) s) x lat n (int3 fun a b _ => if a ≤ b then a else b)
    ∧ LaneWrites s (exec (.imax x) s) x lat n (int3 fun a b _ => if a ≤ b then b else a)
    ∧ LaneWrites s (exec (.iabs x) s) x lat n (int3 fun a _ _ => if a < 0 then -a else a)
    ∧ LaneWrites s (exec (.iadd3 x) s) x lat n (int3 fun a b c => a + b + c)
    ∧ LaneWrites s (exec (.andLane x) s) x lat n (bits fun a b => a &&& b)
    ∧ LaneWrites s (exec (.orLane x) s) x lat n (bits fun a b => a ||| b)
    ∧ LaneWrites s (exec (.xorLane x) s) x lat n (bits fun a b => a ^^^ b)
    ∧ LaneWrites s (exec (.notLane x) s) x lat n (bits fun a _ => 2 ^ w - 1 - a)
    ∧ LaneWrites s (exec (.movLane x) s) x lat n (bits fun a _ => a)
    ∧ LaneWrites s (exec (.shlLane x) s) x lat n (bits fun a b => a * 2 ^ (b % 256))
    ∧ LaneWrites s (exec (.shrLane x) s) x lat n (bits fun a b => (ival t a / 2 ^ (b % 256) % 2 ^ w).toNat)
    ∧ LaneWrites s (exec (.rotl x) s) x lat n
        (bits fun a b => (a * 2 ^ (b % 256 % w) ||| a / 2 ^ (w - b % 256 % w)))
    ∧ LaneWrites s (exec (.brev x) s) x lat n
        (bits fun a _ => ((List.range w).map fun k => if a.testBit k then 2 ^ (w - 1 - k) else 0).sum)

/-- R207 to R210: bit fields, bit counts, sums of differences, widening products and dot products. -/
def Sys2Proof.Claims.LaneFieldsAndSums : Prop :=
  ∀ (x : LaneWord) (s : State), x.ty < 8 → (x.pk0 = true ↔ tyWidth x.ty < 32) →
    let t := x.ty
    let w := tyWidth t
    let n := tySpan t
    let A (l : Nat) : Nat := (srcA s x n).getD l 0
    let C (l : Nat) : Nat := (srcC s x n).getD l 0
    let A1 (l : Nat) : Nat := (srcA s x 1).getD l 0
    let B1 (l : Nat) : Nat := (srcB s x 1).getD l 0
    let C1 (l : Nat) : Nat := (srcC s x 1).getD l 0
    let C2 (l : Nat) : Nat := (srcC s x 2).getD l 0
    let sgn := decide (4 ≤ t)
    let lat := if w = 64 then 3 else 2
    let len (l : Nat) : Nat := min (B1 l / 256 % 256) w
    let pos (l : Nat) : Nat := B1 l % 256
    let els := 32 / w
    let sum (f : Int → Int → Int) (l : Nat) : Nat := fit x.sat0 sgn 32 (ival (if 4 ≤ t then 6 else 2) (C1 l)
      + ((List.range els).map fun j => f (ival t (elem w (A1 l) j)) (ival t (elem w (B1 l) j))).sum)
    let wide (add : Bool) (l : Nat) : Nat := ((List.range els).map fun j =>
      let c := elem (2 * w) (C2 l) j
      fit x.sat0 sgn (2 * w) (ival t (elem w (A1 l) j) * ival t (elem w (B1 l) j)
        + (if add then (if sgn = true ∧ 2 ^ (2 * w - 1) ≤ c then (c : Int) - 2 ^ (2 * w) else c) else 0)) * 2 ^ (2 * w * j)).sum
    (32 ≤ w →
      LaneWrites s (exec (.bfe x) s) x lat n (fun l =>
        let f := (ival t (A l % 2 ^ w) / 2 ^ pos l % 2 ^ len l).toNat
        if len l = 0 then 0 else if sgn = true ∧ 2 ^ (len l - 1) ≤ f then 2 ^ w - 2 ^ len l + f else f)
      ∧ LaneWrites s (exec (.bfi x) s) x lat n (fun l => ((List.range w).map fun k =>
          if (if pos l ≤ k ∧ k < pos l + len l then (A l).testBit (k - pos l) else (C l).testBit k) then 2 ^ k else 0).sum)
      ∧ LaneWrites s (exec (.popcLane x) s) x lat 1 (fun l => ((List.range w).filter fun k => (A l).testBit k).length)
      ∧ LaneWrites s (exec (.clzLane x) s) x lat 1 (fun l => ((List.range w).takeWhile fun k => !(A l).testBit (w - 1 - k)).length))
    ∧ (w ≤ 32 → LaneWrites s (exec (.isad x) s) x 2 1 (sum fun a b => if a ≤ b then b - a else a - b)
      ∧ LaneWrites s (exec (.imulw x) s) x 4 2 (wide false) ∧ LaneWrites s (exec (.imadw x) s) x 4 2 (wide true))
    ∧ (w = 8 → LaneWrites s (exec (.idp4 x) s) x 4 1 (sum fun a b => a * b))
    ∧ (w = 16 → LaneWrites s (exec (.idp2 x) s) x 4 1 (sum fun a b => a * b))

/-- R203 to R210: the integer lane words. -/
def Sys2Proof.Claims.LaneIntegerWords : Prop := Sys2Proof.Claims.LaneIntegers ∧ Sys2Proof.Claims.LaneFieldsAndSums

/-! ## Floating-point, conversion and special-function lane words -/

/-- Operands, issue and the integer words of the lanes. -/
def Obligations.LaneRegistersAndIntegers : Prop :=
  Sys2Proof.Claims.LaneRegisters ∧ Sys2Proof.Claims.LaneIntegerWords

/-- A word that pays `weight` for its group first (R202): held where it cannot; else it issues, each active lane `l`
writes `(f l).1`, and the group records the events that its active lanes raise (R203). -/
def Sys2Proof.Claims.LanePriced (s : State) (o : Out) (x : LaneWord) (weight lat n : Nat) (f : Nat → Nat × Ev) : Prop :=
  let act := activeMask s x
  let p := payLane s weight act
  (p.2 = false → o = holdWord p.1)
  ∧ (p.2 = true → ∃ e : Ev,
      (∀ b, e.bits.testBit b = true ↔ ∃ l, l < 32 ∧ act.testBit l = true ∧ (f l).2.bits.testBit b = true)
      ∧ o = .next (issued (aelLane (putDest p.1 x.dN n lat act ((List.range 32).map fun l => (f l).1)) e) x act true))

/-- Elements' results and events put together (R200, R203). -/
def Sys2Proof.Claims.putAllEv (t : Nat) (packed : Bool) (f : Nat → Nat × Ev) : Nat × Ev :=
  (putAll t packed fun j => if packed then (f j).1 % 2 ^ tyWidth t else (f j).1,
    (List.range (if packed then 32 / tyWidth t else 1)).foldl (fun e j => e.or (f j).2) Ev.none)

/-- R211 to R214: the floating-point words. Operands are flushed where ftz is set, the exact result is rounded once, and
clamped to [0, 1] where sat is set; INVALID is raised for a signalling NaN operand, or a NaN that none of them was. That a
dot product adds its products in the order of the elements, and raises INVALID of that sum, is the model's choice (log 113). -/
def Sys2Proof.Claims.LaneFloats : Prop :=
  ∀ (x : LaneWord) (s : State), x.ty = 8 ∨ x.ty = 9 ∨ x.ty = 10 → (x.pk1 = true → x.ty ≠ 10) →
    let t := x.ty
    let F := fmtOf t
    let w := tyWidth t
    let rm := decide (x.rnd = 2)
    let A (l : Nat) : Nat := (srcA s x 1).getD l 0
    let B (l : Nat) : Nat := (srcB s x 1).getD l 0
    let C (l : Nat) : Nat := (srcC s x 1).getD l 0
    let fl (a : Nat) : Nat := F.flush x.ftz a
    let v (a : Nat) : Val := F.value (fl a)
    let sn (l : List Nat) : Ev := Ev.when (l.any F.snan) Ev.invalid
    let round (G : Fmt) (r : Val × Bool) : Nat × Ev :=
      let y := roundTo G (rmode x.rnd) false x.ftz r.1
      (if x.sat1 then clamp01 G y.1 else y.1, y.2.or (Ev.when r.2 Ev.invalid))
    let each (g : Nat → Nat → Nat → Nat × Ev) (l : Nat) : Nat × Ev :=
      putAllEv t x.pk1 fun j => g (elem w (A l) j) (elem w (B l) j) (elem w (C l) j)
    let two (op : Val → Val → Val × Bool) : Nat → Nat × Ev := each fun a b _ =>
      let r := round F (op (v a) (v b))
      (r.1, r.2.or (sn [a, b]))
    let dot (k : Nat) (l : Nat) : Nat × Ev :=
      let a j := elem 16 ((srcA s x (k / 2)).getD l 0) j
      let b j := elem 16 ((srcB s x (k / 2)).getD l 0) j
      let sum := (List.range k).foldl (fun (acc : Val × Bool) j =>
        let p := Val.mul (v (a j)) (v (b j))
        let r := Val.add rm acc.1 p.1
        (r.1, acc.2 || p.2 || r.2)) (fF32.value (fF32.flush x.ftz (C l)), false)
      let r := round fF32 sum
      (r.1, (r.2.or (sn ((List.range k).map a ++ (List.range k).map b))).or (Ev.when (fF32.snan (C l)) Ev.invalid))
    LanePriced s (exec (.fadd x) s) x 1 4 1 (two (Val.add rm))
    ∧ LanePriced s (exec (.fsub x) s) x 1 4 1 (two fun a b => Val.add rm a b.neg)
    ∧ LanePriced s (exec (.fmul x) s) x 1 4 1 (two Val.mul)
    ∧ LanePriced s (exec (.ffma x) s) x 1 4 1 (each fun a b c =>
        let p := Val.mul (v a) (v b)
        let q := Val.add rm p.1 (v c)
        let r := round F (q.1, p.2 || q.2)
        (r.1, r.2.or (sn [a, b, c])))
    ∧ LanePriced s (exec (.fdp2 x) s) x 1 5 1 (dot 2)
    ∧ LanePriced s (exec (.fdp4 x) s) x 1 5 1 (dot 4)
    ∧ (let order (isMin : Bool) : Nat → Nat × Ev := each fun a b _ =>
         let below := Val.lt (v a) (v b) || (!Val.lt (v b) (v a) && ((v a).sign || !(v b).sign))
         (if (v a).isNan && (v b).isNan then F.nan else if (v a).isNan then fl b else if (v b).isNan then fl a
          else if below == isMin then fl a else fl b, sn [fl a, fl b])
       LanePriced s (exec (.fmin x) s) x 1 2 1 (order true) ∧ LanePriced s (exec (.fmax x) s) x 1 2 1 (order false))
    ∧ LanePriced s (exec (.fabs x) s) x 1 2 1 (each fun a _ _ => (a % 2 ^ (w - 1), Ev.none))
    ∧ LanePriced s (exec (.fneg x) s) x 1 2 1 (each fun a _ _ => ((a + 2 ^ (w - 1)) % 2 ^ w, Ev.none))
    ∧ LanePriced s (exec (.frnd x) s) x 1 4 1 (each fun a _ _ => match v a with
        | .nan => (F.nan, sn [a])
        | .inf _ => (fl a, Ev.none)
        | .fin n m e =>
          let k := (-e).toNat
          let y := m / 2 ^ k + if roundUp (rmode x.rnd) n (m / 2 ^ k) (m % 2 ^ k) k then 1 else 0
          if m = 0 ∨ 0 ≤ e then (fl a, Ev.none)
          else (if y = 0 then F.zero n else (roundTo F .rn false false (.fin n y 0)).1, Ev.when (decide (m % 2 ^ k ≠ 0)) Ev.inexact))

/-- The generator of a lane after so many steps (R185). -/
def Sys2Proof.Claims.stepped : Nat → Word32 → Word32
  | 0, st => st
  | k + 1, st => stepped k (srStep st)

/-- R216 to R218: a conversion of `n` elements in each lane, from width wS to width wD. Under .sr element j is rounded
with the lane's generator after j + 1 steps, and each active lane's generator ends n steps on, a seed of an earlier cycle
having taken effect first (R188); else no generator steps. -/
def Sys2Proof.Claims.Converts (s : State) (o : Out) (x : LaneWord) (lat n wD : Nat) (sr : Bool)
    (f : Nat → Nat → RMode → Nat × Ev) : Prop :=
  let act := activeMask s x
  let p := payLane s 1 act
  let u := if sr then settleSeed p.1 s.lane.pid else p.1
  let mode (l j : Nat) : RMode := if sr then .sr ((stepped (j + 1) (srState u l)).toNat / 256) else rmode x.rnd
  let value (l : Nat) : Nat := ((List.range n).map fun j => (f l j (mode l j)).1 % 2 ^ wD * 2 ^ (wD * j)).sum
  (p.2 = false → o = holdWord p.1)
  ∧ (p.2 = true → ∃ e : Ev,
      (∀ b, e.bits.testBit b = true ↔ ∃ l j, l < 32 ∧ act.testBit l = true ∧ j < n ∧ (f l j (mode l j)).2.bits.testBit b = true)
      ∧ let w := putDest u x.dN (n * wD / 32) lat act ((List.range 32).map value)
        let w := if sr then (setBits 32 act).foldl (fun v l => setSr v l (stepped n (srState u l))) w else w
        o = .next (issued (aelLane w e) x act true))

/-- R215 to R220: CVT, CVTS, CBD, PACK and UNPK. CVT rounds each element's value into the destination type; CVTS
multiplies or divides by the block's scale; CBD decodes indices through the codebook bank that it captured, and is held
while that bank waits for a load. PACK and UNPK act on bits. That CVTS and CBD step the lane's generator for every element is
the model's choice (log 112). -/
def Sys2Proof.Claims.LaneConversions : Prop :=
  ∀ (x : LaneWord) (s : State), x.ty < 14 → x.srcTy < 14 →
    let wS := tyWidth x.srcTy
    let wD := tyWidth x.ty
    let n := 32 / min (min wS wD) 32
    let A (k l : Nat) : Nat := (srcA s x k).getD l 0
    let sc (per blk l j : Nat) : Nat := ((regRow s x.bN).getD ((per * l + j) / blk) 0).toNat / 2 ^ (8 * x.bs) % 256
    Converts s (exec (.cvt x) s) x 4 n wD (decide (x.rnd = 4) && canRound x.srcTy x.ty)
        (fun l j mode => convert x.srcTy x.ty mode x.sat2 (elem wS (A (n * wS / 32) l) j))
    ∧ ((x.srcTy = 11 ∨ x.srcTy = 12 ∨ x.srcTy = 13) ≠ (x.ty = 11 ∨ x.ty = 12 ∨ x.ty = 13) → 8 ≤ x.ty → 8 ≤ x.srcTy →
        let S := fmtOf x.srcTy
        let D := fmtOf x.ty
        Converts s (exec (.cvts x) s) x 5 n wD (decide (x.rnd = 4)) (fun l j mode =>
          let e := elem wS (A (n * wS / 32) l) j
          let X := sc n 32 l j
          let narrowSrc := x.srcTy = 11 ∨ x.srcTy = 12 ∨ x.srcTy = 13
          let sn := Ev.when (S.snan e) Ev.invalid
          if X = 255 then (if D.hasNan then D.nan else 0, (Ev.when (!(S.value e).isNan || !D.hasNan) Ev.invalid).or sn)
          else
            let r := roundTo D mode x.sat2 false (Val.scale (if narrowSrc then (X : Int) - 127 else 127 - X) (S.value e))
            (r.1, r.2.or sn)))
    ∧ (x.ty = 8 ∨ x.ty = 9 ∨ x.ty = 11 →
        let bank := s.lane.word.banks.get (laneMember s) 0
        let c := s.clu s.lane.pid
        let weight (l j : Nat) : Int :=
          let idx := elem 16 (A 1 l) (j / 8)
          (cb2Decode idx (leNat (((c.codeTab.getD (bank % 2) []).drop (4 * (idx / 256))).take 4))).getD (j % 8) 0
        (c.code.waits bank = true → exec (.cbd x) s = holdWord s)
        ∧ (c.code.waits bank = false → ∃ o, Converts s o x 6 16 wD (decide (x.rnd = 4)) (fun l j mode =>
              let D := fmtOf x.ty
              let X := sc 16 64 l j
              let q := weight l j
              if X = 255 then (D.nan, Ev.invalid) else if q = 0 then (0, Ev.none)
              else roundTo D mode x.sat2 false (.fin (decide (q < 0)) q.natAbs ((X : Int) - 130)))
            ∧ ∀ t, o = .next t → exec (.cbd x) s = .next (if t.lane.held then t
                else retireUse t fun k => { k with code := k.code.retire bank })))
    ∧ LaneWrites s (exec (.pack x) s) x 2 1 (fun l =>
        let a := A 1 l
        let b := (srcB s x 1).getD l 0
        if x.ty = 1 then elem 16 a (x.bs % 2) + 2 ^ 16 * elem 16 b (x.bs / 2)
        else elem 8 a x.bs + 2 ^ 8 * elem 8 b x.bs + 2 ^ 16 * ((srcD s x 1).getD l 0 % 2 ^ 16))
    ∧ (wS ≤ 16 → LaneWrites s (exec (.unpk x) s) x 2 1 (fun l =>
        let e := elem wS (A 1 l) x.bs
        if x.ty = 6 ∧ 2 ^ (wS - 1) ≤ e then 2 ^ 32 - 2 ^ wS + e else e))

/-- R182: what a conversion gives. To an integer: 0 for NaN, an end of the range for an infinity or a value beyond it,
INVALID raised; otherwise an integer within 1 of the value, which a larger value does not undercut. Between integers,
the value wrapped or clamped. That the range is tested on the rounded integer is the model's choice (log 111). -/
def Sys2Proof.Claims.ConversionResults : Prop :=
  ∀ (src dst : Nat) (mode : RMode) (sat : Bool) (e : Nat), dst < 8 → (∀ u, mode = .sr u → u < 2 ^ 24) →
    let w := tyWidth dst
    let lo : Int := if 4 ≤ dst then -(2 ^ (w - 1)) else 0
    let hi : Int := if 4 ≤ dst then 2 ^ (w - 1) - 1 else 2 ^ w - 1
    let r := convert src dst mode sat e
    let bits (v : Int) : Nat := (v % 2 ^ w).toNat
    (src < 8 → r = (fit sat (decide (4 ≤ dst)) w (ival src (e % 2 ^ tyWidth src)), Ev.none))
    ∧ (8 ≤ src → (fmtOf src).value e = .nan → r = (0, Ev.invalid))
    ∧ (8 ≤ src → ∀ n, (fmtOf src).value e = .inf n → r = (bits (if n then lo else hi), Ev.invalid))
    ∧ (8 ≤ src → ∀ n m k, (fmtOf src).value e = .fin n m k → 0 ≤ k →
        let v : Int := if n then -((m * 2 ^ k.toNat : Nat) : Int) else ((m * 2 ^ k.toNat : Nat) : Int)
        r = if v < lo then (bits lo, Ev.invalid) else if hi < v then (bits hi, Ev.invalid) else (bits v, Ev.none))
    ∧ (8 ≤ src → ∀ n m k, (fmtOf src).value e = .fin n m k → k < 0 →
        ∃ y : Nat, (y = m / 2 ^ (-k).toNat ∨ y = m / 2 ^ (-k).toNat + 1 ∧ m % 2 ^ (-k).toNat ≠ 0)
          ∧ let v : Int := if n then -(y : Int) else y
            r.1 = bits (if v < lo then lo else if hi < v then hi else v)
            ∧ (v < lo ∨ hi < v → r.2 = Ev.invalid) ∧ (lo ≤ v → v ≤ hi → m % 2 ^ (-k).toNat ≠ 0 → r.2 = Ev.inexact))

/-- R227, R228: the special functions take the low element, pay the floating-point price and write the result under
their latency. -/
def Sys2Proof.Claims.LaneSpecials : Prop :=
  ∀ (x : LaneWord) (s : State),
    let one (op : Nat) (l : Nat) : Nat × Ev := specialFn op x.ty ((srcA s x 1).getD l 0 % 2 ^ tyWidth x.ty)
    LanePriced s (exec (.rcp x) s) x 1 12 1 (one 0x188) ∧ LanePriced s (exec (.rsq x) s) x 1 12 1 (one 0x189)
    ∧ LanePriced s (exec (.sqrt x) s) x 1 14 1 (one 0x18A) ∧ LanePriced s (exec (.exp2 x) s) x 1 12 1 (one 0x18B)
    ∧ LanePriced s (exec (.log2 x) s) x 1 12 1 (one 0x18C) ∧ LanePriced s (exec (.sin x) s) x 1 12 1 (one 0x18D)
    ∧ LanePriced s (exec (.cos x) s) x 1 12 1 (one 0x18E)

/-- R227, R228: the special results, whatever values the part chooses within the bounds; no special function raises
UNDERFLOW (bit 1) or INEXACT (bit 0), and every subnormal result is a zero. -/
def Sys2Proof.Claims.SpecialResults : Prop :=
  ∀ (t : Nat) (bits : Nat), t = 8 ∨ t = 9 ∨ t = 10 →
    let F := fmtOf t
    let z := F.flush true bits
    let v := F.value z
    let f (op : Nat) : Nat × Ev := specialFn op t bits
    let ops := [0x188, 0x189, 0x18A, 0x18B, 0x18C, 0x18D, 0x18E]
    let bad : Nat × Ev := (F.nan, Ev.invalid)
    let unit := F.bias.toNat * 2 ^ F.frac
    (∀ op ∈ ops, (f op).2.bits.testBit 0 = false ∧ (f op).2.bits.testBit 1 = false ∧ F.subnormal (f op).1 = false)
    ∧ (v = .nan → ∀ op ∈ ops, f op = (F.nan, Ev.when (F.snan z) Ev.invalid))
    ∧ (v = .inf false → f 0x188 = (F.zero false, Ev.none) ∧ f 0x189 = (0, Ev.none) ∧ f 0x18A = (F.infBits false, Ev.none)
        ∧ f 0x18B = (F.infBits false, Ev.none) ∧ f 0x18C = (F.infBits false, Ev.none) ∧ f 0x18D = bad ∧ f 0x18E = bad)
    ∧ (v = .inf true → f 0x188 = (F.zero true, Ev.none) ∧ f 0x189 = bad ∧ f 0x18A = bad ∧ f 0x18B = (0, Ev.none)
        ∧ f 0x18C = bad ∧ f 0x18D = bad ∧ f 0x18E = bad)
    ∧ (∀ n e, v = .fin n 0 e → f 0x188 = (F.infBits n, Ev.divzero) ∧ f 0x189 = (F.infBits n, Ev.divzero)
        ∧ f 0x18A = (F.zero n, Ev.none) ∧ f 0x18B = (unit, Ev.none) ∧ f 0x18C = (F.infBits true, Ev.divzero)
        ∧ f 0x18D = (F.zero n, Ev.none) ∧ f 0x18E = (unit, Ev.none))
    ∧ (∀ m e, v = .fin true m e → m ≠ 0 → f 0x189 = bad ∧ f 0x18A = bad ∧ f 0x18C = bad)
    ∧ (∀ (k : Nat) e, v = .fin false (2 ^ k) e → f 0x18C = (F.flush true (roundTo F .rn false false (Val.ofInt (e + k))).1, Ev.none))
    ∧ (∀ n m e, v = .fin n m e → 0 ≤ e → m ≠ 0 → f 0x18D = (F.zero n, Ev.none)
        ∧ f 0x18E = (if m * 2 ^ e.toNat % 2 = 1 then unit + 2 ^ (F.width - 1) else unit, Ev.none))

/-- R211 to R214: the floating-point lane words. -/
def Sys2Proof.Claims.LaneFloatWords : Prop := Sys2Proof.Claims.LaneFloats

/-- R182, R215 to R220: conversions, packing and unpacking. -/
def Sys2Proof.Claims.LaneConversionWords : Prop := Sys2Proof.Claims.LaneConversions ∧ Sys2Proof.Claims.ConversionResults

/-- R227, R228: the special functions. -/
def Sys2Proof.Claims.SpecialFunctions : Prop := Sys2Proof.Claims.LaneSpecials ∧ Sys2Proof.Claims.SpecialResults

/-! ## Predicates, lane exit, retired words -/

/-- The floating-point, conversion and special-function words of the lanes.
The model's own readings in it: logs 111, 112, 113. -/
def Obligations.LaneFloatsAndConversions : Prop :=
  Sys2Proof.Claims.LaneFloatWords ∧ Sys2Proof.Claims.LaneConversionWords ∧ Sys2Proof.Claims.SpecialFunctions

/-- The word issues at once, and each active lane `l` of predicate D takes `f l`. -/
def Sys2Proof.Claims.LaneSets (s : State) (o : Out) (x : LaneWord) (lat : Nat) (f : Nat → Bool) : Prop :=
  let act := activeMask s x
  ∃ m : Nat, (∀ l, l < 32 → m.testBit l = f l) ∧ o = .next (issued (putPred s x.dN lat act m) x act true)

/-- R37, R39: a predicate written in the lanes of a mask; nothing else of the machine changes but what the pipe remembers
of the write. -/
def Sys2Proof.Claims.PredicateWrites : Prop :=
  ∀ (s : State) (k lat mask new : Nat), mask < 2 ^ 32 →
    let t := putPred s k lat mask new
    t = { s with groups := t.groups, clusters := t.clusters }
    ∧ (∀ f m j, (f, m, j) ≠ (s.lane.tid.fid, laneMember s, s.lane.slot) → t.grp f m j = s.grp f m j)
    ∧ laneGrp t = { laneGrp s with p := (laneGrp t).p }
    ∧ (∀ j, j ≠ k → (laneGrp t).p.get j 0 = (laneGrp s).p.get j 0)
    ∧ (∀ l, l < 32 → ((laneGrp t).p.get k 0).testBit l = if mask.testBit l then new.testBit l else ((laneGrp s).p.get k 0).testBit l)
    ∧ ∀ q, q ≠ s.lane.pid → t.clu q = s.clu q

/-- R221 to R224: compares, PLOP, PMOV and SEL. That the 64-bit forms of ICMP and SEL land after 2 cycles, as the narrower ones
do, is the model's inference (log 53). -/
def Sys2Proof.Claims.LanePredicates : Prop :=
  ∀ (x : LaneWord) (s : State),
    let t := x.ty
    let n := tySpan t
    let act := activeMask s x
    let A (k l : Nat) : Nat := (srcA s x k).getD l 0
    let B (k l : Nat) : Nat := (srcB s x k).getD l 0
    let pred (k l : Nat) : Bool := (predMask s k).testBit l
    let combine (l : Nat) (r : Bool) : Bool :=
      if x.comb = 0 then r else if x.comb = 1 then pred x.dN l && r else if x.comb = 2 then pred x.dN l || r else pred x.dN l != r
    (t < 8 → x.cond < 6 → LaneSets s (exec (.icmp x) s) x 2 fun l =>
      let a := ival t (A n l % 2 ^ tyWidth t)
      let b := ival t (B n l % 2 ^ tyWidth t)
      combine l (if x.cond = 0 then decide (a = b) else if x.cond = 1 then decide (a ≠ b) else if x.cond = 2 then decide (a < b)
        else if x.cond = 3 then decide (a ≤ b) else if x.cond = 4 then decide (b < a) else decide (b ≤ a)))
    ∧ (t = 8 ∨ t = 9 ∨ t = 10 → x.cond < 8 →
      let F := fmtOf t
      let a (l : Nat) : Nat := A 1 l % 2 ^ tyWidth t
      let b (l : Nat) : Nat := B 1 l % 2 ^ tyWidth t
      let va (l : Nat) : Val := F.value (a l)
      let vb (l : Nat) : Val := F.value (b l)
      let nan (l : Nat) : Bool := (va l).isNan || (vb l).isNan
      let lt (l : Nat) : Bool := Val.lt (va l) (vb l)
      let gt (l : Nat) : Bool := Val.lt (vb l) (va l)
      let r (l : Nat) : Bool := if x.cond = 0 then !nan l && !lt l && !gt l else if x.cond = 1 then nan l || lt l || gt l
        else if x.cond = 2 then lt l else if x.cond = 3 then !nan l && !gt l else if x.cond = 4 then !nan l && gt l
        else if x.cond = 5 then !nan l && !lt l else if x.cond = 6 then !nan l else nan l
      let inv (l : Nat) : Bool := F.snan (a l) || F.snan (b l) || (nan l && decide (2 ≤ x.cond) && decide (x.cond ≤ 5))
      let p := payLane s 1 act
      (p.2 = false → exec (.fcmp x) s = holdWord p.1)
      ∧ (p.2 = true → ∃ m : Nat, (∀ l, l < 32 → m.testBit l = combine l (r l))
          ∧ exec (.fcmp x) s = .next (issued (aelLane (putPred p.1 x.dN 2 act m)
              (Ev.when ((setBits 32 act).any inv) Ev.invalid)) x act true)))
    ∧ LaneSets s (exec (.plop x) s) x 1 (fun l => (x.cN % 16).testBit (2 * b2n (pred x.aN l) + b2n (pred x.bN l)))
    ∧ (t ≠ 0 → LaneWrites s (exec (.pmov x) s) x 1 1 fun l => ((List.range 12).map fun k => b2n (pred k l) * 2 ^ k).sum)
    ∧ (t = 0 → ∃ u : State, exec (.pmov x) s = .next (issued u x act true)
        ∧ u = { s with groups := u.groups, clusters := u.clusters } ∧ laneGrp u = { laneGrp s with p := (laneGrp u).p }
        ∧ (∀ f m j, (f, m, j) ≠ (s.lane.tid.fid, laneMember s, s.lane.slot) → u.grp f m j = s.grp f m j)
        ∧ ∀ k l, k < 12 → l < 32 → ((laneGrp u).p.get k 0).testBit l =
            if act.testBit l && (B 1 l).testBit k then (A 1 l).testBit k else ((laneGrp s).p.get k 0).testBit l)
    ∧ LaneWrites s (exec (.sel x) s) x 2 n (fun l => if pred x.cN l then A n l else B n l)

/-- R225, R226: LEXIT moves the active lanes of its group from EXMASK (in a replay, from PARKMASK) to EXITMASK and
touches no other group, no thread but for waits on a barrier that its exits complete, and no memory; NOP only issues. -/
def Sys2Proof.Claims.LaneExits : Prop :=
  ∀ (x : LaneWord) (s : State),
    let act := activeMask s x
    exec (.nop x) s = .next (issued s x act true)
    ∧ ∃ u : State, exec (.lexit x) s = .next (issued u x act true)
      ∧ u = { s with groups := u.groups, flocks := u.flocks, ctxs := u.ctxs, threads := u.threads }
      ∧ (∀ t, u.thr t = { s.thr t with wait := (u.thr t).wait })
      ∧ (∀ f m j, (f, m, j) ≠ (s.lane.tid.fid, laneMember s, s.lane.slot) → u.grp f m j = s.grp f m j)
      ∧ laneGrp u = { laneGrp s with ex := (laneGrp u).ex, park := (laneGrp u).park, exit := (laneGrp u).exit }
      ∧ (∀ l, l < 32 → (laneGrp u).ex.testBit l = ((laneGrp s).ex.testBit l && !act.testBit l)
          ∧ (laneGrp u).park.testBit l = ((laneGrp s).park.testBit l && !act.testBit l)
          ∧ (laneGrp u).exit.testBit l = ((laneGrp s).exit.testBit l || act.testBit l))
      ∧ (act = 0 → u.flocks = s.flocks ∧ u.ctxs = s.ctxs ∧ u.threads = s.threads)

/-- R53, R434: the retired words. Each pays its expansion's floating-point prices and writes D before the next word
issues; division by zero gives all ones, and the dividend as the remainder. -/
def Sys2Proof.Claims.RetiredWords : Prop :=
  ∀ (x : LaneWord) (s : State),
    let act := activeMask s x
    let A (l : Nat) : Nat := (srcA s x 1).getD l 0
    let B (l : Nat) : Nat := (srcB s x 1).getD l 0
    let iv (a : Nat) : Int := ival x.ty a
    let q (l : Nat) : Int := if B l = 0 then -1 else Int.tdiv (iv (A l)) (iv (B l))
    let pays (i : Instr) (price : Nat) (f : Nat → Nat) : Prop :=
      let p := payLane s price act
      (p.2 = false → exec i s = holdWord p.1)
      ∧ (p.2 = true → exec i s = .next (issued (putDest p.1 x.dN 1 0 act ((List.range 32).map f)) x act true))
    (x.ty = 2 ∨ x.ty = 6 →
      pays (.idiv x) 4 (fun l => (q l % 2 ^ 32).toNat)
      ∧ pays (.irem x) 4 (fun l => if B l = 0 then A l else ((iv (A l) - iv (B l) * q l) % 2 ^ 32).toNat))
    ∧ pays (.fdiv x) 6 (fun l => (roundTo fF32 (rmode x.rnd) false false (divVal (fF32.value (A l)) (fF32.value (B l)))).1)

/-- R53: a quotient as IEEE 754 has it: NaN for NaN, ∞ ÷ ∞ and 0 ÷ 0; an infinity for a finite nonzero dividend over 0;
and for finite operands the quotient to 64 more bits than the dividend has, with a last bit that says whether anything is
left. -/
def Sys2Proof.Claims.Quotients : Prop :=
  (∀ v, divVal .nan v = .nan ∧ divVal v .nan = .nan) ∧ (∀ a b, divVal (.inf a) (.inf b) = .nan)
  ∧ (∀ n k m e, divVal (.inf n) (.fin k m e) = .inf (n != k) ∧ (divVal (.fin k m e) (.inf n)).isZero = true)
  ∧ (∀ n k e e', divVal (.fin n 0 e) (.fin k 0 e') = .nan)
  ∧ (∀ n k m e e', m ≠ 0 → divVal (.fin n m e) (.fin k 0 e') = .inf (n != k))
  ∧ ∀ n k m m' e e', m' ≠ 0 → ∃ q, divVal (.fin n m e) (.fin k m' e') = .fin (n != k) q (e - e' - 65)
      ∧ q / 2 = m * 2 ^ 64 / m' ∧ (q % 2 = 0 ↔ m' ∣ m * 2 ^ 64)

/-! ## Words that act once per cluster; curve tables and the codebook -/

/-- R483: what the groups of a member have found of a word once this one issues: the slots that have issued it, whether
some lane was active in any, whether EXMASK was all ones in each (as it stood at the start of the cycle, R358), and whether
this was the last of them. -/
def Sys2Proof.Claims.OncePerCluster : Prop :=
  ∀ (s : State) (act : Nat),
    let st := strOf s s.lane.tid s.lane.str
    let c := st.cissue.get (laneMember s, s.lane.word.seq) default
    let d := cissueNext s act
    d.slots = (c.slots ||| 2 ^ s.lane.slot) ∧ (d.active = true ↔ c.active = true ∨ act ≠ 0)
    ∧ (d.full = true ↔ (c.slots = 0 ∨ c.full = true) ∧ baseMask s = 2 ^ 32 - 1)
    ∧ (d.done = true ↔ (c.slots ||| 2 ^ s.lane.slot) = st.gmask)

/-- A word that acts once per cluster (R483), outside a replay: a group before the last only issues; at the last,
`act1` acts, answering false where the word must be held. -/
def Sys2Proof.Claims.LaneOnce (s : State) (o : Out) (x : LaneWord) (act1 : CIssue → State × Bool) : Prop :=
  let act := activeMask s x
  let c := cissueNext s act
  s.lane.replay = false →
  (c.done = false → o = .next (issued (setCissue s c) x act false))
  ∧ (c.done = true → (act1 c).2 = false → o = holdWord (act1 c).1)
  ∧ (c.done = true → (act1 c).2 = true →
      o = .next (issued (dropCissue (if c.active then markActed (act1 c).1 else (act1 c).1)) x act c.active))

/-- R232.5, R258.4: the loads of a bank count as finished in the order of their emission: one that finishes before an
earlier one of its bank is remembered, and counts once every earlier one does. The order is the model's inference (log 27). -/
def Sys2Proof.Claims.LoadsFinishInOrder : Prop :=
  ∀ (b : BankCtl) (k n : Nat), k < 2 →
    let c := b.finish (k + 2 * n)
    c = { b with finished := c.finished, early := c.early } ∧ (∀ j, j ≠ k → c.fin j = b.fin j) ∧ b.fin k ≤ c.fin k
    ∧ (∀ m, b.fin k < m → m ≤ c.fin k → m = n ∨ (k, m) ∈ b.early) ∧ n ≠ c.fin k + 1 ∧ (k, c.fin k + 1) ∉ b.early
    ∧ ∀ e, e ∈ c.early ↔ (e ∈ b.early ∨ e = (k, n)) ∧ ¬ (e.1 = k ∧ e.2 ≤ c.fin k)

/-- R229 to R232: CTE evaluates the bank it captured, held while a load of it is outstanding; CTLD waits for its target's
last user and for the stream's stores to the bytes it reads, pays once, and starts the load of 4096 bytes; after 32
cycles the bank and its descriptor hold the new table. That all the bytes are read as the load starts is the model's choice
(log 133). -/
def Sys2Proof.Claims.CurveTables : Prop :=
  (∀ (x : LaneWord) (s : State),
    let tbl := x.cN % 4
    let code := s.lane.word.banks.get (laneMember s) 0
    let ctl := (s.clu s.lane.pid).curve.get tbl BankCtl.placed
    (ctl.waits code = true → exec (.cte x) s = holdWord s)
    ∧ (ctl.waits code = false → ∃ o,
        LanePriced s o x 1 10 1 (fun l => cteLane ((s.clu s.lane.pid).curves.get (tbl, code % 2) CurveBank.zero) ((srcA s x 1).getD l 0))
        ∧ ∀ t, o = .next t → exec (.cte x) s = .next (if t.lane.held then t else retireUse t (modCurve tbl fun k => k.retire code)))
    ∧ LaneOnce s (exec (.ctld x) s) x (fun c =>
        let off := lo64 s.lane.word.ua
        let g := lo64 s.lane.word.ub
        let set (u : State) (b : BankCtl) : State := u.setClu s.lane.pid { u.clu s.lane.pid with curve := (u.clu s.lane.pid).curve.set tbl b }
        if c.active = false then (set s (ctl.finish code), true)
        else if ctl.used code = true ∨ (ctl.loading.find (code % 2)).isSome = true ∨ localBlocked s off 4096 = true then (s, false)
        else
          let p := payOnce s
          if p.2 = false then (p.1, false)
          else
            let ld : BankLoad := ⟨code / 2, s.now, s.localRead s.lane.tid.fid (laneMember s) off 4096, BitVec.ofNat 32 g, sextInt (g / 2 ^ 32) 8, none⟩
            (set p.1 { ctl with loading := ctl.loading.set (code % 2) ld }, true)))
  ∧ ∀ (pid tbl bank : Nat) (s : State),
    let ctl := (s.clu pid).curve.get tbl BankCtl.placed
    (ctl.loading.find bank = none → exec (.curveTableLoadFinish pid tbl bank) s = .next s)
    ∧ ∀ ld, ctl.loading.find bank = some ld →
      (cyclesSince (cluMHz s pid) ld.t0 s.now < 32 → exec (.curveTableLoadFinish pid tbl bank) s = .next s)
      ∧ (32 ≤ cyclesSince (cluMHz s pid) ld.t0 s.now → Goes (exec (.curveTableLoadFinish pid tbl bank) s) fun t =>
          OnlyClusters s t ∧ (∀ p, p ≠ pid → t.clu p = s.clu p)
          ∧ (∀ k, k ≠ (tbl, bank) → (t.clu pid).curves.get k CurveBank.zero = (s.clu pid).curves.get k CurveBank.zero)
          ∧ (let b := (t.clu pid).curves.get (tbl, bank) CurveBank.zero
             b.lo = ld.lo ∧ b.sh = ld.sh ∧ ∀ i, i < 256 → b.coef.get i (0, 0, 0) =
               (BitVec.ofNat 32 (leNat ((ld.data.drop (16 * i)).take 4)), BitVec.ofNat 32 (leNat ((ld.data.drop (16 * i + 4)).take 4)),
                 BitVec.ofNat 32 (leNat ((ld.data.drop (16 * i + 8)).take 4))))
          ∧ (t.clu pid).curve.get tbl BankCtl.placed = { ctl.finish (bank + 2 * ld.n) with loading := ctl.loading.erase bank })

/-- R231: one evaluation. With the exact u = (x − LO) × 2^SH: NaN gives NaN; below 0 the table starts, at 256 and
above it ends; within, cell ⌊u⌋ is evaluated at u − ⌊u⌋, each of two fused steps rounded once. -/
def Sys2Proof.Claims.CurveCells : Prop :=
  ∀ (b : CurveBank) (a : Nat), (∃ n m e, fF32.value b.lo.toNat = .fin n m e) →
    let F := fF32
    let co (i : Nat) : Word32 × Word32 × Word32 := b.coef.get i (0, 0, 0)
    let at1 (i t : Nat) : Nat :=
      let h := (roundTo F .rn false false (Val.add false (Val.mul (F.value t) (F.value (co i).2.2.toNat)).1 (F.value (co i).2.1.toNat)).1).1
      (roundTo F .rn false false (Val.add false (Val.mul (F.value t) (F.value h)).1 (F.value (co i).1.toNat)).1).1
    let r := (cteLane b a).1
    (F.value a = .nan → r = F.nan)
    ∧ (F.value a = .inf true → r = at1 0 0) ∧ (F.value a = .inf false → r = at1 255 0x3F80_0000)
    ∧ ∀ n m e, F.value a = .fin n m e → ∀ k u v, (Val.add false (F.value a) (F.value b.lo.toNat).neg).1 = .fin k u v →
        let v' := v + b.sh
        (k = true → u ≠ 0 → r = at1 0 0)
        ∧ (k = false ∨ u = 0 → 0 ≤ v' → 256 ≤ u * 2 ^ v'.toNat → r = at1 255 0x3F80_0000)
        ∧ (k = false ∨ u = 0 → 0 ≤ v' → u * 2 ^ v'.toNat < 256 → r = at1 (u * 2 ^ v'.toNat) 0)
        ∧ (k = false ∨ u = 0 → v' < 0 → 256 ≤ u / 2 ^ (-v').toNat → r = at1 255 0x3F80_0000)
        ∧ (k = false ∨ u = 0 → v' < 0 → u / 2 ^ (-v').toNat < 256 → r = at1 (u / 2 ^ (-v').toNat)
            (roundTo F .rn false false (.fin false (u % 2 ^ (-v').toNat) v')).1)

/-- R258: MCBT is refused where some group's EXMASK is not full; it waits for the target's last user and for the stream's
stores, pays once and starts the load of 1024 bytes. A load whose bytes a stash sector has still to bring reads them, all at
once, when it can; 8 cycles after it reads, it is done. -/
def Sys2Proof.Claims.Codebooks : Prop :=
  (∀ (x : LaneWord) (s : State),
    let code := s.lane.word.banks.get (laneMember s) 0
    let ctl := (s.clu s.lane.pid).code
    let off := lo64 s.lane.word.ua
    let set (u : State) (b : BankCtl) : State := u.setClu s.lane.pid { u.clu s.lane.pid with code := b }
    LaneOnce s (exec (.mcbt x) s) x (fun c =>
      if c.full = false then (refuseWord (set s (ctl.finish code)), true)
      else if ctl.used code = true ∨ (ctl.loading.find (code % 2)).isSome = true ∨ localBlocked s off 1024 = true then (s, false)
      else
        let p := payOnce s
        if p.2 = false then (p.1, false)
        else
          let r := localReady p.1 s.lane.tid.fid (laneMember s) off 1024
          let k := (r.1.clu s.lane.pid).code
          let ld : BankLoad := if r.2 = true then ⟨code / 2, r.1.now, r.1.localRead s.lane.tid.fid (laneMember s) off 1024, 0, 0, none⟩
            else ⟨code / 2, r.1.now, [], 0, 0, some (s.lane.tid, s.lane.str, s.lane.word.seq, off)⟩
          (set r.1 { k with loading := k.loading.set (code % 2) ld }, true)))
  ∧ ∀ (pid bank : Nat) (s : State),
    let ctl := (s.clu pid).code
    (ctl.loading.find bank = none → exec (.codebookLoadFinish pid bank) s = .next s)
    ∧ (∀ ld, ctl.loading.find bank = some ld → ld.src = none →
      (cyclesSince (cluMHz s pid) ld.t0 s.now < 8 → exec (.codebookLoadFinish pid bank) s = .next s)
      ∧ (8 ≤ cyclesSince (cluMHz s pid) ld.t0 s.now → Goes (exec (.codebookLoadFinish pid bank) s) fun t =>
          OnlyClusters s t ∧ (∀ p, p ≠ pid → t.clu p = s.clu p) ∧ (t.clu pid).codeTab.getD (bank % 2) [] = ld.data
          ∧ ((s.clu pid).codeTab.getD (1 - bank % 2) [] = (t.clu pid).codeTab.getD (1 - bank % 2) [])
          ∧ (t.clu pid).code = { ctl.finish (bank + 2 * ld.n) with loading := ctl.loading.erase bank }))
    ∧ ∀ ld u k q off, ctl.loading.find bank = some ld → ld.src = some (u, k, q, off) →
      let m := (s.flk u.fid).clus.idxOf pid
      let r := localReady s u.fid m off 1024
      exec (.codebookLoadFinish pid bank) s = .next (if r.2 = false then r.1 else
        r.1.setClu pid { r.1.clu pid with code := { (r.1.clu pid).code with
          loading := (r.1.clu pid).code.loading.set bank { ld with t0 := r.1.now, data := r.1.localRead u.fid m off 1024, src := none } } })

/-- R221 to R226: compares, predicates, SEL, LEXIT and NOP. -/
def Sys2Proof.Claims.LanePredicateWords : Prop :=
  Sys2Proof.Claims.PredicateWrites ∧ Sys2Proof.Claims.LanePredicates ∧ Sys2Proof.Claims.LaneExits

/-- R53, R434: the retired words. -/
def Sys2Proof.Claims.RetiredDivision : Prop := Sys2Proof.Claims.RetiredWords ∧ Sys2Proof.Claims.Quotients

/-- Predicate words, LEXIT, retired words and division.
The model's own readings in it: log 53. -/
def Obligations.LanePredicatesAndDivision : Prop :=
  Sys2Proof.Claims.LanePredicateWords ∧ Sys2Proof.Claims.RetiredDivision

/-- R229 to R232, R258, R483: curve tables and the codebook.
The model's own readings in it: logs 27, 133. -/
def Obligations.BankedTables : Prop :=
  Sys2Proof.Claims.OncePerCluster ∧ Sys2Proof.Claims.LoadsFinishInOrder ∧ Sys2Proof.Claims.CurveTables ∧ Sys2Proof.Claims.CurveCells ∧ Sys2Proof.Claims.Codebooks

/-! ## Cross-lane words -/

/-- R189: the pairwise tree over `2 ^ k` values, pairs at distance 1 first; `i` counts the subtrees of that size. -/
def Sys2Proof.Claims.pairTree {α : Type} (op : α → α → α) (x : Nat → α) : Nat → Nat → α
  | 0, i => x i
  | k + 1, i => op (pairTree op x k (2 * i)) (pairTree op x k (2 * i + 1))

/-- R189, R240: one step of a reduction on values of a type, with the events that the step raises. -/
def Sys2Proof.Claims.reduceStep (t op : Nat) (a b : Nat) : Nat × Ev :=
  let F := fmtOf t
  let w := tyWidth t
  let va := F.value a
  let vb := F.value b
  let sn : Ev := Ev.when (F.snan a || F.snan b) Ev.invalid
  let below := Val.lt va vb || (!Val.lt vb va && (va.sign || !vb.sign))
  let order (isMin : Bool) : Nat := if va.isNan && vb.isNan then F.nan else if va.isNan then b else if vb.isNan then a
    else if below == isMin then a else b
  if t < 8 then
    (if op = 0 then fit false (decide (4 ≤ t)) w (ival t a + ival t b)
     else if op = 1 then (if ival t a ≤ ival t b then a else b)
     else if op = 2 then (if ival t a < ival t b then b else a)
     else if op = 3 then a &&& b else if op = 4 then a ||| b else a ^^^ b, Ev.none)
  else if op = 0 then
    let v := Val.add false va vb
    let y := roundTo F .rn false false v.1
    (y.1, (y.2.or (Ev.when v.2 Ev.invalid)).or sn)
  else (order (op == 1), sn)

/-- R189: the identity of an operation on a type. -/
def Sys2Proof.Claims.neutral (t op : Nat) : Nat :=
  let w := tyWidth t
  if t < 8 then
    (if op = 1 then (if 4 ≤ t then 2 ^ (w - 1) - 1 else 2 ^ w - 1) else if op = 2 then (if 4 ≤ t then 2 ^ (w - 1) else 0)
     else if op = 3 then 2 ^ w - 1 else 0)
  else
    let F := fmtOf t
    if op = 0 then F.zero true else if op = 1 then F.infBits false else F.infBits true

/-- R233 to R242: the words that move and combine lane values. Contributors are lanes of the member mask that have not
exited, active or not; each receiver takes what its own sub-group gives it, and one outside the member mask its own A. -/
def Sys2Proof.Claims.CrossLaneMoves : Prop :=
  ∀ (x : LaneWord) (s : State), x.sg ≤ 4 →
    let t := x.ty4
    let n := tySpan t
    let size := 2 ^ (x.sg + 1)
    let A (l : Nat) : Nat := (srcA s x n).getD l 0
    let U (l : Nat) : Nat := (srcB s x 1).getD l 0
    let pred (l : Nat) : Bool := (predMask s x.aN).testBit l
    let mem (l : Nat) : Bool := decide (x.cN = 0) || (lo64 s.lane.word.uc).testBit l
    let con (l : Nat) : Bool := mem l && !(laneGrp s).exit.testBit l
    let base (l : Nat) : Nat := l - l % size
    let from1 (l k : Nat) : Nat := if mem l && con k then A k else A l
    let X (l i : Nat) : Nat × Ev := (if con (base l + i) then A (base l + i) % 2 ^ tyWidth t else neutral t x.mode, Ev.none)
    let op (a b : Nat × Ev) : Nat × Ev :=
      let r := reduceStep t x.mode a.1 b.1
      (r.1, (a.2.or b.2).or r.2)
    let own (l : Nat) : Nat × Ev := (A l % 2 ^ tyWidth t, Ev.none)
    let all (l : Nat) : Nat × Ev := if mem l then pairTree op (X l) (x.sg + 1) 0 else own l
    let upTo (l : Nat) : Nat × Ev :=
      if mem l then (List.range (l % size)).foldl (fun y i => op y (X l (i + 1))) (X l 0) else own l
    let ilat := if n = 2 then 8 else 6
    (t = 2 ∨ t = 3 → x.mode < 4 → LaneWrites s (exec (.shfl x) s) x (if n = 2 then 5 else 4) n fun l =>
      let i := l % size
      from1 l (base l + (if x.mode = 0 then U l % size else if x.mode = 1 then (((i : Int) - U l) % size).toNat
        else if x.mode = 2 then (i + U l) % size else (i ^^^ U l) % size)))
    ∧ (t = 2 ∨ t = 3 → LaneWrites s (exec (.bcast x) s) x (if n = 2 then 5 else 4) n fun l =>
      if x.mode = 0 then from1 l (base l + lo64 s.lane.word.ub % 2 ^ 32 % size)
      else match (List.range size).find? fun i => con (base l + i) with
        | some i => from1 l (base l + i)
        | none => A l)
    ∧ LaneWrites s (exec (.ballot x) s) x 3 1 (fun l =>
        if mem l then ((List.range size).map fun i => if con (base l + i) && pred (base l + i) then 2 ^ i else 0).sum
        else if pred l then 1 else 0)
    ∧ (t = 2 ∨ t = 3 ∨ t = 6 ∨ t = 7 → x.mode < 6 →
        LaneWrites s (exec (.reduce x) s) x ilat n (fun l => (all l).1) ∧ LaneWrites s (exec (.scan x) s) x ilat n (fun l => (upTo l).1))
    ∧ (t = 8 ∨ t = 9 ∨ t = 10 → x.mode < 3 →
        LanePriced s (exec (.reduce x) s) x 1 10 1 all ∧ LanePriced s (exec (.scan x) s) x 1 14 1 upTo)

/-- R242, R246, R356: VOTE adds the counted lanes of its group to the entry of its stream and sequence number, and UNI
the values of its active lanes to its register; each marks the group as having issued. In a replay both only issue. -/
def Sys2Proof.Claims.VotesAndAgreement : Prop :=
  ∀ (x : LaneWord) (s : State),
    let act := activeMask s x
    let mine := (laneMember s, s.lane.slot)
    let thr : Thread := s.thr s.lane.tid
    let pred (l : Nat) : Bool := (predMask s x.aN).testBit l
    let counted (l : Nat) : Bool := act.testBit l && (decide (x.cN = 0) || (lo64 s.lane.word.uc).testBit l)
    (s.lane.replay = true → exec (.vote x) s = .next (issued s x act true) ∧ exec (.uni x) s = .next (issued s x act true))
    ∧ (s.lane.replay = false →
      (∃ vs : List VoteEnt, exec (.vote x) s = .next (issued (s.setThr s.lane.tid { thr with votes := vs }) x act true)
        ∧ vs.length = thr.votes.length
        ∧ ∀ (k : Nat) (v : VoteEnt), thr.votes[k]? = some v → vs[k]? = some (if v.str = s.lane.str ∧ v.seq = s.lane.word.seq then
            { v with ones := v.ones + ((List.range 32).filter fun l => counted l && pred l).length
                     zeros := v.zeros + ((List.range 32).filter fun l => counted l && !pred l).length
                     need := v.need.filter fun q => !decide (q = mine) } else v))
      ∧ ∃ os : List OutReg, exec (.uni x) s = .next (issued (s.setThr s.lane.tid { thr with out := os }) x act true)
        ∧ os.length = thr.out.length
        ∧ ∀ (k : Nat) (o : OutReg), thr.out[k]? = some o → ∃ o' : OutReg, os[k]? = some o' ∧ o'.reg = o.reg
          ∧ ((∀ w all need seen, o.pend = .uni s.lane.str s.lane.word.seq w all need seen → o.reg = x.dN - 192 →
                o'.pend = .uni s.lane.str s.lane.word.seq w all (need.filter fun q => !decide (q = mine))
                  (seen ++ ((List.range 32).filter fun l => act.testBit l).map fun l =>
                    (mine.1, mine.2, l, (srcA s x (tySpan x.ty4)).getD l 0)))
            ∧ ((∀ w all need seen, o.pend ≠ .uni s.lane.str s.lane.word.seq w all need seen) ∨ o.reg ≠ x.dN - 192 → o' = o)))

/-- R244: a lane position holds the state that another one had. -/
def Sys2Proof.Claims.HoldsLane (s t : State) (fid m : Nat) (p q : Nat × Nat) : Prop :=
  let g := t.grp fid m p.1
  let h := s.grp fid m q.1
  (∀ r, g.laneOf r p.2 = h.laneOf r q.2) ∧ (∀ k, (g.p.get k 0).testBit p.2 = (h.p.get k 0).testBit q.2)
    ∧ g.ex.testBit p.2 = h.ex.testBit q.2 ∧ g.exit.testBit p.2 = h.exit.testBit q.2

/-- R244, R245: a malformed set of targets makes no move. A well-formed one moves the state of each active lane to its
target, and the displaced lanes, in ascending order, to the vacated positions; every other position keeps its own. -/
def Sys2Proof.Claims.RegroupMoves : Prop :=
  ∀ (s : State) (fid m : Nat) (slots : List Nat) (src : List ((Nat × Nat) × Nat)),
    slots.Nodup → slots.length ≤ 16 → (src.map (·.1)).Nodup → (∀ e ∈ src, e.1.2 < 32) →
    let at1 (a : Nat) : Nat × Nat := (slots.getD (a / 256 % 16) 0, a % 32)
    let S := src.map (·.1)
    let T := src.map fun e => at1 e.2
    let bit (f : Group → Nat) (p : Nat × Nat) : Bool := (f (s.grp fid m p.1)).testBit p.2
    let well : Prop := (∀ e ∈ src, e.2 < 4096 ∧ e.2 / 32 % 8 = 0 ∧ e.2 / 256 < slots.length) ∧ T.Nodup
      ∧ (∀ p ∈ T, p ∉ S → bit Group.exit p = true) ∧ ∀ p ∈ S ++ T, bit Group.park p = false
    let less (p q : Nat × Nat) : Prop := p.1 < q.1 ∨ (p.1 = q.1 ∧ p.2 < q.2)
    (¬well → regroupMoves s fid m slots src = none)
    ∧ (well → ∃ mv, regroupMoves s fid m slots src = some mv
        ∧ let t := moveLanes s fid m mv
          t = { s with groups := t.groups, flocks := t.flocks }
          ∧ (∀ e ∈ src, HoldsLane s t fid m (at1 e.2) e.1)
          ∧ (∀ X Y : List (Nat × Nat), X.Pairwise less → Y.Pairwise less →
              (∀ p, p ∈ X ↔ p ∈ T ∧ p ∉ S) → (∀ p, p ∈ Y ↔ p ∈ S ∧ p ∉ T) →
              X.length = Y.length ∧ ∀ n, n < X.length → HoldsLane s t fid m (Y.getD n (0, 0)) (X.getD n (0, 0)))
          ∧ (∀ p : Nat × Nat, p.2 < 32 → p ∉ S → p ∉ T → HoldsLane s t fid m p p)
          ∧ ∀ f k j, (f, k) ≠ (fid, m) → t.grp f k j = s.grp f k j)

/-- R245, R483: REGROUP. Every group is held while an earlier run of the bound slots, a fixed-latency write or a result for
one of its active lanes is awaited. Groups before the last then leave their active lanes and targets; at the last the word
is held while lanes of S or T are awaited, then the moves of the cluster are made, or, where they are malformed, REGROUP is
raised; the MASK.WRs behind the word take effect after the moves. -/
def Sys2Proof.Claims.RegroupIssue : Prop :=
  ∀ (x : LaneWord) (s : State), s.lane.replay = false →
    let act := activeMask s x
    let fid := s.lane.tid.fid
    let m := laneMember s
    let d := cissueNext s act
    let c := { d with inputs := d.inputs ++ (srcA s x 1).flatMap fun v => leBytes 4 v }
    let slots := setBits 16 (strOf s s.lane.tid s.lane.str).gmask
    let src := (List.range c.masks.length).flatMap fun k =>
      let e := c.masks.getD k (0, 0)
      (setBits 32 e.2).map fun l => ((e.1, l), leNat ((c.inputs.drop (128 * k + 4 * l)).take 4))
    let T := src.filterMap fun e =>
      if e.2 < 4096 ∧ e.2 / 32 % 8 = 0 ∧ e.2 / 256 < slots.length then some (slots.getD (e.2 / 256) 0, e.2 % 32) else none
    let own := (setBits 32 act).map fun l => (s.lane.slot, l)
    (regroupReady s slots own = false → exec (.regroup x) s = holdWord s)
    ∧ (regroupReady s slots own = true → c.done = false → exec (.regroup x) s = .next (issued (setCissue s c) x act false))
    ∧ (c.done = true → c.masks.length ≤ 16 → regroupReady s slots (src.map (·.1) ++ T) = false → exec (.regroup x) s = holdWord s)
    ∧ (regroupReady s slots own = true → c.done = true → c.masks.length ≤ 16 → regroupReady s slots (src.map (·.1) ++ T) = true →
        (∀ mv, regroupMoves s fid m slots src = some mv →
          exec (.regroup x) s = .next (issued (masksAfter (dropCissue (moveLanes s fid m mv)) fid m slots) x act true))
        ∧ (regroupMoves s fid m slots src = none →
          exec (.regroup x) s = .next (issued (masksAfter (dropCissue (raiseOnce s .regroup)) fid m slots) x act true)))

/-- R189, R233 to R246, R356: the cross-lane words. -/
def Sys2Proof.Claims.CrossLaneWords : Prop := Sys2Proof.Claims.CrossLaneMoves ∧ Sys2Proof.Claims.VotesAndAgreement
/-- R244, R245: REGROUP. -/
def Sys2Proof.Claims.Regroup : Prop := Sys2Proof.Claims.RegroupMoves ∧ Sys2Proof.Claims.RegroupIssue

/-! ## Lane memory words -/

/-- Words across lanes, votes of lanes, UNI and REGROUP. -/
def Obligations.CrossLaneAndRegroup : Prop :=
  Sys2Proof.Claims.CrossLaneWords ∧ Sys2Proof.Claims.Regroup

/-- R144, R146 to R151, R290 to R292, R310, R311, R424, R428: a lane memory word on its group, outside a replay, at a scope
(that of a LOCAL access of LD, ST, LDT or LDB has no effect, R144). It is held by the order rules of its stream (once the
acquires of earlier words whose reads have returned are made) and by a busy accumulator tile, and where it cannot be paid
for. Else it issues: each active lane's access, lowest lane first, is cut and translated, joins the machine's accesses piece by piece, and its
destination waits; the lanes whose access faults park; an acquiring word's acquire is to be made, whichever of its lanes are
active. That memory words wait for an LFENCE or a stash word that their group has issued and the cluster has not made is the
model's inference (log 28). -/
def Sys2Proof.Claims.LaneMemory (s : State) (o : Out) (x : LaneWord) (acc : Acc) (n al scope : Nat) (single : Bool)
    (off : Nat → Int) (deed : Nat → Deed) (dest : Nat → Nat → Dest) (span : Nat) (all : Bool) : Prop :=
  let act := activeMask s x
  let lanes := (List.range 32).filter fun l => act.testBit l
  let users := if single then lanes.take 1 else lanes
  let z := settleAcqs s
  let held : Prop := orderHeld z = true ∨ (2 ≤ x.order ∧ releaseLane z scope = false)
    ∨ tileHeld z x act n ((List.range 32).map off) = true
  let p := payLane z 2 act
  s.lane.replay = false → (laneGrp s).ex < 2 ^ 32 →
  (held → o = holdWord z) ∧ (¬held → p.2 = false → o = holdWord p.1)
  ∧ (¬held → p.2 = true → ∀ (u : Nat → State) (r : Nat → Except Cause (List (Nat × Nat × Place))), u 0 = p.1 →
      (∀ k, k < users.length → lanePieces (u k) x acc (off (users.getD k 0)) n al = (u (k + 1), r k)) →
      let w := u users.length
      let good := (List.range users.length).flatMap fun k => match r k with
        | .ok ps => ps.map fun q => (users.getD k 0, q)
        | .error _ => []
      let served := (List.range users.length).any fun k => match r k with
        | .ok _ => true
        | .error _ => false
      let bad := (List.range users.length).flatMap fun k => match r k with
        | .ok _ => []
        | .error c => (if single then lanes else [users.getD k 0]).map fun l => (l, c, laneAddr s (off (users.getD k 0)))
      let badMask := (bad.map fun b => 2 ^ b.1).sum
      let waits := if served then (if all then act else act - badMask) else 0
      let acq := decide (x.order = 1 ∨ x.order = 3)
      ∃ v : State, o = .next (issued (parkLanes v s.lane.word (((laneRun s).map (·.pos)).getD 0) (act - badMask) bad) x act true)
        ∧ (∃ before L : List MemOp, v.ops = before ++ L ∧ SameOps w { w with ops := before } ∧ L.length = good.length
          ∧ v.nextId = w.nextId + good.length
          ∧ ∀ j m q, L[j]? = some m → good[j]? = some q →
              m.id = w.nextId + j ∧ m.tid = s.lane.tid ∧ m.pid = s.lane.pid ∧ m.str = some s.lane.str ∧ m.seq = s.lane.word.seq
              ∧ m.slot = s.lane.slot ∧ m.lane = q.1 ∧ m.place = q.2.2.2 ∧ m.n = q.2.2.1 ∧ m.deed = deed q.1
              ∧ m.dest = dest q.1 q.2.1 ∧ m.pri = x.pri ∧ m.na = x.na ∧ m.scope = scope
              ∧ m.acq = acq ∧ m.made = none)
        ∧ v.threads = (if acq then noteAcq w scope else w).threads ∧ v.flocks = w.flocks
        ∧ (∀ f m k, (f, m, k) ≠ (s.lane.tid.fid, laneMember s, s.lane.slot) → v.grp f m k = w.grp f m k)
        ∧ ∃ named, laneGrp v = { laneGrp w with out := (laneGrp w).out ++
            (if span = 0 ∨ waits = 0 then [] else [⟨x.dN, span, waits, s.lane.tid, s.lane.str, s.lane.word.seq, named⟩]) })

/-- R144 to R151, R288 to R292: LD, ST, LDT, LDB, ATOM and RED. -/
def Sys2Proof.Claims.LaneAccesses : Prop :=
  ∀ (x : LaneWord) (s : State), x.width ≤ 6 → x.order < 4 →
    let n : Nat := [1, 1, 2, 2, 4, 8, 16].getD x.width 16
    let span : Nat := [1, 1, 1, 1, 1, 2, 4].getD x.width 4
    let aspan := if x.atomOp = 10 then 2 * span else span
    let B (l : Nat) : Int := ival 6 ((srcB s x 1).getD l 0 % 2 ^ 32)
    let D (k l : Nat) : Nat := (srcD s x k).getD l 0
    let scaled (l : Nat) : Int := B l * (if x.scale = true then (n : Int) else 1)
    let slot := s.lane.slot
    let act := activeMask s x
    let sc := if x.space = 1 then 0 else x.scope
    let one (l _d : Nat) : Dest := .lane slot l x.dN x.width
    let atomic (gathers : Bool) (l : Nat) : Deed :=
      if x.atomOp = 10 then .atomic x.atomOp (D aspan l / 2 ^ (8 * n)) (D aspan l % 2 ^ (8 * n)) gathers
      else .atomic x.atomOp (D aspan l % 2 ^ (8 * n)) 0 gathers
    LaneMemory s (exec (.ld x) s) x .load n n sc false scaled (fun _ => .load) one span false
    ∧ LaneMemory s (exec (.st x) s) x .store n n sc false scaled (fun l => .store (D span l % 2 ^ (8 * n))) (fun _ _ => .none) 0 false
    ∧ LaneMemory s (exec (.ldt x) s) x .load (32 * n) n sc false scaled (fun _ => .load)
        (fun l d => .tile slot act x.dN n l d) (8 * n) true
    ∧ LaneMemory s (exec (.ldb x) s) x .load n n sc true (fun _ => 0) (fun _ => .load) (fun _ _ => .bcast slot act x.dN x.width) span false
    ∧ LaneMemory s (exec (.atom x) s) x .atomic n n x.scope false B (atomic false) one aspan false
    ∧ LaneMemory s (exec (.red x) s) x .atomic n n x.scope false B (atomic (decide (x.space = 0))) (fun _ _ => .none) 0 false

/-- R146, R147, R293: one lane's access. A GLOBAL one is at gA + offset modulo 2^64; a LOCAL one at the offset in the
SRAM of the member that gA names, whose accumulator window only the own lanes' loads and stores reach. A GLOBAL access that
a stash entry maps needs what the fill of its sector needs, too. A misaligned
access faults ALIGN, one outside the SRAM LOCALRANGE, one whose translation fails with its cause; pieces cover the
access in order, each in one sector. -/
def Sys2Proof.Claims.LaneAddresses : Prop :=
  ∀ (s : State) (x : LaneWord) (acc : Acc) (off : Int) (n al : Nat), 0 < n → 0 < al →
    let fid := s.lane.tid.fid
    let a := s.lane.word.ua.toNat % 2 ^ 64
    let va := ((a + off) % 2 ^ 64).toNat
    let o : Int := (a % 2 ^ 25 : Nat) + off
    let m := if a.testBit 63 then laneMember s else a / 2 ^ 56 % 16
    let top : Int := if m ≠ laneMember s ∨ acc = .atomic then s.accBase fid else s.declared fid
    let r := lanePieces s x acc off n al
    (x.space = 0 →
      (va % al ≠ 0 → r = (s, .error .align))
      ∧ (va % al = 0 → va % 32 + n ≤ 32 →
          let tr := translate s s.lane.pid (s.flk fid).ctx va (globalAcc s s.lane.pid va acc)
          (∀ c, tr.2 = .error c → r = (tr.1, .error c)) ∧ ∀ pa, tr.2 = .ok pa → r = (tr.1, .ok [(0, n, .glob va pa)])))
    ∧ (x.space = 1 →
      (o % al ≠ 0 → r = (s, .error .align))
      ∧ (o % al = 0 → o < 0 ∨ top < o + n → r = (s, .error .localrange))
      ∧ (o % al = 0 → 0 ≤ o → o + n ≤ top → o % 32 + n ≤ 32 → stashOff s fid m o.toNat = none →
          r = (s, .ok [(0, n, .loc m o.toNat 0 0 false)])))
    ∧ ∀ ps, r.2 = .ok ps → (ps.map fun q => q.2.1).sum = n
        ∧ ∀ k q, ps[k]? = some q → q.1 = ((ps.take k).map fun q => q.2.1).sum
          ∧ ((if x.space = 1 then o.toNat else va) + q.1) % 32 + q.2.1 ≤ 32

/-- R424, R428: the lanes of a word that fault, outside a replay, move from EXMASK to PARKMASK; the slot has a park
record, the stream knows of the parked run, and no thread is trapped yet. -/
def Sys2Proof.Claims.LaneParking : Prop :=
  ∀ (s : State) (w : EWord) (pos done : Nat) (faults : List (Nat × Cause × Nat)),
    s.lane.replay = false → faults ≠ [] → (∀ f ∈ faults, f.1 < 32) → (laneGrp s).ex < 2 ^ 32 →
    let t := parkLanes s w pos done faults
    let hit (l : Nat) : Prop := ∃ f ∈ faults, f.1 = l
    (∀ l, ((laneGrp t).ex.testBit l = true ↔ (laneGrp s).ex.testBit l = true ∧ ¬hit l)
      ∧ ((laneGrp t).park.testBit l = true ↔ (laneGrp s).park.testBit l = true ∨ hit l))
    ∧ laneGrp t = { laneGrp s with ex := (laneGrp t).ex, park := (laneGrp t).park, prec := (laneGrp t).prec }
    ∧ (laneGrp t).prec.isSome = true
    ∧ (∀ f m k, (f, m, k) ≠ (s.lane.tid.fid, laneMember s, s.lane.slot) → t.grp f m k = s.grp f m k)
    ∧ (∀ u, t.thr u = { s.thr u with streams := (t.thr u).streams })
    ∧ ∃ va after, (((laneRun s).map (·.run.idx)).getD 0, va, after) ∈ (strOf t s.lane.tid s.lane.str).parked

/-- R309, R310: LFENCE, once per cluster. A release waits until the stream's earlier words have issued there, those of an
earlier binding among them, its writes are performed and their horizon is past; an acquire for its reads, and it then drops the L1 sectors that were granted
before their completion where its scope is wider than the cluster; lanes that LARRs have brought behind it arrive then
(log 126). The words of an earlier binding are covered as log 23 has it, the model's inference. -/
def Sys2Proof.Claims.LaneFences : Prop :=
  ∀ (x : LaneWord) (s : State), x.order < 4 →
    let rel : Prop := x.order = 2 ∨ x.order = 3
    let acq : Prop := x.order = 1 ∨ x.order = 3
    let horOf (n : Nat) : Horizon := (strOf s s.lane.tid n).hor.get (laneMember s) Horizon.zero
    let last (f : Horizon → Nat) : Nat := max (f (horOf s.lane.str)) (f (horOf (s.lane.str + 4)))
    let earlier (o : MemOp) : Prop := o ∈ s.ops ∧ o.tid = s.lane.tid ∧ o.pid = s.lane.pid
      ∧ (∃ n, o.str = some n ∧ n % 4 = s.lane.str % 4) ∧ (o.str ≠ some s.lane.str ∨ o.seq < s.lane.word.seq)
    (releaseLane s x.scope = true ↔ memIssuedBelow s = true ∧ (∀ o, earlier o → o.deed.writes = false)
      ∧ (let h := last fun t => if x.scope ≤ 1 then t.cl else if x.scope ≤ 3 then t.die else t.pkg
         h = 0 ∨ h < s.now / 1000))
    ∧ (acquireLane s = true ↔ memIssuedBelow s = true ∧ ∀ o, earlier o → readOwed o = false)
    ∧ ∃ f : CIssue → State × Bool, LaneOnce s (exec (.lfence x) s) x f ∧ ∀ c,
      ((rel ∧ releaseLane s x.scope = false) ∨ (acq ∧ acquireLane s = false) → f c = (s, false))
      ∧ ((rel → releaseLane s x.scope = true) → (acq → acquireLane s = true) → (f c).2 = true
        ∧ (¬acq ∨ x.scope < 2 → (f c).1 = arriveOwed s)
        ∧ (acq → 2 ≤ x.scope → (f c).1 = arriveOwed (s.setClu s.lane.pid { s.clu s.lane.pid with
            l1 := (s.clu s.lane.pid).l1.map fun l => { l with
              sectors := l.sectors.filter fun e => (e.2.pending && !e.2.granted) || decide (last (·.acq) ≤ e.2.grant) } })))
    ∧ (let st := strOf s s.lane.tid s.lane.str
       (st.owedArr = [] → arriveOwed s = s)
       ∧ ∀ sl q h act, st.owedArr = [(laneMember s, sl, q, h, act)] → (∃ k, handleCheck s s.lane.tid.fid h (fun _ => true) = .ok k) →
          (fenceOpen s sl q = true → arriveOwed s = s)
          ∧ (fenceOpen s sl q = false → (strOf (arriveOwed s) s.lane.tid s.lane.str).owedArr = []
              ∧ (arriveOwed s).flocks = (addLanes s s.lane.tid h (laneMember s) sl act).flocks))

/-- R161 to R163: the stash words outside a replay, once per cluster, where a bound group has an active lane; each waits for
the stream's earlier accesses there (once the acquires of earlier words whose reads have returned are made) and pays 8 tokens.
STASH.MAP adds its entry, of UNFILLED sectors, and removes those it overlaps, or raises STASHFULL above 64. STASH.FLUSH leaves
no DIRTY sector in its range, STASH.DROP none that is not UNFILLED. The touched bytes of a dirty sector go to memory where
its page may be written (R79), stated here for a cluster with one such sector. -/
def Sys2Proof.Claims.StashWords : Prop :=
  ∀ (x : LaneWord) (s : State),
    let pid := s.lane.pid
    let va := s.lane.word.ua.toNat % 2 ^ 64
    let off := s.lane.word.ub.toNat % 2 ^ 64
    let len := s.lane.word.uc.toNat % 2 ^ 64
    let fid := s.lane.tid.fid
    let m := laneMember s
    let z := settleAcqs s
    let wait : Prop := (∃ o ∈ s.ops, o.tid = s.lane.tid ∧ (∃ n, o.str = some n ∧ n % 4 = s.lane.str % 4) ∧ o.pid = pid ∧ o.made = none)
      ∨ orderHeld z = true
    let acts (i : Instr) (done : State → State → Prop) : Prop :=
      ∃ f : CIssue → State × Bool, LaneOnce s (exec i s) x f ∧ ∀ c,
        (c.active = false → f c = (z, true)) ∧ (c.active = true → wait → f c = (z, false))
        ∧ (c.active = true → ¬wait → (payOnce z).2 = false → f c = ((payOnce z).1, false))
        ∧ (c.active = true → ¬wait → (payOnce z).2 = true → ∃ t, f c = (t, true) ∧ done (payOnce z).1 t)
    let name (e : StashEnt) : Nat × Nat × Nat × Nat × Nat := (e.fid, e.clu, e.va, e.len, e.off)
    let one (u r : State) (e : StashEnt) (k pa ot t0 : Nat) : Prop := (u.clu pid).stash = [e] ∧ e.sectors = [(k, .dirty pa ot t0)]
      ∧ backCheck u pid (u.flk e.fid).ctx (e.va + 32 * k) = (r, none) ∧ (r.clu pid).stash = [e] ∧ r.mem.wf = true
    let written (r t : State) (e : StashEnt) (k pa t0 : Nat) : Prop :=
      ∀ a, t.mem.read a = if pa ≤ a ∧ a < pa + 32 ∧ t0.testBit (a - pa) = true
        then (r.localRead e.fid e.clu (e.off + 32 * k) 32).getD (a - pa) 0 else r.mem.read a
    let fresh : StashEnt := ⟨fid, m, va, len, off, []⟩
    let hits (e : StashEnt) : Bool := decide (e.va < va + len ∧ va < e.va + e.len)
      || decide (e.fid = fid ∧ e.clu = m ∧ e.off < off + len ∧ off < e.off + e.len)
    let inRange (e : StashEnt) (k : Nat) : Prop := va ≤ e.va + 32 * k ∧ e.va + 32 * k < va + len
    acts (.stashMap x) (fun u t =>
        let es := (u.clu pid).stash
        let left := es.filter fun e => !hits e
        (64 ≤ left.length → t = raiseOnce u .stashfull)
        ∧ (left.length < 64 → (t.clu pid).stash.map name = left.map name ++ [name fresh] ∧ fresh ∈ (t.clu pid).stash
          ∧ (left = es → t = u.setClu pid { u.clu pid with stash := es ++ [fresh] }))
        ∧ (∀ r e k pa ot t0, one u r e k pa ot t0 → hits e = true → (t.clu pid).stash = [fresh] ∧ written r t e k pa t0))
    ∧ acts (.stashFlush x) (fun u t =>
        (((u.clu pid).stash.map (·.va)).Nodup → (t.clu pid).stash.map name = (u.clu pid).stash.map name
          ∧ ∀ e ∈ (t.clu pid).stash, ∀ k pa ot t0, inRange e k → e.st k ≠ .dirty pa ot t0)
        ∧ ∀ r e k pa ot t0, one u r e k pa ot t0 →
          (inRange e k → (t.clu pid).stash = [{ e with sectors := [(k, .clean pa ot)] }] ∧ written r t e k pa t0)
          ∧ (¬inRange e k → t = u))
    ∧ acts (.stashDrop x) (fun u t =>
        (((u.clu pid).stash.map (·.va)).Nodup → (t.clu pid).stash.map name = (u.clu pid).stash.map name
          ∧ ∀ e ∈ (t.clu pid).stash, ∀ k, inRange e k → e.st k = .unfilled)
        ∧ ∀ r e k pa ot t0, one u r e k pa ot t0 →
          (inRange e k → (∃ e', (t.clu pid).stash = [e'] ∧ e'.st k = .unfilled) ∧ written r t e k pa t0
            ∧ (t.homeOf pa).owners.find (pa / 32 % 8) = none)
          ∧ (¬inRange e k → t = u))

/-- R144 to R151, R288 to R293, R309, R310, R424: the lane memory words. -/
def Sys2Proof.Claims.LaneMemoryWords : Prop :=
  Sys2Proof.Claims.LaneAccesses ∧ Sys2Proof.Claims.LaneAddresses ∧ Sys2Proof.Claims.LaneParking
/-- R161 to R163, R309, R310: LFENCE and the stash words. -/
def Sys2Proof.Claims.LaneFencesAndStash : Prop := Sys2Proof.Claims.LaneFences ∧ Sys2Proof.Claims.StashWords

/-! ## The copy engine -/

/-- Lane memory words, parking, lane fences and stash words.
The model's own readings in it: logs 23, 126. -/
def Obligations.LaneMemoryAndStash : Prop :=
  Sys2Proof.Claims.LaneMemoryWords ∧ Sys2Proof.Claims.LaneFencesAndStash

/-- R119, R120, R123, R136, R347: a copy word, once per cluster. It is refused where some group's EXMASK was not full,
and held while one of its queues has 32 entries; else one entry of it ends the queue it names, or, for QFENCE, each
queue of its mask. -/
def Sys2Proof.Claims.CopyWords : Prop :=
  ∀ (x : LaneWord) (s : State),
    let pid := s.lane.pid
    let depth (q : Nat) : Nat := (copyQ s pid q).ents.length
    let enters (i : Instr) (named : Nat → Prop) : Prop :=
      ∃ f : CIssue → State × Bool, LaneOnce s (exec i s) x f ∧ ∀ c : CIssue,
        (c.full = false → f c = (refuseWord s, true))
        ∧ (c.full = true → (∃ q, named q ∧ 32 ≤ depth q) → f c = (s, false))
        ∧ (c.full = true → (∀ q, named q → depth q < 32) → ∃ t, f c = (t, true)
            ∧ t = { s with clusters := t.clusters, nextId := s.nextId + 1 } ∧ (∀ p, p ≠ pid → t.clu p = s.clu p)
            ∧ t.clu pid = { s.clu pid with cq := (t.clu pid).cq }
            ∧ ∃ e : CopyEnt, e.id = s.nextId ∧ e.tid = s.lane.tid ∧ e.str = s.lane.str ∧ e.word = s.lane.word ∧ e.done = 0
              ∧ e.chunks = [] ∧ e.fault = none ∧ e.told = false ∧ e.list = []
              ∧ ∀ q, (copyQ t pid q).halted = (copyQ s pid q).halted
                ∧ (named q → (copyQ t pid q).ents = (copyQ s pid q).ents ++ [e])
                ∧ (¬named q → (copyQ t pid q).ents = (copyQ s pid q).ents))
    (∀ i ∈ ([.cp x, .cp2d x, .cpt x, .cpg x, .cpset x] : List Instr), enters i fun q => q = x.m / 256)
    ∧ enters (.qfence x) fun q => q < 4 ∧ x.cN.testBit q = true

/-- R131 to R135: the destination stream. Each of its bytes has the destination and the source address that the copy
word's rule gives it, and a chunk is cut into stretches that follow one another and stay within one sector on each
side. -/
def Sys2Proof.Claims.CopyStreams : Prop :=
  ∀ e : CopyEnt,
    let a : Nat := e.word.ua.toNat % 2 ^ 64
    let b : Nat := e.word.ub.toNat % 2 ^ 64
    let c : Nat := e.word.uc.toNat % 2 ^ 64
    let sgn (v : Nat) : Int := if 2 ^ 63 ≤ v then (v : Int) - 2 ^ 64 else v
    let sa := sgn (e.word.ua.toNat / 2 ^ 64 % 2 ^ 64)
    let sb := sgn (e.word.ub.toNat / 2 ^ 64 % 2 ^ 64)
    let rows := c / 2 ^ 32 % 2 ^ 16
    let len := c % 2 ^ 32
    let cols := c % 2 ^ 16
    let el := 2 ^ e.word.x.ty6
    let byte (p : Nat) (d r : Int) : Prop := ((e.place p).1 : Int) = d % 2 ^ 64 ∧ ((e.place p).2.1 : Int) = r % 2 ^ 64
    (e.word.op = 0x300 → e.total = c ∧ ∀ k : Nat, byte k (a + k) (b + k))
    ∧ (e.word.op = 0x301 → e.total = rows * len ∧ ∀ i k : Nat, k < len → byte (i * len + k) (a + i * sa + k) (b + i * sb + k))
    ∧ (e.word.op = 0x302 → e.total = rows * cols * el ∧ ∀ j i r : Nat, i < rows → r < el →
        byte ((j * rows + i) * el + r) (a + j * sa + i * el + r) (b + i * sb + j * el + r))
    ∧ (e.word.op = 0x303 → e.total = (e.list.map fun l => l.2.2).sum
        ∧ ∀ (k src n : Nat) (i r : Nat), e.list[k]? = some (i, src, n) → r < n →
          let q := ((e.list.take k).map fun l => l.2.2).sum
          byte (q + r) (a + q + r) (src + r))
    ∧ (e.word.op = 0x304 → e.total = c ∧ (∀ k : Nat, ((e.place k).1 : Int) = ((a : Int) + k) % 2 ^ 64)
        ∧ ∀ p n i : Nat, i < n → (pattern e p n).getD i 0 = BitVec.ofNat 8 (b / 256 ^ ((p + i) % el)))
    ∧ ∀ n : Nat, let gs := e.chunkSegs n
        4096 * n < e.total → (gs.map fun g => g.n).sum = min 4096 (e.total - 4096 * n)
          ∧ ∀ (k : Nat) (g : Seg), gs[k]? = some g → g.pos = 4096 * n + ((gs.take k).map fun g => g.n).sum ∧ 0 < g.n
            ∧ g.dst = (e.place g.pos).1 ∧ g.src = (e.place g.pos).2.1 ∧ g.dst % 32 + g.n ≤ 32 ∧ g.src % 32 + g.n ≤ 32
            ∧ ∀ i, i < g.n → (e.place (g.pos + i)).1 = (g.dst + i) % 2 ^ 64

/-- R122, R125, R137, R141, R159: where an address of a space lies, what is read there and what a write changes. A page
that the chunk has translated for such an access keeps its translation, and, once the chunk has started, for any (R87). -/
def Sys2Proof.Claims.CopyPlaces : Prop :=
  ∀ (s : State) (pages : List ChunkPage) (fin : Bool) (t : Tid) (pid a : Nat) (acc : Acc), a < 2 ^ 64 →
    let fid := t.fid
    let m := if a.testBit 63 then (s.flk fid).clus.idxOf pid else a / 2 ^ 56 % 16
    let off := a % 2 ^ 25
    let acc' := globalAcc s pid a acc
    let page (pa : Nat) : List ChunkPage := [⟨a / 65536, acc', pa / 65536⟩]
    (stashVa s pid a = none → acc' = acc)
    ∧ (resolve s pages fin t pid 2 a acc = (s, .ok (.plane ((s.flk fid).clus.getD m 0) off, [])))
    ∧ (stashOff s fid m off = none → resolve s pages fin t pid 1 a acc = (s, .ok (.sram m off, [])))
    ∧ ((∀ p ∈ pages, p.va ≠ a / 65536) →
        let r := translate s pid (s.flk fid).ctx a acc'
        (∀ c, r.2 = .error c → resolve s pages fin t pid 0 a acc = (r.1, .error c))
        ∧ ∀ pa, r.2 = .ok pa → stashVa r.1 pid a = none → resolve s pages fin t pid 0 a acc = (r.1, .ok (.home a pa, page pa)))
    ∧ (∀ p, (pages.find? fun y => decide (y.va = a / 65536) && (fin || decide (y.acc = acc'))) = some p → stashVa s pid a = none →
        let pa := p.pa * 65536 + a % 65536
        resolve s pages fin t pid 0 a acc = (s, .ok (.home a pa, page pa)))
    ∧ (∀ n, readLoc s t (.sram m off) n = (s, some (s.localRead fid m off n))
        ∧ readLoc s t (.plane pid off) n = (s, some (s.planeRead pid off n))
        ∧ ∀ va pa, readHeld s pa = true → readLoc s t (.home va pa) n = (s, none))
    ∧ ∀ (sp cls : Nat) (bs : List Byte), bs ≠ [] →
        (let w := writeLoc s t pid sp cls (.sram m off) bs
         let u := w.1
         (s.localMem fid m).wf = true →
         w.2 = (0, []) ∧ u = { s with locals := u.locals, localDirty := u.localDirty } ∧ (∀ f k, (f, k) ≠ (fid, m) → u.localMem f k = s.localMem f k)
         ∧ ∀ i, (u.localMem fid m).read i = if off ≤ i ∧ i < off + bs.length then bs.getD (i - off) 0 else (s.localMem fid m).read i)
        ∧ (let w := writeLoc s t pid sp cls (.plane pid off) bs
           let u := w.1
           (s.clu pid).plane.wf = true →
           w.2 = (0, []) ∧ u = s.setClu pid { s.clu pid with plane := (u.clu pid).plane, planeDirty := (u.clu pid).planeDirty }
           ∧ ∀ i, (u.clu pid).plane.read i = if off ≤ i ∧ i < off + bs.length then bs.getD (i - off) 0 else (s.clu pid).plane.read i)
        ∧ ∀ va pa, (s.homeOf pa).owners = [] → (s.homeOf pa).sharers = [] → pa % 32 + bs.length ≤ 32 → s.mem.wf = true →
            let w := writeLoc s t pid sp cls (.home va pa) bs
            w.2.2 = [] ∧ ∀ i, w.1.mem.read i = if pa ≤ i ∧ i < pa + bs.length then bs.getD (i - pa) 0 else s.mem.read i

/-- R125, R126, R129, R134, R137, R410: COPY_CHUNK_START. At most 16 chunks of a cluster and 8 of a queue are started, none of
a halted or faulted queue, nor past the stream's end; a CPG first reads the entries that its chunk needs, and waits where one
of them does. A chunk that cannot pay 64 waits, and those behind it that are ready ask with it. A paid one keeps the bytes
that its reads have returned and the pages it translated, and, once started, goes on with those pages (the model's reading of
R87, log 65), or its fault, for a list entry at that entry's address; no byte of the destination has changed. A fault abandons
the later chunks, and no chunk of its queue asks to pay any more. -/
def Sys2Proof.Claims.CopyChunkStarts : Prop :=
  ∀ (pid q : Nat) (s : State),
    let x := copyQ s pid q
    let i : Instr := .copyChunkStart pid q
    (x.ents = [] → exec i s = .next s)
    ∧ ∀ e es, x.ents = e :: es →
      let k := e.done + e.chunks.length
      let up := ((s.clu pid).cq.map fun y => (y.2.ents.map fun d => d.chunks.length).sum).sum
      let stops : Prop := x.halted = true ∨ e.fault ≠ none ∨ e.word.op = 0x305 ∨ 16 ≤ up ∨ 8 ≤ e.chunks.length
        ∨ (s.flk e.tid.fid).resident = false ∨ (s.flk e.tid.fid).preReq = true ∨ (s.die (pid / 64)).tripped = true
      let who := 2 + 2 ^ 32 * q + k % 2 ^ 32
      let moved (u : State) : State := u.setCtx (u.flk e.tid.fid).ctx { u.ctx (u.flk e.tid.fid).ctx with wdLast := u.now }
      let fails (u : State) (d : CopyEnt) (c : Cause) (addr ent : Nat) : Prop := ∃ t, exec i s = .next t
        ∧ t = u.setClu pid { u.clu pid with cq := (t.clu pid).cq, purse := (t.clu pid).purse }
        ∧ (t.clu pid).purse = { (u.clu pid).purse with payers := (u.clu pid).purse.payers.filter fun z =>
            !(decide (2 + 2 ^ 32 * q ≤ z.who) && decide (z.who < 2 + 2 ^ 32 * (q + 1))) }
        ∧ (t.clu pid).cq = (u.clu pid).cq.set q { copyQ u pid q with ents :=
            { d with fault := some (k, c, addr, ent), chunks := d.chunks.filter fun y => decide (y.k < k) } :: (copyQ u pid q).ents.tail }
      let starts (v : State) (d : CopyEnt) : Prop :=
        let p := pay v pid who 64
        (p.2 = false → exec i s = .next (askBehind (modHead p.1 pid q fun _ => d) pid q d))
        ∧ (p.2 = true → ∀ (u : State) (bs : List (Option Byte)) (ps : List ChunkPage) (c : Cause) (addr : Nat),
            (startSegs pid d (d.chunkSegs k) (moved p.1) [] = (u, .error (c, addr)) → (copyQ u pid q).ents ≠ [] → fails u d c addr 0)
            ∧ (startSegs pid d (d.chunkSegs k) (moved p.1) [] = (u, .ok (bs, ps)) →
                exec i s = .next (modHead u pid q fun _ => { d with chunks := d.chunks ++ [⟨k, .started, bs, ps, [], [], 0, []⟩] })))
      (stops → exec i s = .next s)
      ∧ (¬stops → e.word.op ≠ 0x303 → (e.total ≤ 4096 * k → exec i s = .next (modHead s pid q fun _ => e))
          ∧ (4096 * k < e.total → starts s e))
      ∧ (¬stops → e.word.op = 0x303 → ∀ (v : State) (d : CopyEnt) (l : ListRead),
          readEntries pid (4096 * k + 4096) 4097 s e = (v, d, l) → d = { e with list := d.list }
          ∧ (l = .waits ∨ l = .done ∧ d.total ≤ 4096 * k → exec i s = .next (modHead v pid q fun _ => d))
          ∧ (l = .done → 4096 * k < d.total → starts v d)
          ∧ ∀ c n, l = .bad c n →
            let p := pay v pid who 64
            (p.2 = false → exec i s = .next (askBehind (modHead p.1 pid q fun _ => d) pid q d))
            ∧ (p.2 = true → (copyQ v pid q).ents ≠ [] → fails (moved p.1) d c (e.word.ub.toNat % 2 ^ 64 + 16 * n) n))

/-- R134: the entries of a gather list, read one after another and each whole, as far as a position needs, as LOCAL
accesses read: one that waits for a stash fill holds the list. One whose length is 0, whose zero field is not 0, which brings
the total above 2^34, or whose LOCAL or PLANE source range breaks its space, is faulted, and so is one longer than 2^31, or one
that brings a LOCAL or PLANE destination past the end of its space (the model's choices, logs 97 and 48); every other entry is
good. -/
def Sys2Proof.Claims.GatherLists : Prop :=
  ∀ (s : State) (pid upto fuel : Nat) (e : CopyEnt), e.total < upto → e.list.length < e.word.uc.toNat % 2 ^ 64 →
    let fid := e.tid.fid
    let m := (s.flk fid).clus.idxOf pid
    let k := e.list.length
    let off := e.word.ub.toNat % 2 ^ 64 + 16 * k
    let place := resolve s [] false e.tid pid 1 (2 ^ 63 + off) .load
    (off + 16 ≤ 2 ^ 25 → (∀ o, off / 32 * 32 ≤ o → o < off + 16 → stashOff s fid m o = none) →
      place = (s, .ok (.sram m off, [])) ∧ localReady s fid m off 16 = (s, true))
    ∧ (∀ c, place.2 = .error c → readEntries pid upto (fuel + 1) s e = (place.1, e, .bad c k))
    ∧ ∀ l, place.2 = .ok l →
      let r := localReady place.1 fid m off 16
      let u := r.1
      let field (o n : Nat) : Nat := leNat (((u.localRead fid m off 16).drop o).take n)
      let bad := listBad u e pid (field 0 8) (field 8 4) (field 12 4)
      let src := field 0 8
      let top := e.word.ua.toNat % 2 ^ 64
      let dsp := e.word.x.flags / 4
      let ends (sp a n : Nat) : Prop := a % 2 ^ 25 + n ≤ spaceTop u fid (2 ^ (u.flk fid).clus.idxOf pid) sp a
      (bad = false ↔ field 8 4 ≠ 0 ∧ field 8 4 ≤ 2 ^ 31 ∧ field 12 4 = 0 ∧ e.total + field 8 4 ≤ 2 ^ 34
        ∧ (e.word.x.flags % 4 = 0 ∨ src / 2 ^ 60 % 8 = 0 ∧ src / 2 ^ 25 % 2 ^ 31 = 0
            ∧ (src.testBit 63 = true ∨ src / 2 ^ 56 % 16 < u.size fid) ∧ ends (e.word.x.flags % 4) src (field 8 4))
        ∧ (dsp = 0 ∨ ends dsp top (e.total + field 8 4)))
      ∧ (r.2 = false → readEntries pid upto (fuel + 1) s e = (u, e, .waits))
      ∧ (r.2 = true → bad = true → readEntries pid upto (fuel + 1) s e = (u, e, .bad .cpdesc k))
      ∧ (r.2 = true → bad = false → readEntries pid upto (fuel + 1) s e
          = readEntries pid upto fuel u { e with list := e.list ++ [(k, field 0 8, field 8 4)] })

/-- R121, R125, R126, R140: COPY_CHUNK_WRITE. The earliest chunk of a queue's head that has not written goes on (the model's
choice, log 98). A started one reads its source again and may begin, once all its bytes have been read, its flock is to go on
and each CXL port it needs has room for 4096 bytes more. One that has begun writes some of the bytes that it has left, and
has written when none is left. A chunk of a flock that is not resident, or on a die that has tripped, does nothing. -/
def Sys2Proof.Claims.CopyChunkWrites : Prop :=
  ∀ (pid q : Nat) (s : State),
    let i : Instr := .copyChunkWrite pid q
    ((copyQ s pid q).ents = [] → exec i s = .next s)
    ∧ ∀ (e : CopyEnt) (es : List CopyEnt), (copyQ s pid q).ents = e :: es →
      let put (u : State) (c : Chunk) : State :=
        modHead u pid q fun d => { d with chunks := d.chunks.map fun x => if x.k = c.k then c else x }
      ((∀ c ∈ e.chunks, c.st = .written) → exec i s = .next s)
      ∧ ∀ (l r : List Chunk) (c : Chunk), e.chunks = l ++ c :: r → (∀ x ∈ l, x.st = .written) → c.st ≠ .written →
        let stops : Prop := (s.flk e.tid.fid).resident = false ∨ (s.die (pid / 64)).tripped = true
        (stops → exec i s = .next s)
        ∧ (¬stops → c.st = .started → ∀ u src, sampleSegs pid e c.pages (e.chunkSegs c.k) s c.src = (u, src) →
            let c1 : Chunk := { c with src := src }
            let ports := chunkPorts u pid e c1
            ∃ c2, exec i s = .next (put u c2) ∧ (c2 = c1 ∨ c2 = { c1 with st := .writing, left := List.range src.length, ports := ports }
              ∧ (∀ b ∈ src, b.isSome = true) ∧ (u.flk e.tid.fid).resident = true ∧ (u.flk e.tid.fid).preReq = false
              ∧ ∀ p ∈ ports, reservedAt u p < 16))
        ∧ (¬stops → c.st = .writing → ∃ u c1, exec i s = .next (put u (if c1.left = [] then { c1 with st := .written } else c1))
            ∧ c1 = { c with left := c1.left, gwct := c1.gwct, owed := c1.owed } ∧ c1.left.Sublist c.left ∧ c.gwct ≤ c1.gwct)

/-- R121, R125: the bytes of a stretch that are written, all at once or one alone: those that the chunk has read, each at
the place of its destination address. -/
def Sys2Proof.Claims.CopyBytes : Prop :=
  ∀ (s : State) (pid : Nat) (e : CopyEnt) (c : Chunk) (g : Seg) (ps : List Nat),
    let byte (p : Nat) : Byte := ((c.src[p]?).join).getD 0
    let put (u : State) (l : Loc) (bs : List Byte) := writeLoc u e.tid pid (dstSpace e) (scopeClass e.scope) l bs
    ∀ u l r, resolve s c.pages true e.tid pid (dstSpace e) g.dst .store = (u, .ok (l, r)) →
      (ps.length = g.n → writeSeg s pid e c g ps = put u l (ps.map byte))
      ∧ ∀ p v l' r', ps = [p] → g.n ≠ 1 →
        resolve u c.pages true e.tid pid (dstSpace e) (g.dst + (p - g.pos % 4096)) .store = (v, .ok (l', r')) →
        writeSeg s pid e c g ps = put v l' [byte p]

/-- R126, R128, R135: the source bytes of a chunk. CPSET's are its pattern. Any other byte is read as its chunk starts, where
nothing holds the read there; until the chunk begins to write, a byte that no read has returned takes the one that stands,
and any other keeps its value or takes the one that stands. -/
def Sys2Proof.Claims.CopySources : Prop :=
  ∀ (s : State) (pid : Nat) (e : CopyEnt) (pages : List ChunkPage),
    (e.word.op = 0x304 → ∀ gs u bs ps, startSegs pid e gs s pages = (u, .ok (bs, ps)) →
      bs = gs.flatMap fun g => (pattern e g.pos g.n).map some)
    ∧ ∀ g : Seg,
      (e.word.op ≠ 0x304 → ∀ u l r v bs, resolve s pages false e.tid pid (e.word.x.flags % 4) g.src .load = (u, .ok (l, r)) →
        readLoc u e.tid l g.n = (v, bs) → ∀ w y, resolve v (pages ++ r) false e.tid pid (e.word.x.flags / 4) g.dst .store = (w, .ok y) →
        ∃ ps, startSegs pid e [g] s pages = (w, .ok ((match bs with
          | some b => b.map some
          | none => List.replicate g.n none), ps)))
      ∧ ∀ src : List (Option Byte),
        (e.word.op = 0x304 → sampleSegs pid e pages [g] s src = (s, (List.range g.n).map fun i => src.getD i none))
        ∧ (e.word.op ≠ 0x304 → ∀ u l r v bs, resolve s pages true e.tid pid (e.word.x.flags % 4) g.src .load = (u, .ok (l, r)) →
            readLoc u e.tid l g.n = (v, bs) → ∃ out, sampleSegs pid e pages [g] s src = (v, out) ∧ out.length = g.n
              ∧ ∀ i, i < g.n → match src.getD i none, bs with
                | none, some b => out.getD i none = some (b.getD i 0)
                | old, none => out.getD i none = old
                | some o, some b => out.getD i none = some o ∨ out.getD i none = some (b.getD i 0))

/-- No pre-empted flock has a copy queue saved. -/
def Sys2Proof.Claims.NoneSaved (s : State) : Prop :=
  ∀ f ∈ s.flocks, f.2.resident = true ∨ ∀ v ∈ f.2.saved, v.cq = []

/-- R125, R127, R136: COPY_CHUNK_LAND, where no queue of the cluster holds a fence. The oldest chunk, once it is written, no
sector owes it a grant and its device time is past, counts its bytes into the barrier that the word names and retires; with
the last one the operation leaves its queue. A chunk that was written before its flock halted lands in the saved queue and
counts into the saved slot, as progress of its context (R140, R383, R385). That a landing waits for the grants its chunk is
owed is the model's reading of R125 and R159 (log 56). -/
def Sys2Proof.Claims.CopyChunkLands : Prop :=
  ∀ (pid q : Nat) (s : State), (∀ j, ∀ d ∈ (copyQ s pid j).ents, d.word.op ≠ 0x305) →
    let i : Instr := .copyChunkLand pid q
    let count (e : CopyEnt) (k : Nat) : State :=
      let ctl := e.word.uc.toNat / 2 ^ 64
      if ctl.testBit 32 then countBytes s e.tid (ctl % 2 ^ 32) (min 4096 (e.total - 4096 * k)) else s
    let last (e : CopyEnt) (k : Nat) : Prop := e.total ≤ 4096 * (k + 1) ∧ (e.word.op = 0x303 → e.word.uc.toNat % 2 ^ 64 ≤ e.list.length)
    let landed (c : Chunk) : Prop := c.st = .written ∧ c.owed = [] ∧ (c.gwct = 0 ∨ c.gwct < s.now / 1000)
    (Sys2Proof.Claims.NoneSaved s → ((copyQ s pid q).ents = [] → exec i s = .next s)
      ∧ ∀ e es, (copyQ s pid q).ents = e :: es → 0x300 ≤ e.word.op → e.word.op ≤ 0x304 →
        (e.chunks = [] → exec i s = .next s)
        ∧ ∀ c more, e.chunks = c :: more → (¬landed c → exec i s = .next s)
          ∧ (landed c →
            let w := count e c.k
            let v := w.setCtx (w.flk e.tid.fid).ctx { w.ctx (w.flk e.tid.fid).ctx with wdLast := w.now }
            let put (l : List CopyEnt) : State :=
              v.setClu pid { v.clu pid with cq := (v.clu pid).cq.set q { copyQ v pid q with ents := l } }
            (last e c.k → exec i s = .next (put es)) ∧ (¬last e c.k → exec i s = .next (put ({ e with done := e.done + 1, chunks := more } :: es)))))
    ∧ ∀ fid f v x e es c more, s.flocks = [(fid, f)] → f.resident = false → f.clus = [pid] → f.saved = [v] → v.cq = [(q, x)] →
        (x.settle s).ents = e :: es → 0x300 ≤ e.word.op → e.word.op ≤ 0x304 → e.chunks = c :: more → (copyQ s pid q).ents = [] →
        (¬landed c → exec i s = .next s)
        ∧ (landed c → last e c.k →
          let w := count e c.k
          exec i s = .next ((w.setCtx f.ctx { w.ctx f.ctx with wdLast := w.now }).modFlk fid fun f =>
            { f with saved := [{ v with cq := [(q, { x.settle s with ents := es })] }] }))

/-- R136: fences. One that heads every queue that holds it, none of them halted, leaves them all; one that does not
stays, and with it every queue that it heads. -/
def Sys2Proof.Claims.CopyFences : Prop :=
  ∀ (pid q : Nat) (s : State) (f : CopyEnt), f.word.op = 0x305 → Sys2Proof.Claims.NoneSaved s →
    let holds (j : Nat) : Prop := j < 4 ∧ ∃ d ∈ (copyQ s pid j).ents, d.id = f.id
    let heads (j : Nat) : Prop := (copyQ s pid j).ents.head?.map (·.id) = some f.id
    (∃ j, holds j) → (∀ j, ∀ d ∈ (copyQ s pid j).ents, d.word.op = 0x305 → d = f) → (copyQ s pid q).ents.head? = some f →
    (∀ j, 4 ≤ j → (copyQ s pid j).ents = []) →
    ((∀ j, holds j → heads j ∧ (copyQ s pid j).halted = false) → Goes (exec (.copyChunkLand pid q) s) fun t =>
        ∀ j, j ≠ q → (copyQ t pid j).ents = (copyQ s pid j).ents.filter fun d => !decide (d.id = f.id))
    ∧ ((∃ j, holds j ∧ (¬heads j ∨ (copyQ s pid j).halted = true)) → f.chunks = [] → exec (.copyChunkLand pid q) s = .next s)

/-- R137, R138: COPY_CHUNK_FAULT. Once every earlier chunk has landed the queue halts, its later chunks are abandoned,
the record is written and the emitting thread is owed COPYFAULT with the record's address. A fault that has been reported
before a resume only halts its queue again (the model's choice, log 99). -/
def Sys2Proof.Claims.CopyChunkFaults : Prop :=
  ∀ (pid q : Nat) (s : State),
    let x := copyQ s pid q
    let i : Instr := .copyChunkFault pid q
    (x.ents = [] → exec i s = .next s)
    ∧ ∀ e es, x.ents = e :: es → (e.fault = none → exec i s = .next s)
      ∧ ∀ k c addr ent, e.fault = some (k, c, addr, ent) →
        let waits : Prop := x.halted = true ∨ (∃ d ∈ e.chunks, d.k < k) ∨ (s.flk e.tid.fid).resident = false
        (waits → exec i s = .next s)
        ∧ (¬waits → e.told = true → exec i s = .next (s.setClu pid { s.clu pid with cq := (s.clu pid).cq.set q { x with halted := true } }))
        ∧ (¬waits → e.told = false → ∃ bs : List Byte,
          let at1 (o n : Nat) : Nat := leNat ((bs.drop o).take n)
          (at1 0 2 = c.code % 2 ^ 16 ∧ at1 2 1 = 2 ∧ at1 3 1 = q % 256 ∧ at1 4 4 = e.word.seq % 2 ^ 32 ∧ at1 8 8 = addr % 2 ^ 64
            ∧ at1 16 8 = 4096 * k % 2 ^ 64 ∧ at1 24 8 = e.total % 2 ^ 64 ∧ at1 32 8 = e.word.w.toNat
            ∧ at1 40 8 = e.word.ua.toNat % 2 ^ 64 ∧ at1 48 4 = ent % 2 ^ 32 ∧ bs.length = 52)
          ∧ let r := faultRecord s (s.flk e.tid.fid).ctx pid bs
            ∃ t, exec i s = .next (raiseTrap t e.tid .copyfault (BitVec.ofNat 64 r.2.1) r.2.2)
              ∧ t = r.1.setClu pid { r.1.clu pid with cq := (t.clu pid).cq }
              ∧ copyQ t pid q = ⟨(match (copyQ r.1 pid q).ents with
                  | [] => []
                  | d :: ds => { d with chunks := [], told := true } :: ds), true⟩
              ∧ ∀ j, j ≠ q → copyQ t pid j = copyQ r.1 pid j)

/-- R139, R410: CQCTL on one queue: nothing for a queue that is not halted. RESUME restarts the faulted operation at its
faulting chunk; ABORT, where no queue holds a fence, empties the queue, whose chunks ask for no tokens any more. -/
def Sys2Proof.Claims.CopyControl : Prop :=
  ∀ (pid q : Nat) (s : State),
    let x := copyQ s pid q
    let set (y : CopyQ) (z : Purse) (t : State) : Prop := t = s.setClu pid { s.clu pid with cq := (t.clu pid).cq, purse := z }
      ∧ copyQ t pid q = y ∧ ∀ j, j ≠ q → copyQ t pid j = copyQ s pid j
    let purse := (s.clu pid).purse
    (x.halted = false → exec (.cqctlAbort pid q) s = .next s ∧ exec (.cqctlResume pid q) s = .next s)
    ∧ (x.halted = true →
        ((∀ j, ∀ d ∈ (copyQ s pid j).ents, d.word.op ≠ 0x305) → Goes (exec (.cqctlAbort pid q) s) (set ⟨[], false⟩
          { purse with payers := purse.payers.filter fun k => !(decide (2 + 2 ^ 32 * q ≤ k.who) && decide (k.who < 2 + 2 ^ 32 * (q + 1))) }))
        ∧ Goes (exec (.cqctlResume pid q) s) (set ⟨(match x.ents with
            | [] => []
            | e :: es => { e with fault := none, told := false, chunks := [] } :: es), false⟩ purse))

/-- R119 to R123, R131 to R136: copy words and their streams.
The model's own readings in it: logs 48, 97. -/
def Obligations.CopyWords : Prop := Sys2Proof.Claims.CopyWords ∧ Sys2Proof.Claims.CopyStreams ∧ Sys2Proof.Claims.GatherLists
/-- R122, R125 to R129, R136 to R139, R141: what the copy engine does.
The model's own readings in it: logs 56, 65, 98, 99. -/
def Obligations.CopyChunks : Prop :=
  Sys2Proof.Claims.CopyPlaces ∧ Sys2Proof.Claims.CopyChunkStarts ∧ Sys2Proof.Claims.CopySources ∧ Sys2Proof.Claims.CopyChunkWrites
    ∧ Sys2Proof.Claims.CopyBytes
    ∧ Sys2Proof.Claims.CopyChunkLands ∧ Sys2Proof.Claims.CopyFences ∧ Sys2Proof.Claims.CopyChunkFaults ∧ Sys2Proof.Claims.CopyControl

/-! ## The matrix engine -/

/-- R247, R248, R347: a matrix word, once per cluster. It is refused where some group's EXMASK was not full, and held
while the matrix queue has 8 entries; else its entry ends the queue. -/
def Sys2Proof.Claims.MatrixWords : Prop :=
  ∀ (x : LaneWord) (s : State), ∀ i ∈ ([.mm x, .mmy x, .mzero x] : List Instr),
    let pid := s.lane.pid
    ∃ f : CIssue → State × Bool, LaneOnce s (exec i s) x f ∧ ∀ c : CIssue,
      (c.full = false → ∃ t, f c = (t, true) ∧ (usesCode s.lane.word.op s.lane.word.x = false → t = refuseWord s)
        ∧ (usesCode s.lane.word.op s.lane.word.x = true → t = (refuseWord s).setClu pid { (refuseWord s).clu pid with
            code := ((refuseWord s).clu pid).code.retire (s.lane.word.banks.get (laneMember s) 0) }))
      ∧ (c.full = true → 8 ≤ (s.clu pid).mq.length → f c = (s, false))
      ∧ (c.full = true → (s.clu pid).mq.length < 8 → ∃ e : MatEnt,
          f c = (s.setClu pid { s.clu pid with mq := (s.clu pid).mq ++ [e] }, true)
          ∧ e.tid = s.lane.tid ∧ e.str = s.lane.str ∧ e.word = s.lane.word ∧ e.paid = false ∧ e.yop = none ∧ e.start = none
          ∧ e.snap = [] ∧ e.lead = (laneMember s, s.lane.word) ∧ e.peerErr = false)

/-- R49, R50, R263, R266: what a shape code means, how long an entry streams and runs, and its price. -/
def Sys2Proof.Claims.MatrixShapes : Prop :=
  ∀ e : MatEnt, e.word.op = 0x308 ∨ e.word.op = 0x309 → e.word.x.shape < 32 →
    let sh := e.word.x.shape
    let t := e.word.x.ty6
    let M := 32 * (sh / 8 + 1)
    let N := if sh / 4 % 2 = 1 then 128 else 64
    let K := (if t = 13 then 256 else if t = 8 ∨ t = 9 then 64 else 128) * 4 ^ (sh % 4)
    let kp := if t = 13 then 256 else 128
    let S := ((K + kp - 1) / kp) * M * (if t = 8 ∨ t = 9 then 2 else 1)
    let y := if e.word.op = 0x309 then 32 else 0
    shapeM sh = M ∧ shapeN sh = N ∧ shapeK t sh = K ∧ e.streamLen = S ∧ e.streamEnd = 24 + y + S
      ∧ e.length = 40 + y + S + M * N / 128 ∧ e.price = 4 * (M / 32) * (N / 64) * 4 ^ (sh % 4) ∧ e.length ≤ 8392 ∧ e.price ≤ 2048

/-- R191, R192, R250, R251: an element of the result, from the bytes of A and its scales, of B and its scales and of
the tile: for s8 and n8 the exact sum, wrapped to 32 bits; else products in groups of 16 consecutive k, each group summed
exactly and rounded once, and the groups added in ascending order, each sum rounded. -/
def Sys2Proof.Claims.MatrixValues : Prop :=
  ∀ (e : MatEnt) (vec : Nat → Nat) (m c : Nat), m < 128 → c < 128 → e.word.x.ty6 < 16 →
    let t := e.word.x.ty6
    let K := shapeK t e.word.x.shape
    let byte (i j : Nat) : Nat := ((e.snap.getD i []).getD j 0).toNat
    let half (i j : Nat) : Nat := byte i j + 256 * byte i (j + 1)
    let nib (i j : Nat) : Nat := byte i (j / 2) / (if j % 2 = 0 then 1 else 16) % 16
    let wide := t = 8 ∨ t = 9
    let row := if t = 13 then K / 2 else if t = 8 ∨ t = 9 then 2 * K else K
    let A (k : Nat) : Nat := if t = 13 then nib 0 (2 * (m * row) + k) else if t = 8 ∨ t = 9 then half 0 (m * row + 2 * k) else byte 0 (m * row + k)
    let kr := if t = 13 then 128 else if t = 14 then 256 else if t = 8 ∨ t = 9 then 32 else 64
    let at1 (k : Nat) : Nat := 8192 * (k / kr) + 64 * c
    let B (k : Nat) : Nat := if t = 13 then nib 2 (2 * at1 k + k % kr) else if t = 14 then half 2 (at1 k + 2 * (k % kr / 8))
      else if t = 8 ∨ t = 9 then half 2 (at1 k + 2 * (k % kr)) else byte 2 (at1 k + k % kr)
    let scale (b : Nat) : Nat := byte 3 (8192 * (b / 64) + 64 * c + b % 64)
    let FA := fmtOf (if t = 14 then (if e.word.x.m / 8 % 2 = 1 then 12 else 11) else t)
    let p (k : Nat) : Val :=
      if t = 13 then
        let xa := byte 1 (m * (K / 32) + k / 32)
        let xb := scale (k / 32)
        if xa = 255 ∨ xb = 255 then .nan else Val.scale ((xa : Int) + xb - 254) (Val.mul (FA.value (A k)) ((fmtOf t).value (B k))).1
      else if t = 14 then
        let q := (cb2Decode (B k) (vec (B k))).getD (k % 8) 0
        if scale (k / 64) = 255 then .nan
        else (Val.mul (FA.value (A k)) (.fin (decide (q < 0)) q.natAbs ((scale (k / 64) : Int) - 130))).1
      else (Val.mul (FA.value (A k)) ((fmtOf t).value (B k))).1
    let group (g : Nat) : List Val := (List.range 16).map fun j => p (16 * g + j)
    let exact (g : Nat) : Val := ((group g).drop 1).foldl (fun a v => (Val.add false a v).1) (p (16 * g))
    let bad (g : Nat) : Prop := Val.nan ∈ group g ∨ (Val.inf true ∈ group g ∧ Val.inf false ∈ group g)
    let G (g r : Nat) : Prop := (bad g → r = fF32.nan) ∧ (¬bad g → r = (roundTo fF32 .rn false false (exact g)).1)
    let old := leNat (((e.snap.getD 4 []).drop (4 * (128 * m + c))).take 4)
    let acc := e.word.x.m / 4 % 2 = 1
    let r := (matElem e vec m c).1
    (t = 0 ∨ t = 4 → (r : Int) = (((List.range K).map fun k => ival t (A k % 256) * ival t (B k % 256)).sum
        + (if e.word.x.m / 4 % 2 = 1 then (old : Int) else 0)) % 2 ^ 32)
    ∧ (t ≠ 0 → t ≠ 4 → ∃ ys gs : Nat → Nat, (∀ g, g < K / 16 → G g (gs g))
        ∧ (acc → ys 0 = (roundTo fF32 .rn false false (Val.add false (fF32.value old) (fF32.value (gs 0))).1).1)
        ∧ (¬acc → ys 0 = gs 0)
        ∧ (∀ g, g + 1 < K / 16 → ys (g + 1) = (roundTo fF32 .rn false false (Val.add false (fF32.value (ys g)) (fF32.value (gs (g + 1)))).1).1)
        ∧ r = ys (K / 16 - 1) ∧ (wide → row = 2 * K))

/-- R260, R262, R265, R266: MATRIX_ENTRY_START. Entries that still stream take their bytes again, each the one taken before
or the one that stands now; the A of a yoke is its lead's for every fellow. The head of the queue starts once the engine
runs, the array has room (at most eight entries, the model's choice, log 117), every started entry has streamed, none of
the array and no store is at its tile, its codebook is loaded, and its price is paid; a paid head of a yoke waits until every
fellow has paid and is as ready itself. Which of two values a byte takes that changes while an entry streams is free (log
54). -/
def Sys2Proof.Claims.MatrixStarts : Prop :=
  ∀ (pid : Nat) (s : State),
    let i : Instr := .matrixEntryStart pid
    let v := refreshArray s pid
    let age (a : MatEnt) : Nat := (s.now - a.start.getD 0) * cluMHz s pid / 1000000
    let member (a : MatEnt) : Nat := (s.flk a.tid.fid).clus.idxOf pid
    (v = { s with clusters := v.clusters } ∧ (∀ q, v.clu q = { s.clu q with array := (v.clu q).array })
      ∧ (v.clu pid).array.length = (s.clu pid).array.length
      ∧ (∀ (k : Nat) (a : MatEnt), (s.clu pid).array[k]? = some a → ∃ b, (v.clu pid).array[k]? = some b ∧ b = { a with snap := b.snap }
        ∧ (a.yop = none → a.start.isSome = true → a.streamEnd ≤ age a → b = a)
        ∧ (a.yop = none → a.lead.1 = member a → ∀ j l, (b.snap.getD j []).getD l 0 = (a.snap.getD j []).getD l 0
            ∨ (b.snap.getD j []).getD l 0 = ((matBytes s pid (member a) a).getD j []).getD l 0))
      ∧ ∀ b ∈ (v.clu pid).array, b.lead.1 = member b → b.yop ≠ none → 2 ≤ b.snap.length →
          (∀ b' ∈ (v.clu pid).array, b'.lead.1 = member b' → b'.yop = b.yop → b' = b) →
          ∀ q, ∀ x ∈ (v.clu q).array, x.yop = b.yop → x.snap.take 2 = b.snap.take 2)
    ∧ ((s.clu pid).mq = [] → exec i s = .next v)
    ∧ ∀ e es, (s.clu pid).mq = e :: es →
      let fid := e.tid.fid
      let m := (s.flk fid).clus.idxOf pid
      let readyAt (u : State) (q k : Nat) (h : MatEnt) : Prop :=
        (u.flk h.tid.fid).resident = true ∧ (u.flk h.tid.fid).preReq = false ∧ (u.die (q / 64)).tripped = false
        ∧ (u.clu q).array.length < 8
        ∧ (∀ a ∈ (u.clu q).array, a.streamLen ≤ (u.now - a.start.getD 0) * cluMHz u q / 1000000)
        ∧ (∀ a ∈ (u.clu q).array, ¬(a.tid.fid = h.tid.fid ∧ a.word.x.tile = h.word.x.tile))
        ∧ tileStores u h.tid.fid k h.word.x.tile = false
        ∧ (usesCode h.word.op h.word.x = true → (u.clu q).code.waits (h.word.banks.get k 0) = false)
      let ready : Prop := readyAt s pid m e
      let p := if e.paid then (v, true) else pay v pid 0 e.price
      (¬ready ∨ (e.word.op = 0x309 ∧ e.yop = none) → exec i s = .next v)
      ∧ (ready → e.word.op = 0x309 → e.yop ≠ none → p.2 = false → exec i s = .next p.1)
      ∧ (ready → e.word.op ≠ 0x309 → (p.2 = false → exec i s = .next p.1) ∧ (p.2 = true → ∃ b : MatEnt,
          b = { e with start := some s.now, paid := true, snap := b.snap } ∧ b.snap = matBytes p.1 pid m e
          ∧ exec i s = .next (progress (p.1.setClu pid { p.1.clu pid with mq := es, array := (p.1.clu pid).array ++ [b] }) (s.ctxOf e.tid))))
      ∧ (ready → e.word.op = 0x309 → e.yop ≠ none → p.2 = true →
          let w := p.1.setClu pid { p.1.clu pid with mq := { e with paid := true } :: es }
          let ms := yokeOf s fid e.word.yoke
          let joins (y : Nat × Nat) : Prop :=
            ∃ h, (w.clu y.2).mq.head? = some h ∧ h.paid = true ∧ h.yop = e.yop ∧ readyAt w y.2 y.1 h
          ((∃ y ∈ ms, ¬joins y) → exec i s = .next w)
          ∧ ((∀ y ∈ ms, joins y) →
              exec i s = .next (ms.foldl (fun u y => startHead u y.2 y.1) w)))

/-- R430, R268: a matrix fault record of an entry: its cause, kind, tile, sequence and word, and whether its tile has been
written. -/
def Sys2Proof.Claims.MatrixRecord (e : MatEnt) (pid : Nat) (wrote : Bool) (bs : List Byte) : Prop :=
  bs.length = 32 ∧ leNat (bs.take 2) = Cause.uncorr.code ∧ leNat ((bs.drop 2).take 1) = 3 ∧ leNat ((bs.drop 3).take 1) = e.word.x.tile % 256
    ∧ leNat ((bs.drop 4).take 4) = e.word.seq % 2 ^ 32 ∧ leNat ((bs.drop 8).take 8) = e.word.w.toNat
    ∧ leNat ((bs.drop 16).take 1) = (if wrote then 2 ^ e.word.x.tile % 256 else 0) ∧ leNat ((bs.drop 30).take 2) = pid % 65536

/-- A word that captured a codebook bank gives it back (R258). -/
def Sys2Proof.Claims.codeBack (s : State) (pid m : Nat) (w : EWord) : State :=
  if usesCode w.op w.x then s.setClu pid { s.clu pid with code := (s.clu pid).code.retire (w.banks.get m 0) } else s

/-- An entry leaves the array, as progress of its context. A yoke's entry is kept, without its bytes, until the last member of
its operation has left its array. -/
def Sys2Proof.Claims.tileLeaves (s : State) (pid : Nat) (e : MatEnt) (erred : Bool) (ctx : Nat) : State :=
  let keep := if e.yop.isSome then [{ e with snap := [], peerErr := e.peerErr || erred }] else []
  let t := s.setClu pid { s.clu pid with
    array := (s.clu pid).array.filter fun x => !(decide (x.word.x.tile = e.word.x.tile) && decide (x.tid.fid = e.tid.fid))
    retired := (s.clu pid).retired ++ keep }
  let u := sweepYoke t e
  u.setCtx ctx { u.ctx ctx with wdLast := u.now }

/-- R255, R257, R263, R265: what stands in the bytes that an entry takes, and MATRIX_RETIREMENT of an MM or MZERO that has
run its length without an error, alone or as a member of a yoke: the tile's changed elements are written, every other local
byte is as before, the INVALID and OVERFLOW events of its elements are recorded, the bytes count into the barrier, a captured
codebook bank is given back, and the entry leaves the array. A member of a yoke in which another has found an error writes a
record that shows its tile retired (R268); its operation is forgotten once its last member has retired. -/
def Sys2Proof.Claims.MatrixRetires : Prop :=
  (∀ (s : State) (pid m : Nat) (e : MatEnt), e.word.op ≠ 0x30A →
    let a := e.lead.2.ua.toNat % 2 ^ 64
    let b := e.word.ub.toNat
    let t := e.word.x.ty6
    let sh := e.word.x.shape
    let fid := e.tid.fid
    let bs := matBytes s pid m e
    let row := rowBytes t sh
    let put (i : Nat) (l : List Byte) : Prop := bs.getD i [] = l
    (∀ r j, r < shapeM sh → j < row → ((bs.getD 0 []).getD (r * row + j) 0)
        = (s.localMem fid e.lead.1).read (a % 2 ^ 25 + r * (a / 2 ^ 32 % 2 ^ 16) + j))
    ∧ (t = 13 → put 1 (s.localRead fid e.lead.1 (e.lead.2.ua.toNat / 2 ^ 64 / 2 ^ 32 % 2 ^ 25) (shapeM sh * (shapeK t sh / 32))))
    ∧ put 2 (s.planeRead pid (b % 2 ^ 64) (8192 * ((shapeK t sh + planeK t - 1) / planeK t)))
    ∧ (t = 13 ∨ t = 14 → put 3 (s.planeRead pid (b / 2 ^ 64 % 2 ^ 64) (8192 * scaleRows t sh)))
    ∧ (e.word.x.m / 4 % 2 = 1 → put 4 (s.localRead fid m (s.accBase fid + 65536 * e.word.x.tile) 65536)))
  ∧ ∀ (pid tile : Nat) (err : Bool) (s : State),
    let age (a : MatEnt) : Nat := (s.now - a.start.getD 0) * cluMHz s pid / 1000000
    let i : Instr := .matrixRetirement pid tile err
    ((∀ a ∈ (s.clu pid).array, a.word.x.tile = tile → age a < a.length) → exec i s = .next s)
    ∧ ∀ (e : MatEnt) (l r : List MatEnt), (s.clu pid).array = l ++ e :: r → (∀ x ∈ l, x.word.x.tile = tile → age x < x.length) →
      e.word.x.tile = tile → e.length ≤ age e → err = false ∨ e.word.op = 0x30A →
      let fid := e.tid.fid
      let m := (s.flk fid).clus.idxOf pid
      let off := s.accBase fid + 65536 * tile
      let M := shapeM e.word.x.shape
      let N := shapeN e.word.x.shape
      let zero := e.word.op = 0x30A
      let elem (j c : Nat) : Nat × Ev := matElem e (fun idx => codeVec (s.clu pid) (e.word.banks.get m 0 % 2) idx) j c
      (s.localMem fid m).wf = true → ∃ (w : State) (ev : Ev),
        (w = { s with locals := w.locals, localDirty := w.localDirty }
          ∧ (∀ f k, (f, k) ≠ (fid, m) → w.localMem f k = s.localMem f k)
          ∧ (∀ a, a < off ∨ off + 65536 ≤ a → (w.localMem fid m).read a = (s.localMem fid m).read a)
          ∧ ∀ j c, j < 128 → c < 128 →
            let el (u : State) : Nat := leNat (u.localRead fid m (off + 4 * (128 * j + c)) 4)
            (zero → el w = 0) ∧ (¬zero → j < M → c < N → el w = (elem j c).1 % 2 ^ 32)
            ∧ (¬zero → M ≤ j ∨ N ≤ c → el w = el s))
        ∧ (∀ k, ev.bits.testBit k = true ↔ ¬zero ∧ (k = 2 ∨ k = 4) ∧ ∃ j c, j < M ∧ c < N ∧ (elem j c).2.bits.testBit k = true)
        ∧ let v := aelRecord w (s.ctxOf e.tid) pid ev 1 m 0 e.tid.t (e.str % 4) e.word.seq
          let c := match e.word.bar? with
            | some h => countBytes v e.tid h (if zero then 65536 else 4 * M * N)
            | none => v
          let k := Sys2Proof.Claims.codeBack c pid m e.word
          (e.peerErr = false → exec i s = .next (Sys2Proof.Claims.tileLeaves k pid e false (s.ctxOf e.tid)))
          ∧ (e.peerErr = true → ∃ bs, Sys2Proof.Claims.MatrixRecord e pid true bs ∧
              exec i s = .next (Sys2Proof.Claims.tileLeaves (faultRecord k (s.ctxOf e.tid) pid bs).1 pid e false (s.ctxOf e.tid)))

/-- R268: an uncorrectable error in what an MM or MMY reads. Its tile keeps its value, nothing is counted, the record shows the
tile's bit clear, the thread is owed MATRIXFAULT, and the entry retires. Each other member of a yoke learns of it: one whose
tile is still to be written notes it, and one that has retired writes a record that shows its tile retired. -/
def Sys2Proof.Claims.MatrixErrors : Prop :=
  (∀ (pid tile : Nat) (s : State) (e : MatEnt) (l r : List MatEnt),
    let age (a : MatEnt) : Nat := (s.now - a.start.getD 0) * cluMHz s pid / 1000000
    (s.clu pid).array = l ++ e :: r → (∀ x ∈ l, x.word.x.tile = tile → age x < x.length) → e.word.x.tile = tile → e.word.op ≠ 0x30A →
    e.length ≤ age e →
    let ctx := s.ctxOf e.tid
    ∃ bs : List Byte, Sys2Proof.Claims.MatrixRecord e pid false bs
      ∧ let f := faultRecord (Sys2Proof.Claims.codeBack s pid ((s.flk e.tid.fid).clus.idxOf pid) e.word) ctx pid bs
        let w := raiseTrap f.1 e.tid .matrixfault (BitVec.ofNat 64 f.2.1) f.2.2
        exec (.matrixRetirement pid tile true) s = .next (Sys2Proof.Claims.tileLeaves (tellFellows w pid e) pid e true ctx))
  ∧ ∀ (s : State) (pid : Nat) (e : MatEnt),
    (e.yop = none → tellFellows s pid e = s)
    ∧ ∀ op, e.yop = some op →
      let ms := yokeOf s e.tid.fid e.word.yoke
      let mark (x : MatEnt) : MatEnt := if x.yop = some op then { x with peerErr := true } else x
      let told (c : Cluster) : Cluster := { c with array := c.array.map mark, retired := c.retired.map mark }
      let gone (q : Nat) : List MatEnt := (s.clu q).retired.filter fun x => decide (x.yop = some op) && !x.peerErr
      ((∀ y ∈ ms, y.2 = pid ∨ gone y.2 = []) → Goes (.next (tellFellows s pid e)) fun t =>
        t = { s with clusters := t.clusters } ∧ (∀ y ∈ ms, y.2 ≠ pid → t.clu y.2 = told (s.clu y.2))
        ∧ ∀ q, q = pid ∨ (∀ y ∈ ms, y.2 ≠ q) → t.clu q = s.clu q)
      ∧ ∀ y x, ms.filter (fun z => !decide (z.2 = pid)) = [y] → gone y.2 = [x] → ∃ bs, Sys2Proof.Claims.MatrixRecord x y.2 true bs ∧
          let u := (faultRecord s (s.ctxOf x.tid) y.2 bs).1
          tellFellows s pid e = u.setClu y.2 (told (u.clu y.2))

/-- R260, R261: YOKE_LATCH_COMPLETE. While some member's instance is not at the head of its queue nothing happens. Then
matching instances become one operation, whose A is the lead's, and a mismatch removes every instance and raises YOKE once
in each emitting thread. -/
def Sys2Proof.Claims.Yokes : Prop :=
  ∀ (fid members : Nat) (s : State),
    let ms := (setBits 16 members).map fun m => (m, s.pidOf fid m)
    let placed (p : Nat) (e : MatEnt) : Prop := (s.clu p).mq.head? = some e ∧ e.tid.fid = fid ∧ e.word.op = 0x309
      ∧ e.word.yoke = members ∧ e.yop = none
    let ready : Prop := (s.flk fid).resident = true ∧ (s.flk fid).preReq = false
    let aTy (e : MatEnt) : Nat := if e.word.x.ty6 = 14 then (if e.word.x.m / 8 % 2 = 1 then 12 else 11) else e.word.x.ty6
    let matches1 (a b : MatEnt) : Prop := a.word.x.ty6 = b.word.x.ty6 ∧ aTy a = aTy b ∧ a.word.x.m / 4 % 2 = b.word.x.m / 4 % 2
      ∧ a.word.x.shape = b.word.x.shape
    let i : Instr := .yokeLatchComplete fid members
    ((∃ p ∈ ms, ∀ e, ¬placed p.2 e) ∨ ms = [] ∨ ¬ready → exec i s = .next s)
    ∧ ∀ es : Nat → MatEnt, (∀ p ∈ ms, placed p.2 (es p.1)) → ms ≠ [] → ready → (ms.map (·.2)).Nodup →
      ((∀ a ∈ ms, ∀ b ∈ ms, matches1 (es a.1) (es b.1)) → Goes (exec i s) fun t =>
        t = { s with clusters := t.clusters, nextId := s.nextId + 1 }
        ∧ (∀ p ∈ ms, t.clu p.2 = { s.clu p.2 with mq := { es p.1 with
              yop := some s.nextId, lead := ((ms.headD (0, 0)).1, (es (ms.headD (0, 0)).1).word) } :: (s.clu p.2).mq.drop 1 })
        ∧ ∀ q, (∀ p ∈ ms, p.2 ≠ q) → t.clu q = s.clu q)
      ∧ ((∃ a ∈ ms, ∃ b ∈ ms, ¬matches1 (es a.1) (es b.1)) →
          (∀ p ∈ ms, (s.thr (es p.1).tid).status = .running ∧ ∀ h ∈ (s.thr (es p.1).tid).held, h.cause ≠ .yoke) → Goes (exec i s) fun t =>
            t = { s with clusters := t.clusters, threads := t.threads }
            ∧ (∀ p ∈ ms, (t.clu p.2).mq = (s.clu p.2).mq.drop 1)
            ∧ (∀ q, (∀ p ∈ ms, p.2 ≠ q) → t.clu q = s.clu q)
            ∧ ∀ u, ((∀ p ∈ ms, (es p.1).tid ≠ u) → t.thr u = s.thr u)
              ∧ ((∃ p ∈ ms, (es p.1).tid = u) → ∃ v, t.thr u = { s.thr u with held := (s.thr u).held ++ [⟨.yoke, v, 0⟩] }))

/-- R49, R50, R247 to R251, R255, R263, R266: matrix words, shapes and values. -/
def Obligations.MatrixWords : Prop :=
  Sys2Proof.Claims.MatrixWords ∧ Sys2Proof.Claims.MatrixShapes ∧ Sys2Proof.Claims.MatrixValues
/-- The last member of a yoke operation to leave its array takes the operation's other members out of the clusters' lists. -/
def Sys2Proof.Claims.YokesEnd : Prop :=
  ∀ (s : State) (e : MatEnt),
    let ms := yokeOf s e.tid.fid e.word.yoke
    (e.yop = none → sweepYoke s e = s)
    ∧ ∀ op, e.yop = some op →
      ((∃ y ∈ ms, ∃ x ∈ (s.clu y.2).array, x.yop = some op) → sweepYoke s e = s)
      ∧ ((∀ y ∈ ms, ∀ x ∈ (s.clu y.2).array, x.yop ≠ some op) → Goes (.next (sweepYoke s e)) fun t =>
        t = { s with clusters := t.clusters }
        ∧ ∀ q, t.clu q = if ∃ y ∈ ms, y.2 = q then { s.clu q with retired := (s.clu q).retired.filter fun x => !decide (x.yop = some op) } else s.clu q)

/-- R255, R257, R260 to R268: what the matrix engine does.
The model's own readings in it: logs 54, 117. -/
def Obligations.MatrixEngine : Prop :=
  Sys2Proof.Claims.MatrixStarts ∧ Sys2Proof.Claims.MatrixRetires ∧ Sys2Proof.Claims.MatrixErrors ∧ Sys2Proof.Claims.Yokes
    ∧ Sys2Proof.Claims.YokesEnd

/-! ## The temporal array -/

/-- R272, R279, R282, R483: a TA word on one group, outside a replay. The group of the lowest bound slot gives TA.GO its
inputs, never for a lane that is not active; a TA.CAPT's destination waits in the active lanes. At the cluster issue,
where some group had an active lane, the word is held while the queue has 8 entries, and else ends it. -/
def Sys2Proof.Claims.TaWords : Prop :=
  ∀ (x : LaneWord) (s : State),
    let pid := s.lane.pid
    let act := activeMask s x
    let gmask := (strOf s s.lane.tid s.lane.str).gmask
    let lowest : Prop := s.lane.slot < 16 ∧ gmask.testBit s.lane.slot = true ∧ ∀ k, k < s.lane.slot → gmask.testBit k = false
    let c := (strOf s s.lane.tid s.lane.str).cissue.get (laneMember s, s.lane.word.seq) default
    let slots := c.slots ||| 2 ^ s.lane.slot
    let active : Prop := c.active = true ∨ act ≠ 0
    let input (k : Nat) : Byte :=
      if act.testBit (k / 4) then BitVec.ofNat 8 ((srcA s x 1).getD (k / 4) 0 / 256 ^ (k % 4)) else 255
    let issues (i : Instr) (go capt : Bool) : Prop :=
      (slots = gmask → active → 8 ≤ (s.clu pid).ta.ents.length → exec i s = holdWord s)
      ∧ (¬(slots = gmask ∧ active ∧ 8 ≤ (s.clu pid).ta.ents.length) → ∃ (v : State) (acted : Bool),
          exec i s = .next (issued v x act acted) ∧ (acted = true ↔ slots = gmask ∧ active)
          ∧ v = { s with clusters := v.clusters, threads := v.threads, groups := v.groups, nextId := v.nextId }
          ∧ (∀ p, p ≠ pid → v.clu p = s.clu p) ∧ (∀ f m k, (v.grp f m k).v = (s.grp f m k).v)
          ∧ (capt = true → act ≠ 0 → ∃ named, (laneGrp v).out = (laneGrp s).out
              ++ [⟨x.dN, 1, act, s.lane.tid, s.lane.str, s.lane.word.seq, named⟩])
          ∧ (capt = false ∨ act = 0 → (laneGrp v).out = (laneGrp s).out)
          ∧ (slots ≠ gmask ∨ ¬active → (v.clu pid).ta = (s.clu pid).ta)
          ∧ (slots ≠ gmask → ∃ d, (strOf v s.lane.tid s.lane.str).cissue.find (laneMember s, s.lane.word.seq) = some d
              ∧ d.slots = slots ∧ (d.active = true ↔ active) ∧ d.masks = c.masks ++ [(s.lane.slot, act)]
              ∧ (go = true → lowest → d.inputs = c.inputs ++ (List.range 128).map input)
              ∧ (go = false ∨ ¬lowest → d.inputs = c.inputs))
          ∧ (slots = gmask → active → ∃ e : TaEnt, (v.clu pid).ta = { (s.clu pid).ta with ents := (s.clu pid).ta.ents ++ [e] }
              ∧ e.tid = s.lane.tid ∧ e.str = s.lane.str ∧ e.word = s.lane.word ∧ e.masks = c.masks ++ [(s.lane.slot, act)]
              ∧ e.paid = false ∧ e.start = none
              ∧ (go = true → lowest → e.inputs = c.inputs ++ (List.range 128).map input)
              ∧ (go = false ∨ ¬lowest → e.inputs = c.inputs)))
    s.lane.replay = false → act < 2 ^ 32 →
      issues (.taWin x) false false ∧ issues (.taDly x) false false ∧ issues (.taMode x) false false ∧ issues (.taClr x) false false
        ∧ issues (.taGo x) true false ∧ issues (.taCapt x) false true

/-- R272, R277, R278, R283, R284: TA_ENTRY_START. The head of the queue starts, in a cycle after the one in which the
previous entry retired (one that retired as a cycle began did so in the cycle before), once the engine runs, no store of its stream to the bytes that a TA.DLY reads is ahead of it, and its
price is paid: 32 for TA.GO, 8 for TA.DLY, else nothing. TA.WIN, TA.MODE and TA.CLR write their state one cycle later and
retire; a TA.DLY that has read for 128 cycles loads the delay matrix. -/
def Sys2Proof.Claims.TaStarts : Prop :=
  ∀ (pid : Nat) (s : State),
    let i : Instr := .taEntryStart pid
    let ta := (s.clu pid).ta
    let cycle (t : Nat) : Nat := t * cluMHz s pid / 1000000
    (ta.ents = [] → exec i s = .next s)
    ∧ ∀ e es, ta.ents = e :: es →
      let op := e.word.op
      let price := if op = 0x313 then 32 else if op = 0x311 then 8 else 0
      let stops : Prop := (s.flk e.tid.fid).resident = false ∨ (s.flk e.tid.fid).preReq = true ∨ (s.die (pid / 64)).tripped = true
        ∨ (∃ r, ta.lastRet = some r ∧ cycle r = cycle s.now ∧ (cycle s.now * 1000000 + cluMHz s pid - 1) / cluMHz s pid < r) ∨ (op = 0x311 ∧ dlyBlocked s pid e = true)
      let p := if e.paid then (s, true) else pay s pid 1 price
      let at1 (u : State) (a : TArray) : State := u.setClu pid { u.clu pid with ta := a }
      let bytes (u : State) : List Byte := u.localRead e.tid.fid ((s.flk e.tid.fid).clus.idxOf pid) (e.word.ua.toNat % 2 ^ 25) 16384
      (e.start = none →
        (stops → exec i s = .next s) ∧ (¬stops → p.2 = false → exec i s = .next p.1)
        ∧ (¬stops → p.2 = true →
          let w := progress p.1 (s.ctxOf e.tid)
          exec i s = .next (at1 w { ta with ents := { e with paid := true, start := some s.now, snap := if op = 0x311 then bytes w else [] } :: es })))
      ∧ ∀ t0, e.start = some t0 →
        let age := cycle s.now - cycle t0
        let done (a : TArray) : Out := .next (progress (at1 s { a with ents := es, lastRet := some s.now }) (s.ctxOf e.tid))
        (op = 0x313 ∨ op = 0x314 → exec i s = .next s)
        ∧ (op = 0x310 ∨ op = 0x312 ∨ op = 0x315 → age < 1 → exec i s = .next s)
        ∧ (1 ≤ age → (op = 0x310 → exec i s = done { ta with window := e.word.x.cN })
          ∧ (op = 0x312 → exec i s = done { ta with kinds := e.word.ua.toNat, loop := decide (e.word.x.m % 2 = 1) })
          ∧ (op = 0x315 → exec i s = done { ta with latch := List.replicate 128 255 }))
        ∧ (op = 0x311 → age < 128 → ∃ b : List Byte,
            exec i s = .next (at1 s { ta with ents := { e with snap := b } :: es }) ∧ b.length = 16384
            ∧ ∀ k, k < 16384 → b.getD k 0 = e.snap.getD k 0 ∨ b.getD k 0 = (bytes s).getD k 0)
        ∧ (op = 0x311 → 128 ≤ age → e.snap.length = 16384 → ∃ d : List (List Nat), exec i s = done { ta with delay := d }
            ∧ ∀ r c, r < 128 → c < 128 → (d.getD r []).getD c 255 = (e.snap.getD (128 * r + c) 0).toNat)

/-- R269, R280: a window. A column has risen by a tick exactly where its arrivals at that tick, from the inputs that rise
within the window and, in loop mode, from the columns that have risen by then, make it fire; and without loops an OR
column's output is the least arrival below W, an AND column's the greatest, where every closed row arrives. -/
def Sys2Proof.Claims.TaWindows : Prop :=
  ∀ (a : TArray) (x : List Byte), a.window ≤ 255 →
    let W := a.window
    let out (c : Nat) : Nat := (taWindow a x).getD c 255
    let d (i c : Nat) : Nat := (a.delay.getD i []).getD c 255
    let rise (i : Nat) : Option Nat := if (x.getD i 255).toNat < W then some (x.getD i 255).toNat else none
    let closed (c i : Nat) : Prop := i < 128 ∧ d i c ≠ 255
    let reached (i c t : Nat) : Prop := (∃ v, rise i = some v ∧ v + d i c ≤ t) ∨ (a.loop = true ∧ out i < W ∧ out i ≤ t ∧ out i + d i c ≤ t)
    let fires (c t : Nat) : Prop := if a.kinds.testBit c then (∃ i, closed c i) ∧ ∀ i, closed c i → reached i c t else ∃ i, closed c i ∧ reached i c t
    (taWindow a x).length = 128
    ∧ ∀ c, c < 128 → (out c < W ∨ out c = 255)
      ∧ (∀ t, t < W → (out c ≤ t ↔ fires c t))
      ∧ (a.loop = false → a.kinds.testBit c = false → ∀ t, t < W → (out c = t ↔
          (∃ i v, closed c i ∧ rise i = some v ∧ v + d i c = t) ∧ ∀ i v, closed c i → rise i = some v → t ≤ v + d i c))
      ∧ (a.loop = false → a.kinds.testBit c = true → ∀ t, t < W → (out c = t ↔
          (∃ i v, closed c i ∧ rise i = some v ∧ v + d i c = t) ∧ ∀ i, closed c i → ∃ v, rise i = some v ∧ v + d i c ≤ t))

/-- R281, R283, R287: TA_WINDOW_END. A TA.GO that has taken 4 cycles, W ticks of 5.4 GHz rounded up to a cycle edge, and 1
cycle lowers each latch to its output and retires; with an uncorrectable error the latches stay, and the record and TAFAULT
follow. -/
def Sys2Proof.Claims.TaEnds : Prop :=
  ∀ (pid : Nat) (err : Bool) (s : State),
    let i : Instr := .taWindowEnd pid err
    let ta := (s.clu pid).ta
    (ta.ents = [] → exec i s = .next s)
    ∧ ∀ e es, ta.ents = e :: es →
      let mhz := cluMHz s pid
      let cycle (t : Nat) : Nat := t * mhz / 1000000
      let ended (t0 : Nat) : Prop := cycle t0 + 5 + (ta.window * mhz + 5399) / 5400 ≤ cycle s.now
      (e.word.op ≠ 0x313 ∨ e.start = none → exec i s = .next s)
      ∧ ∀ t0, e.word.op = 0x313 → e.start = some t0 →
        (¬ended t0 → exec i s = .next s)
        ∧ (ended t0 → err = false → ∃ l : List Nat,
            exec i s = .next (progress (s.setClu pid { s.clu pid with ta := { ta with latch := l, ents := es, lastRet := some s.now } }) (s.ctxOf e.tid))
            ∧ l.length = 128 ∧ ∀ c, c < 128 → l.getD c 0 = min (ta.latch.getD c 255) ((taWindow ta e.inputs).getD c 255))
        ∧ (ended t0 → err = true → ∃ bs : List Byte, bs.length = 32 ∧ leNat (bs.take 2) = Cause.uncorr.code
            ∧ leNat ((bs.drop 2).take 1) = 4 ∧ leNat ((bs.drop 4).take 4) = e.word.seq % 2 ^ 32 ∧ leNat ((bs.drop 8).take 8) = e.word.w.toNat
            ∧ let r := faultRecord s (s.ctxOf e.tid) pid bs
              let w := raiseTrap r.1 e.tid .tafault (BitVec.ofNat 64 r.2.1) r.2.2
              exec i s = .next (progress (w.setClu pid { w.clu pid with
                ta := { (w.clu pid).ta with ents := (w.clu pid).ta.ents.drop 1, lastRet := some s.now } }) (s.ctxOf e.tid)))

/-- R282: the result of a capture. VALUE gives the latches, RANK each output's place by tick and then by index, FIRSTK the
indices of the first k outputs that rose; 0xFF stands for never. -/
def Sys2Proof.Claims.TaCaptures : Prop :=
  ∀ (latch : List Nat) (k : Nat), (∀ c, latch.getD c 255 ≤ 255) →
    let l (c : Nat) : Nat := latch.getD c 255
    let before (d c : Nat) : Bool := decide (l d ≠ 255) && (decide (l d < l c) || (decide (l d = l c) && decide (d < c)))
    let rank (c : Nat) : Nat := ((List.range 128).filter fun d => before d c).length
    let r (mode c : Nat) : Nat := ((taResult latch mode k).getD c 0).toNat
    (∀ mode, (taResult latch mode k).length = 128)
    ∧ ∀ c, c < 128 → r 0 c = l c ∧ r 1 c = (if l c = 255 then 255 else rank c)
      ∧ (∀ j, j < 128 → j < k → l c ≠ 255 → rank c = j → r 2 j = c)
      ∧ (∀ j, j < 128 → (k ≤ j ∨ ((List.range 128).filter fun d => decide (l d ≠ 255)).length ≤ j) → r 2 j = 255)

/-- R42, R147, R149 to R151, R289: VARIABLE_RESULT_LAND of an access that has not performed. An access that something comes
before, or that cannot perform yet, stays; a read that performs keeps its bytes until its lanes take them, its CT joining the
acquire horizon, and an atomic also writes. A local read takes the local bytes, a GLOBAL one that passes the L1 the bytes that
memory holds, and a local atomic the old value, behind which its result stands. -/
def Sys2Proof.Claims.ResultsReturn : Prop :=
  ∀ (s : State) (o : MemOp),
    let i : Instr := .variableResultLand o.id
    let keeps (u : State) (deed : Deed) (bs : List Byte) : State :=
      { u with ops := u.ops.map fun e => if e.id = o.id then { e with made := some (u.now / 1000), got := some bs, deed := deed } else e }
    (findOp s o.id = none → captureDue s o.id = none → exec i s = .next s)
    ∧ (findOp s o.id = some o → o.str = none ∨ o.dest = .none ∨ (s.flk o.tid.fid).resident = false → exec i s = .next s)
    ∧ (findOp s o.id = some o → o.str ≠ none → o.dest ≠ .none → (s.flk o.tid.fid).resident = true → o.made = none →
        (o.deed = .load →
          (blockedBySame s o = true → exec i s = .next s)
          ∧ (blockedBySame s o = false → ∀ u,
              (readNow s o = (u, none) → exec i s = .next u)
              ∧ ∀ bs ct, readNow s o = (u, some (bs, ct)) → ∃ v bs', exec i s = .next (keeps v .load bs')
                  ∧ v = acquireOf (noteRead u o ct) o ct ∧ bs' = raceBytes v o bs ∧ (o.alt = [] → bs' = bs)))
        ∧ ∀ op val cmp, o.deed = .atomic op val cmp false → blockedBySame s o = false → ∀ u,
            (∀ m, atomicNow s o op val cmp = (u, none, m) → exec i s = .next u)
            ∧ ∀ bs ct, (atomicNow s o op val cmp = (u, some (bs, ct), .notYet) → exec i s = .next u)
              ∧ (∀ g, atomicNow s o op val cmp = (u, some (bs, ct), .done g) →
                  exec i s = .next (keeps (acquireOf (noteRead (noteWrite u o g) o ct) o ct) .load bs))
              ∧ (atomicNow s o op val cmp = (u, some (bs, ct), .owed) →
                  exec i s = .next (keeps (acquireOf (noteRead u o ct) o ct) o.deed bs)))
    ∧ (∀ c off, serveOf s o = .sram c off →
        readNow s o = (s, some (s.localRead o.tid.fid c off o.n, 0))
        ∧ ∀ op val cmp, (s.localMem o.tid.fid c).wf = true → ∃ u m, atomicNow s o op val cmp = (u, some (s.localRead o.tid.fid c off o.n, 0), m)
            ∧ ∀ k, (u.localMem o.tid.fid c).read k = if off ≤ k ∧ k < off + o.n
                then BitVec.ofNat 8 (atomResult op o.n (leNat (s.localRead o.tid.fid c off o.n)) val cmp / 256 ^ (k - off))
                else (s.localMem o.tid.fid c).read k)
    ∧ ∀ va pa, serveOf s o = .home va pa → bypasses o = true → uoAt (s.clu o.pid) (lineOf pa) = none →
        (readHeld s pa = true → readNow s o = (s, none))
        ∧ (readHeld s pa = false → (s.homeOf pa).owners = [] → (s.homeOf pa).sharers = [] → pa % 32 + o.n ≤ 32 →
            ∃ u bs ct, readNow s o = (u, some (bs, ct)) ∧ u.mem = s.mem ∧ bs.length = o.n ∧ ∀ k, k < o.n → bs.getD k 0 = s.mem.read (pa + k))

/-- What the scoreboard entries of a word keep: the lanes of a mask, and none that keeps no lane. -/
def Sys2Proof.Claims.StillOut (g h : Group) (o : MemOp) (mask : Nat) : Prop :=
  h.out = (g.out.map fun x => if x.tid = o.tid ∧ some x.str = o.str ∧ x.seq = o.seq then { x with lanes := x.lanes &&& mask } else x).filter
    fun x => decide (x.lanes ≠ 0)

/-- R42, R147, R148, R150, R151, R198: VARIABLE_RESULT_LAND of a read that has performed, where no fixed-latency write of the
group is in flight. The lane of a plain load or of an atomic, and some of the lanes of an LDB or of a tile register of an LDT
(which of them is free), take the value, extended as its width code says; a tile register lands once every piece of it has
returned, each of its elements from the piece that covers it. What has landed everywhere is gone, but for an atomic whose
write is still owed its completion, and the scoreboard keeps only the lanes that still wait; it is kept by register (the
model's reading, log 57). -/
def Sys2Proof.Claims.ResultsLand : Prop :=
  ∀ (s : State) (o : MemOp) (n : Nat), findOp s o.id = some o → o.str = some n → (s.flk o.tid.fid).resident = true → o.made ≠ none →
    let i : Instr := .variableResultLand o.id
    let fid := o.tid.fid
    let m := (s.flk fid).clus.idxOf o.pid
    let g := s.grp fid m o.slot
    g.tail = [] → (∀ y ∈ (s.clu (s.pidOf fid m)).pipes, y.2.tid.fid = fid → y.2.slot = o.slot → y.2.fix = []) →
    let lands (took left : Nat) (ops : List MemOp) (hit : Nat → Prop) (v : Nat → Nat → Word32) : Prop := ∃ t, exec i s = .next t
      ∧ t = { s with ops := ops, groups := t.groups } ∧ (∀ f k j, (f, k, j) ≠ (fid, m, o.slot) → t.grp f k j = s.grp f k j)
      ∧ (let h := t.grp fid m o.slot
         h = { g with v := h.v, out := h.out } ∧ Sys2Proof.Claims.StillOut g h o left
         ∧ ∀ q l, l < 32 → (took.testBit l = true → hit q → h.laneOf q l = v q l) ∧ (took.testBit l = false ∨ ¬hit q → h.laneOf q l = g.laneOf q l))
    let value (w : Nat) (bs : List Byte) : Nat :=
      if w = 1 ∨ w = 3 then ((BitVec.ofNat (8 * o.n) (leNat bs)).signExtend 32).toNat else leNat bs
    let span (w : Nat) : Nat := if w = 5 then 2 else if w = 6 then 4 else 1
    let part (x r q : Nat) : Word32 := BitVec.ofNat 32 (x / 2 ^ (32 * (q - r)))
    let rest (mask took : Nat) : Nat := mask &&& (took ^^^ (2 ^ 32 - 1))
    (∀ bs l r w, s.ops = [o] → o.got = some bs → o.dest = .lane o.slot l r w → l < 32 → w ≤ 6 → bs.length = o.n →
        o.n = [1, 1, 2, 2, 4, 8, 16].getD w 4 →
        lands (2 ^ l) 0 (if o.deed.writes then [{ o with dest := .none, got := none }] else []) (fun q => r ≤ q ∧ q < r + span w)
          fun q _ => part (value w bs) r q)
    ∧ (∀ bs mask r w, s.ops = [o] → o.got = some bs → o.dest = .bcast o.slot mask r w → mask < 2 ^ 32 → w ≤ 6 → bs.length = o.n →
        o.n = [1, 1, 2, 2, 4, 8, 16].getD w 4 → o.deed = .load →
        ∃ took, took &&& mask = took ∧ lands took (rest mask took)
          (if rest mask took = 0 then [] else [{ o with dest := .bcast o.slot (rest mask took) r w }]) (fun q => r ≤ q ∧ q < r + span w)
          fun q _ => part (value w bs) r q)
    ∧ ∀ (mask r e row pos : Nat), o.dest = .tile o.slot mask r e row pos → mask < 2 ^ 32 →
        (o.got ≠ none → (∃ x ∈ spreadMates s o, x.got = none) → exec i s = .next s)
        ∧ ∀ (rw ps : MemOp → Nat), spreadMates s o = s.ops → o.deed = .load → o.got ≠ none → e = 1 ∨ e = 2 ∨ e = 4 →
          (∀ x ∈ s.ops, x.dest = .tile o.slot mask r e (rw x) (ps x) ∧ x.deed = .load ∧ x.got ≠ none) →
          ∃ took, took &&& mask = took ∧ ∃ v, lands took (rest mask took)
            (if rest mask took = 0 then [] else s.ops.map fun x => { x with dest := .tile o.slot (rest mask took) r e (rw x) (ps x) })
            (fun q => q = r + row * e / 4) v
            ∧ ∀ q l, q = r + row * e / 4 → l < 32 →
              let covers (x : MemOp) : Prop := ps x ≤ e * l ∧ e * l + e ≤ ps x + (x.got.getD []).length
              ((∀ x ∈ s.ops, ¬covers x) → v q l = g.laneOf q l)
              ∧ ∀ x, s.ops.filter (fun y => decide (ps y ≤ e * l) && decide (e * l + e ≤ ps y + (y.got.getD []).length)) = [x] →
                let sh := rw x * e % 4
                ∀ j, j < 4 → (v q l).toNat / 256 ^ j % 256 = if sh ≤ j ∧ j < sh + e
                  then ((x.got.getD []).getD (e * l - ps x + (j - sh)) 0).toNat else (g.laneOf q l).toNat / 256 ^ j % 256

/-- R42, R235, R282, R283: VARIABLE_RESULT_LAND of a capture that has been at the head of its queue for 6 cycles, where no
fixed-latency write of its groups is in flight: its bytes are written into the lanes that were active, the scoreboard releases
its destination, and the entry retires. Where a trailer named the destination nobody reads the old value any more; else a word
of the same cycle may. -/
def Sys2Proof.Claims.CapturesLand : Prop :=
  ∀ (s : State) (id pid : Nat) (e : TaEnt), findOp s id = none → captureDue s id = some (pid, e) → (s.clu pid).ta.ents.head? = some e →
    (e.masks.map (·.1)).Nodup → (∀ g ∈ e.masks, g.2 < 2 ^ 32) →
    let fid := e.tid.fid
    let m := (s.flk fid).clus.idxOf pid
    let bs := taResult (s.clu pid).ta.latch e.word.x.m e.word.x.cN
    let mine (x : OutLane) : Prop := x.tid = e.tid ∧ x.str = e.str ∧ x.seq = e.word.seq
    (∀ g ∈ e.masks, (s.grp fid m g.1).tail = [] ∧ ∀ y ∈ (s.clu (s.pidOf fid m)).pipes, y.2.tid.fid = fid → y.2.slot = g.1 → y.2.fix = []) →
    ∃ t, exec (.variableResultLand id) s = .next (progress t (s.ctxOf e.tid)) ∧ t = { s with clusters := t.clusters, groups := t.groups }
      ∧ t.clu pid = { s.clu pid with ta := { (s.clu pid).ta with ents := (s.clu pid).ta.ents.drop 1, lastRet := some s.now } }
      ∧ (∀ p, p ≠ pid → t.clu p = s.clu p)
      ∧ (∀ g ∈ e.masks, (∀ l q, l < 32 → (t.grp fid m g.1).laneOf q l =
            if g.2.testBit l ∧ q = e.word.x.dN then BitVec.ofNat 32 (leNat ((bs.drop (4 * l)).take 4)) else (s.grp fid m g.1).laneOf q l)
          ∧ (∀ x ∈ (t.grp fid m g.1).out, ¬mine x)
          ∧ ((∃ x ∈ (s.grp fid m g.1).out, mine x ∧ x.named = true) → (t.grp fid m g.1).tail = [])
          ∧ ((∀ x ∈ (s.grp fid m g.1).out, mine x → x.named = false) → ∃ f, (t.grp fid m g.1).tail = [f] ∧ f.code = e.word.x.dN
              ∧ f.mask = g.2 ∧ f.old = (s.grp fid m g.1).row e.word.x.dN))
      ∧ ∀ f k j, f ≠ fid ∨ k ≠ m ∨ (∀ g ∈ e.masks, g.1 ≠ j) → t.grp f k j = s.grp f k j

/-! ## Runs, LWAIT, LARR and the trailer -/

/-- R14, R17, R413, R414, R420: RUN_START. The free pipe of the lowest number, one that has not issued in the present cycle,
takes one of the cluster's ready runs, if there is one: of those ready for 256 cycles the one ready longest; else, after a
window that spent more than half of its limit, one of the smallest price; else the one ready longest; the earlier born where
that leaves a tie. A cut run's denied word asks again, with the age it had. Since when a run has been ready is noted at every
turn, whether a pipe is free or not (the model's reading, log 32). A run whose first word turns out to be held by something
other than tokens has not started, and leaves its pipe. -/
def Sys2Proof.Claims.RunStarts : Prop :=
  (∀ (pid pipe : Nat) (s : State),
    let i : Instr := .runStart pid pipe
    let z := rollSpend s pid
    let c := z.clu pid
    let rs := readyRuns z pid pipe
    let free (k : Nat) : Prop := ((s.clu pid).pipes.find k).isNone = true ∧ (s.clu pid).pipeNext.get k 0 ≤ s.now
    let stops : Prop := 4 ≤ pipe ∨ ¬free pipe ∨ (∃ k, k < pipe ∧ free k) ∨ (s.die (pid / 64)).tripped = true
    (stops → exec i s = .next s)
    ∧ (¬stops → rs = [] → exec i s = .next z)
    ∧ (¬stops → rs ≠ [] → ∃ e ∈ rs,
        (let since (y : PipeRun × Nat) : Nat := ((c.ready.find? fun k => decide (k.1 = keyOf y.1)).map (·.2)).getD s.now
         let aged (y : PipeRun × Nat) : Prop := 256 ≤ (s.now - since y) * cluMHz s pid / 1000000
         let heavy : Prop := c.purse.lastLimit < 2 * c.purse.lastSpend
         (∀ y ∈ rs, aged y → aged e ∧ since e ≤ since y ∧ (since y = since e → e.1.run.born ≤ y.1.run.born))
         ∧ ((∀ y ∈ rs, ¬aged y) → heavy → ∀ y ∈ rs, e.2 ≤ y.2 ∧ (y.2 = e.2 → e.1.run.born ≤ y.1.run.born))
         ∧ ((∀ y ∈ rs, ¬aged y) → ¬heavy → ∀ y ∈ rs, since e ≤ since y ∧ (since y = since e → e.1.run.born ≤ y.1.run.born)))
        ∧ Goes (exec i s) fun t => t = { s with clusters := t.clusters, groups := t.groups }
          ∧ (t.clu pid).pipes.find pipe = some { e.1 with denied := none } ∧ (∀ k, k ≠ pipe → (t.clu pid).pipes.find k = c.pipes.find k)
          ∧ t.clu pid = { c with
              pipes := (t.clu pid).pipes
              ready := c.ready.filter fun k => !decide (k.1 = keyOf e.1)
              cuts := c.cuts.filter fun k => !decide (keyOf k = keyOf e.1)
              purse := (match e.1.denied with
                | some (age, debit) => { c.purse with payers := c.purse.payers ++ [⟨2 ^ 40 + pipe, debit, age⟩] }
                | none => c.purse) }
          ∧ (∀ p, p ≠ pid → t.clu p = s.clu p)
          ∧ (e.1.replay = false → t.groups = s.groups)))
  ∧ (∀ (s : State) (pid : Nat), (s.clusters.find pid).isSome = true →
      let since (k : ReadyKey) : Nat := (((s.clu pid).ready.find? fun e => decide (e.1 = k)).map (·.2)).getD s.now
      noteReady s = { s with clusters := (noteReady s).clusters }
      ∧ (noteReady s).clu pid = { s.clu pid with ready := (readyRuns s pid 4).map fun e => (keyOf e.1, since (keyOf e.1)) })
  ∧ ∀ (s : State) (p : PipeRun), laneRun s = some p →
      let pid := s.lane.pid
      let t := s.setClu pid { s.clu pid with pipes := (s.clu pid).pipes.erase s.lane.pipe }
      let u := t.setClu pid { t.clu pid with purse := { (t.clu pid).purse with payers := (t.clu pid).purse.payers.filter fun q => !decide (q.who = 2 ^ 40 + s.lane.pipe) } }
      (s.lane.held = false ∨ p.pos ≠ 0 ∨ p.acts ≠ [] ∨ (readyPrice t pid s.lane.pipe p).isSome = true → giveBack s = s)
      ∧ (s.lane.held = true → p.pos = 0 → p.acts = [] → readyPrice t pid s.lane.pipe p = none → p.replay = false → giveBack s = u)

/-- R17, R40, R198, R346, R424, R426: the end of a run on its group. Once every word has issued, and no answer of the host is
owed, the pipe is free; the group keeps the writes that are still in flight; the stream has finished the run there, and a run
that every bound group has finished leaves it. Where lanes of the run have parked, the last group to finish it gives the thread
LANEFAULT. The end of a replay leaves its record, with one replay less to come. -/
def Sys2Proof.Claims.RunEnds : Prop :=
  ∀ (s : State) (p : PipeRun), laneRun s = some p →
    let pid := s.lane.pid
    let m := laneMember s
    let g := laneGrp s
    let st := strOf s p.tid p.str
    let done : Prop := p.run.words.length ≤ p.pos ∧ hostOwed s = false
    let h (x : Group) : Group := { x with
      fixEnd := max x.fixEnd ((p.fix.map fun f => f.lands).foldl max 0)
      tail := p.fix.filter fun f => decide (s.now < f.lands) }
    let frame (t : State) : Prop := t = { s with clusters := t.clusters, groups := t.groups, threads := t.threads }
      ∧ t.clu pid = { s.clu pid with pipes := (s.clu pid).pipes.erase s.lane.pipe } ∧ (∀ q, q ≠ pid → t.clu q = s.clu q)
      ∧ (∀ f k j, (f, k, j) ≠ (s.lane.tid.fid, m, s.lane.slot) → t.grp f k j = s.grp f k j)
      ∧ ∀ u, u ≠ p.tid → t.thr u = s.thr u
    (¬done → tryEnd s = s)
    ∧ (done → p.replay = true →
        let replayed (t : State) : Prop := frame t
          ∧ laneGrp t = { h g with prec := g.prec.map fun r => { r with replaying := false, queued := r.queued - 1 } }
        (p.faultRec = none → Goes (.next (tryEnd s)) fun t => replayed t ∧ t.threads = s.threads)
        ∧ ∀ va due, p.faultRec = some (va, due) → (s.thr p.tid).status = .running → (∀ x ∈ (s.thr p.tid).held, x.cause ≠ .lanefault) →
            Goes (.next (tryEnd s)) fun t => replayed t
              ∧ t.thr p.tid = { s.thr p.tid with held := (s.thr p.tid).held ++ [⟨.lanefault, BitVec.ofNat 64 va, due⟩] })
    ∧ (done → p.replay = false → (∀ k ∈ st.masks, ¬(k.2.1 = m * 16 + p.slot ∧ k.1 ≤ p.run.idx + 1)) →
        let prog := st.prog.set (m, p.slot) (p.run.idx + 1)
        let bound := pairs st
        let runs := st.runs.filter fun r => bound.any fun q => decide (prog.get q 0 ≤ r.idx)
        let ended : Prop := ∀ q ∈ bound, p.run.idx < prog.get q 0
        let after (t : State) (parked : List (Nat × Nat × Nat)) : Prop :=
          strOf t p.tid p.str = { st with
            prog := prog, runs := runs, parked := parked, checkStops := (strOf t p.tid p.str).checkStops
            cissue := (strOf t p.tid p.str).cissue }
          ∧ (∀ c ∈ st.cissue, c.1.1 ≠ refusedKey → c ∈ (strOf t p.tid p.str).cissue)
          ∧ (∀ n, n ≠ p.str → strOf t p.tid n = strOf s p.tid n)
        ((∀ e ∈ st.parked, e.1 ≠ p.run.idx) ∨ ¬ended → Goes (.next (tryEnd s)) fun t => frame t ∧ laneGrp t = h g ∧ after t st.parked
            ∧ t.thr p.tid = { s.thr p.tid with streams := (t.thr p.tid).streams })
        ∧ ∀ va due, st.parked = [(p.run.idx, va, due)] → ended → (s.thr p.tid).status = .running → (∀ x ∈ (s.thr p.tid).held, x.cause ≠ .lanefault) →
            Goes (.next (tryEnd s)) fun t => frame t ∧ laneGrp t = h g ∧ after t []
              ∧ t.thr p.tid = { s.thr p.tid with streams := (t.thr p.tid).streams, held := (s.thr p.tid).held ++ [⟨.lanefault, BitVec.ofNat 64 va, due⟩] })

/-- R375 to R377: LWAIT is held while its slot's phase is p, and then, once on each cluster, until the stream's earlier reads
there have returned; the sectors granted before the phase changed leave the L1. LARR on a lane-counted slot makes the group's
active lanes arrive, on an arrival-counted one counts one arrival of the member, where a bound group had an active lane. A
handle whose slot has been freed raises BARGEN. A lane-counted LARR behind an LFENCE with a release that the cluster has not
made arrives when it is made (the model's reading of R310, log 126); a lane that arrives again gives BAROVER and is no event.
That LWAIT's p is B's low 16 bits is the model's reading (log 31). -/
def Sys2Proof.Claims.LaneBarriers : Prop :=
  ∀ (x : LaneWord) (s : State),
    let act := activeMask s x
    let h := s.lane.word.ua.toNat % 2 ^ 32
    let p := s.lane.word.ub.toNat % 65536
    let key := (h / 2 ^ 16 % 16, h / 2 ^ 8 % 2 ^ 8)
    let kind := h / 2 ^ 6 % 4
    let b := barAt s s.lane.tid.fid key
    let c := (strOf s s.lane.tid s.lane.str).cissue.get (laneMember s, s.lane.word.seq) default
    let mark (u : State) : State := setCissue u { c with slots := c.slots ||| 2 ^ s.lane.slot, done := true }
    let gen (u : State) : State := raiseTrap u s.lane.tid .bargen (BitVec.ofNat 64 h) 0
    let drop (u : State) (t : Nat) : State := u.setClu s.lane.pid { u.clu s.lane.pid with l1 := (u.clu s.lane.pid).l1.map fun l => { l with
      sectors := l.sectors.filter fun y => (y.2.pending && !y.2.granted) || decide (t ≤ y.2.grant) } }
    let ends (u : State) (t : Nat) : Prop :=
      (acquireLane u = false → exec (.lwait x) s = holdWord u)
      ∧ (acquireLane u = true → exec (.lwait x) s = .next (issued (mark (drop u t)) x act true))
    (c.done = true → exec (.lwait x) s = .next (issued (mark s) x act true))
    ∧ (∀ t, c.done = false → c.acq = some t → ends s t)
    ∧ (c.done = false → c.acq = none →
        (handleLive s = false → exec (.lwait x) s = .next (issued (mark (gen s)) x act true))
        ∧ (handleLive s = true → b.phase = p → exec (.lwait x) s = holdWord s)
        ∧ (handleLive s = true → b.phase ≠ p → ends (setCissue s { c with acq := some b.t }) b.t))
    ∧ (kind = 1 → handleLive s = true → fenceOpen s s.lane.slot s.lane.word.seq = true → ∃ u,
        exec (.larr x) s = .next (issued u x act true) ∧ u = { s with threads := u.threads } ∧ (∀ k, k ≠ s.lane.tid → u.thr k = s.thr k)
        ∧ ∃ st : Stream, st = { strOf s s.lane.tid s.lane.str with owedArr := (strOf s s.lane.tid s.lane.str).owedArr
              ++ [(laneMember s, s.lane.slot, s.lane.word.seq, h, act)] }
          ∧ u.thr s.lane.tid = { s.thr s.lane.tid with streams := (s.thr s.lane.tid).streams.set s.lane.str st })
    ∧ (kind = 1 → handleLive s = true → fenceOpen s s.lane.slot s.lane.word.seq = false →
        exec (.larr x) s = .next (issued (addLanes s s.lane.tid h (laneMember s) s.lane.slot act) x act true))
    ∧ (kind = 1 → handleLive s = false → exec (.larr x) s = .next (issued (gen s) x act true))
    ∧ (kind ≠ 1 → ∃ f : CIssue → State × Bool, LaneOnce s (exec (.larr x) s) x f ∧ ∀ d,
        (handleLive s = false → f d = (gen s, true)) ∧ (d.active = false → handleLive s = true → f d = (s, true))
        ∧ (d.active = true → handleLive s = true →
            (∀ u, addArrivals s s.lane.tid.fid key 1 = some u → f d = (u, true))
            ∧ (addArrivals s s.lane.tid.fid key 1 = none →
                f d = (raiseTrap s s.lane.tid .barover (BitVec.ofNat 64 h) 0, true))))
    ∧ ∀ (t : Tid) (m slot lanes : Nat),
        let g := barAt s t.fid key
        let old := g.arrived.get (m, slot) 0
        let trap (u : State) : State := raiseTrap u t .barover (BitVec.ofNat 64 h) 0
        let event : State := barEvent (setBar s t.fid key { g with arrived := g.arrived.set (m, slot) (old ||| lanes) }) t.fid key
        (lanes = 0 ∨ (∀ e ∈ g.scope, e.1 = m → e.2.testBit slot = false) → addLanes s t h m slot lanes = s)
        ∧ (lanes ≠ 0 → (∃ e ∈ g.scope, e.1 = m ∧ e.2.testBit slot = true) →
            (old ||| lanes = old → addLanes s t h m slot lanes = trap s)
            ∧ (old ||| lanes ≠ old → addLanes s t h m slot lanes = if old &&& lanes = 0 then event else trap event))

/-- R40, R41, R43: the trailer closes the open run of the current stream and goes on after its doubleword; with no open
run it traps RUN, and with no current stream STREAM (which of the traps comes first is the model's choice, log 50). -/
def Sys2Proof.Claims.Trailers : Prop :=
  ∀ (x : LaneWord) (s : State), x.ok 0x380 = true → emitHeld s = false →
    let y := me s
    let w := encLane 0x380 x
    (curStream y = none → exec (.trl x) s = .next (Trapped s .stream w y.pc))
    ∧ ∀ n st, curStream y = some (n, st) →
      (st.openRun = [] → exec (.trl x) s = .next (Trapped s .run w y.pc))
      ∧ (st.openRun ≠ [] → Goes (exec (.trl x) s) fun t => OnlyThread s t s.cur ∧ SameMem s t
          ∧ me t = { y with pc := y.pc + 8, streams := (me t).streams, capture := y.capture.map fun c => (c.1, c.2 ++ [w]) }
          ∧ strOf t s.cur n = { st with
              nextRun := st.nextRun + 1, runs := st.runs ++ [⟨st.nextRun, st.openRun, w, st.openBorn⟩], openRun := [] }
          ∧ ∀ k, k ≠ n → strOf t s.cur k = strOf s s.cur k)

/-- R269 to R287: the temporal array. -/
def Sys2Proof.Claims.TemporalArray : Prop :=
  Sys2Proof.Claims.TaWords ∧ Sys2Proof.Claims.TaStarts ∧ Sys2Proof.Claims.TaEnds
/-- R269, R280, R282: windows and captures. -/
def Sys2Proof.Claims.TemporalValues : Prop := Sys2Proof.Claims.TaWindows ∧ Sys2Proof.Claims.TaCaptures
/-- R17, R40 to R43, R375 to R377, R414: runs, variable results, LWAIT, LARR and the trailer.
The model's own readings in it: logs 31, 32, 50, 57, 126. -/
def Obligations.RunsAndResults : Prop :=
  Sys2Proof.Claims.RunStarts ∧ Sys2Proof.Claims.RunEnds ∧ Sys2Proof.Claims.ResultsReturn ∧ Sys2Proof.Claims.ResultsLand
    ∧ Sys2Proof.Claims.CapturesLand ∧ Sys2Proof.Claims.LaneBarriers ∧ Sys2Proof.Claims.Trailers

/-! ## Threads: their end, boundary traps, debug stops and samples -/

/-- The temporal array: words, windows, captures, ends. -/
def Obligations.TemporalEngine : Prop :=
  Sys2Proof.Claims.TemporalArray ∧ Sys2Proof.Claims.TemporalValues

/-- The state after a thread takes a trap: its handler is entered, or it halts (R332). -/
def Sys2Proof.Claims.Enters (s : State) (t : Tid) (cause : Cause) (value resume : Word64) : State :=
  let x := s.thr t
  if x.intrap = true ∨ x.tvec.toNat / 4 = 0 then haltThread s t cause value resume
  else s.setThr t { x with
    tpc := resume, tcause := cause.code, tval := value, intrap := true, wait := none, popAt := none
    pc := BitVec.ofNat 64 (4 * (x.tvec.toNat / 4)) }

/-- R334, R360, R399: THREAD_END. A thread past its GEXIT ends once its words have retired, its accesses are performed, no
engine holds an entry of it, its votes are present, nothing is deferred and no trap is held: its streams are unbound, and what
their accesses left in their horizons joins its own; any other stays as it is. That it does not wait for a register that is
still outstanding is the model's choice (log 91). -/
def Sys2Proof.Claims.ThreadEnds : Prop :=
  ∀ (fid clu t : Nat) (s : State),
    let tid : Tid := ⟨fid, clu, t⟩
    let x := s.thr tid
    let mine (y : Tid) : Prop := y = tid
    let busy : Prop := ∃ e ∈ s.clusters, (∃ q ∈ e.2.cq, ∃ y ∈ q.2.ents, mine y.tid) ∨ (∃ y ∈ e.2.mq, mine y.tid)
      ∨ (∃ y ∈ e.2.array, mine y.tid) ∨ ∃ y ∈ e.2.ta.ents, mine y.tid
    let done : Prop := x.status = .exited ∧ (s.flk fid).resident = true ∧ (∀ e ∈ x.streams, drained e.2 = true) ∧ (∀ o ∈ s.ops, ¬mine o.tid)
      ∧ ¬busy ∧ (∀ v ∈ x.votes, v.present = true) ∧ x.deferred = [] ∧ x.held = []
    (done → ∃ h : Horizon, exec (.threadEnd fid clu t) s = .next (s.setThr tid { x with status := .ended, streams := [], current := none, hor := h })
      ∧ ∀ n, (h.pkg ≤ n ↔ x.hor.pkg ≤ n ∧ ∀ k ∈ x.streams, ∀ e ∈ k.2.hor, e.2.pkg ≤ n)
        ∧ (h.acq ≤ n ↔ x.hor.acq ≤ n ∧ ∀ k ∈ x.streams, ∀ e ∈ k.2.hor, e.2.acq ≤ n))
    ∧ (¬done → exec (.threadEnd fid clu t) s = .next s)

/-- R423, R429: BOUNDARY_TRAP, for a thread that can go on and is at a boundary where no stop is due. With INTRAP 0 its
oldest held trap is taken, the resume address its PC, once DT has passed the stores of its record and the
thread's own reads have returned, with the acquire of R310 on every cluster where it and its streams perform; in every
other case nothing happens. That a thread whose instruction waits is at no
boundary, and that a merged trap waits for the latest of its records, are the model's readings (logs 34 and 120). -/
def Sys2Proof.Claims.BoundaryTraps : Prop :=
  ∀ (fid clu t : Nat) (s : State),
    let tid : Tid := ⟨fid, clu, t⟩
    let x := s.thr tid
    let i : Instr := .boundaryTrap fid clu t
    let runs : Prop := (s.flk fid).resident = true ∧ x.status = .running ∧ x.stopped = none ∧ (s.die (s.pidOf fid clu / 64)).tripped = false
      ∧ x.wait = none ∧ x.hostOp = none ∧ (s.flk fid).preReq = false
    let quiet : Prop := x.stopNext = none ∧ x.stopReq = false ∧ ∀ k, k < 4 →
      (s.ctx (s.flk fid).ctx).bps.getD k 0 = 0 ∨ (s.ctx (s.flk fid).ctx).bps.getD k 0 ≠ x.pc.toNat
    (¬runs → exec i s = .next s)
    ∧ (runs → quiet → x.held = [] ∨ x.intrap = true → exec i s = .next s)
    ∧ (runs → quiet → ∀ h hs, x.held = h :: hs → x.intrap = false →
        let v := s.setThr tid { x with held := hs, resumed := false }
        (h.after = 0 → exec i s = .next (Enters v tid h.cause h.tval x.pc))
        ∧ (h.after ≠ 0 → s.now / 1000 ≤ h.after → exec i s = .next s)
        ∧ (let back := ∀ o ∈ s.ops, o.tid = tid → o.str = none → readOwed o = false
           h.after ≠ 0 → h.after < s.now / 1000 → (¬back → exec i s = .next s)
           ∧ (back → exec i s = .next (Enters ((acquirePids v tid).foldl (fun u pid => l1Invalidate u pid (max x.hor.acq h.after)) v)
                tid h.cause h.tval x.pc))))

/-- R446, R447, R449: STOP asks the threads that DBGCTL names, RESUME lets every stopped thread go on; a thread at a
boundary stops for a shortfall anywhere, and for a request or a breakpoint at a safe point, once no register that the live mask
names is outstanding (the model's reading of R445, log 135). The watchdog of a context with a stopped thread does not count.
DBGDATA writes a register of a stopped thread, into which a result that is still to come no longer goes, and reads it; g0 reads
0. That DBGCTL's thread t is that thread of every resident flock, and that a RESUME comes before a STOP, are the model's readings
(logs 63 and 64). -/
def Sys2Proof.Claims.DebugStops : Prop :=
  (∀ (ctx : Nat) (s : State),
    let mine (u : Tid) : Prop := (∃ e ∈ s.threads, e.1 = u) ∧ (s.flk u.fid).ctx = ctx
    (Goes (exec (.stop ctx) s) fun t => t = { s with threads := t.threads } ∧ ∀ u,
      (mine u → (s.ctx ctx).dbgThreads.testBit u.t = true → (s.thr u).status ≠ .ended → t.thr u = { s.thr u with stopReq := true })
      ∧ (¬mine u ∨ (s.ctx ctx).dbgThreads.testBit u.t = false ∨ (s.thr u).status = .ended → t.thr u = s.thr u))
    ∧ ∃ t, exec (.dbgctlResume ctx) s = .next (watchSync t ctx) ∧ t = { s with threads := t.threads } ∧ ∀ u, (mine u → (s.thr u).stopped ≠ none → t.thr u = { s.thr u with stopped := none, resumed := true })
        ∧ (¬mine u ∨ (s.thr u).stopped = none → t.thr u = s.thr u))
  ∧ (∀ (fid clu t : Nat) (s : State),
    let tid : Tid := ⟨fid, clu, t⟩
    let x := s.thr tid
    let c := s.ctx (s.flk fid).ctx
    let stop : Instr := .debugStop fid clu t
    let check : Instr := .checkScoreboardStop fid clu t
    let runs : Prop := (s.flk fid).resident = true ∧ x.status = .running ∧ x.stopped = none ∧ (s.die (s.pidOf fid clu / 64)).tripped = false
      ∧ x.wait = none ∧ x.hostOp = none
    let hit (k : Nat) : Prop := k < 4 ∧ c.bps.getD k 0 ≠ 0 ∧ c.bps.getD k 0 = x.pc.toNat
    (¬runs → exec stop s = .next s ∧ exec check s = .next s)
    ∧ (runs → ∀ q, x.stopNext = some q → exec stop s = .next s
        ∧ exec check s = .next (watchSync (s.setThr tid { x with stopped := some ⟨3, 0, q % 2 ^ 32⟩, stopNext := none }) (s.ctxOf tid)))
    ∧ (runs → x.stopNext = none → x.resumed = true ∨ (x.stopReq = false ∧ ∀ k, ¬hit k) → exec stop s = .next s ∧ exec check s = .next s)
    ∧ (runs → x.stopNext = none → x.resumed = false → x.stopReq = true ∨ (∃ k, hit k) → ∀ u r, safeAt s tid = (u, r) →
        exec check s = .next u
        ∧ (r = none → exec stop s = .next u)
        ∧ (r ≠ none → u.thr tid = x →
          let owed : Prop := ∃ o ∈ x.out, o.reg ≠ 0 ∧ liveAt u tid x.pc.toNat o.reg = true
          (owed → exec stop s = .next u)
          ∧ (¬owed → x.stopReq = true →
              exec stop s = .next (watchSync (u.setThr tid { x with stopped := some ⟨1, 0, 0⟩, stopReq := false }) (u.ctxOf tid)))
          ∧ (¬owed → x.stopReq = false → ∃ k, hit k ∧ (∀ j, j < k → ¬hit j)
              ∧ exec stop s = .next (watchSync (u.setThr tid { x with stopped := some ⟨2, k, 0⟩ }) (u.ctxOf tid))))))
  ∧ ∀ (ctx : Nat) (v : BitVec 64) (s : State),
    let c := s.ctx ctx
    let named (u : Tid) : Prop := (s.flk u.fid).resident = true ∧ (s.flk u.fid).ctx = ctx ∧ s.pidOf u.fid u.clu = c.dbgClu ∧ u.t = c.dbgThread
    ((∀ e ∈ s.threads, ¬named e.1) → exec (.dbgdataWrite ctx v) s = .next s)
    ∧ ∀ u x, s.threads.filter (fun e => (s.flk e.1.fid).resident && decide ((s.flk e.1.fid).ctx = ctx)
          && decide (s.pidOf e.1.fid e.1.clu = c.dbgClu) && decide (e.1.t = c.dbgThread)) = [(u, x)] → s.thr u = x →
        (x.stopped = none ∨ c.dbgKind ≠ 0 → exec (.dbgdataWrite ctx v) s = .next s)
        ∧ (x.stopped ≠ none → c.dbgKind = 0 → Goes (exec (.dbgdataWrite ctx v) s) fun t =>
            t = s.setThr u { x with g := (t.thr u).g, out := x.out.map fun o => if o.reg = c.dbgReg then { o with reg := 0 } else o }
            ∧ ∀ r, (t.thr u).gr r = if r = c.dbgReg ∧ r ≠ 0 then v else x.gr r)
        ∧ (x.stopped ≠ none → c.dbgKind = 0 →
            (c.dbgReg = 0 → dbgdata s ctx = 0)
            ∧ (liveAt s u x.pc.toNat c.dbgReg = true → (∀ o ∈ x.out, o.reg ≠ c.dbgReg) → dbgdata s ctx = x.gr c.dbgReg))
        ∧ (c.dbgKind = 1 → dbgdata s ctx = x.pc)

/-- R383, R447: the watchdog of a context may count while the context has a resident flock and none of its threads is stopped;
it pauses as that ends, and goes on with the count that it had, or from progress that was made meanwhile. -/
def Sys2Proof.Claims.WatchdogPauses : Prop :=
  ∀ (ctx : Nat) (s : State),
    let c := s.ctx ctx
    let counts : Prop := (∃ f ∈ s.flocks, f.2.ctx = ctx ∧ f.2.resident = true)
      ∧ ∀ e ∈ s.threads, (s.flk e.1.fid).ctx = ctx → e.2.stopped = none
    (∀ t, counts → c.wdPause = some t →
        watchSync s ctx = s.setCtx ctx { c with wdLast := s.now - (t - c.wdLast), wdPause := none })
    ∧ (¬counts → c.wdPause = none → watchSync s ctx = s.setCtx ctx { c with wdPause := some s.now })
    ∧ (counts → c.wdPause = none → watchSync s ctx = s.setCtx ctx c) ∧ (¬counts → c.wdPause ≠ none → watchSync s ctx = s.setCtx ctx c)

/-- R444: the reason of a thread that has not issued. One that is stopped or has halted gives 1; one that waits inside an
instruction, whose registers are not outstanding, gives the code of that instruction. -/
def Sys2Proof.Claims.SampleReasons : Prop :=
  ∀ (s : State) (t : Tid),
    let x := s.thr t
    let u : State := { s with cur := t }
    (x.stopped ≠ none ∨ x.status = .halted → sampleReason s t = 1)
    ∧ (x.stopped = none → x.status = .exited → sampleReason s t = 13)
    ∧ (x.stopped = none → x.status = .running → x.wait ≠ none → ∀ (v : State) (i : Instr), fetchInstr u = (v, .ok i) →
        (scoreboardHolds x i = true ∨ playHeld u i = true → sampleReason s t = 4)
        ∧ (scoreboardHolds x i = false → playHeld u i = false →
          (∀ w, i = .laneWordEmit w → sampleReason s t = 2)
          ∧ (∀ a b, i = .reelPlay a b → sampleReason s t = 5)
          ∧ (∀ a b c d, i = .barWait a b c d → sampleReason s t = 6)
          ∧ (∀ a b c d e, i = .stagePut a b c d e → sampleReason s t = 7) ∧ (∀ a b c d e, i = .stageTake a b c d e → sampleReason s t = 7)
          ∧ (∀ a b c, i = .fence a b c → sampleReason s t = 8) ∧ (∀ a b c d e, i = .gatom a b c d e → sampleReason s t = 8)
          ∧ (∀ a, i = .reelShut a → sampleReason s t = 9) ∧ (∀ a b, i = .reelDrop a b → sampleReason s t = 9)
          ∧ (∀ a b, i = .strFree a b → sampleReason s t = 9) ∧ (∀ a b c d, i = .icinv a b c d → sampleReason s t = 9)
          ∧ (∀ a b c d, i = .unpark a b c d → sampleReason s t = 9)
          ∧ (∀ a b c d e f, i = .pinSet a b c d e f → sampleReason s t = 10) ∧ (∀ a b c, i = .pinClr a b c → sampleReason s t = 10)
          ∧ (∀ a b c, i = .pft a b c → sampleReason s t = 10) ∧ (∀ a b c d, i = .pftLong a b c d → sampleReason s t = 10)
          ∧ (∀ a b c d, i = .launch a b c d → sampleReason s t = 10)))

/-- R442, R443: SAMPCTL and samples. An interval of 1 to 255 becomes 256. A cluster with a resident flock of a context
that samples, INTERVAL cycles after the last one, writes 16 bytes for one of its threads, and the head advances. A clock that
changes within an interval is counted at its present rate (the model's reading, log 122). -/
def Sys2Proof.Claims.Samples : Prop :=
  (∀ (ctx : Nat) (v : BitVec 64) (s : State), Goes (exec (.sampctlWrite ctx v) s) fun t =>
    let n := v.toNat % 2 ^ 32
    t = s.setCtx ctx { s.ctx ctx with sampIv := if n = 0 then 0 else max 256 n, sampLast := (t.ctx ctx).sampLast }
    ∧ ∀ p, (∃ f ∈ s.flocks, f.2.ctx = ctx ∧ f.2.resident = true ∧ p ∈ f.2.clus) → (t.ctx ctx).sampLast.get p 0 = s.now)
  ∧ ∀ (pid : Nat) (s : State),
    ((∀ f ∈ s.flocks, f.2.resident = false ∨ pid ∉ f.2.clus) → exec (.sampleRecord pid) s = .next s)
    ∧ ∀ fid f, s.flocks = [(fid, f)] → f.resident = true → pid ∈ f.clus →
      let c := s.ctx f.ctx
      let due : Prop := c.sampIv ≠ 0 ∧ c.sampIv ≤ (s.now - c.sampLast.get pid 0) * cluMHz s pid / 1000000
      (¬due → exec (.sampleRecord pid) s = .next s)
      ∧ (due → ∀ u x, s.threads = [(u, x)] → u.fid = fid → s.pidOf fid u.clu = pid → x.status ≠ .ended →
          let issues : Prop := x.ran = true ∧ x.lastIssue * cluMHz s pid / 1000000 = s.now * cluMHz s pid / 1000000
          ∃ (reason : Nat) (v : State), (issues → reason = 0)
          ∧ (¬issues → reason ≠ 0 ∧ ∃ w, w = { s with ctxs := w.ctxs } ∧ reason = sampleReason w u)
          ∧ v = { s with ctxs := v.ctxs, clusters := v.clusters } ∧ (v.ctx f.ctx).sampHead = c.sampHead + 1
          ∧ (v.ctx f.ctx).sampLast.get pid 0 = s.now
          ∧ ∃ flag, (issues → flag = 128) ∧ (¬issues → flag = 0)
            ∧ exec (.sampleRecord pid) s = .next (recStore v f.ctx pid (c.sampBase * 4096 + 16 * (c.sampHead % 2 ^ (c.sampLog2 + 8)))
                (leBytes 4 x.ord ++ leBytes 1 (flag + u.t) ++ leBytes 1 reason ++ leBytes 2 pid ++ leBytes 8 (s.now / 1000))).1)

/-- R334, R423, R429: threads end, and boundary traps. -/
def Sys2Proof.Claims.ThreadBoundaries : Prop := Sys2Proof.Claims.ThreadEnds ∧ Sys2Proof.Claims.BoundaryTraps
/-- R442 to R449: debug stops and samples. -/
def Sys2Proof.Claims.DebugAndSamples : Prop :=
  Sys2Proof.Claims.DebugStops ∧ Sys2Proof.Claims.WatchdogPauses ∧ Sys2Proof.Claims.Samples ∧ Sys2Proof.Claims.SampleReasons

/-! ## Placement, ageing, the end of flocks, the watchdog, pre-emption -/

/-- Thread ends, boundary traps, debug stops and samples.
The model's own readings in it: logs 34, 63, 64, 91, 120, 122, 135. -/
def Obligations.ThreadStops : Prop :=
  Sys2Proof.Claims.ThreadBoundaries ∧ Sys2Proof.Claims.DebugAndSamples

/-- What may follow of a placement for the rest of the machine: every other thread and flock is as before. -/
def Sys2Proof.Claims.OthersStay (s t : State) (fid : Nat) : Prop :=
  (∀ u : Tid, u.fid ≠ fid → t.thr u = s.thr u) ∧ ∀ f, f ≠ fid → t.flk f = s.flk f

/-- R394, R396: the set that a flock is placed on. It has FLOCK clusters of one die in the mask, each of which fits and
is not barred (R401); no other such set does better on coverage, spread, compactness and heat, in this order, and none
that does as well has a smaller list. -/
def Sys2Proof.Claims.ChosenSet : Prop :=
  ∀ (s : State) (w : Want) (ps : List Nat), w.rcd.mask.Pairwise (· < ·) →
    let may (qs : List Nat) : Prop := qs.length = w.rcd.flock ∧ qs.Pairwise (· < ·)
      ∧ ∃ d, d < 8 ∧ ∀ p ∈ qs, p / 64 = d ∧ p ∈ w.rcd.mask ∧ fits s [] [] w.rcd p = true ∧ barred s w p = false
    let sum (f : Nat → Nat) (l : List Nat) : Nat := (l.map f).sum
    let quads (qs : List Nat) : List Nat := (qs.map (· / 4)).dedup
    let load (q : Nat) : Nat := sum (fun n => n) ((s.flocks.filter fun e => e.2.resident).map fun e =>
      e.2.rcd.tokRate * (e.2.clus.filter fun p => decide (p / 4 = q)).length)
    let covers (qs : List Nat) : Bool := (quads qs).all fun q =>
      decide ((load q + w.rcd.tokRate * (qs.filter fun p => decide (p / 4 = q)).length) * classMHz (s.quad q).f * 16
        ≤ injection s (q / 16) * 2700)
    let rank (qs : List Nat) : List Nat := [if covers qs then 0 else 1, sum (fun p => (residents s p).length) qs,
      (quads qs).length, (quads qs).foldl (fun acc q => max acc (s.quad q).temp) 0]
    (chooseSet s w = none ↔ ∀ qs, ¬may qs)
    ∧ (chooseSet s w = some ps → may ps ∧ ∀ qs, may qs → rank ps < rank qs ∨ (rank ps = rank qs ∧ ps ≤ qs))

/-- R394: what a cluster must have free, and which flocks it may already hold; R406: the quad runs the class and heads
for no other. -/
def Sys2Proof.Claims.FittingCluster : Prop :=
  ∀ (s : State) (r : Record) (pid : Nat),
    let there := s.flocks.filter fun e => e.2.resident && e.2.clus.contains pid
    let sum (f : Record → Nat) : Nat := (there.map fun e => f e.2.rcd).sum
    let q := s.quad (pid / 4)
    let threads (r : Record) : Nat := (r.threads.filter (·.1)).length
    let units (r : Record) : Nat := r.stash + r.scratch + 16 * r.acc
    fits s [] [] r pid = true ↔
      q.f = r.cls ∧ q.t = r.cls ∧ q.stepAt = none ∧ (∀ e ∈ there, e.2.ctx = r.ctx ∧ e.2.rcd.wplane = r.wplane)
      ∧ sum (·.groups) + r.groups ≤ 16 ∧ sum threads + threads r ≤ 8 ∧ sum units + units r ≤ 384
      ∧ sum (·.bars) + r.bars ≤ 256 ∧ sum (·.reelShare) + r.reelShare ≤ 16

/-- R400: heads are tried in descending PRIO, and within a level in ascending queue number from the one after the queue
of the level's latest placement, wrapping round; R402: a pre-empted flock asks ahead of its queue's head. -/
def Sys2Proof.Claims.TryOrder : Prop :=
  ∀ (s : State),
    let far (w : Want) : Nat := (w.queue + 131072 - (s.pkg.levelStart.get w.rcd.prio 131071 + 1) % 131072) % 131072
    (wants s).Pairwise (fun v w => w.rcd.prio < v.rcd.prio ∨ (v.rcd.prio = w.rcd.prio ∧ far v ≤ far w))
    ∧ ∀ q k, (q, k) ∈ s.queues → s.que q = k →
      ((∀ e ∈ s.flocks, e.2.queue ≠ q ∨ e.2.resident = true ∨ e.2.ended = true) → ∀ r, k.head = some r → r.prio < 24 →
        (⟨q, r, k.placed, none⟩ : Want) ∈ wants s)
      ∧ ∀ fid f, (s.flocks.filter fun e => decide (e.2.queue = q) && !e.2.resident && !e.2.ended) = [(fid, f)] → f.rcd.prio < 24 →
        (⟨q, f.rcd, f.grid, some fid⟩ : Want) ∈ wants s ∧ ∀ w ∈ wants s, w.queue = q → w.fid = some fid

/-- R395, R397, R398, R400: one placement, of the first flock that is tried. A new flock has its clusters, threads,
start registers and roles; the queue goes on to the next flock in grid order, or the record leaves the head. A
pre-empted flock is resident again, with the registers and the program counters it had. -/
def Sys2Proof.Claims.PlacementActs : Prop :=
  ∀ (s : State),
    let step := exec .placementStep s
    (s.pkg.stage = 0 ∨ wants s = [] → step = .next s)
    ∧ (s.pkg.stage ≠ 0 → ∀ w ws ps, wants s = w :: ws → chooseSet s w = some ps →
      (w.fid = none → Goes step fun t =>
        let fid := s.nextId + 1
        let f := t.flk fid
        let k := s.que w.queue
        t.nextId = fid ∧ OthersStay s t fid
        ∧ f.ctx = w.rcd.ctx ∧ f.queue = w.queue ∧ f.rcd = w.rcd ∧ f.grid = w.grid ∧ f.clus = ps ∧ f.resident = true ∧ f.ended = false
        ∧ f.preReq = false ∧ f.bars = [] ∧ f.slots.length = ps.length
        ∧ t.pkg.levelStart.get w.rcd.prio 131071 = w.queue
        ∧ t.que w.queue = (if k.placed + 1 < w.rcd.gx * w.rcd.gy * w.rcd.gz then { k with placed := k.placed + 1 }
            else { k with head := none, placed := 0, blockedAt := none, age := 0, barred := false })
        ∧ (∀ q, q ≠ w.queue → t.que q = s.que q)
        ∧ ∀ c n role off, c < ps.length → n < 8 → w.rcd.threads[n]? = some (true, role, off) →
          let x := t.thr ⟨fid, c, n⟩
          x.pc = BitVec.ofNat 64 (w.rcd.image + off) ∧ x.status = .running ∧ x.intrap = false ∧ x.streams = [] ∧ x.votes = [] ∧ x.wait = none
          ∧ x.role = (if role = 0 then .copy else if role = 1 then .matrix else .vector)
          ∧ (∀ j, j < 15 → x.gr (j + 1) = w.rcd.args.getD j 0)
          ∧ x.gr 16 = BitVec.ofNat 64 (w.grid % w.rcd.gx + w.grid / w.rcd.gx % w.rcd.gy * 2 ^ 16 + w.grid / (w.rcd.gx * w.rcd.gy) * 2 ^ 32)
          ∧ x.gr 17 = BitVec.ofNat 64 w.rcd.num ∧ ∀ j, 17 < j → x.gr j = 0)
      ∧ (∀ fid, w.fid = some fid → Goes step fun t =>
        let f := t.flk fid
        t.nextId = s.nextId ∧ OthersStay s t fid
        ∧ f.ctx = (s.flk fid).ctx ∧ f.grid = (s.flk fid).grid ∧ f.rcd = (s.flk fid).rcd ∧ f.clus = ps ∧ f.resident = true
        ∧ f.preReq = false ∧ f.image = none ∧ f.bars = (s.flk fid).bars
        ∧ (∀ e ∈ (t.ctx w.rcd.ctx).imgHeld, e.2 ≠ fid)
        ∧ (∀ q, t.que q = s.que q)
        ∧ ∀ u : Tid, u.fid = fid →
          let x := s.thr u
          let y := t.thr u
          y.pc = x.pc ∧ y.g = x.g ∧ y.tpc = x.tpc ∧ y.tcause = x.tcause ∧ y.tval = x.tval ∧ y.intrap = x.intrap ∧ y.tvec = x.tvec
            ∧ y.role = x.role ∧ y.status = x.status ∧ y.held = x.held ∧ y.hor = x.hor ∧ y.votes = x.votes ∧ y.deferred = x.deferred))

/-- R396, R401, R402: a head that no set fits is blocked from its first such step on. Idle quads of its mask may be
reassigned to its class; below level 16 it stops no flock, and above it stops flocks of a strictly lower level only. -/
def Sys2Proof.Claims.BlockedHead : Prop :=
  ∀ (s : State) (w : Want), s.pkg.stage ≠ 0 → wants s = [w] → chooseSet s w = none →
    Goes (exec .placementStep s) fun t =>
      t = { s with queues := t.queues, quads := t.quads, flocks := t.flocks }
      ∧ (∀ q, q ≠ w.queue → t.que q = s.que q)
      ∧ t.que w.queue = { s.que w.queue with
          blockedAt := if (s.que w.queue).head = none then (s.que w.queue).blockedAt
            else some ((s.que w.queue).blockedAt.getD (s.now / 1000)) }
      ∧ (∀ q, t.quad q = s.quad q
        ∨ ((t.quad q).t = w.rcd.cls ∧ (s.quad q).t ≠ w.rcd.cls ∧ (s.die (q / 16)).safe = false ∧ (∃ p ∈ w.rcd.mask, p / 4 = q)
          ∧ ∀ f ∈ s.flocks, f.2.resident = true → ∀ p ∈ f.2.clus, p / 4 ≠ q))
      ∧ (w.rcd.prio < 16 ∨ t.quads ≠ s.quads → t.flocks = s.flocks)
      ∧ ∀ f, t.flk f = s.flk f ∨ (t.flk f = { s.flk f with preReq := true } ∧ ∃ e ∈ s.flocks, e.1 = f ∧ e.2.resident = true ∧ e.2.rcd.prio < w.rcd.prio)

/-- R401: at each multiple of 1000 ns of DT the age of a blocked head grows by 1, and nothing else changes. A head of another
queue, at the level of a flock or above, whose age has reached its level's limit bars the clusters of its region to the flock;
what has reached its limit is noted before a limit changes, so that the bar holds until the record leaves the head. -/
def Sys2Proof.Claims.HeadsAge : Prop :=
  (∀ (s : State) (w : Want) (pid : Nat), barred s w pid = true ↔ ∃ q k r, (q, k) ∈ s.queues ∧ q ≠ w.queue ∧ k.head = some r
      ∧ w.rcd.prio ≤ r.prio ∧ inRegion s r pid = true
      ∧ let lim := s.pkg.agelim.get r.prio 1000
        (k.barred = true ∨ lim ≠ 0 ∧ lim ≤ (match k.blockedAt with
          | some t => s.now / 1000 / 1000 - t / 1000
          | none => k.age)))
  ∧ (∀ (s : State) (q : Nat) (k : Queue), s.queues.find q = some k → ∃ b, (noteAged s).queues.find q = some { k with barred := b }
      ∧ (b = true ↔ ∃ r, k.head = some r ∧ k.aged s r = true))
  ∧ ∀ (s : State),
    let m := s.now / 1000 / 1000
    (m ≤ s.pkg.lastAge → exec .headAgeTick s = .next s)
    ∧ (s.pkg.lastAge < m → Goes (exec .headAgeTick s) fun t =>
      t = { s with queues := t.queues, pkg := { s.pkg with lastAge := m } }
      ∧ ∀ q, (∀ b, (s.que q).blockedAt = some b → t.que q = { s.que q with age := m - b / 1000 })
        ∧ ((s.que q).blockedAt = none → t.que q = s.que q))

/-- R399: a flock ends when its threads have ended, its entries have retired and its end effects are complete; then it
holds no threads, no barrier slots and no stash entries, and its lane slots are free; its lane registers stand until they are
taken again (R197). -/
def Sys2Proof.Claims.FlockEnds : Prop :=
  ∀ (fid : Nat) (s : State),
    let mine (t : Tid) : Prop := t.fid = fid
    let idle : Prop := (∀ e ∈ s.threads, mine e.1 → e.2.status = .ended) ∧ (∀ o ∈ s.ops, ¬mine o.tid)
      ∧ ∀ e ∈ s.clusters, (∀ q ∈ e.2.cq, ∀ x ∈ q.2.ents, ¬mine x.tid) ∧ (∀ x ∈ e.2.mq, ¬mine x.tid) ∧ (∀ x ∈ e.2.array, ¬mine x.tid)
        ∧ (∀ x ∈ e.2.ta.ents, ¬mine x.tid) ∧ (∀ x ∈ e.2.pipes, ¬mine x.2.tid) ∧ ∀ x ∈ e.2.pft, ¬mine x.tid
    let passed (h : Horizon) : Prop := h.pkg = 0 ∨ h.pkg < s.now / 1000
    let released : Prop := ∀ e ∈ s.threads, mine e.1 → passed e.2.hor ∧ ∀ k ∈ e.2.streams, ∀ h ∈ k.2.hor, passed h.2
    let clean : Prop := (∀ p ∈ (s.flk fid).clus, (∀ e ∈ (s.clu p).stash, e.fid ≠ fid) ∧ ∀ l ∈ (s.clu p).l1, l.uo = none)
      ∧ ∀ w ∈ (s.ctx (s.flk fid).ctx).windows, w.fid ≠ fid
    let free (t : State) : Prop := (t.flk fid).ended = true ∧ (t.flk fid).resident = false
      ∧ (∀ e ∈ t.threads, ¬mine e.1) ∧ ∀ b ∈ (t.flk fid).bars, b.2.used = false
    ((s.flk fid).resident = false ∨ ¬idle → exec (.flockEnd fid) s = .next s)
    ∧ ((s.flk fid).resident = true → idle → Goes (exec (.flockEnd fid) s) fun t =>
      OthersStay s t fid ∧ t.groups = s.groups
      ∧ (∀ p ∈ (s.flk fid).clus, ∀ e ∈ (t.clu p).stash, e.fid ≠ fid)
      ∧ (free t ∨ t.flk fid = s.flk fid)
      ∧ (clean → released → free t) ∧ (clean → ¬released → t.flk fid = s.flk fid))

/-- R383: a context that has a resident flock, no stopped thread and no progress for LIMIT ring cycles is reported once
and its counter starts anew: IDLE-EXT with the waiters that are not on EXT barriers, or DEADLOCK. Its waiters are its running
threads, the streams that LWAIT holds and the other runs on its pipes. -/
def Sys2Proof.Claims.WatchdogReports : Prop :=
  ∀ (ctx : Nat) (s : State),
    let c := s.ctx ctx
    let due : Prop := c.wdLimit ≠ 0 ∧ (∀ e ∈ s.threads, (s.flk e.1.fid).ctx = ctx → e.2.stopped = none)
      ∧ (∃ f ∈ s.flocks, f.2.ctx = ctx ∧ f.2.resident = true) ∧ c.wdLimit ≤ (s.now - c.wdLast) * 2700 / 1000000
    let sent (d : Ctx) : State :=
      let t := s.setCtx ctx d
      if c.msix = 0 then t else { t with pkg := { t.pkg with msix := t.pkg.msix ++ [(c.msix, s.now / 1000)] } }
    let ws := threadWaiters s ctx ++ streamWaiters s ctx ++ pipeWaiters s ctx
    (¬due → exec (.watchdogReport ctx) s = .next s)
    ∧ (due → (∀ b ∈ ws, b = false) → exec (.watchdogReport ctx) s = .next (sent { c with wdLast := s.now, evt := c.evt ||| 2 }))
    ∧ (due → true ∈ ws → (ws.count false) < 2 ^ 32 →
        exec (.watchdogReport ctx) s = .next (sent { c with wdLast := s.now, waiters := ws.count false, evt := c.evt ||| 4 }))

/-- R355, R359, R402, R432, R435 to R438: CTXCTL.PREEMPT asks every resident flock of the context to stop. A flock that was
asked, whose units have stopped, is saved in the lowest free image slot and leaves its clusters; nothing of what its threads
hold is lost, but a thread that waits at a VQ.POP goes back to it. -/
def Sys2Proof.Claims.PreemptionActs : Prop :=
  (∀ (ctx : Nat) (s : State), Goes (exec (.preempt ctx) s) fun t => t = { s with flocks := t.flocks }
    ∧ ∀ f, t.flk f = if (s.flk f).ctx = ctx ∧ (s.flk f).resident = true then { s.flk f with preReq := true } else s.flk f)
  ∧ ∀ (fid : Nat) (s : State),
    let f := s.flk fid
    let c := s.ctx f.ctx
    let free (k : Nat) : Prop := k < c.imgSlots ∧ ∀ e ∈ c.imgHeld, e.1 ≠ k
    (f.resident = false ∨ f.preReq = false ∨ flockHalted s fid = false ∨ (∀ k, ¬free k) → exec (.preemptionHalt fid) s = .next s)
    ∧ (f.resident = true → f.preReq = true → flockHalted s fid = true → ∀ k, free k → (∀ j, j < k → ¬free j) →
      Goes (exec (.preemptionHalt fid) s) fun t =>
        OthersStay s t fid ∧ (t.ctx f.ctx).imgHeld = c.imgHeld ++ [(k, fid)]
        ∧ t.flk fid = { f with resident := false, preReq := false, saved := (t.flk fid).saved, windows := (t.flk fid).windows, ops := (t.flk fid).ops, image := some k }
        ∧ (∀ p ∈ f.clus, (∀ e ∈ (t.clu p).stash, e.fid ≠ fid) ∧ (∀ e ∈ (t.clu p).mq, e.tid.fid ≠ fid) ∧ ∀ e ∈ (t.clu p).pipes, e.2.tid.fid ≠ fid)
        ∧ (∀ o ∈ t.ops, o.tid.fid ≠ fid)
        ∧ ∀ u : Tid, u.fid = fid →
          let x := s.thr u
          let y := t.thr u
          y = { x with wait := y.wait, out := y.out, votes := y.votes, pc := y.pc, popAt := none }
          ∧ (∀ a, x.popAt = some a → y.pc = a)
          ∧ (x.popAt = none → y.pc = x.pc ∧ y.votes = x.votes
            ∧ ((∀ e ∈ s.threads, e.1 = u → e.2 = x) → (∀ o ∈ x.out, ∀ a b c d e f, o.pend ≠ .uni a b c d e f) → y.out = x.out)))

/-- R432: CLEAR ends every halted thread of the context. An open run of such a thread is closed by a trailer that names
no register, and a copy queue that its fault halted is aborted, one of a pre-empted flock too. -/
def Sys2Proof.Claims.ClearActs : Prop :=
  ∀ (ctx : Nat) (s : State),
    let mine (u : Tid) : Prop := ∃ e ∈ s.threads, e.1 = u ∧ e.2.status = .halted ∧ (s.flk u.fid).ctx = ctx
    let gone (x : Thread) : Thread := { x with status := .exited, held := [], capture := none, wait := none, hostOp := none }
    let calm : Prop := ∀ e ∈ s.clusters, ∀ q, q < 4 → (copyQ s e.1 q).halted = false
    let calmSaved : Prop := ∀ f ∈ s.flocks, ∀ v ∈ f.2.saved, ∀ q ∈ v.cq, q.2.halted = false
    (calm → calmSaved →
      Goes (exec (.clear ctx) s) fun t => t = { s with threads := t.threads }
        ∧ ∀ u, (¬mine u → t.thr u = s.thr u)
          ∧ (mine u → t.thr u = { gone (s.thr u) with streams := (t.thr u).streams })
          ∧ (mine u → (∀ e ∈ (s.thr u).streams, e.2.openRun = []) → (t.thr u).streams = (s.thr u).streams)
          ∧ (mine u → s.threads = [(u, s.thr u)] → ∀ n st, (s.thr u).streams = [(n, st)] → st.openRun ≠ [] →
            (t.thr u).streams = [(n, { st with
              nextRun := st.nextRun + 1
              runs := st.runs ++ [⟨st.nextRun, st.openRun, 0xF800_0000_0006_0000, st.openBorn⟩]
              openRun := [] })]))
    ∧ (∀ u x fid f v q e es, s.threads = [(u, x)] → x.status = .halted → u.fid = fid → f.ctx = ctx → x.streams = [] → calm →
        s.flocks = [(fid, f)] → f.saved = [v] → v.cq = [(q, ⟨e :: es, true⟩)] → e.tid = u →
        exec (.clear ctx) s = .next { s with threads := [(u, gone x)], flocks := [(fid, { f with saved := [{ v with cq := [(q, ⟨[], false⟩)] }] })] })
    ∧ ∀ u x pid c q e es, s.threads = [(u, x)] → x.status = .halted → (s.flk u.fid).ctx = ctx → x.streams = [] → calmSaved → s.clusters = [(pid, c)] →
        q < 4 → (copyQ s pid q).halted = true → (copyQ s pid q).ents = e :: es → e.tid = u →
        (∀ r, r < 4 → r ≠ q → (copyQ s pid r).halted = false) →
        exec (.clear ctx) s = exec (.cqctlAbort pid q) { s with threads := [(u, gone x)] }

/-- R394, R396, R400: what fits, which set is chosen, and in which order heads are tried. -/
def Sys2Proof.Claims.PlacementChoice : Prop := Sys2Proof.Claims.ChosenSet ∧ Sys2Proof.Claims.FittingCluster ∧ Sys2Proof.Claims.TryOrder
/-- R395 to R397, R401, R402: placement, resume, blocked heads and ageing. -/
def Sys2Proof.Claims.PlacementSteps : Prop := Sys2Proof.Claims.PlacementActs ∧ Sys2Proof.Claims.BlockedHead ∧ Sys2Proof.Claims.HeadsAge
/-- R383, R399, R432, R435 to R438: the end of a flock, the watchdog, CLEAR and pre-emption. -/
def Obligations.FlocksEndAndStop : Prop :=
  Sys2Proof.Claims.FlockEnds ∧ Sys2Proof.Claims.WatchdogReports ∧ Sys2Proof.Claims.PreemptionActs ∧ Sys2Proof.Claims.ClearActs

/-! ## Bring-up, contexts and the register pages of the host -/

/-- The choice of clusters, placements, blocked heads and ageing. -/
def Obligations.Placement : Prop :=
  Sys2Proof.Claims.PlacementChoice ∧ Sys2Proof.Claims.PlacementSteps

/-- The state with the package's registers changed, and nothing else. -/
def Sys2Proof.Claims.PkgOnly (s : State) (p : Pkg) : State := { s with pkg := p }

/-- R300, R475: the stages. Package reset brings every register of the package to its reset value and keeps memory;
rails in regulation start Stage 0 with DT 0; the first configuration access enters Stage 1. -/
def Sys2Proof.Claims.StagesBegin : Prop :=
  ∀ (s : State),
    let p := s.pkg
    (Goes (exec .packageReset s) fun t =>
      t.now = 0 ∧ t.threads = [] ∧ t.groups = [] ∧ t.flocks = [] ∧ t.queues = [] ∧ t.ctxs = [] ∧ t.clusters = [] ∧ t.ops = [] ∧ t.dies = []
      ∧ t.quads = [] ∧ t.stks = [] ∧ t.homes = [] ∧ t.locals = [] ∧ t.bias = State.reset.bias ∧ t.mem = s.mem
      ∧ t.pkg = { State.reset.pkg with hb := p.hb, ports := p.ports, msix := p.msix, safePoints := p.safePoints }
      ∧ t.pkg.stage = 0 ∧ t.pkg.powered = false ∧ t.pkg.fwrun = false ∧ t.pkg.stkfail = 0 ∧ t.pkg.err = 0)
    ∧ (p.powered = true → exec .railsInRegulation s = .next s)
    ∧ (p.powered = false → exec .railsInRegulation s = .next { PkgOnly s { p with powered := true, stage := 0 } with now := 0 })
    ∧ (p.powered = true → p.stage = 0 → exec .firstConfigAccess s = .next (PkgOnly s { p with stage := 1 }))
    ∧ (p.powered = false ∨ p.stage ≠ 0 → exec .firstConfigAccess s = .next s)

/-- R477: the controller RAM is 4 MiB, written a byte at a time while FWRUN is 0; that an access beyond it
stops as one to no address is the model's choice (log 93). -/
def Sys2Proof.Claims.ControllerRam : Prop :=
  ∀ (off : Nat) (v : BitVec 8) (s : State),
    (4194304 ≤ off → exec (.controllerRamWrite off v) s = .fault (.noSuchAddress off))
    ∧ (off < 4194304 → s.pkg.fwrun = true ∨ s.pkg.stage = 0 → exec (.controllerRamWrite off v) s = .next s)
    ∧ (off < 4194304 → s.pkg.fwrun = false → s.pkg.stage ≠ 0 → Goes (exec (.controllerRamWrite off v) s) fun t =>
      t = PkgOnly s { s.pkg with ctlRam := t.pkg.ctlRam } ∧ (s.pkg.ctlRam.wf = true → t.pkg.ctlRam.wf = true)
      ∧ ∀ a, t.pkg.ctlRam.read a = if a = off then v else s.pkg.ctlRam.read a)

/-- R91, R475 to R477: START, TRAIN, RELEASE, HALTFW and what follows them; Stage 2 begins with every bit of the bias table 0,
every page host-biased. A command outside its condition sets ERR 4 and does nothing else. -/
def Sys2Proof.Claims.BootCommands : Prop :=
  ∀ (s : State),
    let p := s.pkg
    let refused : Out := .next (PkgOnly s { p with err := 4 })
    let m := p.ctlRam
    let len := m.readNat 0 4
    let entry := m.readNat 8 4
    let good : Prop := 1 ≤ len ∧ len ≤ 4194304 - 16 ∧ entry < len ∧ entry % 4 = 0 ∧ m.readNat 12 4 = 0
      ∧ (crc32 (m.readList 16 len)).toNat = m.readNat 4 4
    (p.stage = 0 ∨ p.fwrun = true → exec .start s = refused)
    ∧ (p.stage ≠ 0 → p.fwrun = false → (¬good → exec .start s = .next (PkgOnly s { p with err := 1 }))
      ∧ (good → exec .start s = .next (PkgOnly s { p with fwrun := true, fwStart := some s.now, err := 0 })))
    ∧ (∀ t, p.fwStart = some t → p.fwrun = true → t + 1000000000 ≤ s.now →
      exec .firmwareStartTimeout s = .next (PkgOnly s { p with fwrun := false, fwStart := none, err := 2 }))
    ∧ (p.fwStart = none ∨ p.fwrun = false ∨ (∃ t, p.fwStart = some t ∧ s.now < t + 1000000000) → exec .firmwareStartTimeout s = .next s)
    ∧ (p.stage = 1 → p.fwrun = true → exec .train s = .next (PkgOnly s { p with training := true, err := 0 }))
    ∧ (p.stage ≠ 1 ∨ p.fwrun = false → exec .train s = refused)
    ∧ (∀ fails : BitVec 16, (p.training = false → exec (.trainComplete fails) s = .next s)
      ∧ (p.training = true → p.stkfail = 0 → fails = 0 → s.mem.wf = true → Goes (exec (.trainComplete fails) s) fun t => ∃ b,
        t = { PkgOnly s { p with training := false, stage := 2, err := 0, biasAt := some b } with bias := [], mem := t.mem }
        ∧ b % 2 ^ 21 = 0 ∧ b + 2 ^ 21 ≤ 2 ^ 40 ∧ ∀ a, t.mem.read a = if b ≤ a ∧ a < b + 2 ^ 21 then 0 else s.mem.read a)
      ∧ (p.training = true → p.stkfail ≠ 0 ∨ fails ≠ 0 →
        exec (.trainComplete fails) s = .next (PkgOnly s { p with training := false, stkfail := p.stkfail ||| fails.toNat, err := 3 })))
    ∧ (p.stage = 2 → exec .release s = .next (PkgOnly s { p with stage := 3, err := 0 }))
    ∧ (p.stage ≠ 2 → exec .release s = refused)
    ∧ (p.fwrun = false → exec .haltfw s = refused)
    ∧ (p.fwrun = true → Goes (exec .haltfw s) fun t =>
      t = { PkgOnly s { p with fwrun := false, fwStart := none, err := 0 } with dies := t.dies }
      ∧ ∀ d, d < 8 → t.die d = { s.die d with safe := true, palow := 64, tallow := 64 })

/-- R8: context creation gives every register of the context its reset value; no cache holds a translation or an
instruction line of it. A context with a flock that has not ended stands. -/
def Sys2Proof.Claims.ContextsBegin : Prop :=
  ∀ (ctx : Nat) (priv : Bool) (s : State),
    ((∃ f ∈ s.flocks, f.2.ctx = ctx ∧ f.2.ended = false) → exec (.contextCreation ctx priv) s = .next s)
    ∧ ((∀ f ∈ s.flocks, f.2.ctx ≠ ctx ∨ f.2.ended = true) → Goes (exec (.contextCreation ctx priv) s) fun t =>
      t = { s with ctxs := t.ctxs, clusters := t.clusters }
      ∧ t.ctx ctx = { Ctx.created priv with wdLast := s.now, wdPause := some s.now }
      ∧ (t.ctx ctx).en = false ∧ (t.ctx ctx).leaseNs = 1000 ∧ (t.ctx ctx).wdLimit = 2 ^ 24 ∧ (t.ctx ctx).windows = []
      ∧ (∀ c, c ≠ ctx → t.ctx c = s.ctx c)
      ∧ ∀ e ∈ t.clusters, (∀ l ∈ e.2.icache, l.ctx ≠ ctx) ∧ (∀ l ∈ e.2.tlb1, l.ctx ≠ ctx) ∧ (∀ l ∈ e.2.tlb, l.ctx ≠ ctx) ∧ ∀ l ∈ e.2.nodes, l.1 ≠ ctx)

/-- R74, R387, R475, R476, R478: the pages of the package. No page answers before Stage 1; a read-only register keeps its
value; QCMD starts a command where none runs. (That the host sets HB by a register of its own is the model's choice, log
108.) -/
def Sys2Proof.Claims.PackageRegisters : Prop :=
  ∀ (page : Nat) (v : BitVec 64) (s : State),
    let p := s.pkg
    let w (reg : HostReg) : Out := exec (.registerWrite page reg v) s
    let n := v.toNat
    let op := n % 16
    let q := n / 16 % 131072
    (p.stage = 0 → ∀ reg, w reg = .next s)
    ∧ (p.stage ≠ 0 →
      w .qtbase = .next (PkgOnly s { p with qtbase := BitVec.ofNat 64 (n / 2 ^ 12 % 2 ^ 40 * 2 ^ 12) })
      ∧ w .bootq = .next (PkgOnly s { p with bootq := BitVec.ofNat 64 (n / 2 ^ 7 % 2 ^ 45 * 2 ^ 7) })
      ∧ (p.qcmd ≠ none → w .qcmd = .next s)
      ∧ (p.qcmd = none → (op = 1 ∨ op = 2 → w .qcmd = .next (PkgOnly s { p with qcmd := some (op, q) }))
        ∧ (op ≠ 1 → op ≠ 2 → w .qcmd = .next (PkgOnly s { p with qseq := (p.qseq + 1) % 2 ^ 32, qerr := 1, qcmd := none })))
      ∧ w .hdmbase = .next (PkgOnly s { p with hb := n % 2 ^ 51 })
      ∧ (∀ k, 24 ≤ k → w (.agelim k) = .next s)
      ∧ (∀ k, k < 24 → w (.agelim k) =
          .next { PkgOnly s { p with agelim := p.agelim.set k (n % 2 ^ 16) } with queues := (noteAged s).queues })
      ∧ (op = 1 → w .brcmd = exec .start s) ∧ (op = 2 → w .brcmd = exec .train s) ∧ (op = 3 → w .brcmd = exec .release s)
      ∧ (op = 4 → w .brcmd = exec .haltfw s) ∧ (op = 0 ∨ 4 < op → w .brcmd = .next (PkgOnly s { p with err := 4 }))
      ∧ w .qcmdstat = .next s ∧ w .brstat = .next s)

/-- R7, R84, R105, R303, R382, R384, R393, R412, R429 to R446, R452: the page of a context that exists; each field by
its access code. Writing DBGCTL and CTXCTL sets their fields, then acts; a watched range that begins starts the counts of its
log anew, in the region of every slice. -/
def Sys2Proof.Claims.ContextRegisters : Prop :=
  ∀ (page : Nat) (v : BitVec 64) (s : State),
    let c := s.ctx page
    let w (reg : HostReg) : Out := exec (.registerWrite page reg v) s
    let sets (reg : HostReg) (d : Ctx) : Prop := w reg = .next (s.setCtx page d)
    let n := v.toNat
    let keep (b : Bool) (k : Nat) : Bool := b && !n.testBit k
    let follow (on : Bool) (i : Instr) (t : State) : State := if on then (match exec i t with
      | .next u => u
      | _ => t) else t
    s.pkg.stage ≠ 0 →
    ((∀ e ∈ s.ctxs, e.1 ≠ page) → w .wdcyc = .next s ∧ w .ctxctl = .next s ∧ w .ttbase = .next s)
    ∧ ((∃ e ∈ s.ctxs, e.1 = page) →
      (∀ reg, reg = .loghead ∨ reg = .dbgstat → w reg = .next s)
      ∧ w .ttbase = exec (.ttbaseWrite page v) s ∧ w .lease = exec (.leaseWrite page v) s ∧ w .ashare = exec (.ashareWrite page v) s
      ∧ w .bardoor = exec (.bardoor page v) s ∧ w .sampctl = exec (.sampctlWrite page v) s ∧ w .dbgdata = exec (.dbgdataWrite page v) s
      ∧ (n % 16 = 1 → w .xlcmd = exec (.inval page (n / 2 ^ 32) (n / 16 % 4)) s)
      ∧ (n % 16 = 3 → w .xlcmd = exec (.migrate page (n / 2 ^ 32) (n / 16 % 4)) s)
      ∧ sets .xlmode { c with xlmode := v.getLsbD 0 } ∧ sets .xlarg0 { c with xlarg0 := v } ∧ sets .xlarg1 { c with xlarg1 := v }
      ∧ sets .xlstat { c with xlovr := keep c.xlovr 1 } ∧ sets .pincap { c with pincap := v }
      ∧ sets .ctxstat { c with donEerr := keep c.donEerr 2, recErr := keep c.recErr 1, doorErr := keep c.doorErr 0 }
      ∧ sets .wdcyc { c with wdLimit := n % 2 ^ 40 } ∧ sets .frbase { c with frBase := n / 2 ^ 12, frLog2 := n % 16 }
      ∧ (∃ e, sets .ctxevt { c with evt := e } ∧ ∀ k, k < 6 → e.testBit k = keep (c.evt.testBit k) k)
      ∧ sets .aelbase { c with aelBase := n / 2 ^ 12, aelLog2 := n / 32 % 16, aelEn := n % 32 }
      ∧ sets .imgpool { c with imgBase := n / 2 ^ 29, imgSlots := n % 256 }
      ∧ sets .sampbase { c with sampBase := n / 2 ^ 12, sampLog2 := n % 16 }
      ∧ sets .dbgsel { c with dbgClu := n / 2 ^ 16 % 512, dbgKind := n / 2 ^ 12 % 4, dbgThread := n / 2 ^ 8 % 8, dbgReg := n % 64 }
      ∧ sets .alogctl { c with alogBase := n / 2 ^ 12, alogLog2 := n % 16 }
      ∧ (∀ k : BitVec 2, sets (.bp k) { c with bps := setAt c.bps k.toNat (n / 4 * 4) })
      ∧ (∀ k : BitVec 2,
        let ws := setAt c.watch k.toNat ⟨n / 2 ^ 52 + 1, n / 2 ^ 8 % 2 ^ 44, n.testBit 0⟩
        let begins : Prop := n.testBit 0 = true ∧ (c.watch.getD k.toNat ⟨0, 0, false⟩).en = false
        (¬begins → sets (.watch k) { c with watch := ws })
        ∧ (begins → w (.watch k) = .next ((List.range 512).foldl (fun t sl =>
            if present t sl then logStore t sl ((t.ctx page).logRegion sl) (List.replicate 8 0) else t)
            (s.setCtx page { c with watch := ws, alog := [] }))))
      ∧ w .ctxctl = .next (follow (n.testBit 1) (.preempt page) (follow (n.testBit 0) (.clear page)
          (s.setCtx page { c with msix := n / 2 ^ 16 % 2048 })))
      ∧ w .dbgctl = .next (follow (n.testBit 9) (.stop page) (follow (n.testBit 10) (.dbgctlResume page)
          (s.setCtx page { c with check := n.testBit 11, dbgThreads := n % 256 }))))

/-- R7, R84, R387, R393, R432, R446, R476: what the host reads: fields at their places; write-only registers read 0. -/
def Sys2Proof.Claims.HostReads : Prop :=
  ∀ (page : Nat) (s : State),
    let c := s.ctx page
    let bit (b : Bool) : Nat := if b then 1 else 0
    let is (reg : HostReg) (n : Nat) : Prop := hostRead s page reg = BitVec.ofNat 64 n
    is .xlcmd 0 ∧ is .bardoor 0 ∧ is .qcmd 0 ∧ is .brcmd 0
    ∧ is .ttbase (c.root * 2 ^ 12 + bit c.en) ∧ is .xlmode (bit c.xlmode) ∧ is .lease c.leaseNs ∧ is .wdcyc c.wdLimit
    ∧ is .xlstat (c.xlseq * 2 ^ 32 + c.xlerr * 2 ^ 4 + bit c.xlovr * 2 + bit c.xl.isSome)
    ∧ is .ctxstat (bit c.donEerr * 4 + bit c.recErr * 2 + bit c.doorErr)
    ∧ is .ctxevt (c.waiters * 2 ^ 32 + c.evt) ∧ is .ctxctl (c.msix * 2 ^ 16) ∧ is .loghead (c.aelHead * 2 ^ 32 + c.frHead)
    ∧ is .dbgctl (bit c.check * 2 ^ 11 + c.dbgThreads) ∧ is .sampctl c.sampIv
    ∧ is .qcmdstat (s.pkg.qseq * 2 ^ 32 + s.pkg.qerr * 2 ^ 4 + bit s.pkg.qcmd.isSome) ∧ is .hdmbase s.pkg.hb
    ∧ is .brstat (s.pkg.stkfail * 2 ^ 48 + s.pkg.err * 2 ^ 40 + bit s.pkg.fwrun * 8 + s.pkg.stage)
    ∧ hostRead State.reset page .brstat = 0 ∧ hostRead State.reset page .qcmdstat = 0

/-- R475 to R477: stages, the controller RAM and BRCMD. -/
def Sys2Proof.Claims.BringUp : Prop := Sys2Proof.Claims.StagesBegin ∧ Sys2Proof.Claims.ControllerRam ∧ Sys2Proof.Claims.BootCommands
/-- R7, R8: contexts and the register pages. -/
def Sys2Proof.Claims.RegisterPages : Prop :=
  Sys2Proof.Claims.ContextsBegin ∧ Sys2Proof.Claims.PackageRegisters ∧ Sys2Proof.Claims.ContextRegisters ∧ Sys2Proof.Claims.HostReads

/-! ## Completion -/

/-- Stages, controller RAM, BRCMD, contexts and the register pages.
The model's own readings in it: logs 93, 108. -/
def Obligations.BringUpAndRegisters : Prop :=
  Sys2Proof.Claims.BringUp ∧ Sys2Proof.Claims.RegisterPages

/-- R39, R202, R331 to R333, R322, R323, R410, R483: where each of these instructions completes. On every state and
operands that meet the conditions given for it, `exec` answers a next state: the jump is made, the return or the trap taken,
the system register written; the lane word issues on its group (`done`), its destination in the active lanes written, its
accesses made or its word-wide action taken. The conditions are on the state and the operands alone: the handler and INTRAP,
the privilege that the register asks for, the purse that pays, the bank whose loads have finished, the last group of a word
that acts once per cluster, the order rules of the stream, and accesses that no lane of the word faults. What values the
destinations take is stated of each word beside this. -/
def Obligations.InstructionsComplete : Prop :=
  (∀ (sb : Bool) (a : GReg) (num : BitVec 11) (n5 : BitVec 5) (s : State),
    let t := me s
    let v := rd s a
    let n := num.toNat
    let guarded : Prop := n = 0x13 ∨ n = 0x43 ∨ (0x20 ≤ n ∧ n ≤ 0x25)
    (v.toNat % 4 = 0 → exec (.jr sb a) s = .next (s.setThr s.cur { t with pc := v }))
    ∧ (v.toNat % 4 = 0 → ∃ u, exec (.callr sb a) s = .next u ∧ (me u).pc = v
        ∧ (∀ r, (me u).gr r = if r = 63 then t.pc + 4 else t.gr r) ∧ OnlyRegs s u)
    ∧ (t.intrap = true → exec (.sret sb) s = .next (s.setThr s.cur
        { t with pc := BitVec.ofNat 64 (4 * (t.tpc.toNat / 4)), intrap := false }))
    ∧ (t.intrap = false → t.tvec.toNat / 4 ≠ 0 → exec (.trap sb n5) s = .next (s.setThr s.cur { t with
        pc := BitVec.ofNat 64 (4 * (t.tvec.toNat / 4)), tpc := t.pc + 4, tcause := Cause.soft.code
        tval := BitVec.ofNat 64 n5.toNat, intrap := true, wait := none, popAt := none }))
    ∧ (Assigned n → n ≠ 0x16 → (guarded → (s.ctx (myCtx s)).priv = true) →
        ∃ u, exec (.swr sb a num) s = .next u ∧ (me u).pc = t.pc + 4 ∧ (∀ r, (me u).gr r = t.gr r)
          ∧ (n = 0x005 → (me u).tscr = v) ∧ (n = 0x007 → (me u).yoke = v.toNat % 2 ^ 16)
          ∧ (n = 0x000 → (me u).tpc = BitVec.ofNat 64 (4 * (v.toNat / 4)))
          ∧ (n = 0x004 → (me u).tvec = BitVec.ofNat 64 (4 * (v.toNat / 4)))))
  ∧ (∀ (x : LaneWord) (s : State),
    let n := tySpan x.ty
    let act := activeMask s x
    let lat := if tyWidth x.ty = 64 then 3 else 2
    let mlat := if tyWidth x.ty = 64 then 6 else 4
    let done (u : State) : Out := .next (issued u x act true)
    -- integer words, moves, bit fields: nothing can hold them
    (∀ i ∈ ([.iadd x, .isub x, .imin x, .imax x, .iabs x, .iadd3 x, .andLane x, .orLane x, .xorLane x, .notLane x, .movLane x,
        .shlLane x, .shrLane x, .rotl x, .brev x, .bfe x, .bfi x] : List Instr),
      ∃ vals, exec i s = done (putDest s x.dN n lat act vals))
    ∧ (∀ i ∈ ([.imul x, .imulh x, .imad x] : List Instr), ∃ vals, exec i s = done (putDest s x.dN n mlat act vals))
    ∧ (∀ i ∈ ([.popcLane x, .clzLane x] : List Instr), ∃ vals, exec i s = done (putDest s x.dN 1 lat act vals))
    ∧ (∀ i ∈ ([.imulw x, .imadw x] : List Instr), ∃ vals, exec i s = done (putDest s x.dN 2 4 act vals))
    ∧ (∀ i ∈ ([.idp4 x, .idp2 x] : List Instr), ∃ vals, exec i s = done (putDest s x.dN 1 4 act vals))
    ∧ (∀ i ∈ ([.isad x, .pack x, .unpk x] : List Instr), ∃ vals, exec i s = done (putDest s x.dN 1 2 act vals))
    -- predicates, SEL, LEXIT, NOP
    ∧ (∃ m, exec (.icmp x) s = done (putPred s x.dN 2 act m)) ∧ (∃ m, exec (.plop x) s = done (putPred s x.dN 1 act m))
    ∧ (x.ty ≠ 0 → ∃ vals, exec (.pmov x) s = done (putDest s x.dN 1 1 act vals))
    ∧ (x.ty = 0 → ∃ u, exec (.pmov x) s = done u ∧ u = { s with groups := u.groups, clusters := u.clusters }
        ∧ ∀ k l, k < 12 → l < 32 → ((laneGrp u).p.get k 0).testBit l =
            if act.testBit l && ((srcB s x 1).getD l 0).testBit k then ((srcA s x 1).getD l 0).testBit k
            else ((laneGrp s).p.get k 0).testBit l)
    ∧ (∃ vals, exec (.sel x) s = done (putDest s x.dN n 2 act vals))
    ∧ (∃ u, exec (.lexit x) s = done u ∧ ∀ l, l < 32 → (laneGrp u).ex.testBit l = ((laneGrp s).ex.testBit l && !act.testBit l)
        ∧ (laneGrp u).exit.testBit l = ((laneGrp s).exit.testBit l || act.testBit l))
    ∧ exec (.nop x) s = done s
    -- words that pay the floating-point price first (R202)
    ∧ (let p := payLane s 1 act
       let pays (i : Instr) (lat : Nat) : Prop := ∃ vals e, exec i s = done (aelLane (putDest p.1 x.dN 1 lat act vals) e)
       p.2 = true →
        (∀ i ∈ ([.fadd x, .fsub x, .fmul x, .ffma x, .frnd x] : List Instr), pays i 4)
        ∧ (∀ i ∈ ([.fmin x, .fmax x, .fabs x, .fneg x] : List Instr), pays i 2)
        ∧ (∀ i ∈ ([.fdp2 x, .fdp4 x] : List Instr), pays i 5)
        ∧ (∀ i ∈ ([.rcp x, .rsq x, .exp2 x, .log2 x, .sin x, .cos x] : List Instr), pays i 12) ∧ pays (.sqrt x) 14
        ∧ (∃ m e, exec (.fcmp x) s = done (aelLane (putPred p.1 x.dN 2 act m) e))
        ∧ (let sr (r : Bool) : Bool := decide (x.rnd = 4) && r
           let converted (r : Bool) (k lat : Nat) (u : State) : Prop := ∃ vals e,
             let w := putDest (if sr r then settleSeed p.1 s.lane.pid else p.1) x.dN k lat act vals
             ∃ z, u = aelLane z e ∧ z = { w with clusters := z.clusters } ∧ (sr r = false → z = w)
           let wD := tyWidth x.ty
           let els := 32 / min (min (tyWidth x.srcTy) wD) 32
           (x.ty < 14 → x.srcTy < 14 →
              (∃ u, exec (.cvt x) s = done u ∧ converted (canRound x.srcTy x.ty) (els * wD / 32) 4 u)
              ∧ ∃ u, exec (.cvts x) s = done u ∧ converted true (els * wD / 32) 5 u)
           ∧ ((s.clu s.lane.pid).code.waits (s.lane.word.banks.get (laneMember s) 0) = false → s.lane.held = false →
              ∃ u v, exec (.cbd x) s = .next u ∧ u.lane.held = false ∧ converted true (16 * wD / 32) 6 v
                ∧ u = retireUse (issued v x act true) fun k =>
                    { k with code := k.code.retire (s.lane.word.banks.get (laneMember s) 0) }))
        ∧ (((s.clu s.lane.pid).curve.get (x.cN % 4) BankCtl.placed).waits (s.lane.word.banks.get (laneMember s) 0) = false →
          s.lane.held = false → ∃ u vals e, exec (.cte x) s = .next u ∧ u.lane.held = false
            ∧ u = retireUse (issued (aelLane (putDest p.1 x.dN 1 10 act vals) e) x act true)
                (modCurve (x.cN % 4) fun k => k.retire (s.lane.word.banks.get (laneMember s) 0))))
    -- retired words (R434)
    ∧ ((payLane s 4 act).2 = true → ∀ i ∈ ([.idiv x, .irem x] : List Instr), ∃ vals, exec i s = done (putDest (payLane s 4 act).1 x.dN 1 0 act vals))
    ∧ ((payLane s 6 act).2 = true → ∃ vals, exec (.fdiv x) s = done (putDest (payLane s 6 act).1 x.dN 1 0 act vals))
    -- cross-lane words
    ∧ (let n := tySpan x.ty4
       let mv := if n = 2 then 5 else 4
       let p := payLane s 1 act
       (∀ i ∈ ([.shfl x, .bcast x] : List Instr), ∃ vals, exec i s = done (putDest s x.dN n mv act vals))
       ∧ (∃ vals, exec (.ballot x) s = done (putDest s x.dN 1 3 act vals))
       ∧ (x.ty4 < 8 → ∀ i ∈ ([.reduce x, .scan x] : List Instr), ∃ vals e,
            exec i s = done (aelLane (putDest s x.dN n (if tyWidth x.ty4 = 64 then 8 else 6) act vals) e))
       ∧ (8 ≤ x.ty4 → p.2 = true → (∃ vals e, exec (.reduce x) s = done (aelLane (putDest p.1 x.dN n 10 act vals) e))
            ∧ ∃ vals e, exec (.scan x) s = done (aelLane (putDest p.1 x.dN n 14 act vals) e))
       ∧ (s.lane.replay = false → (∃ vs, exec (.vote x) s = done (s.setThr s.lane.tid { s.thr s.lane.tid with votes := vs })
            ∧ ∀ v ∈ vs, v.str = s.lane.str → v.seq = s.lane.word.seq → (laneMember s, s.lane.slot) ∉ v.need)
          ∧ ∃ os, exec (.uni x) s = done (s.setThr s.lane.tid { s.thr s.lane.tid with out := os })
            ∧ ∀ o ∈ os, ∀ w all need seen, o.pend = .uni s.lane.str s.lane.word.seq w all need seen → o.reg = x.dN - 192 →
                (laneMember s, s.lane.slot) ∉ need))
    -- lane memory words: no lane faults, the order rules and the accumulator tiles hold nothing back, the purse pays
    ∧ (let z := settleAcqs s
       let p := payLane z 2 act
       let lanes := (List.range 32).filter fun l => act.testBit l
       let bytes : Nat := [1, 1, 2, 2, 4, 8, 16].getD x.width 16
       let B (l : Nat) : Int := ival 6 ((srcB s x 1).getD l 0 % 2 ^ 32)
       let scaled (l : Nat) : Int := B l * (if x.scale = true then (bytes : Int) else 1)
       let completes (i : Instr) (acc : Acc) (n : Nat) (users : List Nat) (off : Nat → Int) : Prop :=
         tileHeld z x act n ((List.range 32).map off) = false →
         ∀ (u : Nat → State) (ps : Nat → List (Nat × Nat × Place)), u 0 = p.1 →
           (∀ k, k < users.length → lanePieces (u k) x acc (off (users.getD k 0)) n bytes = (u (k + 1), .ok (ps k))) →
           ∃ v, exec i s = done v ∧ v.ops.length = (u users.length).ops.length + ((List.range users.length).map fun k => (ps k).length).sum
             ∧ laneGrp v = { laneGrp (u users.length) with out := (laneGrp v).out }
       let rel (scope : Nat) : Prop := 2 ≤ x.order → releaseLane z scope = true
       s.lane.replay = false → act < 2 ^ 32 → x.width ≤ 6 → orderHeld z = false → p.2 = true →
         (rel (if x.space = 1 then 0 else x.scope) →
           completes (.ld x) .load bytes lanes scaled ∧ completes (.st x) .store bytes lanes scaled
           ∧ completes (.ldt x) .load (32 * bytes) lanes scaled ∧ completes (.ldb x) .load bytes (lanes.take 1) (fun _ => 0))
         ∧ (rel x.scope → completes (.atom x) .atomic bytes lanes B ∧ completes (.red x) .atomic bytes lanes B)))
  -- words that act once on each cluster (R483)
  ∧ ∀ (x : LaneWord) (s : State),
    let pid := s.lane.pid
    let act := activeMask s x
    let c := cissueNext s act
    let code := s.lane.word.banks.get (laneMember s) 0
    let z := settleAcqs s
    let made (u : State) : Out := .next (issued (dropCissue (markActed u)) x act true)
    let bank (u : State) (tbl : Nat) (b : BankCtl) : State :=
      u.setClu pid { u.clu pid with curve := (u.clu pid).curve.set tbl b }
    let queued (i : Instr) (named : Nat → Prop) : Prop :=
      c.full = true → (∀ q, named q → (copyQ s pid q).ents.length < 32) → ∃ u e, exec i s = made u
        ∧ e.word = s.lane.word ∧ e.chunks = [] ∧ ∀ q, named q → (copyQ u pid q).ents = (copyQ s pid q).ents ++ [e]
    let taQueued (i : Instr) : Prop := (s.clu pid).ta.ents.length < 8 →
      ∃ u e, exec i s = .next (issued u x act true) ∧ e.word = s.lane.word
        ∧ (u.clu pid).ta = { (s.clu pid).ta with ents := (s.clu pid).ta.ents ++ [e] }
    s.lane.replay = false →
    (c.done = false → ∀ i ∈ ([.ctld x, .mcbt x, .lfence x, .stashMap x, .stashFlush x, .stashDrop x, .cp x, .cp2d x, .cpt x,
        .cpg x, .cpset x, .qfence x, .mm x, .mmy x, .mzero x] : List Instr), exec i s = .next (issued (setCissue s c) x act false))
    ∧ (c.done = true → c.active = true →
      (let ctl := (s.clu pid).curve.get (x.cN % 4) BankCtl.placed
       let q := payOnce s
       ctl.used code = false → (ctl.loading.find (code % 2)) = none → localBlocked s (lo64 s.lane.word.ua) 4096 = false → q.2 = true →
         ∃ ld, exec (.ctld x) s = made (bank q.1 (x.cN % 4) { ctl with loading := ctl.loading.set (code % 2) ld }))
      ∧ (let ctl := (s.clu pid).code
         c.full = true → ctl.used code = false → (ctl.loading.find (code % 2)) = none →
           localBlocked s (lo64 s.lane.word.ua) 1024 = false → (payOnce s).2 = true → ∃ u, exec (.mcbt x) s = made u ∧ ((u.clu pid).code.loading.find (code % 2)).isSome = true)
      ∧ ((2 ≤ x.order → releaseLane s x.scope = true) → (x.order % 2 = 1 → acquireLane s = true) →
          ∃ u, exec (.lfence x) s = made u
            ∧ ((strOf s s.lane.tid s.lane.str).owedArr = [] → u = { s with clusters := u.clusters }))
      ∧ ((∀ o ∈ streamOps z, o.made ≠ none) → orderHeld z = false → (payOnce z).2 = true →
          let u := (payOnce z).1
          let va := lo64 s.lane.word.ua
          let off := lo64 s.lane.word.ub
          let len := lo64 s.lane.word.uc
          ((u.clu pid).stash.length < 64 → (∀ e ∈ (u.clu pid).stash, ¬(e.va < va + len ∧ va < e.va + e.len)
              ∧ ¬(e.fid = s.lane.tid.fid ∧ e.clu = laneMember s ∧ e.off < off + len ∧ off < e.off + e.len)) →
            exec (.stashMap x) s = made (u.setClu pid { u.clu pid with
              stash := (u.clu pid).stash ++ [⟨s.lane.tid.fid, laneMember s, va, len, off, []⟩] }))
          ∧ (∃ w, exec (.stashFlush x) s = made w ∧ ((u.clu pid).stash = [] → w = u))
          ∧ ∃ w, exec (.stashDrop x) s = made w ∧ ((u.clu pid).stash = [] → w = u))
      ∧ (∀ i ∈ ([.cp x, .cp2d x, .cpt x, .cpg x, .cpset x] : List Instr), queued i fun q => q = x.m / 256)
      ∧ queued (.qfence x) (fun q => q < 4 ∧ x.cN.testBit q = true)
      ∧ (∀ i ∈ ([.mm x, .mmy x, .mzero x] : List Instr), c.full = true → (s.clu pid).mq.length < 8 → ∃ e,
          exec i s = made (s.setClu pid { s.clu pid with mq := (s.clu pid).mq ++ [e] }) ∧ e.word = s.lane.word)
      ∧ (∀ i ∈ ([.taWin x, .taDly x, .taMode x, .taClr x, .taGo x, .taCapt x] : List Instr), taQueued i))
    -- REGROUP, LWAIT and LARR
    ∧ (let fid := s.lane.tid.fid
       let m := laneMember s
       let d := { c with inputs := c.inputs ++ (srcA s x 1).flatMap fun v => leBytes 4 v }
       let slots := setBits 16 (strOf s s.lane.tid s.lane.str).gmask
       let src := (List.range d.masks.length).flatMap fun k =>
         let e := d.masks.getD k (0, 0)
         (setBits 32 e.2).map fun l => ((e.1, l), leNat ((d.inputs.drop (128 * k + 4 * l)).take 4))
       let T := src.filterMap fun e =>
         if e.2 < 4096 ∧ e.2 / 32 % 8 = 0 ∧ e.2 / 256 < slots.length then some (slots.getD (e.2 / 256) 0, e.2 % 32) else none
       regroupReady s slots ((setBits 32 act).map fun l => (s.lane.slot, l)) = true →
       (c.done = false → exec (.regroup x) s = .next (issued (setCissue s d) x act false))
       ∧ (c.done = true → d.masks.length ≤ 16 → regroupReady s slots (src.map (·.1) ++ T) = true →
          ∀ mv, regroupMoves s fid m slots src = some mv →
            exec (.regroup x) s = .next (issued (masksAfter (dropCissue (moveLanes s fid m mv)) fid m slots) x act true)))
    ∧ (let h := s.lane.word.ua.toNat % 2 ^ 32
       let key := (h / 2 ^ 16 % 16, h / 2 ^ 8 % 2 ^ 8)
       let b := barAt s s.lane.tid.fid key
       let e := (strOf s s.lane.tid s.lane.str).cissue.get (laneMember s, s.lane.word.seq) default
       (e.done = false → e.acq = none → handleLive s = true → b.phase ≠ s.lane.word.ub.toNat % 65536 →
          acquireLane (setCissue s { e with acq := some b.t }) = true →
          ∃ u, exec (.lwait x) s = .next (issued u x act true) ∧ u.groups = s.groups ∧ u.ops = s.ops)
       ∧ (h / 2 ^ 6 % 4 = 1 → handleLive s = true → fenceOpen s s.lane.slot s.lane.word.seq = true →
          ∃ u, exec (.larr x) s = .next (issued u x act true) ∧ u = { s with threads := u.threads })
       ∧ (h / 2 ^ 6 % 4 = 1 → handleLive s = true → fenceOpen s s.lane.slot s.lane.word.seq = false →
          exec (.larr x) s = .next (issued (addLanes s s.lane.tid h (laneMember s) s.lane.slot act) x act true))
       ∧ (h / 2 ^ 6 % 4 ≠ 1 → handleLive s = true → c.done = true → c.active = true → ∀ u,
          addArrivals s s.lane.tid.fid key 1 = some u → exec (.larr x) s = made u))
end

