-- ==== Sys2Proof/Laws/Fields.lean ====
section
/-! SUPPORT. The field readers of Decode.lean read back what the builders of its encoder put there (R29, R35). -/

namespace Sys2Proof.Laws

open Sys2Proof

theorem toNat_append (m n : Nat) (x : BitVec m) (y : BitVec n) : (x ++ y).toNat = x.toNat * 2 ^ n + y.toNat := by
  rw [BitVec.toNat_append, ← Nat.shiftLeft_add_eq_or_of_lt y.isLt, Nat.shiftLeft_eq]

theorem toNat_lt_two (s : Bool) : s.toNat < 2 := by cases s <;> decide

/-! ## R format -/

theorem encR_toNat (s : Bool) (op : BitVec 6) (d a b : GReg) (f : BitVec 5) :
    (encR s op d a b f).toNat =
      s.toNat * 2 ^ 29 + op.toNat * 2 ^ 23 + d.toNat * 2 ^ 17 + a.toNat * 2 ^ 11 + b.toNat * 2 ^ 5 + f.toNat := by
  have e : (encR s op d a b f).toNat =
      (((((((0#2).toNat * 2 ^ 1 + (flag s).toNat) * 2 ^ 6 + op.toNat) * 2 ^ 6 + d.toNat) * 2 ^ 6 + a.toNat) * 2 ^ 6
        + b.toNat) * 2 ^ 5 + f.toNat) := by
    rw [← toNat_append, ← toNat_append, ← toNat_append, ← toNat_append, ← toNat_append, ← toNat_append]; rfl
  rw [e]; simp [flag]; omega

section R
variable (s : Bool) (op : BitVec 6) (d a b : GReg) (f : BitVec 5)

@[simp] theorem encR_cls : pCls (encR s op d a b f) = 0 := by
  apply BitVec.eq_of_toNat_eq
  have := op.isLt; have := d.isLt; have := a.isLt; have := b.isLt; have := f.isLt; have := toNat_lt_two s
  simp only [pCls, BitVec.extractLsb'_toNat, encR_toNat, Nat.shiftRight_eq_div_pow]; simp; omega
@[simp] theorem encR_S : pS (encR s op d a b f) = s := by
  have := op.isLt; have := d.isLt; have := a.isLt; have := b.isLt; have := f.isLt
  simp only [pS, BitVec.getLsbD, encR_toNat, Nat.testBit_eq_decide_div_mod_eq]
  cases s <;> simp <;> omega
@[simp] theorem encR_op : pOp (encR s op d a b f) = op := by
  apply BitVec.eq_of_toNat_eq
  have := op.isLt; have := d.isLt; have := a.isLt; have := b.isLt; have := f.isLt; have := toNat_lt_two s
  simp only [pOp, BitVec.extractLsb'_toNat, encR_toNat, Nat.shiftRight_eq_div_pow]; omega
@[simp] theorem encR_d : pD (encR s op d a b f) = d := by
  apply BitVec.eq_of_toNat_eq
  have := op.isLt; have := d.isLt; have := a.isLt; have := b.isLt; have := f.isLt; have := toNat_lt_two s
  simp only [pD, BitVec.extractLsb'_toNat, encR_toNat, Nat.shiftRight_eq_div_pow]; omega
@[simp] theorem encR_a : pA (encR s op d a b f) = a := by
  apply BitVec.eq_of_toNat_eq
  have := op.isLt; have := d.isLt; have := a.isLt; have := b.isLt; have := f.isLt; have := toNat_lt_two s
  simp only [pA, BitVec.extractLsb'_toNat, encR_toNat, Nat.shiftRight_eq_div_pow]; omega
@[simp] theorem encR_b : pB (encR s op d a b f) = b := by
  apply BitVec.eq_of_toNat_eq
  have := op.isLt; have := d.isLt; have := a.isLt; have := b.isLt; have := f.isLt; have := toNat_lt_two s
  simp only [pB, BitVec.extractLsb'_toNat, encR_toNat, Nat.shiftRight_eq_div_pow]; omega
@[simp] theorem encR_func : pFunc (encR s op d a b f) = f := by
  apply BitVec.eq_of_toNat_eq
  have := op.isLt; have := d.isLt; have := a.isLt; have := b.isLt; have := f.isLt; have := toNat_lt_two s
  simp only [pFunc, BitVec.extractLsb'_toNat, encR_toNat, Nat.shiftRight_eq_div_pow]; omega
end R

/-! ## The parts of func -/

section Func

@[simp] theorem func_3_2_high (r : BitVec 2) : (0#3 ++ r : BitVec 5).extractLsb' 2 3 = 0#3 := by revert r; decide
@[simp] theorem func_3_2_low (r : BitVec 2) : (0#3 ++ r : BitVec 5).extractLsb' 0 2 = r := by revert r; decide
@[simp] theorem func_2_3_high (c : BitVec 3) : (0#2 ++ c : BitVec 5).extractLsb' 3 2 = 0#2 := by revert c; decide
@[simp] theorem func_2_3_low (c : BitVec 3) : (0#2 ++ c : BitVec 5).extractLsb' 0 3 = c := by revert c; decide
@[simp] theorem func_kind (k : BitVec 3) (r : BitVec 2) : (k ++ r : BitVec 5).extractLsb' 2 3 = k := by revert k r; decide
@[simp] theorem func_rnd (k : BitVec 3) (r : BitVec 2) : (k ++ r : BitVec 5).extractLsb' 0 2 = r := by revert k r; decide
@[simp] theorem func_order (o : BitVec 2) (c : BitVec 3) : (o ++ c : BitVec 5).extractLsb' 3 2 = o := by revert o c; decide
@[simp] theorem func_scope (o : BitVec 2) (c : BitVec 3) : (o ++ c : BitVec 5).extractLsb' 0 3 = c := by revert o c; decide
@[simp] theorem func_ext_high (e : Bool) (k : BitVec 2) : (0#2 ++ flag e ++ k : BitVec 5).extractLsb' 3 2 = 0#2 := by
  revert e k; decide
@[simp] theorem func_ext (e : Bool) (k : BitVec 2) : (0#2 ++ flag e ++ k : BitVec 5)[2] = e := by
  revert e k; decide
@[simp] theorem func_ext_low (e : Bool) (k : BitVec 2) : (0#2 ++ flag e ++ k : BitVec 5).extractLsb' 0 2 = k := by
  revert e k; decide
@[simp] theorem func_flag_high (b : Bool) : (0#4 ++ flag b : BitVec 5).extractLsb' 1 4 = 0#4 := by revert b; decide
@[simp] theorem func_flag (b : Bool) : (0#4 ++ flag b : BitVec 5)[0] = b := by
  revert b; decide
@[simp] theorem func_scope_high (c : BitVec 3) : (c ++ 0#2 : BitVec 5).extractLsb' 2 3 = c := by revert c; decide
@[simp] theorem func_scope_low (c : BitVec 3) : (c ++ 0#2 : BitVec 5).extractLsb' 0 2 = 0#2 := by revert c; decide
@[simp] theorem func_last_high (c : BitVec 3) (l : Bool) : (c ++ flag l ++ 0#1 : BitVec 5).extractLsb' 2 3 = c := by
  revert c l; decide
@[simp] theorem func_last (c : BitVec 3) (l : Bool) : (c ++ flag l ++ 0#1 : BitVec 5)[1] = l := by
  revert c l; decide
@[simp] theorem func_last_low (c : BitVec 3) (l : Bool) : (c ++ flag l ++ 0#1 : BitVec 5).extractLsb' 0 1 = 0#1 := by
  revert c l; decide
@[simp] theorem func_op_high (o : BitVec 4) : (0#1 ++ o : BitVec 5).extractLsb' 4 1 = 0#1 := by revert o; decide
@[simp] theorem func_op_low (o : BitVec 4) : (0#1 ++ o : BitVec 5).extractLsb' 0 4 = o := by revert o; decide
@[simp] theorem func_two_high (f k : Bool) : (0#3 ++ flag f ++ flag k : BitVec 5).extractLsb' 2 3 = 0#3 := by
  revert f k; decide
@[simp] theorem func_two_fst (f k : Bool) : (0#3 ++ flag f ++ flag k : BitVec 5)[1] = f := by
  revert f k; decide
@[simp] theorem func_two_snd (f k : Bool) : (0#3 ++ flag f ++ flag k : BitVec 5)[0] = k := by
  revert f k; decide
end Func

/-! ## I format -/

theorem encI_toNat (s : Bool) (op : BitVec 6) (d a : GReg) (i : BitVec 11) :
    (encI s op d a i).toNat = 2 ^ 30 + s.toNat * 2 ^ 29 + op.toNat * 2 ^ 23 + d.toNat * 2 ^ 17 + a.toNat * 2 ^ 11 + i.toNat := by
  have e : (encI s op d a i).toNat =
      ((((((1#2).toNat * 2 ^ 1 + (flag s).toNat) * 2 ^ 6 + op.toNat) * 2 ^ 6 + d.toNat) * 2 ^ 6 + a.toNat) * 2 ^ 11
        + i.toNat) := by
    rw [← toNat_append, ← toNat_append, ← toNat_append, ← toNat_append, ← toNat_append]; rfl
  rw [e]; simp [flag]; omega

section I
variable (s : Bool) (op : BitVec 6) (d a : GReg) (i : BitVec 11)

@[simp] theorem encI_cls : pCls (encI s op d a i) = 1 := by
  apply BitVec.eq_of_toNat_eq
  have := op.isLt; have := d.isLt; have := a.isLt; have := i.isLt; have := toNat_lt_two s
  simp only [pCls, BitVec.extractLsb'_toNat, encI_toNat, Nat.shiftRight_eq_div_pow]; simp; omega
@[simp] theorem encI_S : pS (encI s op d a i) = s := by
  have := op.isLt; have := d.isLt; have := a.isLt; have := i.isLt
  simp only [pS, BitVec.getLsbD, encI_toNat, Nat.testBit_eq_decide_div_mod_eq]
  cases s <;> simp <;> omega
@[simp] theorem encI_op : pOp (encI s op d a i) = op := by
  apply BitVec.eq_of_toNat_eq
  have := op.isLt; have := d.isLt; have := a.isLt; have := i.isLt; have := toNat_lt_two s
  simp only [pOp, BitVec.extractLsb'_toNat, encI_toNat, Nat.shiftRight_eq_div_pow]; omega
@[simp] theorem encI_d : pD (encI s op d a i) = d := by
  apply BitVec.eq_of_toNat_eq
  have := op.isLt; have := d.isLt; have := a.isLt; have := i.isLt; have := toNat_lt_two s
  simp only [pD, BitVec.extractLsb'_toNat, encI_toNat, Nat.shiftRight_eq_div_pow]; omega
@[simp] theorem encI_a : pA (encI s op d a i) = a := by
  apply BitVec.eq_of_toNat_eq
  have := op.isLt; have := d.isLt; have := a.isLt; have := i.isLt; have := toNat_lt_two s
  simp only [pA, BitVec.extractLsb'_toNat, encI_toNat, Nat.shiftRight_eq_div_pow]; omega
@[simp] theorem encI_imm : pImm (encI s op d a i) = i := by
  apply BitVec.eq_of_toNat_eq
  have := op.isLt; have := d.isLt; have := a.isLt; have := i.isLt; have := toNat_lt_two s
  simp only [pImm, BitVec.extractLsb'_toNat, encI_toNat, Nat.shiftRight_eq_div_pow]; omega
end I

theorem cnt_toNat (c : BitVec 6) : ((0#5 ++ c : BitVec 11)).toNat = c.toNat := by
  have := toNat_append 5 6 0#5 c
  simpa using this

@[simp] theorem encI_cnt_high (s : Bool) (op : BitVec 6) (d a : GReg) (c : BitVec 6) :
    (encI s op d a (0#5 ++ c)).extractLsb' 6 5 = 0 := by
  apply BitVec.eq_of_toNat_eq
  have := op.isLt; have := d.isLt; have := a.isLt; have := c.isLt; have := toNat_lt_two s
  simp only [BitVec.extractLsb'_toNat, encI_toNat, Nat.shiftRight_eq_div_pow, cnt_toNat]; simp; omega
@[simp] theorem encI_cnt (s : Bool) (op : BitVec 6) (d a : GReg) (c : BitVec 6) :
    (encI s op d a (0#5 ++ c)).extractLsb' 0 6 = c := by
  apply BitVec.eq_of_toNat_eq
  have := op.isLt; have := d.isLt; have := a.isLt; have := c.isLt; have := toNat_lt_two s
  simp only [BitVec.extractLsb'_toNat, encI_toNat, Nat.shiftRight_eq_div_pow, cnt_toNat]; omega

/-! ## M format -/

theorem encM_toNat (s : Bool) (op : BitVec 6) (d a : GReg) (pri : BitVec 2) (na : Bool) (sc : BitVec 3) (off : BitVec 5) :
    (encM s op d a pri na sc off).toNat = 2 ^ 30 + s.toNat * 2 ^ 29 + op.toNat * 2 ^ 23 + d.toNat * 2 ^ 17 + a.toNat * 2 ^ 11
      + pri.toNat * 2 ^ 9 + na.toNat * 2 ^ 8 + sc.toNat * 2 ^ 5 + off.toNat := by
  have e : (encM s op d a pri na sc off).toNat =
      (((((((((1#2).toNat * 2 ^ 1 + (flag s).toNat) * 2 ^ 6 + op.toNat) * 2 ^ 6 + d.toNat) * 2 ^ 6 + a.toNat) * 2 ^ 2
        + pri.toNat) * 2 ^ 1 + (flag na).toNat) * 2 ^ 3 + sc.toNat) * 2 ^ 5 + off.toNat) := by
    rw [← toNat_append, ← toNat_append, ← toNat_append, ← toNat_append, ← toNat_append, ← toNat_append, ← toNat_append,
      ← toNat_append]; rfl
  rw [e]; simp [flag]; omega

section M
variable (s : Bool) (op : BitVec 6) (d a : GReg) (pri : BitVec 2) (na : Bool) (sc : BitVec 3) (off : BitVec 5)

@[simp] theorem encM_cls : pCls (encM s op d a pri na sc off) = 1 := by
  apply BitVec.eq_of_toNat_eq
  have := op.isLt; have := d.isLt; have := a.isLt; have := pri.isLt; have := sc.isLt; have := off.isLt
  have := toNat_lt_two s; have := toNat_lt_two na
  simp only [pCls, BitVec.extractLsb'_toNat, encM_toNat, Nat.shiftRight_eq_div_pow]; simp; omega
@[simp] theorem encM_S : pS (encM s op d a pri na sc off) = s := by
  have := op.isLt; have := d.isLt; have := a.isLt; have := pri.isLt; have := sc.isLt; have := off.isLt
  have := toNat_lt_two na
  simp only [pS, BitVec.getLsbD, encM_toNat, Nat.testBit_eq_decide_div_mod_eq]
  cases s <;> simp <;> omega
@[simp] theorem encM_op : pOp (encM s op d a pri na sc off) = op := by
  apply BitVec.eq_of_toNat_eq
  have := op.isLt; have := d.isLt; have := a.isLt; have := pri.isLt; have := sc.isLt; have := off.isLt
  have := toNat_lt_two s; have := toNat_lt_two na
  simp only [pOp, BitVec.extractLsb'_toNat, encM_toNat, Nat.shiftRight_eq_div_pow]; omega
@[simp] theorem encM_d : pD (encM s op d a pri na sc off) = d := by
  apply BitVec.eq_of_toNat_eq
  have := op.isLt; have := d.isLt; have := a.isLt; have := pri.isLt; have := sc.isLt; have := off.isLt
  have := toNat_lt_two s; have := toNat_lt_two na
  simp only [pD, BitVec.extractLsb'_toNat, encM_toNat, Nat.shiftRight_eq_div_pow]; omega
@[simp] theorem encM_a : pA (encM s op d a pri na sc off) = a := by
  apply BitVec.eq_of_toNat_eq
  have := op.isLt; have := d.isLt; have := a.isLt; have := pri.isLt; have := sc.isLt; have := off.isLt
  have := toNat_lt_two s; have := toNat_lt_two na
  simp only [pA, BitVec.extractLsb'_toNat, encM_toNat, Nat.shiftRight_eq_div_pow]; omega
@[simp] theorem encM_pri : pPri (encM s op d a pri na sc off) = pri := by
  apply BitVec.eq_of_toNat_eq
  have := op.isLt; have := d.isLt; have := a.isLt; have := pri.isLt; have := sc.isLt; have := off.isLt
  have := toNat_lt_two s; have := toNat_lt_two na
  simp only [pPri, BitVec.extractLsb'_toNat, encM_toNat, Nat.shiftRight_eq_div_pow]; omega
@[simp] theorem encM_na : pNa (encM s op d a pri na sc off) = na := by
  have := op.isLt; have := d.isLt; have := a.isLt; have := pri.isLt; have := sc.isLt; have := off.isLt
  have := toNat_lt_two s
  simp only [pNa, BitVec.getLsbD, encM_toNat, Nat.testBit_eq_decide_div_mod_eq]
  cases na <;> simp <;> omega
@[simp] theorem encM_scope : pScope (encM s op d a pri na sc off) = sc := by
  apply BitVec.eq_of_toNat_eq
  have := op.isLt; have := d.isLt; have := a.isLt; have := pri.isLt; have := sc.isLt; have := off.isLt
  have := toNat_lt_two s; have := toNat_lt_two na
  simp only [pScope, BitVec.extractLsb'_toNat, encM_toNat, Nat.shiftRight_eq_div_pow]; omega
@[simp] theorem encM_off : (encM s op d a pri na sc off).extractLsb' 0 5 = off := by
  apply BitVec.eq_of_toNat_eq
  have := op.isLt; have := d.isLt; have := a.isLt; have := pri.isLt; have := sc.isLt; have := off.isLt
  have := toNat_lt_two s; have := toNat_lt_two na
  simp only [BitVec.extractLsb'_toNat, encM_toNat, Nat.shiftRight_eq_div_pow]; omega
end M

/-! ## B format, jumps and the prefix -/

theorem encB_toNat (s : Bool) (op : BitVec 6) (a b : GReg) (off : BitVec 11) :
    (encB s op a b off).toNat = 2 ^ 31 + s.toNat * 2 ^ 29 + op.toNat * 2 ^ 23 + a.toNat * 2 ^ 17 + b.toNat * 2 ^ 11 + off.toNat := by
  have e : (encB s op a b off).toNat =
      ((((((2#2).toNat * 2 ^ 1 + (flag s).toNat) * 2 ^ 6 + op.toNat) * 2 ^ 6 + a.toNat) * 2 ^ 6 + b.toNat) * 2 ^ 11
        + off.toNat) := by
    rw [← toNat_append, ← toNat_append, ← toNat_append, ← toNat_append, ← toNat_append]; rfl
  rw [e]; simp [flag]; omega

section B
variable (s : Bool) (op : BitVec 6) (a b : GReg) (off : BitVec 11)

@[simp] theorem encB_cls : pCls (encB s op a b off) = 2 := by
  apply BitVec.eq_of_toNat_eq
  have := op.isLt; have := a.isLt; have := b.isLt; have := off.isLt; have := toNat_lt_two s
  simp only [pCls, BitVec.extractLsb'_toNat, encB_toNat, Nat.shiftRight_eq_div_pow]; simp; omega
@[simp] theorem encB_S : pS (encB s op a b off) = s := by
  have := op.isLt; have := a.isLt; have := b.isLt; have := off.isLt
  simp only [pS, BitVec.getLsbD, encB_toNat, Nat.testBit_eq_decide_div_mod_eq]
  cases s <;> simp <;> omega
@[simp] theorem encB_op : pOp (encB s op a b off) = op := by
  apply BitVec.eq_of_toNat_eq
  have := op.isLt; have := a.isLt; have := b.isLt; have := off.isLt; have := toNat_lt_two s
  simp only [pOp, BitVec.extractLsb'_toNat, encB_toNat, Nat.shiftRight_eq_div_pow]; omega
@[simp] theorem encB_a : bA (encB s op a b off) = a := by
  apply BitVec.eq_of_toNat_eq
  have := op.isLt; have := a.isLt; have := b.isLt; have := off.isLt; have := toNat_lt_two s
  simp only [bA, pD, BitVec.extractLsb'_toNat, encB_toNat, Nat.shiftRight_eq_div_pow]; omega
@[simp] theorem encB_b : bB (encB s op a b off) = b := by
  apply BitVec.eq_of_toNat_eq
  have := op.isLt; have := a.isLt; have := b.isLt; have := off.isLt; have := toNat_lt_two s
  simp only [bB, pA, BitVec.extractLsb'_toNat, encB_toNat, Nat.shiftRight_eq_div_pow]; omega
@[simp] theorem encB_off : pImm (encB s op a b off) = off := by
  apply BitVec.eq_of_toNat_eq
  have := op.isLt; have := a.isLt; have := b.isLt; have := off.isLt; have := toNat_lt_two s
  simp only [pImm, BitVec.extractLsb'_toNat, encB_toNat, Nat.shiftRight_eq_div_pow]; omega
end B

theorem encJ_toNat (s : Bool) (op : BitVec 6) (off : BitVec 23) :
    (encJ s op off).toNat = 2 ^ 31 + s.toNat * 2 ^ 29 + op.toNat * 2 ^ 23 + off.toNat := by
  have e : (encJ s op off).toNat = ((((2#2).toNat * 2 ^ 1 + (flag s).toNat) * 2 ^ 6 + op.toNat) * 2 ^ 23 + off.toNat) := by
    rw [← toNat_append, ← toNat_append, ← toNat_append]; rfl
  rw [e]; simp [flag]; omega

section J
variable (s : Bool) (op : BitVec 6) (off : BitVec 23)

@[simp] theorem encJ_cls : pCls (encJ s op off) = 2 := by
  apply BitVec.eq_of_toNat_eq
  have := op.isLt; have := off.isLt; have := toNat_lt_two s
  simp only [pCls, BitVec.extractLsb'_toNat, encJ_toNat, Nat.shiftRight_eq_div_pow]; simp; omega
@[simp] theorem encJ_S : pS (encJ s op off) = s := by
  have := op.isLt; have := off.isLt
  simp only [pS, BitVec.getLsbD, encJ_toNat, Nat.testBit_eq_decide_div_mod_eq]
  cases s <;> simp <;> omega
@[simp] theorem encJ_op : pOp (encJ s op off) = op := by
  apply BitVec.eq_of_toNat_eq
  have := op.isLt; have := off.isLt; have := toNat_lt_two s
  simp only [pOp, BitVec.extractLsb'_toNat, encJ_toNat, Nat.shiftRight_eq_div_pow]; omega
@[simp] theorem encJ_off : pOff23 (encJ s op off) = off := by
  apply BitVec.eq_of_toNat_eq
  have := op.isLt; have := off.isLt; have := toNat_lt_two s
  simp only [pOff23, BitVec.extractLsb'_toNat, encJ_toNat, Nat.shiftRight_eq_div_pow]; omega
end J

theorem encP_toNat (s : Bool) (ext : BitVec 23) :
    (encP s ext).toNat = 2 ^ 30 + s.toNat * 2 ^ 29 + 63 * 2 ^ 23 + ext.toNat := by
  have e : (encP s ext).toNat = ((((1#2).toNat * 2 ^ 1 + (flag s).toNat) * 2 ^ 6 + (0x3F#6).toNat) * 2 ^ 23 + ext.toNat) := by
    rw [← toNat_append, ← toNat_append, ← toNat_append]; rfl
  rw [e]; simp [flag]; omega

section P
variable (s : Bool) (ext : BitVec 23)

@[simp] theorem encP_cls : pCls (encP s ext) = 1 := by
  apply BitVec.eq_of_toNat_eq
  have := ext.isLt; have := toNat_lt_two s
  simp only [pCls, BitVec.extractLsb'_toNat, encP_toNat, Nat.shiftRight_eq_div_pow]; simp; omega
@[simp] theorem encP_S : pS (encP s ext) = s := by
  have := ext.isLt
  simp only [pS, BitVec.getLsbD, encP_toNat, Nat.testBit_eq_decide_div_mod_eq]
  cases s <;> simp <;> omega
@[simp] theorem encP_op : pOp (encP s ext) = 0x3F := by
  apply BitVec.eq_of_toNat_eq
  have := ext.isLt; have := toNat_lt_two s
  simp only [pOp, BitVec.extractLsb'_toNat, encP_toNat, Nat.shiftRight_eq_div_pow]; simp; omega
@[simp] theorem encP_off : pOff23 (encP s ext) = ext := by
  apply BitVec.eq_of_toNat_eq
  have := ext.isLt; have := toNat_lt_two s
  simp only [pOff23, BitVec.extractLsb'_toNat, encP_toNat, Nat.shiftRight_eq_div_pow]; omega
@[simp] theorem encP_isPrefix : isPrefix (encP s ext) = true := by simp [isPrefix]
end P

theorem encL_toNat (p q : Parcel) : (encL p q).toNat = q.toNat * 2 ^ 32 + p.toNat := toNat_append 32 32 q p

/-! ## Lane words -/

theorem encLane_toNat (op : BitVec 10) (x : LaneWord) :
    (encLane op x).toNat = 3 * 2 ^ 62 + op.toNat * 2 ^ 52 + x.d.toNat * 2 ^ 44 + x.a.toNat * 2 ^ 36 + x.b.toNat * 2 ^ 28
      + x.c.toNat * 2 ^ 20 + x.neg.toNat * 2 ^ 19 + x.sel.toNat * 2 ^ 15 + x.stall.toNat * 2 ^ 11 + x.t.toNat * 2 ^ 10
      + x.mods.toNat := by
  have e : (encLane op x).toNat =
      ((((((((((3#2).toNat * 2 ^ 10 + op.toNat) * 2 ^ 8 + x.d.toNat) * 2 ^ 8 + x.a.toNat) * 2 ^ 8 + x.b.toNat) * 2 ^ 8
        + x.c.toNat) * 2 ^ 1 + (flag x.neg).toNat) * 2 ^ 4 + x.sel.toNat) * 2 ^ 4 + x.stall.toNat) * 2 ^ 1
        + (flag x.t).toNat) * 2 ^ 10 + x.mods.toNat := by
    rw [← toNat_append, ← toNat_append, ← toNat_append, ← toNat_append, ← toNat_append, ← toNat_append, ← toNat_append,
      ← toNat_append, ← toNat_append, ← toNat_append]; rfl
  rw [e]; simp [flag]; omega

@[simp] theorem encLane_cls (op : BitVec 10) (x : LaneWord) : lCls (encLane op x) = 3 := by
  apply BitVec.eq_of_toNat_eq
  have := op.isLt; have := x.d.isLt; have := x.a.isLt; have := x.b.isLt; have := x.c.isLt; have := x.sel.isLt
  have := x.stall.isLt; have := x.mods.isLt; have := toNat_lt_two x.neg; have := toNat_lt_two x.t
  simp only [lCls, BitVec.extractLsb'_toNat, encLane_toNat, Nat.shiftRight_eq_div_pow]; simp; omega

@[simp] theorem encLane_op (op : BitVec 10) (x : LaneWord) : lOp (encLane op x) = op := by
  apply BitVec.eq_of_toNat_eq
  have := op.isLt; have := x.d.isLt; have := x.a.isLt; have := x.b.isLt; have := x.c.isLt; have := x.sel.isLt
  have := x.stall.isLt; have := x.mods.isLt; have := toNat_lt_two x.neg; have := toNat_lt_two x.t
  simp only [lOp, BitVec.extractLsb'_toNat, encLane_toNat, Nat.shiftRight_eq_div_pow]; omega

@[simp] theorem encLane_fields (op : BitVec 10) (x : LaneWord) : laneFields (encLane op x) = x := by
  have := op.isLt; have := x.d.isLt; have := x.a.isLt; have := x.b.isLt; have := x.c.isLt; have := x.sel.isLt
  have := x.stall.isLt; have := x.mods.isLt; have := toNat_lt_two x.neg; have := toNat_lt_two x.t
  have bit (k : Nat) (b : Bool) (h : (encLane op x).toNat / 2 ^ k % 2 = b.toNat) : (encLane op x).getLsbD k = b := by
    rw [BitVec.getLsbD, Nat.testBit_eq_decide_div_mod_eq, h]; cases b <;> decide
  have fld (w k : Nat) (y : BitVec w) (h : (encLane op x).toNat / 2 ^ k % 2 ^ w = y.toNat) :
      (encLane op x).extractLsb' k w = y := by
    apply BitVec.eq_of_toNat_eq; rw [BitVec.extractLsb'_toNat, Nat.shiftRight_eq_div_pow, h]
  unfold laneFields
  rw [fld 8 44 x.d (by rw [encLane_toNat]; omega), fld 8 36 x.a (by rw [encLane_toNat]; omega),
    fld 8 28 x.b (by rw [encLane_toNat]; omega), fld 8 20 x.c (by rw [encLane_toNat]; omega),
    fld 4 15 x.sel (by rw [encLane_toNat]; omega), fld 4 11 x.stall (by rw [encLane_toNat]; omega),
    fld 10 0 x.mods (by rw [encLane_toNat]; omega), bit 19 x.neg (by rw [encLane_toNat]; omega),
    bit 10 x.t (by rw [encLane_toNat]; omega)]

end Sys2Proof.Laws
end

