-- ==== Sys2Proof/Laws/Table.lean ====
section
/-! SUPPORT. Tables: reading after writing. Byte memories: reading after writing, and the canonical form, which
every operation on a memory keeps. -/

namespace Sys2Proof.Machine

/-! ## Tables -/

namespace Table
variable {κ α : Type} [DecidableEq κ]

@[simp] theorem get_nil (k : κ) (d : α) : get ([] : Table κ α) k d = d := rfl
@[simp] theorem find_nil (k : κ) : find ([] : Table κ α) k = none := rfl

@[simp] theorem get_set_self (t : Table κ α) (k : κ) (v d : α) : get (set t k v) k d = v := by
  induction t with
  | nil => simp [set, get]
  | cons e t ih =>
    obtain ⟨k', v'⟩ := e
    by_cases h : k' = k <;> simp [set, get, h, ih]

theorem get_set_ne (t : Table κ α) {k k' : κ} (h : k' ≠ k) (v d : α) : get (set t k v) k' d = get t k' d := by
  induction t with
  | nil => simp [set, get, h.symm]
  | cons e t ih =>
    obtain ⟨a, b⟩ := e
    by_cases ha : a = k
    · subst ha; simp [set, get, h.symm]
    · simp only [set, ha, if_false, get, ih]

theorem get_set (t : Table κ α) (k k' : κ) (v d : α) : get (set t k v) k' d = if k' = k then v else get t k' d := by
  split
  · next h => subst h; exact get_set_self t k' v d
  · next h => exact get_set_ne t h v d

@[simp] theorem find_set_self (t : Table κ α) (k : κ) (v : α) : find (set t k v) k = some v := by
  induction t with
  | nil => simp [set, find]
  | cons e t ih =>
    obtain ⟨k', v'⟩ := e
    by_cases h : k' = k <;> simp [set, find, h, ih]

theorem find_set_ne (t : Table κ α) {k k' : κ} (h : k' ≠ k) (v : α) : find (set t k v) k' = find t k' := by
  induction t with
  | nil => simp [set, find, h.symm]
  | cons e t ih =>
    obtain ⟨a, b⟩ := e
    by_cases ha : a = k
    · subst ha; simp [set, find, h.symm]
    · simp only [set, ha, if_false, find, ih]

theorem get_eq_find (t : Table κ α) (k : κ) (d : α) : get t k d = (find t k).getD d := by
  induction t with
  | nil => rfl
  | cons e t ih =>
    obtain ⟨a, b⟩ := e
    by_cases h : a = k <;> simp [get, find, h, ih]

/-- A property of every value of a table is kept by writing a value that has it. -/
theorem all_set (p : κ × α → Bool) (t : Table κ α) (k : κ) (v : α) (ht : t.all p = true) (hv : p (k, v) = true) :
    (set t k v).all p = true := by
  induction t with
  | nil => simp [set, hv]
  | cons e t ih =>
    obtain ⟨a, b⟩ := e
    simp only [List.all_cons, Bool.and_eq_true] at ht
    by_cases h : a = k
    · simp [set, h, hv, ht.2]
    · simp [set, h, ht.1, ih ht.2]

/-- What holds of the default and of every listed value holds of what is read. -/
theorem get_of_all (p : κ × α → Bool) (t : Table κ α) (k : κ) (d : α) (ht : t.all p = true) (hd : p (k, d) = true) :
    p (k, get t k d) = true := by
  induction t with
  | nil => exact hd
  | cons e t ih =>
    obtain ⟨a, b⟩ := e
    simp only [List.all_cons, Bool.and_eq_true] at ht
    by_cases h : a = k
    · subst h; simpa [get] using ht.1
    · simpa [get, h] using ih ht.2

end Table

/-! ## Byte memories -/

namespace Mem

@[simp] theorem wf_nil : wf [] = true := rfl
@[simp] theorem read_nil (a : Nat) : read [] a = unlisted := rfl

theorem wfFrom_mono {lo lo' : Nat} (h : lo' ≤ lo) (m : Mem) (hm : wfFrom lo m = true) : wfFrom lo' m = true := by
  cases m with
  | nil => rfl
  | cons c m =>
    obtain ⟨a, b⟩ := c
    simp only [wfFrom, Bool.and_eq_true, decide_eq_true_eq] at hm ⊢
    exact ⟨⟨le_trans h hm.1.1, hm.1.2⟩, hm.2⟩

/-- An address below the bound of a canonical list is not listed. -/
theorem read_lt {lo a : Nat} (m : Mem) (hm : wfFrom lo m = true) (h : a < lo) : read m a = unlisted := by
  induction m generalizing lo with
  | nil => rfl
  | cons c m ih =>
    obtain ⟨k, b⟩ := c
    simp only [wfFrom, Bool.and_eq_true, decide_eq_true_eq] at hm
    have hk : k ≠ a := by omega
    simp only [read, hk, if_false]
    exact ih hm.2 (by omega)

/-- A write keeps the canonical form above a bound that the address respects. -/
theorem wfFrom_write {lo : Nat} (m : Mem) (a : Nat) (b : Byte) (hm : wfFrom lo m = true) (h : lo ≤ a) :
    wfFrom lo (write m a b) = true := by
  induction m generalizing lo with
  | nil =>
    by_cases hb : b = unlisted
    · simp [write, hb, wfFrom]
    · simp [write, hb, wfFrom, h]
  | cons c m ih =>
    obtain ⟨k, v⟩ := c
    simp only [wfFrom, Bool.and_eq_true, decide_eq_true_eq] at hm
    obtain ⟨⟨hk, hv⟩, hm⟩ := hm
    simp only [write]
    split
    · next hlt =>
      split
      · simp [wfFrom, hk, hv, hm]
      · next hb => simp [wfFrom, h, hb, hv, hm]; omega
    · next hge =>
      split
      · next heq =>
        split
        · exact wfFrom_mono (by omega) m hm
        · next hb => subst heq; simp [wfFrom, h, hb, hm]
      · next hne => simp [wfFrom, hk, hv, ih hm (by omega)]

/-- A write keeps the canonical form. -/
theorem wf_write (m : Mem) (a : Nat) (b : Byte) (hm : wf m = true) : wf (write m a b) = true :=
  wfFrom_write m a b hm (Nat.zero_le a)

theorem wf_writeList (m : Mem) (a : Nat) (bs : List Byte) (hm : wf m = true) : wf (writeList m a bs) = true := by
  induction bs generalizing m a with
  | nil => exact hm
  | cons b bs ih => exact ih _ _ (wf_write m a b hm)

theorem wf_writeNat (m : Mem) (a n x : Nat) (hm : wf m = true) : wf (m.writeNat a n x) = true := wf_writeList _ _ _ hm

theorem wfFrom_filter (p : Host.Cell → Bool) {lo : Nat} (m : Mem) (hm : wfFrom lo m = true) :
    wfFrom lo (m.filter p) = true := by
  induction m generalizing lo with
  | nil => rfl
  | cons c m ih =>
    obtain ⟨k, v⟩ := c
    simp only [wfFrom, Bool.and_eq_true, decide_eq_true_eq] at hm
    by_cases hp : p (k, v) = true
    · simp [List.filter, hp, wfFrom, hm.1.1, hm.1.2, ih hm.2]
    · simp only [Bool.not_eq_true] at hp
      simp only [List.filter, hp]
      exact ih (wfFrom_mono (by omega) m hm.2)

theorem wf_clearRange (m : Mem) (lo hi : Nat) (hm : wf m = true) : wf (clearRange m lo hi) = true := wfFrom_filter _ m hm

/-- A byte that has just been written reads back. -/
theorem read_write_self {lo : Nat} (m : Mem) (a : Nat) (b : Byte) (hm : wfFrom lo m = true) : read (write m a b) a = b := by
  induction m generalizing lo with
  | nil =>
    by_cases hb : b = unlisted
    · simp [write, hb]
    · simp [write, hb, read]
  | cons c m ih =>
    obtain ⟨k, v⟩ := c
    simp only [wfFrom, Bool.and_eq_true, decide_eq_true_eq] at hm
    simp only [write]
    split
    · next hlt =>
      split
      · next hb =>
        subst hb
        have hk : k ≠ a := by omega
        simp only [read, hk, if_false]
        exact read_lt m hm.2 (by omega)
      · simp [read]
    · next hge =>
      split
      · next heq =>
        split
        · next hb => subst hb; subst heq; exact read_lt m hm.2 (by omega)
        · simp [read]
      · next hne =>
        have hk : k ≠ a := fun e => hne e.symm
        simp only [read, hk, if_false]
        exact ih hm.2

/-- A write leaves every other byte alone. -/
theorem read_write_ne (m : Mem) {a a' : Nat} (b : Byte) (h : a' ≠ a) : read (write m a b) a' = read m a' := by
  induction m with
  | nil =>
    by_cases hb : b = unlisted
    · simp [write, hb]
    · simp [write, hb, read, h.symm]
  | cons c m ih =>
    obtain ⟨k, v⟩ := c
    simp only [write]
    split
    · split <;> simp [read, h.symm]
    · split
      · next heq =>
        have hk : k ≠ a' := fun e => h (by omega)
        split <;> simp [read, hk, h.symm]
      · simp only [read, ih]

/-- Bytes outside a written range read as before. -/
theorem read_writeList_out (m : Mem) (a : Nat) (bs : List Byte) {a' : Nat} (h : a' < a ∨ a + bs.length ≤ a') :
    read (writeList m a bs) a' = read m a' := by
  induction bs generalizing m a with
  | nil => rfl
  | cons b bs ih =>
    simp only [List.length_cons] at h
    simp only [writeList]
    rw [ih _ _ (by omega), read_write_ne _ _ (by omega)]

/-- A byte of a written range reads as it was written. -/
theorem read_writeList_in (m : Mem) (a : Nat) (bs : List Byte) (hm : wf m = true) (i : Nat) (hi : i < bs.length) :
    read (writeList m a bs) (a + i) = bs.getD i 0 := by
  induction bs generalizing m a i with
  | nil => simp at hi
  | cons b bs ih =>
    simp only [writeList]
    cases i with
    | zero => rw [read_writeList_out _ _ _ (by omega)]; simp [read_write_self m a b hm]
    | succ i =>
      have := ih (write m a b) (a + 1) (wf_write m a b hm) i (by simpa using hi)
      rw [show a + (i + 1) = a + 1 + i by omega, this]
      simp

@[simp] theorem readList_length (m : Mem) (a n : Nat) : (readList m a n).length = n := by
  induction n generalizing a with
  | zero => rfl
  | succ n ih => simp [readList, ih]

end Mem

@[simp] theorem leBytes_length (n x : Nat) : (leBytes n x).length = n := by
  induction n generalizing x with
  | zero => rfl
  | succ n ih => simp [leBytes, ih]

/-- Little-endian bytes denote the number they were made from (R3). -/
theorem leNat_leBytes (n x : Nat) : leNat (leBytes n x) = x % 2 ^ (8 * n) := by
  induction n generalizing x with
  | zero => simp [leBytes, leNat, Nat.mod_one]
  | succ n ih =>
    have h : (2 : Nat) ^ (8 * (n + 1)) = 256 * 2 ^ (8 * n) := by rw [Nat.mul_add, pow_add]; ring
    rw [leBytes, leNat, ih, h, Nat.mod_mul]
    simp [BitVec.toNat_ofNat]

end Sys2Proof.Machine
end

