-- ==== Sys2Proof/Laws/State.lean ====
section
/-! SUPPORT. What each update of the state leaves alone, field by field and table by table, and what it makes of the
table that it writes. No later proof unfolds a record update. -/

set_option Elab.async false

namespace Sys2Proof.Machine.State

variable (s : State)


/-! ### setClu -/

@[simp] theorem setClu_now (p : Nat) (x : Cluster) : (s.setClu p x).now = s.now := rfl
@[simp] theorem setClu_tick (p : Nat) (x : Cluster) : (s.setClu p x).tick = s.tick := rfl
@[simp] theorem setClu_agenda (p : Nat) (x : Cluster) : (s.setClu p x).agenda = s.agenda := rfl
@[simp] theorem setClu_cur (p : Nat) (x : Cluster) : (s.setClu p x).cur = s.cur := rfl
@[simp] theorem setClu_lane (p : Nat) (x : Cluster) : (s.setClu p x).lane = s.lane := rfl
@[simp] theorem setClu_nextId (p : Nat) (x : Cluster) : (s.setClu p x).nextId = s.nextId := rfl
@[simp] theorem setClu_absent (p : Nat) (x : Cluster) : (s.setClu p x).absent = s.absent := rfl
@[simp] theorem setClu_pkg (p : Nat) (x : Cluster) : (s.setClu p x).pkg = s.pkg := rfl
@[simp] theorem setClu_dies (p : Nat) (x : Cluster) : (s.setClu p x).dies = s.dies := rfl
@[simp] theorem setClu_quads (p : Nat) (x : Cluster) : (s.setClu p x).quads = s.quads := rfl
@[simp] theorem setClu_stks (p : Nat) (x : Cluster) : (s.setClu p x).stks = s.stks := rfl
@[simp] theorem setClu_ctxs (p : Nat) (x : Cluster) : (s.setClu p x).ctxs = s.ctxs := rfl
@[simp] theorem setClu_flocks (p : Nat) (x : Cluster) : (s.setClu p x).flocks = s.flocks := rfl
@[simp] theorem setClu_queues (p : Nat) (x : Cluster) : (s.setClu p x).queues = s.queues := rfl
@[simp] theorem setClu_locals (p : Nat) (x : Cluster) : (s.setClu p x).locals = s.locals := rfl
@[simp] theorem setClu_localDirty (p : Nat) (x : Cluster) : (s.setClu p x).localDirty = s.localDirty := rfl
@[simp] theorem setClu_threads (p : Nat) (x : Cluster) : (s.setClu p x).threads = s.threads := rfl
@[simp] theorem setClu_groups (p : Nat) (x : Cluster) : (s.setClu p x).groups = s.groups := rfl
@[simp] theorem setClu_mem (p : Nat) (x : Cluster) : (s.setClu p x).mem = s.mem := rfl
@[simp] theorem setClu_homes (p : Nat) (x : Cluster) : (s.setClu p x).homes = s.homes := rfl
@[simp] theorem setClu_bias (p : Nat) (x : Cluster) : (s.setClu p x).bias = s.bias := rfl
@[simp] theorem setClu_ops (p : Nat) (x : Cluster) : (s.setClu p x).ops = s.ops := rfl
@[simp] theorem setClu_held (p : Nat) (x : Cluster) : (s.setClu p x).held = s.held := rfl
@[simp] theorem setClu_lost (p : Nat) (x : Cluster) : (s.setClu p x).lost = s.lost := rfl
@[simp] theorem setClu_ctx (p : Nat) (x : Cluster) (y : Nat) : (s.setClu p x).ctx y = s.ctx y := rfl
@[simp] theorem setClu_flk (p : Nat) (x : Cluster) (y : Nat) : (s.setClu p x).flk y = s.flk y := rfl
@[simp] theorem setClu_thr (p : Nat) (x : Cluster) (y : Tid) : (s.setClu p x).thr y = s.thr y := rfl
@[simp] theorem setClu_grp (p : Nat) (x : Cluster) (y z w : Nat) : (s.setClu p x).grp y z w = s.grp y z w := rfl
@[simp] theorem setClu_die (p : Nat) (x : Cluster) (y : Nat) : (s.setClu p x).die y = s.die y := rfl
@[simp] theorem setClu_quad (p : Nat) (x : Cluster) (y : Nat) : (s.setClu p x).quad y = s.quad y := rfl
@[simp] theorem setClu_stk (p : Nat) (x : Cluster) (y : Nat) : (s.setClu p x).stk y = s.stk y := rfl
@[simp] theorem setClu_que (p : Nat) (x : Cluster) (y : Nat) : (s.setClu p x).que y = s.que y := rfl
@[simp] theorem setClu_homeOf (p : Nat) (x : Cluster) (y : Nat) : (s.setClu p x).homeOf y = s.homeOf y := rfl
@[simp] theorem setClu_localMem (p : Nat) (x : Cluster) (y z : Nat) : (s.setClu p x).localMem y z = s.localMem y z := rfl
@[simp] theorem setClu_pidOf (p : Nat) (x : Cluster) (y z : Nat) : (s.setClu p x).pidOf y z = s.pidOf y z := rfl
@[simp] theorem setClu_ctxOf (p : Nat) (x : Cluster) (y : Tid) : (s.setClu p x).ctxOf y = s.ctxOf y := rfl

/-! ### modClu -/

@[simp] theorem modClu_now (p : Nat) (f : Cluster → Cluster) : (s.modClu p f).now = s.now := rfl
@[simp] theorem modClu_tick (p : Nat) (f : Cluster → Cluster) : (s.modClu p f).tick = s.tick := rfl
@[simp] theorem modClu_agenda (p : Nat) (f : Cluster → Cluster) : (s.modClu p f).agenda = s.agenda := rfl
@[simp] theorem modClu_cur (p : Nat) (f : Cluster → Cluster) : (s.modClu p f).cur = s.cur := rfl
@[simp] theorem modClu_lane (p : Nat) (f : Cluster → Cluster) : (s.modClu p f).lane = s.lane := rfl
@[simp] theorem modClu_nextId (p : Nat) (f : Cluster → Cluster) : (s.modClu p f).nextId = s.nextId := rfl
@[simp] theorem modClu_absent (p : Nat) (f : Cluster → Cluster) : (s.modClu p f).absent = s.absent := rfl
@[simp] theorem modClu_pkg (p : Nat) (f : Cluster → Cluster) : (s.modClu p f).pkg = s.pkg := rfl
@[simp] theorem modClu_dies (p : Nat) (f : Cluster → Cluster) : (s.modClu p f).dies = s.dies := rfl
@[simp] theorem modClu_quads (p : Nat) (f : Cluster → Cluster) : (s.modClu p f).quads = s.quads := rfl
@[simp] theorem modClu_stks (p : Nat) (f : Cluster → Cluster) : (s.modClu p f).stks = s.stks := rfl
@[simp] theorem modClu_ctxs (p : Nat) (f : Cluster → Cluster) : (s.modClu p f).ctxs = s.ctxs := rfl
@[simp] theorem modClu_flocks (p : Nat) (f : Cluster → Cluster) : (s.modClu p f).flocks = s.flocks := rfl
@[simp] theorem modClu_queues (p : Nat) (f : Cluster → Cluster) : (s.modClu p f).queues = s.queues := rfl
@[simp] theorem modClu_locals (p : Nat) (f : Cluster → Cluster) : (s.modClu p f).locals = s.locals := rfl
@[simp] theorem modClu_localDirty (p : Nat) (f : Cluster → Cluster) : (s.modClu p f).localDirty = s.localDirty := rfl
@[simp] theorem modClu_threads (p : Nat) (f : Cluster → Cluster) : (s.modClu p f).threads = s.threads := rfl
@[simp] theorem modClu_groups (p : Nat) (f : Cluster → Cluster) : (s.modClu p f).groups = s.groups := rfl
@[simp] theorem modClu_mem (p : Nat) (f : Cluster → Cluster) : (s.modClu p f).mem = s.mem := rfl
@[simp] theorem modClu_homes (p : Nat) (f : Cluster → Cluster) : (s.modClu p f).homes = s.homes := rfl
@[simp] theorem modClu_bias (p : Nat) (f : Cluster → Cluster) : (s.modClu p f).bias = s.bias := rfl
@[simp] theorem modClu_ops (p : Nat) (f : Cluster → Cluster) : (s.modClu p f).ops = s.ops := rfl
@[simp] theorem modClu_held (p : Nat) (f : Cluster → Cluster) : (s.modClu p f).held = s.held := rfl
@[simp] theorem modClu_lost (p : Nat) (f : Cluster → Cluster) : (s.modClu p f).lost = s.lost := rfl
@[simp] theorem modClu_ctx (p : Nat) (f : Cluster → Cluster) (y : Nat) : (s.modClu p f).ctx y = s.ctx y := rfl
@[simp] theorem modClu_flk (p : Nat) (f : Cluster → Cluster) (y : Nat) : (s.modClu p f).flk y = s.flk y := rfl
@[simp] theorem modClu_thr (p : Nat) (f : Cluster → Cluster) (y : Tid) : (s.modClu p f).thr y = s.thr y := rfl
@[simp] theorem modClu_grp (p : Nat) (f : Cluster → Cluster) (y z w : Nat) : (s.modClu p f).grp y z w = s.grp y z w := rfl
@[simp] theorem modClu_die (p : Nat) (f : Cluster → Cluster) (y : Nat) : (s.modClu p f).die y = s.die y := rfl
@[simp] theorem modClu_quad (p : Nat) (f : Cluster → Cluster) (y : Nat) : (s.modClu p f).quad y = s.quad y := rfl
@[simp] theorem modClu_stk (p : Nat) (f : Cluster → Cluster) (y : Nat) : (s.modClu p f).stk y = s.stk y := rfl
@[simp] theorem modClu_que (p : Nat) (f : Cluster → Cluster) (y : Nat) : (s.modClu p f).que y = s.que y := rfl
@[simp] theorem modClu_homeOf (p : Nat) (f : Cluster → Cluster) (y : Nat) : (s.modClu p f).homeOf y = s.homeOf y := rfl
@[simp] theorem modClu_localMem (p : Nat) (f : Cluster → Cluster) (y z : Nat) : (s.modClu p f).localMem y z = s.localMem y z := rfl
@[simp] theorem modClu_pidOf (p : Nat) (f : Cluster → Cluster) (y z : Nat) : (s.modClu p f).pidOf y z = s.pidOf y z := rfl
@[simp] theorem modClu_ctxOf (p : Nat) (f : Cluster → Cluster) (y : Tid) : (s.modClu p f).ctxOf y = s.ctxOf y := rfl

/-! ### setCtx -/

@[simp] theorem setCtx_now (c : Nat) (x : Ctx) : (s.setCtx c x).now = s.now := rfl
@[simp] theorem setCtx_tick (c : Nat) (x : Ctx) : (s.setCtx c x).tick = s.tick := rfl
@[simp] theorem setCtx_agenda (c : Nat) (x : Ctx) : (s.setCtx c x).agenda = s.agenda := rfl
@[simp] theorem setCtx_cur (c : Nat) (x : Ctx) : (s.setCtx c x).cur = s.cur := rfl
@[simp] theorem setCtx_lane (c : Nat) (x : Ctx) : (s.setCtx c x).lane = s.lane := rfl
@[simp] theorem setCtx_nextId (c : Nat) (x : Ctx) : (s.setCtx c x).nextId = s.nextId := rfl
@[simp] theorem setCtx_absent (c : Nat) (x : Ctx) : (s.setCtx c x).absent = s.absent := rfl
@[simp] theorem setCtx_pkg (c : Nat) (x : Ctx) : (s.setCtx c x).pkg = s.pkg := rfl
@[simp] theorem setCtx_dies (c : Nat) (x : Ctx) : (s.setCtx c x).dies = s.dies := rfl
@[simp] theorem setCtx_quads (c : Nat) (x : Ctx) : (s.setCtx c x).quads = s.quads := rfl
@[simp] theorem setCtx_stks (c : Nat) (x : Ctx) : (s.setCtx c x).stks = s.stks := rfl
@[simp] theorem setCtx_clusters (c : Nat) (x : Ctx) : (s.setCtx c x).clusters = s.clusters := rfl
@[simp] theorem setCtx_flocks (c : Nat) (x : Ctx) : (s.setCtx c x).flocks = s.flocks := rfl
@[simp] theorem setCtx_queues (c : Nat) (x : Ctx) : (s.setCtx c x).queues = s.queues := rfl
@[simp] theorem setCtx_locals (c : Nat) (x : Ctx) : (s.setCtx c x).locals = s.locals := rfl
@[simp] theorem setCtx_localDirty (c : Nat) (x : Ctx) : (s.setCtx c x).localDirty = s.localDirty := rfl
@[simp] theorem setCtx_threads (c : Nat) (x : Ctx) : (s.setCtx c x).threads = s.threads := rfl
@[simp] theorem setCtx_groups (c : Nat) (x : Ctx) : (s.setCtx c x).groups = s.groups := rfl
@[simp] theorem setCtx_mem (c : Nat) (x : Ctx) : (s.setCtx c x).mem = s.mem := rfl
@[simp] theorem setCtx_homes (c : Nat) (x : Ctx) : (s.setCtx c x).homes = s.homes := rfl
@[simp] theorem setCtx_bias (c : Nat) (x : Ctx) : (s.setCtx c x).bias = s.bias := rfl
@[simp] theorem setCtx_ops (c : Nat) (x : Ctx) : (s.setCtx c x).ops = s.ops := rfl
@[simp] theorem setCtx_held (c : Nat) (x : Ctx) : (s.setCtx c x).held = s.held := rfl
@[simp] theorem setCtx_lost (c : Nat) (x : Ctx) : (s.setCtx c x).lost = s.lost := rfl
@[simp] theorem setCtx_clu (c : Nat) (x : Ctx) (y : Nat) : (s.setCtx c x).clu y = s.clu y := rfl
@[simp] theorem setCtx_flk (c : Nat) (x : Ctx) (y : Nat) : (s.setCtx c x).flk y = s.flk y := rfl
@[simp] theorem setCtx_thr (c : Nat) (x : Ctx) (y : Tid) : (s.setCtx c x).thr y = s.thr y := rfl
@[simp] theorem setCtx_grp (c : Nat) (x : Ctx) (y z w : Nat) : (s.setCtx c x).grp y z w = s.grp y z w := rfl
@[simp] theorem setCtx_die (c : Nat) (x : Ctx) (y : Nat) : (s.setCtx c x).die y = s.die y := rfl
@[simp] theorem setCtx_quad (c : Nat) (x : Ctx) (y : Nat) : (s.setCtx c x).quad y = s.quad y := rfl
@[simp] theorem setCtx_stk (c : Nat) (x : Ctx) (y : Nat) : (s.setCtx c x).stk y = s.stk y := rfl
@[simp] theorem setCtx_que (c : Nat) (x : Ctx) (y : Nat) : (s.setCtx c x).que y = s.que y := rfl
@[simp] theorem setCtx_homeOf (c : Nat) (x : Ctx) (y : Nat) : (s.setCtx c x).homeOf y = s.homeOf y := rfl
@[simp] theorem setCtx_localMem (c : Nat) (x : Ctx) (y z : Nat) : (s.setCtx c x).localMem y z = s.localMem y z := rfl
@[simp] theorem setCtx_pidOf (c : Nat) (x : Ctx) (y z : Nat) : (s.setCtx c x).pidOf y z = s.pidOf y z := rfl
@[simp] theorem setCtx_ctxOf (c : Nat) (x : Ctx) (y : Tid) : (s.setCtx c x).ctxOf y = s.ctxOf y := rfl

/-! ### modCtx -/

@[simp] theorem modCtx_now (c : Nat) (f : Ctx → Ctx) : (s.modCtx c f).now = s.now := rfl
@[simp] theorem modCtx_tick (c : Nat) (f : Ctx → Ctx) : (s.modCtx c f).tick = s.tick := rfl
@[simp] theorem modCtx_agenda (c : Nat) (f : Ctx → Ctx) : (s.modCtx c f).agenda = s.agenda := rfl
@[simp] theorem modCtx_cur (c : Nat) (f : Ctx → Ctx) : (s.modCtx c f).cur = s.cur := rfl
@[simp] theorem modCtx_lane (c : Nat) (f : Ctx → Ctx) : (s.modCtx c f).lane = s.lane := rfl
@[simp] theorem modCtx_nextId (c : Nat) (f : Ctx → Ctx) : (s.modCtx c f).nextId = s.nextId := rfl
@[simp] theorem modCtx_absent (c : Nat) (f : Ctx → Ctx) : (s.modCtx c f).absent = s.absent := rfl
@[simp] theorem modCtx_pkg (c : Nat) (f : Ctx → Ctx) : (s.modCtx c f).pkg = s.pkg := rfl
@[simp] theorem modCtx_dies (c : Nat) (f : Ctx → Ctx) : (s.modCtx c f).dies = s.dies := rfl
@[simp] theorem modCtx_quads (c : Nat) (f : Ctx → Ctx) : (s.modCtx c f).quads = s.quads := rfl
@[simp] theorem modCtx_stks (c : Nat) (f : Ctx → Ctx) : (s.modCtx c f).stks = s.stks := rfl
@[simp] theorem modCtx_clusters (c : Nat) (f : Ctx → Ctx) : (s.modCtx c f).clusters = s.clusters := rfl
@[simp] theorem modCtx_flocks (c : Nat) (f : Ctx → Ctx) : (s.modCtx c f).flocks = s.flocks := rfl
@[simp] theorem modCtx_queues (c : Nat) (f : Ctx → Ctx) : (s.modCtx c f).queues = s.queues := rfl
@[simp] theorem modCtx_locals (c : Nat) (f : Ctx → Ctx) : (s.modCtx c f).locals = s.locals := rfl
@[simp] theorem modCtx_localDirty (c : Nat) (f : Ctx → Ctx) : (s.modCtx c f).localDirty = s.localDirty := rfl
@[simp] theorem modCtx_threads (c : Nat) (f : Ctx → Ctx) : (s.modCtx c f).threads = s.threads := rfl
@[simp] theorem modCtx_groups (c : Nat) (f : Ctx → Ctx) : (s.modCtx c f).groups = s.groups := rfl
@[simp] theorem modCtx_mem (c : Nat) (f : Ctx → Ctx) : (s.modCtx c f).mem = s.mem := rfl
@[simp] theorem modCtx_homes (c : Nat) (f : Ctx → Ctx) : (s.modCtx c f).homes = s.homes := rfl
@[simp] theorem modCtx_bias (c : Nat) (f : Ctx → Ctx) : (s.modCtx c f).bias = s.bias := rfl
@[simp] theorem modCtx_ops (c : Nat) (f : Ctx → Ctx) : (s.modCtx c f).ops = s.ops := rfl
@[simp] theorem modCtx_held (c : Nat) (f : Ctx → Ctx) : (s.modCtx c f).held = s.held := rfl
@[simp] theorem modCtx_lost (c : Nat) (f : Ctx → Ctx) : (s.modCtx c f).lost = s.lost := rfl
@[simp] theorem modCtx_clu (c : Nat) (f : Ctx → Ctx) (y : Nat) : (s.modCtx c f).clu y = s.clu y := rfl
@[simp] theorem modCtx_flk (c : Nat) (f : Ctx → Ctx) (y : Nat) : (s.modCtx c f).flk y = s.flk y := rfl
@[simp] theorem modCtx_thr (c : Nat) (f : Ctx → Ctx) (y : Tid) : (s.modCtx c f).thr y = s.thr y := rfl
@[simp] theorem modCtx_grp (c : Nat) (f : Ctx → Ctx) (y z w : Nat) : (s.modCtx c f).grp y z w = s.grp y z w := rfl
@[simp] theorem modCtx_die (c : Nat) (f : Ctx → Ctx) (y : Nat) : (s.modCtx c f).die y = s.die y := rfl
@[simp] theorem modCtx_quad (c : Nat) (f : Ctx → Ctx) (y : Nat) : (s.modCtx c f).quad y = s.quad y := rfl
@[simp] theorem modCtx_stk (c : Nat) (f : Ctx → Ctx) (y : Nat) : (s.modCtx c f).stk y = s.stk y := rfl
@[simp] theorem modCtx_que (c : Nat) (f : Ctx → Ctx) (y : Nat) : (s.modCtx c f).que y = s.que y := rfl
@[simp] theorem modCtx_homeOf (c : Nat) (f : Ctx → Ctx) (y : Nat) : (s.modCtx c f).homeOf y = s.homeOf y := rfl
@[simp] theorem modCtx_localMem (c : Nat) (f : Ctx → Ctx) (y z : Nat) : (s.modCtx c f).localMem y z = s.localMem y z := rfl
@[simp] theorem modCtx_pidOf (c : Nat) (f : Ctx → Ctx) (y z : Nat) : (s.modCtx c f).pidOf y z = s.pidOf y z := rfl
@[simp] theorem modCtx_ctxOf (c : Nat) (f : Ctx → Ctx) (y : Tid) : (s.modCtx c f).ctxOf y = s.ctxOf y := rfl

/-! ### setFlk -/

@[simp] theorem setFlk_now (i : Nat) (x : Flock) : (s.setFlk i x).now = s.now := rfl
@[simp] theorem setFlk_tick (i : Nat) (x : Flock) : (s.setFlk i x).tick = s.tick := rfl
@[simp] theorem setFlk_agenda (i : Nat) (x : Flock) : (s.setFlk i x).agenda = s.agenda := rfl
@[simp] theorem setFlk_cur (i : Nat) (x : Flock) : (s.setFlk i x).cur = s.cur := rfl
@[simp] theorem setFlk_lane (i : Nat) (x : Flock) : (s.setFlk i x).lane = s.lane := rfl
@[simp] theorem setFlk_nextId (i : Nat) (x : Flock) : (s.setFlk i x).nextId = s.nextId := rfl
@[simp] theorem setFlk_absent (i : Nat) (x : Flock) : (s.setFlk i x).absent = s.absent := rfl
@[simp] theorem setFlk_pkg (i : Nat) (x : Flock) : (s.setFlk i x).pkg = s.pkg := rfl
@[simp] theorem setFlk_dies (i : Nat) (x : Flock) : (s.setFlk i x).dies = s.dies := rfl
@[simp] theorem setFlk_quads (i : Nat) (x : Flock) : (s.setFlk i x).quads = s.quads := rfl
@[simp] theorem setFlk_stks (i : Nat) (x : Flock) : (s.setFlk i x).stks = s.stks := rfl
@[simp] theorem setFlk_clusters (i : Nat) (x : Flock) : (s.setFlk i x).clusters = s.clusters := rfl
@[simp] theorem setFlk_ctxs (i : Nat) (x : Flock) : (s.setFlk i x).ctxs = s.ctxs := rfl
@[simp] theorem setFlk_queues (i : Nat) (x : Flock) : (s.setFlk i x).queues = s.queues := rfl
@[simp] theorem setFlk_locals (i : Nat) (x : Flock) : (s.setFlk i x).locals = s.locals := rfl
@[simp] theorem setFlk_localDirty (i : Nat) (x : Flock) : (s.setFlk i x).localDirty = s.localDirty := rfl
@[simp] theorem setFlk_threads (i : Nat) (x : Flock) : (s.setFlk i x).threads = s.threads := rfl
@[simp] theorem setFlk_groups (i : Nat) (x : Flock) : (s.setFlk i x).groups = s.groups := rfl
@[simp] theorem setFlk_mem (i : Nat) (x : Flock) : (s.setFlk i x).mem = s.mem := rfl
@[simp] theorem setFlk_homes (i : Nat) (x : Flock) : (s.setFlk i x).homes = s.homes := rfl
@[simp] theorem setFlk_bias (i : Nat) (x : Flock) : (s.setFlk i x).bias = s.bias := rfl
@[simp] theorem setFlk_ops (i : Nat) (x : Flock) : (s.setFlk i x).ops = s.ops := rfl
@[simp] theorem setFlk_held (i : Nat) (x : Flock) : (s.setFlk i x).held = s.held := rfl
@[simp] theorem setFlk_lost (i : Nat) (x : Flock) : (s.setFlk i x).lost = s.lost := rfl
@[simp] theorem setFlk_clu (i : Nat) (x : Flock) (y : Nat) : (s.setFlk i x).clu y = s.clu y := rfl
@[simp] theorem setFlk_ctx (i : Nat) (x : Flock) (y : Nat) : (s.setFlk i x).ctx y = s.ctx y := rfl
@[simp] theorem setFlk_thr (i : Nat) (x : Flock) (y : Tid) : (s.setFlk i x).thr y = s.thr y := rfl
@[simp] theorem setFlk_grp (i : Nat) (x : Flock) (y z w : Nat) : (s.setFlk i x).grp y z w = s.grp y z w := rfl
@[simp] theorem setFlk_die (i : Nat) (x : Flock) (y : Nat) : (s.setFlk i x).die y = s.die y := rfl
@[simp] theorem setFlk_quad (i : Nat) (x : Flock) (y : Nat) : (s.setFlk i x).quad y = s.quad y := rfl
@[simp] theorem setFlk_stk (i : Nat) (x : Flock) (y : Nat) : (s.setFlk i x).stk y = s.stk y := rfl
@[simp] theorem setFlk_que (i : Nat) (x : Flock) (y : Nat) : (s.setFlk i x).que y = s.que y := rfl
@[simp] theorem setFlk_homeOf (i : Nat) (x : Flock) (y : Nat) : (s.setFlk i x).homeOf y = s.homeOf y := rfl
@[simp] theorem setFlk_localMem (i : Nat) (x : Flock) (y z : Nat) : (s.setFlk i x).localMem y z = s.localMem y z := rfl

/-! ### modFlk -/

@[simp] theorem modFlk_now (i : Nat) (f : Flock → Flock) : (s.modFlk i f).now = s.now := rfl
@[simp] theorem modFlk_tick (i : Nat) (f : Flock → Flock) : (s.modFlk i f).tick = s.tick := rfl
@[simp] theorem modFlk_agenda (i : Nat) (f : Flock → Flock) : (s.modFlk i f).agenda = s.agenda := rfl
@[simp] theorem modFlk_cur (i : Nat) (f : Flock → Flock) : (s.modFlk i f).cur = s.cur := rfl
@[simp] theorem modFlk_lane (i : Nat) (f : Flock → Flock) : (s.modFlk i f).lane = s.lane := rfl
@[simp] theorem modFlk_nextId (i : Nat) (f : Flock → Flock) : (s.modFlk i f).nextId = s.nextId := rfl
@[simp] theorem modFlk_absent (i : Nat) (f : Flock → Flock) : (s.modFlk i f).absent = s.absent := rfl
@[simp] theorem modFlk_pkg (i : Nat) (f : Flock → Flock) : (s.modFlk i f).pkg = s.pkg := rfl
@[simp] theorem modFlk_dies (i : Nat) (f : Flock → Flock) : (s.modFlk i f).dies = s.dies := rfl
@[simp] theorem modFlk_quads (i : Nat) (f : Flock → Flock) : (s.modFlk i f).quads = s.quads := rfl
@[simp] theorem modFlk_stks (i : Nat) (f : Flock → Flock) : (s.modFlk i f).stks = s.stks := rfl
@[simp] theorem modFlk_clusters (i : Nat) (f : Flock → Flock) : (s.modFlk i f).clusters = s.clusters := rfl
@[simp] theorem modFlk_ctxs (i : Nat) (f : Flock → Flock) : (s.modFlk i f).ctxs = s.ctxs := rfl
@[simp] theorem modFlk_queues (i : Nat) (f : Flock → Flock) : (s.modFlk i f).queues = s.queues := rfl
@[simp] theorem modFlk_locals (i : Nat) (f : Flock → Flock) : (s.modFlk i f).locals = s.locals := rfl
@[simp] theorem modFlk_localDirty (i : Nat) (f : Flock → Flock) : (s.modFlk i f).localDirty = s.localDirty := rfl
@[simp] theorem modFlk_threads (i : Nat) (f : Flock → Flock) : (s.modFlk i f).threads = s.threads := rfl
@[simp] theorem modFlk_groups (i : Nat) (f : Flock → Flock) : (s.modFlk i f).groups = s.groups := rfl
@[simp] theorem modFlk_mem (i : Nat) (f : Flock → Flock) : (s.modFlk i f).mem = s.mem := rfl
@[simp] theorem modFlk_homes (i : Nat) (f : Flock → Flock) : (s.modFlk i f).homes = s.homes := rfl
@[simp] theorem modFlk_bias (i : Nat) (f : Flock → Flock) : (s.modFlk i f).bias = s.bias := rfl
@[simp] theorem modFlk_ops (i : Nat) (f : Flock → Flock) : (s.modFlk i f).ops = s.ops := rfl
@[simp] theorem modFlk_held (i : Nat) (f : Flock → Flock) : (s.modFlk i f).held = s.held := rfl
@[simp] theorem modFlk_lost (i : Nat) (f : Flock → Flock) : (s.modFlk i f).lost = s.lost := rfl
@[simp] theorem modFlk_clu (i : Nat) (f : Flock → Flock) (y : Nat) : (s.modFlk i f).clu y = s.clu y := rfl
@[simp] theorem modFlk_ctx (i : Nat) (f : Flock → Flock) (y : Nat) : (s.modFlk i f).ctx y = s.ctx y := rfl
@[simp] theorem modFlk_thr (i : Nat) (f : Flock → Flock) (y : Tid) : (s.modFlk i f).thr y = s.thr y := rfl
@[simp] theorem modFlk_grp (i : Nat) (f : Flock → Flock) (y z w : Nat) : (s.modFlk i f).grp y z w = s.grp y z w := rfl
@[simp] theorem modFlk_die (i : Nat) (f : Flock → Flock) (y : Nat) : (s.modFlk i f).die y = s.die y := rfl
@[simp] theorem modFlk_quad (i : Nat) (f : Flock → Flock) (y : Nat) : (s.modFlk i f).quad y = s.quad y := rfl
@[simp] theorem modFlk_stk (i : Nat) (f : Flock → Flock) (y : Nat) : (s.modFlk i f).stk y = s.stk y := rfl
@[simp] theorem modFlk_que (i : Nat) (f : Flock → Flock) (y : Nat) : (s.modFlk i f).que y = s.que y := rfl
@[simp] theorem modFlk_homeOf (i : Nat) (f : Flock → Flock) (y : Nat) : (s.modFlk i f).homeOf y = s.homeOf y := rfl
@[simp] theorem modFlk_localMem (i : Nat) (f : Flock → Flock) (y z : Nat) : (s.modFlk i f).localMem y z = s.localMem y z := rfl

/-! ### setThr -/

@[simp] theorem setThr_now (t : Tid) (x : Thread) : (s.setThr t x).now = s.now := rfl
@[simp] theorem setThr_tick (t : Tid) (x : Thread) : (s.setThr t x).tick = s.tick := rfl
@[simp] theorem setThr_agenda (t : Tid) (x : Thread) : (s.setThr t x).agenda = s.agenda := rfl
@[simp] theorem setThr_cur (t : Tid) (x : Thread) : (s.setThr t x).cur = s.cur := rfl
@[simp] theorem setThr_lane (t : Tid) (x : Thread) : (s.setThr t x).lane = s.lane := rfl
@[simp] theorem setThr_nextId (t : Tid) (x : Thread) : (s.setThr t x).nextId = s.nextId := rfl
@[simp] theorem setThr_absent (t : Tid) (x : Thread) : (s.setThr t x).absent = s.absent := rfl
@[simp] theorem setThr_pkg (t : Tid) (x : Thread) : (s.setThr t x).pkg = s.pkg := rfl
@[simp] theorem setThr_dies (t : Tid) (x : Thread) : (s.setThr t x).dies = s.dies := rfl
@[simp] theorem setThr_quads (t : Tid) (x : Thread) : (s.setThr t x).quads = s.quads := rfl
@[simp] theorem setThr_stks (t : Tid) (x : Thread) : (s.setThr t x).stks = s.stks := rfl
@[simp] theorem setThr_clusters (t : Tid) (x : Thread) : (s.setThr t x).clusters = s.clusters := rfl
@[simp] theorem setThr_ctxs (t : Tid) (x : Thread) : (s.setThr t x).ctxs = s.ctxs := rfl
@[simp] theorem setThr_flocks (t : Tid) (x : Thread) : (s.setThr t x).flocks = s.flocks := rfl
@[simp] theorem setThr_queues (t : Tid) (x : Thread) : (s.setThr t x).queues = s.queues := rfl
@[simp] theorem setThr_locals (t : Tid) (x : Thread) : (s.setThr t x).locals = s.locals := rfl
@[simp] theorem setThr_localDirty (t : Tid) (x : Thread) : (s.setThr t x).localDirty = s.localDirty := rfl
@[simp] theorem setThr_groups (t : Tid) (x : Thread) : (s.setThr t x).groups = s.groups := rfl
@[simp] theorem setThr_mem (t : Tid) (x : Thread) : (s.setThr t x).mem = s.mem := rfl
@[simp] theorem setThr_homes (t : Tid) (x : Thread) : (s.setThr t x).homes = s.homes := rfl
@[simp] theorem setThr_bias (t : Tid) (x : Thread) : (s.setThr t x).bias = s.bias := rfl
@[simp] theorem setThr_ops (t : Tid) (x : Thread) : (s.setThr t x).ops = s.ops := rfl
@[simp] theorem setThr_held (t : Tid) (x : Thread) : (s.setThr t x).held = s.held := rfl
@[simp] theorem setThr_lost (t : Tid) (x : Thread) : (s.setThr t x).lost = s.lost := rfl
@[simp] theorem setThr_clu (t : Tid) (x : Thread) (y : Nat) : (s.setThr t x).clu y = s.clu y := rfl
@[simp] theorem setThr_ctx (t : Tid) (x : Thread) (y : Nat) : (s.setThr t x).ctx y = s.ctx y := rfl
@[simp] theorem setThr_flk (t : Tid) (x : Thread) (y : Nat) : (s.setThr t x).flk y = s.flk y := rfl
@[simp] theorem setThr_grp (t : Tid) (x : Thread) (y z w : Nat) : (s.setThr t x).grp y z w = s.grp y z w := rfl
@[simp] theorem setThr_die (t : Tid) (x : Thread) (y : Nat) : (s.setThr t x).die y = s.die y := rfl
@[simp] theorem setThr_quad (t : Tid) (x : Thread) (y : Nat) : (s.setThr t x).quad y = s.quad y := rfl
@[simp] theorem setThr_stk (t : Tid) (x : Thread) (y : Nat) : (s.setThr t x).stk y = s.stk y := rfl
@[simp] theorem setThr_que (t : Tid) (x : Thread) (y : Nat) : (s.setThr t x).que y = s.que y := rfl
@[simp] theorem setThr_homeOf (t : Tid) (x : Thread) (y : Nat) : (s.setThr t x).homeOf y = s.homeOf y := rfl
@[simp] theorem setThr_localMem (t : Tid) (x : Thread) (y z : Nat) : (s.setThr t x).localMem y z = s.localMem y z := rfl
@[simp] theorem setThr_pidOf (t : Tid) (x : Thread) (y z : Nat) : (s.setThr t x).pidOf y z = s.pidOf y z := rfl
@[simp] theorem setThr_ctxOf (t : Tid) (x : Thread) (y : Tid) : (s.setThr t x).ctxOf y = s.ctxOf y := rfl

/-! ### modThr -/

@[simp] theorem modThr_now (t : Tid) (f : Thread → Thread) : (s.modThr t f).now = s.now := rfl
@[simp] theorem modThr_tick (t : Tid) (f : Thread → Thread) : (s.modThr t f).tick = s.tick := rfl
@[simp] theorem modThr_agenda (t : Tid) (f : Thread → Thread) : (s.modThr t f).agenda = s.agenda := rfl
@[simp] theorem modThr_cur (t : Tid) (f : Thread → Thread) : (s.modThr t f).cur = s.cur := rfl
@[simp] theorem modThr_lane (t : Tid) (f : Thread → Thread) : (s.modThr t f).lane = s.lane := rfl
@[simp] theorem modThr_nextId (t : Tid) (f : Thread → Thread) : (s.modThr t f).nextId = s.nextId := rfl
@[simp] theorem modThr_absent (t : Tid) (f : Thread → Thread) : (s.modThr t f).absent = s.absent := rfl
@[simp] theorem modThr_pkg (t : Tid) (f : Thread → Thread) : (s.modThr t f).pkg = s.pkg := rfl
@[simp] theorem modThr_dies (t : Tid) (f : Thread → Thread) : (s.modThr t f).dies = s.dies := rfl
@[simp] theorem modThr_quads (t : Tid) (f : Thread → Thread) : (s.modThr t f).quads = s.quads := rfl
@[simp] theorem modThr_stks (t : Tid) (f : Thread → Thread) : (s.modThr t f).stks = s.stks := rfl
@[simp] theorem modThr_clusters (t : Tid) (f : Thread → Thread) : (s.modThr t f).clusters = s.clusters := rfl
@[simp] theorem modThr_ctxs (t : Tid) (f : Thread → Thread) : (s.modThr t f).ctxs = s.ctxs := rfl
@[simp] theorem modThr_flocks (t : Tid) (f : Thread → Thread) : (s.modThr t f).flocks = s.flocks := rfl
@[simp] theorem modThr_queues (t : Tid) (f : Thread → Thread) : (s.modThr t f).queues = s.queues := rfl
@[simp] theorem modThr_locals (t : Tid) (f : Thread → Thread) : (s.modThr t f).locals = s.locals := rfl
@[simp] theorem modThr_localDirty (t : Tid) (f : Thread → Thread) : (s.modThr t f).localDirty = s.localDirty := rfl
@[simp] theorem modThr_groups (t : Tid) (f : Thread → Thread) : (s.modThr t f).groups = s.groups := rfl
@[simp] theorem modThr_mem (t : Tid) (f : Thread → Thread) : (s.modThr t f).mem = s.mem := rfl
@[simp] theorem modThr_homes (t : Tid) (f : Thread → Thread) : (s.modThr t f).homes = s.homes := rfl
@[simp] theorem modThr_bias (t : Tid) (f : Thread → Thread) : (s.modThr t f).bias = s.bias := rfl
@[simp] theorem modThr_ops (t : Tid) (f : Thread → Thread) : (s.modThr t f).ops = s.ops := rfl
@[simp] theorem modThr_held (t : Tid) (f : Thread → Thread) : (s.modThr t f).held = s.held := rfl
@[simp] theorem modThr_lost (t : Tid) (f : Thread → Thread) : (s.modThr t f).lost = s.lost := rfl
@[simp] theorem modThr_clu (t : Tid) (f : Thread → Thread) (y : Nat) : (s.modThr t f).clu y = s.clu y := rfl
@[simp] theorem modThr_ctx (t : Tid) (f : Thread → Thread) (y : Nat) : (s.modThr t f).ctx y = s.ctx y := rfl
@[simp] theorem modThr_flk (t : Tid) (f : Thread → Thread) (y : Nat) : (s.modThr t f).flk y = s.flk y := rfl
@[simp] theorem modThr_grp (t : Tid) (f : Thread → Thread) (y z w : Nat) : (s.modThr t f).grp y z w = s.grp y z w := rfl
@[simp] theorem modThr_die (t : Tid) (f : Thread → Thread) (y : Nat) : (s.modThr t f).die y = s.die y := rfl
@[simp] theorem modThr_quad (t : Tid) (f : Thread → Thread) (y : Nat) : (s.modThr t f).quad y = s.quad y := rfl
@[simp] theorem modThr_stk (t : Tid) (f : Thread → Thread) (y : Nat) : (s.modThr t f).stk y = s.stk y := rfl
@[simp] theorem modThr_que (t : Tid) (f : Thread → Thread) (y : Nat) : (s.modThr t f).que y = s.que y := rfl
@[simp] theorem modThr_homeOf (t : Tid) (f : Thread → Thread) (y : Nat) : (s.modThr t f).homeOf y = s.homeOf y := rfl
@[simp] theorem modThr_localMem (t : Tid) (f : Thread → Thread) (y z : Nat) : (s.modThr t f).localMem y z = s.localMem y z := rfl
@[simp] theorem modThr_pidOf (t : Tid) (f : Thread → Thread) (y z : Nat) : (s.modThr t f).pidOf y z = s.pidOf y z := rfl
@[simp] theorem modThr_ctxOf (t : Tid) (f : Thread → Thread) (y : Tid) : (s.modThr t f).ctxOf y = s.ctxOf y := rfl

/-! ### setGrp -/

@[simp] theorem setGrp_now (i c k : Nat) (x : Group) : (s.setGrp i c k x).now = s.now := rfl
@[simp] theorem setGrp_tick (i c k : Nat) (x : Group) : (s.setGrp i c k x).tick = s.tick := rfl
@[simp] theorem setGrp_agenda (i c k : Nat) (x : Group) : (s.setGrp i c k x).agenda = s.agenda := rfl
@[simp] theorem setGrp_cur (i c k : Nat) (x : Group) : (s.setGrp i c k x).cur = s.cur := rfl
@[simp] theorem setGrp_lane (i c k : Nat) (x : Group) : (s.setGrp i c k x).lane = s.lane := rfl
@[simp] theorem setGrp_nextId (i c k : Nat) (x : Group) : (s.setGrp i c k x).nextId = s.nextId := rfl
@[simp] theorem setGrp_absent (i c k : Nat) (x : Group) : (s.setGrp i c k x).absent = s.absent := rfl
@[simp] theorem setGrp_pkg (i c k : Nat) (x : Group) : (s.setGrp i c k x).pkg = s.pkg := rfl
@[simp] theorem setGrp_dies (i c k : Nat) (x : Group) : (s.setGrp i c k x).dies = s.dies := rfl
@[simp] theorem setGrp_quads (i c k : Nat) (x : Group) : (s.setGrp i c k x).quads = s.quads := rfl
@[simp] theorem setGrp_stks (i c k : Nat) (x : Group) : (s.setGrp i c k x).stks = s.stks := rfl
@[simp] theorem setGrp_clusters (i c k : Nat) (x : Group) : (s.setGrp i c k x).clusters = s.clusters := rfl
@[simp] theorem setGrp_ctxs (i c k : Nat) (x : Group) : (s.setGrp i c k x).ctxs = s.ctxs := rfl
@[simp] theorem setGrp_flocks (i c k : Nat) (x : Group) : (s.setGrp i c k x).flocks = s.flocks := rfl
@[simp] theorem setGrp_queues (i c k : Nat) (x : Group) : (s.setGrp i c k x).queues = s.queues := rfl
@[simp] theorem setGrp_locals (i c k : Nat) (x : Group) : (s.setGrp i c k x).locals = s.locals := rfl
@[simp] theorem setGrp_localDirty (i c k : Nat) (x : Group) : (s.setGrp i c k x).localDirty = s.localDirty := rfl
@[simp] theorem setGrp_threads (i c k : Nat) (x : Group) : (s.setGrp i c k x).threads = s.threads := rfl
@[simp] theorem setGrp_mem (i c k : Nat) (x : Group) : (s.setGrp i c k x).mem = s.mem := rfl
@[simp] theorem setGrp_homes (i c k : Nat) (x : Group) : (s.setGrp i c k x).homes = s.homes := rfl
@[simp] theorem setGrp_bias (i c k : Nat) (x : Group) : (s.setGrp i c k x).bias = s.bias := rfl
@[simp] theorem setGrp_ops (i c k : Nat) (x : Group) : (s.setGrp i c k x).ops = s.ops := rfl
@[simp] theorem setGrp_held (i c k : Nat) (x : Group) : (s.setGrp i c k x).held = s.held := rfl
@[simp] theorem setGrp_lost (i c k : Nat) (x : Group) : (s.setGrp i c k x).lost = s.lost := rfl
@[simp] theorem setGrp_clu (i c k : Nat) (x : Group) (y : Nat) : (s.setGrp i c k x).clu y = s.clu y := rfl
@[simp] theorem setGrp_ctx (i c k : Nat) (x : Group) (y : Nat) : (s.setGrp i c k x).ctx y = s.ctx y := rfl
@[simp] theorem setGrp_flk (i c k : Nat) (x : Group) (y : Nat) : (s.setGrp i c k x).flk y = s.flk y := rfl
@[simp] theorem setGrp_thr (i c k : Nat) (x : Group) (y : Tid) : (s.setGrp i c k x).thr y = s.thr y := rfl
@[simp] theorem setGrp_die (i c k : Nat) (x : Group) (y : Nat) : (s.setGrp i c k x).die y = s.die y := rfl
@[simp] theorem setGrp_quad (i c k : Nat) (x : Group) (y : Nat) : (s.setGrp i c k x).quad y = s.quad y := rfl
@[simp] theorem setGrp_stk (i c k : Nat) (x : Group) (y : Nat) : (s.setGrp i c k x).stk y = s.stk y := rfl
@[simp] theorem setGrp_que (i c k : Nat) (x : Group) (y : Nat) : (s.setGrp i c k x).que y = s.que y := rfl
@[simp] theorem setGrp_homeOf (i c k : Nat) (x : Group) (y : Nat) : (s.setGrp i c k x).homeOf y = s.homeOf y := rfl
@[simp] theorem setGrp_localMem (i c k : Nat) (x : Group) (y z : Nat) : (s.setGrp i c k x).localMem y z = s.localMem y z := rfl
@[simp] theorem setGrp_pidOf (i c k : Nat) (x : Group) (y z : Nat) : (s.setGrp i c k x).pidOf y z = s.pidOf y z := rfl
@[simp] theorem setGrp_ctxOf (i c k : Nat) (x : Group) (y : Tid) : (s.setGrp i c k x).ctxOf y = s.ctxOf y := rfl

/-! ### modGrp -/

@[simp] theorem modGrp_now (i c k : Nat) (f : Group → Group) : (s.modGrp i c k f).now = s.now := rfl
@[simp] theorem modGrp_tick (i c k : Nat) (f : Group → Group) : (s.modGrp i c k f).tick = s.tick := rfl
@[simp] theorem modGrp_agenda (i c k : Nat) (f : Group → Group) : (s.modGrp i c k f).agenda = s.agenda := rfl
@[simp] theorem modGrp_cur (i c k : Nat) (f : Group → Group) : (s.modGrp i c k f).cur = s.cur := rfl
@[simp] theorem modGrp_lane (i c k : Nat) (f : Group → Group) : (s.modGrp i c k f).lane = s.lane := rfl
@[simp] theorem modGrp_nextId (i c k : Nat) (f : Group → Group) : (s.modGrp i c k f).nextId = s.nextId := rfl
@[simp] theorem modGrp_absent (i c k : Nat) (f : Group → Group) : (s.modGrp i c k f).absent = s.absent := rfl
@[simp] theorem modGrp_pkg (i c k : Nat) (f : Group → Group) : (s.modGrp i c k f).pkg = s.pkg := rfl
@[simp] theorem modGrp_dies (i c k : Nat) (f : Group → Group) : (s.modGrp i c k f).dies = s.dies := rfl
@[simp] theorem modGrp_quads (i c k : Nat) (f : Group → Group) : (s.modGrp i c k f).quads = s.quads := rfl
@[simp] theorem modGrp_stks (i c k : Nat) (f : Group → Group) : (s.modGrp i c k f).stks = s.stks := rfl
@[simp] theorem modGrp_clusters (i c k : Nat) (f : Group → Group) : (s.modGrp i c k f).clusters = s.clusters := rfl
@[simp] theorem modGrp_ctxs (i c k : Nat) (f : Group → Group) : (s.modGrp i c k f).ctxs = s.ctxs := rfl
@[simp] theorem modGrp_flocks (i c k : Nat) (f : Group → Group) : (s.modGrp i c k f).flocks = s.flocks := rfl
@[simp] theorem modGrp_queues (i c k : Nat) (f : Group → Group) : (s.modGrp i c k f).queues = s.queues := rfl
@[simp] theorem modGrp_locals (i c k : Nat) (f : Group → Group) : (s.modGrp i c k f).locals = s.locals := rfl
@[simp] theorem modGrp_localDirty (i c k : Nat) (f : Group → Group) : (s.modGrp i c k f).localDirty = s.localDirty := rfl
@[simp] theorem modGrp_threads (i c k : Nat) (f : Group → Group) : (s.modGrp i c k f).threads = s.threads := rfl
@[simp] theorem modGrp_mem (i c k : Nat) (f : Group → Group) : (s.modGrp i c k f).mem = s.mem := rfl
@[simp] theorem modGrp_homes (i c k : Nat) (f : Group → Group) : (s.modGrp i c k f).homes = s.homes := rfl
@[simp] theorem modGrp_bias (i c k : Nat) (f : Group → Group) : (s.modGrp i c k f).bias = s.bias := rfl
@[simp] theorem modGrp_ops (i c k : Nat) (f : Group → Group) : (s.modGrp i c k f).ops = s.ops := rfl
@[simp] theorem modGrp_held (i c k : Nat) (f : Group → Group) : (s.modGrp i c k f).held = s.held := rfl
@[simp] theorem modGrp_lost (i c k : Nat) (f : Group → Group) : (s.modGrp i c k f).lost = s.lost := rfl
@[simp] theorem modGrp_clu (i c k : Nat) (f : Group → Group) (y : Nat) : (s.modGrp i c k f).clu y = s.clu y := rfl
@[simp] theorem modGrp_ctx (i c k : Nat) (f : Group → Group) (y : Nat) : (s.modGrp i c k f).ctx y = s.ctx y := rfl
@[simp] theorem modGrp_flk (i c k : Nat) (f : Group → Group) (y : Nat) : (s.modGrp i c k f).flk y = s.flk y := rfl
@[simp] theorem modGrp_thr (i c k : Nat) (f : Group → Group) (y : Tid) : (s.modGrp i c k f).thr y = s.thr y := rfl
@[simp] theorem modGrp_die (i c k : Nat) (f : Group → Group) (y : Nat) : (s.modGrp i c k f).die y = s.die y := rfl
@[simp] theorem modGrp_quad (i c k : Nat) (f : Group → Group) (y : Nat) : (s.modGrp i c k f).quad y = s.quad y := rfl
@[simp] theorem modGrp_stk (i c k : Nat) (f : Group → Group) (y : Nat) : (s.modGrp i c k f).stk y = s.stk y := rfl
@[simp] theorem modGrp_que (i c k : Nat) (f : Group → Group) (y : Nat) : (s.modGrp i c k f).que y = s.que y := rfl
@[simp] theorem modGrp_homeOf (i c k : Nat) (f : Group → Group) (y : Nat) : (s.modGrp i c k f).homeOf y = s.homeOf y := rfl
@[simp] theorem modGrp_localMem (i c k : Nat) (f : Group → Group) (y z : Nat) : (s.modGrp i c k f).localMem y z = s.localMem y z := rfl
@[simp] theorem modGrp_pidOf (i c k : Nat) (f : Group → Group) (y z : Nat) : (s.modGrp i c k f).pidOf y z = s.pidOf y z := rfl
@[simp] theorem modGrp_ctxOf (i c k : Nat) (f : Group → Group) (y : Tid) : (s.modGrp i c k f).ctxOf y = s.ctxOf y := rfl

/-! ### modDie -/

@[simp] theorem modDie_now (d : Nat) (f : Die → Die) : (s.modDie d f).now = s.now := rfl
@[simp] theorem modDie_tick (d : Nat) (f : Die → Die) : (s.modDie d f).tick = s.tick := rfl
@[simp] theorem modDie_agenda (d : Nat) (f : Die → Die) : (s.modDie d f).agenda = s.agenda := rfl
@[simp] theorem modDie_cur (d : Nat) (f : Die → Die) : (s.modDie d f).cur = s.cur := rfl
@[simp] theorem modDie_lane (d : Nat) (f : Die → Die) : (s.modDie d f).lane = s.lane := rfl
@[simp] theorem modDie_nextId (d : Nat) (f : Die → Die) : (s.modDie d f).nextId = s.nextId := rfl
@[simp] theorem modDie_absent (d : Nat) (f : Die → Die) : (s.modDie d f).absent = s.absent := rfl
@[simp] theorem modDie_pkg (d : Nat) (f : Die → Die) : (s.modDie d f).pkg = s.pkg := rfl
@[simp] theorem modDie_quads (d : Nat) (f : Die → Die) : (s.modDie d f).quads = s.quads := rfl
@[simp] theorem modDie_stks (d : Nat) (f : Die → Die) : (s.modDie d f).stks = s.stks := rfl
@[simp] theorem modDie_clusters (d : Nat) (f : Die → Die) : (s.modDie d f).clusters = s.clusters := rfl
@[simp] theorem modDie_ctxs (d : Nat) (f : Die → Die) : (s.modDie d f).ctxs = s.ctxs := rfl
@[simp] theorem modDie_flocks (d : Nat) (f : Die → Die) : (s.modDie d f).flocks = s.flocks := rfl
@[simp] theorem modDie_queues (d : Nat) (f : Die → Die) : (s.modDie d f).queues = s.queues := rfl
@[simp] theorem modDie_locals (d : Nat) (f : Die → Die) : (s.modDie d f).locals = s.locals := rfl
@[simp] theorem modDie_localDirty (d : Nat) (f : Die → Die) : (s.modDie d f).localDirty = s.localDirty := rfl
@[simp] theorem modDie_threads (d : Nat) (f : Die → Die) : (s.modDie d f).threads = s.threads := rfl
@[simp] theorem modDie_groups (d : Nat) (f : Die → Die) : (s.modDie d f).groups = s.groups := rfl
@[simp] theorem modDie_mem (d : Nat) (f : Die → Die) : (s.modDie d f).mem = s.mem := rfl
@[simp] theorem modDie_homes (d : Nat) (f : Die → Die) : (s.modDie d f).homes = s.homes := rfl
@[simp] theorem modDie_bias (d : Nat) (f : Die → Die) : (s.modDie d f).bias = s.bias := rfl
@[simp] theorem modDie_ops (d : Nat) (f : Die → Die) : (s.modDie d f).ops = s.ops := rfl
@[simp] theorem modDie_held (d : Nat) (f : Die → Die) : (s.modDie d f).held = s.held := rfl
@[simp] theorem modDie_lost (d : Nat) (f : Die → Die) : (s.modDie d f).lost = s.lost := rfl
@[simp] theorem modDie_clu (d : Nat) (f : Die → Die) (y : Nat) : (s.modDie d f).clu y = s.clu y := rfl
@[simp] theorem modDie_ctx (d : Nat) (f : Die → Die) (y : Nat) : (s.modDie d f).ctx y = s.ctx y := rfl
@[simp] theorem modDie_flk (d : Nat) (f : Die → Die) (y : Nat) : (s.modDie d f).flk y = s.flk y := rfl
@[simp] theorem modDie_thr (d : Nat) (f : Die → Die) (y : Tid) : (s.modDie d f).thr y = s.thr y := rfl
@[simp] theorem modDie_grp (d : Nat) (f : Die → Die) (y z w : Nat) : (s.modDie d f).grp y z w = s.grp y z w := rfl
@[simp] theorem modDie_quad (d : Nat) (f : Die → Die) (y : Nat) : (s.modDie d f).quad y = s.quad y := rfl
@[simp] theorem modDie_stk (d : Nat) (f : Die → Die) (y : Nat) : (s.modDie d f).stk y = s.stk y := rfl
@[simp] theorem modDie_que (d : Nat) (f : Die → Die) (y : Nat) : (s.modDie d f).que y = s.que y := rfl
@[simp] theorem modDie_homeOf (d : Nat) (f : Die → Die) (y : Nat) : (s.modDie d f).homeOf y = s.homeOf y := rfl
@[simp] theorem modDie_localMem (d : Nat) (f : Die → Die) (y z : Nat) : (s.modDie d f).localMem y z = s.localMem y z := rfl
@[simp] theorem modDie_pidOf (d : Nat) (f : Die → Die) (y z : Nat) : (s.modDie d f).pidOf y z = s.pidOf y z := rfl
@[simp] theorem modDie_ctxOf (d : Nat) (f : Die → Die) (y : Tid) : (s.modDie d f).ctxOf y = s.ctxOf y := rfl

/-! ### modQuad -/

@[simp] theorem modQuad_now (q : Nat) (f : Quad → Quad) : (s.modQuad q f).now = s.now := rfl
@[simp] theorem modQuad_tick (q : Nat) (f : Quad → Quad) : (s.modQuad q f).tick = s.tick := rfl
@[simp] theorem modQuad_agenda (q : Nat) (f : Quad → Quad) : (s.modQuad q f).agenda = s.agenda := rfl
@[simp] theorem modQuad_cur (q : Nat) (f : Quad → Quad) : (s.modQuad q f).cur = s.cur := rfl
@[simp] theorem modQuad_lane (q : Nat) (f : Quad → Quad) : (s.modQuad q f).lane = s.lane := rfl
@[simp] theorem modQuad_nextId (q : Nat) (f : Quad → Quad) : (s.modQuad q f).nextId = s.nextId := rfl
@[simp] theorem modQuad_absent (q : Nat) (f : Quad → Quad) : (s.modQuad q f).absent = s.absent := rfl
@[simp] theorem modQuad_pkg (q : Nat) (f : Quad → Quad) : (s.modQuad q f).pkg = s.pkg := rfl
@[simp] theorem modQuad_dies (q : Nat) (f : Quad → Quad) : (s.modQuad q f).dies = s.dies := rfl
@[simp] theorem modQuad_stks (q : Nat) (f : Quad → Quad) : (s.modQuad q f).stks = s.stks := rfl
@[simp] theorem modQuad_clusters (q : Nat) (f : Quad → Quad) : (s.modQuad q f).clusters = s.clusters := rfl
@[simp] theorem modQuad_ctxs (q : Nat) (f : Quad → Quad) : (s.modQuad q f).ctxs = s.ctxs := rfl
@[simp] theorem modQuad_flocks (q : Nat) (f : Quad → Quad) : (s.modQuad q f).flocks = s.flocks := rfl
@[simp] theorem modQuad_queues (q : Nat) (f : Quad → Quad) : (s.modQuad q f).queues = s.queues := rfl
@[simp] theorem modQuad_locals (q : Nat) (f : Quad → Quad) : (s.modQuad q f).locals = s.locals := rfl
@[simp] theorem modQuad_localDirty (q : Nat) (f : Quad → Quad) : (s.modQuad q f).localDirty = s.localDirty := rfl
@[simp] theorem modQuad_threads (q : Nat) (f : Quad → Quad) : (s.modQuad q f).threads = s.threads := rfl
@[simp] theorem modQuad_groups (q : Nat) (f : Quad → Quad) : (s.modQuad q f).groups = s.groups := rfl
@[simp] theorem modQuad_mem (q : Nat) (f : Quad → Quad) : (s.modQuad q f).mem = s.mem := rfl
@[simp] theorem modQuad_homes (q : Nat) (f : Quad → Quad) : (s.modQuad q f).homes = s.homes := rfl
@[simp] theorem modQuad_bias (q : Nat) (f : Quad → Quad) : (s.modQuad q f).bias = s.bias := rfl
@[simp] theorem modQuad_ops (q : Nat) (f : Quad → Quad) : (s.modQuad q f).ops = s.ops := rfl
@[simp] theorem modQuad_held (q : Nat) (f : Quad → Quad) : (s.modQuad q f).held = s.held := rfl
@[simp] theorem modQuad_lost (q : Nat) (f : Quad → Quad) : (s.modQuad q f).lost = s.lost := rfl
@[simp] theorem modQuad_clu (q : Nat) (f : Quad → Quad) (y : Nat) : (s.modQuad q f).clu y = s.clu y := rfl
@[simp] theorem modQuad_ctx (q : Nat) (f : Quad → Quad) (y : Nat) : (s.modQuad q f).ctx y = s.ctx y := rfl
@[simp] theorem modQuad_flk (q : Nat) (f : Quad → Quad) (y : Nat) : (s.modQuad q f).flk y = s.flk y := rfl
@[simp] theorem modQuad_thr (q : Nat) (f : Quad → Quad) (y : Tid) : (s.modQuad q f).thr y = s.thr y := rfl
@[simp] theorem modQuad_grp (q : Nat) (f : Quad → Quad) (y z w : Nat) : (s.modQuad q f).grp y z w = s.grp y z w := rfl
@[simp] theorem modQuad_die (q : Nat) (f : Quad → Quad) (y : Nat) : (s.modQuad q f).die y = s.die y := rfl
@[simp] theorem modQuad_stk (q : Nat) (f : Quad → Quad) (y : Nat) : (s.modQuad q f).stk y = s.stk y := rfl
@[simp] theorem modQuad_que (q : Nat) (f : Quad → Quad) (y : Nat) : (s.modQuad q f).que y = s.que y := rfl
@[simp] theorem modQuad_homeOf (q : Nat) (f : Quad → Quad) (y : Nat) : (s.modQuad q f).homeOf y = s.homeOf y := rfl
@[simp] theorem modQuad_localMem (q : Nat) (f : Quad → Quad) (y z : Nat) : (s.modQuad q f).localMem y z = s.localMem y z := rfl
@[simp] theorem modQuad_pidOf (q : Nat) (f : Quad → Quad) (y z : Nat) : (s.modQuad q f).pidOf y z = s.pidOf y z := rfl
@[simp] theorem modQuad_ctxOf (q : Nat) (f : Quad → Quad) (y : Tid) : (s.modQuad q f).ctxOf y = s.ctxOf y := rfl

/-! ### modStk -/

@[simp] theorem modStk_now (h : Nat) (f : Stack → Stack) : (s.modStk h f).now = s.now := rfl
@[simp] theorem modStk_tick (h : Nat) (f : Stack → Stack) : (s.modStk h f).tick = s.tick := rfl
@[simp] theorem modStk_agenda (h : Nat) (f : Stack → Stack) : (s.modStk h f).agenda = s.agenda := rfl
@[simp] theorem modStk_cur (h : Nat) (f : Stack → Stack) : (s.modStk h f).cur = s.cur := rfl
@[simp] theorem modStk_lane (h : Nat) (f : Stack → Stack) : (s.modStk h f).lane = s.lane := rfl
@[simp] theorem modStk_nextId (h : Nat) (f : Stack → Stack) : (s.modStk h f).nextId = s.nextId := rfl
@[simp] theorem modStk_absent (h : Nat) (f : Stack → Stack) : (s.modStk h f).absent = s.absent := rfl
@[simp] theorem modStk_pkg (h : Nat) (f : Stack → Stack) : (s.modStk h f).pkg = s.pkg := rfl
@[simp] theorem modStk_dies (h : Nat) (f : Stack → Stack) : (s.modStk h f).dies = s.dies := rfl
@[simp] theorem modStk_quads (h : Nat) (f : Stack → Stack) : (s.modStk h f).quads = s.quads := rfl
@[simp] theorem modStk_clusters (h : Nat) (f : Stack → Stack) : (s.modStk h f).clusters = s.clusters := rfl
@[simp] theorem modStk_ctxs (h : Nat) (f : Stack → Stack) : (s.modStk h f).ctxs = s.ctxs := rfl
@[simp] theorem modStk_flocks (h : Nat) (f : Stack → Stack) : (s.modStk h f).flocks = s.flocks := rfl
@[simp] theorem modStk_queues (h : Nat) (f : Stack → Stack) : (s.modStk h f).queues = s.queues := rfl
@[simp] theorem modStk_locals (h : Nat) (f : Stack → Stack) : (s.modStk h f).locals = s.locals := rfl
@[simp] theorem modStk_localDirty (h : Nat) (f : Stack → Stack) : (s.modStk h f).localDirty = s.localDirty := rfl
@[simp] theorem modStk_threads (h : Nat) (f : Stack → Stack) : (s.modStk h f).threads = s.threads := rfl
@[simp] theorem modStk_groups (h : Nat) (f : Stack → Stack) : (s.modStk h f).groups = s.groups := rfl
@[simp] theorem modStk_mem (h : Nat) (f : Stack → Stack) : (s.modStk h f).mem = s.mem := rfl
@[simp] theorem modStk_homes (h : Nat) (f : Stack → Stack) : (s.modStk h f).homes = s.homes := rfl
@[simp] theorem modStk_bias (h : Nat) (f : Stack → Stack) : (s.modStk h f).bias = s.bias := rfl
@[simp] theorem modStk_ops (h : Nat) (f : Stack → Stack) : (s.modStk h f).ops = s.ops := rfl
@[simp] theorem modStk_held (h : Nat) (f : Stack → Stack) : (s.modStk h f).held = s.held := rfl
@[simp] theorem modStk_lost (h : Nat) (f : Stack → Stack) : (s.modStk h f).lost = s.lost := rfl
@[simp] theorem modStk_clu (h : Nat) (f : Stack → Stack) (y : Nat) : (s.modStk h f).clu y = s.clu y := rfl
@[simp] theorem modStk_ctx (h : Nat) (f : Stack → Stack) (y : Nat) : (s.modStk h f).ctx y = s.ctx y := rfl
@[simp] theorem modStk_flk (h : Nat) (f : Stack → Stack) (y : Nat) : (s.modStk h f).flk y = s.flk y := rfl
@[simp] theorem modStk_thr (h : Nat) (f : Stack → Stack) (y : Tid) : (s.modStk h f).thr y = s.thr y := rfl
@[simp] theorem modStk_grp (h : Nat) (f : Stack → Stack) (y z w : Nat) : (s.modStk h f).grp y z w = s.grp y z w := rfl
@[simp] theorem modStk_die (h : Nat) (f : Stack → Stack) (y : Nat) : (s.modStk h f).die y = s.die y := rfl
@[simp] theorem modStk_quad (h : Nat) (f : Stack → Stack) (y : Nat) : (s.modStk h f).quad y = s.quad y := rfl
@[simp] theorem modStk_que (h : Nat) (f : Stack → Stack) (y : Nat) : (s.modStk h f).que y = s.que y := rfl
@[simp] theorem modStk_homeOf (h : Nat) (f : Stack → Stack) (y : Nat) : (s.modStk h f).homeOf y = s.homeOf y := rfl
@[simp] theorem modStk_localMem (h : Nat) (f : Stack → Stack) (y z : Nat) : (s.modStk h f).localMem y z = s.localMem y z := rfl
@[simp] theorem modStk_pidOf (h : Nat) (f : Stack → Stack) (y z : Nat) : (s.modStk h f).pidOf y z = s.pidOf y z := rfl
@[simp] theorem modStk_ctxOf (h : Nat) (f : Stack → Stack) (y : Tid) : (s.modStk h f).ctxOf y = s.ctxOf y := rfl

/-! ### modQue -/

@[simp] theorem modQue_now (q : Nat) (f : Queue → Queue) : (s.modQue q f).now = s.now := rfl
@[simp] theorem modQue_tick (q : Nat) (f : Queue → Queue) : (s.modQue q f).tick = s.tick := rfl
@[simp] theorem modQue_agenda (q : Nat) (f : Queue → Queue) : (s.modQue q f).agenda = s.agenda := rfl
@[simp] theorem modQue_cur (q : Nat) (f : Queue → Queue) : (s.modQue q f).cur = s.cur := rfl
@[simp] theorem modQue_lane (q : Nat) (f : Queue → Queue) : (s.modQue q f).lane = s.lane := rfl
@[simp] theorem modQue_nextId (q : Nat) (f : Queue → Queue) : (s.modQue q f).nextId = s.nextId := rfl
@[simp] theorem modQue_absent (q : Nat) (f : Queue → Queue) : (s.modQue q f).absent = s.absent := rfl
@[simp] theorem modQue_pkg (q : Nat) (f : Queue → Queue) : (s.modQue q f).pkg = s.pkg := rfl
@[simp] theorem modQue_dies (q : Nat) (f : Queue → Queue) : (s.modQue q f).dies = s.dies := rfl
@[simp] theorem modQue_quads (q : Nat) (f : Queue → Queue) : (s.modQue q f).quads = s.quads := rfl
@[simp] theorem modQue_stks (q : Nat) (f : Queue → Queue) : (s.modQue q f).stks = s.stks := rfl
@[simp] theorem modQue_clusters (q : Nat) (f : Queue → Queue) : (s.modQue q f).clusters = s.clusters := rfl
@[simp] theorem modQue_ctxs (q : Nat) (f : Queue → Queue) : (s.modQue q f).ctxs = s.ctxs := rfl
@[simp] theorem modQue_flocks (q : Nat) (f : Queue → Queue) : (s.modQue q f).flocks = s.flocks := rfl
@[simp] theorem modQue_locals (q : Nat) (f : Queue → Queue) : (s.modQue q f).locals = s.locals := rfl
@[simp] theorem modQue_localDirty (q : Nat) (f : Queue → Queue) : (s.modQue q f).localDirty = s.localDirty := rfl
@[simp] theorem modQue_threads (q : Nat) (f : Queue → Queue) : (s.modQue q f).threads = s.threads := rfl
@[simp] theorem modQue_groups (q : Nat) (f : Queue → Queue) : (s.modQue q f).groups = s.groups := rfl
@[simp] theorem modQue_mem (q : Nat) (f : Queue → Queue) : (s.modQue q f).mem = s.mem := rfl
@[simp] theorem modQue_homes (q : Nat) (f : Queue → Queue) : (s.modQue q f).homes = s.homes := rfl
@[simp] theorem modQue_bias (q : Nat) (f : Queue → Queue) : (s.modQue q f).bias = s.bias := rfl
@[simp] theorem modQue_ops (q : Nat) (f : Queue → Queue) : (s.modQue q f).ops = s.ops := rfl
@[simp] theorem modQue_held (q : Nat) (f : Queue → Queue) : (s.modQue q f).held = s.held := rfl
@[simp] theorem modQue_lost (q : Nat) (f : Queue → Queue) : (s.modQue q f).lost = s.lost := rfl
@[simp] theorem modQue_clu (q : Nat) (f : Queue → Queue) (y : Nat) : (s.modQue q f).clu y = s.clu y := rfl
@[simp] theorem modQue_ctx (q : Nat) (f : Queue → Queue) (y : Nat) : (s.modQue q f).ctx y = s.ctx y := rfl
@[simp] theorem modQue_flk (q : Nat) (f : Queue → Queue) (y : Nat) : (s.modQue q f).flk y = s.flk y := rfl
@[simp] theorem modQue_thr (q : Nat) (f : Queue → Queue) (y : Tid) : (s.modQue q f).thr y = s.thr y := rfl
@[simp] theorem modQue_grp (q : Nat) (f : Queue → Queue) (y z w : Nat) : (s.modQue q f).grp y z w = s.grp y z w := rfl
@[simp] theorem modQue_die (q : Nat) (f : Queue → Queue) (y : Nat) : (s.modQue q f).die y = s.die y := rfl
@[simp] theorem modQue_quad (q : Nat) (f : Queue → Queue) (y : Nat) : (s.modQue q f).quad y = s.quad y := rfl
@[simp] theorem modQue_stk (q : Nat) (f : Queue → Queue) (y : Nat) : (s.modQue q f).stk y = s.stk y := rfl
@[simp] theorem modQue_homeOf (q : Nat) (f : Queue → Queue) (y : Nat) : (s.modQue q f).homeOf y = s.homeOf y := rfl
@[simp] theorem modQue_localMem (q : Nat) (f : Queue → Queue) (y z : Nat) : (s.modQue q f).localMem y z = s.localMem y z := rfl
@[simp] theorem modQue_pidOf (q : Nat) (f : Queue → Queue) (y z : Nat) : (s.modQue q f).pidOf y z = s.pidOf y z := rfl
@[simp] theorem modQue_ctxOf (q : Nat) (f : Queue → Queue) (y : Tid) : (s.modQue q f).ctxOf y = s.ctxOf y := rfl

/-! ### modHome -/

@[simp] theorem modHome_now (a : Nat) (f : HomeLine → HomeLine) : (s.modHome a f).now = s.now := rfl
@[simp] theorem modHome_tick (a : Nat) (f : HomeLine → HomeLine) : (s.modHome a f).tick = s.tick := rfl
@[simp] theorem modHome_agenda (a : Nat) (f : HomeLine → HomeLine) : (s.modHome a f).agenda = s.agenda := rfl
@[simp] theorem modHome_cur (a : Nat) (f : HomeLine → HomeLine) : (s.modHome a f).cur = s.cur := rfl
@[simp] theorem modHome_lane (a : Nat) (f : HomeLine → HomeLine) : (s.modHome a f).lane = s.lane := rfl
@[simp] theorem modHome_nextId (a : Nat) (f : HomeLine → HomeLine) : (s.modHome a f).nextId = s.nextId := rfl
@[simp] theorem modHome_absent (a : Nat) (f : HomeLine → HomeLine) : (s.modHome a f).absent = s.absent := rfl
@[simp] theorem modHome_pkg (a : Nat) (f : HomeLine → HomeLine) : (s.modHome a f).pkg = s.pkg := rfl
@[simp] theorem modHome_dies (a : Nat) (f : HomeLine → HomeLine) : (s.modHome a f).dies = s.dies := rfl
@[simp] theorem modHome_quads (a : Nat) (f : HomeLine → HomeLine) : (s.modHome a f).quads = s.quads := rfl
@[simp] theorem modHome_stks (a : Nat) (f : HomeLine → HomeLine) : (s.modHome a f).stks = s.stks := rfl
@[simp] theorem modHome_clusters (a : Nat) (f : HomeLine → HomeLine) : (s.modHome a f).clusters = s.clusters := rfl
@[simp] theorem modHome_ctxs (a : Nat) (f : HomeLine → HomeLine) : (s.modHome a f).ctxs = s.ctxs := rfl
@[simp] theorem modHome_flocks (a : Nat) (f : HomeLine → HomeLine) : (s.modHome a f).flocks = s.flocks := rfl
@[simp] theorem modHome_queues (a : Nat) (f : HomeLine → HomeLine) : (s.modHome a f).queues = s.queues := rfl
@[simp] theorem modHome_locals (a : Nat) (f : HomeLine → HomeLine) : (s.modHome a f).locals = s.locals := rfl
@[simp] theorem modHome_localDirty (a : Nat) (f : HomeLine → HomeLine) : (s.modHome a f).localDirty = s.localDirty := rfl
@[simp] theorem modHome_threads (a : Nat) (f : HomeLine → HomeLine) : (s.modHome a f).threads = s.threads := rfl
@[simp] theorem modHome_groups (a : Nat) (f : HomeLine → HomeLine) : (s.modHome a f).groups = s.groups := rfl
@[simp] theorem modHome_mem (a : Nat) (f : HomeLine → HomeLine) : (s.modHome a f).mem = s.mem := rfl
@[simp] theorem modHome_bias (a : Nat) (f : HomeLine → HomeLine) : (s.modHome a f).bias = s.bias := rfl
@[simp] theorem modHome_ops (a : Nat) (f : HomeLine → HomeLine) : (s.modHome a f).ops = s.ops := rfl
@[simp] theorem modHome_held (a : Nat) (f : HomeLine → HomeLine) : (s.modHome a f).held = s.held := rfl
@[simp] theorem modHome_lost (a : Nat) (f : HomeLine → HomeLine) : (s.modHome a f).lost = s.lost := rfl
@[simp] theorem modHome_clu (a : Nat) (f : HomeLine → HomeLine) (y : Nat) : (s.modHome a f).clu y = s.clu y := rfl
@[simp] theorem modHome_ctx (a : Nat) (f : HomeLine → HomeLine) (y : Nat) : (s.modHome a f).ctx y = s.ctx y := rfl
@[simp] theorem modHome_flk (a : Nat) (f : HomeLine → HomeLine) (y : Nat) : (s.modHome a f).flk y = s.flk y := rfl
@[simp] theorem modHome_thr (a : Nat) (f : HomeLine → HomeLine) (y : Tid) : (s.modHome a f).thr y = s.thr y := rfl
@[simp] theorem modHome_grp (a : Nat) (f : HomeLine → HomeLine) (y z w : Nat) : (s.modHome a f).grp y z w = s.grp y z w := rfl
@[simp] theorem modHome_die (a : Nat) (f : HomeLine → HomeLine) (y : Nat) : (s.modHome a f).die y = s.die y := rfl
@[simp] theorem modHome_quad (a : Nat) (f : HomeLine → HomeLine) (y : Nat) : (s.modHome a f).quad y = s.quad y := rfl
@[simp] theorem modHome_stk (a : Nat) (f : HomeLine → HomeLine) (y : Nat) : (s.modHome a f).stk y = s.stk y := rfl
@[simp] theorem modHome_que (a : Nat) (f : HomeLine → HomeLine) (y : Nat) : (s.modHome a f).que y = s.que y := rfl
@[simp] theorem modHome_localMem (a : Nat) (f : HomeLine → HomeLine) (y z : Nat) : (s.modHome a f).localMem y z = s.localMem y z := rfl
@[simp] theorem modHome_pidOf (a : Nat) (f : HomeLine → HomeLine) (y z : Nat) : (s.modHome a f).pidOf y z = s.pidOf y z := rfl
@[simp] theorem modHome_ctxOf (a : Nat) (f : HomeLine → HomeLine) (y : Tid) : (s.modHome a f).ctxOf y = s.ctxOf y := rfl

/-! ### modPkg -/

@[simp] theorem modPkg_now (f : Pkg → Pkg) : (s.modPkg f).now = s.now := rfl
@[simp] theorem modPkg_tick (f : Pkg → Pkg) : (s.modPkg f).tick = s.tick := rfl
@[simp] theorem modPkg_agenda (f : Pkg → Pkg) : (s.modPkg f).agenda = s.agenda := rfl
@[simp] theorem modPkg_cur (f : Pkg → Pkg) : (s.modPkg f).cur = s.cur := rfl
@[simp] theorem modPkg_lane (f : Pkg → Pkg) : (s.modPkg f).lane = s.lane := rfl
@[simp] theorem modPkg_nextId (f : Pkg → Pkg) : (s.modPkg f).nextId = s.nextId := rfl
@[simp] theorem modPkg_absent (f : Pkg → Pkg) : (s.modPkg f).absent = s.absent := rfl
@[simp] theorem modPkg_dies (f : Pkg → Pkg) : (s.modPkg f).dies = s.dies := rfl
@[simp] theorem modPkg_quads (f : Pkg → Pkg) : (s.modPkg f).quads = s.quads := rfl
@[simp] theorem modPkg_stks (f : Pkg → Pkg) : (s.modPkg f).stks = s.stks := rfl
@[simp] theorem modPkg_clusters (f : Pkg → Pkg) : (s.modPkg f).clusters = s.clusters := rfl
@[simp] theorem modPkg_ctxs (f : Pkg → Pkg) : (s.modPkg f).ctxs = s.ctxs := rfl
@[simp] theorem modPkg_flocks (f : Pkg → Pkg) : (s.modPkg f).flocks = s.flocks := rfl
@[simp] theorem modPkg_queues (f : Pkg → Pkg) : (s.modPkg f).queues = s.queues := rfl
@[simp] theorem modPkg_locals (f : Pkg → Pkg) : (s.modPkg f).locals = s.locals := rfl
@[simp] theorem modPkg_localDirty (f : Pkg → Pkg) : (s.modPkg f).localDirty = s.localDirty := rfl
@[simp] theorem modPkg_threads (f : Pkg → Pkg) : (s.modPkg f).threads = s.threads := rfl
@[simp] theorem modPkg_groups (f : Pkg → Pkg) : (s.modPkg f).groups = s.groups := rfl
@[simp] theorem modPkg_mem (f : Pkg → Pkg) : (s.modPkg f).mem = s.mem := rfl
@[simp] theorem modPkg_homes (f : Pkg → Pkg) : (s.modPkg f).homes = s.homes := rfl
@[simp] theorem modPkg_bias (f : Pkg → Pkg) : (s.modPkg f).bias = s.bias := rfl
@[simp] theorem modPkg_ops (f : Pkg → Pkg) : (s.modPkg f).ops = s.ops := rfl
@[simp] theorem modPkg_held (f : Pkg → Pkg) : (s.modPkg f).held = s.held := rfl
@[simp] theorem modPkg_lost (f : Pkg → Pkg) : (s.modPkg f).lost = s.lost := rfl
@[simp] theorem modPkg_clu (f : Pkg → Pkg) (y : Nat) : (s.modPkg f).clu y = s.clu y := rfl
@[simp] theorem modPkg_ctx (f : Pkg → Pkg) (y : Nat) : (s.modPkg f).ctx y = s.ctx y := rfl
@[simp] theorem modPkg_flk (f : Pkg → Pkg) (y : Nat) : (s.modPkg f).flk y = s.flk y := rfl
@[simp] theorem modPkg_thr (f : Pkg → Pkg) (y : Tid) : (s.modPkg f).thr y = s.thr y := rfl
@[simp] theorem modPkg_grp (f : Pkg → Pkg) (y z w : Nat) : (s.modPkg f).grp y z w = s.grp y z w := rfl
@[simp] theorem modPkg_die (f : Pkg → Pkg) (y : Nat) : (s.modPkg f).die y = s.die y := rfl
@[simp] theorem modPkg_quad (f : Pkg → Pkg) (y : Nat) : (s.modPkg f).quad y = s.quad y := rfl
@[simp] theorem modPkg_stk (f : Pkg → Pkg) (y : Nat) : (s.modPkg f).stk y = s.stk y := rfl
@[simp] theorem modPkg_que (f : Pkg → Pkg) (y : Nat) : (s.modPkg f).que y = s.que y := rfl
@[simp] theorem modPkg_homeOf (f : Pkg → Pkg) (y : Nat) : (s.modPkg f).homeOf y = s.homeOf y := rfl
@[simp] theorem modPkg_localMem (f : Pkg → Pkg) (y z : Nat) : (s.modPkg f).localMem y z = s.localMem y z := rfl
@[simp] theorem modPkg_pidOf (f : Pkg → Pkg) (y z : Nat) : (s.modPkg f).pidOf y z = s.pidOf y z := rfl
@[simp] theorem modPkg_ctxOf (f : Pkg → Pkg) (y : Tid) : (s.modPkg f).ctxOf y = s.ctxOf y := rfl

/-! ### localWrite -/

@[simp] theorem localWrite_now (i c o : Nat) (bs : List Byte) : (s.localWrite i c o bs).now = s.now := rfl
@[simp] theorem localWrite_tick (i c o : Nat) (bs : List Byte) : (s.localWrite i c o bs).tick = s.tick := rfl
@[simp] theorem localWrite_agenda (i c o : Nat) (bs : List Byte) : (s.localWrite i c o bs).agenda = s.agenda := rfl
@[simp] theorem localWrite_cur (i c o : Nat) (bs : List Byte) : (s.localWrite i c o bs).cur = s.cur := rfl
@[simp] theorem localWrite_lane (i c o : Nat) (bs : List Byte) : (s.localWrite i c o bs).lane = s.lane := rfl
@[simp] theorem localWrite_nextId (i c o : Nat) (bs : List Byte) : (s.localWrite i c o bs).nextId = s.nextId := rfl
@[simp] theorem localWrite_absent (i c o : Nat) (bs : List Byte) : (s.localWrite i c o bs).absent = s.absent := rfl
@[simp] theorem localWrite_pkg (i c o : Nat) (bs : List Byte) : (s.localWrite i c o bs).pkg = s.pkg := rfl
@[simp] theorem localWrite_dies (i c o : Nat) (bs : List Byte) : (s.localWrite i c o bs).dies = s.dies := rfl
@[simp] theorem localWrite_quads (i c o : Nat) (bs : List Byte) : (s.localWrite i c o bs).quads = s.quads := rfl
@[simp] theorem localWrite_stks (i c o : Nat) (bs : List Byte) : (s.localWrite i c o bs).stks = s.stks := rfl
@[simp] theorem localWrite_clusters (i c o : Nat) (bs : List Byte) : (s.localWrite i c o bs).clusters = s.clusters := rfl
@[simp] theorem localWrite_ctxs (i c o : Nat) (bs : List Byte) : (s.localWrite i c o bs).ctxs = s.ctxs := rfl
@[simp] theorem localWrite_flocks (i c o : Nat) (bs : List Byte) : (s.localWrite i c o bs).flocks = s.flocks := rfl
@[simp] theorem localWrite_queues (i c o : Nat) (bs : List Byte) : (s.localWrite i c o bs).queues = s.queues := rfl
@[simp] theorem localWrite_threads (i c o : Nat) (bs : List Byte) : (s.localWrite i c o bs).threads = s.threads := rfl
@[simp] theorem localWrite_groups (i c o : Nat) (bs : List Byte) : (s.localWrite i c o bs).groups = s.groups := rfl
@[simp] theorem localWrite_mem (i c o : Nat) (bs : List Byte) : (s.localWrite i c o bs).mem = s.mem := rfl
@[simp] theorem localWrite_homes (i c o : Nat) (bs : List Byte) : (s.localWrite i c o bs).homes = s.homes := rfl
@[simp] theorem localWrite_bias (i c o : Nat) (bs : List Byte) : (s.localWrite i c o bs).bias = s.bias := rfl
@[simp] theorem localWrite_ops (i c o : Nat) (bs : List Byte) : (s.localWrite i c o bs).ops = s.ops := rfl
@[simp] theorem localWrite_held (i c o : Nat) (bs : List Byte) : (s.localWrite i c o bs).held = s.held := rfl
@[simp] theorem localWrite_lost (i c o : Nat) (bs : List Byte) : (s.localWrite i c o bs).lost = s.lost := rfl
@[simp] theorem localWrite_clu (i c o : Nat) (bs : List Byte) (y : Nat) : (s.localWrite i c o bs).clu y = s.clu y := rfl
@[simp] theorem localWrite_ctx (i c o : Nat) (bs : List Byte) (y : Nat) : (s.localWrite i c o bs).ctx y = s.ctx y := rfl
@[simp] theorem localWrite_flk (i c o : Nat) (bs : List Byte) (y : Nat) : (s.localWrite i c o bs).flk y = s.flk y := rfl
@[simp] theorem localWrite_thr (i c o : Nat) (bs : List Byte) (y : Tid) : (s.localWrite i c o bs).thr y = s.thr y := rfl
@[simp] theorem localWrite_grp (i c o : Nat) (bs : List Byte) (y z w : Nat) : (s.localWrite i c o bs).grp y z w = s.grp y z w := rfl
@[simp] theorem localWrite_die (i c o : Nat) (bs : List Byte) (y : Nat) : (s.localWrite i c o bs).die y = s.die y := rfl
@[simp] theorem localWrite_quad (i c o : Nat) (bs : List Byte) (y : Nat) : (s.localWrite i c o bs).quad y = s.quad y := rfl
@[simp] theorem localWrite_stk (i c o : Nat) (bs : List Byte) (y : Nat) : (s.localWrite i c o bs).stk y = s.stk y := rfl
@[simp] theorem localWrite_que (i c o : Nat) (bs : List Byte) (y : Nat) : (s.localWrite i c o bs).que y = s.que y := rfl
@[simp] theorem localWrite_homeOf (i c o : Nat) (bs : List Byte) (y : Nat) : (s.localWrite i c o bs).homeOf y = s.homeOf y := rfl
@[simp] theorem localWrite_pidOf (i c o : Nat) (bs : List Byte) (y z : Nat) : (s.localWrite i c o bs).pidOf y z = s.pidOf y z := rfl
@[simp] theorem localWrite_ctxOf (i c o : Nat) (bs : List Byte) (y : Tid) : (s.localWrite i c o bs).ctxOf y = s.ctxOf y := rfl

/-! ### planeWrite -/

@[simp] theorem planeWrite_now (p o : Nat) (bs : List Byte) : (s.planeWrite p o bs).now = s.now := rfl
@[simp] theorem planeWrite_tick (p o : Nat) (bs : List Byte) : (s.planeWrite p o bs).tick = s.tick := rfl
@[simp] theorem planeWrite_agenda (p o : Nat) (bs : List Byte) : (s.planeWrite p o bs).agenda = s.agenda := rfl
@[simp] theorem planeWrite_cur (p o : Nat) (bs : List Byte) : (s.planeWrite p o bs).cur = s.cur := rfl
@[simp] theorem planeWrite_lane (p o : Nat) (bs : List Byte) : (s.planeWrite p o bs).lane = s.lane := rfl
@[simp] theorem planeWrite_nextId (p o : Nat) (bs : List Byte) : (s.planeWrite p o bs).nextId = s.nextId := rfl
@[simp] theorem planeWrite_absent (p o : Nat) (bs : List Byte) : (s.planeWrite p o bs).absent = s.absent := rfl
@[simp] theorem planeWrite_pkg (p o : Nat) (bs : List Byte) : (s.planeWrite p o bs).pkg = s.pkg := rfl
@[simp] theorem planeWrite_dies (p o : Nat) (bs : List Byte) : (s.planeWrite p o bs).dies = s.dies := rfl
@[simp] theorem planeWrite_quads (p o : Nat) (bs : List Byte) : (s.planeWrite p o bs).quads = s.quads := rfl
@[simp] theorem planeWrite_stks (p o : Nat) (bs : List Byte) : (s.planeWrite p o bs).stks = s.stks := rfl
@[simp] theorem planeWrite_ctxs (p o : Nat) (bs : List Byte) : (s.planeWrite p o bs).ctxs = s.ctxs := rfl
@[simp] theorem planeWrite_flocks (p o : Nat) (bs : List Byte) : (s.planeWrite p o bs).flocks = s.flocks := rfl
@[simp] theorem planeWrite_queues (p o : Nat) (bs : List Byte) : (s.planeWrite p o bs).queues = s.queues := rfl
@[simp] theorem planeWrite_locals (p o : Nat) (bs : List Byte) : (s.planeWrite p o bs).locals = s.locals := rfl
@[simp] theorem planeWrite_localDirty (p o : Nat) (bs : List Byte) : (s.planeWrite p o bs).localDirty = s.localDirty := rfl
@[simp] theorem planeWrite_threads (p o : Nat) (bs : List Byte) : (s.planeWrite p o bs).threads = s.threads := rfl
@[simp] theorem planeWrite_groups (p o : Nat) (bs : List Byte) : (s.planeWrite p o bs).groups = s.groups := rfl
@[simp] theorem planeWrite_mem (p o : Nat) (bs : List Byte) : (s.planeWrite p o bs).mem = s.mem := rfl
@[simp] theorem planeWrite_homes (p o : Nat) (bs : List Byte) : (s.planeWrite p o bs).homes = s.homes := rfl
@[simp] theorem planeWrite_bias (p o : Nat) (bs : List Byte) : (s.planeWrite p o bs).bias = s.bias := rfl
@[simp] theorem planeWrite_ops (p o : Nat) (bs : List Byte) : (s.planeWrite p o bs).ops = s.ops := rfl
@[simp] theorem planeWrite_held (p o : Nat) (bs : List Byte) : (s.planeWrite p o bs).held = s.held := rfl
@[simp] theorem planeWrite_lost (p o : Nat) (bs : List Byte) : (s.planeWrite p o bs).lost = s.lost := rfl
@[simp] theorem planeWrite_ctx (p o : Nat) (bs : List Byte) (y : Nat) : (s.planeWrite p o bs).ctx y = s.ctx y := rfl
@[simp] theorem planeWrite_flk (p o : Nat) (bs : List Byte) (y : Nat) : (s.planeWrite p o bs).flk y = s.flk y := rfl
@[simp] theorem planeWrite_thr (p o : Nat) (bs : List Byte) (y : Tid) : (s.planeWrite p o bs).thr y = s.thr y := rfl
@[simp] theorem planeWrite_grp (p o : Nat) (bs : List Byte) (y z w : Nat) : (s.planeWrite p o bs).grp y z w = s.grp y z w := rfl
@[simp] theorem planeWrite_die (p o : Nat) (bs : List Byte) (y : Nat) : (s.planeWrite p o bs).die y = s.die y := rfl
@[simp] theorem planeWrite_quad (p o : Nat) (bs : List Byte) (y : Nat) : (s.planeWrite p o bs).quad y = s.quad y := rfl
@[simp] theorem planeWrite_stk (p o : Nat) (bs : List Byte) (y : Nat) : (s.planeWrite p o bs).stk y = s.stk y := rfl
@[simp] theorem planeWrite_que (p o : Nat) (bs : List Byte) (y : Nat) : (s.planeWrite p o bs).que y = s.que y := rfl
@[simp] theorem planeWrite_homeOf (p o : Nat) (bs : List Byte) (y : Nat) : (s.planeWrite p o bs).homeOf y = s.homeOf y := rfl
@[simp] theorem planeWrite_localMem (p o : Nat) (bs : List Byte) (y z : Nat) : (s.planeWrite p o bs).localMem y z = s.localMem y z := rfl
@[simp] theorem planeWrite_pidOf (p o : Nat) (bs : List Byte) (y z : Nat) : (s.planeWrite p o bs).pidOf y z = s.pidOf y z := rfl
@[simp] theorem planeWrite_ctxOf (p o : Nat) (bs : List Byte) (y : Tid) : (s.planeWrite p o bs).ctxOf y = s.ctxOf y := rfl

/-! ### The table that is written -/

theorem clu_setClu (p y : Nat) (x : Cluster) : (s.setClu p x).clu y = if y = p then x else s.clu y := Table.get_set _ _ _ _ _
theorem clu_modClu (p y : Nat) (f : Cluster → Cluster) : (s.modClu p f).clu y = if y = p then f (s.clu p) else s.clu y :=
  Table.get_set _ _ _ _ _
theorem ctx_setCtx (c y : Nat) (x : Ctx) : (s.setCtx c x).ctx y = if y = c then x else s.ctx y := Table.get_set _ _ _ _ _
theorem ctx_modCtx (c y : Nat) (f : Ctx → Ctx) : (s.modCtx c f).ctx y = if y = c then f (s.ctx c) else s.ctx y :=
  Table.get_set _ _ _ _ _
theorem flk_setFlk (i y : Nat) (x : Flock) : (s.setFlk i x).flk y = if y = i then x else s.flk y := Table.get_set _ _ _ _ _
theorem flk_modFlk (i y : Nat) (f : Flock → Flock) : (s.modFlk i f).flk y = if y = i then f (s.flk i) else s.flk y :=
  Table.get_set _ _ _ _ _
theorem thr_setThr (t y : Tid) (x : Thread) : (s.setThr t x).thr y = if y = t then x else s.thr y := Table.get_set _ _ _ _ _
theorem thr_modThr (t y : Tid) (f : Thread → Thread) : (s.modThr t f).thr y = if y = t then f (s.thr t) else s.thr y :=
  Table.get_set _ _ _ _ _
theorem grp_setGrp (i c k y z w : Nat) (x : Group) :
    (s.setGrp i c k x).grp y z w = if (y, z, w) = (i, c, k) then x else s.grp y z w := Table.get_set _ _ _ _ _
theorem grp_modGrp (i c k y z w : Nat) (f : Group → Group) :
    (s.modGrp i c k f).grp y z w = if (y, z, w) = (i, c, k) then f (s.grp i c k) else s.grp y z w := Table.get_set _ _ _ _ _
theorem die_modDie (d y : Nat) (f : Die → Die) : (s.modDie d f).die y = if y = d then f (s.die d) else s.die y :=
  Table.get_set _ _ _ _ _
theorem quad_modQuad (q y : Nat) (f : Quad → Quad) : (s.modQuad q f).quad y = if y = q then f (s.quad q) else s.quad y :=
  Table.get_set _ _ _ _ _
theorem stk_modStk (h y : Nat) (f : Stack → Stack) : (s.modStk h f).stk y = if y = h then f (s.stk h) else s.stk y :=
  Table.get_set _ _ _ _ _
theorem que_modQue (q y : Nat) (f : Queue → Queue) : (s.modQue q f).que y = if y = q then f (s.que q) else s.que y :=
  Table.get_set _ _ _ _ _
theorem homeOf_modHome (a y : Nat) (f : HomeLine → HomeLine) :
    (s.modHome a f).homeOf y = if y / 256 = a / 256 then f (s.homeOf a) else s.homeOf y := Table.get_set _ _ _ _ _
@[simp] theorem modPkg_pkg (f : Pkg → Pkg) : (s.modPkg f).pkg = f s.pkg := rfl

@[simp] theorem clu_modClu_self (p : Nat) (f : Cluster → Cluster) : (s.modClu p f).clu p = f (s.clu p) := Table.get_set_self _ _ _ _
@[simp] theorem clu_setClu_self (p : Nat) (x : Cluster) : (s.setClu p x).clu p = x := Table.get_set_self _ _ _ _
@[simp] theorem ctx_modCtx_self (c : Nat) (f : Ctx → Ctx) : (s.modCtx c f).ctx c = f (s.ctx c) := Table.get_set_self _ _ _ _
@[simp] theorem ctx_setCtx_self (c : Nat) (x : Ctx) : (s.setCtx c x).ctx c = x := Table.get_set_self _ _ _ _
@[simp] theorem flk_modFlk_self (i : Nat) (f : Flock → Flock) : (s.modFlk i f).flk i = f (s.flk i) := Table.get_set_self _ _ _ _
@[simp] theorem flk_setFlk_self (i : Nat) (x : Flock) : (s.setFlk i x).flk i = x := Table.get_set_self _ _ _ _
@[simp] theorem thr_modThr_self (t : Tid) (f : Thread → Thread) : (s.modThr t f).thr t = f (s.thr t) := Table.get_set_self _ _ _ _
@[simp] theorem thr_setThr_self (t : Tid) (x : Thread) : (s.setThr t x).thr t = x := Table.get_set_self _ _ _ _
@[simp] theorem grp_modGrp_self (i c k : Nat) (f : Group → Group) : (s.modGrp i c k f).grp i c k = f (s.grp i c k) :=
  Table.get_set_self _ _ _ _
@[simp] theorem grp_setGrp_self (i c k : Nat) (x : Group) : (s.setGrp i c k x).grp i c k = x := Table.get_set_self _ _ _ _
@[simp] theorem die_modDie_self (d : Nat) (f : Die → Die) : (s.modDie d f).die d = f (s.die d) := Table.get_set_self _ _ _ _
@[simp] theorem quad_modQuad_self (q : Nat) (f : Quad → Quad) : (s.modQuad q f).quad q = f (s.quad q) := Table.get_set_self _ _ _ _
@[simp] theorem stk_modStk_self (h : Nat) (f : Stack → Stack) : (s.modStk h f).stk h = f (s.stk h) := Table.get_set_self _ _ _ _
@[simp] theorem que_modQue_self (q : Nat) (f : Queue → Queue) : (s.modQue q f).que q = f (s.que q) := Table.get_set_self _ _ _ _
@[simp] theorem homeOf_modHome_self (a : Nat) (f : HomeLine → HomeLine) : (s.modHome a f).homeOf a = f (s.homeOf a) :=
  Table.get_set_self _ _ _ _

theorem thr_modThr_ne {t y : Tid} (f : Thread → Thread) (h : y ≠ t) : (s.modThr t f).thr y = s.thr y := by
  rw [thr_modThr, if_neg h]
theorem clu_modClu_ne {p y : Nat} (f : Cluster → Cluster) (h : y ≠ p) : (s.modClu p f).clu y = s.clu y := by
  rw [clu_modClu, if_neg h]
theorem ctx_modCtx_ne {c y : Nat} (f : Ctx → Ctx) (h : y ≠ c) : (s.modCtx c f).ctx y = s.ctx y := by
  rw [ctx_modCtx, if_neg h]

end Sys2Proof.Machine.State
end

