-- ==== Sys2Proof/Laws/Ops.lean ====
section
/-! SUPPORT. What each shared operation can do, said once: the frame of the accesses at the homes and of
translation, and the effect of the operations of a thread (registers, traps, payment, lane destinations). -/

set_option Elab.async false

namespace Sys2Proof.Machine

theorem Table.set_set {κ α : Type} [DecidableEq κ] (t : Table κ α) (k : κ) (v w : α) :
    (t.set k v).set k w = t.set k w := by
  induction t with
  | nil => simp [Table.set]
  | cons e t ih => obtain ⟨a, b⟩ := e; by_cases h : a = k <;> simp [Table.set, h, ih]

theorem Table.mapVals_get {κ α : Type} [DecidableEq κ] (f : α → α) (t : Table κ α) (k : κ) (d : α) (hd : f d = d) :
    (Table.mapVals (fun _ x => f x) t).get k d = f (t.get k d) := by
  induction t with
  | nil => exact hd.symm
  | cons e t ih => obtain ⟨a, b⟩ := e; by_cases h : a = k <;> simp_all [Table.mapVals, Table.get]

/-! ## The frame of main memory and the caches -/

/-- An access without the completion time of its write. -/
def MemOp.bare (o : MemOp) : MemOp := { o with gw := none }

/-- What an access at the homes, a translation or a cache operation can change: main memory, the homes' records,
the clusters' caches (never a weight plane), the completion times that made writes are still owed, the turn's record of
held lines, of lost write-backs and of writes that a lock holds, and of a context only its logs of atomics and its reels. Memories keep their
canonical form. -/
structure HomeFrame (s t : State) : Prop where
  rest : t = { s with
    mem := t.mem
    homes := t.homes
    clusters := t.clusters
    ctxs := t.ctxs
    ops := t.ops
    held := t.held
    lost := t.lost
    late := t.late }
  mem : s.mem.wf = true → t.mem.wf = true
  planes : s.clusters.all (fun e => Mem.wf e.2.plane) = true → t.clusters.all (fun e => Mem.wf e.2.plane) = true
  plane : ∀ p, (t.clu p).plane = (s.clu p).plane
  ctx : ∀ c, t.ctx c = { s.ctx c with
    alog := (t.ctx c).alog
    reels := (t.ctx c).reels }
  bare : t.ops.map MemOp.bare = s.ops.map MemOp.bare
  waits : s.held = true → t.held = true

namespace HomeFrame

theorem refl (s : State) : HomeFrame s s := ⟨rfl, id, id, fun _ => rfl, fun _ => rfl, rfl, id⟩

theorem trans {s t u : State} (h : HomeFrame s t) (k : HomeFrame t u) : HomeFrame s u where
  rest := by rw [k.rest, h.rest]
  mem := k.mem ∘ h.mem
  planes := k.planes ∘ h.planes
  plane p := (k.plane p).trans (h.plane p)
  ctx c := by rw [k.ctx c, h.ctx c]
  bare := k.bare.trans h.bare
  waits := k.waits ∘ h.waits

theorem foldl {α : Type} (f : State → α → State) (hf : ∀ s a, HomeFrame s (f s a)) (l : List α) (s : State) :
    HomeFrame s (l.foldl f s) := by
  induction l generalizing s with
  | nil => exact refl s
  | cons a l ih => exact (hf s a).trans (ih _)

/-- A fold that carries a value beside the state. -/
theorem foldlPair {α β : Type} (f : State × β → α → State × β) (hf : ∀ x a, HomeFrame x.1 (f x a).1) (l : List α)
    (x : State × β) : HomeFrame x.1 (l.foldl f x).1 := by
  induction l generalizing x with
  | nil => exact refl x.1
  | cons a l ih => exact (hf x a).trans (ih _)

theorem ofMem (s : State) (m : Mem) (h : s.mem.wf = true → m.wf = true) : HomeFrame s { s with mem := m } :=
  ⟨rfl, h, id, fun _ => rfl, fun _ => rfl, rfl, id⟩

theorem ofHome (s : State) (pa : Nat) (f : HomeLine → HomeLine) : HomeFrame s (s.modHome pa f) :=
  ⟨rfl, id, id, fun _ => rfl, fun _ => rfl, rfl, id⟩

theorem ofHeld (b : Bool) (s : State) : HomeFrame s (holdIf b s) := by
  unfold holdIf
  split
  · exact ⟨rfl, id, id, fun _ => rfl, fun _ => rfl, rfl, fun _ => rfl⟩
  · exact refl s

theorem ofLost (s : State) (l : List LostBack) : HomeFrame s { s with lost := l } :=
  ⟨rfl, id, id, fun _ => rfl, fun _ => rfl, rfl, id⟩

theorem ofLate (s : State) (l : List LateWrite) : HomeFrame s { s with late := l } :=
  ⟨rfl, id, id, fun _ => rfl, fun _ => rfl, rfl, id⟩

theorem waiting (s : State) (l : List LateWrite) : HomeFrame s { s with held := true, late := l } :=
  ⟨rfl, id, id, fun _ => rfl, fun _ => rfl, rfl, fun _ => rfl⟩

theorem ofOps (s : State) (f : MemOp → MemOp) (hf : ∀ o, (f o).bare = o.bare) : HomeFrame s { s with ops := s.ops.map f } :=
  ⟨rfl, id, id, fun _ => rfl, fun _ => rfl, by simp [Function.comp_def, hf], id⟩

theorem ofClu (s : State) (pid : Nat) (f : Cluster → Cluster) (hf : ∀ c, (f c).plane = c.plane) :
    HomeFrame s (s.modClu pid f) where
  rest := rfl
  mem := id
  planes h := Table.all_set _ _ _ _ h (by
    show Mem.wf (f (s.clu pid)).plane = true
    rw [hf]
    exact Table.get_of_all (fun e : Nat × Cluster => Mem.wf e.2.plane) s.clusters pid Cluster.reset h rfl)
  plane p := by rw [State.clu_modClu]; split <;> simp_all
  ctx _ := rfl
  bare := rfl
  waits := id

theorem ofClus (s : State) (f : Cluster → Cluster) (hf : ∀ c, (f c).plane = c.plane) (h0 : f Cluster.reset = Cluster.reset) :
    HomeFrame s { s with clusters := s.clusters.mapVals fun _ c => f c } where
  rest := rfl
  mem := id
  planes h := by simpa [Table.mapVals, List.all_map, Function.comp_def, hf] using h
  plane p := by
    show ((Table.mapVals (fun _ c => f c) s.clusters).get p Cluster.reset).plane = _
    rw [Table.mapVals_get f _ _ _ h0, hf]; rfl
  ctx _ := rfl
  bare := rfl
  waits := id

theorem ofCtx (s : State) (cn : Nat) (x : Ctx) (hx : x = { s.ctx cn with
    alog := x.alog
    reels := x.reels }) : HomeFrame s (s.setCtx cn x) where
  rest := rfl
  mem := id
  planes := id
  plane _ := rfl
  ctx c := by
    rw [State.ctx_setCtx]; split
    · subst_vars; exact hx
    · rfl
  bare := rfl
  waits := id

variable {s t : State}

theorem now (h : HomeFrame s t) : t.now = s.now := by rw [h.rest]
theorem tick (h : HomeFrame s t) : t.tick = s.tick := by rw [h.rest]
theorem cur (h : HomeFrame s t) : t.cur = s.cur := by rw [h.rest]
theorem lane (h : HomeFrame s t) : t.lane = s.lane := by rw [h.rest]
theorem pkg (h : HomeFrame s t) : t.pkg = s.pkg := by rw [h.rest]
theorem flocks (h : HomeFrame s t) : t.flocks = s.flocks := by rw [h.rest]
theorem queues (h : HomeFrame s t) : t.queues = s.queues := by rw [h.rest]
theorem threads (h : HomeFrame s t) : t.threads = s.threads := by rw [h.rest]
theorem groups (h : HomeFrame s t) : t.groups = s.groups := by rw [h.rest]
theorem locals (h : HomeFrame s t) : t.locals = s.locals := by rw [h.rest]
theorem bias (h : HomeFrame s t) : t.bias = s.bias := by rw [h.rest]
theorem thr (h : HomeFrame s t) (u : Tid) : t.thr u = s.thr u := by rw [h.rest]; rfl
theorem flk (h : HomeFrame s t) (i : Nat) : t.flk i = s.flk i := by rw [h.rest]; rfl
theorem grp (h : HomeFrame s t) (i c k : Nat) : t.grp i c k = s.grp i c k := by rw [h.rest]; rfl
theorem me (h : HomeFrame s t) : me t = me s := by simp only [Machine.me, h.cur, h.thr]

end HomeFrame

/-! ## Accesses at the homes -/

theorem bumpCt_frame (s : State) (pa n ct : Nat) : HomeFrame s (bumpCt s pa n ct) :=
  HomeFrame.foldl _ (fun s _ => HomeFrame.ofHome s _ _) _ _

theorem l1Update_frame (s : State) (pid pa : Nat) (bs : List Byte) (m : Nat → Bool) : HomeFrame s (l1Update s pid pa bs m) := by
  unfold l1Update
  dsimp only
  split
  · exact HomeFrame.refl s
  · exact HomeFrame.ofClu s pid _ fun _ => rfl

theorem obtain_frame (s : State) (pa n lvl : Nat) : HomeFrame s (obtain s pa n lvl) :=
  HomeFrame.foldl _ (fun s _ => by split; exacts [HomeFrame.refl s, HomeFrame.ofHome s _ _]) _ _

theorem backInvalidate_frame (s : State) (pa n : Nat) : HomeFrame s (backInvalidate s pa n) :=
  HomeFrame.foldl _ (fun s _ => by split; exacts [HomeFrame.ofHome s _ _, HomeFrame.refl s]) _ _

theorem homeWriteSome_frame (s : State) (pid pa : Nat) (bs : List Byte) (m : Nat → Bool) :
    HomeFrame s (homeWriteSome s pid pa bs m).1 :=
  (((backInvalidate_frame s _ _).trans (HomeFrame.ofMem _ _ (Mem.wf_writeList _ _ _))).trans (l1Update_frame _ _ _ _ _)).trans
    (bumpCt_frame _ _ _ _)

theorem homeWrite_frame (s : State) (pid pa : Nat) (bs : List Byte) : HomeFrame s (homeWrite s pid pa bs).1 :=
  homeWriteSome_frame _ _ _ _ _

theorem pinTouch_frame (s : State) (w : Window) (pa n : Nat) (wr : Bool) : HomeFrame s (pinTouch s w pa n wr) :=
  HomeFrame.ofClu s _ _ fun _ => rfl

theorem l2Slot_frame (s : State) (pa n pri : Nat) (na wr : Bool) : HomeFrame s (l2Slot s pa n pri na wr) := by
  refine HomeFrame.ofClu s _ _ fun c => ?_
  dsimp only
  split
  · rfl
  · split <;> rfl

theorem l2Touch_frame (s : State) (pa n pri : Nat) (na wr : Bool) : HomeFrame s (l2Touch s pa n pri na wr) := by
  unfold l2Touch
  split
  · exact HomeFrame.refl s
  · split
    · split
      · exact pinTouch_frame _ _ _ _ _
      · exact HomeFrame.refl s
    · exact l2Slot_frame _ _ _ _ _ _

theorem setSector_frame (s : State) (pid va k : Nat) (st : StashSt) : HomeFrame s (setSector s pid va k st) :=
  HomeFrame.ofClu s pid _ fun _ => rfl

theorem dropOwner_frame (s : State) (pa : Nat) : HomeFrame s (dropOwner s pa) := HomeFrame.ofHome s _ _

theorem owe_frame (s : State) (p : MemOp → Bool) (t : Option Nat) (g : Gwct) : HomeFrame s (owe s p t g) := by
  refine HomeFrame.ofOps s _ fun o => ?_
  split
  · split <;> rfl
  · rfl

theorem oweChunks_frame (s : State) (pid va k : Nat) (t : Option Nat) (g : Gwct) : HomeFrame s (oweChunks s pid va k t g) :=
  HomeFrame.ofClus s _ (fun _ => rfl) rfl

theorem oweSector_frame (s : State) (pid : Nat) (e : StashEnt) (k : Nat) (t : Option Nat) (g : Gwct) :
    HomeFrame s (oweSector s pid e k t g) := (owe_frame _ _ _ _).trans (oweChunks_frame _ _ _ _ _ _)

theorem installFirst_frame (s : State) (pid : Nat) (leaf : TlbEnt) : HomeFrame s (installFirst s pid leaf) :=
  HomeFrame.ofClu s pid _ fun _ => rfl

theorem installLeaf_frame (s : State) (pid : Nat) (leaf : TlbEnt) : HomeFrame s (installLeaf s pid leaf) :=
  (installFirst_frame s pid leaf).trans (HomeFrame.ofClu _ pid _ fun _ => rfl)

theorem installNodes_frame (s : State) (pid ctx va : Nat) (ns : List (Nat × Nat)) : HomeFrame s (installNodes s pid ctx va ns) := by
  unfold installNodes
  exact HomeFrame.ofClu s pid _ fun _ => rfl

theorem dropLeaf_frame (s : State) (pid : Nat) (leaf : TlbEnt) : HomeFrame s (dropLeaf s pid leaf) :=
  HomeFrame.ofClu s pid _ fun _ => rfl

theorem dropL1Line_frame (s : State) (pid line : Nat) : HomeFrame s (dropL1Line s pid line) :=
  HomeFrame.ofClu s pid _ fun _ => rfl

theorem backBytes_frame (s : State) (pid : Nat) (h : BackHint) (e : StashEnt) (k pa touched : Nat) :
    HomeFrame s (backBytes s pid h e k pa touched).1 :=
  (((HomeFrame.ofHeld _ s).trans (l2Touch_frame _ _ _ _ _ _)).trans (obtain_frame _ _ _ _)).trans (homeWriteSome_frame _ _ _ _ _)

/-! ### The operations over what is settled at a home

Each keeps the frame where the settling does. -/

/-- What is settled at a home keeps the frame. -/
def FrameHome (home : State → Nat → Nat → State) : Prop := ∀ s a n, HomeFrame s (home s a n)

section
variable {home : State → Nat → Nat → State} (hh : FrameHome home)
include hh

theorem readBy_frame (s : State) (pa n : Nat) : HomeFrame s (readBy home s pa n).1 :=
  (hh s pa n).trans (obtain_frame _ _ _ _)

theorem writeBy_frame (s : State) (pid pa : Nat) (bs : List Byte) : HomeFrame s (writeBy home s pid pa bs).1 :=
  ((hh s _ _).trans (obtain_frame _ _ _ _)).trans (homeWrite_frame _ _ _ _)

theorem readEntryBy_frame (s : State) (a : Nat) : HomeFrame s (readEntryBy home s a).1 := by
  have h := (HomeFrame.ofHeld (readHeld s a) s).trans (readBy_frame hh _ a 8)
  unfold readEntryBy
  generalize readBy home (holdIf (readHeld s a) s) a 8 = r at h ⊢
  exact h

theorem walkFromBy_frame (ctx va : Nat) (ls : List Nat) (s : State) (node : Nat) (ns : List (Nat × Nat)) :
    HomeFrame s (walkFromBy home ctx va ls s node ns).1 := by
  induction ls generalizing s node ns with
  | nil => exact HomeFrame.refl s
  | cons level rest ih =>
    unfold walkFromBy
    dsimp only
    split
    · exact HomeFrame.refl s
    · have hr := readEntryBy_frame hh s (node + 8 * vaIndex va level)
      generalize readEntryBy home s (node + 8 * vaIndex va level) = r at hr ⊢
      obtain ⟨u, e⟩ := r
      dsimp only at hr ⊢
      split
      · exact hr
      · split
        · exact hr.trans (ih _ _ _)
        · exact hr

theorem walkBy_frame (s : State) (pid ctx va : Nat) : HomeFrame s (walkBy home s pid ctx va).1 := by
  have hf := fun lv node => walkFromBy_frame hh ctx va lv s node []
  unfold walkBy
  dsimp only
  generalize (List.find? _ (s.clu pid).nodes) = cached
  rcases cached with _ | n <;> dsimp only
  · have h := hf walkLevels ((s.ctx ctx).root * 4096)
    generalize walkFromBy home ctx va walkLevels s ((s.ctx ctx).root * 4096) [] = w at h ⊢
    obtain ⟨u, c | ⟨leaf, x⟩, ns⟩ := w <;> exact h
  · have h := hf (walkLevels.filter (· < n.2.1)) n.2.2.2
    generalize walkFromBy home ctx va (walkLevels.filter (· < n.2.1)) s n.2.2.2 [] = w at h ⊢
    obtain ⟨u, c | ⟨leaf, x⟩, ns⟩ := w <;> exact h

theorem orEntryBy_frame (s : State) (pid a x bit : Nat) : HomeFrame s (orEntryBy home s pid a x bit) := by
  unfold orEntryBy
  dsimp only
  split
  · exact HomeFrame.ofLate s _
  · split
    · exact HomeFrame.waiting s _
    · exact (HomeFrame.ofHeld _ s).trans (writeBy_frame hh _ _ _ _)

theorem walkLeafBy_frame (s : State) (pid ctx va : Nat) : HomeFrame s (walkLeafBy home s pid ctx va).1 := by
  have hw := walkBy_frame hh s pid ctx va
  unfold walkLeafBy
  generalize walkBy home s pid ctx va = w at hw ⊢
  obtain ⟨u, c | ⟨leaf, x, ns⟩⟩ := w
  · exact hw
  · dsimp only at hw ⊢
    split
    · exact hw
    · split
      · exact (hw.trans (installNodes_frame _ _ _ _ _)).trans (installLeaf_frame _ _ _)
      · exact ((hw.trans (orEntryBy_frame hh _ _ _ _ _)).trans (installNodes_frame _ _ _ _ _)).trans (installLeaf_frame _ _ _)

theorem leafForBy_frame (s : State) (pid ctx va : Nat) : HomeFrame s (leafForBy home s pid ctx va).1 := by
  unfold leafForBy
  split
  · dsimp only
    split
    · exact HomeFrame.refl s
    · exact installFirst_frame _ _ _
  · exact walkLeafBy_frame hh _ _ _ _

theorem setDirtyBy_frame (s : State) (pid : Nat) (e : TlbEnt) (x : Nat) : HomeFrame s (setDirtyBy home s pid e x) :=
  (orEntryBy_frame hh _ _ _ _ _).trans (installLeaf_frame _ _ _)

theorem dirtyUpdateBy_frame (s : State) (pid ctx va : Nat) (acc : Acc) (e : TlbEnt) :
    HomeFrame s (dirtyUpdateBy home s pid ctx va acc e).1 := by
  unfold dirtyUpdateBy
  dsimp only
  split
  · exact HomeFrame.refl s
  · have hr := readEntryBy_frame hh s e.entry
    generalize readEntryBy home s e.entry = r at hr ⊢
    obtain ⟨u, x⟩ := r
    dsimp only at hr ⊢
    split
    · exact hr.trans (setDirtyBy_frame hh _ _ _ _)
    · have hw := (hr.trans (dropLeaf_frame u pid e)).trans (walkLeafBy_frame hh _ pid ctx va)
      generalize walkLeafBy home (dropLeaf u pid e) pid ctx va = q at hw ⊢
      obtain ⟨v, c | f⟩ := q
      · exact hw
      · dsimp only at hw ⊢
        split
        · exact hw
        · have hx := readEntryBy_frame hh v f.entry
          generalize readEntryBy home v f.entry = y at hx ⊢
          obtain ⟨z, _⟩ := y
          dsimp only at hx ⊢
          split
          · exact hw.trans hx
          · exact (hw.trans hx).trans (setDirtyBy_frame hh _ _ _ _)

theorem translateBy_frame (s : State) (pid ctx va : Nat) (acc : Acc) : HomeFrame s (translateBy home s pid ctx va acc).1 := by
  unfold translateBy
  split
  · exact HomeFrame.refl s
  · split
    · exact HomeFrame.refl s
    · have hl := leafForBy_frame hh s pid ctx va
      generalize leafForBy home s pid ctx va = r at hl ⊢
      obtain ⟨u, c | e⟩ := r
      · exact hl
      · dsimp only at hl ⊢
        split
        · exact hl
        · split
          · exact hl.trans (dirtyUpdateBy_frame hh _ _ _ _ _ _)
          · exact hl

theorem backCheckBy_frame (s : State) (pid ctx va : Nat) : HomeFrame s (backCheckBy home s pid ctx va).1 := by
  have h := translateBy_frame hh s pid ctx va .store
  unfold backCheckBy
  generalize translateBy home s pid ctx va .store = r at h ⊢
  obtain ⟨u, c | pa⟩ := r <;> exact h

theorem writeBackBy_frame (s : State) (pid : Nat) (h : BackHint) (e : StashEnt) (k pa touched : Nat) :
    HomeFrame s (writeBackBy home s pid h e k pa touched).1 := by
  have hb := backCheckBy_frame hh s pid (s.flk e.fid).ctx (e.va + 32 * k)
  unfold writeBackBy
  dsimp only
  split <;> rename_i hq <;> split at hq
  · obtain ⟨rfl, -⟩ := hq
    exact backBytes_frame _ _ _ _ _ _ _
  · rw [hq] at hb
    exact hb.trans (backBytes_frame _ _ _ _ _ _ _)
  · cases hq
  · rw [hq] at hb
    exact hb.trans (HomeFrame.ofLost _ _)

theorem evictBy_frame (s : State) (pid : Nat) (h : BackHint) (e : StashEnt) (k : Nat) :
    HomeFrame s (evictBy home s pid h e k).1 := by
  unfold evictBy
  split
  · exact HomeFrame.refl s
  · exact (setSector_frame _ _ _ _ _).trans (dropOwner_frame _ _)
  · exact ((writeBackBy_frame hh _ _ _ _ _ _ _).trans (setSector_frame _ _ _ _ _)).trans (dropOwner_frame _ _)
  · rename_i pa ot t _
    have hw : HomeFrame s (if t = 0 then (s, none) else
        ((writeBackBy home (if ot.isNone then home s pa 32 else s) pid h e k pa t).1,
          some (writeBackBy home (if ot.isNone then home s pa 32 else s) pid h e k pa t).2)).1 := by
      split
      · exact HomeFrame.refl s
      · refine HomeFrame.trans ?_ (writeBackBy_frame hh _ _ _ _ _ _ _)
        split
        exacts [hh s _ _, HomeFrame.refl s]
    dsimp only
    generalize (if t = 0 then (s, none) else _ : State × Option Gwct) = q at hw ⊢
    have hs := (hw.trans (oweSector_frame q.1 pid e k ot (q.2.getD default))).trans (setSector_frame _ pid e.va k .unfilled)
    split
    · exact hs
    · exact hs.trans (dropOwner_frame _ _)

theorem recallBy_frame (s : State) (pa : Nat) : HomeFrame s (recallBy home s pa) := by
  unfold recallBy
  split
  · exact HomeFrame.refl s
  · split
    · exact dropOwner_frame _ _
    · exact evictBy_frame hh _ _ _ _ _

theorem logStoreBy_frame (s : State) (sl a : Nat) (bs : List Byte) : HomeFrame s (logStoreBy home s sl a bs) := by
  unfold logStoreBy
  split
  · exact HomeFrame.ofLate s _
  · exact (HomeFrame.ofHeld _ s).trans (writeBy_frame hh _ _ _ _)

theorem logOneBy_frame (s : State) (cn sl req : Nat) : HomeFrame s (logOneBy home s cn sl req) := by
  unfold logOneBy
  dsimp only
  generalize hu : s.setCtx cn _ = u
  have h : HomeFrame s u := hu ▸ HomeFrame.ofCtx s cn _ rfl
  refine h.trans (HomeFrame.trans ?_ (logStoreBy_frame hh _ _ _ _))
  split
  · exact logStoreBy_frame hh _ _ _ _
  · exact HomeFrame.refl _

theorem logAtomicBy_frame (s : State) (pa req : Nat) : HomeFrame s (logAtomicBy home s pa req) :=
  HomeFrame.foldl _ (fun s _ => by split; exacts [logOneBy_frame hh s _ _ _, HomeFrame.refl s]) _ s

theorem applyValsBy_frame (s : State) (pid line : Nat) (u : UoLine) (each : Bool) :
    HomeFrame s (applyValsBy home s pid line u each).1 := by
  unfold applyValsBy
  dsimp only
  have h : HomeFrame s (if each then s else logAtomicBy home s (line * 256) u.req) := by
    split
    exacts [HomeFrame.refl s, logAtomicBy_frame hh _ _ _]
  generalize (if each = true then s else _ : State) = t at h ⊢
  refine h.trans (HomeFrame.foldlPair _ (fun x e => ?_) u.vals (t, gwctOf t pid (line * 256)))
  dsimp only
  split
  · exact (logAtomicBy_frame hh _ _ _).trans (homeWrite_frame _ _ _ _)
  · exact homeWrite_frame _ _ _ _

theorem applyGatheredBy_frame (s : State) (pid line : Nat) : HomeFrame s (applyGatheredBy home s pid line) := by
  unfold applyGatheredBy
  split
  · exact HomeFrame.refl s
  · exact ((applyValsBy_frame hh _ _ _ _ _).trans (owe_frame _ _ _ _)).trans (dropL1Line_frame _ _ _)

theorem combineBy_frame (s : State) (line : Nat) : HomeFrame s (combineBy home s line) := by
  unfold combineBy
  dsimp only
  exact (HomeFrame.foldl _ (fun s p => applyGatheredBy_frame hh s p line) _ s).trans (HomeFrame.ofHome _ _ _)

theorem atHomeBy_frame : FrameHome (atHomeBy home) := by
  intro s pa n
  refine HomeFrame.trans (HomeFrame.foldl _ (fun s _ => recallBy_frame hh s _) _ s) (HomeFrame.foldl _ (fun s k => ?_) _ _)
  split
  · exact HomeFrame.refl s
  · exact combineBy_frame hh s _

end

theorem atHomeN_frame : (n : Nat) → FrameHome (atHomeN n)
  | 0 => fun s _ _ => HomeFrame.refl s
  | n + 1 => atHomeBy_frame (atHomeN_frame n)

theorem atHome_frame : FrameHome atHome := atHomeN_frame homeDepth

theorem readAtHome_frame (s : State) (pa n : Nat) : HomeFrame s (readAtHome s pa n).1 := readBy_frame atHome_frame s pa n
theorem writeAtHome_frame (s : State) (pid pa : Nat) (bs : List Byte) : HomeFrame s (writeAtHome s pid pa bs).1 :=
  writeBy_frame atHome_frame s pid pa bs
theorem readEntry_frame (s : State) (a : Nat) : HomeFrame s (readEntry s a).1 := readEntryBy_frame atHome_frame s a
theorem leafFor_frame (s : State) (pid ctx va : Nat) : HomeFrame s (leafFor s pid ctx va).1 := leafForBy_frame atHome_frame s pid ctx va
theorem translate_frame (s : State) (pid ctx va : Nat) (acc : Acc) : HomeFrame s (translate s pid ctx va acc).1 :=
  translateBy_frame atHome_frame s pid ctx va acc
theorem backCheck_frame (s : State) (pid ctx va : Nat) : HomeFrame s (backCheck s pid ctx va).1 :=
  backCheckBy_frame atHome_frame s pid ctx va
theorem writeBack_frame (s : State) (pid : Nat) (h : BackHint) (e : StashEnt) (k pa touched : Nat) :
    HomeFrame s (writeBack s pid h e k pa touched).1 := writeBackBy_frame atHome_frame s pid h e k pa touched
theorem evictSector_frame (s : State) (pid : Nat) (h : BackHint) (e : StashEnt) (k : Nat) :
    HomeFrame s (evictSector s pid h e k).1 := evictBy_frame atHome_frame s pid h e k
theorem recallSector_frame (s : State) (pa : Nat) : HomeFrame s (recallSector s pa) := recallBy_frame atHome_frame s pa
theorem logStore_frame (s : State) (sl a : Nat) (bs : List Byte) : HomeFrame s (logStore s sl a bs) :=
  logStoreBy_frame atHome_frame s sl a bs
theorem logAtomic_frame (s : State) (pa req : Nat) : HomeFrame s (logAtomic s pa req) := logAtomicBy_frame atHome_frame s pa req
theorem applyVals_frame (s : State) (pid line : Nat) (u : UoLine) (each : Bool) : HomeFrame s (applyVals s pid line u each).1 :=
  applyValsBy_frame atHome_frame s pid line u each
theorem applyGathered_frame (s : State) (pid line : Nat) : HomeFrame s (applyGathered s pid line) :=
  applyGatheredBy_frame atHome_frame s pid line
theorem combine_frame (s : State) (line : Nat) : HomeFrame s (combine s line) := combineBy_frame atHome_frame s line

theorem sendGathered_frame (s : State) (pid line : Nat) : HomeFrame s (sendGathered s pid line) :=
  (atHome_frame s _ _).trans (applyGathered_frame _ _ _)

theorem uoFlush_frame (s : State) (pid line : Nat) : HomeFrame s (uoFlush s pid line) := by
  unfold uoFlush
  split
  · exact HomeFrame.refl s
  · split
    · exact combine_frame _ _
    · exact sendGathered_frame _ _ _

theorem translateRange_frame (s : State) (pid ctx va n : Nat) (acc : Acc) :
    HomeFrame s (translateRange s pid ctx va n acc).1 := by
  unfold translateRange
  have h0 := translate_frame s pid ctx va acc
  split <;> rename_i h <;> rw [h] at h0
  · exact h0
  · split
    · exact h0
    · rename_i u pa _
      have h1 := translate_frame u pid ctx ((va + n - 1) % 2 ^ 64) acc
      split <;> rename_i g <;> rw [g] at h1 <;> exact h0.trans h1

/-- What every step of a fold keeps the fold keeps. -/
theorem foldl_keep {α β : Type} (g : State → β) (f : State → α → State) (hf : ∀ s a, g (f s a) = g s) (l : List α) (s : State) :
    g (l.foldl f s) = g s := by
  induction l generalizing s with
  | nil => rfl
  | cons a l ih => rw [List.foldl_cons, ih, hf]

@[simp] theorem bumpCt_mem (s : State) (pa n ct : Nat) : (bumpCt s pa n ct).mem = s.mem :=
  foldl_keep State.mem (fun s k => s.modHome (pa + 32 * k) _) (fun _ _ => rfl) _ _
@[simp] theorem obtain_mem (s : State) (pa n lvl : Nat) : (obtain s pa n lvl).mem = s.mem :=
  foldl_keep State.mem _ (fun _ _ => by split <;> rfl) _ _
@[simp] theorem backInvalidate_mem (s : State) (pa n : Nat) : (backInvalidate s pa n).mem = s.mem :=
  foldl_keep State.mem _ (fun _ _ => by split <;> rfl) _ _
@[simp] theorem l1Update_mem (s : State) (pid pa : Nat) (bs : List Byte) (m : Nat → Bool) : (l1Update s pid pa bs m).mem = s.mem := by
  unfold l1Update; dsimp only; split <;> rfl
@[simp] theorem holdIf_mem (b : Bool) (s : State) : (holdIf b s).mem = s.mem := by unfold holdIf; split <;> rfl

/-- A read at the homes answers the bytes that the recalls before it left. -/
theorem readAtHome_bytes (s : State) (pa n : Nat) : (readAtHome s pa n).2.1 = (atHome s pa n).mem.readList pa n := by
  simp only [readAtHome, readBy, homeRead, obtain_mem]

/-- A home write stores its bytes, and no other byte. -/
theorem homeWrite_mem (s : State) (pid pa : Nat) (bs : List Byte) :
    (homeWrite s pid pa bs).1.mem = s.mem.writeList pa bs := by
  simp only [homeWrite, homeWriteSome, bumpCt_mem, l1Update_mem, backInvalidate_mem]

theorem writeAtHome_mem (s : State) (pid pa : Nat) (bs : List Byte) :
    (writeAtHome s pid pa bs).1.mem = (atHome s pa bs.length).mem.writeList pa bs := by
  rw [writeAtHome, writeBy, homeWrite_mem, obtain_mem]

/-- Outside its bytes a home write leaves memory as the recalls before it left it. -/
theorem writeAtHome_read_out (s : State) (pid pa : Nat) (bs : List Byte) {a : Nat} (h : a < pa ∨ pa + bs.length ≤ a) :
    (writeAtHome s pid pa bs).1.mem.read a = (atHome s pa bs.length).mem.read a := by
  rw [writeAtHome_mem]; exact Mem.read_writeList_out _ _ _ h

/-! ## The caches of data -/

theorem l1Room_frame (s : State) (pid line : Nat) : HomeFrame s (l1Room s pid line) := by
  unfold l1Room
  dsimp only
  split
  · exact HomeFrame.refl s
  · split
    · exact HomeFrame.refl s
    · split
      · exact HomeFrame.refl s
      · exact ((HomeFrame.ofHeld _ s).trans (uoFlush_frame _ _ _)).trans (dropL1Line_frame _ _ _)

@[simp] theorem putL1_plane (c : Cluster) (l : L1Line) : (putL1 c l).plane = c.plane := rfl
@[simp] theorem l1Demote_plane (c : Cluster) (line : Nat) : (l1Demote c line).plane = c.plane := by
  unfold l1Demote; dsimp only; split
  · rfl
  · split <;> rfl

theorem l1Claim_frame (s : State) (pid ctx pa pri : Nat) : HomeFrame s (l1Claim s pid ctx pa pri) := by
  unfold l1Claim
  dsimp only
  refine HomeFrame.trans (l1Room_frame s pid (lineOf pa)) (HomeFrame.ofClu _ pid _ fun c => ?_)
  rw [l1Demote_plane, putL1_plane]

theorem l1Grant_frame (s : State) (pid pa : Nat) : HomeFrame s (l1Grant s pid pa) := by
  unfold l1Grant
  split
  · exact HomeFrame.refl s
  · split
    · exact HomeFrame.refl s
    · split
      · exact HomeFrame.refl s
      · exact (((readAtHome_frame s _ _).trans (l2Touch_frame _ _ _ _ _ _)).trans (HomeFrame.ofHome _ _ _)).trans
          (HomeFrame.ofClu _ _ _ fun _ => rfl)

theorem l1Store_frame (s : State) (pid pa pri : Nat) (na : Bool) : HomeFrame s (l1Store s pid pa pri na) := by
  refine HomeFrame.ofClu s pid _ fun c => ?_
  split
  · rfl
  · split
    · rfl
    · split
      · rfl
      · rw [l1Demote_plane, putL1_plane]

theorem l1Invalidate_frame (s : State) (pid horizon : Nat) : HomeFrame s (l1Invalidate s pid horizon) :=
  HomeFrame.ofClu s pid _ fun _ => rfl

theorem l1EndLease_frame (s : State) (line : Nat) : HomeFrame s (l1EndLease s line) :=
  HomeFrame.ofClus s (fun c => { c with l1 := c.l1.map fun l => if l.line = line then { l with sectors := [] } else l })
    (fun _ => rfl) rfl

theorem stashClaim_frame (s : State) (pid : Nat) (e : StashEnt) (k pa : Nat) : HomeFrame s (stashClaim s pid e k pa) := by
  unfold stashClaim
  split
  · exact setSector_frame _ _ _ _ _
  · exact HomeFrame.refl s

theorem dropReels_frame (s : State) (ctx : Nat) (p : Nat → Bool) : HomeFrame s (dropReels s ctx p) :=
  (HomeFrame.ofCtx s ctx _ rfl).trans (HomeFrame.ofClus _ (fun c => { c with
    reels := c.reels.filter fun e => !(decide ((s.flk e.fid).ctx = ctx) && p e.num) }) (fun _ => rfl) rfl)

theorem reelTouch_frame (s : State) (ctx va pa n : Nat) : HomeFrame s (reelTouch s ctx va pa n) :=
  HomeFrame.foldl _ (fun s _ => dropReels_frame s _ _) _ _

/-! ## Records and context events -/

theorem recStore_frame (s : State) (ctx pid va : Nat) (bs : List Byte) : HomeFrame s (recStore s ctx pid va bs).1 := by
  unfold recStore
  have h0 := translateRange_frame s pid ctx va bs.length .store
  split <;> rename_i h <;> rw [h] at h0
  · exact h0
  · exact h0.trans (((HomeFrame.ofHeld _ _).trans (writeAtHome_frame _ _ _ _)).trans (reelTouch_frame _ _ _ _ _))

/-- A fault record advances FRHEAD, and else changes only what a store at a home can (R429). -/
theorem faultRecord_frame (s : State) (ctx pid : Nat) (bs : List Byte) :
    HomeFrame (s.setCtx ctx { s.ctx ctx with frHead := ((s.ctx ctx).frHead + 1) % 2 ^ 32 }) (faultRecord s ctx pid bs).1 := by
  unfold faultRecord
  dsimp only
  generalize hs : s.setCtx ctx _ = u
  have h := recStore_frame u ctx pid ((s.ctx ctx).frBase * 4096 + 64 * ((s.ctx ctx).frHead % 2 ^ ((s.ctx ctx).frLog2 + 4))) (pad64 bs)
  split <;> rename_i g <;> rw [g] at h <;> exact h

theorem faultRecord_thr (s : State) (ctx pid : Nat) (bs : List Byte) (u : Tid) : (faultRecord s ctx pid bs).1.thr u = s.thr u :=
  (faultRecord_frame s ctx pid bs).thr u

/-- A record of a lost write-back leaves every thread alone (R163). -/
theorem recordLost_thr (s : State) (w : LostBack) (u : Tid) : (recordLost s w).thr u = s.thr u := by
  unfold recordLost
  generalize hr : recHead w.cause.code 5 0 0 ++ leBytes 8 w.va ++ leBytes 4 w.n ++ List.replicate 10 0 ++ leBytes 2 w.pid = r
  have h := faultRecord_thr s w.ctx w.pid r u
  dsimp only
  generalize (faultRecord s w.ctx w.pid r).1 = t at h ⊢
  unfold ctxEvent signal
  dsimp only
  split <;> exact h

/-- The end of a turn leaves every thread as the turn left it, or, where the turn met a held line, as it began. -/
theorem endTurn_thr (base u : State) (x : Tid) : (endTurn base u).thr x = base.thr x ∨ (endTurn base u).thr x = u.thr x := by
  unfold endTurn
  dsimp only
  split
  · exact Or.inl rfl
  · exact Or.inr (foldl_keep (fun v => v.thr x) recordLost (fun v w => recordLost_thr v w x) _ _)

/-- A turn that meets no held line and loses no write-back ends as it stands. -/
theorem endTurn_plain (base u : State) (hl : u.lost = []) (hh : u.held = false) : endTurn base u = u := by
  have h : { u with lost := [] } = u := by rw [← hl]
  unfold endTurn
  rw [hl, h]
  simp only [List.foldl_nil, hh, Bool.false_eq_true, if_false]

/-! ## The thread in focus -/

theorem setThr_setThr (s : State) (u : Tid) (x y : Thread) : (s.setThr u x).setThr u y = s.setThr u y := by
  simp only [State.setThr, Table.set_set]

/-- A thread operation that writes one register and goes on changes that thread alone: its PC and its registers. -/
theorem put_eq (s : State) (n : Nat) (d : GReg) (v : Word64) :
    put s n d v = .next (s.setThr s.cur { me s with
      pc := (me s).pc + BitVec.ofNat 64 n
      g := ((me s).setGr d.toNat v).g }) := by
  simp only [put, advance, wr, modMe, State.modThr, State.thr_setThr_self, State.setThr_cur, setThr_setThr]
  unfold Thread.setGr me; split <;> rfl

@[simp] theorem gr_zero (x : Thread) : x.gr 0 = 0 := rfl
theorem gr_setGr (x : Thread) (d r : Nat) (v : Word64) :
    (x.setGr d v).gr r = if r = 0 then 0 else if r = d then v else x.gr r := by
  unfold Thread.setGr Thread.gr
  split
  · rfl
  · split
    · split <;> simp_all
    · simp only [Table.get_set]

theorem setGr_zero (x : Thread) (v : Word64) : x.setGr 0 v = x := rfl

@[simp] theorem advance_pc (s : State) (n : Nat) : (me (advance s n)).pc = (me s).pc + BitVec.ofNat 64 n := by
  simp [advance, me, modMe]
@[simp] theorem advance_gr (s : State) (n r : Nat) : (me (advance s n)).gr r = (me s).gr r := by
  simp only [advance, me, modMe, State.modThr_cur, State.thr_modThr_self]; rfl
@[simp] theorem wr_pc (s : State) (d : GReg) (v : Word64) : (me (wr s d v)).pc = (me s).pc := by
  simp only [wr, me, modMe, State.modThr_cur, State.thr_modThr_self]; unfold Thread.setGr; split <;> rfl
theorem wr_gr (s : State) (d : GReg) (v : Word64) (r : Nat) :
    (me (wr s d v)).gr r = if r = 0 then 0 else if r = d.toNat then v else (me s).gr r := by
  simp only [wr, me, modMe, State.modThr_cur, State.thr_modThr_self, gr_setGr]
@[simp] theorem setPc_pc (s : State) (a : Word64) : (me (setPc s a)).pc = a := by simp [setPc, me, modMe]
@[simp] theorem setPc_gr (s : State) (a : Word64) (r : Nat) : (me (setPc s a)).gr r = (me s).gr r := by
  simp only [setPc, me, modMe, State.modThr_cur, State.thr_modThr_self]; rfl

/-- What is done to the thread in focus leaves every other thread alone. -/
theorem modMe_other (s : State) (f : Thread → Thread) {u : Tid} (h : u ≠ s.cur) : (modMe s f).thr u = s.thr u :=
  State.thr_modThr_ne s f h

/-! ## Traps -/

/-- The trap is entered (R332): TPC, TCAUSE, TVAL, INTRAP and the PC of that thread, and nothing else but its
remembered wait. -/
theorem takeTrap_enters (s : State) (t : Tid) (cause : Cause) (tval resume : Word64)
    (hi : (s.thr t).intrap = false) (hv : (s.thr t).tvec.toNat / 4 ≠ 0) :
    takeTrap s t cause tval resume = s.modThr t fun x => { x with
      tpc := resume, tcause := cause.code, tval := tval, intrap := true, wait := none, popAt := none
      pc := BitVec.ofNat 64 (x.tvec.toNat / 4 * 4) } := by
  simp only [takeTrap, hi, hv, Bool.false_or, decide_false, Bool.false_eq_true, if_false]

/-- The thread halts instead where INTRAP is 1 or there is no handler (R332). -/
theorem takeTrap_halts (s : State) (t : Tid) (cause : Cause) (tval resume : Word64)
    (h : (s.thr t).intrap = true ∨ (s.thr t).tvec.toNat / 4 = 0) :
    takeTrap s t cause tval resume = haltThread s t cause tval resume := by
  unfold takeTrap
  dsimp only
  rw [if_pos]
  rcases h with h | h <;> simp [h]

@[simp] theorem signal_thr (s : State) (n : Nat) (u : Tid) : (signal s n).thr u = s.thr u := by
  unfold signal; split <;> rfl
@[simp] theorem ctxEvent_thr (s : State) (c b : Nat) (u : Tid) : (ctxEvent s c b).thr u = s.thr u := by
  simp only [ctxEvent, signal_thr, State.setCtx_thr]

/-- A halt leaves every other thread alone, and the halted one its registers and PC. -/
theorem haltThread_thr (s : State) (t : Tid) (cause : Cause) (tval resume : Word64) (u : Tid) :
    (haltThread s t cause tval resume).thr u =
      if u = t then { s.thr t with status := .halted, wait := none, haltCause := cause.code } else s.thr u := by
  unfold haltThread
  simp only [ctxEvent_thr, State.modFlk_thr, State.thr_modThr, faultRecord_thr]

/-- A trap leaves every other thread alone. -/
theorem takeTrap_other (s : State) (t : Tid) (cause : Cause) (tval resume : Word64) {u : Tid} (h : u ≠ t) :
    (takeTrap s t cause tval resume).thr u = s.thr u := by
  by_cases hh : (s.thr t).intrap = true ∨ (s.thr t).tvec.toNat / 4 = 0
  · rw [takeTrap_halts _ _ _ _ _ hh, haltThread_thr, if_neg h]
  · have h1 : ¬ (s.thr t).intrap = true := fun g => hh (Or.inl g)
    rw [takeTrap_enters _ _ _ _ _ (by simpa using h1) (fun g => hh (Or.inr g)), State.thr_modThr_ne _ _ h]

/-- The return from a trap (R333) changes the PC and INTRAP of the thread in focus, and nothing else. -/
theorem trapReturn_thr (s : State) (u : Tid) : (trapReturn s).thr u =
    if u = s.cur then { me s with
      pc := BitVec.ofNat 64 ((me s).tpc.toNat / 4 * 4)
      intrap := false } else s.thr u := by
  simp only [trapReturn, modMe, State.thr_modThr]; rfl

/-! ## Payment -/

/-- One cluster's purse is changed, and nothing else. -/
def PurseFrame (pid : Nat) (s t : State) : Prop := t = s ∨ ∃ p, t = modPurse s pid fun _ => p

theorem modPurse_frame (s : State) (pid : Nat) (f : Purse → Purse) : PurseFrame pid s (modPurse s pid f) :=
  Or.inr ⟨f (s.clu pid).purse, rfl⟩

@[simp] theorem modPurse_purse (s : State) (pid : Nat) (f : Purse → Purse) :
    ((modPurse s pid f).clu pid).purse = f (s.clu pid).purse := by rw [modPurse, State.clu_modClu_self]

theorem PurseFrame.trans {pid : Nat} {s t u : State} (h : PurseFrame pid s t) (k : PurseFrame pid t u) : PurseFrame pid s u := by
  rcases h with rfl | ⟨p, rfl⟩
  · exact k
  · rcases k with rfl | ⟨q, rfl⟩
    · exact Or.inr ⟨p, rfl⟩
    · refine Or.inr ⟨q, ?_⟩
      simp only [modPurse, State.modClu, State.setClu, State.clu, Table.get_set_self, Table.set_set]

theorem rollSpend_frame (s : State) (pid : Nat) : PurseFrame pid s (rollSpend s pid) := by
  unfold rollSpend
  dsimp only
  split
  · exact Or.inl rfl
  · exact modPurse_frame _ _ _

theorem rollSpend_tokens (s : State) (pid : Nat) :
    ((rollSpend s pid).clu pid).purse.tokens = (s.clu pid).purse.tokens := by
  unfold rollSpend
  dsimp only
  split
  · rfl
  · rw [modPurse_purse]

theorem servePass_tokens (p : Purse) (c who age : Nat) : (servePass p c who age).tokens = p.tokens := by
  simp only [servePass]
theorem servePass_spend (p : Purse) (c who age : Nat) : (servePass p c who age).spend = p.spend := by
  simp only [servePass]

theorem deny_frame (s : State) (pid who d : Nat) : PurseFrame pid s (deny s pid who d) := modPurse_frame s pid _

/-- A payment changes one cluster's purse and nothing else (R410). -/
theorem pay_frame (s : State) (pid who price : Nat) : PurseFrame pid s (pay s pid who price).1 := by
  unfold pay
  split
  · exact Or.inl rfl
  · have hr := rollSpend_frame s pid
    generalize rollSpend s pid = r at hr ⊢
    dsimp only
    generalize settleBefore _ _ _ _ = q
    split
    · exact hr.trans (deny_frame _ _ _ _)
    · split
      · exact (hr.trans (modPurse_frame r pid fun p => servePass p _ _ _)).trans (modPurse_frame _ pid fun p => { p with
          tokens := p.tokens - _
          spend := p.spend + _
          payers := _ })
      · exact (hr.trans (modPurse_frame r pid fun p => servePass p _ _ _)).trans (deny_frame _ _ _ _)

/-- A payer that is denied has spent nothing. -/
theorem pay_denied (s : State) (pid who price : Nat) (h : (pay s pid who price).2 = false) :
    ((pay s pid who price).1.clu pid).purse.tokens = (s.clu pid).purse.tokens
      ∧ ((pay s pid who price).1.clu pid).purse.spend = ((rollSpend s pid).clu pid).purse.spend := by
  have hr := rollSpend_tokens s pid
  unfold pay at *
  split at h
  · cases h
  · rw [if_neg (by assumption)]
    generalize rollSpend s pid = r at h hr ⊢
    dsimp only at h ⊢
    generalize settleBefore _ _ _ _ = q at h ⊢
    split at h
    · rename_i hl
      simp only [hl, if_true, deny, modPurse_purse]
      exact ⟨hr, trivial⟩
    · rename_i hl
      simp only [hl] at h ⊢
      split at h
      · cases h
      · rename_i hc
        simp only [hc, if_false, deny, modPurse_purse, servePass_tokens, servePass_spend, Bool.false_eq_true]
        exact ⟨hr, trivial⟩

/-- A payer that is served pays its debit, out of tokens it has, within the limit. -/
theorem pay_served (s : State) (pid who price : Nat) (hp : price ≠ 0) (h : (pay s pid who price).2 = true) :
    ((pay s pid who price).1.clu pid).purse.tokens = (s.clu pid).purse.tokens - debitOf (rollSpend s pid) pid price
      ∧ ((pay s pid who price).1.clu pid).purse.spend
        = ((rollSpend s pid).clu pid).purse.spend + debitOf (rollSpend s pid) pid price := by
  have hr := rollSpend_tokens s pid
  unfold pay at *
  rw [if_neg hp] at h ⊢
  generalize rollSpend s pid = r at h hr ⊢
  dsimp only at h ⊢
  generalize settleBefore _ _ _ _ = q at h ⊢
  split at h
  · cases h
  · rename_i hl
    simp only [hl] at h ⊢
    split at h
    · rename_i hc
      simp only [hc, if_true, if_false, modPurse_purse, servePass_tokens, servePass_spend, hr, Bool.false_eq_true]
      exact ⟨trivial, trivial⟩
    · cases h

/-! ## Local memories -/

/-- A write of local bytes keeps every local memory in canonical form. -/
theorem localWrite_wf (s : State) (fid clu off : Nat) (bs : List Byte)
    (h : s.locals.all (fun e => Mem.wf e.2) = true) :
    (s.localWrite fid clu off bs).locals.all (fun e => Mem.wf e.2) = true :=
  Table.all_set _ _ _ _ h (Mem.wf_writeList _ _ _ (Table.get_of_all (fun e : (Nat × Nat) × Mem => Mem.wf e.2) s.locals
    (fid, clu) [] h rfl))

/-- A write of local bytes leaves the other members' bytes alone. -/
theorem localWrite_other (s : State) (fid clu off : Nat) (bs : List Byte) {i c : Nat} (h : (i, c) ≠ (fid, clu)) :
    (s.localWrite fid clu off bs).localMem i c = s.localMem i c := Table.get_set_ne _ h _ _

/-! ## Lane destinations -/

/-- What a lane word's destinations can change: the group in focus, and the run on the pipe in focus. -/
structure LaneFrame (s t : State) : Prop where
  rest : t = { s with
    groups := t.groups
    clusters := t.clusters }
  grp : ∀ i c k, (i, c, k) ≠ (s.lane.tid.fid, laneMember s, s.lane.slot) → t.grp i c k = s.grp i c k
  other : ∀ p, p ≠ s.lane.pid → t.clu p = s.clu p
  focus : t.clu s.lane.pid = { s.clu s.lane.pid with pipes := (t.clu s.lane.pid).pipes }

namespace LaneFrame

variable {s t u : State}

theorem refl (s : State) : LaneFrame s s := ⟨rfl, fun _ _ _ _ => rfl, fun _ _ => rfl, rfl⟩
theorem lane (h : LaneFrame s t) : t.lane = s.lane := by rw [h.rest]
theorem thr (h : LaneFrame s t) (x : Tid) : t.thr x = s.thr x := by rw [h.rest]; rfl
theorem mem (h : LaneFrame s t) : t.mem = s.mem := by rw [h.rest]
theorem member (h : LaneFrame s t) : laneMember t = laneMember s := by rw [h.rest]; rfl

theorem trans (h : LaneFrame s t) (k : LaneFrame t u) : LaneFrame s u where
  rest := by rw [k.rest, h.rest]
  grp i c g hn := by
    rw [k.grp i c g (by rw [h.lane, h.member]; exact hn), h.grp i c g hn]
  other p hp := by rw [k.other p (by rw [h.lane]; exact hp), h.other p hp]
  focus := by
    have hk := k.focus
    rw [h.lane] at hk
    rw [hk, h.focus]

theorem foldl {α : Type} (f : State → α → State) (hf : ∀ s a, LaneFrame s (f s a)) (l : List α) (s : State) :
    LaneFrame s (l.foldl f s) := by
  induction l generalizing s with
  | nil => exact refl s
  | cons a l ih => exact (hf s a).trans (ih _)

end LaneFrame

theorem modLaneGrp_frame (s : State) (f : Group → Group) : LaneFrame s (modLaneGrp s f) where
  rest := rfl
  grp i c k h := by rw [modLaneGrp, State.grp_modGrp, if_neg h]
  other _ _ := rfl
  focus := rfl

theorem modLaneRun_frame (s : State) (f : PipeRun → PipeRun) : LaneFrame s (modLaneRun s f) where
  rest := rfl
  grp _ _ _ _ := rfl
  other p hp := by rw [modLaneRun, State.clu_modClu, if_neg hp]
  focus := by rw [modLaneRun, State.clu_modClu_self]

theorem noteFix_frame (s : State) (code lat mask : Nat) (old : Row) : LaneFrame s (noteFix s code lat mask old) :=
  modLaneRun_frame s _

theorem writeRow_frame (s : State) (code mask : Nat) (vals : Row) : LaneFrame s (writeRow s code mask vals) := by
  unfold writeRow
  split
  · exact modLaneGrp_frame s _
  · exact modLaneRun_frame s _

/-- A destination changes the group and the run in focus, and nothing else. -/
theorem putDest_frame (s : State) (code n lat mask : Nat) (vals : List Nat) :
    LaneFrame s (putDest s code n lat mask vals) := by
  unfold putDest
  split
  · exact LaneFrame.refl s
  · exact LaneFrame.foldl _ (fun s k => (writeRow_frame s _ _ _).trans (noteFix_frame _ _ _ _ _)) _ s

/-- With no active lane a destination keeps everything (R38). -/
theorem putDest_inactive (s : State) (code n lat : Nat) (vals : List Nat) : putDest s code n lat 0 vals = s := rfl

theorem putPred_frame (s : State) (k lat mask new : Nat) : LaneFrame s (putPred s k lat mask new) := by
  unfold putPred
  split
  · exact LaneFrame.refl s
  · exact (modLaneGrp_frame s _).trans (noteFix_frame _ _ _ _ _)

theorem putPred_inactive (s : State) (k lat new : Nat) : putPred s k lat 0 new = s := rfl

/-! ## The waits -/

/-- A stalled instruction changes nothing but its thread's remembered wait. -/
theorem stall_thr (s : State) (w : Wait) (u : Tid) :
    ∃ t, stall s w = .next t ∧ t.thr u = if u = s.cur then { me s with wait := some w } else s.thr u :=
  ⟨_, rfl, by simp only [modMe, State.thr_modThr]; rfl⟩

end Sys2Proof.Machine
end

