-- ==== Sys2Proof/Laws/PerInstr.lean ====
section
/-! SUPPORT. Each instruction's words decode to it: one lemma per constructor (R29, R32, R35). -/

set_option Elab.async false

namespace Sys2Proof.Laws.Coding

open Sys2Proof Sys2Proof.Laws

/-- A parcel that is an instruction of its own. -/
def Short (p : Parcel) (i : Instr) : Prop := pCls p ≠ 3 ∧ isPrefix p = false ∧ decodeShort p = .ok i

/-- A prefix and a parcel that are one instruction. -/
def Long (p q : Parcel) (i : Instr) : Prop := isPrefix p = true ∧ pCls q = 1 ∧ decodeLong p q = .ok i

/-- A doubleword that is a lane word. -/
def Lane (w : BitVec 64) (i : Instr) : Prop := lCls w = 3 ∧ decodeLane w = .ok i

/-- A well-formed instruction that has words: they are one parcel, a long form or a lane word, and decode to it. -/
def Statement (i : Instr) : Prop :=
  i.wf = true → ∀ n w, encode i = some (n, w) →
    (n = 32 ∧ ∃ p, w = p.toNat ∧ Short p i) ∨ (n = 64 ∧ ∃ p q, w = (encL p q).toNat ∧ Long p q i)
      ∨ (n = 64 ∧ ∃ x : BitVec 64, w = x.toNat ∧ Lane x i)

theorem short {i : Instr} (p : Parcel) (he : encode i = some (32, p.toNat)) (h : i.wf = true → Short p i) : Statement i := by
  intro hw n w hn
  rw [he] at hn
  cases hn
  exact Or.inl ⟨rfl, p, rfl, h hw⟩

theorem long {i : Instr} (p q : Parcel) (he : encode i = some (64, (encL p q).toNat)) (h : i.wf = true → Long p q i) :
    Statement i := by
  intro hw n w hn
  rw [he] at hn
  cases hn
  exact Or.inr (Or.inl ⟨rfl, p, q, rfl, h hw⟩)

theorem lane {i : Instr} (op : BitVec 10) (x : LaneWord) (he : encode i = some (64, (encLane op x).toNat))
    (hi : laneInstr op.toNat x = some i) : Statement i := by
  intro hw n w hn
  rw [he] at hn
  cases hn
  refine Or.inr (Or.inr ⟨rfl, encLane op x, rfl, encLane_cls op x, ?_⟩)
  simp only [decodeLane, encLane_op, encLane_fields, hi, need, hw, if_true]

theorem event {i : Instr} (h : encode i = none) : Statement i := by
  intro _ n w hn
  rw [h] at hn
  cases hn

theorem add (s : Bool) (d : GReg) (a : GReg) (b : GReg) : Statement (.add s d a b) :=
  short (encR s 0x00 d a b (0#5)) rfl fun _ => ⟨by simp, by simp [isPrefix], by
    simp [decodeShort, decodeR, zero, need]⟩
theorem sub (s : Bool) (d : GReg) (a : GReg) (b : GReg) : Statement (.sub s d a b) :=
  short (encR s 0x01 d a b (0#5)) rfl fun _ => ⟨by simp, by simp [isPrefix], by
    simp [decodeShort, decodeR, zero, need]⟩
theorem mul (s : Bool) (d : GReg) (a : GReg) (b : GReg) : Statement (.mul s d a b) :=
  short (encR s 0x02 d a b (0#5)) rfl fun _ => ⟨by simp, by simp [isPrefix], by
    simp [decodeShort, decodeR, zero, need]⟩
theorem mulh (s : Bool) (d : GReg) (a : GReg) (b : GReg) : Statement (.mulh s d a b) :=
  short (encR s 0x03 d a b (0#5)) rfl fun _ => ⟨by simp, by simp [isPrefix], by
    simp [decodeShort, decodeR, zero, need]⟩
theorem mulhu (s : Bool) (d : GReg) (a : GReg) (b : GReg) : Statement (.mulhu s d a b) :=
  short (encR s 0x04 d a b (0#5)) rfl fun _ => ⟨by simp, by simp [isPrefix], by
    simp [decodeShort, decodeR, zero, need]⟩
theorem div (s : Bool) (d : GReg) (a : GReg) (b : GReg) : Statement (.div s d a b) :=
  short (encR s 0x05 d a b (0#5)) rfl fun _ => ⟨by simp, by simp [isPrefix], by
    simp [decodeShort, decodeR, zero, need]⟩
theorem divu (s : Bool) (d : GReg) (a : GReg) (b : GReg) : Statement (.divu s d a b) :=
  short (encR s 0x06 d a b (0#5)) rfl fun _ => ⟨by simp, by simp [isPrefix], by
    simp [decodeShort, decodeR, zero, need]⟩
theorem rem (s : Bool) (d : GReg) (a : GReg) (b : GReg) : Statement (.rem s d a b) :=
  short (encR s 0x07 d a b (0#5)) rfl fun _ => ⟨by simp, by simp [isPrefix], by
    simp [decodeShort, decodeR, zero, need]⟩
theorem andR (s : Bool) (d : GReg) (a : GReg) (b : GReg) : Statement (.andR s d a b) :=
  short (encR s 0x08 d a b (0#5)) rfl fun _ => ⟨by simp, by simp [isPrefix], by
    simp [decodeShort, decodeR, zero, need]⟩
theorem orR (s : Bool) (d : GReg) (a : GReg) (b : GReg) : Statement (.orR s d a b) :=
  short (encR s 0x09 d a b (0#5)) rfl fun _ => ⟨by simp, by simp [isPrefix], by
    simp [decodeShort, decodeR, zero, need]⟩
theorem xorR (s : Bool) (d : GReg) (a : GReg) (b : GReg) : Statement (.xorR s d a b) :=
  short (encR s 0x0A d a b (0#5)) rfl fun _ => ⟨by simp, by simp [isPrefix], by
    simp [decodeShort, decodeR, zero, need]⟩
theorem shlR (s : Bool) (d : GReg) (a : GReg) (b : GReg) : Statement (.shlR s d a b) :=
  short (encR s 0x0B d a b (0#5)) rfl fun _ => ⟨by simp, by simp [isPrefix], by
    simp [decodeShort, decodeR, zero, need]⟩
theorem shrR (s : Bool) (d : GReg) (a : GReg) (b : GReg) : Statement (.shrR s d a b) :=
  short (encR s 0x0C d a b (0#5)) rfl fun _ => ⟨by simp, by simp [isPrefix], by
    simp [decodeShort, decodeR, zero, need]⟩
theorem sarR (s : Bool) (d : GReg) (a : GReg) (b : GReg) : Statement (.sarR s d a b) :=
  short (encR s 0x0D d a b (0#5)) rfl fun _ => ⟨by simp, by simp [isPrefix], by
    simp [decodeShort, decodeR, zero, need]⟩
theorem minR (s : Bool) (d : GReg) (a : GReg) (b : GReg) : Statement (.minR s d a b) :=
  short (encR s 0x0E d a b (0#5)) rfl fun _ => ⟨by simp, by simp [isPrefix], by
    simp [decodeShort, decodeR, zero, need]⟩
theorem maxR (s : Bool) (d : GReg) (a : GReg) (b : GReg) : Statement (.maxR s d a b) :=
  short (encR s 0x0F d a b (0#5)) rfl fun _ => ⟨by simp, by simp [isPrefix], by
    simp [decodeShort, decodeR, zero, need]⟩
theorem slt (s : Bool) (d : GReg) (a : GReg) (b : GReg) : Statement (.slt s d a b) :=
  short (encR s 0x10 d a b (0#5)) rfl fun _ => ⟨by simp, by simp [isPrefix], by
    simp [decodeShort, decodeR, zero, need]⟩
theorem sltu (s : Bool) (d : GReg) (a : GReg) (b : GReg) : Statement (.sltu s d a b) :=
  short (encR s 0x11 d a b (0#5)) rfl fun _ => ⟨by simp, by simp [isPrefix], by
    simp [decodeShort, decodeR, zero, need]⟩
theorem seq (s : Bool) (d : GReg) (a : GReg) (b : GReg) : Statement (.seq s d a b) :=
  short (encR s 0x12 d a b (0#5)) rfl fun _ => ⟨by simp, by simp [isPrefix], by
    simp [decodeShort, decodeR, zero, need]⟩
theorem csel (s : Bool) (d : GReg) (a : GReg) (b : GReg) : Statement (.csel s d a b) :=
  short (encR s 0x13 d a b (0#5)) rfl fun _ => ⟨by simp, by simp [isPrefix], by
    simp [decodeShort, decodeR, zero, need]⟩
theorem popc (s : Bool) (d : GReg) (a : GReg) : Statement (.popc s d a) :=
  short (encR s 0x14 d a 0 (0#5)) rfl fun _ => ⟨by simp, by simp [isPrefix], by
    simp [decodeShort, decodeR, zero, need]⟩
theorem clz (s : Bool) (d : GReg) (a : GReg) : Statement (.clz s d a) :=
  short (encR s 0x15 d a 0 (0#5)) rfl fun _ => ⟨by simp, by simp [isPrefix], by
    simp [decodeShort, decodeR, zero, need]⟩
theorem gexit (s : Bool) : Statement (.gexit s) :=
  short (encR s 0x16 0 0 0 (0#5)) rfl fun _ => ⟨by simp, by simp [isPrefix], by
    simp [decodeShort, decodeR, zero, need]⟩
theorem sfadd (s : Bool) (d : GReg) (a : GReg) (b : GReg) (rnd : BitVec 2) : Statement (.sfadd s d a b rnd) :=
  short (encR s 0x18 d a b (0#3 ++ rnd)) rfl fun _ => ⟨by simp, by simp [isPrefix], by
    simp [decodeShort, decodeR, zero, need]⟩
theorem sfsub (s : Bool) (d : GReg) (a : GReg) (b : GReg) (rnd : BitVec 2) : Statement (.sfsub s d a b rnd) :=
  short (encR s 0x19 d a b (0#3 ++ rnd)) rfl fun _ => ⟨by simp, by simp [isPrefix], by
    simp [decodeShort, decodeR, zero, need]⟩
theorem sfmul (s : Bool) (d : GReg) (a : GReg) (b : GReg) (rnd : BitVec 2) : Statement (.sfmul s d a b rnd) :=
  short (encR s 0x1A d a b (0#3 ++ rnd)) rfl fun _ => ⟨by simp, by simp [isPrefix], by
    simp [decodeShort, decodeR, zero, need]⟩
theorem sfmac (s : Bool) (d : GReg) (a : GReg) (b : GReg) (rnd : BitVec 2) : Statement (.sfmac s d a b rnd) :=
  short (encR s 0x1B d a b (0#3 ++ rnd)) rfl fun _ => ⟨by simp, by simp [isPrefix], by
    simp [decodeShort, decodeR, zero, need]⟩
theorem sfmin (s : Bool) (d : GReg) (a : GReg) (b : GReg) : Statement (.sfmin s d a b) :=
  short (encR s 0x1C d a b (0#5)) rfl fun _ => ⟨by simp, by simp [isPrefix], by
    simp [decodeShort, decodeR, zero, need]⟩
theorem sfmax (s : Bool) (d : GReg) (a : GReg) (b : GReg) : Statement (.sfmax s d a b) :=
  short (encR s 0x1D d a b (0#5)) rfl fun _ => ⟨by simp, by simp [isPrefix], by
    simp [decodeShort, decodeR, zero, need]⟩
theorem sfcmp (s : Bool) (d : GReg) (a : GReg) (b : GReg) (cond : BitVec 3) : Statement (.sfcmp s d a b cond) :=
  short (encR s 0x1E d a b (0#2 ++ cond)) rfl fun _ => ⟨by simp, by simp [isPrefix], by
    simp [decodeShort, decodeR, zero, need]⟩
theorem sfcvt (s : Bool) (d : GReg) (a : GReg) (kind : BitVec 3) (rnd : BitVec 2) : Statement (.sfcvt s d a kind rnd) :=
  short (encR s 0x1F d a 0 (kind ++ rnd)) rfl fun hw => ⟨by simp, by simp [isPrefix], by
    simpa [decodeShort, decodeR, need, Instr.wf] using hw⟩
theorem jr (s : Bool) (a : GReg) : Statement (.jr s a) :=
  short (encR s 0x20 0 a 0 (0#5)) rfl fun _ => ⟨by simp, by simp [isPrefix], by
    simp [decodeShort, decodeR, zero, need]⟩
theorem callr (s : Bool) (a : GReg) : Statement (.callr s a) :=
  short (encR s 0x21 0 a 0 (0#5)) rfl fun _ => ⟨by simp, by simp [isPrefix], by
    simp [decodeShort, decodeR, zero, need]⟩
theorem sret (s : Bool) : Statement (.sret s) :=
  short (encR s 0x22 0 0 0 (0#5)) rfl fun _ => ⟨by simp, by simp [isPrefix], by
    simp [decodeShort, decodeR, zero, need]⟩
theorem trap (s : Bool) (n : BitVec 5) : Statement (.trap s n) :=
  short (encR s 0x23 0 0 0 (n)) rfl fun _ => ⟨by simp, by simp [isPrefix], by
    simp [decodeShort, decodeR, zero, need]⟩
theorem fence (s : Bool) (order : BitVec 2) (scope : BitVec 3) : Statement (.fence s order scope) :=
  short (encR s 0x24 0 0 0 (order ++ scope)) rfl fun hw => ⟨by simp, by simp [isPrefix], by
    simpa [decodeShort, decodeR, need, Instr.wf] using hw⟩
theorem icinv (s : Bool) (a : GReg) (b : GReg) (scope : BitVec 3) : Statement (.icinv s a b scope) :=
  short (encR s 0x25 0 a b (0#2 ++ scope)) rfl fun hw => ⟨by simp, by simp [isPrefix], by
    simpa [decodeShort, decodeR, need, Instr.wf] using hw⟩
theorem vqPop (s : Bool) (d : GReg) : Statement (.vqPop s d) :=
  short (encR s 0x26 d 0 0 (0#5)) rfl fun _ => ⟨by simp, by simp [isPrefix], by
    simp [decodeShort, decodeR, zero, need]⟩
theorem vqPeek (s : Bool) (d : GReg) : Statement (.vqPeek s d) :=
  short (encR s 0x27 d 0 0 (0#5)) rfl fun _ => ⟨by simp, by simp [isPrefix], by
    simp [decodeShort, decodeR, zero, need]⟩
theorem barNew (s : Bool) (d : GReg) (a : GReg) (b : GReg) (ext : Bool) (kind : BitVec 2) : Statement (.barNew s d a b ext kind) :=
  short (encR s 0x28 d a b (0#2 ++ flag ext ++ kind)) rfl fun hw => ⟨by simp, by simp [isPrefix], by
    simp only [decodeShort, decodeR, encR_cls, encR_op, encR_func, encR_S, encR_d, encR_a, encR_b]
    have h : Instr.wf (.barNew s d a b ext kind) = true := hw
    simp [need, h]⟩
theorem barExpect (s : Bool) (d : GReg) (a : GReg) (b : GReg) (base : Bool) : Statement (.barExpect s d a b base) :=
  short (encR s 0x29 d a b (0#4 ++ flag base)) rfl fun _ => ⟨by simp, by simp [isPrefix], by
    simp [decodeShort, decodeR, zero, need]⟩
theorem barArrive (s : Bool) (d : GReg) (a : GReg) (b : GReg) : Statement (.barArrive s d a b) :=
  short (encR s 0x2A d a b (0#5)) rfl fun _ => ⟨by simp, by simp [isPrefix], by
    simp [decodeShort, decodeR, zero, need]⟩
theorem barWait (s : Bool) (d : GReg) (a : GReg) (b : GReg) : Statement (.barWait s d a b) :=
  short (encR s 0x2B d a b (0#5)) rfl fun _ => ⟨by simp, by simp [isPrefix], by
    simp [decodeShort, decodeR, zero, need]⟩
theorem barFree (s : Bool) (a : GReg) : Statement (.barFree s a) :=
  short (encR s 0x2C 0 a 0 (0#5)) rfl fun _ => ⟨by simp, by simp [isPrefix], by
    simp [decodeShort, decodeR, zero, need]⟩
theorem stagePut (s : Bool) (d : GReg) (a : GReg) (b : GReg) (scope : BitVec 3) : Statement (.stagePut s d a b scope) :=
  short (encR s 0x2D d a b (scope ++ 0#2)) rfl fun hw => ⟨by simp, by simp [isPrefix], by
    simpa [decodeShort, decodeR, need, Instr.wf] using hw⟩
theorem stageTake (s : Bool) (d : GReg) (a : GReg) (scope : BitVec 3) (last : Bool) : Statement (.stageTake s d a scope last) :=
  short (encR s 0x2E d a 0 (scope ++ flag last ++ 0#1)) rfl fun hw => ⟨by simp, by simp [isPrefix], by
    simpa [decodeShort, decodeR, need, Instr.wf] using hw⟩
theorem reelOpen (s : Bool) (a : GReg) : Statement (.reelOpen s a) :=
  short (encR s 0x30 0 a 0 (0#5)) rfl fun _ => ⟨by simp, by simp [isPrefix], by
    simp [decodeShort, decodeR, zero, need]⟩
theorem reelShut (s : Bool) : Statement (.reelShut s) :=
  short (encR s 0x31 0 0 0 (0#5)) rfl fun _ => ⟨by simp, by simp [isPrefix], by
    simp [decodeShort, decodeR, zero, need]⟩
theorem reelPlay (s : Bool) (a : GReg) : Statement (.reelPlay s a) :=
  short (encR s 0x32 0 a 0 (0#5)) rfl fun _ => ⟨by simp, by simp [isPrefix], by
    simp [decodeShort, decodeR, zero, need]⟩
theorem reelDrop (s : Bool) (a : GReg) : Statement (.reelDrop s a) :=
  short (encR s 0x33 0 a 0 (0#5)) rfl fun _ => ⟨by simp, by simp [isPrefix], by
    simp [decodeShort, decodeR, zero, need]⟩
theorem strBind (s : Bool) (a : GReg) (b : GReg) (n : BitVec 2) : Statement (.strBind s a b n) :=
  short (encR s 0x34 0 a b (0#3 ++ n)) rfl fun _ => ⟨by simp, by simp [isPrefix], by
    simp [decodeShort, decodeR, zero, need]⟩
theorem strSel (s : Bool) (n : BitVec 2) : Statement (.strSel s n) :=
  short (encR s 0x35 0 0 0 (0#3 ++ n)) rfl fun _ => ⟨by simp, by simp [isPrefix], by
    simp [decodeShort, decodeR, zero, need]⟩
theorem strFree (s : Bool) (n : BitVec 2) : Statement (.strFree s n) :=
  short (encR s 0x36 0 0 0 (0#3 ++ n)) rfl fun _ => ⟨by simp, by simp [isPrefix], by
    simp [decodeShort, decodeR, zero, need]⟩
theorem maskRd (s : Bool) (d : GReg) (a : GReg) (which : BitVec 2) : Statement (.maskRd s d a which) :=
  short (encR s 0x38 d a 0 (0#3 ++ which)) rfl fun hw => ⟨by simp, by simp [isPrefix], by
    simpa [decodeShort, decodeR, need, Instr.wf] using hw⟩
theorem maskWr (s : Bool) (a : GReg) (b : GReg) : Statement (.maskWr s a b) :=
  short (encR s 0x39 0 a b (0#5)) rfl fun _ => ⟨by simp, by simp [isPrefix], by
    simp [decodeShort, decodeR, zero, need]⟩
theorem parkReplay (s : Bool) (a : GReg) (b : GReg) : Statement (.parkReplay s a b) :=
  short (encR s 0x3A 0 a b (0#5)) rfl fun _ => ⟨by simp, by simp [isPrefix], by
    simp [decodeShort, decodeR, zero, need]⟩
theorem unpark (s : Bool) (a : GReg) (b : GReg) (kill : Bool) : Statement (.unpark s a b kill) :=
  short (encR s 0x3B 0 a b (0#4 ++ flag kill)) rfl fun _ => ⟨by simp, by simp [isPrefix], by
    simp [decodeShort, decodeR, zero, need]⟩
theorem launch (s : Bool) (d : GReg) (a : GReg) (b : GReg) : Statement (.launch s d a b) :=
  short (encR s 0x3C d a b (0#5)) rfl fun _ => ⟨by simp, by simp [isPrefix], by
    simp [decodeShort, decodeR, zero, need]⟩
theorem gatom (s : Bool) (d : GReg) (a : GReg) (b : GReg) (op : BitVec 4) : Statement (.gatom s d a b op) :=
  short (encR s 0x3D d a b (0#1 ++ op)) rfl fun hw => ⟨by simp, by simp [isPrefix], by
    simpa [decodeShort, decodeR, need, Instr.wf] using hw⟩
theorem pinSet (s : Bool) (d : GReg) (a : GReg) (b : GReg) (fill : Bool) (kind : Bool) : Statement (.pinSet s d a b fill kind) :=
  short (encR s 0x3E d a b (0#3 ++ flag fill ++ flag kind)) rfl fun _ => ⟨by simp, by simp [isPrefix], by
    simp [decodeShort, decodeR, zero, need]⟩
theorem pinClr (s : Bool) (d : GReg) (a : GReg) : Statement (.pinClr s d a) :=
  short (encR s 0x3F d a 0 (0#5)) rfl fun _ => ⟨by simp, by simp [isPrefix], by
    simp [decodeShort, decodeR, zero, need]⟩
theorem addi (s : Bool) (d : GReg) (a : GReg) (imm : BitVec 11) : Statement (.addi s d a imm) :=
  short (encI s 0x00 d a imm) rfl fun _ => ⟨by simp, by simp [isPrefix], by
    simp [decodeShort, decodeI, zero, need]⟩
theorem andi (s : Bool) (d : GReg) (a : GReg) (imm : BitVec 11) : Statement (.andi s d a imm) :=
  short (encI s 0x01 d a imm) rfl fun _ => ⟨by simp, by simp [isPrefix], by
    simp [decodeShort, decodeI, zero, need]⟩
theorem ori (s : Bool) (d : GReg) (a : GReg) (imm : BitVec 11) : Statement (.ori s d a imm) :=
  short (encI s 0x02 d a imm) rfl fun _ => ⟨by simp, by simp [isPrefix], by
    simp [decodeShort, decodeI, zero, need]⟩
theorem xori (s : Bool) (d : GReg) (a : GReg) (imm : BitVec 11) : Statement (.xori s d a imm) :=
  short (encI s 0x03 d a imm) rfl fun _ => ⟨by simp, by simp [isPrefix], by
    simp [decodeShort, decodeI, zero, need]⟩
theorem shli (s : Bool) (d : GReg) (a : GReg) (cnt : BitVec 6) : Statement (.shli s d a cnt) :=
  short (encI s 0x04 d a (0#5 ++ cnt)) rfl fun _ => ⟨by simp, by simp [isPrefix], by
    simp [decodeShort, decodeI, zero, need]⟩
theorem shri (s : Bool) (d : GReg) (a : GReg) (cnt : BitVec 6) : Statement (.shri s d a cnt) :=
  short (encI s 0x05 d a (0#5 ++ cnt)) rfl fun _ => ⟨by simp, by simp [isPrefix], by
    simp [decodeShort, decodeI, zero, need]⟩
theorem sari (s : Bool) (d : GReg) (a : GReg) (cnt : BitVec 6) : Statement (.sari s d a cnt) :=
  short (encI s 0x06 d a (0#5 ++ cnt)) rfl fun _ => ⟨by simp, by simp [isPrefix], by
    simp [decodeShort, decodeI, zero, need]⟩
theorem slti (s : Bool) (d : GReg) (a : GReg) (imm : BitVec 11) : Statement (.slti s d a imm) :=
  short (encI s 0x07 d a imm) rfl fun _ => ⟨by simp, by simp [isPrefix], by
    simp [decodeShort, decodeI, zero, need]⟩
theorem movi (s : Bool) (d : GReg) (imm : BitVec 11) : Statement (.movi s d imm) :=
  short (encI s 0x08 d 0 imm) rfl fun _ => ⟨by simp, by simp [isPrefix], by
    simp [decodeShort, decodeI, zero, need]⟩
theorem insh (s : Bool) (d : GReg) (imm : BitVec 11) : Statement (.insh s d imm) :=
  short (encI s 0x09 d 0 imm) rfl fun _ => ⟨by simp, by simp [isPrefix], by
    simp [decodeShort, decodeI, zero, need]⟩
theorem sltiu (s : Bool) (d : GReg) (a : GReg) (imm : BitVec 11) : Statement (.sltiu s d a imm) :=
  short (encI s 0x0A d a imm) rfl fun _ => ⟨by simp, by simp [isPrefix], by
    simp [decodeShort, decodeI, zero, need]⟩
theorem srd (s : Bool) (d : GReg) (num : BitVec 11) : Statement (.srd s d num) :=
  short (encI s 0x1C d 0 num) rfl fun _ => ⟨by simp, by simp [isPrefix], by
    simp [decodeShort, decodeI, zero, need]⟩
theorem swr (s : Bool) (a : GReg) (num : BitVec 11) : Statement (.swr s a num) :=
  short (encI s 0x1D 0 a num) rfl fun _ => ⟨by simp, by simp [isPrefix], by
    simp [decodeShort, decodeI, zero, need]⟩
theorem pft (s : Bool) (a : GReg) (imm : BitVec 11) : Statement (.pft s a imm) :=
  short (encI s 0x1E 0 a imm) rfl fun _ => ⟨by simp, by simp [isPrefix], by
    simp [decodeShort, decodeI, zero, need]⟩
theorem addiLong (s : Bool) (d : GReg) (a : GReg) (ext : BitVec 23) (imm : BitVec 11) : Statement (.addiLong s d a ext imm) :=
  long (encP s ext) (encI false 0x00 d a imm) rfl fun _ => ⟨by simp, by simp, by
    simp [decodeLong, need, zero]⟩
theorem andiLong (s : Bool) (d : GReg) (a : GReg) (ext : BitVec 23) (imm : BitVec 11) : Statement (.andiLong s d a ext imm) :=
  long (encP s ext) (encI false 0x01 d a imm) rfl fun _ => ⟨by simp, by simp, by
    simp [decodeLong, need, zero]⟩
theorem oriLong (s : Bool) (d : GReg) (a : GReg) (ext : BitVec 23) (imm : BitVec 11) : Statement (.oriLong s d a ext imm) :=
  long (encP s ext) (encI false 0x02 d a imm) rfl fun _ => ⟨by simp, by simp, by
    simp [decodeLong, need, zero]⟩
theorem xoriLong (s : Bool) (d : GReg) (a : GReg) (ext : BitVec 23) (imm : BitVec 11) : Statement (.xoriLong s d a ext imm) :=
  long (encP s ext) (encI false 0x03 d a imm) rfl fun _ => ⟨by simp, by simp, by
    simp [decodeLong, need, zero]⟩
theorem sltiLong (s : Bool) (d : GReg) (a : GReg) (ext : BitVec 23) (imm : BitVec 11) : Statement (.sltiLong s d a ext imm) :=
  long (encP s ext) (encI false 0x07 d a imm) rfl fun _ => ⟨by simp, by simp, by
    simp [decodeLong, need, zero]⟩
theorem sltiuLong (s : Bool) (d : GReg) (a : GReg) (ext : BitVec 23) (imm : BitVec 11) : Statement (.sltiuLong s d a ext imm) :=
  long (encP s ext) (encI false 0x0A d a imm) rfl fun _ => ⟨by simp, by simp, by
    simp [decodeLong, need, zero]⟩
theorem moviLong (s : Bool) (d : GReg) (ext : BitVec 23) (imm : BitVec 11) : Statement (.moviLong s d ext imm) :=
  long (encP s ext) (encI false 0x08 d 0 imm) rfl fun _ => ⟨by simp, by simp, by
    simp [decodeLong, need, zero]⟩
theorem inshLong (s : Bool) (d : GReg) (ext : BitVec 23) (imm : BitVec 11) : Statement (.inshLong s d ext imm) :=
  long (encP s ext) (encI false 0x09 d 0 imm) rfl fun _ => ⟨by simp, by simp, by
    simp [decodeLong, need, zero]⟩
theorem pftLong (s : Bool) (a : GReg) (ext : BitVec 23) (imm : BitVec 11) : Statement (.pftLong s a ext imm) :=
  long (encP s ext) (encI false 0x1E 0 a imm) rfl fun _ => ⟨by simp, by simp, by
    simp [decodeLong, need, zero]⟩
theorem ldgN8 (s : Bool) (d : GReg) (a : GReg) (pri : BitVec 2) (na : Bool) (off : BitVec 5) : Statement (.ldgN8 s d a pri na off) :=
  short (encM s 0x10 d a pri na 0 off) rfl fun _ => ⟨by simp, by simp [isPrefix], by
    simp [decodeShort, decodeI, need]⟩
theorem ldgS8 (s : Bool) (d : GReg) (a : GReg) (pri : BitVec 2) (na : Bool) (off : BitVec 5) : Statement (.ldgS8 s d a pri na off) :=
  short (encM s 0x11 d a pri na 0 off) rfl fun _ => ⟨by simp, by simp [isPrefix], by
    simp [decodeShort, decodeI, need]⟩
theorem ldgN16 (s : Bool) (d : GReg) (a : GReg) (pri : BitVec 2) (na : Bool) (off : BitVec 5) : Statement (.ldgN16 s d a pri na off) :=
  short (encM s 0x12 d a pri na 0 off) rfl fun _ => ⟨by simp, by simp [isPrefix], by
    simp [decodeShort, decodeI, need]⟩
theorem ldgS16 (s : Bool) (d : GReg) (a : GReg) (pri : BitVec 2) (na : Bool) (off : BitVec 5) : Statement (.ldgS16 s d a pri na off) :=
  short (encM s 0x13 d a pri na 0 off) rfl fun _ => ⟨by simp, by simp [isPrefix], by
    simp [decodeShort, decodeI, need]⟩
theorem ldgN32 (s : Bool) (d : GReg) (a : GReg) (pri : BitVec 2) (na : Bool) (off : BitVec 5) : Statement (.ldgN32 s d a pri na off) :=
  short (encM s 0x14 d a pri na 0 off) rfl fun _ => ⟨by simp, by simp [isPrefix], by
    simp [decodeShort, decodeI, need]⟩
theorem ldgS32 (s : Bool) (d : GReg) (a : GReg) (pri : BitVec 2) (na : Bool) (off : BitVec 5) : Statement (.ldgS32 s d a pri na off) :=
  short (encM s 0x15 d a pri na 0 off) rfl fun _ => ⟨by simp, by simp [isPrefix], by
    simp [decodeShort, decodeI, need]⟩
theorem ldgB64 (s : Bool) (d : GReg) (a : GReg) (pri : BitVec 2) (na : Bool) (off : BitVec 5) : Statement (.ldgB64 s d a pri na off) :=
  short (encM s 0x16 d a pri na 0 off) rfl fun _ => ⟨by simp, by simp [isPrefix], by
    simp [decodeShort, decodeI, need]⟩
theorem stgB8 (s : Bool) (d : GReg) (a : GReg) (pri : BitVec 2) (na : Bool) (scope : BitVec 3) (off : BitVec 5) : Statement (.stgB8 s d a pri na scope off) :=
  short (encM s 0x18 d a pri na scope off) rfl fun hw => ⟨by simp, by simp [isPrefix], by
    simpa [decodeShort, decodeI, need, Instr.wf] using hw⟩
theorem stgB16 (s : Bool) (d : GReg) (a : GReg) (pri : BitVec 2) (na : Bool) (scope : BitVec 3) (off : BitVec 5) : Statement (.stgB16 s d a pri na scope off) :=
  short (encM s 0x19 d a pri na scope off) rfl fun hw => ⟨by simp, by simp [isPrefix], by
    simpa [decodeShort, decodeI, need, Instr.wf] using hw⟩
theorem stgB32 (s : Bool) (d : GReg) (a : GReg) (pri : BitVec 2) (na : Bool) (scope : BitVec 3) (off : BitVec 5) : Statement (.stgB32 s d a pri na scope off) :=
  short (encM s 0x1A d a pri na scope off) rfl fun hw => ⟨by simp, by simp [isPrefix], by
    simpa [decodeShort, decodeI, need, Instr.wf] using hw⟩
theorem stgB64 (s : Bool) (d : GReg) (a : GReg) (pri : BitVec 2) (na : Bool) (scope : BitVec 3) (off : BitVec 5) : Statement (.stgB64 s d a pri na scope off) :=
  short (encM s 0x1B d a pri na scope off) rfl fun hw => ⟨by simp, by simp [isPrefix], by
    simpa [decodeShort, decodeI, need, Instr.wf] using hw⟩
theorem ldgN8Long (s : Bool) (d : GReg) (a : GReg) (ext : BitVec 23) (pri : BitVec 2) (na : Bool) (off : BitVec 5) : Statement (.ldgN8Long s d a ext pri na off) :=
  long (encP s ext) (encM false 0x10 d a pri na 0 off) rfl fun _ => ⟨by simp, by simp, by
    simp [decodeLong, need]⟩
theorem ldgS8Long (s : Bool) (d : GReg) (a : GReg) (ext : BitVec 23) (pri : BitVec 2) (na : Bool) (off : BitVec 5) : Statement (.ldgS8Long s d a ext pri na off) :=
  long (encP s ext) (encM false 0x11 d a pri na 0 off) rfl fun _ => ⟨by simp, by simp, by
    simp [decodeLong, need]⟩
theorem ldgN16Long (s : Bool) (d : GReg) (a : GReg) (ext : BitVec 23) (pri : BitVec 2) (na : Bool) (off : BitVec 5) : Statement (.ldgN16Long s d a ext pri na off) :=
  long (encP s ext) (encM false 0x12 d a pri na 0 off) rfl fun _ => ⟨by simp, by simp, by
    simp [decodeLong, need]⟩
theorem ldgS16Long (s : Bool) (d : GReg) (a : GReg) (ext : BitVec 23) (pri : BitVec 2) (na : Bool) (off : BitVec 5) : Statement (.ldgS16Long s d a ext pri na off) :=
  long (encP s ext) (encM false 0x13 d a pri na 0 off) rfl fun _ => ⟨by simp, by simp, by
    simp [decodeLong, need]⟩
theorem ldgN32Long (s : Bool) (d : GReg) (a : GReg) (ext : BitVec 23) (pri : BitVec 2) (na : Bool) (off : BitVec 5) : Statement (.ldgN32Long s d a ext pri na off) :=
  long (encP s ext) (encM false 0x14 d a pri na 0 off) rfl fun _ => ⟨by simp, by simp, by
    simp [decodeLong, need]⟩
theorem ldgS32Long (s : Bool) (d : GReg) (a : GReg) (ext : BitVec 23) (pri : BitVec 2) (na : Bool) (off : BitVec 5) : Statement (.ldgS32Long s d a ext pri na off) :=
  long (encP s ext) (encM false 0x15 d a pri na 0 off) rfl fun _ => ⟨by simp, by simp, by
    simp [decodeLong, need]⟩
theorem ldgB64Long (s : Bool) (d : GReg) (a : GReg) (ext : BitVec 23) (pri : BitVec 2) (na : Bool) (off : BitVec 5) : Statement (.ldgB64Long s d a ext pri na off) :=
  long (encP s ext) (encM false 0x16 d a pri na 0 off) rfl fun _ => ⟨by simp, by simp, by
    simp [decodeLong, need]⟩
theorem stgB8Long (s : Bool) (d : GReg) (a : GReg) (ext : BitVec 23) (pri : BitVec 2) (na : Bool) (scope : BitVec 3) (off : BitVec 5) : Statement (.stgB8Long s d a ext pri na scope off) :=
  long (encP s ext) (encM false 0x18 d a pri na scope off) rfl fun hw => ⟨by simp, by simp, by
    simpa [decodeLong, need, Instr.wf] using hw⟩
theorem stgB16Long (s : Bool) (d : GReg) (a : GReg) (ext : BitVec 23) (pri : BitVec 2) (na : Bool) (scope : BitVec 3) (off : BitVec 5) : Statement (.stgB16Long s d a ext pri na scope off) :=
  long (encP s ext) (encM false 0x19 d a pri na scope off) rfl fun hw => ⟨by simp, by simp, by
    simpa [decodeLong, need, Instr.wf] using hw⟩
theorem stgB32Long (s : Bool) (d : GReg) (a : GReg) (ext : BitVec 23) (pri : BitVec 2) (na : Bool) (scope : BitVec 3) (off : BitVec 5) : Statement (.stgB32Long s d a ext pri na scope off) :=
  long (encP s ext) (encM false 0x1A d a pri na scope off) rfl fun hw => ⟨by simp, by simp, by
    simpa [decodeLong, need, Instr.wf] using hw⟩
theorem stgB64Long (s : Bool) (d : GReg) (a : GReg) (ext : BitVec 23) (pri : BitVec 2) (na : Bool) (scope : BitVec 3) (off : BitVec 5) : Statement (.stgB64Long s d a ext pri na scope off) :=
  long (encP s ext) (encM false 0x1B d a pri na scope off) rfl fun hw => ⟨by simp, by simp, by
    simpa [decodeLong, need, Instr.wf] using hw⟩
theorem beq (s : Bool) (a : GReg) (b : GReg) (off : BitVec 11) : Statement (.beq s a b off) :=
  short (encB s 0x00 a b off) rfl fun _ => ⟨by simp, by simp [isPrefix], by
    simp [decodeShort, decodeB]⟩
theorem bne (s : Bool) (a : GReg) (b : GReg) (off : BitVec 11) : Statement (.bne s a b off) :=
  short (encB s 0x01 a b off) rfl fun _ => ⟨by simp, by simp [isPrefix], by
    simp [decodeShort, decodeB]⟩
theorem blt (s : Bool) (a : GReg) (b : GReg) (off : BitVec 11) : Statement (.blt s a b off) :=
  short (encB s 0x02 a b off) rfl fun _ => ⟨by simp, by simp [isPrefix], by
    simp [decodeShort, decodeB]⟩
theorem bge (s : Bool) (a : GReg) (b : GReg) (off : BitVec 11) : Statement (.bge s a b off) :=
  short (encB s 0x03 a b off) rfl fun _ => ⟨by simp, by simp [isPrefix], by
    simp [decodeShort, decodeB]⟩
theorem bltu (s : Bool) (a : GReg) (b : GReg) (off : BitVec 11) : Statement (.bltu s a b off) :=
  short (encB s 0x04 a b off) rfl fun _ => ⟨by simp, by simp [isPrefix], by
    simp [decodeShort, decodeB]⟩
theorem bgeu (s : Bool) (a : GReg) (b : GReg) (off : BitVec 11) : Statement (.bgeu s a b off) :=
  short (encB s 0x05 a b off) rfl fun _ => ⟨by simp, by simp [isPrefix], by
    simp [decodeShort, decodeB]⟩
theorem jmp (s : Bool) (off : BitVec 23) : Statement (.jmp s off) :=
  short (encJ s 0x20 off) rfl fun _ => ⟨by simp, by simp [isPrefix], by
    simp [decodeShort, decodeB]⟩
theorem call (s : Bool) (off : BitVec 23) : Statement (.call s off) :=
  short (encJ s 0x21 off) rfl fun _ => ⟨by simp, by simp [isPrefix], by
    simp [decodeShort, decodeB]⟩
theorem laneWordEmit (w : BitVec 64) : Statement (.laneWordEmit w) := event rfl
theorem runStart (pid : Nat) (pipe : Nat) : Statement (.runStart pid pipe) := event rfl
theorem iadd (x : LaneWord) : Statement (.iadd x) := lane 0x000 x rfl rfl
theorem isub (x : LaneWord) : Statement (.isub x) := lane 0x001 x rfl rfl
theorem imul (x : LaneWord) : Statement (.imul x) := lane 0x002 x rfl rfl
theorem imulh (x : LaneWord) : Statement (.imulh x) := lane 0x003 x rfl rfl
theorem imad (x : LaneWord) : Statement (.imad x) := lane 0x004 x rfl rfl
theorem imin (x : LaneWord) : Statement (.imin x) := lane 0x005 x rfl rfl
theorem imax (x : LaneWord) : Statement (.imax x) := lane 0x006 x rfl rfl
theorem iabs (x : LaneWord) : Statement (.iabs x) := lane 0x007 x rfl rfl
theorem andLane (x : LaneWord) : Statement (.andLane x) := lane 0x008 x rfl rfl
theorem orLane (x : LaneWord) : Statement (.orLane x) := lane 0x009 x rfl rfl
theorem xorLane (x : LaneWord) : Statement (.xorLane x) := lane 0x00A x rfl rfl
theorem notLane (x : LaneWord) : Statement (.notLane x) := lane 0x00B x rfl rfl
theorem shlLane (x : LaneWord) : Statement (.shlLane x) := lane 0x00C x rfl rfl
theorem shrLane (x : LaneWord) : Statement (.shrLane x) := lane 0x00D x rfl rfl
theorem rotl (x : LaneWord) : Statement (.rotl x) := lane 0x00E x rfl rfl
theorem bfe (x : LaneWord) : Statement (.bfe x) := lane 0x00F x rfl rfl
theorem bfi (x : LaneWord) : Statement (.bfi x) := lane 0x010 x rfl rfl
theorem popcLane (x : LaneWord) : Statement (.popcLane x) := lane 0x011 x rfl rfl
theorem clzLane (x : LaneWord) : Statement (.clzLane x) := lane 0x012 x rfl rfl
theorem brev (x : LaneWord) : Statement (.brev x) := lane 0x013 x rfl rfl
theorem movLane (x : LaneWord) : Statement (.movLane x) := lane 0x014 x rfl rfl
theorem iadd3 (x : LaneWord) : Statement (.iadd3 x) := lane 0x015 x rfl rfl
theorem isad (x : LaneWord) : Statement (.isad x) := lane 0x016 x rfl rfl
theorem imulw (x : LaneWord) : Statement (.imulw x) := lane 0x018 x rfl rfl
theorem imadw (x : LaneWord) : Statement (.imadw x) := lane 0x019 x rfl rfl
theorem idp4 (x : LaneWord) : Statement (.idp4 x) := lane 0x01A x rfl rfl
theorem idp2 (x : LaneWord) : Statement (.idp2 x) := lane 0x01B x rfl rfl
theorem fadd (x : LaneWord) : Statement (.fadd x) := lane 0x080 x rfl rfl
theorem fsub (x : LaneWord) : Statement (.fsub x) := lane 0x081 x rfl rfl
theorem fmul (x : LaneWord) : Statement (.fmul x) := lane 0x082 x rfl rfl
theorem ffma (x : LaneWord) : Statement (.ffma x) := lane 0x083 x rfl rfl
theorem fmin (x : LaneWord) : Statement (.fmin x) := lane 0x084 x rfl rfl
theorem fmax (x : LaneWord) : Statement (.fmax x) := lane 0x085 x rfl rfl
theorem fabs (x : LaneWord) : Statement (.fabs x) := lane 0x086 x rfl rfl
theorem fneg (x : LaneWord) : Statement (.fneg x) := lane 0x087 x rfl rfl
theorem fdp2 (x : LaneWord) : Statement (.fdp2 x) := lane 0x088 x rfl rfl
theorem fdp4 (x : LaneWord) : Statement (.fdp4 x) := lane 0x089 x rfl rfl
theorem frnd (x : LaneWord) : Statement (.frnd x) := lane 0x08A x rfl rfl
theorem cvt (x : LaneWord) : Statement (.cvt x) := lane 0x100 x rfl rfl
theorem cvts (x : LaneWord) : Statement (.cvts x) := lane 0x101 x rfl rfl
theorem cbd (x : LaneWord) : Statement (.cbd x) := lane 0x102 x rfl rfl
theorem pack (x : LaneWord) : Statement (.pack x) := lane 0x103 x rfl rfl
theorem unpk (x : LaneWord) : Statement (.unpk x) := lane 0x104 x rfl rfl
theorem icmp (x : LaneWord) : Statement (.icmp x) := lane 0x180 x rfl rfl
theorem fcmp (x : LaneWord) : Statement (.fcmp x) := lane 0x181 x rfl rfl
theorem plop (x : LaneWord) : Statement (.plop x) := lane 0x182 x rfl rfl
theorem pmov (x : LaneWord) : Statement (.pmov x) := lane 0x183 x rfl rfl
theorem sel (x : LaneWord) : Statement (.sel x) := lane 0x184 x rfl rfl
theorem lexit (x : LaneWord) : Statement (.lexit x) := lane 0x185 x rfl rfl
theorem nop (x : LaneWord) : Statement (.nop x) := lane 0x186 x rfl rfl
theorem rcp (x : LaneWord) : Statement (.rcp x) := lane 0x188 x rfl rfl
theorem rsq (x : LaneWord) : Statement (.rsq x) := lane 0x189 x rfl rfl
theorem sqrt (x : LaneWord) : Statement (.sqrt x) := lane 0x18A x rfl rfl
theorem exp2 (x : LaneWord) : Statement (.exp2 x) := lane 0x18B x rfl rfl
theorem log2 (x : LaneWord) : Statement (.log2 x) := lane 0x18C x rfl rfl
theorem sin (x : LaneWord) : Statement (.sin x) := lane 0x18D x rfl rfl
theorem cos (x : LaneWord) : Statement (.cos x) := lane 0x18E x rfl rfl
theorem cte (x : LaneWord) : Statement (.cte x) := lane 0x190 x rfl rfl
theorem ctld (x : LaneWord) : Statement (.ctld x) := lane 0x191 x rfl rfl
theorem curveTableLoadFinish (pid : Nat) (tbl : Nat) (bank : Nat) : Statement (.curveTableLoadFinish pid tbl bank) := event rfl
theorem shfl (x : LaneWord) : Statement (.shfl x) := lane 0x200 x rfl rfl
theorem vote (x : LaneWord) : Statement (.vote x) := lane 0x201 x rfl rfl
theorem ballot (x : LaneWord) : Statement (.ballot x) := lane 0x202 x rfl rfl
theorem reduce (x : LaneWord) : Statement (.reduce x) := lane 0x203 x rfl rfl
theorem scan (x : LaneWord) : Statement (.scan x) := lane 0x204 x rfl rfl
theorem bcast (x : LaneWord) : Statement (.bcast x) := lane 0x205 x rfl rfl
theorem regroup (x : LaneWord) : Statement (.regroup x) := lane 0x206 x rfl rfl
theorem uni (x : LaneWord) : Statement (.uni x) := lane 0x207 x rfl rfl
theorem ld (x : LaneWord) : Statement (.ld x) := lane 0x280 x rfl rfl
theorem st (x : LaneWord) : Statement (.st x) := lane 0x281 x rfl rfl
theorem ldt (x : LaneWord) : Statement (.ldt x) := lane 0x282 x rfl rfl
theorem ldb (x : LaneWord) : Statement (.ldb x) := lane 0x283 x rfl rfl
theorem atom (x : LaneWord) : Statement (.atom x) := lane 0x284 x rfl rfl
theorem red (x : LaneWord) : Statement (.red x) := lane 0x285 x rfl rfl
theorem lfence (x : LaneWord) : Statement (.lfence x) := lane 0x286 x rfl rfl
theorem stashMap (x : LaneWord) : Statement (.stashMap x) := lane 0x288 x rfl rfl
theorem stashFlush (x : LaneWord) : Statement (.stashFlush x) := lane 0x289 x rfl rfl
theorem stashDrop (x : LaneWord) : Statement (.stashDrop x) := lane 0x28A x rfl rfl
theorem cp (x : LaneWord) : Statement (.cp x) := lane 0x300 x rfl rfl
theorem cp2d (x : LaneWord) : Statement (.cp2d x) := lane 0x301 x rfl rfl
theorem cpt (x : LaneWord) : Statement (.cpt x) := lane 0x302 x rfl rfl
theorem cpg (x : LaneWord) : Statement (.cpg x) := lane 0x303 x rfl rfl
theorem cpset (x : LaneWord) : Statement (.cpset x) := lane 0x304 x rfl rfl
theorem qfence (x : LaneWord) : Statement (.qfence x) := lane 0x305 x rfl rfl
theorem copyChunkStart (pid : Nat) (q : Nat) : Statement (.copyChunkStart pid q) := event rfl
theorem copyChunkWrite (pid : Nat) (q : Nat) : Statement (.copyChunkWrite pid q) := event rfl
theorem copyChunkLand (pid : Nat) (q : Nat) : Statement (.copyChunkLand pid q) := event rfl
theorem copyChunkFault (pid : Nat) (q : Nat) : Statement (.copyChunkFault pid q) := event rfl
theorem mm (x : LaneWord) : Statement (.mm x) := lane 0x308 x rfl rfl
theorem mmy (x : LaneWord) : Statement (.mmy x) := lane 0x309 x rfl rfl
theorem mzero (x : LaneWord) : Statement (.mzero x) := lane 0x30A x rfl rfl
theorem mcbt (x : LaneWord) : Statement (.mcbt x) := lane 0x30B x rfl rfl
theorem codebookLoadFinish (pid : Nat) (bank : Nat) : Statement (.codebookLoadFinish pid bank) := event rfl
theorem yokeLatchComplete (fid : Nat) (members : Nat) : Statement (.yokeLatchComplete fid members) := event rfl
theorem matrixEntryStart (pid : Nat) : Statement (.matrixEntryStart pid) := event rfl
theorem matrixRetirement (pid : Nat) (tile : Nat) (err : Bool) : Statement (.matrixRetirement pid tile err) := event rfl
theorem taWin (x : LaneWord) : Statement (.taWin x) := lane 0x310 x rfl rfl
theorem taDly (x : LaneWord) : Statement (.taDly x) := lane 0x311 x rfl rfl
theorem taMode (x : LaneWord) : Statement (.taMode x) := lane 0x312 x rfl rfl
theorem taGo (x : LaneWord) : Statement (.taGo x) := lane 0x313 x rfl rfl
theorem taCapt (x : LaneWord) : Statement (.taCapt x) := lane 0x314 x rfl rfl
theorem taClr (x : LaneWord) : Statement (.taClr x) := lane 0x315 x rfl rfl
theorem taEntryStart (pid : Nat) : Statement (.taEntryStart pid) := event rfl
theorem taWindowEnd (pid : Nat) (err : Bool) : Statement (.taWindowEnd pid err) := event rfl
theorem lwait (x : LaneWord) : Statement (.lwait x) := lane 0x318 x rfl rfl
theorem larr (x : LaneWord) : Statement (.larr x) := lane 0x319 x rfl rfl
theorem trl (x : LaneWord) : Statement (.trl x) := lane 0x380 x rfl rfl
theorem idiv (x : LaneWord) : Statement (.idiv x) := lane 0x3C0 x rfl rfl
theorem irem (x : LaneWord) : Statement (.irem x) := lane 0x3C1 x rfl rfl
theorem fdiv (x : LaneWord) : Statement (.fdiv x) := lane 0x3C2 x rfl rfl
theorem variableResultLand (id : Nat) : Statement (.variableResultLand id) := event rfl
theorem generatorResultArrival (fid : Nat) (clu : Nat) (t : Nat) (reg : Nat) : Statement (.generatorResultArrival fid clu t reg) := event rfl
theorem voteEntryPresent (fid : Nat) (clu : Nat) (t : Nat) : Statement (.voteEntryPresent fid clu t) := event rfl
theorem uniResultArrival (fid : Nat) (clu : Nat) (t : Nat) (reg : Nat) : Statement (.uniResultArrival fid clu t reg) := event rfl
theorem reelPlayFeed (fid : Nat) (clu : Nat) (t : Nat) (str : Nat) : Statement (.reelPlayFeed fid clu t str) := event rfl
theorem boundaryTrap (fid : Nat) (clu : Nat) (t : Nat) : Statement (.boundaryTrap fid clu t) := event rfl
theorem threadEnd (fid : Nat) (clu : Nat) (t : Nat) : Statement (.threadEnd fid clu t) := event rfl
theorem tableWalk (pid : Nat) (ctx : Nat) (va : Nat) : Statement (.tableWalk pid ctx va) := event rfl
theorem leaseGrant (pid : Nat) (ctx : Nat) (pa : Nat) : Statement (.leaseGrant pid ctx pa) := event rfl
theorem leaseExpiry (pid : Nat) (pa : Nat) : Statement (.leaseExpiry pid pa) := event rfl
theorem homeWritePerform (id : Nat) : Statement (.homeWritePerform id) := event rfl
theorem stashOwnershipGrant (pid : Nat) (va : Nat) : Statement (.stashOwnershipGrant pid va) := event rfl
theorem sectorFillLand (pid : Nat) (pa : Nat) : Statement (.sectorFillLand pid pa) := event rfl
theorem stashRecall (pa : Nat) : Statement (.stashRecall pa) := event rfl
theorem updateOnlyGrant (pid : Nat) (line : Nat) (room : Bool) : Statement (.updateOnlyGrant pid line room) := event rfl
theorem updateOnlyCombine (line : Nat) : Statement (.updateOnlyCombine line) := event rfl
theorem hostCxlMemAccess (wr : Bool) (hpa : Nat) (len : Nat) (data : Nat) : Statement (.hostCxlMemAccess wr hpa len data) := event rfl
theorem cxlCacheSnoop (pa : Nat) : Statement (.cxlCacheSnoop pa) := event rfl
theorem cxlerr (id : Nat) : Statement (.cxlerr id) := event rfl
theorem cxlCompletionTimeout (id : Nat) : Statement (.cxlCompletionTimeout id) := event rfl
theorem instructionFill (pid : Nat) (fid : Nat) (va : Nat) : Statement (.instructionFill pid fid va) := event rfl
theorem pftTargetFill (pid : Nat) (id : Nat) : Statement (.pftTargetFill pid id) := event rfl
theorem pinRehome (ctx : Nat) (die : Nat) (va : Nat) : Statement (.pinRehome ctx die va) := event rfl
theorem pinClrWriteback (ctx : Nat) (die : Nat) (va : Nat) : Statement (.pinClrWriteback ctx die va) := event rfl
theorem inval (ctx : Nat) (count : Nat) (size : Nat) : Statement (.inval ctx count size) := event rfl
theorem invalAll (ctx : Nat) (count : Nat) (size : Nat) : Statement (.invalAll ctx count size) := event rfl
theorem migrate (ctx : Nat) (count : Nat) (size : Nat) : Statement (.migrate ctx count size) := event rfl
theorem biasHost (ctx : Nat) (count : Nat) (size : Nat) : Statement (.biasHost ctx count size) := event rfl
theorem biasDev (ctx : Nat) (count : Nat) (size : Nat) : Statement (.biasDev ctx count size) := event rfl
theorem xlcmdFinish (ctx : Nat) : Statement (.xlcmdFinish ctx) := event rfl
theorem ttbaseWrite (ctx : Nat) (v : BitVec 64) : Statement (.ttbaseWrite ctx v) := event rfl
theorem cqctlAbort (pid : Nat) (q : Nat) : Statement (.cqctlAbort pid q) := event rfl
theorem cqctlResume (pid : Nat) (q : Nat) : Statement (.cqctlResume pid q) := event rfl
theorem deferredStageOperation (fid : Nat) (clu : Nat) (t : Nat) : Statement (.deferredStageOperation fid clu t) := event rfl
theorem barWaitTimeout (fid : Nat) (clu : Nat) (t : Nat) : Statement (.barWaitTimeout fid clu t) := event rfl
theorem bardoor (ctx : Nat) (v : BitVec 64) : Statement (.bardoor ctx v) := event rfl
theorem watchdogReport (ctx : Nat) : Statement (.watchdogReport ctx) := event rfl
theorem load (q : Nat) : Statement (.load q) := event rfl
theorem unload (q : Nat) : Statement (.unload q) := event rfl
theorem recordParse (q : Nat) : Statement (.recordParse q) := event rfl
theorem placementStep : Statement .placementStep := event rfl
theorem headAgeTick : Statement .headAgeTick := event rfl
theorem flockEnd (fid : Nat) : Statement (.flockEnd fid) := event rfl
theorem voltageRampReachesTarget (quad : Nat) : Statement (.voltageRampReachesTarget quad) := event rfl
theorem tokenFlitInject (die : Nat) : Statement (.tokenFlitInject die) := event rfl
theorem spendWindowRollover (pid : Nat) : Statement (.spendWindowRollover pid) := event rfl
theorem claimPost (pid : Nat) : Statement (.claimPost pid) := event rfl
theorem ashareWrite (ctx : Nat) (v : BitVec 64) : Statement (.ashareWrite ctx v) := event rfl
theorem thallowUpdate (die : Nat) (pallow : Nat) : Statement (.thallowUpdate die pallow) := event rfl
theorem sensorSample (die : Nat) (temps : List Nat) (ta : Nat) (tb : Nat) : Statement (.sensorSample die temps ta tb) := event rfl
theorem bankRefresh (stack : Nat) (bank : Nat) : Statement (.bankRefresh stack bank) := event rfl
theorem droopDetect (pid : Nat) : Statement (.droopDetect pid) := event rfl
theorem droopRecovery (pid : Nat) : Statement (.droopRecovery pid) := event rfl
theorem coreRailClamp : Statement .coreRailClamp := event rfl
theorem clampFloorEnd : Statement .clampFloorEnd := event rfl
theorem junctionTrip (die : Nat) : Statement (.junctionTrip die) := event rfl
theorem firmwareHeartbeatMiss : Statement .firmwareHeartbeatMiss := event rfl
theorem preempt (ctx : Nat) : Statement (.preempt ctx) := event rfl
theorem clear (ctx : Nat) : Statement (.clear ctx) := event rfl
theorem preemptionHalt (fid : Nat) : Statement (.preemptionHalt fid) := event rfl
theorem sampleRecord (pid : Nat) : Statement (.sampleRecord pid) := event rfl
theorem stop (ctx : Nat) : Statement (.stop ctx) := event rfl
theorem dbgctlResume (ctx : Nat) : Statement (.dbgctlResume ctx) := event rfl
theorem debugStop (fid : Nat) (clu : Nat) (t : Nat) : Statement (.debugStop fid clu t) := event rfl
theorem checkScoreboardStop (fid : Nat) (clu : Nat) (t : Nat) : Statement (.checkScoreboardStop fid clu t) := event rfl
theorem dbgdataWrite (ctx : Nat) (v : BitVec 64) : Statement (.dbgdataWrite ctx v) := event rfl
theorem srseedWrite (pid : Nat) (v : BitVec 64) : Statement (.srseedWrite pid v) := event rfl
theorem exmaskWrite (slot : Nat) (v : BitVec 64) : Statement (.exmaskWrite slot v) := event rfl
theorem leaseWrite (ctx : Nat) (v : BitVec 64) : Statement (.leaseWrite ctx v) := event rfl
theorem sampctlWrite (ctx : Nat) (v : BitVec 64) : Statement (.sampctlWrite ctx v) := event rfl
theorem registerWrite (page : Nat) (reg : HostReg) (v : BitVec 64) : Statement (.registerWrite page reg v) := event rfl
theorem packageReset : Statement .packageReset := event rfl
theorem railsInRegulation : Statement .railsInRegulation := event rfl
theorem firstConfigAccess : Statement .firstConfigAccess := event rfl
theorem controllerRamWrite (off : Nat) (v : BitVec 8) : Statement (.controllerRamWrite off v) := event rfl
theorem start : Statement .start := event rfl
theorem firmwareStartTimeout : Statement .firmwareStartTimeout := event rfl
theorem train : Statement .train := event rfl
theorem trainComplete (fails : BitVec 16) : Statement (.trainComplete fails) := event rfl
theorem release : Statement .release := event rfl
theorem haltfw : Statement .haltfw := event rfl
theorem illegalInstruction (tval : BitVec 64) : Statement (.illegalInstruction tval) := event rfl
theorem contextCreation (ctx : Nat) (priv : Bool) : Statement (.contextCreation ctx priv) := event rfl
theorem clockStepDown (quad : Nat) : Statement (.clockStepDown quad) := event rfl

end Sys2Proof.Laws.Coding
end

