-- ==== Sys2Proof/Tests/Slice0.lean ====
section
/-! SUPPORT. The author's tests: what WellFormed refuses, words decoded, single steps and values taken from the
spec, and a witness for the hypotheses of each statement. -/

set_option Elab.async false
set_option maxRecDepth 8192

namespace Sys2Proof.Tests

open Sys2Proof Sys2Proof.Machine

/-! ## Small machines -/

def t0 : Tid := ⟨0, 0, 0⟩

/-- Stage 3, context 0, one flock of cluster 0 with the thread (0, 0, 0) at the placed code, in focus. -/
def live : State := { placeCode State.reset [] with cur := t0 }
def inThr (f : Thread → Thread) : State := live.modThr t0 f
def inClu (f : Cluster → Cluster) : State := live.modClu 0 f
def inCtx (f : Ctx → Ctx) : State := live.modCtx 0 f
def inPkg (f : Pkg → Pkg) : State := live.modPkg f
/-- General registers from 4 upward. -/
def regs (l : List Word64) : State := inThr fun x => { x with g := (List.range l.length).map fun k => (k + 4, l.getD k 0) }

/-- An answer is a next state with a property. -/
def goes (o : Out) (p : State → Bool) : Bool :=
  match o with
  | .next t => p t
  | _ => false

/-- An answer is a next state, the one given. -/
def is (o : Out) (t : State) : Bool := goes o fun u => decide (u = t)

/-- An answer is a trap: the saved cause and value of the thread in focus. -/
def traps (o : Out) (c : Cause) (v : Word64) : Bool :=
  goes o fun t => decide ((me t).tcause = c.code) && decide ((me t).tval = v) && (me t).intrap
/-- The thread in focus waits inside its instruction. -/
def paused (s : State) : State := s.modThr t0 fun x => { x with wait := some ⟨0, [], none⟩ }
def handled (s : State) : State := s.modThr t0 fun x => { x with tvec := 0x2000 }

/-! ## What WellFormed refuses: beside each good term, terms that break one check of it -/

def w (d a b c : BitVec 8) (m : BitVec 10) : LaneWord := ⟨d, a, b, c, false, 12, 0, false, m⟩
def refuses (good : Instr) (bad : List Instr) : Bool := good.wf && bad.all fun i => !i.wf

theorem test_wf_generator : (refuses (.fence false 3 6) [.fence false 0 6, .fence false 3 0, .fence false 3 7]
    && refuses (.icinv false 1 2 6) [.icinv false 1 2 0, .icinv false 1 2 7]
    && refuses (.sfcvt false 1 2 5 0) [.sfcvt false 1 2 6 0] && refuses (.barNew false 1 2 3 true 0) [.barNew false 1 2 3 true 1]
    && refuses (.stagePut false 1 2 3 1) [.stagePut false 1 2 3 7] && refuses (.stageTake false 1 2 6 true) [.stageTake false 1 2 0 true]
    && refuses (.maskRd false 1 2 2) [.maskRd false 1 2 3]
    && refuses (.gatom false 4 6 8 10) [.gatom false 4 6 8 11, .gatom false 4 7 8 10]
    && refuses (.stgB8 false 1 2 0 false 6 0) [.stgB8 false 1 2 0 false 7 0]
    && refuses (.stgB64Long false 1 2 0 0 false 0 0) [.stgB64Long false 1 2 0 0 false 7 0]) = true := by decide

theorem test_wf_guard : (refuses (.nop ⟨0, 0, 0, 0, true, 11, 0, false, 0⟩) [.nop ⟨0, 0, 0, 0, true, 12, 0, false, 0⟩,
    .nop ⟨0, 0, 0, 0, false, 13, 0, false, 0⟩, .nop (w 1 0 0 0 0), .nop (w 0 0 0 0 1)]) = true := by decide

theorem test_wf_integer : (refuses (.iadd (w 2 2 0xC3 0 0x0A0)) [.iadd (w 2 2 0xC3 0 0x200), .iadd (w 2 2 0xC3 0 0x090),
      .iadd (w 2 2 0xC3 0 0x081), .iadd (w 2 2 0xC3 1 0x080), .iadd (w 0xC3 2 2 0 0x080), .iadd (w 2 0x88 2 0 0x080)]
    && refuses (.iadd (w 2 4 0xC4 0 0x0C0)) [.iadd (w 3 4 0xC4 0 0x0C0), .iadd (w 2 127 0xC4 0 0x0C0)]
    && refuses (.isub (w 1 2 3 0 0x010)) [.isub (w 1 2 3 0 0x230)] && refuses (.imul (w 1 2 3 0 0x1A0)) [.imul (w 1 2 3 9 0x1A0)]
    && refuses (.imulh (w 1 2 3 0 0x080)) [.imulh (w 1 2 3 0 0x000), .imulh (w 1 2 3 0 0x0A0)]
    && refuses (.imad (w 1 2 3 4 0x080)) [.imad (w 1 2 3 0x90 0x080)] && refuses (.iadd3 (w 1 2 3 4 0x080)) [.iadd3 (w 1 2 3 0x90 0x080)]
    && refuses (.imin (w 1 2 3 0 0x080)) [.imin (w 1 2 3 0 0x0A0)] && refuses (.imax (w 1 2 3 0 0x080)) [.imax (w 1 2 3 0 0x0A0)]
    && refuses (.iabs (w 1 2 0 0 0x180)) [.iabs (w 1 2 0 0 0x080), .iabs (w 1 2 3 0 0x180)]) = true := by decide

theorem test_wf_bits : (refuses (.andLane (w 1 2 3 0 0x080)) [.andLane (w 1 2 3 0 0x0A0)]
    && refuses (.orLane (w 1 2 3 0 0x080)) [.orLane (w 1 2 3 1 0x080)] && refuses (.xorLane (w 1 2 3 0 0x080)) [.xorLane (w 1 2 3 0 0x088)]
    && refuses (.notLane (w 1 2 0 0 0x080)) [.notLane (w 1 2 3 0 0x080)] && refuses (.shlLane (w 1 2 3 0 0x080)) [.shlLane (w 1 2 3 0 0x0A0)]
    && refuses (.shrLane (w 1 2 3 0 0x180)) [.shrLane (w 0xC1 2 3 0 0x180)] && refuses (.rotl (w 1 2 3 0 0x080)) [.rotl (w 1 2 3 0 0x280)]
    && refuses (.bfe (w 1 2 3 0 0x080)) [.bfe (w 1 2 3 0 0x040), .bfe (w 1 2 3 4 0x080)] && refuses (.bfi (w 1 2 3 4 0x080)) [.bfi (w 1 2 3 4 0x0A0)]
    && refuses (.popcLane (w 1 2 0 0 0x080)) [.popcLane (w 1 2 0 0 0x180)] && refuses (.clzLane (w 1 2 0 0 0x0C0)) [.clzLane (w 1 3 0 0 0x0C0)]
    && refuses (.brev (w 1 2 0 0 0x080)) [.brev (w 1 2 1 0 0x080)] && refuses (.movLane (w 1 0xC2 0 0 0x080)) [.movLane (w 1 0xC2 0 0 0x000)]
    && refuses (.isad (w 1 2 3 4 0x010)) [.isad (w 1 2 3 4 0x000)] && refuses (.imulw (w 2 2 3 0 0x080)) [.imulw (w 3 2 3 0 0x080)]
    && refuses (.imadw (w 2 2 3 4 0x080)) [.imadw (w 2 2 3 5 0x080)] && refuses (.idp4 (w 1 2 3 4 0x010)) [.idp4 (w 1 2 3 4 0x000)]
    && refuses (.idp2 (w 1 2 3 4 0x050)) [.idp2 (w 1 2 3 4 0x010)]) = true := by decide

theorem test_wf_float : (refuses (.fadd (w 1 2 3 0 0x284)) [.fadd (w 1 2 3 0 0x2A0), .fadd (w 1 2 3 0 0x281), .fadd (w 1 2 3 0 0x100)]
    && refuses (.fsub (w 1 2 3 0 0x201)) [.fsub (w 1 2 3 4 0x201)] && refuses (.fmul (w 1 2 3 0 0x280)) [.fmul (w 0xC1 2 3 0 0x280)]
    && refuses (.ffma (w 1 2 3 4 0x280)) [.ffma (w 1 2 3 0x90 0x280)] && refuses (.fmin (w 1 2 3 0 0x280)) [.fmin (w 1 2 3 0 0x288)]
    && refuses (.fmax (w 1 2 3 0 0x284)) [.fmax (w 1 2 3 0 0x282)] && refuses (.fabs (w 1 2 0 0 0x280)) [.fabs (w 1 2 0 0 0x284)]
    && refuses (.fneg (w 1 2 0 0 0x280)) [.fneg (w 1 2 3 0 0x280)] && refuses (.fdp2 (w 1 2 3 4 0x201)) [.fdp2 (w 1 2 3 4 0x200)]
    && refuses (.fdp4 (w 1 2 4 5 0x201)) [.fdp4 (w 1 3 4 5 0x201)] && refuses (.frnd (w 1 2 0 0 0x280)) [.frnd (w 1 2 0 0 0x282)]
    && refuses (.cvt (w 2 2 0 0x80 0x280)) [.cvt (w 2 2 0 0xA0 0x280), .cvt (w 2 2 0 0x81 0x280), .cvt (w 2 2 0 0x80 0x2A8), .cvt (w 1 2 0 0x80 0x280)]
    && refuses (.cvts (w 1 4 9 0xA0 0x2C0)) [.cvts (w 1 4 9 0x90 0x280), .cvts (w 1 4 1 0xA0 0x2C0)]
    && refuses (.cbd (w 8 2 3 0xE0 0x200)) [.cbd (w 8 2 9 0xE0 0x200), .cbd (w 8 2 3 0xE0 0x280)]
    && refuses (.pack (w 1 2 3 0x10 0x040)) [.pack (w 1 2 3 0x00 0x040)] && refuses (.unpk (w 1 2 0 0x40 0x183)) [.unpk (w 1 2 0 0x50 0x183)]
    && refuses (.sel (w 1 2 3 5 0x080)) [.sel (w 1 2 3 12 0x080)]) = true := by decide

theorem test_wf_predicates : (refuses (.icmp (w 11 2 3 0 0x094)) [.icmp (w 12 2 3 0 0x094), .icmp (w 11 2 3 0 0x098)]
    && refuses (.fcmp (w 1 2 3 0 0x29C)) [.fcmp (w 1 2 3 0 0x2A0)] && refuses (.plop (w 1 2 3 15 0)) [.plop (w 1 2 3 16 0), .plop (w 1 2 12 0 0)]
    && refuses (.pmov (w 0 1 2 0 0)) [.pmov (w 1 1 2 0 0), .pmov (w 1 1 0 0 64)] && refuses (.lexit (w 0 0 0 0 0)) [.lexit (w 0 1 0 0 0)]
    && refuses (.rcp (w 1 2 0 0 0x280)) [.rcp (w 1 2 0 0 0x080)] && refuses (.rsq (w 1 2 0 0 0x200)) [.rsq (w 1 2 3 0 0x200)]
    && refuses (.sqrt (w 1 2 0 0 0x240)) [.sqrt (w 1 2 0 1 0x240)] && refuses (.exp2 (w 1 2 0 0 0x280)) [.exp2 (w 1 2 0 0 0x281)]
    && refuses (.log2 (w 1 2 0 0 0x280)) [.log2 (w 0xC1 2 0 0 0x280)] && refuses (.sin (w 1 2 0 0 0x280)) [.sin (w 1 0x90 0 0 0x280)]
    && refuses (.cos (w 1 2 0 0 0x280)) [.cos (w 1 2 0 0 0x2C0)] && refuses (.cte (w 1 2 0 3 0x280)) [.cte (w 1 2 0 4 0x280)]
    && refuses (.ctld (w 0 0xC1 0xC2 3 0)) [.ctld (w 0 1 0xC2 3 0)]) = true := by decide

theorem test_wf_cross_lane : (refuses (.shfl (w 1 2 3 0 0x232)) [.shfl (w 1 2 3 5 0x232), .shfl (w 1 2 3 0 0x242), .shfl (w 1 2 3 0 0x280)]
    && refuses (.vote (w 0 1 0 0 0x220)) [.vote (w 0 1 0 0 0x230), .vote (w 0 1 0 0 0x020)] && refuses (.ballot (w 1 2 0 0 0x200)) [.ballot (w 1 2 0 0 0x210)]
    && refuses (.reduce (w 0x14 8 0 0 0x10A)) [.reduce (w 0x14 8 0 0 0x13A), .reduce (w 0x14 8 1 0 0x10A)]
    && refuses (.scan (w 0x14 8 0 0 0x102)) [.scan (w 0x14 8 0 5 0x102)] && refuses (.bcast (w 1 2 0xC3 0 0x002)) [.bcast (w 1 2 3 0 0x002)]
    && refuses (.regroup ⟨0, 1, 0, 0, false, 12, 0, true, 0⟩) [.regroup (w 0 1 0 0 0)] && refuses (.uni (w 0xC1 2 0 0 2)) [.uni (w 1 2 0 0 2)]) = true := by decide

theorem test_wf_memory : (refuses (.ld (w 4 0xC5 2 0x10 0x30C)) [.ld (w 5 0xC5 2 0x10 0x30C), .ld (w 4 5 2 0 0x30C), .ld (w 4 0xC5 2 0x20 0x30C), .ld (w 4 0xC5 2 0 0x30E)]
    && refuses (.st (w 1 0xC5 2 0x20 0x200)) [.st (w 1 0xC5 2 0 0x080), .st (w 1 0xC5 2 0x10 0x200)]
    && refuses (.ldt (w 32 0xC5 2 0 0x200)) [.ldt (w 16 0xC5 2 0 0x200)] && refuses (.ldb (w 1 0xC5 0 0 0x200)) [.ldb (w 1 0xC5 2 0 0x200)]
    && refuses (.atom (w 2 0xC5 2 0x0A 0x200)) [.atom (w 1 0xC5 2 0x0A 0x200), .atom (w 2 0xC5 2 0x0B 0x200)]
    && refuses (.red (w 1 0xC5 2 0x08 0x200)) [.red (w 1 0xC5 2 0x09 0x200), .red (w 1 0xC5 2 0x10 0x200)]
    && refuses (.lfence (w 0 0 0 0x10 0x002)) [.lfence (w 0 0 0 0 0x002), .lfence (w 0 0 0 0x10 0)]
    && refuses (.stashMap (w 0 0xC1 0xC2 0xC3 0)) [.stashMap (w 0 0xC1 2 0xC3 0)] && refuses (.stashFlush (w 0 0xC1 0 0xC3 0)) [.stashFlush (w 0 0xC1 0 3 0)]
    && refuses (.stashDrop (w 0 0xC1 0 0xC3 0)) [.stashDrop (w 0 0xC1 1 0xC3 0)]) = true := by decide

theorem test_wf_engines : (refuses (.cp (w 0 0xC1 0xC2 0xC4 0x102)) [.cp (w 0 0xC1 0xC2 0xC5 0x102), .cp (w 0 0xC1 0xC2 0xC4 0x103), .cp (w 0 0xC1 0xC2 0xC4 0x110)]
    && refuses (.cp2d (w 0 0xC2 0xC4 0xC6 0)) [.cp2d (w 0 0xC1 0xC4 0xC6 0)] && refuses (.cpt (w 0 0xC2 0xC4 0xC6 0x030)) [.cpt (w 0 0xC2 0xC4 0xC6 0x040)]
    && refuses (.cpg (w 0 0xC1 0xC2 0xC4 0)) [.cpg (w 0 0xC1 2 0xC4 0)] && refuses (.cpset (w 0 0xC1 0xC2 0xC4 0)) [.cpset (w 0 0xC1 0xC2 0xC4 1)]
    && refuses (.qfence (w 0 0 0 15 0)) [.qfence (w 0 0 0 0 0), .qfence (w 0 0 0 16 0)]
    && refuses (.mm (w 0 0xC2 0xC4 0 0x0B4)) [.mm (w 0 0xC2 0xC4 0 0x020), .mm (w 0 0xC2 0xC4 0 0x0BC), .mm (w 0 0xC1 0xC4 0 0x0B4)]
    && refuses (.mmy (w 0 0xC2 0xC4 0 0x0E8)) [.mmy (w 0 0xC2 0xC4 0 0x0E9)] && refuses (.mzero (w 0 0xC1 0 0x20 0)) [.mzero (w 0 0xC1 0 0x21 0)]
    && refuses (.mcbt (w 0 0xC1 0 0 0)) [.mcbt (w 0 1 0 0 0)] && refuses (.taWin (w 0 0 0 1 0)) [.taWin (w 0 0 0 0 0)]
    && refuses (.taDly (w 0 0xC1 0 0 0)) [.taDly (w 0 0xC1 0 1 0)] && refuses (.taMode (w 0 0xC2 0 0 1)) [.taMode (w 0 0xC2 0 0 2)]
    && refuses (.taGo (w 0 1 0 0 0)) [.taGo (w 0 0xC1 0 0 0)] && refuses (.taCapt (w 1 0 0 128 2)) [.taCapt (w 1 0 0 129 2), .taCapt (w 1 0 0 1 1)]
    && refuses (.taClr (w 0 0 0 0 0)) [.taClr (w 0 0 0 1 0)] && refuses (.lwait (w 0 0xC1 0xC2 0 0)) [.lwait ⟨0, 0xC1, 0xC2, 0, false, 3, 0, false, 0⟩]
    && refuses (.larr (w 0 0xC1 0 0 0)) [.larr (w 0 1 0 0 0)] && refuses (.trl (w 5 0 0 0 1)) [.trl (w 5 0 0 0 0), .trl (w 0x80 0 0 0 1), .trl ⟨5, 0, 0, 0, false, 12, 1, false, 1⟩]
    && refuses (.idiv (w 1 2 0xC3 0 0x080)) [.idiv (w 0x80 2 3 0 0x080)] && refuses (.irem (w 1 2 3 0 0x180)) [.irem (w 1 2 3 0 0x0C0)]
    && refuses (.fdiv (w 1 2 3 0 0x298)) [.fdiv (w 1 2 3 0 0x2A0)]) = true := by decide

/-! ## Words of the spec, assembled bit by bit there, and the bytes of an instruction -/

/-- The assembled words of the programs of the spec, one or more for each family. -/
theorem test_decode_generator : decodeTableWord 32 0x600A_2810 = some (.addi true 5 5 16)
    ∧ decodeTableWord 64 0x440E_0789_5FA4_68AC = some (.moviLong false 7 0x24_68AC 0x789)
    ∧ decodeTableWord 32 0x1F08_28C2 = some (.pinSet false 4 5 6 true false) ∧ decodeTableWord 32 0x1EB8_53CA = some (.gatom false 28 10 30 10)
    ∧ decodeTableWord 32 0x4D16_52C0 = some (.stgB32 false 11 10 1 false 6 0) ∧ decodeTableWord 32 0x4B32_E200 = some (.ldgB64 false 25 28 1 false 0)
    ∧ decodeTableWord 32 0x1200_0016 = some (.fence false 2 6) ∧ decodeTableWord 32 0x4E06_0010 = some (.srd false 3 0x010)
    ∧ decodeTableWord 32 0x140A_3003 = some (.barNew false 5 6 0 false 3) ∧ decodeTableWord 32 0x1E08_28C0 = some (.launch false 4 5 6) := by decide
theorem test_decode_streams : decodeTableWord 32 0x1A00_2000 = some (.strBind false 4 0 0) ∧ decodeTableWord 32 0x1A80_0000 = some (.strSel false 0)
    ∧ decodeTableWord 32 0x1B00_0000 = some (.strFree false 0) ∧ decodeTableWord 32 0x1800_A000 = some (.reelOpen false 20)
    ∧ decodeTableWord 32 0x1880_0000 = some (.reelShut false) ∧ decodeTableWord 32 0x1900_A000 = some (.reelPlay false 20)
    ∧ decodeTableWord 32 0x1980_A000 = some (.reelDrop false 20) ∧ decodeTableWord 32 0x132C_0000 = some (.vqPop false 22)
    ∧ decodeTableWord 32 0x13AC_0000 = some (.vqPeek false 22) ∧ decodeTableWord 32 0x1D00_20A0 = some (.parkReplay false 4 5)
    ∧ decodeTableWord 32 0x1D80_20A1 = some (.unpark false 4 5 true) := by decide
theorem test_decode_lanes : decodeTableWord 64 0xC000_202C_3008_0580 = some (.iadd ⟨2, 2, 0xC3, 0, true, 0, 0, true, 0x180⟩)
    ∧ decodeTableWord 64 0xC830_401C_5041_A680 = some (.ffma ⟨4, 1, 0xC5, 4, false, 3, 4, true, 0x280⟩)
    ∧ decodeTableWord 64 0xE031_4080_0006_010A = some (.reduce (w 0x14 8 0 0 0x10A))
    ∧ decodeTableWord 64 0xE850_1C50_2006_0620 = some (.red ⟨1, 0xC5, 2, 0, false, 12, 0, true, 0x220⟩)
    ∧ decodeTableWord 64 0xF040_0DDC_0CC6_0404 = some (.cpset ⟨0, 0xDD, 0xC0, 0xCC, false, 12, 0, true, 4⟩)
    ∧ decodeTableWord 64 0xF080_0CEC_60D6_04B4 = some (.mm ⟨0, 0xCE, 0xC6, 0x0D, false, 12, 0, true, 0xB4⟩)
    ∧ decodeTableWord 64 0xF120_0C60_0006_0001 = some (.taMode (w 0 0xC6 0 0 1)) ∧ decodeTableWord 64 0xF800_4000_0006_0001 = some (.trl (w 4 0 0 0 1)) := by decide
/-- R28: a prefix with a parcel that takes none, a reserved slot, and the upper half of a lane word are no instruction. -/
theorem test_decode_refuses : decodeTableWord 64 0x4200_0000_5F80_0000 = none ∧ decodeTableWord 32 0x0B80_0000 = none
    ∧ (match decode false (leBytes 4 0xC000_0000) with
      | .error .classLane => true
      | _ => false) = true := by decide
/-- A parcel whose next parcel is of class 0b11 at an 8-byte-aligned address is the low half of a lane word (R28). -/
theorem test_decode_alignment : (match decode true (leBytes 8 0xF800_4000_0006_0001), decode false (leBytes 4 0x600A_2810) with
    | .ok (i, _), .ok (j, _) => decide (i = .trl (w 4 0 0 0 1)) && decide (j = .addi true 5 5 16)
    | _, _ => false) = true := by decide
theorem witness_EncodingRoundTrip : (Instr.addi true 5 5 16).wf = true ∧ encode (.addi true 5 5 16) = some (32, 0x600A_2810)
    ∧ (Instr.trl (w 4 0 0 0 1)).wf = true ∧ encode (.trl (w 4 0 0 0 1)) = some (64, 0xF800_4000_0006_0001)
    ∧ (Instr.moviLong false 7 0x24_68AC 0x789).wf = true ∧ encode (.moviLong false 7 0x24_68AC 0x789) = some (64, 0x440E_0789_5FA4_68AC)
    ∧ lCls (0x440E_0789_5FA4_68AC : BitVec 64) ≠ 3 ∧ pCls (BitVec.ofNat 32 (leNat [0, 0, 0, 0x40])) ≠ 3 := by decide
theorem witness_DecodedWordsWellFormed : (match decode true (leBytes 4 0x600A_2810 ++ [1, 2]) with
    | .ok (i, rest) => decide (i = .addi true 5 5 16) && decide (rest = [1, 2])
    | .error _ => false) = true := by decide

/-! ## Steps: fetch, turns, events -/

/-- The state in which a turn has been taken and the thread is in focus. -/
def turned (s : State) : State := { (nextTurn s).2 with cur := t0 }
/-- A thread at the upper half of a lane word. -/
def middle : State := (placeCode State.reset (leBytes 8 0xC000_0000_0000_0000)).modThr t0 fun x => { x with pc := 0x1_0004 }
def placed32 (v : Nat) : State := State.reset.withFetchWord 32 v

/-- ADDI g5, g5, 16 with S set (0x600A2810), fetched and run as the first instruction; the pc moves by 4 (R28, R326). -/
theorem test_step_addi : goes (step ((placed32 0x600A_2810).modThr t0 fun x => { x with g := [(5, 7)] })) (fun t =>
    decide ((t.thr t0).gr 5 = 23) && decide ((t.thr t0).pc = 0x1_0004)) = true := by decide
/-- IADD.s32 v4, v2, v2 as the only word of a run on a pipe: 2 and 2 make 4 in each lane, and the run ends (R204). -/
theorem test_step_iadd : goes (step ((State.reset.withFetchWord 64 (encLane 0x000 (w 4 2 2 0 0x180)).toNat).setGrp 0 0 0
      { Group.placed with v := [(2, (List.range 32).map fun _ => 2)] })) (fun t =>
    decide ((t.clu 0).pipes = []) && ((List.range 32).all fun l => decide ((t.grp 0 0 0).laneOf 4 l = 4))) = true := by decide
/-- A parcel of class 0b11 at an address of the form 8k + 4 is an illegal generator word (R28). -/
theorem test_step_illegal : goes (step (handled { middle with agenda := [⟨0, .thread t0⟩] })) (fun t =>
    decide ((t.thr t0).tcause = 1) && decide ((t.thr t0).tpc = 0x1_0004) && decide ((t.thr t0).pc = 0x2000)
      && decide ((t.thr t0).tval = 0xC000_0000)) = true := by decide

def twoLines : State := inClu (fun c => { c with icache :=
  [⟨0, 0x1_0000, List.replicate 252 0 ++ leBytes 4 0x5FA4_68AC⟩, ⟨0, 0x1_0100, leBytes 4 0x440E_0789 ++ List.replicate 252 0⟩] })
  |>.modThr t0 fun x => { x with pc := 0x1_00FC }
def lineHas (s : State) (va : Nat) : Bool := ((s.clu (myPid s)).icache.find? fun x => decide ((x.ctx, x.va) = (0, va))).any fun l => decide (l.data.length = 256)

theorem witness_StepRunsDecoded_fetch :
    (let pc := (me twoLines).pc.toNat
     canonical pc && lineHas twoLines (pc / 256 * 256) && decide (pc % 256 = 252) && lineHas twoLines (pc + 4) && canonical (pc + 4)
       && (match decode false (leBytes 4 0x5FA4_68AC ++ leBytes 4 0x440E_0789 ++ List.replicate 252 0), (fetchInstr twoLines).2 with
        | .ok (i, _), .ok j => decide (i = .moviLong false 7 0x24_68AC 0x789) && decide (j = i)
        | _, _ => false)) = true := by decide
theorem witness_StepRunsDecoded_turn :
    (let s := turned (placed32 0x600A_2810)
     canRun s t0 && decide ((me s).hostOp = none) && decide ((myFlk s).preReq = false) && decide ((me s).stopNext = none)
       && decide ((me s).stopReq = false) && ((List.range 4).all fun k => decide ((s.ctx (s.ctxOf t0)).bps.getD k 0 ≠ (me s).pc.toNat))
       && decide ((me s).held = []) && !scoreboardHolds (me s) (.addi true 5 5 16) && !(fetchInstr s).1.held && mayIssue (fetchInstr s).1 t0
       && scoreboardHolds { me s with out := [⟨5, .value 0⟩] } (.addi true 5 5 16)) = true := by decide
theorem witness_StepRunsDecoded_events :
    (let s := State.reset.withFetchWord 64 0xC000_202C_3006_0180
     isEvent .placementStep && decide (s.agenda = [⟨0, .issue 0 0⟩]) && s.pkg.powered && (firstDue s).any (fun e => decide (e.1 ≤ s.now + 10 ^ 6)) && ((s.clu 0).pipes.find 0).any fun p =>
       decide (p.run.words.length = 1) && !p.replay && decide (p.ready ≤ s.now) && !(s.die 0).tripped && !(s.ctx 0).check) = true := by decide
theorem witness_StepKeepsMemories : ((placed32 0x600A_2810).wf && goes (step (placed32 0x600A_2810)) fun t => t.wf) = true := by decide
theorem witness_StepKeepsMasksApart :
    (let s := (placed32 0x600A_2810).setGrp 0 0 0 { Group.placed with ex := 0xFFFF_FFF0, park := 3, exit := 4 }
     (s.groups.all fun e => decide (e.2.ex < 2 ^ 32) && decide (e.2.ex &&& e.2.park = 0) && decide (e.2.park &&& e.2.exit = 0) && decide (e.2.ex &&& e.2.exit = 0))
       && !s.groups.isEmpty && goes (step s) fun _ => true) = true := by decide

/-! ## Scalar words -/

/-- R325: a wrapping sum, the signed quotient −2^63 ÷ −1, a division by 0, shifts by 64 and more. -/
theorem test_integer :
    (goes (exec (.add false 6 4 5) (regs [0xFFFF_FFFF_FFFF_FFFF, 2])) (fun t => decide ((me t).gr 6 = 1))
    && goes (exec (.div false 6 4 5) (regs [0x8000_0000_0000_0000, 0xFFFF_FFFF_FFFF_FFFF])) (fun t => decide ((me t).gr 6 = 0x8000_0000_0000_0000))
    && goes (exec (.div false 6 4 5) (regs [7, 0])) (fun t => decide ((me t).gr 6 = 0xFFFF_FFFF_FFFF_FFFF))
    && goes (exec (.rem false 6 4 5) (regs [0xFFFF_FFFF_FFFF_FFF9, 2])) (fun t => decide ((me t).gr 6 = 0xFFFF_FFFF_FFFF_FFFF))
    && goes (exec (.shlR false 6 4 5) (regs [1, 64])) (fun t => decide ((me t).gr 6 = 0))
    && goes (exec (.sarR false 6 4 5) (regs [0x8000_0000_0000_0000, 255])) (fun t => decide ((me t).gr 6 = 0xFFFF_FFFF_FFFF_FFFF))
    && goes (exec (.mulh false 6 4 5) (regs [0xFFFF_FFFF_FFFF_FFFF, 2])) (fun t => decide ((me t).gr 6 = 0xFFFF_FFFF_FFFF_FFFF))
    && goes (exec (.clz false 6 4) (regs [0])) (fun t => decide ((me t).gr 6 = 64))
    && goes (exec (.add false 0 4 4) (regs [3])) (fun t => decide ((me t).gr 0 = 0) && decide ((me t).pc = 0x1_0004))) = true := by decide
/-- R326: INSH keeps the low 34 bits; SLTIU reads −1 as the greatest number. -/
theorem test_immediate :
    (goes (exec (.insh false 4 0x7FF) (regs [0x3_FFFF_FFFF])) (fun t => decide ((me t).gr 4 = 0xFFFF_FFFF_FFFF_FFFF))
    && goes (exec (.moviLong false 4 0x7F_FFFF 0x7FE) live) (fun t => decide ((me t).gr 4 = 0xFFFF_FFFF_FFFF_FFFE) && decide ((me t).pc = 0x1_0008))
    && goes (exec (.sltiu false 5 4 0x7FF) (regs [5])) (fun t => decide ((me t).gr 5 = 1))) = true := by decide
/-- R326: a shift count with imm11[10:6] nonzero, and a MOVI with a ga field, are no instructions. -/
theorem witness_ImmediateInteger : (0x3F : BitVec 11).toNat < 64 ∧ ¬(0x40 : BitVec 11).toNat < 64
    ∧ decodeTableWord 32 0x4208_203F = some (.shli false 4 4 63) ∧ decodeTableWord 32 0x4208_2040 = none ∧ decodeTableWord 32 0x4408_2001 = none := by decide
/-- R330: a backward branch taken, one not taken, and CALL. -/
theorem test_branches :
    (goes (exec (.blt false 4 5 0x7FF) (regs [0xFFFF_FFFF_FFFF_FFFF, 0])) (fun t => decide ((me t).pc = 0xFFFC))
    && goes (exec (.bltu false 4 5 0x7FF) (regs [0xFFFF_FFFF_FFFF_FFFF, 0])) (fun t => decide ((me t).pc = 0x1_0004))
    && goes (exec (.call false 0x40_0000) live) (fun t => decide ((me t).pc = 0xFFFF_FFFF_FF01_0000) && decide ((me t).gr 63 = 0x1_0004))) = true := by decide
theorem witness_Branches : (me middle).pc.toNat % 8 = 4 ∧ (me middle).pc.toNat % 4 = 0 ∧ canonical (me middle).pc.toNat = true ∧ lineHas middle 0x1_0000 = true
    ∧ 0xC000_0000 ≤ (BitVec.ofNat 32 (leNat (((leBytes 8 0xC000_0000_0000_0000).drop 4).take 4))).toNat := by decide
/-- R331 to R333. -/
theorem test_control :
    (goes (exec (.callr false 63) (inThr fun x => { x with g := [(63, 0x3000)] })) (fun t => decide ((me t).pc = 0x3000) && decide ((me t).gr 63 = 0x1_0004))
    && traps (exec (.trap false 5) (handled live)) .soft 5 && traps (exec (.jr false 4) (handled (regs [0x3002]))) .align 0x3002
    && goes (exec (.sret false) (inThr fun x => { x with intrap := true, tpc := 0x4002 })) (fun t => decide ((me t).pc = 0x4000) && !(me t).intrap)
    && goes (exec (.trap false 5) live) (fun t => decide ((me t).status = .halted) && (t.ctx 0).evt.testBit 0)) = true := by decide
theorem witness_JumpsAndTraps : (rd (regs [0x3000]) 4).toNat % 4 = 0 ∧ (rd (regs [0x3001]) 4).toNat % 4 ≠ 0
    ∧ (me (inThr fun x => { x with intrap := true })).intrap = true ∧ (me live).intrap = false ∧ (me live).tvec.toNat / 4 = 0
    ∧ (me (inThr fun x => { x with intrap := true, tvec := 0x2000 })).intrap = true := by decide
/-- R327: 1.5 + 2.25 = 3.75; the conversion of −1.5 to s32 toward zero; −0 below +0. -/
theorem test_scalar_float :
    (goes (exec (.sfadd false 6 4 5 0) (regs [0x3FC0_0000, 0x4010_0000])) (fun t => decide ((me t).gr 6 = 0x4070_0000))
    && goes (exec (.sfcvt false 6 4 4 1) (regs [0xBFC0_0000])) (fun t => decide ((me t).gr 6 = 0xFFFF_FFFF_FFFF_FFFF))
    && goes (exec (.sfmin false 6 4 5) (regs [0, 0x8000_0000])) (fun t => decide ((me t).gr 6 = 0x8000_0000))
    && goes (exec (.sfmax false 6 4 5) (regs [0x7FC0_0001, 0x3F80_0000])) (fun t => decide ((me t).gr 6 = 0x3F80_0000))
    && goes (exec (.sfcmp false 6 4 5 7) (regs [0x7FC0_0000, 0])) (fun t => decide ((me t).gr 6 = 1))) = true := by decide
theorem witness_ScalarFloats :
    (let nan (z : Nat) : Bool := (fF32.value z).isNan
     let lt (x y : Nat) : Bool := Val.lt (fF32.value x) (fF32.value y)
     nan 0x7FC0_0000 && !nan 0x3F80_0000 && lt 0xBF80_0000 0 && lt 0 0x3F80_0000 && !lt 0 0x8000_0000 && !lt 0x8000_0000 0
       && decide ((live.ctx (myCtx live)).aelEn = 0)) = true := by decide
theorem witness_RoundingAndSums : (0x38 < 2 ^ fE4m3.width ∧ fE4m3.hasNan = true ∧ (fE4m3.value 0x38).isNan = false ∧ (0xFFFFFF : Nat) < 2 ^ 24
    ∧ fF32.hasNan = true ∧ Val.nan.isNan = true) := by decide

/-! ## System registers and translation commands -/

def priv : State := inCtx fun c => { c with priv := true }

/-- R322, R323: TSCR, an unassigned number, XLMODE without and with privilege, and TCAUSE, which arrives later. -/
theorem test_srd :
    (goes (exec (.srd false 4 0x005) (inThr fun x => { x with tscr := 9 })) (fun t => decide ((me t).gr 4 = 9))
    && traps (exec (.srd false 4 0x008) (handled live)) .illegal 0x4E08_0008 && traps (exec (.srd false 4 0x021) (handled live)) .priv 0x4E08_0021
    && goes (exec (.srd false 4 0x001) (inThr fun x => { x with tcause := 7 })) (fun t => decide ((me t).out = [⟨4, .value 7⟩]))) = true := by decide
/-- R303, R412: LEASE is clamped, COLSPLIT traps PRIV, TSCR is written. -/
theorem test_swr :
    (goes (exec (.swr false 4 0x011) (regs [5])) (fun t => decide ((t.ctx 0).leaseNs = 128))
    && traps (exec (.swr false 4 0x016) (handled (regs [0]))) .priv 0x4E80_2016
    && goes (exec (.swr false 4 0x005) (regs [77])) (fun t => decide ((me t).tscr = 77))
    && goes (exec (.ashareWrite 0 0x1FFF) live) (fun t => decide (shareFor (t.ctx 0) 1 = 4096))) = true := by decide
theorem witness_SystemRegisterReads : (live.ctx (myCtx live)).priv = false ∧ (priv.ctx (myCtx priv)).priv = true ∧ (0x020 : BitVec 11).toNat = 0x20
    ∧ (0x018 : BitVec 11).toNat = 0x18 ∧ (0x7FF : BitVec 11).toNat = 2047 := by decide
theorem witness_SystemRegisterEffects : ((live.ctx (myCtx live)).hintAt.any (sameCycle live (myPid live))) = false
    ∧ (((inCtx fun c => { c with hintAt := some 0 }).ctx 0).hintAt.any (sameCycle live (myPid live))) = true ∧ (live.ctx (myCtx live)).priv = false ∧ (priv.ctx (myCtx priv)).priv = true ∧ (0x7FF : BitVec 11).toNat = 2047
    ∧ (0x020 : BitVec 11).toNat = 0x20 ∧ (0x0AF : BitVec 11).toNat = 0xAF ∧ live.now * 2700 / 1000000 < 1 := by decide

def xlArgs (a b : Word64) : State := inCtx fun c => { c with xlarg0 := a, xlarg1 := b, xlmode := true }
def xlBusy (r : XlRun) : State := inCtx fun c => { c with xl := some r }
/-- R87: INVAL drops the cached leaf of its range and no other; SEQ counts at the end. -/
theorem test_inval :
    (goes (exec (.inval 0 1 0) (xlArgs 0x1_0000 0)) (fun t => (t.clu 0).tlb.isEmpty && (t.ctx 0).xl.isSome
        && goes (exec (.xlcmdFinish 0) t) fun u => decide ((u.ctx 0).xlseq = 1) && decide ((u.ctx 0).xlerr = 0) && (u.ctx 0).xl.isNone)
    && goes (exec (.inval 0 1 0) (xlArgs 0x2_0000 0)) (fun t => decide ((t.clu 0).tlb.length = 1))
    && goes (exec (.inval 0 1 0) (xlBusy ⟨1, 1, 0, 0, 0, 0, 0, 0, []⟩)) (fun t => (t.ctx 0).xlovr)) = true := by decide
theorem witness_InvalDropsLeaves : ((xlBusy ⟨1, 1, 0, 0, 0, 0, 0, 0, []⟩).ctx 0).xl.isSome = true ∧ (live.ctx 0).xl = none ∧ 1 ≤ 2 ^ 32 - 1
    ∧ 0x1_0000 % 2 ^ pageBits 0 = 0 ∧ (2 ^ 56 - 0x1_0000) + 2 ^ pageBits 0 ≤ 2 ^ 56
    ∧ ((live.clu 0).tlb.all fun e => decide (e.ctx = 0)) = true ∧ (live.clu 0).tlb ≠ [] := by decide
theorem witness_TranslationCommands_finish : (live.ctx 0).xl = none ∧ (∃ r, ((xlBusy ⟨4, 1, 0, 0, 0, 0, 0, 0, []⟩).ctx 0).xl = some r ∧ r.err = 0 ∧ r.op = 4) :=
  ⟨by decide, ⟨4, 1, 0, 0, 0, 0, 0, 0, []⟩, by decide⟩
/-- R91: BIAS.DEV of one page, accepted and finished. -/
theorem test_bias : goes (exec (.biasDev 0 1 0) (xlArgs 0x3_0000 0)) (fun t => goes (exec (.xlcmdFinish 0) t) fun u =>
    decide (u.bias = [3]) && decide ((u.ctx 0).xlerr = 0)) = true := by decide
/-- A table of four nodes for the VA 0x10000, the leaf at 0x4000 + 8. -/
def pages : State := { xlArgs 0x1_0000 0x5_0000 with mem := [] } |>.modCtx 0 (fun c => { c with root := 1 }) |> fun s =>
  { s with mem := ((((s.mem.writeNat 0x1000 8 0x2003).writeNat 0x2000 8 0x3003).writeNat 0x3000 8 0x4003).writeNat 0x4000 8 0x5003).writeNat 0x5008 8 0x1_001D }
theorem witness_TranslationCommands_bias :
    (let s := xlArgs 0x3_0000 0
     decide ((s.ctx 0).xl = none) && decide ((s.ctx 0).xlarg0.toNat % 65536 = 0) && decide ((s.ctx 0).xlarg0.toNat + 65536 ≤ 2 ^ 40)) = true := by decide
def migrating : State := xlBusy ⟨3, 1, 0, 0, 0x1_0000, 0x5_0000, 0x1_0000, 0x5008, []⟩
theorem witness_TranslationCommands_migrate :
    (match (migrating.ctx 0).xl with
    | some r => decide (r.err = 0) && decide (r.op = 3) && decide (r.oldPa + 2 ^ pageBits r.size ≤ r.arg1) && decide (r.entry + 8 ≤ r.oldPa)
      && decide (r.entry + 8 ≤ r.arg1) && decide ((migrating.homeOf r.entry).owners = []) && decide ((migrating.homeOf r.entry).sharers = [])
      && decide (r.entry % 8 = 0) && migrating.mem.wf
    | none => false) = true := by decide

/-! ## Power -/

theorem test_power :
    (goes (exec (.tokenFlitInject 0) live) (fun t => decide ((t.die 0).cycle = 1) && decide ((t.die 0).ring.head? = some 64))
    && goes (exec (.clockStepDown 0) (live.modQuad 0 fun q => { q with f := 3, t := 1, stepAt := some (1, 0) })) (fun t => decide ((t.quad 0).f = 1))
    && goes (exec (.voltageRampReachesTarget 0) ({ live with now := 2000000 }.modQuad 0 fun q => { q with t := 1, ramp := true }))
      (fun t => decide ((t.quad 0).f = 1) && decide ((t.quad 0).mv = 600))
    && decide (tallowOf 97 20 20 = 1800) && decide (tallowOf 20 85 85 = 1531)
    && goes (exec (.junctionTrip 0) live) (fun t => (t.die 0).tripped && (t.ctx 0).evt.testBit 3)) = true := by decide
def purse (p : Purse) : State := inClu fun c => { c with purse := p }
theorem test_pay :
    (let s := purse { Purse.placed with tokens := 100 }
     decide ((pay s 0 100 100).2) && decide (((pay s 0 100 100).1.clu 0).purse.tokens = 25) && !(pay s 0 100 134).2
       && decide (((pay s 0 100 134).1.clu 0).purse.payers = [⟨100, 101, 0⟩])
       && goes (exec (.claimPost 0) (purse { Purse.placed with tokens := 100, starved := 136, payers := [⟨0, 2048, 0⟩] }))
         (fun t => decide ((t.clu 0).purse.claim = some ⟨1948, 0⟩))) = true := by decide
theorem witness_Payments :
    (let p : Purse := { Purse.placed with tokens := 100 }
     decide (p.payers = []) && decide (p.cut = none) && decide ((100 * 6 + 7) / 8 ≤ p.tokens) && decide (p.spend + 75 ≤ p.limit)
       && !(pay (purse p) 0 100 134).2 && (pay (purse p) 0 100 133).2) = true := by decide
theorem witness_SpendWindows :
    (let s := { purse { Purse.placed with payers := [⟨0, 5, 9⟩], tokens := 2048 } with now := 29091 }
     decide (64 ≤ (s.now - 0) * 2200 / 1000000) && decide ((29090 - 0) * 2200 / 1000000 < 64)
       && goes (exec (.spendWindowRollover 0) s) (fun t => decide ((t.clu 0).purse.windowStart = 29091) && decide ((t.clu 0).purse.limit = 2560))
       && (pay { s with now := 3 } 0 100 2048).2 && !(pay (purse { Purse.placed with spend := 2560, tokens := 4096 }) 0 100 8).2) = true := by decide
theorem witness_PowerAndTokens_steps :
    (let s := { live with now := 2000000 }.modQuad 0 fun q => { q with f := 0, t := 1, ramp := true }
     decide ((s.quad 0).ramp) && decide ((s.quad 0).stepAt = none) && decide ((s.now - (s.quad 0).reqAt) * 10 / 1000000 = 20)
       && decide ((live.quad 0).ramp = false)) = true := by decide
theorem witness_PowerAndTokens_ring :
    (live.pkg.powered && decide ((live.die 0).cycle ≤ live.now * 2700 / 1000000) && decide ((live.clu 0).purse.claim = none)
      && decide (live.now * 2700 / 1000000 < ((live.modDie 0 fun d => { d with cycle := 1 }).die 0).cycle)
      && decide (State.reset.pkg.powered = false)
      && (let s := purse { Purse.placed with starved := 136, payers := [⟨0, 2048, 0⟩] }
          decide ((s.clu 0).purse.claim = none) && s.flocks.any fun f => f.2.resident && f.2.clus.contains 0)) = true := by decide
theorem witness_PowerAndTokens_sensors :
    ((inPkg fun p => { p with fwrun := true }).pkg.fwrun && !live.pkg.fwrun && decide ((live.die 0).tj ≤ 95) && decide ((live.stk 1).temp < 85)
      && decide (((live.modStk 0 fun k => { k with refreshed := [(3, 0)] }).stk 0).refreshed.find 3 = some 0)
      && decide ((live.stk 0).refreshed.find 3 = none)) = true := by decide
theorem witness_PowerAndTokens_protections :
    (decide (((purse { Purse.placed with cut := some 0 }).clu 0).purse.cut = some 0) && decide ((live.clu 0).purse.cut = none)
      && decide ((inPkg fun p => { p with clampEnd := some 5 }).pkg.clampEnd = some 5) && decide (live.pkg.clampEnd = none)
      && !(live.die 0).tripped && ((live.modDie 0 fun d => { d with tripped := true }).die 0).tripped) = true := by decide

/-! ## GEXIT and ICINV -/

def withStream (st : Stream) : State := inThr fun x => { x with streams := [(0, st)], current := some 0 }
def oneWord : EWord := EWord.nop
theorem test_gexit :
    (goes (exec (.gexit false) live) (fun t => decide ((me t).status = .exited))
    && traps (exec (.gexit false) (handled (withStream { Stream.unbound with openRun := [oneWord] }))) .run 0x0B00_0000
    && goes (exec (.gexit false) (inThr fun x => { x with held := [⟨.lanefault, 0, 0⟩] })) (fun t => decide ((me t).status = .halted))) = true := by decide
/-- R339: a range of one byte drops the line that holds it. -/
theorem test_icinv :
    (goes (exec (.icinv false 4 5 1) (regs [0x1_00FF, 1])) (fun t => (me t).wait.isSome)
    && goes (exec (.icinv false 4 5 1) (paused (regs [0x1_00FF, 1]))) (fun t => (t.clu 0).icache.isEmpty)
    && goes (exec (.icinv false 4 5 1) (paused (regs [0x1_0100, 1]))) (fun t => decide ((t.clu 0).icache.length = 1))
    && goes (exec (.icinv false 4 5 6) (paused (regs [0, 0]))) (fun t => (t.clu 0).icache.isEmpty)) = true := by decide
theorem witness_ExitAndCodeCoherence :
    (decide ((rd (regs [0, 0x100_0000_0000]) 5).toNat = 2 ^ 40) && (me (paused (regs [0, 1]))).wait.isSome && (me live).wait.isNone && decide ((rd (regs [0x0100_0000_0000_0000]) 4).toNat = 2 ^ 56)
      && decide ((rd (regs [0xFF00_0000_0000_0000]) 4).toNat = 2 ^ 64 - 2 ^ 56)
      && decide ((me (inThr fun x => { x with capture := some (1, []) })).capture = some (1, [])) && decide ((me live).held = [])
      && decide ((me (inThr fun x => { x with held := [⟨.lanefault, 0, 0⟩] })).held ≠ [])
      && (me (withStream { Stream.unbound with openRun := [oneWord] })).streams.any fun e => !e.2.openRun.isEmpty) = true := by decide

/-! ## Generator accesses -/

def okAt (r : State × Except Cause Nat) (pa : Nat) : Bool := match r.2 with
  | .ok x => decide (x = pa)
  | .error _ => false
def failsWith (r : State × Except Cause Nat) (c : Cause) : Bool := match r.2 with
  | .ok _ => false
  | .error x => decide (x = c)

/-- R328: a 64-bit load at g4 + 8, a misaligned one, and one of a page that no table maps. -/
theorem test_loads :
    (goes (exec (.ldgB64 false 5 4 0 false 1) (regs [0x1_0100])) (fun t => decide (t.ops.map (fun o => (o.place, o.n)) = [(.glob 0x1_0108 0x1_0108, 8)])
        && decide ((me t).out = [⟨5, .mem 0⟩]) && decide ((me t).pc = 0x1_0004))
    && traps (exec (.ldgN16 false 5 4 0 false 0) (handled (regs [0x1_0101]))) .align 0x1_0101
    && traps (exec (.ldgN8 false 5 4 0 false 0) (handled (regs [0x2_0000]))) .notmapped 0x2_0000) = true := by decide +kernel
theorem witness_GeneratorLoads : ((me (regs [0x1_0100])).acqOp = none) ∧ okAt (translate live 0 0 0x1_0108 .load) 0x1_0108 = true
    ∧ failsWith (translate live 0 0 0x2_0000 .load) .notmapped = true ∧ (rd (regs [0x1_0101]) 4).toNat % 2 ≠ 0
    ∧ ((live.clu 0).l1.all fun x => decide (x.uo = none)) = true := by decide +kernel
/-- R328, R301: a 16-bit store changes memory when it performs, its two bytes in little-endian order. -/
theorem test_stores : goes (exec (.stgB16 false 5 4 0 false 6 0) (regs [0x1_0200, 0x12_3456])) (fun t => decide (t.mem = live.mem)
    && goes (exec (.homeWritePerform 0) t) fun u => decide (u.mem.readList 0x1_01FF 4 = [0, 0x56, 0x34, 0]) && u.ops.isEmpty) = true := by decide +kernel
theorem witness_GeneratorStores : okAt (translate live 0 0 0x1_0200 .store) 0x1_0200 = true ∧ failsWith (translate live 0 0 0x2_0000 .store) .notmapped = true
    ∧ (me live).acqOp = none := by decide +kernel
/-- R294: a 32-bit GATOM ADD; its control value is g7. -/
theorem test_gatom :
    (goes (exec (.gatom false 8 6 4 0) (regs [5, 0, 0x1_0300, 0])) (fun t => decide (t.ops.map (fun o => (o.deed, o.dest)) = [(.atomic 0 5 0 false, .gen 8 false)]))
    && traps (exec (.gatom false 8 6 4 1) (handled (regs [5, 0, 0x1_0300, 1]))) .atomarg 0x1E90_3081
    && traps (exec (.gatom false 8 6 4 0) (handled (regs [5, 0, 0x1_0302, 0]))) .align 0x1_0302) = true := by decide +kernel
theorem witness_GeneratorAtomics :
    (let good (ctl op d b : Nat) : Bool := decide (ctl < 2 ^ 16) && decide (ctl / 2 ^ 13 % 8 ≤ 6) && decide (ctl / 4 % 64 = 0) && decide (ctl % 4 ≠ 3)
       && (decide (op = 10) || (decide (op = 1) && decide (ctl % 4 = 0)) || (decide (op ≠ 1) && decide (ctl % 4 ≤ 1)))
       && (decide (ctl % 4 ≠ 2) || (decide (d % 2 = 0) && decide (b % 2 = 0) && decide (d ≠ 0)))
     good 0xC802 10 8 4 && good 1 0 8 5 && !good 0xE000 0 8 4 && !good 1 1 8 4 && decide (0xC802 / 2 ^ 11 % 4 = 1)
       && okAt (translate live 0 0 0x1_0300 .atomic) 0x1_0300 && failsWith (translate live 0 0 0x2_0000 .atomic) .notmapped) = true := by decide +kernel
def pendingStore : State := outState (exec (.stgB16 false 5 4 0 false 6 0) (regs [0x1_0200, 7])) live
/-- R312: a release waits for the thread's own store, and completes where nothing is out. -/
theorem test_fence :
    (goes (exec (.fence false 2 6) pendingStore) (fun t => (me t).wait.isSome && decide ((me t).pc = 0x1_0004))
    && goes (exec (.fence false 3 6) live) (fun t => decide ((me t).pc = 0x1_0004))) = true := by decide +kernel
theorem witness_Fences : ((me pendingStore).acqOp = none ∧ (me pendingStore).wait = none ∧ (2 : BitVec 2).getLsbD 1 = true)
    ∧ (pendingStore.ops.any fun o => decide (o.tid = pendingStore.cur) && decide (o.str = none) && decide (o.deed ≠ .load)) = true
    ∧ live.ops = [] ∧ (me live).streams = [] ∧ (me live).hor.rel 6 = 0 ∧ (1 : BitVec 2).getLsbD 0 = true := by decide +kernel

/-! ## Accesses at the home, fills, owners, sharers -/

def firstOp (s : State) : MemOp := s.ops.headD default
theorem witness_StoresPerform :
    (let s := pendingStore
     let o := firstOp s
     decide (findOp s o.id = some o) && decide (o.place = .glob 0x1_0200 0x1_0200) && decide (o.deed = .store 7) && decide (o.dest = .none) && decide (o.made = none)
       && (s.flk o.tid.fid).resident && !blockedBySame s o && decide (stashVa s o.pid 0x1_0200 = none) && !writeHeld s 0x1_0200
       && !uoAwaited s o.pid 0x1_0200 && decide (0 < o.n) && decide (0x1_0200 % 32 + o.n ≤ 32) && decide ((s.homeOf 0x1_0200).owners = [])
       && decide ((s.homeOf 0x1_0200).sharers = []) && s.mem.wf && decide (findOp s 9 = none)) = true := by decide +kernel
def sector (x : L1Sector) : State := inClu fun c => { c with l1 := [⟨0x102, 0, [(1, x)], none⟩] }
def asked : L1Sector := ⟨List.replicate 32 9, 0, 0, 0, true, false, 1, 1000⟩
/-- R303, R308: the home grants what memory holds, a byte that its own cluster has written included; the fill lands; the lease
ends. -/
theorem test_lease :
    (goes (exec (.leaseGrant 0 0 0x1_0220) (sector asked)) (fun t => (l1Sec t 0 0x1_0220).any fun y => y.granted && decide (y.expiry = 1000)
        && decide (y.data.headD 9 = 0) && decide (y.data.getD 1 9 = 0))
    && goes (exec (.sectorFillLand 0 0x1_0220) (sector { asked with granted := true })) (fun t => (l1Sec t 0 0x1_0220).any fun y => !y.pending)
    && goes (exec (.leaseExpiry 0 0x1_0220) (sector { asked with pending := false })) (fun t => decide (l1Sec t 0 0x1_0220 = none))) = true := by decide +kernel
theorem witness_LeasesAndFills : l1Sec (sector asked) 0 0x1_0220 = some asked ∧ asked.pending = true ∧ asked.granted = false ∧ readHeld (sector asked) 0x1_0220 = false
    ∧ ((sector asked).homeOf 0x1_0220).owners = [] ∧ ((sector asked).homeOf 0x1_0220).sharers = [] ∧ asked.expiry ≤ (sector asked).now / 1000
    ∧ (sector asked).now / 1000 < 1 := by decide +kernel
def entry (st : StashSt) : StashEnt := ⟨0, 0, 0x1_0400, 256, 0x100, [(1, st)]⟩
def stashed (st : StashSt) : State := inClu fun c => { c with stash := [entry st] }
def owned (t : Nat) : State :=
  (stashed (.dirty 0x1_0420 0 t)).modHome 0x1_0420 (fun h => { h with owners := [(1, (0, 0x1_0420))] }) |> fun s =>
    { s with ops := [{ (default : MemOp) with tid := t0, pid := 1, place := .glob 0x1_0420 0x1_0420, n := 4, deed := .load, dest := .gen 5 false }] }
theorem test_stash :
    (goes (exec (.stashOwnershipGrant 0 0x1_0420) (stashed (.pending 0x1_0420 none 0))) (fun t => decide ((t.homeOf 0x1_0420).owners = [(1, (0, 0x1_0420))]))
    && goes (exec (.sectorFillLand 0 0x1_0420) (stashed (.pending 0x1_0420 (some 0) 0))) (fun t => decide (((t.clu 0).stash.map (·.sectors)) = [[(1, .clean 0x1_0420 0)]]))
    && goes (exec (.stashRecall 0x1_0420) (owned 3)) (fun t => decide ((t.homeOf 0x1_0420).owners = []))) = true := by decide +kernel
theorem witness_StashOwnership :
    (let s := stashed (.pending 0x1_0420 none 0)
     decide (stashVa s 0 0x1_0420 = some (entry (.pending 0x1_0420 none 0))) && (s.flk 0).resident && decide (0x1_0420 % 32 = 0) && s.mem.wf && (s.localMem 0 0).wf
       && leasesOver s 0x1_0420 && !lockHeld s 0x1_0420 && !flipHeld s 0x1_0420 && decide ((s.homeOf 0x1_0420).owners = []) && decide ((s.homeOf 0x1_0420).sharers = [])
       && decide (l1Sec s 0 0x1_0420 = none) && decide ((entry (.dirty 0x1_0420 0 3)).st 1 = .dirty 0x1_0420 0 3)
       && waitsAtHome (owned 3) 0x1_0420 32 (fun _ => true) && !waitsAtHome s 0x1_0420 32 (fun _ => true)) = true := by decide +kernel
def uoLine (u : UoLine) : State := inClu fun c => { c with l1 := [⟨0x102, 0, [], some u⟩] }
def newUo : UoLine := ⟨0, 4, [(3, 5)], none, false, 0⟩
def shared : State := { (uoLine { newUo with ut := some 0 }).modHome 0x1_0200 (fun h => { h with sharers := [0] }) with
  ops := [{ (default : MemOp) with tid := t0, pid := 1, place := .glob 0x1_0200 0x1_0200, n := 4, deed := .load, dest := .gen 5 false }] }
/-- R298, R299: element 3 of a 4-byte sum gathered 5; a combine for a load adds it to memory. -/
theorem test_update_only :
    (goes (exec (.updateOnlyGrant 0 0x102 true) (uoLine newUo)) (fun t => decide ((t.homeOf 0x1_0200).sharers = [0]))
    && goes (exec (.updateOnlyGrant 0 0x102 false) (uoLine newUo)) (fun t => decide (uoAt (t.clu 0) 0x102 = some { newUo with vals := [], refused := true }))
    && goes (exec (.updateOnlyCombine 0x102) shared) (fun t => decide (t.mem.read 0x1_020C = 5) && decide ((t.homeOf 0x1_0200).sharers = []))) = true := by decide +kernel
theorem witness_UpdateOnlyLines : uoAt ((uoLine newUo).clu 0) 0x102 = some newUo ∧ leasesOver (uoLine newUo) 0x1_0200 = true ∧ uoAt (live.clu 0) 0x102 = none
    ∧ (waitsAtHome shared 0x1_0200 256 fun o => !gathers shared o) = true ∧ (shared.homeOf 0x1_0200).sharers ≠ []
    ∧ (waitsAtHome live 0x1_0200 256 fun o => !gathers live o) = false := by decide +kernel

/-! ## Walks, host accesses, fetch -/

/-- R78, R82: the walk for 0x10000 sets the A bit (bit 5) of the leaf. -/
theorem test_walk : goes (exec (.tableWalk 0 0 0x1_0000) (pages.modClu 0 fun c => { c with tlb := [] })) (fun t =>
    (t.mem.readNat 0x5008 8).testBit 5 && decide ((t.clu 0).tlb.length = 1)) = true := by decide +kernel
theorem witness_WalksAndFills :
    (let s := pages.modClu 0 fun c => { c with tlb := [] }
     (s.flocks.any fun f => decide (f.2.ctx = 0) && f.2.resident && f.2.clus.contains 0) && canonical 0x1_0000 && (s.ctx 0).en && s.mem.wf
       && decide (cachedLeaf s 0 0 0x1_0000 = none) && (match (walkBy atHome s 0 0 0x1_0000).2 with
         | .ok l => decide (l.1.pa = 0x1_0000) && decide (l.1.entry = 0x5008)
         | .error _ => false)
       && !canonical (2 ^ 56) && !(State.reset.ctx 0).en && (live.threads.any fun e => decide (e.1.fid = 0) && decide (e.2.status = .running) && decide (e.2.pc.toNat = 0x1_0000))
       && okAt (translate live 0 0 0x1_0000 .fetch) 0x1_0000) = true := by decide +kernel
/-- R74: HB is 0 here; the last byte of device memory, and the first beyond it. -/
theorem test_host :
    (goes (exec (.hostCxlMemAccess true (2 ^ 40 - 1) 1 0x1AB) live) (fun t => decide (t.mem.read (2 ^ 40 - 1) = 0xAB))
    && (match exec (.hostCxlMemAccess true (2 ^ 40) 1 0) live with
      | .fault (.noSuchAddress a) => decide (a = 2 ^ 40)
      | _ => false)
    && goes (exec (.cxlCacheSnoop 0x1_0200) (sector asked)) (fun t => (t.clu 0).l1.all fun l => l.sectors.isEmpty)) = true := by decide +kernel
theorem witness_HostAccesses : live.mem.wf = true ∧ live.pkg.hb = 0 ∧ State.reset.pkg.stage < 2 ∧ 2 ≤ live.pkg.stage ∧ 1 ∉ live.bias
    ∧ (live.homeOf 0x1_0000).owners = [] ∧ devBiased { live with bias := [1] } 0x1_0000 = true ∧ devBiased live 0x1_0000 = false := by
  refine ⟨by decide, by decide, by decide, by decide, by decide, by decide, by decide, by decide⟩
theorem witness_HostAccesses_edge : 0 + 2 ^ 40 < 2 ^ 40 + 1 ∧ 0 ≤ 2 ^ 40 - 1 ∧ 2 ^ 40 - 1 + 1 ≤ 0 + 2 ^ 40 := by omega
def hostLoad : State := { inThr (fun x => { x with hostOp := some (4, 4), tvec := 0x2000, out := [⟨5, .mem 4⟩] }) with
  ops := [{ (default : MemOp) with id := 4, tid := t0, place := .glob 0x1_0200 (2 ^ 51), n := 8, deed := .load, dest := .gen 5 false }] }
def hostStore : State := { live with ops := [{ (default : MemOp) with id := 4, tid := t0, place := .glob 0x1_0200 (2 ^ 52 - 8), n := 8, deed := .store 5 }] }
theorem test_cxlerr : goes (exec (.cxlerr 4) hostLoad) (fun t =>
    decide ((t.thr t0).tcause = 0x17) && decide ((t.thr t0).tval = 0x1_0200) && decide ((t.thr t0).out = [])) = true := by decide +kernel
theorem witness_HostAccesses_errors :
    (let o := firstOp hostLoad
     decide (findOp hostLoad o.id = some o) && isHost (2 ^ 51) && !isHost (2 ^ 40) && decide (o.made = none) && (hostLoad.flk o.tid.fid).resident && decide (o.str = none)
       && decide ((hostLoad.thr o.tid).hostOp = some (o.id, 4)) && !(hostLoad.thr o.tid).intrap && decide ((hostLoad.thr o.tid).tvec.toNat / 4 ≠ 0)
       && decide ((firstOp hostStore).deed = .store 5)) = true := by decide +kernel

/-! ## Streams, reels, votes, masks -/

def boundStream : Stream := { Stream.unbound with gmask := 1, cmask := 1 }
theorem test_streams :
    (goes (exec (.strBind false 4 5 2) (regs [1, 0])) (fun t => decide (strOf t t0 2 = { Stream.unbound with bind := 0, gmask := 1, cmask := 1 }) && decide ((me t).current = some 2))
    && traps (exec (.strBind false 4 5 2) (handled (regs [2, 0]))) .strarg 0x1A00_20A2 && traps (exec (.strSel false 3) (handled live)) .stream 0x1A80_0003
    && goes (exec (.strFree false 0) (withStream boundStream)) (fun t => decide ((strOf t t0 0).gmask = 0) && decide ((me t).current = none))) = true := by decide +kernel
theorem witness_StreamWords : (strOf (withStream boundStream) t0 0).gmask ≠ 0 ∧ (strOf live t0 0).gmask = 0 ∧ (1 : Nat) < 2 ^ (myFlk live).rcd.groups
    ∧ (2 ^ live.cur.clu).testBit live.cur.clu = true ∧ popCount 16 1 ≤ 8 ∧ 1 < 2 ^ (myFlk live).clus.length ∧ ¬(2 : Nat) < 2 ^ (myFlk live).rcd.groups := by decide +kernel
def reelWord : BitVec 64 := encLane 0x186 (w 0 0 0 0 0)
def reelState : State := ((withStream boundStream).modCtx 0 fun c => { c with reels := [(7, [reelWord])] }).modFlk 0 fun f => { f with rcd := { f.rcd with reels := 0x20_0000 } }
def withG4 (v : Word64) (s : State) : State := s.modThr t0 fun x => { x with g := [(4, v)] }
theorem test_reels :
    (goes (exec (.reelOpen false 4) (withG4 1023 reelState)) (fun t => decide ((me t).capture = some (1023, [])))
    && traps (exec (.reelOpen false 4) (handled (withG4 1024 reelState))) .reelarg 0x1800_2000
    && goes (exec (.reelPlay false 4) (withG4 7 reelState)) (fun t => decide ((strOf t t0 0).plays.map (·.num) = [7])
        && goes (exec (.reelPlayFeed 0 0 0 0) t) fun v => decide ((strOf v t0 0).plays.map (·.ready) = [true])
          && goes (exec (.reelPlayFeed 0 0 0 0) v) fun u => decide ((strOf u t0 0).playRun.length = 1) && decide ((strOf u t0 0).plays = []))) = true := by decide +kernel
theorem witness_Reels :
    (let s := withG4 7 reelState
     let p := outState (exec (.reelPlay false 4) s) s
     decide (curStream (me s) = some (0, boundStream)) && decide ((rd s 4).toNat < 1024) && decide ((myFlk s).rcd.reels ≠ 0) && decide ((me s).capture = none)
       && decide ((s.ctx 0).reels.find 7 = some [reelWord]) && decide ((me s).out = []) && decide (playCheck s (some boundStream) [] reelWord = none)
       && (myFlk p).resident && !(myFlk p).preReq && !bufferFull p t0 0 && decide ((lOp reelWord).toNat = 0x186) && !usesCode 0x186 (laneFields reelWord)
       && decide (handleWord p 0 (withUniforms (bindOf []) reelWord 0) = none)
       && decide ((me (inThr fun x => { x with capture := some (3, [reelWord]) })).capture = some (3, [reelWord]))) = true := by decide +kernel
def vote (present popped : Bool) (need : List (Nat × Nat)) : VoteEnt := ⟨0, 5, 0, 1, need, 0xF, 0, present, popped⟩
def voting (vs : List VoteEnt) : State := inThr fun x => { x with votes := vs, out := [⟨6, .vote 0 5⟩] }
theorem test_votes :
    (traps (exec (.vqPop false 5) (handled live)) .vqempty 0x130A_0000
    && goes (exec (.voteEntryPresent 0 0 0) (voting [vote false false []])) (fun t => decide ((me t).votes = [vote true false []]))
    && goes (exec (.vqPop false 5) (voting [vote false false []])) (fun t => decide ((me t).out.length = 2) && (me t).votes.all (·.popped))) = true := by decide +kernel
theorem witness_VoteQueue : (me live).votes.filter (fun v => !v.popped) = [] ∧ (vote true true []).popped = true ∧ (vote false false []).present = false
    ∧ (me (voting [vote false true []])).out = [⟨6, .vote 0 5⟩] ∧ (vote false true []).need = [] := by decide +kernel
theorem test_masks :
    (traps (exec (.maskRd false 5 4 0) (handled (regs [0]))) .strarg 0x1C0A_2000
    && goes (exec (.maskRd false 5 4 0) (withG4 0 (withStream boundStream))) (fun t => decide ((me t).out = [⟨5, .value 0xFFFF_FFFF⟩]))
    && goes (exec (.maskWr false 4 5) ((withStream boundStream).modThr t0 fun x => { x with g := [(4, 0), (5, 0xF0F)] })) (fun t => decide ((t.grp 0 0 0).ex = 0xF0F))
    && goes (exec (.exmaskWrite 0 0xFF) (live.setGrp 0 0 0 { Group.placed with park := 1 })) (fun t => decide ((t.grp 0 0 0).ex = 0xFE))) = true := by decide +kernel
theorem witness_MaskWords : curStream (me (withStream boundStream)) = some (0, boundStream) ∧ boundStream.gmask.testBit 0 = true ∧ curStream (me live) = none
    ∧ boundStream.plays = [] ∧ boundStream.openRun = [] ∧ boundStream.runs = [] ∧ boundStream.masks = [] ∧ boundStream.cmask = 2 ^ t0.clu ∧ boundStream.prog = []
    ∧ strOf (withStream boundStream) t0 0 = boundStream ∧ maskSlot live 0 = none ∧ 0 < (myFlk live).rcd.groups ∧ (myFlk live).rcd.groups ≤ 1 ∧ maskSlot live 1 = none
    ∧ ({ boundStream with plays := [⟨7, [reelWord], [], 0, 0, true⟩] } : Stream).plays ≠ [] := by decide +kernel

/-! ## Emission and arrivals -/

def trailer : BitVec 64 := 0xF800_0000_0006_0000
theorem test_emission :
    (goes (exec (.laneWordEmit reelWord) (withStream boundStream)) (fun t => decide ((strOf t t0 0).openRun.map (·.w) = [reelWord]) && decide ((me t).pc = 0x1_0008)
        && goes (exec (.laneWordEmit trailer) t) fun u => decide ((strOf u t0 0).openRun = []) && decide ((strOf u t0 0).runs.length = 1))
    && traps (exec (.laneWordEmit reelWord) (handled live)) .stream reelWord && traps (exec (.laneWordEmit trailer) (handled (withStream boundStream))) .run trailer
    && traps (exec (.laneWordEmit 0xC000_0000_0000_0001) (handled live)) .illegal 0xC000_0000_0000_0001
    && traps (exec (.laneWordEmit (encLane 0x300 (w 0 0xC1 0xC2 0xC4 0))) (handled (withStream boundStream))) .role (encLane 0x300 (w 0 0xC1 0xC2 0xC4 0))) = true := by decide +kernel
def fullRun : Stream := { boundStream with openRun := List.replicate 32 oneWord }
theorem witness_LaneWordEmission :
    (let s := withStream boundStream
     !emitHeld s && (assigned 0x186 && (laneFields reelWord).ok 0x186) && roleOk (me s).role 0x186 && !roleOk .vector 0x300 && !(assigned 0 && (laneFields 0xC000_0000_0000_0001).ok 0)
       && decide (curStream (me live) = none) && decide (32 ≤ fullRun.openRun.length) && !(laneFields reelWord).t && decide (strOf s t0 0 = boundStream)
       && decide (argCheck s 0 1 (withUniforms (fun _ => 0) reelWord 0) = none) && (isCopyOp 0x300 && !(laneFields (encLane 0x300 ⟨0, 0xC1, 0xC2, 0xC4, false, 3, 0, false, 0⟩)).always)
       && decide (({ oneWord with w := encLane 0x318 (w 0 0xC1 0xC2 0 0) } : EWord).op = 0x318)) = true := by decide +kernel
def naLoad : State := outState (exec (.ldgN8 false 5 4 0 true 0) (regs [0x1_0000])) live
theorem test_arrival :
    (goes (exec (.generatorResultArrival 0 0 0 5) (inThr fun x => { x with out := [⟨5, .value 9⟩] })) (fun t => decide ((me t).gr 5 = 9) && decide ((me t).out = []))
    && goes (exec (.generatorResultArrival 0 0 0 5) { naLoad with mem := naLoad.mem.write 0x1_0000 0x9C }) (fun t => decide ((me t).gr 5 = 0x9C) && t.ops.isEmpty)
    && goes (exec (.uniResultArrival 0 0 0 5) (inThr fun x => { x with out := [⟨5, .uni 0 0 oneWord [(0, 0)] [] [(0, 0, 3, 8), (0, 0, 4, 8)]⟩] })) (fun t => decide ((me t).gr 5 = 8))
    && goes (exec (.uniResultArrival 0 0 0 5) (inThr fun x => { x with out := [⟨5, .uni 0 0 oneWord [(0, 0)] [] [(0, 0, 3, 8), (0, 0, 4, 9)]⟩] })) (fun t =>
        decide ((me t).held.map (·.cause) = [.unidiff]))) = true := by decide +kernel
theorem witness_GeneratorResultsArrive :
    (let s := naLoad
     let o := firstOp s
     decide ((me s).out = [⟨5, .mem o.id⟩]) && decide (findOp s o.id = some o) && decide (o.tid = s.cur) && decide (o.str = none) && decide (o.made = none) && decide (o.deed = .load)
       && decide (o.dest = .gen 5 false) && decide (o.place = .glob 0x1_0000 0x1_0000) && decide (o.n = 1) && decide (o.alt = []) && (myFlk s).resident && !blockedBySame s o
       && decide (stashVa s o.pid 0x1_0000 = none) && !flipHeld s 0x1_0000 && o.na && !o.acq && decide (uoAt (s.clu o.pid) (lineOf 0x1_0000) = none)
       && decide (l1Hit s o.pid 0x1_0000 = none) && decide ((s.homeOf 0x1_0000).owners = []) && decide ((s.homeOf 0x1_0000).sharers = []) && decide ((me live).held = [])) = true := by decide +kernel

/-! ## Launches and queues -/

def devQueue : Queue := { Queue.reset with loaded := true, dev := true, wbase := 0x2_0000, log2n := 1, t := 3, h := 2 }
/-- A queue 9, and a source record that a stash entry serves. -/
def launcher (k : Queue) : State := ((regs [0x1_0100, 9]).modQue 9 (fun _ => k)).modClu 0 (fun c => { c with
    stash := [⟨0, 0, 0x1_0100, 256, 0x100, (List.range 8).map fun j => (j, .clean (0x1_0100 + 32 * j) 0)⟩] }) |> fun s => s.localWrite 0 0 0x100 [0x5A]
/-- R404: the queue of another kind answers 2, a full window 1; a free slot takes the record, the lap's seal, and answers its number. -/
theorem test_launch :
    (goes (exec (.launch false 6 4 5) (launcher { devQueue with dev := false })) (fun t => decide ((me t).gr 6 = 2))
    && goes (exec (.launch false 6 4 5) (launcher { devQueue with h := 1 })) (fun t => decide ((me t).gr 6 = 1))
    && goes (exec (.launch false 6 4 5) (launcher devQueue)) (fun t => decide ((me t).gr 6 = 0x3_0000_0000) && decide (t.mem.read 0x2_0100 = 0x5A)
        && decide (t.mem.read 0x2_01FF = 0x81) && decide ((t.que 9).t = 4))) = true := by decide +kernel
theorem witness_Launches :
    (let s := launcher devQueue
     let r := translate s 0 0 0x1_0100 .load
     okAt r 0x1_0100 && (match readSectors 8 0x1_0100 0x1_0100 r.1 with
       | (u, some rec) => decide (rec.length = 256) && releaseDone u u.cur true 6 [] && u.mem.wf && decide ((u.que 9).t - (u.que 9).h < 2 ^ (u.que 9).log2n)
           && decide ((u.homeOf 0x2_0100).owners = []) && decide ((u.homeOf 0x2_0100).sharers = [])
       | (_, none) => false)
       && decide ((rd (regs [0x1_0080]) 4).toNat % 256 ≠ 0) && decide (2 ^ 17 ≤ (rd (regs [0, 0x2_0000]) 5).toNat)
       && failsWith (translate live 0 0 0x2_0000 .load) .notmapped) = true := by decide +kernel
def descriptor : State := { live with mem := ((((live.mem.writeNat 0x3_0480 8 0x4_0000).writeNat 0x3_0489 1 5).writeNat 0x3_0492 1 1).writeNat 0x3_04A0 8 1) }
  |>.modPkg fun p => { p with qtbase := 0x3_0000 }
/-- A command of queue 9 runs. -/
def commanded (op : Nat) (s : State) : State := s.modPkg fun p => { p with qcmd := some (op, 9) }
/-- R386, R387: LOAD of queue 9 starts, and reads the descriptor at QTBASE + 128 × 9. -/
theorem test_queues :
    (goes (exec (.load 9) (commanded 1 descriptor)) (fun t => (t.que 9).loaded && decide ((t.que 9).prio = 5) && decide ((t.que 9).wbase = 0x4_0000) && decide ((t.que 9).mask = [0])
        && decide (t.pkg.qseq = 1) && decide (t.pkg.qerr = 0))
    && goes (exec (.load 9) descriptor) (fun t => decide (t.pkg.qcmd = some (1, 9)) && !(t.que 9).loaded)
    && goes (exec (.unload 9) (commanded 2 live)) (fun t => decide (t.pkg.qerr = 3))
    && goes (exec (.load 9) (commanded 1 (live.modPkg fun p => { p with stage := 1 }))) (fun t => decide (t.pkg.qerr = 2))) = true := by decide +kernel
theorem witness_WorkQueues : State.reset.pkg.stage = 0 ∧ descriptor.pkg.stage = 3 ∧ (descriptor.que 9).loaded = false ∧ descAt descriptor 9 = some 0x3_0480
    ∧ descOk descriptor (descriptor.mem.readList 0x3_0480 128) = true ∧ ((launcher devQueue).que 9).loaded = true := by decide +kernel


/-! ## Barriers and stage rings -/

/-- Four slots in the pool of the flock, and general registers from g4 upward. -/
def bars (l : List ((Nat × Nat) × BarSlot)) (g : List Word64) : State :=
  (regs g).modFlk 0 fun f => { f with rcd := { f.rcd with bars := 4 }, bars := l }
def bar0 : BarSlot := { BarSlot.free with gen := 3, used := true, e0 := 1, e := 1 }
def bar1 (g : List Word64) : State := bars [((0, 1), bar0)] g
def ringSlot (n : Nat) : BarSlot := { BarSlot.free with gen := 3, used := true, kind := 3, e0 := 1, e := 1, ec := 1, ring := n }
def ring (g : List Word64) : State := bars [((0, 1), ringSlot 2), ((0, 2), ringSlot 0)] g

/-- R364, R370 to R374: a handle is generation, member, slot and kind; an arrival that meets E completes the phase. -/
theorem test_barriers :
    (goes (exec (.barNew false 6 4 5 false 0) (bars [] [0x2_0002, 7])) (fun t => decide ((me t).gr 6 = 0x200) && decide ((barAt t 0 (0, 2)).e = 2)
        && decide ((barAt t 0 (0, 2)).b0 = 7))
    && traps (exec (.barNew false 6 4 5 false 0) (handled (bars [] [2, 0]))) .bararg (wordOf (.barNew false 6 4 5 false 0))
    && goes (exec (.barExpect false 6 4 5 false) (bar1 [0x30_0100, 0x100_0000_0000])) (fun t => decide ((me t).gr 6 = 0) && decide ((barAt t 0 (0, 1)).e = 2))
    && goes (exec (.barArrive false 6 4 5) (bar1 [0x30_0100, 1])) (fun t => decide ((me t).gr 6 = 0) && decide ((barAt t 0 (0, 1)).phase = 1))
    && traps (exec (.barArrive false 6 4 5) (handled (bar1 [0x30_0100, 0]))) .bararg (wordOf (.barArrive false 6 4 5))
    && traps (exec (.barArrive false 6 4 5) (handled (bar1 [0x40_0100, 1]))) .bargen (wordOf (.barArrive false 6 4 5))) = true := by decide +kernel
theorem test_waits :
    (goes (exec (.barWait false 6 4 5) (bar1 [0x30_0100, 1])) (fun t => decide ((me t).gr 6 = 0) && decide ((me t).pc = 0x1_0004))
    && goes (exec (.barWait false 6 4 5) (bar1 [0x30_0100, 0x1_0000])) (fun t => (me t).wait.isSome
        && goes (exec (.barWaitTimeout 0 0 0) { t with now := 10000 }) fun u => decide ((me u).gr 6 = 0x1_0000) && decide ((me u).pc = 0x1_0004))
    && goes (exec (.barFree false 4) (bar1 [0x30_0100])) (fun t => decide ((barAt t 0 (0, 1)) = { BarSlot.free with gen := 4 }))
    && goes (exec (.barFree false 4) (ring [0x30_01C0])) (fun t => decide ((barAt t 0 (0, 2)) = { BarSlot.free with gen := 4 }))) = true := by decide +kernel
/-- R379 to R381: the producer's arrival is deferred; once made, stage 0 is full, and the consumer takes it. -/
theorem test_stage :
    (goes (exec (.stagePut false 6 4 5 2) (ring [0x30_01C0, 0, 0])) (fun t => decide ((me t).gr 6 = 1)
        && goes (exec (.deferredStageOperation 0 0 0) t) fun u => decide ((barAt u 0 (0, 1)).phase = 1) && decide ((me u).deferred = [])
          && goes (exec (.stageTake false 5 4 2 false) u) fun v => decide ((me v).gr 5 = 1))
    && goes (exec (.stageTake false 6 4 2 true) (ring [0x30_01C0, 0, 1])) (fun t => decide ((me t).deferred.map (fun d => (d.slot, d.release)) = [(1, true)]))
    && goes (exec (.bardoor 0 0x1_0030_0120) (bars [((0, 1), { bar0 with ext := true })] [])) (fun t => decide ((barAt t 0 (0, 1)).phase = 1))
    && goes (exec (.bardoor 0 0x0030_0120) (bars [((0, 1), { bar0 with ext := true })] [])) (fun t => (t.ctx 0).doorErr)) = true := by decide +kernel

def ready (b : BarSlot) : Bool := phaseDone (bars [] []) 0 b
theorem witness_BarriersAndStages_phases :
    (!ready { bar0 with e := 2, arr := 1 } && ready { bar0 with arr := 5 } && decide ({ bar0 with arr := 5 }.e0 = 1) && ready { bar0 with e := 0, e0 := 0 }
      && ready { bar0 with kind := 1, e := 0, e0 := 0, scope := [(0, 1)], arrived := [((0, 0), 0xFFFF_FFFF)] }
      && !ready { bar0 with kind := 1, scope := [(0, 1)], arrived := [((0, 0), 1)] } && ready { bar0 with kind := 1, scope := [] }
      && ready { ringSlot 2 with arr := 1 } && !ready (ringSlot 2) && ready { ringSlot 2 with phase := 1, rels := 1 } && !ready { ringSlot 2 with phase := 1 }
      && decide (barAt (bar1 []) 0 (0, 1) = bar0)) = true := by decide +kernel
theorem witness_BarriersAndStages_new :
    (let s := bars [((0, 1), bar0)] []
     barNewOk s 0 0x1_0000 0 && barNewOk s 0 (0xFFFF_0003) (2 ^ 40 - 1) && !barNewOk s 0 0xFFFF_0004 0 && barNewOk s 1 3 0 && barNewOk s 2 3 0 && !barNewOk s 2 0x1_0003 0
       && barNewOk s 3 0x401_00FF_0000 0 && !barNewOk s 3 0x401_0100_0000 0 && !barNewOk s 3 0x401_0001_0001 0 && (curStream (me s)).isNone
       && (curStream (me (withStream boundStream))).isSome && (barAt s 0 (0, 1)).used && !(barAt s 0 (0, 2)).used) = true := by decide +kernel
def passes (r : Except Cause (Nat × Nat)) (k : Nat × Nat) : Bool := match r with
  | .ok x => decide (x = k)
  | .error _ => false
def stops (r : Except Cause (Nat × Nat)) (c : Cause) : Bool := match r with
  | .ok _ => false
  | .error x => decide (x = c)
theorem witness_BarriersAndStages_words :
    (let s := bar1 []
     passes (handleCheck s 0 0x30_0100 fun y => decide (y.kind ≤ 2)) (0, 1) && passes (handleCheck s 0 0x30_0100 fun y => decide (y.kind = 0) && !y.ext) (0, 1)
       && stops (handleCheck s 0 0x30_0101 fun _ => true) .bararg && stops (handleCheck s 0 0x30_0400 fun _ => true) .bararg
       && stops (handleCheck s 0 0x30_0200 fun _ => true) .barstate && stops (handleCheck s 0 0x20_0100 fun _ => true) .bargen
       && stops (handleCheck s 0 0x30_0140 fun _ => true) .barkind && decide (65535 < bar0.e + 65535) && decide (bar0.e + 65534 ≤ 65535)
       && decide (65535 < { bar0 with arr := 1 }.arr + 65535) && decide ((barAt s 0 (0, 1)).phase = 0) && !engineNames s 0 [(0, 1)] && !deferredTo s 0 [(0, 1)]
       && deferredTo (s.modThr t0 fun x => { x with deferred := [⟨0, 1, false, [], 2, Horizon.zero⟩] }) 0 [(0, 1)]
       && passes (handleCheck (ring []) 0 0x30_01C0 fun y => decide (y.kind = 3) && decide (y.ring ≠ 0)) (0, 1)
       && stops (handleCheck (ring []) 0 0x30_02C0 fun y => decide (y.kind = 3) && decide (y.ring ≠ 0)) .barkind
       && decide ((barAt (ring []) 0 (0, 2)).phase = 2 * (1 / 2) % 65536) && decide ((barAt (ring []) 0 (0, 1)).phase ≠ 2 * (2 / 2) % 65536)
       && decide ((barAt (bars [((0, 1), { ringSlot 2 with phase := 1 })] []) 0 (0, 1)).phase = (2 * (0 / 2) + 1) % 65536)
       && decide (2 ^ 40 ≤ { bar0 with b := 1 }.b + (2 ^ 40 - 1))) = true := by decide +kernel
theorem witness_BarriersAndStages_events :
    (let s := (bar1 []).modThr t0 fun x => { x with wait := some ⟨0, [], some ⟨0x30_0100, 0, 1, 6, 0, none⟩⟩, deferred := [⟨0, 1, false, [], 2, Horizon.zero⟩] }
     let d := bars [((0, 1), { bar0 with ext := true })] []
     decide ((s.thr t0).status = .running) && decide ((s.thr t0).stopped = none) && decide ((barAt s 0 (0x30_0100 / 2 ^ 16 % 16, 0x30_0100 / 2 ^ 8 % 256)).phase = 0)
       && decide ((barAt s 0 (0, 1)).gen = 0x30_0100 / 2 ^ 20 % 2 ^ 12) && !timedOut s (s.pidOf 0 0) 0 1 && !timedOut { s with now := 1000 } (s.pidOf 0 0) 0 1 && timedOut { s with now := 10000 } (s.pidOf 0 0) 0 1
       && (({ clu := 0, slot := 1, release := false, marks := [], scope := 2, hor := Horizon.zero } : Deferred).hor.rel 2 == 0)
       && (s.ops.all fun o => !o.deed.writes && !readOwed o) && (s.flk 0).resident && decide ((barAt s 0 (0, 1)).rels < 255) && decide ((barAt s 0 (0, 1)).arr < 65535)
       && passes (handleCheck d 0 0x30_0120 fun b => decide (b.kind = 0) && b.ext) (0, 1) && decide ((d.flk 0).ctx = 0) && !(d.flk 0).ended
       && decide (d.flocks.map (·.1) = [0]) && decide (65535 < { bar0 with arr := 1 }.arr + 65535)) = true := by decide +kernel
/-- R382: a doorbell reaches two flocks of its context, and the count of the second is full. -/
theorem witness_BarriersAndStages_doors :
    (let d := bars [((0, 1), { bar0 with ext := true })] []
     let two := { d with flocks := [(0, d.flk 0), (1, { d.flk 0 with bars := [((0, 1), { bar0 with ext := true, arr := 65535, e := 65535 })] })] }
     passes (handleCheck two 1 0x30_0120 fun b => decide (b.kind = 0) && b.ext) (0, 1)
       && goes (exec (.bardoor 0 0x1_0030_0120) two) fun t => decide ((barAt t 0 (0, 1)).phase = 1) && decide (barAt t 1 (0, 1) = barAt two 1 (0, 1))
         && (t.ctx 0).doorErr) = true := by decide +kernel

/-! ## Pin windows and prefetches -/

/-- The page of the placed code is device-biased; a capacity of 4 banks on die 0. -/
def pinning (g : List Word64) : State := { regs g with bias := [1] }.modCtx 0 fun c => { c with pincap := 4 }
def setOne : Word64 := 0x1_0000_0000_0001
def window (stage : Nat) : Window :=
  { fid := 0, die := 0, va := 0x1_0000, len := 65536, plane := false, poff := 0, frames := [1], targets := [0], mask := 1, charge := 1
    stage := stage, fill := false, kept := false }
def pinned (stage : Nat) (g : List Word64) : State := (pinning g).modCtx 0 fun c => { c with windows := [window stage], pinuse := [1, 0, 0, 0, 0, 0, 0, 0] }
def answers6 (i : Instr) (s : State) (v : Word64) : Bool := goes (exec i s) fun t => decide ((me t).gr 6 = v) && decide ((me t).pc = 0x1_0004)
/-- R111, R112: the checks in their order, and a window of one bank. -/
theorem test_pinset :
    (let i := Instr.pinSet false 6 4 5 false false
     answers6 i (pinning [0x1_0100, setOne]) 5 && answers6 i (pinning [0x2_0000, setOne]) 6 && answers6 i { pinning [0x1_0000, setOne] with bias := [] } 7
       && answers6 i (pinned 1 [0x1_0000, setOne]) 2 && answers6 i ((pinning [0x1_0000, setOne]).modCtx 0 fun c => { c with pincap := 0 }) 1
       && goes (exec i (pinning [0x1_0000, setOne])) (fun t => decide ((t.ctx 0).windows = [window 0]) && decide ((me t).gr 6 = 0) && decide ((t.ctx 0).pinuse.headD 9 = 1)
         && goes (exec (.pinRehome 0 0 0x1_0000) t) fun u => decide ((u.clu 0).pinb = 1) && decide (((u.ctx 0).windows.map (·.stage)) = [1]))) = true := by decide +kernel
theorem test_pinclr :
    (goes (exec (.pinClr false 6 4) (pinned 1 [0x1_0000])) (fun t => decide ((me t).gr 6 = 0) && decide (((t.ctx 0).windows.map (·.stage)) = [2])
        && goes (exec (.pinClrWriteback 0 0 0x1_0000) t) fun u => decide ((u.ctx 0).windows = []) && decide ((u.ctx 0).pinuse.headD 9 = 0))
    && answers6 (.pinClr false 6 4) (pinned 2 [0x1_0000]) 8 && goes (exec (.pinSet false 6 4 5 false false) (pinned 2 [0x1_0000, setOne])) (fun t => (me t).wait.isSome)) = true := by decide +kernel
theorem witness_PinsAndPrefetch_set :
    (let s := pinning []
     let room (w k : Nat) : Bool := decide (8 - ({ s.clu 0 with wpb := w }).wpb < banksHeld s 0 + 1 + k)
     (framesOf 0 0 1 0x2_0000 s).2.isNone && decide ((framesOf 0 0 1 0x1_0000 s).2 = some [1]) && devBiased s 0x1_0000 && decide ((window 1).stage ≤ 1) && decide (2 ≤ (window 2).stage)
       && decide ((s.ctx 0).pincap.toNat / 2 ^ 0 % 256 = 4) && decide ((s.ctx 0).pinuse.length = 8) && room 7 1 && !room 4 1
       && decide (0 < ((framesOf 0 0 1 0x1_0000 s).1.ctx 0).pinuse.length) && decide (frameRuns [1] = 1) && decide (256 < 256 + frameRuns [1])) = true := by decide +kernel
theorem witness_PinsAndPrefetch_end :
    (let s := pinned 1 []
     let here (st : Nat) : Bool := (pinned st []).homes.all fun l => !(window st).frames.contains (l.1 / 256) || decide (l.2.sharers = [])
     decide (((s.ctx 0).windows.find? fun w => decide (w.die = 0) && decide (w.va = 0x1_0000) && decide (w.stage = 1)) = some (window 1)) && here 0 && here 2 && here 3
       && decide (((pinning []).ctx 0).windows = [])) = true := by decide +kernel
/-- A descriptor of 64 bytes along one row of 64, at 0x1_0000; CTRL as given. -/
def tensor (ctrl : Nat) : List Byte :=
  leBytes 8 0x1_0000 ++ leBytes 4 64 ++ leBytes 4 1 ++ leBytes 4 1 ++ leBytes 4 1 ++ leBytes 24 0 ++ leBytes 8 ctrl ++ leBytes 8 0
def fills (e : PftEnt) : State := (pinning []).modClu 0 fun c => { c with pft := [e] }
def filling (d : List Byte) : PftEnt := ⟨5, t0, d, 32, false⟩
/-- A descriptor that a stash entry serves. -/
def described (d : List Byte) (off : Nat) : State := ((regs [BitVec.ofNat 64 (0x1_0100 + off)]).modClu 0 fun c => { c with
    stash := [⟨0, 0, 0x1_0100, 64, 0x100, (List.range 2).map fun j => (j, .clean (0x1_0100 + 32 * j) 0)⟩] }) |> fun s => s.localWrite 0 0 0x100 d
theorem test_prefetch :
    (goes (exec (.pft false 4 0) (described (tensor 0) 0)) (fun t => decide ((t.clu 0).pft.map (fun e => (e.desc, e.pos)) = [(tensor 0, 0)]) && decide ((me t).pc = 0x1_0004))
    && traps (exec (.pft false 4 0) (handled (described (tensor 1) 0))) .pftdesc (wordOf (.pft false 4 0))
    && goes (exec (.pftLong false 4 0x7F_FFFF 0x7C0) (described (tensor 0) 64)) (fun t => decide ((t.clu 0).pft.length = 1) && decide ((me t).pc = 0x1_0008))
    && traps (exec (.pft false 4 1) (handled (described (tensor 0) 0))) .align 0x1_0101) = true := by decide +kernel
theorem witness_PinsAndPrefetch_tensors :
    (let s := fills (filling (tensor 4))
     let e := filling (tensor 4)
     tensorOk s 0 (tensor 0) && !tensorOk s 0 (tensor 8) && !tensorOk s 0 (tensor 0x10) && decide ((tensor 0).length = 64)
       && decide ((tensorOf (tensor 0)).place 33 = (0x1_0021, 31)) && decide (descBar (tensor 0x80) = some 0)
       && decide (((s.clu 0).pft.find? fun x => decide (x.id = 5)) = some e) && (s.flk 0).resident && !(s.flk 0).preReq && !(s.die 0).tripped
       && okAt (translate s 0 0 (((tensorOf e.desc).place e.pos).1) .load) 0x1_0020 && !flipHeld s 0x1_0020 && decide ((s.homeOf 0x1_0020).owners = [])
       && decide ((s.homeOf 0x1_0020).sharers = []) && decide ((tensorOf e.desc).bar = none) && decide ((tensorOf e.desc).total ≤ e.pos + ((tensorOf e.desc).place e.pos).2)
       && decide ((s.ctx 0).hintdrop.toNat < 2 ^ 64 - 1) && (s.clu (s.pidOf 0 0)).plane.wf && !devBiased live 0x1_0020 && decide ((s.clu 1).pft = [])
       && decide (((described (tensor 0) 0).clu 0).pft.length < 16)) = true := by decide +kernel
theorem witness_PinsAndPrefetch_read :
    (let s := described (tensor 0) 0
     match translate s 0 0 0x1_0100 .load with
     | (u, .ok pa) => (match readSectors 2 0x1_0100 pa u with
       | (v, some ds) => decide (ds = tensor 0) && tensorOk v 0 ds && decide (descBar ds = none)
       | (_, none) => false)
     | (_, .error _) => false) = true := by decide +kernel

/-! ## Parked groups -/

def parkRec : ParkRec := ⟨t0, 0, 0, 0, [], [], [], trailer, [], false, 0⟩
def parked (r : ParkRec) (g : List Word64) : State :=
  ((withStream boundStream).modThr t0 fun x => { x with g := (List.range g.length).map fun k => (k + 4, g.getD k 0) }).setGrp 0 0 0
    { Group.placed with ex := 0xFFFF_FFF0, park := 0xF, prec := some r }
/-- R425, R426. -/
theorem test_parked :
    (goes (exec (.parkReplay false 4 5) (parked parkRec [1, 0])) (fun t => (t.grp 0 0 0).prec.any (fun r => decide (r.queued = 1)) && decide ((me t).pc = 0x1_0004))
    && goes (exec (.unpark false 4 5 false) (parked parkRec [1, 0])) (fun t => decide ((t.grp 0 0 0) = Group.placed))
    && goes (exec (.unpark false 4 5 true) (parked parkRec [1, 0])) (fun t => decide ((t.grp 0 0 0) = { Group.placed with ex := 0xFFFF_FFF0, exit := 0xF }))
    && goes (exec (.unpark false 4 5 false) (parked { parkRec with queued := 1 } [1, 0])) (fun t => (me t).wait.isSome)
    && traps (exec (.parkReplay false 4 5) (handled (parked parkRec [2, 0]))) .strarg (wordOf (.parkReplay false 4 5))) = true := by decide +kernel
theorem witness_ParkedGroups : curStream (me (parked parkRec [])) = some (0, boundStream) ∧ curStream (me live) = none ∧ boundStream.openRun = [] ∧ boundStream.gmask = 1
    ∧ boundStream.cmask = 1 ∧ ({ boundStream with openRun := [oneWord] } : Stream).openRun ≠ [] ∧ ((parked parkRec []).grp 0 0 0).prec = some parkRec := by decide +kernel

/-! ## Lane words -/

/-- A lane word in focus as the only word of its run; each listed register holds one value in every lane. -/
def lane (i : Instr) (vs : List (Nat × Nat)) : State :=
  let x := (encode i).getD (0, 0) |>.2
  let s := (placeLane live (BitVec.ofNat 64 x)).setGrp 0 0 0 { Group.placed with v := vs.map fun e => (e.1, List.replicate 32 (BitVec.ofNat 32 e.2)) }
  match (s.clu 0).pipes.find 0 with
  | some p => focusWord s 0 0 p { oneWord with w := BitVec.ofNat 64 x } 0
  | none => s
/-- The first and the last lane of a register hold a value after the word. -/
def gives (i : Instr) (vs : List (Nat × Nat)) (r v : Nat) : Bool :=
  goes (exec i (lane i vs)) fun t => [0, 31].all fun l => decide ((t.grp 0 0 0).laneOf r l = BitVec.ofNat 32 v)
/-- Types of R170 in the bits of the type field. -/
def tU8 : Nat := 0
def tU16 : Nat := 0x40
def tU32 : Nat := 0x80
def tS8 : Nat := 0x100
def tS16 : Nat := 0x140
def tS32 : Nat := 0x180
def tF16 : Nat := 0x200
def tF32 : Nat := 0x280
def v3 (m : Nat) : LaneWord := w 8 2 3 4 (BitVec.ofNat 10 m)
def v2 (m : Nat) : LaneWord := w 8 2 3 0 (BitVec.ofNat 10 m)
def v1 (m : Nat) : LaneWord := w 8 2 0 0 (BitVec.ofNat 10 m)

/-- R204: sums wrap, and saturate with sat (0x20); packed elements (0x10) do not carry into each other. -/
theorem test_lane_sums :
    (gives (.iadd (v2 tS32)) [(2, 0x7FFF_FFFF), (3, 1)] 8 0x8000_0000 && gives (.iadd (v2 (tS32 + 0x20))) [(2, 0x7FFF_FFFF), (3, 1)] 8 0x7FFF_FFFF
    && gives (.iadd (v2 (tS8 + 0x10))) [(2, 0x7F01_FFFF), (3, 0x0101_0101)] 8 0x8002_0000 && gives (.isub (v2 tU32)) [(2, 1), (3, 2)] 8 0xFFFF_FFFF
    && gives (.iadd3 (v3 tU32)) [(2, 1), (3, 2), (4, 4)] 8 7 && gives (.iabs (v1 tS32)) [(2, 0xFFFF_FFFB)] 8 5
    && gives (.imin (v2 tS32)) [(2, 0xFFFF_FFFF), (3, 1)] 8 0xFFFF_FFFF && gives (.imax (v2 tS32)) [(2, 0xFFFF_FFFF), (3, 1)] 8 1) = true := by decide +kernel
theorem test_lane_products :
    (gives (.imul (v2 tU32)) [(2, 0x1_0001), (3, 0x1_0001)] 8 0x2_0001 && gives (.imulh (v2 tS32)) [(2, 0xFFFF_FFFF), (3, 2)] 8 0xFFFF_FFFF
    && gives (.imad (v3 tU32)) [(2, 3), (3, 4), (4, 5)] 8 17 && gives (.imulw (v2 (tU16 + 0x10))) [(2, 0xFFFF_0003), (3, 0xFFFF_0005)] 9 0xFFFE_0001
    && gives (.imadw (v3 (tU16 + 0x10))) [(2, 0xFFFF_0003), (3, 0xFFFF_0005), (4, 1), (5, 0)] 8 16
    && gives (.idp4 (v3 (tU8 + 0x10))) [(2, 0x0102_0304), (3, 0x0101_0102), (4, 10)] 8 24 && gives (.idp2 (v3 (tS16 + 0x10))) [(2, 0xFFFF_0002), (3, 0x0003_0004), (4, 0)] 8 5
    && gives (.isad (v3 (tU8 + 0x10))) [(2, 0x0500_0000), (3, 0x0100_0002), (4, 1)] 8 7) = true := by decide +kernel
theorem test_lane_bits :
    (gives (.andLane (v2 tU32)) [(2, 12), (3, 10)] 8 8 && gives (.orLane (v2 tU32)) [(2, 12), (3, 10)] 8 14 && gives (.xorLane (v2 tU32)) [(2, 12), (3, 10)] 8 6
    && gives (.notLane (v1 tU32)) [(2, 1)] 8 0xFFFF_FFFE && gives (.movLane (v1 tU32)) [(2, 0xABCD)] 8 0xABCD && gives (.shlLane (v2 tU32)) [(2, 1), (3, 33)] 8 0
    && gives (.shrLane (v2 tS32)) [(2, 0x8000_0000), (3, 40)] 8 0xFFFF_FFFF && gives (.rotl (v2 tU32)) [(2, 0x8000_0000), (3, 33)] 8 1
    && gives (.brev (v1 tU32)) [(2, 1)] 8 0x8000_0000 && gives (.bfe (v2 tU32)) [(2, 0xABCD), (3, 0x0804)] 8 0xBC && gives (.bfe (v2 tS32)) [(2, 0xABCD), (3, 0x0804)] 8 0xFFFF_FFBC
    && gives (.bfi (v3 tU32)) [(2, 0xF), (3, 0x0408), (4, 0x1_0001)] 8 0x1_0F01 && gives (.popcLane (v1 tU32)) [(2, 0xF0F)] 8 8
    && gives (.clzLane (v1 tU32)) [(2, 0)] 8 32) = true := by decide +kernel
def aLane : State := lane (.iadd (v2 tS32)) [(2, 5), (3, 7)]
theorem witness_LaneRegistersAndIntegers :
    ((laneRun aLane).any (fun p => decide (p.pos + 1 < ({ p.run with words := p.run.words ++ p.run.words } : Run).words.length)) && decide ((v3 (tU8 + 0x10)).ty < 8)
      && (v3 (tU8 + 0x10)).pk0 && decide (tyWidth (v3 (tU8 + 0x10)).ty < 32) && !(v3 tU32).pk0 && !decide (tyWidth (v3 tU32).ty < 32) && decide (tyWidth (v3 tU16).ty = 16)
      && decide (127 + 1 ≤ 128) && decide (192 ≤ 255) && decide (inFlight aLane 2 = none) && decide (inFlight aLane 256 = none)) = true := by decide +kernel

def one : Nat := 0x3F80_0000
def two : Nat := 0x4000_0000
def inf : Nat := 0x7F80_0000
def nan : Nat := 0x7FC0_0000
theorem test_lane_floats :
    (gives (.fadd (v2 tF32)) [(2, one), (3, two)] 8 0x4040_0000 && gives (.fsub (v2 tF32)) [(2, one), (3, two)] 8 0xBF80_0000 && gives (.fmul (v2 tF32)) [(2, two), (3, two)] 8 0x4080_0000
    && gives (.ffma (v3 tF32)) [(2, two), (3, two), (4, one)] 8 0x40A0_0000 && gives (.fadd (v2 tF32)) [(2, inf), (3, 0xFF80_0000)] 8 nan
    && gives (.fmul (v2 (tF32 + 4))) [(2, 1), (3, one)] 8 0 && gives (.fadd (v2 (tF32 + 2))) [(2, one), (3, two)] 8 one
    && gives (.fadd (v2 (tF16 + 1))) [(2, 0x3C00_4000), (3, 0x3C00_3C00)] 8 0x4000_4200) = true := by decide +kernel
theorem test_lane_floats_order :
    (gives (.fmin (v2 tF32)) [(2, nan), (3, two)] 8 two && gives (.fmin (v2 tF32)) [(2, 0), (3, 0x8000_0000)] 8 0x8000_0000
    && gives (.fmax (v2 tF32)) [(2, one), (3, two)] 8 two && gives (.fabs (v1 tF32)) [(2, 0xBF80_0000)] 8 one && gives (.fneg (v1 tF32)) [(2, nan)] 8 0xFFC0_0000
    && gives (.frnd (v1 tF32)) [(2, 0x4020_0000)] 8 two && gives (.frnd (v1 (tF32 + 0x18))) [(2, 0x4020_0000)] 8 0x4040_0000
    && gives (.fdp2 (v3 tF16)) [(2, 0x3C00_4000), (3, 0x4000_4000), (4, one)] 8 0x40E0_0000) = true := by decide +kernel
def cvt (m src : Nat) : LaneWord := w 8 2 0 (BitVec.ofNat 8 (16 * src)) (BitVec.ofNat 10 m)
/-- R182, R183: 2.5 rounds to even; −1 is out of the range of n32; 0x40 of E4M3 is 2. -/
theorem test_lane_conversions :
    (gives (.cvt (cvt tS32 10)) [(2, 0x4020_0000)] 8 2 && gives (.cvt (cvt tU32 10)) [(2, 0xBF80_0000)] 8 0 && gives (.cvt (cvt tF32 6)) [(2, 0xFFFF_FFFF)] 8 0xBF80_0000
    && gives (.cvt (cvt tU8 6)) [(2, 300), (3, 1), (4, 2), (5, 3)] 8 0x0302_012C && gives (.cvt (cvt tF32 11)) [(2, 0x40)] 8 two
    && gives (.pack (w 8 2 3 0 (BitVec.ofNat 10 tU16))) [(2, 0x1234), (3, 0x5678)] 8 0x5678_1234 && gives (.unpk (cvt (tS32 + 1) 4)) [(2, 0x8000)] 8 0xFFFF_FF80) = true := by decide +kernel
/-- R228: the special values of the special functions. -/
theorem test_lane_specials :
    (gives (.rcp (v1 tF32)) [(2, 0x8000_0000)] 8 0xFF80_0000 && gives (.rsq (v1 tF32)) [(2, 0xBF80_0000)] 8 nan && gives (.sqrt (v1 tF32)) [(2, 0x8000_0000)] 8 0x8000_0000
    && gives (.exp2 (v1 tF32)) [(2, 0xFF80_0000)] 8 0 && gives (.log2 (v1 tF32)) [(2, 0x4100_0000)] 8 0x4040_0000 && gives (.sin (v1 tF32)) [(2, inf)] 8 nan
    && gives (.cos (v1 tF32)) [(2, 0)] 8 one) = true := by decide +kernel
def priced (i : Instr) : Bool := let s := lane i []
  (payLane s 1 0xFFFF_FFFF).2 && !(payLane (s.modClu 0 fun c => { c with purse := { c.purse with tokens := 0 } }) 1 0xFFFF_FFFF).2
theorem witness_LaneFloatsAndConversions :
    (priced (.fadd (v2 tF32)) && priced (.rcp (v1 tF32)) && decide ((v2 (tF16 + 1)).ty = 8) && (v2 (tF16 + 1)).pk1 && decide ((v2 tF32).ty = 10) && !(v2 tF32).pk1
      && decide ((cvt tF32 13).srcTy = 13) && decide ((cvt tF32 13).ty = 10) && !((lane (.cbd (cvt tF32 0)) []).clu 0).code.waits 0
      && BankCtl.placed.waits 2 && canRound 10 11 && decide (tyWidth (cvt (tS32 + 1) 4).srcTy ≤ 16)) = true := by decide +kernel
theorem witness_LaneFloatsAndConversions_values :
    fF32.value nan = .nan ∧ fF32.value inf = .inf false ∧ fF32.value one = .fin false (2 ^ 23) (-23) ∧ fF32.value 0x5000_0000 = .fin false (2 ^ 23) 10
    ∧ fF32.value 0x8000_0000 = .fin true 0 (-149) ∧ fF32.flush true 0xFF80_0000 = 0xFF80_0000 ∧ fF32.value 0xBF80_0000 = .fin true (2 ^ 23) (-23) := by decide +kernel

/-- Predicate p8 after a word. -/
def setsP (i : Instr) (vs : List (Nat × Nat)) (p0 m : Nat) : Bool :=
  goes (exec i ((lane i vs).modGrp 0 0 0 fun g => { g with p := [(8, p0)] })) fun t => decide (((t.grp 0 0 0).p.get 8 0) % 2 ^ 32 = m)
/-- R221 to R224: conditions in bits 5 to 2, the combination in bits 1 and 0. -/
theorem test_lane_predicates :
    (setsP (.icmp (v2 (tS32 + 8))) [(2, 0xFFFF_FFFF), (3, 1)] 0 0xFFFF_FFFF && setsP (.icmp (v2 (tU32 + 8))) [(2, 0xFFFF_FFFF), (3, 1)] 0xF 0
    && setsP (.icmp (v2 (tS32 + 8 + 3))) [(2, 0), (3, 1)] 0xF 0xFFFF_FFF0 && setsP (.fcmp (v2 (tF32 + 4))) [(2, nan), (3, one)] 0 0xFFFF_FFFF
    && setsP (.fcmp (v2 tF32)) [(2, 0x8000_0000), (3, 0)] 0 0xFFFF_FFFF && setsP (.plop (w 8 8 9 6 0)) [] 0xF0 0xF0
    && setsP (.pmov (w 0 2 3 0 0)) [(2, 0x100), (3, 0x100)] 0 0xFFFF_FFFF
    && gives (.sel (w 8 2 3 9 (BitVec.ofNat 10 tU32))) [(2, 1), (3, 2)] 8 2
    && gives (.pmov (w 8 0 0 0 0x40)) [] 8 0) = true := by decide +kernel
theorem test_lane_exit :
    (goes (exec (.lexit (w 0 0 0 0 0)) (lane (.lexit (w 0 0 0 0 0)) [])) (fun t => decide ((t.grp 0 0 0).ex = 0) && decide ((t.grp 0 0 0).exit = 0xFFFF_FFFF))
    && goes (exec (.nop (w 0 0 0 0 0)) aLane) (fun t => decide ((t.grp 0 0 0).v = (aLane.grp 0 0 0).v))
    && gives (.idiv (v2 tS32)) [(2, 7), (3, 0xFFFF_FFFE)] 8 0xFFFF_FFFD && gives (.irem (v2 tS32)) [(2, 7), (3, 0)] 8 7
    && gives (.idiv (v2 tS32)) [(2, 7), (3, 0)] 8 0xFFFF_FFFF && gives (.fdiv (v2 tF32)) [(2, one), (3, two)] 8 0x3F00_0000) = true := by decide +kernel
theorem witness_LanePredicatesAndDivision :
    ((payLane aLane 4 (activeMask aLane (v2 tS32))).2 && !(payLane (aLane.modClu 0 fun c => { c with purse := { c.purse with tokens := 0 } }) 4 0xFFFF_FFFF).2
      && decide ((v2 (tS32 + 0x14)).cond = 5) && decide ((v2 (tF32 + 0x1C)).cond = 7) && decide (activeMask aLane { v2 tS32 with sel := 0 } = 0)
      && decide ((w 0 2 3 0 0).ty = 0) && decide ((w 8 0 0 0 0x40).ty ≠ 0)) = true := by decide +kernel

/-! ## Tables, and words across lanes -/

/-- A lane word with its captured operands and registers lane by lane. -/
def laneU (i : Instr) (ua ub uc : Nat) (rows : List (Nat × List Nat)) : State :=
  let s := (lane i []).setGrp 0 0 0 { Group.placed with v := rows.map fun e => (e.1, e.2.map fun n => BitVec.ofNat 32 n), p := [(8, 0xF0F)] }
  { s with lane := { s.lane with word := { s.lane.word with ua := BitVec.ofNat 128 ua, ub := BitVec.ofNat 128 ub, uc := BitVec.ofNat 128 uc } } }
def ids : List Nat := List.range 32
def same (n : Nat) : List Nat := List.replicate 32 n
/-- Lane `l` of register 8 after the word. -/
def lanes (o : Out) (es : List (Nat × Nat)) : Bool :=
  goes o fun t => es.all fun e => decide ((t.grp 0 0 0).laneOf 8 e.1 = BitVec.ofNat 32 e.2)
def curved (b : CurveBank) (x : Nat) : State := (laneU (.cte (w 8 2 0 0 0)) 0 0 0 [(2, same x)]).modClu 0 fun c => { c with curves := [((0, 0), b)] }
/-- A table from 0 with cells of width 1: cell 1 is 1 + 2t, cell 255 is 3. -/
def curve1 : CurveBank := ⟨0, 0, [(1, (0x3F80_0000, 0x4000_0000, 0)), (255, (0x4040_0000, 0, 0))]⟩
/-- R231: at 1.5 the cell 1 gives 2; at 300 and at +∞ the last cell gives 3. -/
theorem test_curves :
    (lanes (exec (.cte (w 8 2 0 0 0)) (curved curve1 0x3FC0_0000)) [(0, 0x4000_0000), (31, 0x4000_0000)]
    && lanes (exec (.cte (w 8 2 0 0 0)) (curved curve1 0x4396_0000)) [(0, 0x4040_0000)] && lanes (exec (.cte (w 8 2 0 0 0)) (curved curve1 inf)) [(0, 0x4040_0000)]
    && goes (exec (.ctld (w 0 0xC0 0xC1 0 0)) (laneU (.ctld (w 0 0xC0 0xC1 0 0)) 0x1000 (0x2_3F80_0000) 0 [])) (fun t =>
      ((t.clu 0).curve.get 0 BankCtl.placed).loading.any fun e => decide (e.1 = 0) && decide (e.2.lo = 0x3F80_0000) && decide (e.2.sh = 2))
    && goes (exec (.mcbt (w 0 0xC0 0 0 0)) (laneU (.mcbt (w 0 0xC0 0 0 0)) 0x1000 0 0 [])) (fun t => decide ((t.clu 0).code.loading.map (·.2.src) = [none]))) = true := by decide +kernel
def loading (t0 now : Nat) : State := { (live.modClu 0 fun c => { c with
  curve := [(0, { BankCtl.placed with loading := [(0, ⟨0, t0, leBytes 16 5 ++ List.replicate 4080 0, 7, 3, none⟩)] })], code := { BankCtl.placed with loading := [(0, ⟨0, t0, [9], 0, 0, none⟩)] } }) with now := now }
theorem test_table_loads :
    (goes (exec (.curveTableLoadFinish 0 0 0) (loading 0 (10 ^ 6))) (fun t => decide (((t.clu 0).curves.get (0, 0) CurveBank.zero).coef.get 0 (0, 0, 0) = (5, 0, 0))
        && decide (((t.clu 0).curve.get 0 BankCtl.placed).loading = []))
    && goes (exec (.codebookLoadFinish 0 0) (loading 0 (10 ^ 6))) (fun t => decide ((t.clu 0).codeTab.getD 0 [] = [9]))
    && goes (exec (.codebookLoadFinish 0 0) (loading 0 0)) (fun t => decide ((t.clu 0).code.loading.length = 1))) = true := by decide +kernel
theorem witness_BankedTables :
    (let s := laneU (.ctld (w 0 0xC0 0xC1 0 0)) 0x1000 0x3F80_0000 0 []
     let c := cissueNext s 1
     let d := cissueNext (s.modThr t0 fun x => { x with streams := [(0, { boundStream with gmask := 3 })] }) 1
     !s.lane.replay && c.done && c.active && c.full && !d.done && !localBlocked s 0x1000 4096 && (payOnce s).2 && (localReady s 0 0 0x1000 1024).2
       && !BankCtl.placed.used 0 && !BankCtl.placed.waits 0 && BankCtl.placed.waits 2 && ({ BankCtl.placed with count := [((0, 0), 1)] } : BankCtl).used 2
       && decide (32 ≤ cyclesSince (cluMHz s 0) 0 (10 ^ 6)) && decide (cyclesSince (cluMHz s 0) 0 0 < 8) && decide (fF32.value curve1.lo.toNat = .fin false 0 (-149))
       && decide (fF32.value 0x3FC0_0000 = .fin false 12582912 (-23)) && decide ((Val.add false (fF32.value 0xBF80_0000) (fF32.value 0).neg).1 = .fin true (8388608 * 2 ^ 126) (-149))
       && decide ((cissueNext (s.setGrp 0 0 0 { Group.placed with ex := 1 }) 1).full = false) && decide ((BankCtl.placed.finish 4).early = [(0, 2)]) && decide ((BankCtl.placed.finish 2).fin 0 = 1)) = true := by decide +kernel
/-- A load whose bytes a stash sector has still to bring, and one whose bytes are there. -/
def sourced (es : List StashEnt) : State := (loading 0 (10 ^ 6)).modClu 0 fun c => { c with stash := es, code := { BankCtl.placed with loading := [(0, ⟨0, 0, [], 0, 0, some (t0, 0, 0, 0x100)⟩)] } }
theorem witness_BankedTables_source :
    (goes (exec (.codebookLoadFinish 0 0) (sourced [entry .unfilled])) (fun t => t.clu 0 |>.code.loading.any fun l => l.2.src.isSome)
      && goes (exec (.codebookLoadFinish 0 0) (sourced [])) (fun t => (t.clu 0).code.loading.all fun l => l.2.src.isNone && decide (l.2.t0 = 10 ^ 6) && decide (l.2.data.length = 1024))
      && !(localReady (sourced [entry .unfilled]) 0 0 0x100 1024).2 && (localReady (sourced []) 0 0 0x100 1024).2) = true := by decide +kernel

def cross (mode : Nat) : LaneWord := w 8 2 3 0 (BitVec.ofNat 10 (512 + 16 * mode + 2))
def idsBy (i : Instr) (n : Nat) : State := laneU i 0 n 0xF [(2, ids), (3, same n)]
/-- R233 to R241: groups of 32 lanes, lane l holding l. -/
theorem test_cross_lane :
    (lanes (exec (.shfl (cross 0)) (idsBy (.shfl (cross 0)) 37)) [(0, 5), (31, 5)] && lanes (exec (.shfl (cross 1)) (idsBy (.shfl (cross 1)) 1)) [(0, 31), (31, 30)]
    && lanes (exec (.shfl (cross 2)) (idsBy (.shfl (cross 2)) 1)) [(0, 1), (31, 0)] && lanes (exec (.shfl (cross 3)) (idsBy (.shfl (cross 3)) 1)) [(0, 1), (31, 30)]
    && lanes (exec (.bcast (cross 0)) (idsBy (.bcast (cross 0)) 7)) [(0, 7), (31, 7)]
    && lanes (exec (.ballot (w 8 8 0 0 512)) (idsBy (.ballot (w 8 8 0 0 512)) 0)) [(0, 0xF0F), (31, 0xF0F)]
    && lanes (exec (.reduce { cross 0 with b := 0 }) (idsBy (.reduce { cross 0 with b := 0 }) 0)) [(0, 496), (31, 496)]) = true := by decide +kernel
theorem test_cross_lane_subgroups :
    (lanes (exec (.scan { cross 0 with b := 0 }) (idsBy (.scan { cross 0 with b := 0 }) 0)) [(0, 0), (31, 496)]
    && lanes (exec (.reduce (w 8 2 0 0 0x012)) (idsBy (.reduce (w 8 2 0 0 0x012)) 0)) [(0, 0), (31, 30)]
    && lanes (exec (.reduce { cross 2 with b := 0, c := 0xC4 }) (idsBy (.reduce { cross 2 with b := 0, c := 0xC4 }) 0)) [(0, 3), (3, 3), (4, 4)]
    && lanes (exec (.reduce (w 8 2 0 0 0x20A)) (laneU (.reduce (w 8 2 0 0 0x20A)) 0 0 0 [(2, same one)])) [(0, 0x4200_0000)]) = true := by decide +kernel
def voteState : State := (laneU (.vote (w 0 8 0 0 0)) 0 0 0 []).modThr t0 fun x => { x with
  votes := [⟨0, 0, 0, 0, [(0, 0)], 0, 0, false, false⟩], out := [⟨5, .uni 0 0 oneWord [(0, 0)] [(0, 0)] []⟩] }
theorem test_votes_of_lanes :
    (goes (exec (.vote (w 0 8 0 0 0)) voteState) (fun t => (t.thr t0).votes.all fun v => decide (v.ones = 8) && decide (v.zeros = 24) && decide (v.need = []))
    && goes (exec (.uni (w 0xC5 2 0 0 2)) voteState) (fun t => (t.thr t0).out.all fun o => match o.pend with
      | .uni _ _ _ _ need seen => decide (need = []) && decide (seen.length = 32)
      | _ => false)) = true := by decide +kernel
/-- R244, R245: lane l goes to position 31 − l of the one slot; two lanes with one target are malformed. -/
theorem test_regroup :
    (goes (exec (.regroup (w 0 2 0 0 0)) (laneU (.regroup (w 0 2 0 0 0)) 0 0 0 [(2, ids.map (31 - ·)), (8, ids)])) (fun t =>
      decide ((t.grp 0 0 0).laneOf 8 0 = 31) && decide ((t.grp 0 0 0).laneOf 8 31 = 0))
    && goes (exec (.regroup (w 0 2 0 0 0)) (laneU (.regroup (w 0 2 0 0 0)) 0 0 0 [(2, same 1), (8, ids)])) (fun t => decide ((t.thr t0).held.map (·.cause) = [.regroup]))) = true := by decide +kernel
theorem witness_CrossLaneAndRegroup :
    (let s := laneU (.regroup (w 0 2 0 0 0)) 0 0 0 [(2, same 1)]
     let src := [((0, 0), 1), ((0, 1), 0)]
     decide ((cross 3).sg = 4) && decide ((cross 3).mode = 3) && decide ((cross 3).ty4 = 2) && decide ((w 8 2 0 0 0x0A6).ty4 = 6) && !s.lane.replay && (cissueNext s 1).done
       && regroupReady s [0] [(0, 0), (0, 1)] && (regroupMoves s 0 0 [0] src).isSome && (regroupMoves s 0 0 [0] [((0, 0), 1), ((0, 2), 1)]).isNone
       && decide (((s.grp 0 0 0).park).testBit 1 = false) && (payLane s 1 0xFFFF_FFFF).2
       && !regroupReady (s.setGrp 0 0 0 { Group.placed with out := [⟨4, 1, 1, t0, 0, 0, true⟩] }) [0] [(0, 0)]
       && decide ((src.map (·.1)).Nodup) && decide (([0] : List Nat).length ≤ 16)) = true := by decide +kernel

/-! ## Lane memory words -/

/-- One active lane. -/
def solo (s : State) : State := s.setGrp 0 0 0 { (s.grp 0 0 0) with ex := 1 }
/-- 32 bits wide, no-allocate (bit 4). -/
def m32 (c : Nat) : LaneWord := w 8 0xC4 3 (BitVec.ofNat 8 c) 0x210
def place (o : Out) (p : Place) (n : Nat) : Bool := goes o fun t => decide (t.ops.map (fun m => (m.place, m.n)) = [(p, n)])
/-- R144 to R147: an offset is scaled by the width where SCALE (bit 3 of C) is set; LOCAL is space 1. -/
theorem test_lane_memory :
    (place (exec (.ld (m32 8)) (solo (laneU (.ld (m32 8)) 0x1_0100 0 0 [(3, same 2)]))) (.glob 0x1_0108 0x1_0108) 4
    && place (exec (.st (m32 0)) (solo (laneU (.st (m32 0)) 0x1_0100 0 0 [(3, same 4), (8, same 9)]))) (.glob 0x1_0104 0x1_0104) 4
    && place (exec (.ldb { m32 0 with b := 0 }) (solo (laneU (.ldb { m32 0 with b := 0 }) 0x1_0100 0 0 []))) (.glob 0x1_0100 0x1_0100) 4
    && goes (exec (.red (m32 0)) (solo (laneU (.red (m32 0)) 0x1_0100 0 0 [(3, same 4), (8, same 9)]))) (fun t => decide (t.ops.map (·.deed) = [.atomic 0 9 0 true]))
    && goes (exec (.atom (m32 0)) (solo (laneU (.atom (m32 0)) 0x1_0100 0 0 [(3, same 4), (8, same 9)]))) (fun t => decide (t.ops.map (·.deed) = [.atomic 0 9 0 false]))
    && goes (exec (.ldt { m32 0 with b := 3 }) (solo (laneU (.ldt (m32 0)) 0x1_0100 0 0 [(3, same 0)]))) (fun t => decide ((t.ops.map (·.n)).sum = 128))) = true := by decide +kernel
/-- R424: a misaligned access parks its lane. -/
theorem test_lane_fault :
    (goes (exec (.ld (m32 0)) (solo (laneU (.ld (m32 0)) 0x1_0101 0 0 [(3, same 0)]))) (fun t => decide ((t.grp 0 0 0).park = 1) && decide ((t.grp 0 0 0).ex = 0)
      && (t.grp 0 0 0).prec.isSome && decide (t.ops = []))
    && place (exec (.ld (m32 0x40)) (solo ((laneU (.ld (m32 0x40)) (2 ^ 63 + 0x100) 0 0 [(3, same 4)]).modFlk 0 fun f => { f with rcd := { f.rcd with scratch := 1 } })))
      (.loc 0 0x104 0 0 false) 4) = true := by decide +kernel
theorem witness_LaneMemoryAndStash :
    (let s := solo (laneU (.ld (m32 0)) 0x1_0100 0 0 [(3, same 0)])
     decide ((m32 0).width = 4) && decide ((m32 0x30).order = 3) && decide ((m32 0x40).space = 1) && decide ((w 8 2 3 10 0x200).atomOp = 10) && !orderHeld (settleAcqs s) && releaseLane (settleAcqs s) 0
       && !tileHeld (settleAcqs s) (m32 0) 1 4 (ids.map fun _ => 0) && (payLane (settleAcqs s) 2 1).2 && !s.lane.replay && decide ((laneGrp s).ex < 2 ^ 32)
       && (match lanePieces s (m32 0) .load 0 4 4 with
         | (_, .ok ps) => decide (ps = [(0, 4, .glob 0x1_0100 0x1_0100)])
         | _ => false)
       && (match lanePieces s (m32 0) .load 0x1_0000 4 4, lanePieces s (m32 0) .load 1 4 4 with
         | (_, .error c), (_, .error e) => decide (c = .notmapped) && decide (e = .align)
         | _, _ => false)) = true := by decide +kernel
def stashW : LaneWord := w 0 0xC4 0xC5 0xC6 0
def stashing (i : Instr) (es : List StashEnt) : State :=
  ((laneU i 0x1_0400 0x100 256 []).modClu 0 fun c => { c with stash := es }).localWrite 0 0 0x120 [0x77, 0x88]
def dirtyEnt : StashEnt := entry (.dirty 0x1_0420 0 1)
/-- R161 to R163: the touched byte of a DIRTY sector, and no other, goes to memory. -/
theorem test_stash_words :
    (goes (exec (.stashMap stashW) (stashing (.stashMap stashW) [])) (fun t => decide ((t.clu 0).stash = [⟨0, 0, 0x1_0400, 256, 0x100, []⟩]))
    && goes (exec (.stashFlush stashW) (stashing (.stashFlush stashW) [dirtyEnt])) (fun t => decide ((t.clu 0).stash = [entry (.clean 0x1_0420 0)])
      && decide (t.mem.readList 0x1_0420 2 = [0x77, 0]))
    && goes (exec (.stashDrop stashW) (stashing (.stashDrop stashW) [dirtyEnt])) (fun t => decide (t.mem.read 0x1_0420 = 0x77)
      && (t.clu 0).stash.all fun e => decide (e.st 1 = .unfilled))
    && goes (exec (.stashMap stashW) (stashing (.stashMap stashW) ((List.range 64).map fun k => ⟨1, 1, 0x10_0000 + 0x1000 * k, 32, 0, []⟩))) (fun t =>
      decide ((t.thr t0).held.map (·.cause) = [.stashfull]))) = true := by decide +kernel
theorem test_lfence :
    (goes (exec (.lfence (w 0 0 0 0x30 6)) (laneU (.lfence (w 0 0 0 0x30 6)) 0 0 0 [])) (fun t => !t.lane.held)
    && goes (exec (.lfence (w 0 0 0 0x20 6)) { laneU (.lfence (w 0 0 0 0x20 6)) 0 0 0 [] with
      ops := [{ (default : MemOp) with tid := t0, str := some 0, pid := 0, seq := 0, deed := .store 1 }]
      lane := { (laneU (.lfence (w 0 0 0 0x20 6)) 0 0 0 []).lane with word := { oneWord with seq := 1 } } }) (fun t => t.lane.held)) = true := by decide +kernel
theorem witness_LaneMemoryAndStash_once :
    (let s := stashing (.stashFlush stashW) [dirtyEnt]
     (cissueNext s 1).active && (payOnce (settleAcqs s)).2 && !orderHeld (settleAcqs s) && (let r := backCheck (payOnce (settleAcqs s)).1 0 (s.flk 0).ctx 0x1_0420
        decide (r.2 = none) && decide ((r.1.clu 0).stash = [dirtyEnt]) && r.1.mem.wf) && decide (s.ops = []) && (payOnce s).1.mem.wf && decide (((payOnce s).1.clu 0).stash = [dirtyEnt])
       && decide (0x1_0400 ≤ 0x1_0400 + 32 * 1) && decide ((w 0 0 0 0x30 6).order = 3) && releaseLane s 6 && acquireLane s && decide (2 ≤ (w 0 0 0 0x30 6).scope)) = true := by decide +kernel
/-- Lanes that an LARR has brought behind an LFENCE of its cluster: they wait while it is open, and arrive once it is made. -/
def owing (cut : Bool) : State :=
  let b : BarSlot := { BarSlot.free with gen := 3, used := true, kind := 1, scope := [(0, 1)] }
  let s := (laneU (.lfence (w 0 0 0 0x20 6)) 0 0 0 []).modFlk 0 fun f => { f with rcd := { f.rcd with bars := 4 }, bars := [((0, 1), b)] }
  let f : EWord := { oneWord with w := encLane 0x286 (w 0 0 0 0x20 6), seq := 5 }
  let c : List ((Nat × Nat) × CIssue) := if cut then [((0, 5), { (default : CIssue) with slots := 1 })] else []
  let st : Stream := { boundStream with owedArr := [(0, 0, 9, 0x30_0140, 0xF)], cissue := c, runs := [{ (default : Run) with words := [f] }] }
  s.modThr t0 fun x => { x with streams := [(0, st)] }
theorem witness_LaneFencesAndStash :
    ((strOf (owing true) t0 0).owedArr.any fun a => decide (a = (laneMember (owing true), 0, 9, 0x30_0140, 0xF))) = true ∧ fenceOpen (owing true) 0 9 = true
    ∧ fenceOpen (owing false) 0 9 = false ∧ passes (handleCheck (owing false) 0 0x30_0140 fun _ => true) (0, 1) = true
    ∧ (barAt (arriveOwed (owing false)) 0 (0, 1)).arrived.any (fun a => decide (a.2 = 0xF)) = true ∧ (strOf (owing true) t0 1).owedArr = [] := by decide +kernel

/-! ## The copy engine -/

def word (op : Nat) (x : LaneWord) (ua ub uc : Nat) : EWord :=
  { oneWord with w := encLane (BitVec.ofNat 10 op) x, ua := BitVec.ofNat 128 ua, ub := BitVec.ofNat 128 ub, uc := BitVec.ofNat 128 uc }
/-- Queue 0; the spaces of destination and source in bits 3 to 2 and 1 to 0: GLOBAL, LOCAL, PLANE. -/
def cpw (flags : Nat) : LaneWord := w 0 0xC4 0xC6 0xC8 (BitVec.ofNat 10 flags)
def copyEnt (wd : EWord) : CopyEnt := ⟨7, t0, 0, wd, 0, [], none, false, []⟩
def copying (es : List CopyEnt) : State := live.modClu 0 fun c => { c with cq := [(0, ⟨es, false⟩)], purse := { Purse.placed with tokens := 4096 } }
/-- Five bytes of a pattern of two, into the plane at 0x40. -/
def cpset5 : CopyEnt := copyEnt (word 0x304 (cpw 0x18) 0x40 0xBBAA 5)
/-- Eight bytes from a page that is not mapped. -/
def cpBad : CopyEnt := copyEnt (word 0x300 (cpw 8) 0x40 0x2_0000 8)
def chunk5 (st : ChunkSt) (ps : List ChunkPage) : Chunk := ⟨0, st, [0xAA, 0xBB, 0xAA, 0xBB, 0xAA].map some, ps, [], [], 0, []⟩
def started (e : CopyEnt) : CopyEnt := { e with chunks := [chunk5 .started []] }
def written5 : CopyEnt := { cpset5 with chunks := [chunk5 .written []] }
/-- R125 to R127: a chunk starts, its bytes are written, it lands. -/
theorem test_copy :
    (goes (exec (.copyChunkStart 0 0) (copying [cpset5])) (fun t => decide ((copyQ t 0 0).ents = [started cpset5]) && decide ((t.clu 0).purse.tokens = 4096 - 48)
        && (cpset5.chunkSegs 0).all fun g => decide ((writeSeg t 0 cpset5 (chunk5 .writing []) g [0, 1, 2, 3, 4]).1.planeRead 0 0x3F 7 = [0, 0xAA, 0xBB, 0xAA, 0xBB, 0xAA, 0]))
    && goes (exec (.copyChunkLand 0 0) (copying [written5])) (fun v => decide ((copyQ v 0 0).ents = []))
    && goes (exec (.copyChunkStart 0 0) (copying [cpBad])) (fun t => decide ((copyQ t 0 0).ents = [{ cpBad with fault := some (0, .notmapped, 0x2_0000, 0) }])
        && goes (exec (.copyChunkFault 0 0) t) fun u => (copyQ u 0 0).halted && decide ((u.thr t0).held.map (·.cause) = [.copyfault]))) = true := by decide +kernel
def haltedQ : State := live.modClu 0 fun c => { c with cq := [(0, ⟨[{ cpBad with fault := some (0, .notmapped, 0, 0) }], true⟩)] }
def fence5 : CopyEnt := copyEnt (word 0x305 (w 0 0 0 3 0) 0 0 0)
def fenced (q1 : List CopyEnt) : State := live.modClu 0 fun c => { c with cq := [(0, ⟨[fence5], false⟩), (1, ⟨q1, false⟩)] }
theorem test_copy_control :
    (goes (exec (.cqctlAbort 0 0) haltedQ) (fun t => decide (copyQ t 0 0 = ⟨[], false⟩)) && goes (exec (.cqctlResume 0 0) haltedQ) (fun t => decide (copyQ t 0 0 = ⟨[cpBad], false⟩))
    && goes (exec (.copyChunkLand 0 0) (fenced [fence5])) (fun t => decide ((copyQ t 0 0).ents = []) && decide ((copyQ t 0 1).ents = []))
    && goes (exec (.copyChunkLand 0 0) (fenced [{ cpset5 with id := 8 }, fence5])) (fun t => decide ((copyQ t 0 0).ents = [fence5]))) = true := by decide +kernel
def entering (i : Instr) (x : LaneWord) : Bool := goes (exec i (laneU i 0x40 0xBBAA 5 [])) fun t =>
  (copyQ t 0 (if x.m / 256 = 3 then 3 else 0)).ents.any fun e => decide (e.word.ua = 0x40)
theorem test_copy_words :
    (entering (.cp (cpw 8)) (cpw 8) && entering (.cp2d (cpw 8)) (cpw 8) && entering (.cpt (cpw 8)) (cpw 8) && entering (.cpg (cpw 8)) (cpw 8)
    && entering (.cpset (cpw 0x318)) (cpw 0x318) && entering (.qfence (w 0 0 0 1 0)) (w 0 0 0 1 0)
    && decide ((copyEnt (word 0x301 (cpw 0) (0x1000 + 0x100 * 2 ^ 64) (0x8000 + 0x40 * 2 ^ 64) (2 * 2 ^ 32 + 10))).place 13 = (0x1103, 0x8043, 7))
    && decide ((copyEnt (word 0x302 (cpw 0x10) (0x1000 + 0x100 * 2 ^ 64) (0x8000 + 0x40 * 2 ^ 64) (3 * 2 ^ 32 + 2))).place 8 = (0x1102, 0x8042, 2))) = true := by decide +kernel
theorem witness_CopyWords :
    (let s := laneU (.cp (cpw 8)) 0x40 0 5 []
     let c := cissueNext s 1
     let g := copyEnt (word 0x303 (cpw 9) 0 0 2)
     !s.lane.replay && c.done && c.full && decide ((copyQ s 0 0).ents = []) && decide (((cpw 0x318).m / 256) = 3) && decide (g.total < 4096) && decide (g.list.length < 2)
       && (match (readEntries 0 4096 1 (s.modFlk 0 fun f => { f with rcd := { f.rcd with scratch := 1 } }) g).2.2 with
         | .bad c k => decide (c = .cpdesc) && decide (k = 0)
         | _ => false) && decide (4096 * 0 < cpset5.total) && decide (cpset5.total = 5) && decide (({ g with list := [(0, 8, 4)] } : CopyEnt).total = 4)
       && decide (32 ≤ (List.replicate 32 cpset5).length)) = true := by decide +kernel
theorem witness_CopyWords_entry :
    (let s := live.localWrite 0 0 0 (leBytes 8 0x40 ++ leBytes 4 4)
     let g := copyEnt (word 0x303 (cpw 9) 0 0 1)
     let s1 := s.modFlk 0 fun f => { f with rcd := { f.rcd with scratch := 1, wplane := 1 } }
     !listBad s1 g 0 0x40 4 0 && listBad s1 g 0 0x40 0 0 && decide ((readEntries 0 4096 2 s1 g).2.1.list = [(0, 0x40, 4)]) && listBad s1 g 0 0x40 (2 ^ 31 + 1) 0
       && (localReady s1 0 0 0 16).2 && decide (stashOff s1 0 0 0 = none)) = true := by decide +kernel
theorem witness_CopyChunks :
    (let s := copying [cpset5]
     decide ((copyQ s 0 0).ents = [cpset5]) && !(copyQ s 0 0).halted && (s.flk 0).resident && !(s.flk 0).preReq && !(s.die 0).tripped && (pay s 0 2 64).2
       && !(pay (s.modClu 0 fun c => { c with purse := { c.purse with tokens := 47 } }) 0 2 64).2
       && (match startSegs 0 cpset5 (cpset5.chunkSegs 0) s [] with
         | (_, .ok r) => decide (r = ([0xAA, 0xBB, 0xAA, 0xBB, 0xAA].map some, []))
         | _ => false)
       && (match startSegs 0 cpBad (cpBad.chunkSegs 0) s [] with
         | (_, .error f) => decide (f = (.notmapped, 0x2_0000))
         | _ => false)
       && decide (stashOff s 0 0 0x40 = none) && (s.localMem 0 0).wf && (s.clu 0).plane.wf && s.mem.wf
       && decide ((s.homeOf 0x40).owners = []) && decide ((s.homeOf 0x40).sharers = []) && (match resolve s [] false t0 0 1 0x40 .load with
         | (_, .ok (.sram m o, _)) => decide (m = 0) && decide (o = 0x40)
         | _ => false)
       && (copyQ haltedQ 0 0).halted && decide (cpset5.chunks = []) && decide (fence5.word.op = 0x305) && decide (cpset5.word.op ≠ 0x303)
       && decide ((copyQ (fenced [fence5]) 0 1).ents.head? = some fence5) && decide ((copyQ (fenced [cpset5, fence5]) 0 1).ents.head?.map (·.id) = some 7)) = true := by decide +kernel

theorem witness_CopyChunks_chunks :
    (let s := copying [written5]
     let page : ChunkPage := ⟨1, .load, 1⟩
     decide (written5.chunks = [chunk5 .written []]) && decide ((chunk5 .written []).gwct = 0) && decide ((chunk5 .started []).st ≠ .written)
       && decide ((chunk5 .writing []).st = .writing) && (s.flocks.all fun f => f.2.resident || f.2.saved.all fun v => decide (v.cq = [])) && decide (4 ≤ (4 : Nat))
       && (match resolve s [] false t0 0 0 0x1_0040 .load with
         | (_, .ok (.home va pa, ps)) => decide (va = 0x1_0040) && decide (pa = 0x1_0040) && decide (ps = [page])
         | _ => false)
       && decide (([page].find? fun y => decide (y.va = 1) && (true || decide (y.acc = .store))) = some page) && decide (stashVa s 0 0x1_0040 = none)
       && (match resolve s [page] true t0 0 0 0x1_0040 .store with
         | (_, .ok (.home _ pa, _)) => decide (pa = 0x1_0040)
         | _ => false)
       && readHeld { s with bias := [] } (2 ^ 41) == readHeld s (2 ^ 41) && decide (5 ≤ cpset5.total) && decide ((cpset5.chunkSegs 0).map (·.n) = [5])) = true := by decide +kernel
def halted (v : SavedClu) : State := live.modFlk 0 fun f => { f with resident := false, clus := [0], saved := [v] }
theorem witness_CopyChunks_saved :
    (let v : SavedClu := { (default : SavedClu) with cq := [(0, ⟨[written5], false⟩)] }
     let s := halted v
     decide (s.flocks = [(0, s.flk 0)]) && !(s.flk 0).resident && decide ((s.flk 0).clus = [0]) && decide (((⟨[written5], false⟩ : CopyQ).settle s).ents = [written5]) && decide ((s.flk 0).saved = [v]) && decide (v.cq = [(0, ⟨[written5], false⟩)])
       && decide (written5.word.op = 0x304) && decide (written5.total ≤ 4096 * (0 + 1)) && decide ((copyQ s 0 0).ents = [])
       && goes (exec (.copyChunkLand 0 0) s) (fun t => (t.flk 0).saved.all fun w => decide (w.cq = [(0, ⟨[], false⟩)]))) = true := by decide +kernel
/-- A gather list of one entry: four LOCAL bytes from `src`. -/
def gathering (src : Nat) : State :=
  (copying [copyEnt (word 0x303 (cpw 9) 0 0 1)]).localWrite 0 0 0 (leBytes 8 src ++ leBytes 4 4) |>.modFlk 0 fun f => { f with rcd := { f.rcd with scratch := 1, wplane := 1 } }
/-- R126, R134: a CPG reads its entry and starts its chunk; an entry past the end of its space faults it. -/
theorem test_copy_gather :
    (goes (exec (.copyChunkStart 0 0) (gathering 0x40)) (fun t => (copyQ t 0 0).ents.all fun e => decide (e.list = [(0, 0x40, 4)]) && decide (e.chunks.length = 1))
    && goes (exec (.copyChunkStart 0 0) (gathering 0xFFFE)) (fun t => (copyQ t 0 0).ents.all fun e => decide (e.fault = some (0, .cpdesc, 0, 0)))) = true := by decide +kernel
theorem witness_CopyChunks_gather :
    (let g := copyEnt (word 0x303 (cpw 9) 0 0 1)
     let empty := copyEnt (word 0x303 (cpw 9) 0 0 0)
     let read (s : State) (e : CopyEnt) := (readEntries 0 4096 4097 s e).2
     decide (read (gathering 0x40) g = ({ g with list := [(0, 0x40, 4)] }, .done)) && decide ((read (gathering 0xFFFE) g).2 = .bad .cpdesc 0) && decide (read (gathering 0x40) empty = (empty, .done))
       && decide (empty.total ≤ 0) && decide ((read ((gathering 0x40).modClu 0 fun c => { c with stash := [⟨0, 0, 0x1_0400, 256, 0, []⟩] }) g).2 = .waits)
       && decide (fld (lo64 g.word.uc) 63 0 = 1) && decide ((copyQ (gathering 0x40) 0 0).ents ≠ []) && (match resolve live [] false t0 0 1 (2 ^ 63 + 0x1FF_FFF8) .load with
         | (_, .ok _) => true
         | (_, .error _) => false)) = true := by decide +kernel
/-- A fault whose record has been written already, and one whose earlier chunk has not landed. -/
theorem witness_CopyChunks_faults :
    (let f : CopyEnt := { cpBad with fault := some (0, .notmapped, 0, 0) }
     let told := copying [{ f with told := true }]
     goes (exec (.copyChunkFault 0 0) told) (fun t => (copyQ t 0 0).halted && decide ((t.thr t0).held = []))
       && goes (exec (.copyChunkFault 0 0) (copying [f])) (fun t => decide ((t.thr t0).held.length = 1) && (copyQ t 0 0).ents.all (·.told))
       && goes (exec (.copyChunkFault 0 0) (copying [{ f with fault := some (1, .notmapped, 0, 0), chunks := [chunk5 .written []] }])) (fun t => !(copyQ t 0 0).halted)) = true := by decide +kernel

/-! ## The matrix engine -/

def mm (ty shape : Nat) : LaneWord := w 0 0xC4 0xC6 (BitVec.ofNat 8 shape) (BitVec.ofNat 10 (ty * 16 + 4))
def matEnt (wd : EWord) : MatEnt := ⟨t0, 0, wd, false, none, none, [], (0, wd), false⟩
def mzero : MatEnt := matEnt (word 0x30A (mm 0 0) 0 0 0)
def mmy (ty : Nat) : MatEnt := matEnt { word 0x309 (mm ty 0) 0 0 0 with yoke := 3 }
def queued (es : List MatEnt) : State := live.modClu 0 fun c => { c with mq := es, purse := { Purse.placed with tokens := 4096 } }
def running (es : List MatEnt) : State := { (live.modClu 0 fun c => { c with array := es }) with now := 10 ^ 9 }
def halves (n : Nat) : List Byte := (List.replicate n (leBytes 2 0x3C00)).flatten
def s8Ent : MatEnt := { matEnt (word 0x308 (mm 4 0) 0 0 0) with snap := [List.replicate 128 0xFE, [], List.replicate 64 3, [], [5, 0, 0, 0]] }
def f16Ent : MatEnt := { matEnt (word 0x308 { mm 8 0 with mods := 0x80 } 0 0 0) with snap := [halves 64, [], halves 32] }
def elemIs (e : MatEnt) (v : Nat) : Bool := decide ((matElem e (fun _ => 0) 0 0).1 = v)
/-- R191: for s8 an element is the exact sum of 64 products −2 × 3, 64 of −2 × 0, and the old value 5. -/
theorem test_matrix_s8 : elemIs s8Ent (2 ^ 32 - 379) = true := by decide +kernel
/-- For f16, 1 × 1 thirty-two times, and 1 × 0, is 32. -/
theorem test_matrix_f16 : elemIs f16Ent 0x4200_0000 = true := by decide +kernel
theorem test_matrix :
    (goes (exec (.mzero (mm 0 0)) (laneU (.mzero (mm 0 0)) 0 0 0 [])) (fun t => decide ((t.clu 0).mq.length = 1))
    && goes (exec (.mm (mm 4 0)) (laneU (.mm (mm 4 0)) 0 0 0 [])) (fun t => decide ((t.clu 0).mq.length = 1))
    && goes (exec (.mmy (mm 4 0)) ((laneU (.mmy (mm 4 0)) 0 0 0 []).setGrp 0 0 0 { Group.placed with ex := 1 })) (fun t => decide ((t.clu 0).mq.length = 0))
    && goes (exec (.matrixEntryStart 0) (queued [mzero])) (fun t => decide ((t.clu 0).mq = []) && (t.clu 0).array.all fun e => e.paid && decide (e.start = some 0))
    && goes (exec (.matrixRetirement 0 0 false) (running [{ mzero with start := some 0 }])) (fun t => decide ((t.clu 0).array = []))) = true := by decide +kernel
def yoked (a b : MatEnt) : State := ((live.modFlk 0 fun f => { f with clus := [0, 1], slots := [[0], [0]] }).modClu 0 fun c => { c with mq := [a] }).modClu 1 fun c => { c with mq := [b] }
theorem test_yoke :
    (goes (exec (.yokeLatchComplete 0 3) (yoked (mmy 4) (mmy 4))) (fun t => decide ((t.clu 0).mq.map (·.yop) = [some 0]) && decide ((t.clu 1).mq.map (·.yop) = [some 0]))
    && goes (exec (.yokeLatchComplete 0 3) (yoked (mmy 4) (mmy 0))) (fun t => decide ((t.clu 0).mq = []) && decide ((t.clu 1).mq = [])
      && decide ((t.thr t0).held.map (·.cause) = [.yoke]))
    && goes (exec (.yokeLatchComplete 0 3) (yoked (mmy 4) mzero)) (fun t => decide (t = yoked (mmy 4) mzero))) = true := by decide +kernel
theorem witness_MatrixWords :
    (let s := laneU (.mm (mm 4 0)) 0 0 0 []
     !s.lane.replay && (cissueNext s 1).full && decide ((s.clu 0).mq.length < 8) && decide (8 ≤ (List.replicate 8 mzero).length) && usesCode 0x308 (mm 14 0) && !usesCode 0x308 (mm 4 0)
       && decide ((matEnt (word 0x308 (mm 4 31) 0 0 0)).word.x.shape < 32) && decide ((matEnt (word 0x308 (mm 4 31) 0 0 0)).word.op = 0x308)
       && decide ((matEnt (word 0x308 (mm 4 31) 0 0 0)).length ≤ 8392)) = true := by decide +kernel
theorem witness_MatrixEngine :
    (let s := queued [mzero]
     let r := running [{ mzero with start := some 0 }]
     let mmE : MatEnt := { matEnt (word 0x308 (mm 4 0) 0 0 0) with start := some 0 }
     decide ((s.clu 0).mq = [mzero]) && (s.flk 0).resident && !(s.flk 0).preReq && !(s.die 0).tripped && decide ((s.clu 0).array = []) && !tileStores s 0 0 0
       && (pay s 0 0 mzero.price).2 && !(pay s 0 0 4097).2 && decide (mzero.length ≤ (r.now - 0) * cluMHz r 0 / 1000000) && decide (mmE.length ≤ (r.now - 0) * cluMHz r 0 / 1000000)
       && decide ((r.ctx 0).aelEn = 0) && decide (mzero.word.bar? = none) && decide (mmE.word.bar? = none) && (r.localMem 0 0).wf
       && decide ((mmE.length ≤ (live.now - 0) * cluMHz live 0 / 1000000) = False)
       && (let y := yoked (mmy 4) (mmy 0)
           decide ((y.clu (y.pidOf 0 1)).mq.head? = some (mmy 0)) && decide ((mmy 0).word.yoke = 3) && decide ((mmy 0).word.op = 0x309) && decide ((y.thr t0).status = .running)
             && decide ((y.thr t0).held = []) && decide ([y.pidOf 0 0, y.pidOf 0 1] = [0, 1]))) = true := by decide +kernel
/-- Member 0 of a yoke of two retires in error; member 1 still runs, or has retired. -/
def yokedEnt (gone : Bool) : MatEnt := { mmy 4 with start := some 0, yop := some 9, peerErr := gone }
def fellows (gone : Bool) : State :=
  let s := { yoked (mmy 4) (mmy 4) with now := 10 ^ 9 }
  (s.modClu 0 fun c => { c with mq := [], array := [yokedEnt false] }).modClu 1 fun c =>
    { c with mq := [], array := if gone then [] else [yokedEnt false], retired := if gone then [yokedEnt false] else [] }
/-- R268: the fellow that still runs learns of the error; one that has retired writes its record. -/
theorem test_yoke_errors :
    (goes (exec (.matrixRetirement 0 0 true) (fellows false)) (fun t => (t.clu 1).array.all (·.peerErr) && decide ((t.clu 0).array = []) && decide ((t.ctx 0).frHead = 1)
        && decide ((t.clu 0).retired.length = 1))
    && goes (exec (.matrixRetirement 0 0 true) (fellows true)) (fun t => decide ((t.ctx 0).frHead = 2) && decide ((t.clu 1).retired = []) && decide ((t.clu 0).retired = []))) = true := by decide +kernel
theorem witness_MatrixEngine_yokes :
    (let e := yokedEnt true
     let bar := (word 0x308 (mm 4 0) (2 ^ 127 + 2 ^ 64 * 0x30_0100) 0 0).bar?
     decide (yokeOf (fellows true) 0 3 = [(0, 0), (1, 1)]) && e.peerErr && decide ((yokedEnt true).yop = some 9) && decide (((fellows false).clu 0).array = [yokedEnt false])
       && decide ((yokedEnt false).length ≤ ((fellows false).now - 0) * cluMHz (fellows false) 0 / 1000000) && ((fellows false).localMem 0 0).wf
       && decide (((fellows true).clu 1).retired.filter (fun x => decide (x.yop = some 9) && !x.peerErr) = [yokedEnt false]) && decide (((fellows false).clu 1).retired = [])
       && decide ((matEnt (word 0x308 (mm 14 0) 0 0 0)).word.x.ty6 = 14) && decide (bar = some 0x30_0100)) = true := by decide +kernel

/-! ## The temporal array -/

def taEnt (wd : EWord) : TaEnt := ⟨11, t0, 0, wd, [], [(0, 0xFFFF_FFFF)], false, none, []⟩
def taWith (a : TArray) : State := live.modClu 0 fun c => { c with ta := a, purse := { Purse.placed with tokens := 4096 } }
def taOf (l : List TaEnt) : TArray := { TArray.placed with ents := l }
def taBegun (wd : EWord) : TaEnt := { taEnt wd with paid := true, start := some 0 }
def taLater (a : TArray) : State := { taWith a with now := 10 ^ 6 }
def winWord : EWord := word 0x310 (w 0 0 0 40 0) 0 0 0
def goWord : EWord := word 0x313 (w 0 2 0 0 0) 0 0 0
def captWord (mode k : Nat) : EWord := word 0x314 (w 8 0 0 (BitVec.ofNat 8 k) (BitVec.ofNat 10 mode)) 0 0 0
/-- Two rows close column 0 after 3 and 5 ticks, and column 1 after 3 ticks from row 0. -/
def array2 (kinds : Nat) : TArray :=
  { TArray.placed with window := 8, kinds := kinds, delay := [[3, 3] ++ List.replicate 126 255, [5] ++ List.replicate 127 255] }
/-- R280: inputs at ticks 1 and 2; an OR column takes the first arrival, an AND column the last; R282: ranks. -/
theorem test_temporal_values :
    (let at1 (k c : Nat) : Nat := (taWindow (array2 k) [1, 2]).getD c 0
     decide (at1 0 0 = 4) && decide (at1 1 0 = 7)
       && decide ((taResult [9, 255, 7] 1 0).take 3 = [1, 255, 0]) && decide ((taResult [9, 255, 7] 2 2).take 3 = [2, 0, 255])
       && decide ((taResult [9, 255, 7] 0 0).take 3 = [9, 255, 7])) = true := by decide +kernel
/-- R277, R278, R281, R284. -/
theorem test_temporal :
    (goes (exec (.taEntryStart 0) (taWith (taOf [taEnt winWord]))) (fun t => (t.clu 0).ta.ents.all (fun e => decide (e.start = some 0)) && decide ((t.clu 0).ta.window = TArray.placed.window))
    && goes (exec (.taEntryStart 0) (taLater (taOf [taBegun winWord]))) (fun t => decide ((t.clu 0).ta.window = 40) && decide ((t.clu 0).ta.ents = []))
    && goes (exec (.taEntryStart 0) (taLater (taOf [taBegun (word 0x312 (w 0 0xC4 0 0 1) 5 0 0)]))) (fun t => decide ((t.clu 0).ta.kinds = 5) && (t.clu 0).ta.loop)
    && goes (exec (.taEntryStart 0) (taLater { array2 0 with latch := [1], ents := [taBegun (word 0x315 (w 0 0 0 0 0) 0 0 0)] })) (fun t => decide ((t.clu 0).ta.latch.headD 0 = 255))
    && goes (exec (.taEntryStart 0) (taWith (taOf [taEnt goWord]))) (fun t => (t.clu 0).ta.ents.all fun e => e.paid && decide (e.start = some 0))
    && goes (exec (.taWindowEnd 0 false) { taWith { array2 0 with ents := [{ taEnt goWord with start := some 0, inputs := [1, 2] }] } with now := 10 ^ 6 })
      (fun t => decide ((t.clu 0).ta.latch.headD 0 = 4) && decide ((t.clu 0).ta.ents = []))) = true := by decide +kernel
def taEnters (i : Instr) (s : State) : Bool := goes (exec i s) fun t => decide ((t.clu 0).ta.ents.length = 1)
theorem test_temporal_words :
    (taEnters (.taWin (w 0 0 0 40 0)) (laneU (.taWin (w 0 0 0 40 0)) 0 0 0 []) && taEnters (.taDly (w 0 0xC4 0 0 0)) (laneU (.taDly (w 0 0xC4 0 0 0)) 0 0 0 [])
    && taEnters (.taMode (w 0 0xC4 0 0 0)) (laneU (.taMode (w 0 0xC4 0 0 0)) 0 0 0 []) && taEnters (.taClr (w 0 0 0 0 0)) (laneU (.taClr (w 0 0 0 0 0)) 0 0 0 [])
    && taEnters (.taCapt (w 8 0 0 0 0)) (laneU (.taCapt (w 8 0 0 0 0)) 0 0 0 [])
    && goes (exec (.taGo (w 0 2 0 0 0)) (laneU (.taGo (w 0 2 0 0 0)) 0 0 0 [(2, same 0x0403_0201)])) (fun t =>
      (t.clu 0).ta.ents.all fun e => decide (e.inputs.take 4 = [1, 2, 3, 4]) && decide (e.inputs.length = 128))) = true := by decide +kernel
theorem witness_TemporalEngine :
    (let s := laneU (.taGo (w 0 2 0 0 0)) 0 0 0 []
     let r := taWith (taOf [taEnt goWord])
     let u := { taWith { array2 0 with ents := [{ taEnt goWord with start := some 0 }] } with now := 10 ^ 6 }
     !s.lane.replay && decide (activeMask s (w 0 2 0 0 0) = 0xFFFF_FFFF) && decide (s.lane.slot = 0) && decide ((strOf s t0 0).gmask = 1) && decide ((s.clu 0).ta.ents.length < 8)
       && decide (8 ≤ (List.replicate 8 (taEnt goWord)).length) && decide ((r.clu 0).ta.ents = [taEnt goWord]) && (r.flk 0).resident && !(r.flk 0).preReq && !(r.die 0).tripped
       && (pay r 0 1 32).2 && !(pay r 0 1 4096 |>.1 |> fun z => (pay z 0 1 4096).2) && !dlyBlocked r 0 (taEnt (word 0x311 (w 0 0xC4 0 0 0) 0 0 0))
       && decide (0 * cluMHz u 0 / 1000000 + 5 + (8 * cluMHz u 0 + 5399) / 5400 ≤ u.now * cluMHz u 0 / 1000000)
       && decide (5 * cluMHz u 0 / 1000000 ≠ u.now * cluMHz u 0 / 1000000) && decide ((r.clu 0).ta.lastRet = none) && decide (1 ≤ (u.now - 0) * cluMHz u 0 / 1000000)
       && decide ((r.now - 0) * cluMHz r 0 / 1000000 < 1) && decide (128 ≤ (u.now - 0) * cluMHz u 0 / 1000000)
       && decide ((u.now - u.now) * cluMHz u 0 / 1000000 < 128) && decide ((List.replicate 16384 (0 : Byte)).length = 16384) && decide ((array2 0).window ≤ 255)
       && [9, 255, 7].all fun n => decide (n ≤ 255)) = true := by decide +kernel

/-! ## Runs, results, LWAIT, LARR and the trailer -/

def runState : State := withStream { boundStream with runs := [⟨0, [{ oneWord with w := reelWord }], trailer, 0⟩], nextRun := 1 }
theorem test_run_start : goes (exec (.runStart 0 0) runState) (fun t => ((t.clu 0).pipes.find 0).any fun p => decide (p.run.idx = 0) && decide (p.slot = 0) && decide (p.pos = 0)) = true := by
  decide +kernel
/-- R147: a 16-bit load with sign extension (code 3) of local bytes into lane 2 of v8. -/
def localLoad (code n : Nat) : State := ((live.localWrite 0 0 0x20 [0xFE, 0xFF, 1, 0]).setGrp 0 0 0 { Group.placed with out := [⟨8, 1, 4, t0, 0, 3, true⟩] }) |> fun s =>
  { s with ops := [{ (default : MemOp) with id := 6, tid := t0, str := some 0, seq := 3, slot := 0, lane := 2, place := .loc 0 0x20 0 0 false, n := n, deed := .load, dest := .lane 0 2 8 code }] }
def captured : State := (taWith { taOf [{ taEnt (captWord 0 0) with start := some 0 }] with latch := [1, 2, 3, 4] }) |> fun s => { s with now := 10 ^ 5 }
theorem test_results :
    (goes (exec (.variableResultLand 6) (localLoad 3 2)) (fun t => decide ((t.grp 0 0 0).laneOf 8 2 = 0) && (t.ops.all fun o => decide (o.got = some [0xFE, 0xFF]))
      && goes (exec (.variableResultLand 6) t) fun t => decide ((t.grp 0 0 0).laneOf 8 2 = 0xFFFF_FFFE) && decide ((t.grp 0 0 0).laneOf 8 1 = 0) && decide (t.ops = [])
        && decide ((t.grp 0 0 0).out = []))
    && goes (exec (.variableResultLand 6) (localLoad 4 4)) (fun t => goes (exec (.variableResultLand 6) t) fun t => decide ((t.grp 0 0 0).laneOf 8 2 = 0x1_FFFE))
    && goes (exec (.variableResultLand 11) captured) (fun t => decide ((t.grp 0 0 0).laneOf 8 0 = 0x0403_0201) && decide ((t.clu 0).ta.ents = []))) = true := by decide +kernel
def waitWord (op : Nat) : LaneWord := w 0 0xC4 (if op = 0x318 then 0xC5 else 0) 0 0
def barLane (i : Instr) (b : BarSlot) (p : Nat) : State :=
  (laneU i 0x30_0100 p 0 []).modFlk 0 fun f => { f with rcd := { f.rcd with bars := 4 }, bars := [((0, 1), b)] }
theorem test_lane_barriers :
    (goes (exec (.lwait (waitWord 0x318)) (barLane (.lwait (waitWord 0x318)) bar0 0)) (fun t => t.lane.held)
    && goes (exec (.lwait (waitWord 0x318)) (barLane (.lwait (waitWord 0x318)) bar0 1)) (fun t => !t.lane.held && decide ((t.thr t0).held = []))
    && goes (exec (.lwait (waitWord 0x318)) (barLane (.lwait (waitWord 0x318)) { bar0 with gen := 4 } 1)) (fun t => decide ((t.thr t0).held.map (·.cause) = [.bargen]))
    && goes (exec (.larr (waitWord 0x319)) (barLane (.larr (waitWord 0x319)) bar0 0)) (fun t => decide ((barAt t 0 (0, 1)).phase = 1))
    && goes (exec (.larr (waitWord 0x319)) ({ barLane (.larr (waitWord 0x319)) { bar0 with kind := 1, scope := [(0, 1)] } 0 with
        lane := { (barLane (.larr (waitWord 0x319)) bar0 0).lane with word := { oneWord with ua := 0x30_0140 } } })) (fun t => decide ((barAt t 0 (0, 1)).phase = 1))) = true := by decide +kernel
/-- R40: the trailer closes the run of the open words. -/
theorem test_trailer :
    (goes (exec (.trl ⟨0, 0, 0, 0, false, 12, 0, false, 0⟩) (withStream { boundStream with openRun := [oneWord] })) (fun t => decide ((strOf t t0 0).runs.length = 1)
        && decide ((strOf t t0 0).openRun = []) && decide ((me t).pc = 0x1_0008))
    && traps (exec (.trl ⟨0, 0, 0, 0, false, 12, 0, false, 0⟩) (handled live)) .stream 0xF800_0000_0006_0000) = true := by decide +kernel
theorem witness_RunsAndResults :
    (let s := runState
     let o := firstOp (localLoad 3 2)
     let l := localLoad 3 2
     !(readyRuns (rollSpend s 0) 0 0).isEmpty && ((s.clu 0).pipes.find 0).isNone && !(s.die 0).tripped && (readyRuns live 0 0).isEmpty && decide (4 ≤ 4)
       && decide ((l.grp 0 0 0).tail = []) && (l.clu (l.pidOf 0 0)).pipes.isEmpty && (captured.clu 0).pipes.isEmpty && acquireLane (barLane (.lwait (waitWord 0x318)) bar0 1)
       && decide (findOp l 6 = some o) && decide (o.alt = []) && !o.acq && (l.flk 0).resident && !blockedBySame l o && decide (stashOff l 0 0 0x20 = none) && decide (o.n = 2)
       && decide ((captureDue captured 11).map (·.1) = some 0) && decide (findOp captured 11 = none) && decide (findOp live 1 = none) && decide (captureDue live 1 = none)
       && decide ((captured.clu 0).ta.ents.head? = (captureDue captured 11).map (·.2))
       && handleLive (barLane (.lwait (waitWord 0x318)) bar0 1) && !handleLive (barLane (.lwait (waitWord 0x318)) { bar0 with gen := 4 } 1)
       && (⟨0, 0, 0, 0, false, 12, 0, false, 0⟩ : LaneWord).ok 0x380 && !emitHeld live && decide (0x30_0140 / 2 ^ 6 % 4 = 1)
       && (addArrivals (bar1 []) 0 (0, 1) 1).isSome && (addArrivals (bars [((0, 1), { bar0 with arr := 65535 })] []) 0 (0, 1) 1).isNone) = true := by decide +kernel

/-- Reads that have performed: bytes for lane 2 of v8, for every lane, and for a tile register of one-byte elements. -/
def returned (d : Dest) (n : Nat) (bs : List Byte) : State :=
  let s := localLoad 4 n
  { s with ops := s.ops.map fun o => { o with dest := d, made := some 0, got := some bs } }
def tiles : State := returned (.tile 0 0xFFFF_FFFF 8 1 0 0) 32 ((List.range 32).map (BitVec.ofNat 8 ·))
/-- R147: an atomic whose write is still owed. -/
theorem test_result_owed :
    goes (exec (.variableResultLand 6) (let s := returned (.lane 0 2 8 4) 4 [1, 2, 3, 4]; { s with ops := s.ops.map fun o => { o with deed := .atomic 0 1 0 false } }))
      (fun t => decide ((t.grp 0 0 0).laneOf 8 2 = 0x0403_0201) && decide (t.ops.map (·.dest) = [.none])) = true := by decide +kernel
def ownOp (d : Deed) (pl : Place) (acq : Bool) : State := let s := localLoad 4 4
  { s with ops := s.ops.map fun o => { o with deed := d, place := pl, acq := acq, scope := 6, n := 4 } }
theorem witness_RunsAndResults_returns :
    (let o := firstOp (returned (.lane 0 2 8 4) 4 [1, 2, 3, 4])
     let a := ownOp (.atomic 0 1 0 false) (.loc 0 0x20 0 0 false) false
     let g := ownOp .load (.glob 0x1_0040 0x1_0040) true
     decide (o.got = some [1, 2, 3, 4]) && o.made.isSome && decide (o.n = 4) && decide (findOp a 6 = some (firstOp a)) && !blockedBySame a (firstOp a)
       && (match atomicNow a (firstOp a) 0 1 0 with
         | (_, some (bs, _), .done _) => decide (bs = [0xFE, 0xFF, 1, 0])
         | _ => false)
       && (match serveOf a (firstOp a) with
         | .sram c k => decide (c = 0) && decide (k = 0x20)
         | _ => false) && (a.localMem 0 0).wf
       && bypasses (firstOp g) && (match serveOf g (firstOp g) with
         | .home va pa => decide (va = 0x1_0040) && decide (pa = 0x1_0040)
         | _ => false) && (uoAt (g.clu 0) (lineOf 0x1_0040)).isNone && !readHeld g 0x1_0040 && decide ((g.homeOf 0x1_0040).owners = []) && decide ((g.homeOf 0x1_0040).sharers = [])
       && decide ((spreadMates tiles (firstOp tiles)).map (·.id) = tiles.ops.map (·.id)) && decide (tiles.ops.map (·.dest) = [.tile 0 0xFFFF_FFFF 8 1 0 0])
       && (let waits : State := { tiles with ops := tiles.ops ++ tiles.ops.map fun x => { x with id := 7, dest := .tile 0 0xFFFF_FFFF 8 1 0 16, got := none } }
           (spreadMates waits (firstOp waits)).any fun x => decide (x.got = none))
       && ((captured.flk 0).resident && decide (([(0, 0xFFFF_FFFF)] : List (Nat × Nat)).map (·.1) = [0]))) = true := by decide +kernel
/-- A run of one word in focus on pipe 0, at a position. -/
def onPipe (pos : Nat) (f : PipeRun → PipeRun) : State :=
  let runs : List Run := ((laneRun aLane).map fun p : PipeRun => [p.run]).getD []
  let s := { aLane with lane := { aLane.lane with held := true }, threads := (withStream { boundStream with runs := runs }).threads }
  s.modClu 0 fun c => { c with pipes := c.pipes.map fun e => (e.1, f { e.2 with pos := pos }) }
theorem test_run_end :
    (let done := tryEnd (onPipe 1 id)
     let parked := tryEnd ((onPipe 1 id).modThr t0 fun x => { x with streams := x.streams.map fun e => (e.1, { e.2 with parked := [(0, 0x77, 0)] }) })
     (done.clu 0).pipes.isEmpty && decide ((strOf done t0 0).prog.get (0, 0) 0 = 1) && decide ((strOf done t0 0).runs = []) && decide ((done.thr t0).held = [])
       && decide ((parked.thr t0).held.map (·.cause) = [.lanefault]) && decide ((strOf parked t0 0).parked = [])
       && (let r := tryEnd ((onPipe 1 fun p => { p with replay := true }).setGrp 0 0 0 { Group.placed with prec := some { parkRec with replaying := true, queued := 2 } })
           (r.grp 0 0 0).prec.any fun p => !p.replaying && decide (p.queued = 1))) = true := by decide +kernel
theorem witness_RunsAndResults_ends :
    (let a := onPipe 1 id
     let h := onPipe 0 id
     (laneRun a).any (fun p => decide (p.run.words.length ≤ p.pos)) && !hostOwed a && (laneRun h).any (fun p => decide (p.pos < p.run.words.length)) && h.lane.held
       && (laneRun h).any (fun p => decide (p.acts = []) && decide (p.pos = 0))
       && (let t (s : State) := s.modClu 0 fun c => { c with pipes := c.pipes.erase 0 }
           let q := barLane (.lwait (waitWord 0x318)) bar0 0
           let b := goes (exec (.lwait (waitWord 0x318)) (q.modClu 0 fun c => { c with pipes := c.pipes.map fun e => (e.1, { e.2 with run := { e.2.run with words := [q.lane.word] } }) })) fun b => b.lane.held && (laneRun b).any fun p =>
             decide (p.pos = 0) && decide (p.acts = []) && !p.replay && (readyPrice (t b) 0 0 p).isNone && (giveBack b |> fun g => (g.clu 0).pipes.isEmpty)
           b && (laneRun h).any fun p => (readyPrice (t h) 0 0 p).isSome)
       && decide ((strOf a t0 0).masks = []) && decide ((strOf a t0 0).parked = []) && decide ((pairs (strOf a t0 0)) = [(0, 0)])
       && decide ((a.thr t0).status = .running) && (laneRun (onPipe 1 fun p => { p with replay := true, faultRec := some (0, 0) })).any (·.faultRec.isSome)
       && (live.clusters.find 0).isSome && (noteReady runState).clusters.any (fun e => !e.2.ready.isEmpty)
       && fenceOpen (owing true) 0 9 && ((bars [((0, 1), { bar0 with kind := 1, scope := [(0, 1)], arrived := [((0, 0), 1)] })] []) |> fun s =>
         decide ((barAt s 0 (0, 1)).arrived.get (0, 0) 0 = 1))) = true := by decide +kernel

/-! ## Threads: their end, boundary traps, debug stops, samples -/

def bp : State := (inThr fun x => { x with stopReq := true }).modPkg fun p => { p with safePoints := [] }
theorem test_thread_end :
    (goes (exec (.threadEnd 0 0 0) (inThr fun x => { x with status := .exited })) (fun t => decide ((t.thr t0).status = .ended))
    && goes (exec (.threadEnd 0 0 0) (inThr fun x => { x with status := .exited, held := [⟨.lanefault, 0, 0⟩] })) (fun t => decide ((t.thr t0).status = .exited))
    && goes (exec (.boundaryTrap 0 0 0) (handled (inThr fun x => { x with held := [⟨.lanefault, 0x77, 0⟩] }))) (fun t => decide ((t.thr t0).tcause = Cause.lanefault.code)
      && decide ((t.thr t0).tval = 0x77) && decide ((t.thr t0).tpc = 0x1_0000) && decide ((t.thr t0).pc = 0x2000))
    && goes (exec (.boundaryTrap 0 0 0) (handled (inThr fun x => { x with held := [⟨.lanefault, 0x77, 5⟩] }))) (fun t => !(t.thr t0).intrap)) = true := by decide +kernel
theorem test_debug :
    (goes (exec (.stop 0) (inCtx fun c => { c with dbgThreads := 1 })) (fun t => (t.thr t0).stopReq) && goes (exec (.stop 0) (inCtx fun c => { c with dbgThreads := 2 })) (fun t => !(t.thr t0).stopReq)
    && goes (exec (.dbgctlResume 0) (inThr fun x => { x with stopped := some ⟨1, 0, 0⟩ })) (fun t => decide ((t.thr t0).stopped = none) && (t.thr t0).resumed)
    && goes (exec (.checkScoreboardStop 0 0 0) (inThr fun x => { x with stopNext := some 9 })) (fun t => decide ((t.thr t0).stopped = some ⟨3, 0, 9⟩))
    && goes (exec (.dbgdataWrite 0 0x99) ((inThr fun x => { x with stopped := some ⟨1, 0, 0⟩ }).modCtx 0 fun c => { c with dbgReg := 7 })) (fun t => decide ((t.thr t0).gr 7 = 0x99))
    && goes (exec (.sampctlWrite 0 5) live) (fun t => decide ((t.ctx 0).sampIv = 256)) && goes (exec (.sampctlWrite 0 0) live) (fun t => decide ((t.ctx 0).sampIv = 0))) = true := by decide +kernel
def sampling : State := { inCtx (fun c => { c with sampIv := 256, sampBase := 0x10 }) with now := 10 ^ 6 }
theorem test_sample : goes (exec (.sampleRecord 0) sampling) (fun t => decide ((t.ctx 0).sampHead = 1) && decide (t.mem.readList 0x1_0006 2 = [0, 0])
    && decide (t.mem.readNat 0x1_0008 8 = 1000)) = true := by decide +kernel
def atBp : State := { inCtx (fun c => { c with bps := [0x1_0000, 0, 0, 0] }) with
  pkg := { live.pkg with safePoints := [((0, 0x1_0000), [(0x1_0000, 1)])] } }
theorem witness_ThreadStops :
    (let s := inThr fun x => { x with held := [⟨.lanefault, 0, 0⟩] }
     decide ((s.thr t0).status = .running) && decide ((s.thr t0).stopped = none) && decide ((s.thr t0).wait = none) && decide ((s.thr t0).hostOp = none) && !(s.flk 0).preReq
       && decide ((s.thr t0).stopNext = none) && !(s.thr t0).stopReq && ((s.ctx 0).bps.all fun b => decide (b ≠ 0x1_0000)) && !(s.thr t0).intrap && (s.flk 0).resident && !(s.die 0).tripped
       && decide ((live.thr t0).streams = []) && decide (live.ops = []) && decide ((live.thr t0).votes = []) && decide ((live.thr t0).deferred = [])
       && decide (5 < ({ s with now := 6000 } : State).now / 1000) && decide ((atBp.ctx 0).bps.headD 0 = (atBp.thr t0).pc.toNat)
       && decide (live.threads.map (·.1) = [t0]) && decide (live.flocks.map (·.1) = [0]) && decide ((sampling.ctx 0).sampIv ≤ (sampling.now - 0) * cluMHz sampling 0 / 1000000)
       && decide ((live.ctx 0).sampIv = 0) && decide (live.pidOf 0 0 = (live.ctx 0).dbgClu) && decide ((live.ctx 0).dbgThread = 0) && decide ((live.ctx 0).dbgKind = 0)) = true := by decide +kernel

/-! ## Placement, ageing, the end of flocks, the watchdog, pre-emption -/

/-- A record of one flock of one cluster at class 0, one thread, on the clusters given. -/
def rcd1 (prio : Nat) (mask : List Nat) : Record :=
  { (default : Record) with image := 0x4_0000, gx := 1, gy := 1, gz := 1, flock := 1, groups := 2, cls := 0, prio := prio, mask := mask
                            threads := [(true, 2, 0x80)], args := [0x11, 0x22], num := 6 }
/-- Queue 5 with a head; quads 0 and 1 of die 0. -/
def waitingHead (prio : Nat) (mask : List Nat) : State := (inPkg fun p => p).modQue 5 fun k => { k with loaded := true, prio := prio, mask := mask, head := some (rcd1 prio mask) }
/-- R395 to R397: cluster 4 is on an empty quad; g1 and g2 are arguments, g17 the record's number. -/
theorem test_placement : goes (exec .placementStep (waitingHead 3 [0, 4])) (fun t =>
    let x := t.thr ⟨1, 0, 0⟩
    decide ((t.flk 1).clus = [4]) && (t.flk 1).resident && decide (x.pc = 0x4_0080) && decide (x.gr 1 = 0x11) && decide (x.gr 2 = 0x22) && decide (x.gr 17 = 6)
      && decide ((t.que 5).head = none) && decide (x.role = .vector)) = true := by decide +kernel
def full16 : State := (waitingHead 3 [0]).modFlk 0 fun f => { f with rcd := { f.rcd with groups := 15 } }
theorem test_blocked :
    (goes (exec .placementStep full16) (fun t => decide ((t.que 5).blockedAt = some 0) && decide ((t.que 5).head.isSome))
    && goes (exec .headAgeTick ({ full16 with now := 3000 * 1000 } |>.modQue 5 fun k => { k with blockedAt := some 1000 })) (fun t => decide ((t.que 5).age = 2))) = true := by decide +kernel
/-- A pre-empted flock of the queue of the placed code. -/
def preempted : State := (live.modQue 5 fun k => { k with loaded := true }).modFlk 0 fun f => { f with resident := false, queue := 5, rcd := rcd1 2 [0, 4], image := some 0 }
theorem test_order :
    (decide ((wants ((waitingHead 3 [0]).modQue 7 fun k => { k with loaded := true, prio := 9, head := some (rcd1 9 [1]) })).map (·.queue) = [7, 5])
    && decide ((wants preempted).map (·.fid) = [some 0]) && decide (chooseSet (waitingHead 3 [0, 4]) ⟨5, rcd1 3 [0, 4], 0, none⟩ = some [4])
    && decide (chooseSet full16 ⟨5, rcd1 3 [0], 0, none⟩ = none)) = true := by decide +kernel
theorem witness_Placement :
    (let s := waitingHead 3 [0, 4]
     decide (s.pkg.stage ≠ 0) && decide ((wants s).length = 1) && decide ((rcd1 3 [0, 4]).mask = [0, 4]) && fits s [] [] (rcd1 3 [0, 4]) 4 && !fits full16 [] [] (rcd1 3 [0]) 0
       && decide (s.queues.map (·.1) = [5]) && decide ((s.que 5).head = some (rcd1 3 [0, 4])) && (s.flocks.all fun e => decide (e.2.queue ≠ 5)) && decide ((rcd1 3 []).prio < 24)
       && decide (wants live = []) && decide (s.pkg.lastAge < 3000 * 1000 / 1000 / 1000) && decide (((rcd1 3 []).threads[0]?) = some (true, 2, 0x80))
       && decide ((preempted.flocks.filter fun e => decide (e.2.queue = 5) && !e.2.resident && !e.2.ended).map (·.1) = [0])
       && (chooseSet preempted ((wants preempted).headD ⟨0, default, 0, none⟩)).isSome && decide ((rcd1 16 []).prio ≥ 16)) = true := by decide +kernel

def idleFlock : State := inThr fun x => { x with status := .ended }
theorem test_flock_end :
    (goes (exec (.flockEnd 0) idleFlock) (fun t => (t.flk 0).ended && !(t.flk 0).resident && decide (t.threads = []))
    && goes (exec (.flockEnd 0) live) (fun t => (t.flk 0).resident) && goes (exec (.preempt 0) live) (fun t => (t.flk 0).preReq)
    && goes (exec (.clear 0) (inThr fun x => { x with status := .halted, held := [⟨.lanefault, 0, 0⟩] })) (fun t => decide ((t.thr t0).status = .exited) && decide ((t.thr t0).held = []))
    && goes (exec (.watchdogReport 0) ({ live with now := 10 ^ 16 })) (fun t => (t.ctx 0).evt.testBit 1)
    && goes (exec (.watchdogReport 0) live) (fun t => decide ((t.ctx 0).evt = 0))) = true := by decide +kernel
theorem witness_FlocksEndAndStop :
    (let s := idleFlock
     let w : State := { live with now := 10 ^ 16 }
     (s.flk 0).resident && (s.threads.all fun e => decide (e.2.status = .ended) && decide (e.2.hor = Horizon.zero) && decide (e.2.streams = [])) && decide (s.ops = [])
       && (s.clusters.all fun e => e.2.cq.isEmpty && e.2.mq.isEmpty && e.2.array.isEmpty && e.2.ta.ents.isEmpty && e.2.pipes.isEmpty && e.2.pft.isEmpty && e.2.stash.isEmpty && e.2.l1.isEmpty)
       && decide ((s.ctx 0).windows = []) && decide ((w.ctx 0).wdLimit ≠ 0) && decide ((w.ctx 0).wdLimit ≤ (w.now - (w.ctx 0).wdLast) * 2700 / 1000000)
       && decide (threadWaiters w 0 ++ streamWaiters w 0 ++ pipeWaiters w 0 = [false]) && decide (threadWaiters ((bar1 []).modThr t0 fun x => { x with wait := some ⟨0, [], some ⟨0x30_0100, 0, 0, 6, 0, none⟩⟩ }) 0 = [false])
       && (let x := bars [((0, 1), { bar0 with ext := true })] []
           decide (threadWaiters (x.modThr t0 fun x => { x with wait := some ⟨0, [], some ⟨0x30_0120, 0, 0, 6, 0, none⟩⟩ }) 0 = [true]))
       && (let p := (live.modFlk 0 fun f => { f with preReq := true }).modCtx 0 fun c => { c with imgSlots := 1 }
           flockHalted p 0 && decide (imageSlot (p.ctx 0) = some 0) && decide (imageSlot (live.ctx 0) = none)
             && decide ((p.thr t0).popAt = none) && decide ((p.thr t0).out = []) && decide (((inThr fun x => { x with popAt := some 0x1_0000 }).thr t0).popAt = some 0x1_0000))
       && decide ((haltedQ.clusters.map (·.1)) = [0]) && (copyQ haltedQ 0 0).halted && ((List.range 4).all fun r => decide (r = 0) || !(copyQ haltedQ 0 r).halted)
       && decide (haltedQ.threads.map (·.1) = [t0]) && decide ((haltedQ.thr t0).streams = [])) = true := by decide +kernel

/-! ## Bring-up and the register pages -/

def staged (n : Nat) : State := inPkg fun p => { p with stage := n }
/-- The CRC of "123456789" is 0xCBF43926. -/
theorem test_crc : crc32 ([0x31, 0x32, 0x33, 0x34, 0x35, 0x36, 0x37, 0x38, 0x39] : List Byte) = 0xCBF4_3926 := by decide +kernel
/-- The image of R477 whose nine bytes are "123456789". -/
def withImage (crc : Nat) : State := inPkg fun p => { p with
  stage := 1, ctlRam := Mem.writeList [] 0 (leBytes 4 9 ++ leBytes 4 crc ++ leBytes 8 0 ++ [0x31, 0x32, 0x33, 0x34, 0x35, 0x36, 0x37, 0x38, 0x39]) }
theorem test_boot :
    (goes (exec .start (withImage 0xCBF4_3926)) (fun t => t.pkg.fwrun && decide (t.pkg.err = 0)) && goes (exec .start (withImage 1)) (fun t => !t.pkg.fwrun && decide (t.pkg.err = 1))
    && goes (exec .train ((staged 1).modPkg fun p => { p with fwrun := true })) (fun t => t.pkg.training && goes (exec (.trainComplete 0) t) fun u => decide (u.pkg.stage = 2))
    && goes (exec .release (staged 2)) (fun t => decide (t.pkg.stage = 3)) && goes (exec .release (staged 1)) (fun t => decide (t.pkg.err = 4) && decide (t.pkg.stage = 1))
    && goes (exec .haltfw ((staged 1).modPkg fun p => { p with fwrun := true })) (fun t => !t.pkg.fwrun)
    && goes (exec .firmwareStartTimeout { ((staged 1).modPkg fun p => { p with fwrun := true, fwStart := some 0 }) with now := 10 ^ 9 }) (fun t => decide (t.pkg.err = 2))) = true := by decide +kernel
theorem test_stages :
    (goes (exec .packageReset live) (fun t => decide (t.pkg.stage = 0) && decide (t.threads = []) && decide (t.mem = live.mem))
    && goes (exec .railsInRegulation State.reset) (fun t => t.pkg.powered && goes (exec .firstConfigAccess t) fun u => decide (u.pkg.stage = 1))
    && goes (exec (.controllerRamWrite 4194303 7) (staged 1)) (fun t => decide (t.pkg.ctlRam.read 4194303 = 7))
    && (match exec (.controllerRamWrite 4194304 7) (staged 1) with
      | .fault (.noSuchAddress a) => decide (a = 4194304)
      | _ => false)
    && goes (exec (.contextCreation 3 true) live) (fun t => (t.ctx 3).priv && !(t.ctx 3).en && decide ((t.ctx 3).leaseNs = 1000))) = true := by decide +kernel
theorem test_registers :
    (goes (exec (.registerWrite 0 .wdcyc 0x1_2345) live) (fun t => decide ((t.ctx 0).wdLimit = 0x1_2345)) && goes (exec (.registerWrite 0 .ctxevt 2) (inCtx fun c => { c with evt := 3 })) (fun t => decide ((t.ctx 0).evt = 1))
    && goes (exec (.registerWrite 0 .qtbase 0x3_0FFF) live) (fun t => decide (t.pkg.qtbase = 0x3_0000)) && goes (exec (.registerWrite 5 .wdcyc 1) live) (fun t => decide (t = live))
    && decide (hostRead (staged 3) 0 .brstat = 3) && decide (hostRead live 0 .xlcmd = 0)) = true := by decide +kernel
-- R454, R455: the header, the package record, die 0 with cluster 3 absent, and the records of e4m3 and cb2.
theorem test_discovery :
    (let d := discovery { State.reset with absent := [3] }
     decide (d.length = 4096) && decide (leNat (d.take 4) = 1 + 17 * 2 ^ 16) && decide (leNat ((d.drop 16).take 10) = 0x07_FF_0400_01FF_FFFF_FF01)
       && decide (leNat ((d.drop 48).take 16) = 0xFFFF_FFFF_FFFF_FFF7_0000_0000_FFFF_0002) && decide (leNat ((d.drop 304).take 11) = 0x0080_03_0000_00_03_10_00_0B_03)
       && decide (leNat ((d.drop 464).take 11) = 0x0080_03_0040_02_03_10_00_0E_03)) = true := by decide +kernel
theorem witness_BringUpAndRegisters :
    (let s := withImage 0xCBF4_3926
     decide (s.pkg.stage = 1) && !s.pkg.fwrun && decide (s.pkg.ctlRam.readNat 0 4 = 9) && decide ((crc32 (s.pkg.ctlRam.readList 16 9)).toNat = s.pkg.ctlRam.readNat 4 4) && s.pkg.ctlRam.wf
       && decide (s.pkg.ctlRam.readNat 8 4 = 0) && decide (s.pkg.ctlRam.readNat 12 4 = 0) && State.reset.pkg.stage = 0 && !State.reset.pkg.powered && live.pkg.powered
       && decide (4194303 < 4194304) && decide (live.ctxs.map (·.1) = [0]) && (live.flocks.all fun f => decide (f.2.ctx ≠ 3)) && (live.flocks.any fun f => decide (f.2.ctx = 0) && !f.2.ended)
       && decide (23 < 24) && decide ((131071 : Nat) = (0x1F_FFF1 : Nat) / 16 % 131072)) = true := by decide +kernel
/-! ## Completion -/

theorem witness_InstructionsComplete :
    (let s := lane (.iadd (v2 tS32)) [(2, 5), (3, 7)]
     decide ((rd (regs [0x3000]) 4).toNat % 4 = 0) && (me (inThr fun x => { x with intrap := true })).intrap && !(me (handled live)).intrap
       && decide ((me (handled live)).tvec.toNat / 4 ≠ 0) && (priv.ctx (myCtx priv)).priv && decide ((0x020 : BitVec 11).toNat = 0x20)
       && decide ((w 0 2 3 0 0).ty = 0) && decide ((w 8 0 0 0 0x40).ty ≠ 0) && [1, 4, 6].all (fun k => (payLane s k 0xFFFF_FFFF).2)
       && decide ((cvt tF32 13).srcTy < 14) && decide ((cvt tF32 13).ty < 14) && !(s.clu 0).code.waits 0 && !(BankCtl.placed).waits 0 && !s.lane.held && !s.lane.replay
       && decide ((w 8 2 0 0 0x0A6).ty4 < 8) && decide (8 ≤ (w 8 2 0 0 0x20A).ty4)) = true := by decide +kernel
theorem witness_InstructionsComplete_access :
    (let s := settleAcqs (solo (laneU (.ld (m32 0)) 0x1_0100 0 0 [(3, same 0)]))
     let p := payLane s 2 1
     p.2 && decide (activeMask s (m32 0) = 1) && decide ((m32 0).width ≤ 6) && !orderHeld s && decide ((m32 0).order < 2) && releaseLane s 0
       && !tileHeld s (m32 0) 1 4 (ids.map fun _ => 0) && !tileHeld s (m32 0) 1 128 (ids.map fun _ => 0)
       && [(Acc.load, 4), (Acc.store, 4), (Acc.atomic, 4), (Acc.load, 128)].all fun e => match lanePieces p.1 (m32 0) e.1 0 e.2 4 with
         | (_, .ok ps) => decide ((ps.map fun q => q.2.1).sum = e.2)
         | _ => false) = true := by decide +kernel
theorem witness_InstructionsComplete_once :
    (let s := laneU (.ctld (w 0 0xC0 0xC1 0 0)) 0x1000 0x3F80_0000 0 []
     let c := cissueNext s 1
     let d := cissueNext (s.modThr t0 fun x => { x with streams := [(0, { boundStream with gmask := 3 })] }) 1
     let z := settleAcqs s
     let b := barLane (.lwait (waitWord 0x318)) bar0 1
     let e := (strOf b t0 0).cissue.get (laneMember b, b.lane.word.seq) default
     !s.lane.replay && c.done && c.active && c.full && !d.done && !BankCtl.placed.used 0 && decide ((BankCtl.placed.loading.find 0) = none) && !localBlocked s 0x1000 4096
       && (payOnce s).2 && releaseLane s 6 && acquireLane s
       && (streamOps z).isEmpty && !orderHeld z && (payOnce z).2 && decide (((payOnce z).1.clu 0).stash = []) && decide ((copyQ s 0 0).ents = []) && decide ((s.clu 0).mq = [])
       && decide ((s.clu 0).ta.ents = []) && !e.done && decide (e.acq = none) && handleLive b && decide ((barAt b 0 (0, 1)).phase ≠ b.lane.word.ub.toNat % 65536)
       && acquireLane (setCissue b { e with acq := some 0 }) && (addArrivals b 0 (0, 1) 1).isSome && fenceOpen (owing true) 0 9 && !fenceOpen b b.lane.slot b.lane.word.seq) = true := by decide +kernel
theorem witness_InstructionsComplete_regroup :
    (let s := laneU (.regroup (w 0 2 0 0 0)) 0 0 0 [(2, same 1)]
     decide ((cissueNext s 1).masks.length ≤ 16) && regroupReady s [0] [(0, 0), (0, 1)] && regroupReady s [0] ((setBits 32 0xF).map fun l => (0, l)) && (regroupMoves s 0 0 [0] [((0, 0), 1), ((0, 1), 0)]).isSome) = true := by decide +kernel

/-! ## Witnesses of the finer cases -/

/-- A page that is device-biased and one that is not; a walk that finds the leaf of the VA that MIGRATE moves. -/
theorem witness_TranslationCommands_flip :
    (let s := { xlArgs 0x3_0000 0 with bias := [3] }
     decide (s.bias.contains (0x3_0000 / 65536)) && !live.bias.contains (0x3_0000 / 65536) && decide ((s.ctx 0).xl = none)
       && (match walkFrom 0 0x1_0000 walkLevels pages ((pages.ctx 0).root * 4096) [] with
         | (_, .ok (leaf, _), _) => decide (leaf.level = 0) && decide (leaf.pa = 0x1_0000) && decide (leaf.entry = 0x5008)
         | (_, .error _, _) => false)
       && (pages.ctx 0).xlmode && decide ((pages.ctx 0).xlarg0.toNat = 0x1_0000) && decide ((pages.ctx 0).xlarg1.toNat % 65536 = 0)
       && decide ((pages.ctx 0).xl = none) && decide (migrating.homes = [])) = true := by decide +kernel
/-- No payer before, one before and one behind; a credit of this cycle and of an earlier one; a window that has ended once and more often. -/
theorem witness_PowerAndTokens_order :
    (let s := { purse { Purse.placed with tokens := 100, payers := [⟨7, 5, 0⟩] } with now := 1000 }
     let p := ((rollSpend s 0).clu 0).purse
     let now := cycleStart s 0
     !tooLate p now 9 now && decide (p.payers.map (fun q => (q.who, q.age)) = [(7, 0)]) && decide (0 < now) && (pay s 0 7 8).2 && (pay s 0 9 8).2 && !(pay s 0 9 128).2
       && decide (spendable s 0 p = 100)
       && decide (spendable s 0 { p with fresh := [(1000000, 40)] } < 100) && decide ((0 + 1) * cluMHz s 0 ≤ ({ s with now := 1000000 } : State).now * cluMHz s 0 / 1000000 * 2700)
       && decide ((29091 - 0) * 2200 / 1000000 / 64 = 1) && decide ((58182 - 0) * 2200 / 1000000 / 64 = 2)
       && decide ((100 * [6, 7, 7, 8, 8, 8, 8, 10].getD (s.quad 0).f 8 + 7) / 8 ≤ 2560)) = true := by decide +kernel
/-- What holds an access at its home, and what does not; a page that may be written and one that may not. -/
theorem witness_StoresPerform_held : writeHeld pendingStore 0x1_0200 = false ∧ readHeld (sector asked) 0x1_0220 = false
    ∧ writeHeld (stashed (.pending 0x1_0420 none 0)) 0x1_0420 = false ∧ writeHeld (uoLine newUo) 0x1_0200 = false ∧ readHeld naLoad 0x1_0000 = false
    ∧ ((uoLine newUo).homeOf 0x1_0200).owners = [] ∧ ((uoLine newUo).homeOf 0x1_0200).sharers = [] ∧ newUo.ut = none ∧ newUo.refused = false := by decide +kernel
theorem witness_StashOwnership_pages : (backCheck (owned 3) 0 0 0x1_0420).2 = none
    ∧ (backCheck (stashed (.pending 0x1_0420 none 0)) 0 0 0x2_0420).2.isSome = true := by decide +kernel
theorem witness_WalksAndFills_reserved : reserved live 0x1_0000 = false ∧ reserved live (2 ^ 40) = true := by decide +kernel
theorem witness_HostAccesses_grants : (live.clu noClu).l1 = [] ∧ pinHeld live 0x1_0000 = false ∧ lockHeld live 0x1_0000 = false ∧ (live.homeOf 0x1_0000).grant = 0
    ∧ ((live.modHome 0x1_0200 fun h => { h with grant := 1 }).homeOf 0x1_0200).grant = 1 := by decide +kernel

/-- A reel of one word beside shares of none and of one KiB, before and after its loading. -/
def playing (share : Nat) : State := (outState (exec (.reelPlay false 4) (withG4 7 reelState)) live).modFlk 0 fun f => { f with rcd := { f.rcd with reelShare := share } }
theorem witness_Reels_cache :
    (let size := (8 * [reelWord].length + 255) / 256
     decide (size = 1) && decide (16 * ((playing 0).flk 0).rcd.reelShare < size) && decide (size ≤ 16 * ((playing 1).flk 0).rcd.reelShare)
       && decide ((strOf (playing 1) t0 0).plays.map (fun p => (p.num, p.ready)) = [(7, false)]) && !bufferFull (playing 1) t0 0
       && goes (exec (.reelPlayFeed 0 0 0 0) (playing 1)) (fun t => decide ((t.clu 0).reels = [⟨0, 7, 1⟩]) && decide ((strOf t t0 0).plays.map (·.ready) = [true])
         && decide ((strOf t t0 0).masks = []))
       && goes (exec (.reelPlayFeed 0 0 0 0) (playing 0)) (fun t => decide ((t.clu 0).reels = []))
       && goes (exec (.reelPlayFeed 0 0 0 0) ((playing 1).modClu 0 fun c => { c with reels := [⟨0, 7, 1⟩, ⟨0, 8, 2⟩] }))
         (fun t => decide ((t.clu 0).reels = [⟨0, 8, 2⟩, ⟨0, 7, 1⟩]))) = true := by decide +kernel
theorem witness_VoteQueue_waits :
    (let s := (voting [vote false true []]).modThr t0 fun x => { x with popAt := some x.pc, pc := x.pc + 4 }
     goes (exec (.voteEntryPresent 0 0 0) s) (fun t => decide ((me t).popAt = none) && decide ((me t).out = [⟨6, .value (vote false true []).bits⟩]))
       && decide ((me live).popAt = none)) = true := by decide +kernel
theorem witness_MaskWords_plays :
    (let st : Stream := { boundStream with plays := [⟨7, [reelWord], [], 0, 0, true⟩] }
     decide (st.plays.length ≤ 4) && decide (st.masks = []) && decide (st.cmask < 2 ^ 16) && decide (st.prog = []) && decide (st.seq < 2 ^ 32)
       && decide (strOf (withStream st) t0 0 = st) && decide ((me (withStream st)).out = []) && decide (curStream (me (withStream st)) = some (0, st))) = true := by decide +kernel

/-- A source in the host window: before and after it has been sent for. -/
theorem witness_Launches_host : (isHost (2 ^ 51) && !isHost 0x1_0100 && decide ((me live).wait = none)
    && (me (inThr fun x => { x with wait := some ⟨0, [], none⟩ })).wait.isSome) = true := by decide
theorem witness_WorkQueues_commands : live.pkg.qcmd = none ∧ State.reset.pkg.qcmd = none ∧ 1 ≤ live.pkg.stage ∧ (commanded 1 live).pkg.qcmd = some (1, 9)
    ∧ (commanded 2 live).pkg.qcmd = some (2, 9) ∧ readHeld (commanded 1 descriptor) 0x3_0480 = false ∧ ((commanded 1 descriptor).homeOf 0x3_0480).owners = []
    ∧ ((commanded 1 descriptor).homeOf 0x3_0480).sharers = [] ∧ readHeld live 0x2_0000 = false := by decide +kernel

/-- A waiter in another thread, and waits that have found their phase or their timeout. -/
def waiting (o : Option (Nat × Nat)) (t : Nat) : State :=
  (bar1 [0x30_0100, 0]).modThr ⟨0, 0, t⟩ fun x => { x with tvec := 0x2000, wait := some ⟨0, [], some ⟨0x30_0100, 0, 0, 6, 0, o⟩⟩ }
theorem witness_BarriersAndStages_waiters :
    (decide (((me (waiting (some (1, 0)) 0)).wait.bind (·.bar)).bind (·.out) = some (1, 0)) && decide (((me (waiting none 0)).wait.bind (·.bar)).bind (·.out) = none)
      && decide ((((waiting none 1).thr ⟨0, 0, 1⟩).wait.bind (·.bar)).map (·.out) = some none) && decide (4 ≤ ((waiting none 1).thr ⟨0, 0, 1⟩).tvec.toNat)
      && !((waiting none 1).thr ⟨0, 0, 1⟩).intrap && decide (((waiting none 1).threads.map (·.1)).Nodup)
      && goes (exec (.barFree false 4) (waiting none 1)) (fun t => decide ((t.thr ⟨0, 0, 1⟩).tcause = 0x3A) && decide ((me t).pc = 0x1_0004))
      && goes (exec (.barWait false 6 4 5) (waiting (some (1, 0)) 0)) (fun t => decide ((me t).gr 6 = 1))
      && goes (exec (.barWait false 6 4 5) (waiting (some (65536, 0)) 0)) (fun t => decide ((me t).gr 6 = 65536))
      && live.ops.all (fun o => !readOwed o) && naLoad.ops.any (fun o => decide (o.tid = naLoad.cur) && decide (o.str = none) && readOwed o)) = true := by decide +kernel
theorem witness_PinsAndPrefetch_rehome :
    (let first (s : State) (st : Nat) (fill : Bool) : Bool := decide (((s.ctx 0).windows.find? fun w => decide (w.die = 0) && decide (w.va = 0x1_0000)
       && (decide (w.stage = 0) || (decide (w.stage = 1) && w.fill))) = some { window st with fill := fill })
     let full := (pinned 1 []).modCtx 0 fun c => { c with windows := [{ window 1 with fill := true }] }
     first (pinned 0 []) 0 false && first full 1 true && decide ((pinned 0 []).homes = []) && decide (((pinned 0 []).clu 0).pft.length < 16)
       && goes (exec (.pinRehome 0 0 0x1_0000) full) (fun t => decide ((t.clu 0).pft.length = 1) && decide ((t.ctx 0).windows = [window 1]))) = true := by decide +kernel
theorem witness_PinsAndPrefetch_drops : isDev 0x1_0020 = true ∧ isDev (2 ^ 51) = false ∧ devBiased live 0x1_0020 = false ∧ devBiased (pinning []) 0x1_0020 = true
    ∧ readHeld (fills (filling (tensor 4))) 0x1_0020 = false
    ∧ readHeld ((fills (filling (tensor 4))).modCtx 0 fun c => { c with windows := [window 2] }) 0x1_0020 = true := by decide +kernel

/-! ## Witnesses of clauses about halts, held writes, sharers, walks and words with a trailer -/

def hasPa (r : State × Except Cause Nat) : Bool := match r.2 with
  | .ok _ => true
  | .error _ => false
theorem witness_UntakenTrapHalts_record :
    (let s := inCtx fun c => { c with frBase := 0x10 }
     s.mem.wf && hasPa (translateRange s 0 0 (0x10 * 4096 + 64 * 0) 64 .store)
       && goes (exec (.vqPop false 5) ((inThr fun x => { x with intrap := true, tvec := 0x2000 }).modCtx 0 fun c => { c with frBase := 0x10 })) (fun t => decide (t.mem.readNat 0x1_0000 2 = 9)
         && decide (t.mem.readNat 0x1_0002 2 = 6))) = true := by decide +kernel
/-- A write that a migration holds: it lands in the page's new place. -/
theorem witness_TranslationCommands_late :
    (let s : State := { migrating with late := [⟨0, 0x1_0040, [7, 8], 0, false⟩] }
     decide (s.late.length = 1) && decide (0x1_0040 + 2 ≤ 0x1_0000 + 2 ^ pageBits 0) && s.mem.wf && decide (s.pkg.biasAt = none) && decide (2 ≤ s.pkg.stage)) = true := by decide +kernel
/-- Two copies of a line that another cluster shares: of one operation, and of two. -/
def sharedWith (op : Nat) : State :=
  ((uoLine newUo).modClu 1 fun c => { c with l1 := [⟨0x102, 0, [], some { newUo with op := op, ut := some 0, vals := [(4, 6)] }⟩] }).modHome 0x1_0200 fun h => { h with sharers := [1] }
theorem witness_UpdateOnlyLines_sharers :
    (let old := ((sharedWith 0).homeOf 0x1_0200).sharers
     decide (old = [1]) && decide (0 ∉ old) && ((sharedWith 0).ctxs.all fun c => ((sharedWith 0).ctx c.1).watch.all fun w => !w.en)
       && decide ((old.filterMap fun p => uoAt ((sharedWith 0).clu p) 0x102).map (·.op) = [0]) && !writeHeld (sharedWith 0) 0x1_0200 && leasesOver (sharedWith 0) 0x1_0200
       && goes (exec (.updateOnlyGrant 0 0x102 true) (sharedWith 0)) (fun t => decide ((t.homeOf 0x1_0200).sharers = [1, 0]))
       && goes (exec (.updateOnlyGrant 0 0x102 true) (sharedWith 3)) (fun t => decide ((t.homeOf 0x1_0200).sharers = [0]) && (uoAt (t.clu 1) 0x102).isNone)
       && goes (exec (.updateOnlyGrant 0 0x102 false) (sharedWith 0)) (fun t => decide (t.mem.read 0x1_020C = 5) && decide (t.mem.read 0x1_0210 = 6))) = true := by decide +kernel
/-- A cluster with two entries: the sector of the second is recalled, the first is as before. -/
def twoEntries : State := (owned 3).modClu 0 fun c => { c with stash := ⟨0, 0, 0x1_2000, 32, 0x400, []⟩ :: c.stash }
theorem witness_StashOwnership_entries :
    (let fill : State := (stashed (.pending 0x1_0420 (some 0) 0)).modClu 0 fun c => { c with stash := ⟨0, 0, 0x1_2000, 32, 0x400, []⟩ :: c.stash }
     let waits (x : StashSt) : Bool := match x with
       | .pending _ ot _ => ot.isSome
       | _ => false
     decide ((twoEntries.clu 0).stash.length = 2) && decide ((backCheck twoEntries 0 0 0x1_0420).2 = none) && waitsAtHome twoEntries 0x1_0420 32 (fun _ => true)
       && decide ((stashAt (fill.clu 0) 0x1_0420 waits).map (·.2.1) = some 1)
       && goes (exec (.stashRecall 0x1_0420) twoEntries) fun t => decide (((t.clu 0).stash.map (·.va)) = [0x1_2000, 0x1_0400]) && (t.clu 0).stash.all fun e => decide (e.st 1 = .unfilled)) = true := by
  decide +kernel
theorem witness_WalksAndFills_homes :
    (let s := pages.modClu 0 fun c => { c with tlb := [] }
     (match walkBy atHome s 0 0 0x1_0000 with
       | (r, .ok (leaf, _)) => !reserved r (leaf.pa + 0x1_0000 % 2 ^ pageBits leaf.level) && decide (leaf.entry % 8 = 0) && decide (r.late = []) && !lockHeld r leaf.entry
           && decide (cachedLeaf r 0 0 0x1_0000 = none) && decide ((r.homeOf leaf.entry).owners = [])
       | (_, .error _) => false)
       && (match (walkBy atHome s 0 0 0x9_0000).2 with
         | .ok _ => false
         | .error _ => true)) = true := by decide +kernel
/-- A page that a migration locks, and a line that the device has obtained. -/
theorem witness_HostAccesses_locked : lockHeld migrating 0x1_0040 = true ∧ 1 ≤ ((live.modHome 0x1_0200 fun h => { h with grant := 1 }).homeOf 0x1_0200).grant
    ∧ lockHeld (live.modHome 0x1_0200 fun h => { h with grant := 1 }) 0x1_0200 = false ∧ migrating.mem.wf = true
    ∧ goes (exec (.hostCxlMemAccess true 0x1_0040 1 7) migrating) (fun t => decide (t.late.length = 1) && decide (t.mem.read 0x1_0040 = migrating.mem.read 0x1_0040)) = true := by decide +kernel
theorem witness_HostAccesses_posted : isHost (2 ^ 52 - 8) = true ∧ (firstOp hostStore).gw = none ∧ stashVa hostStore 0 0x1_0200 = none
    ∧ goes (exec (.homeWritePerform 4) hostStore) (fun t => (findOp t 4).any (·.made.isSome)
      && goes (exec (.cxlerr 4) t) fun u => (findOp u 4).isNone && (u.ctx 0).evt.testBit 4 && (u.ctx 0).evt.testBit 5) = true := by decide +kernel
/-- A word with T = 1 whose trailer follows at once, and one with none. -/
def tWord : BitVec 64 := encLane 0x186 { w 0 0 0 0 0 with t := true }
def emits (next : BitVec 64) : State := (withStream boundStream) |> fun s => { s with mem := s.mem.writeList 0x1_0008 (leBytes 8 next.toNat) } |> fun s =>
  s.modClu 0 fun c => { c with icache := [⟨0, 0x1_0000, s.mem.readList 0x1_0000 256⟩] }
theorem witness_LaneWordEmission_trailing :
    (goes (exec (.laneWordEmit tWord) (emits trailer)) (fun t => decide ((strOf t t0 0).openRun.length = 1) && decide ((me t).pc = 0x1_0008))
      && traps (exec (.laneWordEmit tWord) (emits reelWord |> handled)) .run tWord && (laneFields tWord).t
      && (match fetchBytes (emits trailer) 0 0 0x1_0008 8 with
        | (_, .ok bs) => decide (lOp (BitVec.ofNat 64 (leNat bs)) = 0x380)
        | _ => false)
      && goes (exec (.laneWordEmit (encLane 0x3C0 (v2 tS32))) (withStream boundStream)) (fun t => (me t).wait.isSome)
      && goes (exec (.laneWordEmit (encLane 0x3C0 (v2 tS32))) (paused (withStream boundStream))) (fun t => decide ((me t).pc = 0x1_0008))) = true := by decide +kernel

/-! ## Witnesses of clauses about plays, windows, tokens, stops, samples and heads -/

/-- The flock's thread at one short instruction. -/
def at4 (i : Instr) : State := { placeCode State.reset (leBytes 4 (wordOf i).toNat ++ List.replicate 4 0) with cur := t0 }
def fetches (s : State) (i : Instr) : Bool := match (fetchInstr s).2 with
  | .ok j => decide (j = i)
  | .error _ => false
/-- A play whose word names a handle that is no longer valid. -/
def handleWord1 : BitVec 64 := encLane 0x318 (waitWord 0x318)
def playsHandle : State := (barLane (.lwait (waitWord 0x318)) { bar0 with gen := 4 } 0).modThr t0 fun x => { x with
  streams := [(0, { boundStream with plays := [⟨7, [handleWord1], [(4, 0x30_0100), (5, 0)], 0, 0, true⟩] })] }
theorem witness_Reels_handles :
    (let e := withUniforms (bindOf [(4, 0x30_0100), (5, 0)]) handleWord1 0
     decide (handleWord playsHandle 0 e = some .bargen) && decide (e.handle? = some 0x30_0100) && !bufferFull playsHandle t0 0 && decide ((playsHandle.thr t0).held = [])
       && goes (exec (.reelPlayFeed 0 0 0 0) playsHandle) fun t => decide ((t.thr t0).held.map (fun h => (h.cause, h.tval)) = [(.bargen, 0x30_0100)])
         && decide ((strOf t t0 0).plays = [])) = true := by decide +kernel
/-- Windows of one base that two resumes have left. -/
theorem witness_PinsAndPrefetch_shared :
    (let two := (pinned 2 []).modCtx 0 fun c => { c with windows := [window 2, { window 2 with fid := 1 }], pinuse := [2, 0, 0, 0, 0, 0, 0, 0] }
     decide (((two.ctx 0).windows.find? fun w => decide (w.die = 0) && decide (w.va = 0x1_0000) && !decide (w.stage ≤ 1)) = some (window 2))
       && (two.homes.all fun l => !(window 2).frames.contains (l.1 / 256) || decide (l.2.sharers = []))
       && goes (exec (.pinClrWriteback 0 0 0x1_0000) two) fun t => decide ((t.ctx 0).windows = []) && decide ((t.ctx 0).pinuse.headD 9 = 0)) = true := by decide +kernel
theorem witness_LaneRegistersAndIntegers_held :
    (let s := (lane (.fadd (v2 tF32)) []).modClu 0 fun c => { c with purse := { c.purse with tokens := 0 } }
     !(payLane s 1 (activeMask s (v2 tF32))).2 && (laneRun s).isSome
       && goes (exec (.fadd (v2 tF32)) s) fun t => t.lane.held && (t.clu 0).purse.payers.any fun y => decide (y.who = pipeWho 0)) = true := by decide +kernel
/-- At a safe point whose live mask names g5: with g5 outstanding, and without. -/
def atSafe (out : List OutReg) : State := ((at4 (.barFree true 4)).modThr t0 fun x => { x with stopReq := true, out := out }).modPkg fun p => { p with
  safePoints := [((0, ((at4 (.barFree true 4)).flk 0).rcd.image), [(0x1_0000, 0x20)])] }
theorem witness_ThreadStops_live :
    (let s := atSafe [⟨5, .value 9⟩]
     decide ((safeAt s t0).2 = some 0) && decide (((safeAt s t0).1.thr t0) = s.thr t0) && liveAt s t0 0x1_0000 5 && !liveAt s t0 0x1_0000 6
       && goes (exec (.debugStop 0 0 0) s) (fun t => decide ((t.thr t0).stopped = none)) && goes (exec (.debugStop 0 0 0) (atSafe [])) (fun t => decide ((t.thr t0).stopped = some ⟨1, 0, 0⟩))
       && goes (exec (.debugStop 0 0 0) (atSafe [⟨6, .value 9⟩])) (fun t => (t.thr t0).stopped.isSome)) = true := by decide +kernel
theorem witness_ThreadStops_data :
    (let s := (atSafe []).modThr t0 fun x => { x with stopped := some ⟨1, 0, 0⟩, g := [(5, 77)] }
     decide (dbgdata (s.modCtx 0 fun c => { c with dbgReg := 0 }) 0 = 0) && decide (dbgdata (s.modCtx 0 fun c => { c with dbgReg := 5 }) 0 = 77)
       && decide (dbgdata (s.modCtx 0 fun c => { c with dbgKind := 1 }) 0 = 0x1_0000)) = true := by decide +kernel
theorem witness_DebugAndSamples_reasons :
    (let s (i : Instr) : State := paused (at4 i)
     fetches (s (.barWait false 6 4 5)) (.barWait false 6 4 5) && decide (sampleReason (s (.barWait false 6 4 5)) t0 = 6) && decide (sampleReason (s (.icinv false 4 5 6)) t0 = 9)
       && decide (sampleReason (s (.fence false 3 6)) t0 = 8) && decide (sampleReason (s (.pinClr false 6 4)) t0 = 10) && decide (sampleReason (s (.reelDrop false 4)) t0 = 9)
       && decide (sampleReason ((s (.barWait false 6 4 5)).modThr t0 fun x => { x with out := [⟨4, .value 0⟩] }) t0 = 4)
       && !scoreboardHolds (me (s (.barWait false 6 4 5))) (.barWait false 6 4 5) && !playHeld (s (.barWait false 6 4 5)) (.barWait false 6 4 5)
       && decide (sampleReason (inThr fun x => { x with status := .halted }) t0 = 1) && decide (sampleReason (inThr fun x => { x with status := .exited }) t0 = 13)) = true := by decide +kernel
theorem witness_DebugAndSamples_watchdog :
    (let off := (live.modThr t0 fun x => { x with stopped := some ⟨1, 0, 0⟩ })
     let p (s : State) (t : Option Nat) : State := s.modCtx 0 fun c => { c with wdPause := t, wdLast := 10 }
     (live.flocks.any fun f => decide (f.2.ctx = 0) && f.2.resident) && (live.threads.all fun e => decide (e.2.stopped = none)) && (off.threads.any fun e => e.2.stopped.isSome)
       && decide (((watchSync { p live (some 30) with now := 100 } 0).ctx 0).wdLast = 80) && decide (((watchSync { p off none with now := 100 } 0).ctx 0).wdPause = some 100)) = true := by decide +kernel
theorem witness_Placement_ages :
    (let s := (full16.modPkg fun p => { p with agelim := [(3, 2)] }).modQue 5 fun k => { k with blockedAt := some 1000 }
     let t := { s with now := 3000 * 1000 }
     decide ((s.queues.find 5).isSome) && ((noteAged t).queues.find 5).any (·.barred) && !((noteAged s).queues.find 5).any (·.barred)
       && barred t ⟨7, rcd1 3 [0], 0, none⟩ 0 && !barred s ⟨7, rcd1 3 [0], 0, none⟩ 0
       && goes (exec (.registerWrite 0 (.agelim 3) 0) t) fun u => barred u ⟨7, rcd1 3 [0], 0, none⟩ 0) = true := by decide +kernel
theorem witness_FlocksEndAndStop_saved :
    (let q : CopyQ := ⟨[{ cpBad with fault := some (0, .notmapped, 0, 0) }], true⟩
     let v : SavedClu := { (default : SavedClu) with cq := [(0, q)] }
     let s : State := (halted v).modThr t0 fun x => { x with status := .halted }
     decide (s.threads.map (·.1) = [t0]) && decide ((s.thr t0).streams = []) && decide ((s.flk 0).saved = [v]) && (s.clusters.all fun e => (List.range 4).all fun k => !(copyQ s e.1 k).halted)
       && goes (exec (.clear 0) s) fun t => decide ((t.thr t0).status = .exited) && (t.flk 0).saved.all fun v => decide (v.cq = [(0, ⟨[], false⟩)])) = true := by decide +kernel
/-- A watched range that begins. -/
theorem witness_BringUpAndRegisters_watch : ((live.ctx 0).watch.getD 1 ⟨0, 0, false⟩).en = false ∧ (0x0010_0000_0000_0101 : BitVec 64).toNat.testBit 0 = true
    ∧ goes (exec (.trainComplete 0) ((staged 1).modPkg fun p => { p with fwrun := true, training := true })) (fun t => t.pkg.biasAt.isSome || decide (t.pkg.stage = 2)) = true
    ∧ ((staged 1).modPkg fun p => { p with training := true }).pkg.stkfail = 0 := by decide +kernel
end Sys2Proof.Tests
end

section
/-! PROOFS. Lane words: what an operand reads, what a destination writes, the active lanes (R36 to R39, R199), the issue of a
word and its payment (R14, R17, R410), and the integer words lane by lane (R203 to R210). -/

namespace Sys2Proof.Lanes
open Sys2Proof Sys2Proof.Machine Sys2Proof.Claims

/-! ### Rows of a group -/

theorem setAt_eq_set {α : Type} (l : List α) (n : Nat) (a : α) : setAt l n a = l.set n a := by
  induction l generalizing n with
  | nil => rfl
  | cons b l ih => cases n with
    | zero => rfl
    | succ n => rw [setAt, ih, List.set_cons_succ]

@[simp] theorem row_length (g : Group) (r : Nat) : (g.row r).length = 32 := by simp [Group.row]

theorem row_getD (g : Group) (r : Nat) {l : Nat} (hl : l < 32) : (g.row r).getD l 0 = (g.v.get r []).getD l 0 := by
  simp [Group.row, List.getD, hl]

theorem mem_setBits {n m l : Nat} : l ∈ setBits n m ↔ l < n ∧ m.testBit l = true := by simp [setBits]

/-- A written lane reads as written, and every other lane of every register as before. -/
theorem laneOf_setLane (g : Group) (r i : Nat) (v : Word32) (r' : Nat) {l : Nat} (hl : l < 32) :
    (g.setLane r i v).laneOf r' l = if r' = r ∧ l = i then v else g.laneOf r' l := by
  unfold Group.laneOf
  rw [row_getD _ _ hl, row_getD _ _ hl]
  by_cases hr : r' = r
  · subst hr
    simp only [Group.setLane, Table.get_set_self, setAt_eq_set, List.getD, List.getElem?_set, row_length, true_and]
    by_cases hi : i = l
    · subst hi; simp [hl]
    · simp only [hi, if_false, Ne.symm hi]
      exact row_getD g r' hl
  · simp [Group.setLane, Table.get_set_ne _ hr, hr]

/-- Several lanes of one register written. -/
theorem laneOf_setLanes (r : Nat) (vals : Row) (ls : List Nat) (g : Group) (r' : Nat) {l : Nat} (hl : l < 32) :
    (ls.foldl (fun g i => g.setLane r i (vals.getD i 0)) g).laneOf r' l
      = if r' = r ∧ l ∈ ls then vals.getD l 0 else g.laneOf r' l := by
  induction ls generalizing g with
  | nil => simp
  | cons i ls ih =>
    rw [List.foldl_cons, ih, laneOf_setLane _ _ _ _ _ hl]
    by_cases hr : r' = r <;> by_cases hi : l = i <;> by_cases hm : l ∈ ls <;> simp [hr, hi, hm]

theorem setLanes_frame (r : Nat) (vals : Row) (ls : List Nat) (g : Group) :
    ls.foldl (fun g i => g.setLane r i (vals.getD i 0)) g
      = { g with v := (ls.foldl (fun g i => g.setLane r i (vals.getD i 0)) g).v } := by
  induction ls generalizing g with
  | nil => rfl
  | cons i ls ih => rw [List.foldl_cons, ih]; rfl

/-! ### Destinations -/

/-- The registers of one destination written in the active lanes. -/
theorem laneGrp_writeRow (s : State) {code : Nat} (hc : code < 128) (mask : Nat) (vals : Row) :
    laneGrp (writeRow s code mask vals) = (setBits 32 mask).foldl (fun g i => g.setLane code i (vals.getD i 0)) (laneGrp s) := by
  rw [writeRow, if_pos hc]
  exact State.grp_modGrp_self ..

@[simp] theorem laneGrp_noteFix (s : State) (code mask lat : Nat) (old : Row) : laneGrp (noteFix s code mask lat old) = laneGrp s := rfl

theorem putDest_zero (s : State) (code lat mask : Nat) (vals : List Nat) : putDest s code 0 lat mask vals = s := by
  simp [putDest]

/-- The last register of a destination is written after the others. -/
theorem putDest_succ (s : State) (code n lat : Nat) {mask : Nat} (hm : mask ≠ 0) (vals : List Nat) :
    putDest s code (n + 1) lat mask vals =
      noteFix (writeRow (putDest s code n lat mask vals) (code + n) mask (vals.map fun v => BitVec.ofNat 32 (v / 2 ^ (32 * n))))
        (code + n) mask lat (rowNow (putDest s code n lat mask vals) (code + n)) := by
  simp only [putDest, hm, if_false, List.range_succ, List.foldl_append, List.foldl_cons, List.foldl_nil]

/-- A destination changes the registers of its group alone. -/
theorem laneGrp_putDest (s : State) (code n lat mask : Nat) (vals : List Nat) (hc : code + n ≤ 128) :
    laneGrp (putDest s code n lat mask vals) = { laneGrp s with v := (laneGrp (putDest s code n lat mask vals)).v } := by
  by_cases hm : mask = 0
  · subst hm; rfl
  induction n with
  | zero => rw [putDest_zero]
  | succ n ih =>
    rw [putDest_succ _ _ _ _ hm, laneGrp_noteFix, laneGrp_writeRow _ (by omega), setLanes_frame, ih (by omega)]

/-- What the lanes of each register hold after a destination is written. -/
theorem laneOf_putDest (s : State) (code n lat mask : Nat) (vals : List Nat) (hc : code + n ≤ 128) (hv : vals.length = 32)
    (r : Nat) {l : Nat} (hl : l < 32) :
    (laneGrp (putDest s code n lat mask vals)).laneOf r l = if code ≤ r ∧ r < code + n ∧ mask.testBit l = true
      then BitVec.ofNat 32 (vals.getD l 0 / 2 ^ (32 * (r - code))) else (laneGrp s).laneOf r l := by
  by_cases hm : mask = 0
  · subst hm; simp [putDest_inactive]
  induction n with
  | zero => rw [putDest_zero, if_neg (by omega)]
  | succ n ih =>
    rw [putDest_succ _ _ _ _ hm, laneGrp_noteFix, laneGrp_writeRow _ (by omega), laneOf_setLanes _ _ _ _ _ hl, ih (by omega)]
    by_cases hr : r = code + n
    · subst hr
      simp [mem_setBits, hl, hv]
    · simp only [hr, false_and, if_false]
      congr 1
      exact propext (and_congr_right fun _ => and_congr_left fun _ => by omega)

/-! ### Sources -/

@[simp] theorem rowNow_length (s : State) (code : Nat) : (rowNow s code).length = 32 := by
  unfold rowNow; split
  · exact row_length _ _
  · simp [tempRow]

@[simp] theorem srcRow_length (s : State) (code : Nat) (u : Uniform) (k : Nat) : (srcRow s code u k).length = 32 := by
  unfold srcRow; split
  · simp
  · unfold regRow; split
    · exact rowNow_length _ _
    · simp

@[simp] theorem srcNat_length (s : State) (code : Nat) (u : Uniform) (n : Nat) : (srcNat s code u n).length = 32 := by
  induction n with
  | zero => simp [srcNat]
  | succ n ih => simp [srcNat, ih]

/-- An operand takes one more register as its highest. -/
theorem srcNat_succ_getD (s : State) (code : Nat) (u : Uniform) (n : Nat) {l : Nat} (hl : l < 32) :
    (srcNat s code u (n + 1)).getD l 0
      = (srcNat s code u n).getD l 0 + ((srcRow s code u n).getD l 0).toNat * 2 ^ (32 * n) := by
  have h1 : l < (srcNat s code u n).length := by rwa [srcNat_length]
  have h2 : l < (srcRow s code u n).length := by rwa [srcRow_length]
  simp only [srcNat, List.getD_eq_getElem?_getD, List.getElem?_zipWith, List.getElem?_eq_getElem h1, List.getElem?_eq_getElem h2,
    Option.getD_some]

theorem srcNat_zero_getD (s : State) (code : Nat) (u : Uniform) (l : Nat) : (srcNat s code u 0).getD l 0 = 0 := by
  by_cases h : l < 32
  · rw [srcNat, List.getD_replicate 0 h]
  · simp only [srcNat, List.getD_eq_default, List.length_replicate, Nat.le_of_not_lt h]

/-- An operand of `n` registers is below 2 to the power of their bits. -/
theorem srcNat_lt (s : State) (code : Nat) (u : Uniform) (n : Nat) {l : Nat} (hl : l < 32) :
    (srcNat s code u n).getD l 0 < 2 ^ (32 * n) := by
  induction n with
  | zero => rw [srcNat_zero_getD]; exact Nat.two_pow_pos _
  | succ n ih =>
    rw [srcNat_succ_getD _ _ _ _ hl]
    have hr : ((srcRow s code u n).getD l 0).toNat + 1 ≤ 2 ^ 32 := BitVec.isLt _
    have := Nat.mul_le_mul_right (2 ^ (32 * n)) hr
    rw [Nat.add_mul] at this
    rw [Nat.mul_add, Nat.pow_add, Nat.mul_comm (2 ^ (32 * n))]
    omega

/-- A uniform operand is its captured value in every lane (R37). -/
theorem srcNat_uniform (s : State) {code : Nat} (hc : 192 ≤ code) (u : Uniform) (n : Nat) {l : Nat} (hl : l < 32) :
    (srcNat s code u n).getD l 0 = u.toNat % 2 ^ (32 * n) := by
  induction n with
  | zero => rw [srcNat_zero_getD, Nat.mul_zero, Nat.pow_zero, Nat.mod_one]
  | succ n ih =>
    rw [srcNat_succ_getD _ _ _ _ hl, ih, Nat.mul_add, Nat.pow_add, Nat.mod_mul, srcRow, if_pos hc, List.getD_replicate _ hl,
      BitVec.toNat_ofNat, Nat.mul_one, Nat.mul_comm (2 ^ (32 * n))]

/-- A register with no write in flight reads as the group holds it (R39). -/
theorem srcRow_vreg (s : State) {code k : Nat} (hc : code + k < 128) (u : Uniform) (hf : inFlight s (code + k) = none) (l : Nat) :
    (srcRow s code u k).getD l 0 = vreg s (code + k) l := by
  simp [srcRow, show ¬192 ≤ code by omega, regRow, hf, rowNow, hc, vreg, Group.laneOf]

theorem srcNat_vregs (s : State) (code n : Nat) (u : Uniform) (hc : code + n ≤ 128) (hf : ∀ k, k < n → inFlight s (code + k) = none)
    {l : Nat} (hl : l < 32) :
    (srcNat s code u n).getD l 0 = ((List.range n).map fun k => (vreg s (code + k) l).toNat * 2 ^ (32 * k)).sum := by
  induction n with
  | zero => rw [srcNat_zero_getD]; rfl
  | succ n ih =>
    rw [srcNat_succ_getD _ _ _ _ hl, ih (by omega) fun k hk => hf k (by omega), srcRow_vreg _ (by omega) _ (hf n (by omega))]
    simp [List.range_succ]

/-! ### The active lanes -/

theorem allLanes_testBit {l : Nat} (hl : l < 32) : allLanes.testBit l = true := by
  simpa [allLanes] using Nat.testBit_two_pow_sub_one 32 l |>.trans (decide_eq_true hl)

/-- A lane of the mask that a word starts from: of a replay, or of EXMASK, in its cycle's old value (R38, R358, R426). -/
def startLane (s : State) (l : Nat) : Bool :=
  if s.lane.replay then s.lane.act.testBit l else match (laneGrp s).exWas with
    | some (t0, old) =>
      if sameCycle s s.lane.pid t0 then old.testBit l && !(laneGrp s).park.testBit l && !(laneGrp s).exit.testBit l
      else (laneGrp s).ex.testBit l
    | none => (laneGrp s).ex.testBit l

theorem baseMask_testBit (s : State) {l : Nat} (hl : l < 32) : (baseMask s).testBit l = startLane s l := by
  unfold baseMask startLane
  split
  · rfl
  · cases (laneGrp s).exWas with
    | none => rfl
    | some e =>
      dsimp only
      split
      · simp [allLanes_testBit hl, Bool.and_assoc]
      · rfl

theorem guardMask_always (s : State) {x : LaneWord} (h : x.sel = 12) {l : Nat} (hl : l < 32) : (guardMask s x).testBit l = true := by
  simp [guardMask, h, allLanes_testBit hl]

/-- A guard on a predicate with no write in flight. -/
theorem guardMask_predicate (s : State) {x : LaneWord} (h : x.sel.toNat < 12) (hf : inFlight s (256 + x.sel.toNat) = none) {l : Nat}
    (hl : l < 32) : (guardMask s x).testBit l = (((laneGrp s).p.get x.sel.toNat 0).testBit l != x.neg) := by
  have hp : predMask s x.sel.toNat = (laneGrp s).p.get x.sel.toNat 0 := by simp [predMask, hf, predNow]
  cases hn : x.neg <;> simp [guardMask, show x.sel.toNat ≠ 12 by omega, hn, hp, allLanes_testBit hl]

/-- R36 to R39, R199, R358. -/
theorem laneOperands : LaneOperands := by
  refine ⟨fun s code n u l hl => ⟨fun hc => srcNat_uniform s hc u n hl, fun hc hf => srcNat_vregs s code n u hc hf hl⟩,
    fun s code n lat mask vals hc _ hv => ?_, fun s x l hl => ⟨fun h => ?_, fun h hf => ?_⟩⟩
  · have hfr := putDest_frame s code n lat mask vals
    exact ⟨hfr.rest, hfr.grp, laneGrp_putDest s code n lat mask vals hc,
      fun r l hl => laneOf_putDest s code n lat mask vals hc hv r hl, hfr.other⟩
  · rw [activeMask, Nat.testBit_land, guardMask_always s h hl, baseMask_testBit s hl, Bool.and_true]
    rfl
  · rw [activeMask, Nat.testBit_land, guardMask_predicate s h hf hl, baseMask_testBit s hl]
    rfl

/-! ### The issue of a word -/

theorem laneRun_modLaneRun {s : State} {p : PipeRun} (h : laneRun s = some p) (f : PipeRun → PipeRun) :
    laneRun (modLaneRun s f) = some (f p) := by
  have hp : (s.clu s.lane.pid).pipes.find s.lane.pipe = some p := h
  show ((modLaneRun s f).clu s.lane.pid).pipes.find s.lane.pipe = _
  simp only [modLaneRun, State.clu_modClu_self, hp, Table.find_set_self]

/-- A run with words to come does not end (R17). -/
theorem tryEnd_unfinished {s : State} {p : PipeRun} (h : laneRun s = some p) (hl : p.pos < p.run.words.length) : tryEnd s = s := by
  simp [tryEnd, h, hl]

/-- The run and the pipe in focus after a word has issued (R14, R17, R39). -/
def issuedRun (s : State) (x : LaneWord) (act : Nat) (acted : Bool) : State :=
  (modLaneRun s fun p => { p with
    pos := p.pos + 1, ready := cyclesAhead s s.lane.pid (1 + x.stall.toNat), acts := p.acts ++ [(act, acted)] }).modClu
      s.lane.pid fun c => { c with pipeNext := c.pipeNext.set s.lane.pipe (cyclesAhead s s.lane.pid 1) }

/-- The run and the pipe in focus, and the park record of the group, after a word has issued. -/
def issuedRecord (s : State) (x : LaneWord) (act : Nat) (acted : Bool) : State := recordPark (issuedRun s x act acted) act acted

theorem laneRun_issuedRun {s : State} {p : PipeRun} (h : laneRun s = some p) (x : LaneWord) (act : Nat) (acted : Bool) :
    laneRun (issuedRun s x act acted) = some { p with
      pos := p.pos + 1, ready := cyclesAhead s s.lane.pid (1 + x.stall.toNat), acts := p.acts ++ [(act, acted)] } := by
  show ((issuedRun s x act acted).clu s.lane.pid).pipes.find s.lane.pipe = _
  rw [issuedRun, State.clu_modClu_self]
  exact laneRun_modLaneRun h _

theorem recordPark_rest (s : State) (act : Nat) (acted : Bool) : recordPark s act acted = { s with groups := (recordPark s act acted).groups } := by
  unfold recordPark; split <;> rfl

theorem recordPark_grp (s : State) (act : Nat) (acted : Bool) (f m k : Nat) :
    (recordPark s act acted).grp f m k = { s.grp f m k with prec := ((recordPark s act acted).grp f m k).prec } := by
  unfold recordPark
  split
  · rfl
  · rw [modLaneGrp, State.grp_modGrp]
    split
    · next h => cases h; rfl
    · rfl

theorem recordPark_grp_other (s : State) (act : Nat) (acted : Bool) {f m k : Nat}
    (h : (f, m, k) ≠ (s.lane.tid.fid, laneMember s, s.lane.slot)) : (recordPark s act acted).grp f m k = s.grp f m k := by
  unfold recordPark
  split
  · rfl
  · exact (modLaneGrp_frame s _).grp f m k h

theorem laneRun_recordPark (s : State) (act : Nat) (acted : Bool) : laneRun (recordPark s act acted) = laneRun s := by
  rw [recordPark_rest]; rfl

/-- Words whose MASK.RD values settle change only what its registers wait for (R358). -/
theorem settleMaskRdUntil_eq (s : State) (t : Tid) (k : Nat) : settleMaskRdUntil s t k = s
    ∨ ∃ out, settleMaskRdUntil s t k = s.setThr t { s.thr t with out := out } := by
  unfold settleMaskRdUntil
  dsimp only
  split
  · exact Or.inr ⟨_, rfl⟩
  · exact Or.inl rfl

theorem settleMaskRdUntil_rest (s : State) (t : Tid) (k : Nat) :
    settleMaskRdUntil s t k = { s with threads := (settleMaskRdUntil s t k).threads } := by
  rcases settleMaskRdUntil_eq s t k with h | ⟨out, h⟩
  · rw [h]
  · rw [h]; rfl

theorem settleMaskRdUntil_thr (s : State) (t : Tid) (k : Nat) (u : Tid) :
    (settleMaskRdUntil s t k).thr u = { s.thr u with out := ((settleMaskRdUntil s t k).thr u).out } := by
  rcases settleMaskRdUntil_eq s t k with h | ⟨out, h⟩ <;> rw [h]
  rw [State.thr_setThr]
  split
  · next hu => subst hu; rfl
  · rfl

/-- A word of a run that has more words leaves the run on its pipe. -/
theorem issued_unfinished {s : State} {p : PipeRun} (h : laneRun s = some p) (hl : p.pos + 1 < p.run.words.length) (x : LaneWord)
    (act : Nat) (acted : Bool) :
    issued s x act acted = settleMaskRd (progress (issuedRecord s x act acted) (s.ctxOf s.lane.tid)) s.lane.tid := by
  have hr : laneRun (progress (issuedRecord s x act acted) (s.ctxOf s.lane.tid)) = some { p with
      pos := p.pos + 1, ready := cyclesAhead s s.lane.pid (1 + x.stall.toNat), acts := p.acts ++ [(act, acted)] } :=
    (laneRun_recordPark _ _ _).trans (laneRun_issuedRun h x act acted)
  have hl' : (issuedRecord s x act acted).lane = s.lane := by rw [issuedRecord, recordPark_rest]; rfl
  have hf : (issuedRecord s x act acted).flocks = s.flocks := by rw [issuedRecord, recordPark_rest]; rfl
  have hx : issued s x act acted = settleMaskRd (tryEnd (progress (issuedRecord s x act acted)
      ((issuedRecord s x act acted).ctxOf (issuedRecord s x act acted).lane.tid))) (issuedRecord s x act acted).lane.tid := rfl
  rw [hx, State.ctxOf, State.flk, hf, hl']
  exact congrArg (settleMaskRd · s.lane.tid) (tryEnd_unfinished hr hl)

/-! ### Payment denied -/

/-- A purse changed after what changes only that purse. -/
theorem modPurse_of_frame {pid : Nat} {s t : State} (h : PurseFrame pid s t) (f : Purse → Purse) :
    ∃ q, modPurse t pid f = modPurse s pid fun _ => q := by
  rcases h with rfl | ⟨p, rfl⟩
  · exact ⟨f (t.clu pid).purse, rfl⟩
  · refine ⟨f p, ?_⟩
    simp only [modPurse, State.modClu, State.setClu, State.clu, Table.get_set_self, Table.set_set]

/-- A payer that is denied joins the denied payers of the purse with the age of its first request (R410). -/
theorem pay_denied_eq (s : State) (pid who price : Nat) (h : (pay s pid who price).2 = false) :
    ∃ t d, (pay s pid who price).1 = deny t pid who d ∧ PurseFrame pid s t
      ∧ (t.clu pid).purse.payers = ((rollSpend s pid).clu pid).purse.payers := by
  have hr := rollSpend_frame s pid
  unfold pay at h ⊢
  split at h
  · cases h
  · next hp =>
    rw [if_neg hp]
    dsimp only at h ⊢
    generalize settleBefore _ _ _ _ = q at h ⊢
    split at h
    · next hl =>
      rw [if_pos hl]
      exact ⟨_, _, rfl, hr, rfl⟩
    · next hl =>
      rw [if_neg hl]
      split at h
      · cases h
      · next hc =>
        rw [if_neg hc]
        exact ⟨_, _, rfl, hr.trans (modPurse_frame _ _ _), by rw [modPurse_purse]; rfl⟩

theorem pay_denied_purse (s : State) (pid who price : Nat) (h : (pay s pid who price).2 = false) :
    ∃ q, (pay s pid who price).1 = modPurse s pid fun _ => q := by
  obtain ⟨t, d, he, hf, -⟩ := pay_denied_eq s pid who price h
  obtain ⟨q, hq⟩ := modPurse_of_frame hf fun p => { p with
    payers := (p.payers.filter fun q => !decide (q.who = who)) ++ [⟨who, d, ageOf p.payers who (cycleStart t pid)⟩] }
  exact ⟨q, he.trans hq⟩

theorem cycleStart_frame {pid : Nat} {s t : State} (h : PurseFrame pid s t) : cycleStart t pid = cycleStart s pid := by
  rcases h with rfl | ⟨p, rfl⟩ <;> rfl

theorem pay_denied_payer (s : State) (pid who price : Nat) (h : (pay s pid who price).2 = false) :
    ∃ y ∈ ((pay s pid who price).1.clu pid).purse.payers, y.who = who
      ∧ y.age = ageOf ((rollSpend s pid).clu pid).purse.payers who (cycleStart s pid) := by
  obtain ⟨t, d, he, hf, hp⟩ := pay_denied_eq s pid who price h
  rw [he, deny, modPurse_purse, cycleStart_frame hf, hp]
  exact ⟨_, List.mem_append_right _ (List.mem_singleton_self _), rfl, rfl⟩

theorem pricedWord_denied (weight : Nat) (x : LaneWord) (body : State → Nat → State) (s : State)
    (h : (payLane s weight (activeMask s x)).2 = false) :
    pricedWord weight x body s = holdWord (payLane s weight (activeMask s x)).1 := by
  unfold pricedWord
  dsimp only
  generalize payLane s weight (activeMask s x) = q at h ⊢
  obtain ⟨u, b⟩ := q
  dsimp only at h
  subst h
  rfl

theorem floatWord_priced (x : LaneWord) (lat n : Nat) (res : State → List (Nat × Ev)) (s : State) :
    ∃ body, floatWord x lat n res s = pricedWord 1 x body s := ⟨_, rfl⟩

theorem convWord_priced (x : LaneWord) (lat n wS wD : Nat) (round : Bool) (els : Nat → List Nat)
    (f : State → Nat → RMode → Nat → Nat → Nat × Ev) (s : State) :
    ∃ body, convWord x lat n wS wD round els f s = pricedWord 1 x body s := by
  unfold convWord
  exact ⟨_, rfl⟩

theorem execFcmp_priced (x : LaneWord) (s : State) : ∃ body, execFcmp x s = pricedWord 1 x body s := by
  unfold execFcmp
  exact ⟨_, rfl⟩

theorem execCvt_priced (x : LaneWord) (s : State) : ∃ body, execCvt x s = pricedWord 1 x body s := by
  unfold execCvt
  exact convWord_priced ..

/-- The words of weight 1 pay for it before all else (R202). -/
theorem exec_weight1 (s : State) (x : LaneWord) :
    ∀ i ∈ [Instr.fadd x, .fsub x, .fmul x, .ffma x, .fdp2 x, .fdp4 x, .fmin x, .fmax x, .fabs x, .fneg x, .fcmp x, .cvt x],
      ∃ body, exec i s = pricedWord 1 x body s := by
  intro i hi
  simp only [List.mem_cons, List.not_mem_nil, or_false] at hi
  rcases hi with rfl | rfl | rfl | rfl | rfl | rfl | rfl | rfl | rfl | rfl | rfl | rfl
  · exact floatWord_priced x 4 1 (float2 x Val.add) s
  · exact floatWord_priced x 4 1 (float2 x fun rm a b => Val.add rm a b.neg) s
  · exact floatWord_priced x 4 1 (float2 x fun _ a b => Val.mul a b) s
  · exact floatWord_priced x 4 1 _ s
  · exact floatWord_priced x 5 1 _ s
  · exact floatWord_priced x 5 1 _ s
  · exact floatWord_priced x 2 1 (minMax x true) s
  · exact floatWord_priced x 2 1 (minMax x false) s
  · exact floatWord_priced x 2 1 (signWord x fun top a => a % top) s
  · exact floatWord_priced x 2 1 (signWord x fun top a => a ^^^ top) s
  · exact execFcmp_priced x s
  · exact execCvt_priced x s

/-- R410: a word of weight 1 that cannot be paid for stays where it is. -/
theorem denied_word (s : State) (x : LaneWord) (p : PipeRun) (hrun : laneRun s = some p) (i : Instr)
    (hi : ∃ body, exec i s = pricedWord 1 x body s) (hd : (payLane s 1 (activeMask s x)).2 = false) :
    let r := (payLane s 1 (activeMask s x)).1
    exec i s = .next { r with lane := { r.lane with held := true } }
      ∧ r = s.setClu s.lane.pid { s.clu s.lane.pid with purse := (r.clu s.lane.pid).purse } ∧ laneRun r = some p
      ∧ ∃ y ∈ (r.clu s.lane.pid).purse.payers, y.who = pipeWho s.lane.pipe
        ∧ y.age = ageOf ((rollSpend s s.lane.pid).clu s.lane.pid).purse.payers (pipeWho s.lane.pipe) (cycleStart s s.lane.pid) := by
  intro r
  obtain ⟨body, he⟩ := hi
  obtain ⟨q, hq⟩ : ∃ q, r = modPurse s s.lane.pid fun _ => q := pay_denied_purse s _ _ _ hd
  have hpurse : (r.clu s.lane.pid).purse = q := by rw [hq, modPurse_purse]
  refine ⟨he.trans (pricedWord_denied 1 x body s hd), ?_, ?_, pay_denied_payer s _ _ _ hd⟩
  · rw [hpurse]; exact hq
  · rw [hq, ← hrun]
    show ((modPurse s s.lane.pid fun _ => q).clu s.lane.pid).pipes.find s.lane.pipe = _
    rw [modPurse, State.clu_modClu_self]
    rfl

/-- R14, R17, R39, R410. -/
theorem laneIssue : LaneIssue := by
  intro s x act acted p hrun hlen t
  let v := issuedRecord s x act acted
  have ht : t = settleMaskRd (progress v (s.ctxOf s.lane.tid)) s.lane.tid := issued_unfinished hrun hlen x act acted
  have hrest : t = { progress v (s.ctxOf s.lane.tid) with threads := t.threads } := by rw [ht]; exact settleMaskRdUntil_rest _ _ _
  have hv : v = { issuedRun s x act acted with groups := v.groups } := recordPark_rest _ _ _
  have hclu : ∀ q, t.clu q = (issuedRun s x act acted).clu q := fun q => by rw [hrest]; show v.clu q = _; rw [hv]; rfl
  have hgrp : ∀ f m k, t.grp f m k = v.grp f m k := fun f m k => by rw [hrest]; rfl
  have hlane : t.lane = s.lane := by rw [hrest]; show v.lane = _; rw [hv]; rfl
  refine ⟨?_, ?_, ?_, ?_, ?_, ?_, ?_, ?_⟩
  · rw [← laneRun_issuedRun hrun x act acted, laneRun, hlane, hclu]; rfl
  · rw [hrest]; show _ = _; rw [progress, State.modCtx, State.setCtx, hv]; rfl
  · intro q hq
    rw [hclu, issuedRun, State.clu_modClu_ne _ _ hq, modLaneRun, State.clu_modClu_ne _ _ hq]
  · intro f m k
    rw [hgrp]; exact recordPark_grp _ act acted f m k
  · intro f m k h
    rw [hgrp]; exact recordPark_grp_other _ act acted h
  · intro u
    rw [ht, settleMaskRd, settleMaskRdUntil_thr]
    have : (progress v (s.ctxOf s.lane.tid)).thr u = s.thr u := by show v.thr u = _; rw [hv]; rfl
    rw [this]
  · rw [hclu, issuedRun, State.clu_modClu_self, Table.get_set_self]
  · intro i hi pid r first hd
    exact denied_word s x p hrun i (exec_weight1 s x i hi) hd

/-- R17, R36 to R39, R199. -/
theorem laneRegisters : LaneRegisters := ⟨laneOperands, laneIssue⟩

/-! ### Integers of a type -/

theorem tyWidth_pos (t : Nat) : 1 ≤ tyWidth t := by unfold tyWidth; split <;> decide

theorem two_pow_pred {w : Nat} (hw : 1 ≤ w) : 2 ^ w = 2 * 2 ^ (w - 1) := by
  rw [← Nat.pow_succ', Nat.succ_eq_add_one, Nat.sub_add_cancel hw]

/-- The two's-complement reading of a number of `w` bits (R9). -/
theorem sextInt_eq {w e : Nat} (hw : 1 ≤ w) (he : e < 2 ^ w) :
    sextInt e w = if 2 ^ (w - 1) ≤ e then (e : Int) - 2 ^ w else e := by
  have h2 := two_pow_pred hw
  simp only [sextInt, Nat.mod_eq_of_lt he]
  by_cases h : 2 ^ (w - 1) ≤ e
  · rw [if_neg (by omega), if_pos h]; push_cast; rfl
  · rw [if_pos (by omega), if_neg h]

theorem intVal_eq {t e : Nat} (he : e < 2 ^ tyWidth t) : intVal t e = ival t e := by
  by_cases h : 4 ≤ t
  · simp only [intVal, isSigned, h, decide_true, if_true, sextInt_eq (tyWidth_pos t) he, ival, true_and]
  · simp only [intVal, isSigned, h, decide_false, Bool.false_eq_true, if_false, ival, false_and, Nat.mod_eq_of_lt he]

theorem intVal_mod (t x : Nat) : intVal t x = ival t (x % 2 ^ tyWidth t) := by
  rw [← intVal_eq (Nat.mod_lt _ (Nat.two_pow_pos _))]
  simp only [intVal, sextInt, Nat.mod_mod]

theorem truncNat_eq (v : Int) (w : Nat) : truncNat v w = (v % 2 ^ w).toNat := by simp [truncNat]

theorem truncNat_lt (v : Int) (w : Nat) : truncNat v w < 2 ^ w := by
  have h0 : (0 : Int) < ((2 ^ w : Nat) : Int) := by exact_mod_cast Nat.two_pow_pos w
  have h := Int.emod_lt_of_pos v h0
  have h' := Int.emod_nonneg v h0.ne'
  unfold truncNat
  omega

/-- `clamp` and `wrap` (R172). -/
theorem narrow_eq_fit (sat sgn : Bool) (w : Nat) (v : Int) : narrow sat sgn w v = fit sat sgn w v := by
  have hp : (1 : Int) ≤ 2 ^ (w - 1) := by exact_mod_cast Nat.two_pow_pos (w - 1)
  have hq : (1 : Int) ≤ 2 ^ w := by exact_mod_cast Nat.two_pow_pos w
  have hle : minInt sgn w ≤ maxInt sgn w := by cases sgn <;> simp only [minInt, maxInt, if_true, Bool.false_eq_true, if_false] <;> omega
  cases sat with
  | false => simp only [narrow, fit, truncNat_eq, Bool.false_eq_true, if_false]
  | true =>
    have hc : min (max v (minInt sgn w)) (maxInt sgn w)
        = if v < minInt sgn w then minInt sgn w else if maxInt sgn w < v then maxInt sgn w else v := by
      split
      · rw [max_eq_right (by omega), min_eq_left hle]
      · rw [max_eq_left (by omega)]
        split
        · rw [min_eq_right (by omega)]
        · rw [min_eq_left (by omega)]
    simp only [narrow, truncNat_eq, if_true, hc]
    rfl

theorem fit_lt (sat sgn : Bool) (w : Nat) (v : Int) : fit sat sgn w v < 2 ^ w := by
  unfold fit
  dsimp only
  rw [← truncNat_eq]
  exact truncNat_lt _ _

/-- A number of `w` bits sign-extended to `n` bits. -/
theorem truncNat_sextInt {w n e : Nat} (hw : 1 ≤ w) (hn : w ≤ n) (he : e < 2 ^ w) :
    truncNat (sextInt e w) n = if 2 ^ (w - 1) ≤ e then 2 ^ n - 2 ^ w + e else e := by
  have hle : 2 ^ w ≤ 2 ^ n := Nat.pow_le_pow_right (by decide) hn
  rw [sextInt_eq hw he, truncNat]
  split
  · have h : ((e : Int) - 2 ^ w) % ((2 ^ n : Nat) : Int) = ((2 ^ n - 2 ^ w + e : Nat) : Int) := by
      rw [← Int.add_emod_right, Int.emod_eq_of_lt]
      · push_cast [hle]; omega
      · have : ((2 ^ w : Nat) : Int) ≤ ((2 ^ n : Nat) : Int) := by exact_mod_cast hle
        push_cast at this ⊢; omega
      · have : (e : Int) < ((2 ^ w : Nat) : Int) := by exact_mod_cast he
        push_cast at this ⊢; omega
    rw [h, Int.toNat_natCast]
  · rw [← Int.natCast_mod, Int.toNat_natCast, Nat.mod_eq_of_lt (by omega)]

/-! ### Elements -/

theorem elem_lt (w a j : Nat) : elem w a j < 2 ^ w := Nat.mod_lt _ (Nat.two_pow_pos w)

/-- Elements side by side (R173). -/
theorem joinElems_map_range (w n : Nat) (f : Nat → Nat) :
    joinElems w ((List.range n).map f) = ((List.range n).map fun j => f j % 2 ^ w * 2 ^ (w * j)).sum := by
  induction n generalizing f with
  | zero => rfl
  | succ n ih =>
    rw [List.range_succ_eq_map]
    simp only [List.map_cons, List.map_map, joinElems, List.sum_cons, Nat.mul_zero, Nat.pow_zero, Nat.mul_one]
    rw [ih (f ∘ Nat.succ), ← List.sum_map_mul_left]
    congr 3
    funext j
    simp only [Function.comp_apply, Nat.succ_eq_add_one, Nat.mul_add, Nat.pow_add, Nat.mul_one]
    ring

/-- A result of elements that fit the type (R200). -/
theorem mapElems_eq_putAll {t : Nat} (ht : t < 8) (packed : Bool) (f : Nat → Nat → Nat → Nat) (a b c : Nat)
    (hf : ∀ j, f (elem (tyWidth t) a j) (elem (tyWidth t) b j) (elem (tyWidth t) c j) < 2 ^ tyWidth t) :
    mapElems t packed f a b c
      = putAll t packed fun j => f (elem (tyWidth t) a j) (elem (tyWidth t) b j) (elem (tyWidth t) c j) := by
  unfold mapElems putElems putAll elemCount
  cases packed with
  | true =>
    simp only [if_true, joinElems_map_range]
    congr 2
    funext j
    exact congrArg (· * _) (Nat.mod_eq_of_lt (hf j))
  | false =>
    have h0 := hf 0
    generalize hr : f (elem (tyWidth t) a 0) (elem (tyWidth t) b 0) (elem (tyWidth t) c 0) = r at h0
    have hget : ((List.range 1).map fun j => f (elemAt (tyWidth t) a j) (elemAt (tyWidth t) b j) (elemAt (tyWidth t) c j)).getD 0 0 = r := hr
    simp only [Bool.false_eq_true, if_false, hget, hr, ht, true_and, isIntTy, isSigned, decide_true, Bool.and_true,
      Bool.and_eq_true, decide_eq_true_eq]
    by_cases hw : tyWidth t < 32
    · by_cases hs : 4 ≤ t
      · simp only [hw, hs, true_and, if_true, truncNat_sextInt (tyWidth_pos t) hw.le h0, and_self]
      · simp only [hs, and_false, if_false, false_and]
    · simp only [hw, false_and, and_false, if_false]

/-! ### Element-wise words -/

/-- A list of 32 numbers, lane by lane. -/
theorem eq_map_range {l : List Nat} (h : l.length = 32) : l = (List.range 32).map fun k => l.getD k 0 := by
  apply List.ext_getElem
  · simp [h]
  · intro k h1 h2
    simp [List.getD_eq_getElem?_getD, List.getElem?_eq_getElem h1]

theorem map_lanes {f : Nat → Nat} {A : List Nat} (ha : A.length = 32) :
    A.map f = (List.range 32).map fun l => f (A.getD l 0) := by
  conv_lhs => rw [eq_map_range ha]
  rw [List.map_map]
  rfl

theorem zipWith_lanes {f : Nat → Nat → Nat} {A B : List Nat} (ha : A.length = 32) (hb : B.length = 32) :
    List.zipWith f A B = (List.range 32).map fun l => f (A.getD l 0) (B.getD l 0) := by
  conv_lhs => rw [eq_map_range ha, eq_map_range hb]
  simp [List.zipWith_map_left, List.zipWith_map_right]

theorem zip3_eq {f : Nat → Nat → Nat → Nat} (A B C : List Nat) :
    zip3 f A B C = List.zipWith (fun g c => g c) (List.zipWith f A B) C := by
  induction A generalizing B C with
  | nil => rfl
  | cons a A ih => cases B with
    | nil => rfl
    | cons b B => cases C with
      | nil => rfl
      | cons c C => simp only [zip3, List.zipWith_cons_cons, ih]

theorem zip3_lanes {f : Nat → Nat → Nat → Nat} {A B C : List Nat} (ha : A.length = 32) (hb : B.length = 32) (hc : C.length = 32) :
    zip3 f A B C = (List.range 32).map fun l => f (A.getD l 0) (B.getD l 0) (C.getD l 0) := by
  rw [zip3_eq]
  conv_lhs => rw [eq_map_range ha, eq_map_range hb, eq_map_range hc]
  simp [List.zipWith_map_left, List.zipWith_map_right]

/-- A free word whose destination takes 32 values writes them (R202). -/
theorem laneWrites_of_values {x : LaneWord} {s : State} {lat n : Nat} {vals : State → List Nat} {f : Nat → Nat}
    (h : vals s = (List.range 32).map f) :
    LaneWrites s (freeWordAct x (fun s act => putDest s x.dN n lat act (vals s)) s) x lat n f := by
  rw [LaneWrites, ← h]
  rfl

theorem map_range_congr {f g : Nat → Nat} (h : ∀ l < 32, f l = g l) : (List.range 32).map f = (List.range 32).map g :=
  List.map_congr_left fun l hl => h l (List.mem_range.mp hl)

/-- An element-wise word of up to three sources. -/
theorem elemWord_writes (x : LaneWord) (s : State) (lat : Nat) (f : Nat → Nat → Nat → Nat) (g : Nat → Nat)
    (h : ∀ l < 32, f ((srcA s x (tySpan x.ty)).getD l 0) ((srcB s x (tySpan x.ty)).getD l 0) ((srcC s x (tySpan x.ty)).getD l 0) = g l) :
    LaneWrites s (elemWord x lat f s) x lat (tySpan x.ty) g :=
  laneWrites_of_values (x := x) (vals := fun s => zip3 f (srcA s x (tySpan x.ty)) (srcB s x (tySpan x.ty)) (srcC s x (tySpan x.ty)))
    ((zip3_lanes (srcNat_length ..) (srcNat_length ..) (srcNat_length ..)).trans (map_range_congr h))

/-- The result of an exact integer operation in one lane (R172, R205). -/
def intResult (x : LaneWord) (op : Int → Int → Int → Int) (a b c : Nat) : Nat :=
  putAll x.ty x.pk0 fun j => fit x.sat0 (decide (4 ≤ x.ty)) (tyWidth x.ty)
    (op (ival x.ty (elem (tyWidth x.ty) a j)) (ival x.ty (elem (tyWidth x.ty) b j)) (ival x.ty (elem (tyWidth x.ty) c j)))

theorem intLane_eq (x : LaneWord) (ht : x.ty < 8) (op : Int → Int → Int → Int) (a b c : Nat) :
    intLane x op a b c = intResult x op a b c := by
  rw [intLane, mapElems_eq_putAll ht]
  · simp only [narrow_eq_fit, intVal_eq (elem_lt _ _ _), isSigned]
    rfl
  · intro j
    exact truncNat_lt _ _

/-- An exact integer operation of the type. -/
theorem intWord_writes (x : LaneWord) (ht : x.ty < 8) (s : State) (lat : Nat) (op op' : Int → Int → Int → Int)
    (h : ∀ a b c, op a b c = op' a b c) :
    LaneWrites s (intWord x lat op s) x lat (tySpan x.ty) fun l =>
      intResult x op' ((srcA s x (tySpan x.ty)).getD l 0) ((srcB s x (tySpan x.ty)).getD l 0) ((srcC s x (tySpan x.ty)).getD l 0) :=
  elemWord_writes x s lat _ _ fun l _ => by rw [intLane_eq x ht, show op = op' from by funext a b c; exact h a b c]

/-- The result of an operation on bit strings in one lane. -/
def bitResult (x : LaneWord) (op : Nat → Nat → Nat) (a b : Nat) : Nat :=
  putAll x.ty x.pk0 fun j => op (elem (tyWidth x.ty) a j) (elem (tyWidth x.ty) b j) % 2 ^ tyWidth x.ty

/-- An operation on elements as bit strings. -/
theorem bitWord_writes (x : LaneWord) (ht : x.ty < 8) (s : State) (lat : Nat) (op op' : Nat → Nat → Nat)
    (h : ∀ a b, a < 2 ^ tyWidth x.ty → b < 2 ^ tyWidth x.ty → op a b % 2 ^ tyWidth x.ty = op' a b % 2 ^ tyWidth x.ty) :
    LaneWrites s (bitWord x lat op s) x lat (tySpan x.ty) fun l =>
      bitResult x op' ((srcA s x (tySpan x.ty)).getD l 0) ((srcB s x (tySpan x.ty)).getD l 0) :=
  elemWord_writes x s lat _ _ fun l _ => by
    rw [mapElems_eq_putAll ht]
    · exact congrArg (putAll x.ty x.pk0) (funext fun j => h _ _ (elem_lt _ _ _) (elem_lt _ _ _))
    · intro j
      exact Nat.mod_lt _ (Nat.two_pow_pos _)

theorem xor_ones {w a : Nat} (ha : a < 2 ^ w) : a ^^^ (2 ^ w - 1) = 2 ^ w - 1 - a := by
  refine Nat.eq_of_testBit_eq fun i => ?_
  rw [Nat.sub_sub, Nat.add_comm 1, Nat.testBit_two_pow_sub_succ ha, Nat.testBit_xor, Nat.testBit_two_pow_sub_one]
  by_cases hi : i < w
  · simp [hi]
  · simp [hi, Nat.testBit_lt_two_pow (ha.trans_le (Nat.pow_le_pow_right (by decide) (Nat.le_of_not_lt hi)))]

theorem foldl_add_map {α : Type} [AddMonoid α] {β : Type} (f : β → α) (l : List β) (z : α) :
    l.foldl (fun acc k => acc + f k) z = z + (l.map f).sum := by
  induction l generalizing z with
  | nil => simp
  | cons b l ih => rw [List.foldl_cons, ih, List.map_cons, List.sum_cons, add_assoc]

theorem reverseBits_eq (w a : Nat) :
    reverseBits w a = ((List.range w).map fun k => if a.testBit k then 2 ^ (w - 1 - k) else 0).sum := by
  rw [reverseBits, foldl_add_map, Nat.zero_add]
  congr 2
  funext k
  cases h : a.testBit k <;> simp [b2n]

/-- R203 to R206, R205. -/
theorem laneIntegers : LaneIntegers := by
  intro x s ht _ t w n A B C lat mlat int3 bits
  have hint := intWord_writes x ht s
  have hbit := bitWord_writes x ht s
  refine ⟨hint (intLat t) _ (fun a b _ => a + b) fun _ _ _ => rfl, hint (intLat t) _ (fun a b _ => a - b) fun _ _ _ => rfl,
    hint (mulLat t) _ (fun a b _ => a * b) fun _ _ _ => rfl, hint (mulLat t) _ (fun a b _ => a * b / 2 ^ w) fun _ _ _ => by push_cast; rfl,
    hint (mulLat t) _ (fun a b c => a * b + c) fun _ _ _ => rfl, hint (intLat t) _ (fun a b _ => if a ≤ b then a else b) fun a b _ => min_def a b,
    hint (intLat t) _ (fun a b _ => if a ≤ b then b else a) fun a b _ => max_def a b, hint (intLat t) _ (fun a _ _ => if a < 0 then -a else a) fun a _ _ => ?_,
    hint (intLat t) _ (fun a b c => a + b + c) fun _ _ _ => rfl, hbit (intLat t) _ (fun a b => a &&& b) fun _ _ _ _ => rfl,
    hbit (intLat t) _ (fun a b => a ||| b) fun _ _ _ _ => rfl, hbit (intLat t) _ (fun a b => a ^^^ b) fun _ _ _ _ => rfl,
    hbit (intLat t) _ (fun a _ => 2 ^ w - 1 - a) fun a _ ha _ => ?_, hbit (intLat t) _ (fun a _ => a) fun _ _ _ _ => rfl,
    hbit (intLat t) _ (fun a b => a * 2 ^ (b % 256)) fun _ _ _ _ => rfl,
    hbit (intLat t) _ (fun a b => (ival t a / 2 ^ (b % 256) % 2 ^ w).toNat) fun a b ha _ => ?_,
    hbit (intLat t) _ (fun a b => (a * 2 ^ (b % 256 % w) ||| a / 2 ^ (w - b % 256 % w))) fun a b ha _ => ?_,
    hbit (intLat t) _ (fun a _ => ((List.range w).map fun k => if a.testBit k then 2 ^ (w - 1 - k) else 0).sum) fun a _ _ _ => ?_⟩
  · omega
  · rw [xor_ones ha]
  · rw [shrElem, truncNat_eq, intVal_eq ha]
    push_cast
    rfl
  · rw [rotElem, Nat.or_mod_two_pow, Nat.mod_mod, ← Nat.or_mod_two_pow]
  · rw [reverseBits_eq]

/-! ### Bit fields and bit counts -/

/-- A number of `w` bits is the sum of its bits. -/
theorem sum_bits {w v : Nat} (hv : v < 2 ^ w) : ((List.range w).map fun k => if v.testBit k then 2 ^ k else 0).sum = v := by
  induction w generalizing v with
  | zero => simp_all
  | succ w ih =>
    rw [List.range_succ, List.map_append, List.sum_append]
    have hlow : ∀ k ∈ List.range w, (if v.testBit k then 2 ^ k else 0) = if (v % 2 ^ w).testBit k then 2 ^ k else 0 := fun k hk => by
      simp [Nat.testBit_mod_two_pow, List.mem_range.mp hk]
    rw [List.map_congr_left hlow, ih (Nat.mod_lt _ (Nat.two_pow_pos w))]
    have hd := Nat.div_add_mod v (2 ^ w)
    have hq : v / 2 ^ w < 2 := Nat.div_lt_of_lt_mul (by rwa [← Nat.pow_succ])
    have hb : v.testBit w = decide (v / 2 ^ w = 1) := by
      rw [Nat.testBit_eq_decide_div_mod_eq, Nat.mod_eq_of_lt hq]
    simp only [hb, List.map_cons, List.map_nil, List.sum_cons, List.sum_nil, decide_eq_true_eq]
    rcases Nat.le_one_iff_eq_zero_or_eq_one.mp (Nat.lt_succ_iff.mp hq) with h | h <;> rw [h] at hd ⊢ <;> simp <;> omega

/-- A field of an integer, of its bits as far as they are looked at. -/
theorem field_truncNat (v : Int) {N pos len : Nat} (h : pos + len ≤ N) :
    truncNat v N / 2 ^ pos % 2 ^ len = (v / 2 ^ pos % 2 ^ len).toNat := by
  have hN : (2 : Int) ^ N = 2 ^ pos * (2 ^ len * 2 ^ (N - pos - len)) := by rw [← pow_add, ← pow_add]; congr 1; omega
  have hp : (2 : Int) ^ pos ≠ 0 := pow_ne_zero _ (by decide)
  have hr : (v / 2 ^ pos) % 2 ^ len = (v % 2 ^ N / 2 ^ pos) % 2 ^ len := by
    conv_lhs => rw [← Int.emod_add_mul_ediv v (2 ^ N), hN, Int.mul_assoc, Int.add_mul_ediv_left _ _ hp, Int.mul_assoc,
      Int.add_mul_emod_self_left]
    rw [hN]
  have hz : ((truncNat v N : Nat) : Int) = v % 2 ^ N := by
    rw [truncNat_eq, Int.toNat_of_nonneg (Int.emod_nonneg _ (pow_ne_zero _ (by decide)))]
  rw [hr, ← hz]
  exact_mod_cast (Int.toNat_natCast _).symm

theorem bfeElem_eq {t : Nat} (a b : Nat) :
    bfeElem t a b =
      if min (b / 256 % 256) (tyWidth t) = 0 then 0
      else if decide (4 ≤ t) = true ∧ 2 ^ (min (b / 256 % 256) (tyWidth t) - 1)
          ≤ (ival t (a % 2 ^ tyWidth t) / 2 ^ (b % 256) % 2 ^ min (b / 256 % 256) (tyWidth t)).toNat
        then 2 ^ tyWidth t - 2 ^ min (b / 256 % 256) (tyWidth t)
          + (ival t (a % 2 ^ tyWidth t) / 2 ^ (b % 256) % 2 ^ min (b / 256 % 256) (tyWidth t)).toNat
        else (ival t (a % 2 ^ tyWidth t) / 2 ^ (b % 256) % 2 ^ min (b / 256 % 256) (tyWidth t)).toNat := by
  simp only [bfeElem]
  generalize hl : min (b / 256 % 256) (tyWidth t) = len
  have hlen : len ≤ tyWidth t := by omega
  rw [field_truncNat _ (by omega), intVal_mod]
  generalize hf : (ival t (a % 2 ^ tyWidth t) / 2 ^ (b % 256) % 2 ^ len).toNat = f
  have hlt : f < 2 ^ len := by rw [← hf, ← truncNat_eq]; exact truncNat_lt _ _
  by_cases h0 : len = 0
  · simp [h0]
  · by_cases h4 : 4 ≤ t
    · simp only [h0, if_false, isSigned, h4, decide_true, if_true, true_and, truncNat_sextInt (Nat.pos_of_ne_zero h0) hlen hlt]
    · simp only [h0, if_false, isSigned, h4, decide_false, Bool.false_eq_true, false_and]

/-- The bits that BFI takes from its field. -/
theorem fieldMask_testBit {w len pos k : Nat} (hk : k < w) :
    ((2 ^ len - 1) * 2 ^ pos % 2 ^ w).testBit k = decide (pos ≤ k ∧ k < pos + len) := by
  rw [Nat.testBit_mod_two_pow, Nat.testBit_mul_two_pow, Nat.testBit_two_pow_sub_one]
  by_cases h : pos ≤ k
  · simp [hk, h]; omega
  · simp [h]

theorem bfiElem_eq {t : Nat} (a b c : Nat) :
    bfiElem t a b c = ((List.range (tyWidth t)).map fun k =>
      if (if b % 256 ≤ k ∧ k < b % 256 + min (b / 256 % 256) (tyWidth t) then a.testBit (k - b % 256) else c.testBit k) then 2 ^ k else 0).sum := by
  have hlt : bfiElem t a b c < 2 ^ tyWidth t := by
    have hm := Nat.mod_lt ((2 ^ min (b / 256 % 256) (tyWidth t) - 1) * 2 ^ (b % 256)) (Nat.two_pow_pos (tyWidth t))
    exact Nat.or_lt_two_pow (Nat.and_lt_two_pow _ (Nat.xor_lt_two_pow hm (Nat.sub_one_lt (Nat.two_pow_pos _).ne')))
      (Nat.and_lt_two_pow _ hm)
  rw [← sum_bits hlt]
  congr 1
  refine List.map_congr_left fun k hk => ?_
  have hk := List.mem_range.mp hk
  congr 2
  simp only [bfiElem, Nat.testBit_or, Nat.testBit_and, Nat.testBit_xor, fieldMask_testBit hk, Nat.testBit_two_pow_sub_one, hk,
    decide_true, Bool.xor_true, Nat.testBit_mul_two_pow]
  by_cases h : b % 256 ≤ k ∧ k < b % 256 + min (b / 256 % 256) (tyWidth t)
  · simp [h]
  · simp [h]

theorem popCount_eq (n x : Nat) : popCount n x = ((List.range n).filter fun k => x.testBit k).length := by
  induction n generalizing x with
  | zero => rfl
  | succ n ih =>
    rw [popCount, ih, List.range_succ_eq_map, List.filter_cons, List.filter_map, Nat.testBit_zero]
    have hs : ((fun k => x.testBit k) ∘ Nat.succ) = fun k => (x / 2).testBit k := funext fun k => Nat.testBit_succ x k
    rw [hs]
    rcases Nat.mod_two_eq_zero_or_one x with h | h <;> simp [h, Nat.add_comm]

/-- The length of a leading part of an initial segment, by where it ends. -/
theorem length_takeWhile_range {p : Nat → Bool} {n m : Nat} (hm : m ≤ n) (hp : ∀ k < m, p k = true) (hn : m < n → p m = false) :
    ((List.range n).takeWhile p).length = m := by
  obtain ⟨d, rfl⟩ := Nat.exists_eq_add_of_le hm
  rw [List.range_add, List.takeWhile_append_of_pos fun k hk => hp k (List.mem_range.mp hk), List.length_append, List.length_range]
  cases d with
  | zero => simp
  | succ d => simp [List.range_succ_eq_map, hn (by omega)]

theorem leadingZeros_eq (w a : Nat) :
    leadingZeros w a = ((List.range w).takeWhile fun k => !a.testBit (w - 1 - k)).length := by
  have hbit : ∀ k < w, a.testBit k = (a % 2 ^ w).testBit k := fun k hk => by simp [Nat.testBit_mod_two_pow, hk]
  have hr : a % 2 ^ w < 2 ^ w := Nat.mod_lt _ (Nat.two_pow_pos w)
  unfold leadingZeros
  symm
  split
  · next h0 =>
    refine length_takeWhile_range le_rfl (fun k hk => ?_) (fun h => absurd h (lt_irrefl _))
    rw [hbit _ (by omega), h0, Nat.zero_testBit]; rfl
  · next h0 =>
    have hlog : (a % 2 ^ w).log2 < w := (Nat.log2_lt h0).mpr hr
    refine length_takeWhile_range (by omega) (fun k hk => ?_) (fun h => ?_)
    · rw [hbit _ (by omega), Nat.testBit_lt_two_pow (Nat.lt_log2_self.trans_le (Nat.pow_le_pow_right (by decide) (by omega)))]; rfl
    · rw [hbit _ (by omega), show w - 1 - (w - 1 - (a % 2 ^ w).log2) = (a % 2 ^ w).log2 by omega, Nat.testBit_log2 h0]; rfl

/-! ### Sums, widening products -/

theorem elemCount_eq {t : Nat} {packed : Bool} (hw : tyWidth t ≤ 32) (h : packed = true ↔ tyWidth t < 32) :
    elemCount t packed = 32 / tyWidth t := by
  unfold elemCount
  split
  · rfl
  · next hp =>
    have : tyWidth t = 32 := by have := mt h.mpr hp; omega
    rw [this]

/-- A 32-bit sum of one lane (R208, R210). -/
theorem sumLane_eq {x : LaneWord} (hw : tyWidth x.ty ≤ 32) (hp : x.pk0 = true ↔ tyWidth x.ty < 32) (f f' : Int → Int → Int)
    (hf : ∀ a b, f a b = f' a b) (a b : Nat) {c : Nat} (hc : c < 2 ^ 32) :
    narrow x.sat0 (isSigned x.ty) 32 (intVal (t32 x.ty) c + sumElems x.ty x.pk0 f a b)
      = fit x.sat0 (decide (4 ≤ x.ty)) 32 (ival (if 4 ≤ x.ty then 6 else 2) c
        + ((List.range (32 / tyWidth x.ty)).map fun j => f' (ival x.ty (elem (tyWidth x.ty) a j)) (ival x.ty (elem (tyWidth x.ty) b j))).sum) := by
  have hsum : sumElems x.ty x.pk0 f a b
      = ((List.range (32 / tyWidth x.ty)).map fun j => f' (ival x.ty (elem (tyWidth x.ty) a j)) (ival x.ty (elem (tyWidth x.ty) b j))).sum := by
    rw [sumElems, foldl_add_map, zero_add, elemCount_eq hw hp]
    congr 2
    funext j
    rw [hf, ← intVal_eq (elem_lt _ _ _), ← intVal_eq (elem_lt _ _ _)]
    rfl
  have ht : t32 x.ty = if 4 ≤ x.ty then 6 else 2 := by simp [t32, isSigned]
  have hval : intVal (t32 x.ty) c = ival (if 4 ≤ x.ty then 6 else 2) c := by
    rw [ht]
    refine intVal_eq ?_
    split <;> exact hc
  rw [narrow_eq_fit, hsum, hval]
  rfl

/-- A word that sums into 32 bits. -/
theorem sumWord_writes {x : LaneWord} (hw : tyWidth x.ty ≤ 32) (hp : x.pk0 = true ↔ tyWidth x.ty < 32) (s : State) (lat : Nat)
    (f f' : Int → Int → Int) (hf : ∀ a b, f a b = f' a b) :
    LaneWrites s (sumWord x lat f s) x lat 1 fun l => fit x.sat0 (decide (4 ≤ x.ty)) 32
      (ival (if 4 ≤ x.ty then 6 else 2) ((srcC s x 1).getD l 0) + ((List.range (32 / tyWidth x.ty)).map fun j =>
        f' (ival x.ty (elem (tyWidth x.ty) ((srcA s x 1).getD l 0) j)) (ival x.ty (elem (tyWidth x.ty) ((srcB s x 1).getD l 0) j))).sum) :=
  laneWrites_of_values (x := x) (vals := fun s => zip3 (fun a b c => narrow x.sat0 (isSigned x.ty) 32 (intVal (t32 x.ty) c + sumElems x.ty x.pk0 f a b))
      (srcA s x 1) (srcB s x 1) (srcC s x 1))
    ((zip3_lanes (srcNat_length ..) (srcNat_length ..) (srcNat_length ..)).trans
      (map_range_congr fun _ hl => sumLane_eq hw hp f f' hf _ _ (srcNat_lt s x.cN _ 1 hl)))

/-- One lane of a widening product (R209). -/
theorem wideLane_eq {x : LaneWord} (add : Bool) (a b c : Nat) :
    wideLane x add a b c = ((List.range (32 / tyWidth x.ty)).map fun j =>
      fit x.sat0 (decide (4 ≤ x.ty)) (2 * tyWidth x.ty)
        (ival x.ty (elem (tyWidth x.ty) a j) * ival x.ty (elem (tyWidth x.ty) b j)
          + (if add then (if decide (4 ≤ x.ty) = true ∧ 2 ^ (2 * tyWidth x.ty - 1) ≤ elem (2 * tyWidth x.ty) c j
              then (elem (2 * tyWidth x.ty) c j : Int) - 2 ^ (2 * tyWidth x.ty) else elem (2 * tyWidth x.ty) c j) else 0))
        * 2 ^ (2 * tyWidth x.ty * j)).sum := by
  rw [wideLane, joinElems_map_range]
  congr 2
  funext j
  rw [narrow_eq_fit, Nat.mod_eq_of_lt (fit_lt _ _ _ _)]
  have hext : (if isSigned x.ty then sextInt (elemAt (2 * tyWidth x.ty) c j) (2 * tyWidth x.ty) else (elemAt (2 * tyWidth x.ty) c j : Int))
      = if decide (4 ≤ x.ty) = true ∧ 2 ^ (2 * tyWidth x.ty - 1) ≤ elem (2 * tyWidth x.ty) c j
        then (elem (2 * tyWidth x.ty) c j : Int) - 2 ^ (2 * tyWidth x.ty) else elem (2 * tyWidth x.ty) c j := by
    rw [show elemAt (2 * tyWidth x.ty) c j = elem (2 * tyWidth x.ty) c j from rfl,
      sextInt_eq (by have := tyWidth_pos x.ty; omega) (elem_lt _ _ _)]
    by_cases h4 : 4 ≤ x.ty <;> simp [isSigned, h4]
  beta_reduce
  rw [hext, show elemAt (tyWidth x.ty) a j = elem (tyWidth x.ty) a j from rfl, show elemAt (tyWidth x.ty) b j = elem (tyWidth x.ty) b j from rfl,
    intVal_eq (elem_lt _ _ _), intVal_eq (elem_lt _ _ _)]
  rfl

/-- What each lane of a word writes, written another way. -/
theorem laneWrites_congr {s : State} {o : Out} {x : LaneWord} {lat n : Nat} {f g : Nat → Nat} (h : LaneWrites s o x lat n f)
    (hfg : ∀ l < 32, f l = g l) : LaneWrites s o x lat n g := by
  rw [LaneWrites, ← map_range_congr hfg]
  exact h

theorem execBfe_writes (x : LaneWord) (s : State) : LaneWrites s (execBfe x s) x (intLat x.ty) (tySpan x.ty) fun l =>
    bfeElem x.ty ((srcA s x (tySpan x.ty)).getD l 0) ((srcB s x 1).getD l 0) := by
  unfold execBfe
  exact laneWrites_of_values (vals := fun s => List.zipWith (bfeElem x.ty) (srcA s x (tySpan x.ty)) (srcB s x 1))
    (zipWith_lanes (srcNat_length ..) (srcNat_length ..))

theorem execBfi_writes (x : LaneWord) (s : State) : LaneWrites s (execBfi x s) x (intLat x.ty) (tySpan x.ty) fun l =>
    bfiElem x.ty ((srcA s x (tySpan x.ty)).getD l 0) ((srcB s x 1).getD l 0) ((srcC s x (tySpan x.ty)).getD l 0) := by
  unfold execBfi
  exact laneWrites_of_values (vals := fun s => zip3 (bfiElem x.ty) (srcA s x (tySpan x.ty)) (srcB s x 1) (srcC s x (tySpan x.ty)))
    (zip3_lanes (srcNat_length ..) (srcNat_length ..) (srcNat_length ..))

theorem execPopcLane_writes (x : LaneWord) (s : State) : LaneWrites s (execPopcLane x s) x (intLat x.ty) 1 fun l =>
    popCount (tyWidth x.ty) ((srcA s x (tySpan x.ty)).getD l 0) := by
  unfold execPopcLane
  exact laneWrites_of_values (vals := fun s => (srcA s x (tySpan x.ty)).map (popCount (tyWidth x.ty))) (map_lanes (srcNat_length ..))

theorem execClzLane_writes (x : LaneWord) (s : State) : LaneWrites s (execClzLane x s) x (intLat x.ty) 1 fun l =>
    leadingZeros (tyWidth x.ty) ((srcA s x (tySpan x.ty)).getD l 0) := by
  unfold execClzLane
  exact laneWrites_of_values (vals := fun s => (srcA s x (tySpan x.ty)).map (leadingZeros (tyWidth x.ty))) (map_lanes (srcNat_length ..))

theorem execImulw_writes (x : LaneWord) (s : State) : LaneWrites s (execImulw x s) x 4 2 fun l =>
    wideLane x false ((srcA s x 1).getD l 0) ((srcB s x 1).getD l 0) ((srcB s x 1).getD l 0) := by
  unfold execImulw
  exact laneWrites_of_values (vals := fun s => zip3 (wideLane x false) (srcA s x 1) (srcB s x 1) (srcB s x 1))
    (zip3_lanes (srcNat_length ..) (srcNat_length ..) (srcNat_length ..))

theorem execImadw_writes (x : LaneWord) (s : State) : LaneWrites s (execImadw x s) x 4 2 fun l =>
    wideLane x true ((srcA s x 1).getD l 0) ((srcB s x 1).getD l 0) ((srcC s x 2).getD l 0) := by
  unfold execImadw
  exact laneWrites_of_values (vals := fun s => zip3 (wideLane x true) (srcA s x 1) (srcB s x 1) (srcC s x 2))
    (zip3_lanes (srcNat_length ..) (srcNat_length ..) (srcNat_length ..))

/-- R207 to R210. -/
theorem laneFieldsAndSums : LaneFieldsAndSums := by
  intro x s ht hp t w n A C A1 B1 C1 C2 sgn lat len pos els sum wide
  refine ⟨fun _ => ⟨?_, ?_, ?_, ?_⟩, fun hw => ⟨?_, ?_, ?_⟩, fun hw => ?_, fun hw => ?_⟩
  · exact laneWrites_congr (execBfe_writes x s) fun l _ => bfeElem_eq _ _
  · exact laneWrites_congr (execBfi_writes x s) fun l _ => bfiElem_eq _ _ _
  · exact laneWrites_congr (execPopcLane_writes x s) fun l _ => popCount_eq _ _
  · exact laneWrites_congr (execClzLane_writes x s) fun l _ => leadingZeros_eq _ _
  · exact sumWord_writes hw hp s 2 (fun a b => ((a - b).natAbs : Int)) (fun a b => if a ≤ b then b - a else a - b) fun a b => by
      split <;> omega
  · exact laneWrites_congr (execImulw_writes x s) fun l _ => wideLane_eq false _ _ _
  · exact laneWrites_congr (execImadw_writes x s) fun l _ => wideLane_eq true _ _ _
  · exact sumWord_writes (hw.trans_le (by decide)) hp s 4 (fun a b => a * b) (fun a b => a * b) fun _ _ => rfl
  · exact sumWord_writes (hw.trans_le (by decide)) hp s 4 (fun a b => a * b) (fun a b => a * b) fun _ _ => rfl

/-- R203 to R210. -/
theorem laneIntegerWords : LaneIntegerWords := ⟨laneIntegers, laneFieldsAndSums⟩

/-- Settles O44: operands, issue and payment by rules for the state's operations; the integer words lane by lane, each
from the exact integers of its elements. -/
theorem laneRegistersAndIntegers : Obligations.LaneRegistersAndIntegers := ⟨laneRegisters, laneIntegerWords⟩

end Sys2Proof.Lanes
end

section
/-! PROOFS. A step runs the decoded instruction: the words of what is decoded, the fetch from cached lines, and the turns of
threads, events and pipes. -/

namespace Sys2Proof.Turns
open Sys2Proof Sys2Proof.Machine Sys2Proof.Claims Sys2Proof.Laws

/-! ### The words of what is decoded -/

/-- A number's bits from one place on, by those from a higher place on and the field between. -/
theorem div_field (w k n : Nat) : w / 2 ^ (k + n) * 2 ^ n + w / 2 ^ k % 2 ^ n = w / 2 ^ k := by
  rw [pow_add, ← Nat.div_div_eq_div_mul, Nat.div_add_mod']

theorem flag_getLsbD (w : BitVec 64) (k : Nat) : (flag (w.getLsbD k)).toNat = w.toNat / 2 ^ k % 2 ^ 1 := by
  rw [flag, BitVec.toNat_ofBool, BitVec.getLsbD, Nat.testBit_eq_decide_div_mod_eq]
  rcases Nat.mod_two_eq_zero_or_one (w.toNat / 2 ^ k) with h | h <;> simp [h]

/-- A doubleword of class 0b11 is the lane word of its opcode and fields (R35). -/
theorem encLane_of_fields {w : BitVec 64} (h : lCls w = 3) : encLane (lOp w) (laneFields w) = w := by
  have hc : (3#2).toNat = w.toNat / 2 ^ 62 := by
    have := congrArg BitVec.toNat h
    simp only [lCls, BitVec.extractLsb'_toNat, Nat.shiftRight_eq_div_pow] at this
    rw [← Nat.mod_eq_of_lt (show w.toNat / 2 ^ 62 < 2 ^ 2 from Nat.div_lt_of_lt_mul w.isLt), this]
    rfl
  apply BitVec.eq_of_toNat_eq
  simp only [encLane, laneFields, lOp, toNat_append, flag_getLsbD, BitVec.extractLsb'_toNat, Nat.shiftRight_eq_div_pow, hc]
  rw [div_field _ 52 10, div_field _ 44 8, div_field _ 36 8, div_field _ 28 8, div_field _ 20 8, div_field _ 19 1, div_field _ 15 4,
    div_field _ 11 4, div_field _ 10 1, div_field _ 0 10, Nat.pow_zero, Nat.div_one]

/-- A lane opcode's instruction has the lane word of that opcode. -/
theorem encode_laneInstr {n : Nat} {x : LaneWord} {i : Instr} (h : laneInstr n x = some i) :
    encode i = some (64, (encLane (BitVec.ofNat 10 n) x).toNat) := by
  unfold laneInstr at h
  split at h <;> cases h <;> rfl

/-- Whatever a decoder accepts has a property. -/
def Accepts (P : Instr → Prop) (r : Except DecodeError Instr) : Prop := ∀ i, r = .ok i → P i

@[simp] theorem accepts_ok (P : Instr → Prop) (i : Instr) : Accepts P (.ok i) ↔ P i :=
  ⟨fun h => h i rfl, fun h _ e => by cases e; exact h⟩
@[simp] theorem accepts_error (P : Instr → Prop) (e : DecodeError) : Accepts P (.error e) := fun _ h => nomatch h
@[simp] theorem accepts_need (P : Instr → Prop) (ok : Bool) (e : DecodeError) (k : Except DecodeError Instr) :
    Accepts P (need ok e k) ↔ (ok = true → Accepts P k) := by
  cases ok <;> simp [need]
@[simp] theorem accepts_zero (P : Instr → Prop) (ok : Bool) (i : Instr) : Accepts P (zero ok i) ↔ (ok = true → P i) := by
  simp [zero]

/-- A decoded lane word is the word of its instruction. -/
theorem encode_decodeLane {w : BitVec 64} {i : Instr} (hc : lCls w = 3) (h : decodeLane w = .ok i) : encode i = some (64, w.toNat) := by
  revert i
  show Accepts (fun i => encode i = some (64, w.toNat)) (decodeLane w)
  unfold decodeLane
  split
  · simp
  · next j hj =>
    have := encode_laneInstr hj
    rw [BitVec.ofNat_toNat, BitVec.setWidth_eq, encLane_of_fields hc] at this
    simp [this]

/-- One parcel. -/
def OneParcel (i : Instr) : Prop := ∃ w, encode i = some (32, w)
/-- A leading parcel and a parcel of class 0b01. -/
def TwoParcels (i : Instr) : Prop := ∃ p q, encode i = some (64, (encL p q).toNat) ∧ pCls q = 1

theorem decodeR_oneParcel (p : Parcel) : Accepts OneParcel (decodeR p) := by
  unfold decodeR
  split <;> simp only [accepts_ok, accepts_error, accepts_need, accepts_zero] <;> intros <;> exact ⟨_, rfl⟩

theorem decodeI_oneParcel (p : Parcel) : Accepts OneParcel (decodeI p) := by
  unfold decodeI
  split <;> simp only [accepts_ok, accepts_error, accepts_need, accepts_zero] <;> intros <;> exact ⟨_, rfl⟩

theorem decodeB_oneParcel (p : Parcel) : Accepts OneParcel (decodeB p) := by
  unfold decodeB
  split <;> simp only [accepts_ok, accepts_error] <;> exact ⟨_, rfl⟩

theorem decodeShort_oneParcel (p : Parcel) : Accepts OneParcel (decodeShort p) := by
  unfold decodeShort
  split
  · exact decodeR_oneParcel p
  · exact decodeI_oneParcel p
  · exact decodeB_oneParcel p
  · simp

theorem decodeLong_twoParcels (p q : Parcel) : Accepts TwoParcels (decodeLong p q) := by
  unfold decodeLong
  split
  · simp
  · split <;> simp only [accepts_ok, accepts_error, accepts_need, accepts_zero] <;> intros
    all_goals exact ⟨_, _, rfl, by simp⟩

/-! ### The fetch of an instruction -/

/-- The line of code at an address stands in a cluster's instruction cache for a context. -/
def LineCached (s : State) (pid ctx va : Nat) (d : List Byte) : Prop :=
  ((s.clu pid).icache.find? fun x => decide ((x.ctx, x.va) = (ctx, va))) = some ⟨ctx, va, d⟩

/-- A cached line made the most recently used. -/
def usedLine (s : State) (pid ctx va : Nat) (d : List Byte) : State :=
  s.modClu pid fun c => { c with icache := ⟨ctx, va, d⟩ :: c.icache.filter fun x => !decide ((x.ctx, x.va) = (ctx, va)) }

theorem usedLine_rest (s : State) (pid ctx va : Nat) (d : List Byte) :
    usedLine s pid ctx va d = { s with clusters := (usedLine s pid ctx va d).clusters } := rfl

theorem lineCached_usedLine_self (s : State) (pid ctx va : Nat) (d : List Byte) : LineCached (usedLine s pid ctx va d) pid ctx va d := by
  simp [LineCached, usedLine]

theorem lineCached_usedLine {s : State} {pid ctx va va' : Nat} {d d' : List Byte} (hne : va' ≠ va) (h : LineCached s pid ctx va' d') :
    LineCached (usedLine s pid ctx va d) pid ctx va' d' := by
  unfold LineCached at h ⊢
  rw [usedLine, State.clu_modClu_self, List.find?_cons_of_neg (by simp [hne.symm]), List.find?_filter, ← h]
  congr 1
  funext x
  by_cases hx : x.ctx = ctx ∧ x.va = va'
  · simp [hx, hne]
  · simp [hx]

/-- A fetch from a cached line (R336). -/
theorem fetchBytes_cached {s : State} {fid pid va : Nat} {d : List Byte} (n : Nat) (hc : canonical va = true)
    (h : LineCached s pid (s.flk fid).ctx (va / 256 * 256) d) :
    fetchBytes s fid pid va n = (usedLine s pid (s.flk fid).ctx (va / 256 * 256) d, .ok ((d.drop (va % 256)).take n)) := by
  have hl : icLine s fid pid va = (usedLine s pid (s.flk fid).ctx (va / 256 * 256) d, .ok d) := by
    unfold LineCached at h
    simp only [icLine, h]
    rfl
  simp only [fetchBytes, hc, hl, Bool.not_true, Bool.false_eq_true, if_false]

/-- Both halves of a line are canonical, or neither (R76). -/
theorem canonical_in_line {a b : Nat} (h : a / 256 = b / 256) (hc : canonical a = true) : canonical b = true := by
  simp only [canonical, Bool.or_eq_true, decide_eq_true_eq] at hc ⊢
  omega

/-- What the thread executes at a doubleword whose upper parcel has class 0b11 (R28). -/
def laneFetched (w : BitVec 64) : Instr :=
  match decodeLane w with
  | .ok (.trl x) => .trl x
  | _ => .laneWordEmit w

/-- The instruction that two parcels of a generator word are, or the illegal one (R28, R33). -/
def longFetched (lo hi : Parcel) : Instr :=
  match decodeLong lo hi with
  | .ok i => i
  | .error _ => .illegalInstruction (lo.zeroExtend 64)

def shortFetched (lo : Parcel) : Instr :=
  match decodeShort lo with
  | .ok i => i
  | .error _ => .illegalInstruction (lo.zeroExtend 64)

theorem laneFetched_trl {w : BitVec 64} {x : LaneWord} (h : decodeLane w = .ok (.trl x)) : laneFetched w = .trl x := by
  simp only [laneFetched, h]

theorem laneFetched_word {w : BitVec 64} {i : Instr} (h : decodeLane w = .ok i) (hi : ∀ x, i ≠ .trl x) : laneFetched w = .laneWordEmit w := by
  unfold laneFetched
  split
  · next x hx => rw [h] at hx; cases hx; exact absurd rfl (hi x)
  · rfl

/-- The answer of a fetch is a decoded instruction, a lane word being emitted. -/
def Fetched (i : Instr) (r : Except FetchFault Instr) : Prop :=
  ((∀ n w, encode i = some (n, w) → n = 32 ∨ lCls (BitVec.ofNat 64 w) ≠ 3) → r = .ok i)
    ∧ ∀ w : BitVec 64, encode i = some (64, w.toNat) → lCls w = 3 →
        r = .ok (match i with
          | .trl x => .trl x
          | _ => .laneWordEmit w)

theorem lCls_encL (p q : Parcel) : lCls (encL p q) = pCls q := by
  have hp := p.isLt
  have hq := q.isLt
  apply BitVec.eq_of_toNat_eq
  simp only [lCls, pCls, BitVec.extractLsb'_toNat, encL_toNat, Nat.shiftRight_eq_div_pow]
  omega

theorem fetched_lane {w : BitVec 64} {i : Instr} (hc : lCls w = 3) (h : decodeLane w = .ok i) : Fetched i (.ok (laneFetched w)) := by
  have he := encode_decodeLane hc h
  refine ⟨fun hn => ?_, fun w' he' _ => ?_⟩
  · rcases hn 64 w.toNat he with h64 | hcls
    · cases h64
    · rw [BitVec.ofNat_toNat, BitVec.setWidth_eq] at hcls
      exact absurd hc hcls
  · rw [he, Option.some_inj, Prod.mk.injEq, BitVec.toNat_inj] at he'
    obtain ⟨-, rfl⟩ := he'
    by_cases hx : ∃ x, i = .trl x
    · obtain ⟨x, rfl⟩ := hx
      rw [laneFetched_trl h]
    · rw [laneFetched_word h fun x hi => hx ⟨x, hi⟩]
      split
      · next x => exact absurd ⟨x, rfl⟩ hx
      · rfl

theorem fetched_long {lo hi : Parcel} {i : Instr} (h : decodeLong lo hi = .ok i) : Fetched i (.ok (longFetched lo hi)) := by
  have hr : longFetched lo hi = i := by simp only [longFetched, h]
  obtain ⟨p, q, he, hq⟩ := decodeLong_twoParcels lo hi i h
  refine ⟨fun _ => by rw [hr], fun w he' hc => ?_⟩
  rw [he, Option.some_inj, Prod.mk.injEq, BitVec.toNat_inj] at he'
  rw [← he'.2, lCls_encL, hq] at hc
  exact absurd hc (by decide)

theorem fetched_short {lo : Parcel} {i : Instr} (h : decodeShort lo = .ok i) : Fetched i (.ok (shortFetched lo)) := by
  have hr : shortFetched lo = i := by simp only [shortFetched, h]
  obtain ⟨w, he⟩ := decodeShort_oneParcel lo i h
  refine ⟨fun _ => by rw [hr], fun w' he' _ => ?_⟩
  rw [he] at he'
  cases he'

/-- A parcel of some bytes. -/
def parcelAt (bs : List Byte) (k : Nat) : Parcel := BitVec.ofNat 32 (leNat ((bs.drop k).take 4))

/-- The fetch at an 8-byte-aligned PC (R28). -/
theorem fetchInstr_aligned {s : State} {d : List Byte} (ha : (me s).pc.toNat % 8 = 0) (hc : canonical (me s).pc.toNat = true)
    (hl : LineCached s (myPid s) (myFlk s).ctx ((me s).pc.toNat / 256 * 256) d) :
    fetchInstr s = (usedLine s (myPid s) (myFlk s).ctx ((me s).pc.toNat / 256 * 256) d,
      .ok (if pCls (parcelAt d ((me s).pc.toNat % 256 + 4)) = 3 then laneFetched (BitVec.ofNat 64 (leNat ((d.drop ((me s).pc.toNat % 256)).take 8)))
        else if isPrefix (parcelAt d ((me s).pc.toNat % 256)) then
          longFetched (parcelAt d ((me s).pc.toNat % 256)) (parcelAt d ((me s).pc.toNat % 256 + 4))
        else shortFetched (parcelAt d ((me s).pc.toNat % 256)))) := by
  have hlo : BitVec.ofNat 32 (leNat (((d.drop ((me s).pc.toNat % 256)).take 8).take 4)) = parcelAt d ((me s).pc.toNat % 256) := by
    rw [List.take_take]; rfl
  have hhi : BitVec.ofNat 32 (leNat (((d.drop ((me s).pc.toNat % 256)).take 8).drop 4)) = parcelAt d ((me s).pc.toNat % 256 + 4) := by
    rw [List.drop_take, List.drop_drop]; rfl
  have hf : fetchBytes s s.cur.fid (myPid s) (me s).pc.toNat 8 = _ := fetchBytes_cached 8 hc hl
  unfold fetchInstr
  simp only [ha, decide_true, if_true, hf, hlo, hhi, Bool.true_and, decide_eq_true_eq]
  split
  · rfl
  · split
    · unfold longFetched; cases decodeLong _ _ <;> rfl
    · unfold shortFetched; cases decodeShort _ <;> rfl

/-- The fetch of one parcel elsewhere. -/
theorem fetchInstr_short {s : State} {d : List Byte} (ha : (me s).pc.toNat % 8 ≠ 0) (hc : canonical (me s).pc.toNat = true)
    (hl : LineCached s (myPid s) (myFlk s).ctx ((me s).pc.toNat / 256 * 256) d) (hp : isPrefix (parcelAt d ((me s).pc.toNat % 256)) = false) :
    fetchInstr s = (usedLine s (myPid s) (myFlk s).ctx ((me s).pc.toNat / 256 * 256) d, .ok (shortFetched (parcelAt d ((me s).pc.toNat % 256)))) := by
  have hlo : BitVec.ofNat 32 (leNat (((d.drop ((me s).pc.toNat % 256)).take 4).take 4)) = parcelAt d ((me s).pc.toNat % 256) := by
    rw [List.take_take]; rfl
  have hf : fetchBytes s s.cur.fid (myPid s) (me s).pc.toNat 4 = _ := fetchBytes_cached 4 hc hl
  unfold fetchInstr
  simp only [ha, decide_false, Bool.false_eq_true, if_false, hf, hlo, Bool.false_and, hp]
  unfold shortFetched
  cases decodeShort _ <;> rfl

/-- The fetch of a long form elsewhere: its second parcel by an access of its own. -/
theorem fetchInstr_long {s : State} {d d' : List Byte} (ha : (me s).pc.toNat % 8 ≠ 0) (hc : canonical (me s).pc.toNat = true)
    (hl : LineCached s (myPid s) (myFlk s).ctx ((me s).pc.toNat / 256 * 256) d) (hp : isPrefix (parcelAt d ((me s).pc.toNat % 256)) = true)
    (hc' : canonical (((me s).pc.toNat + 4) % 2 ^ 64) = true)
    (hl' : LineCached (usedLine s (myPid s) (myFlk s).ctx ((me s).pc.toNat / 256 * 256) d) (myPid s) (myFlk s).ctx
      (((me s).pc.toNat + 4) % 2 ^ 64 / 256 * 256) d') :
    fetchInstr s = (usedLine (usedLine s (myPid s) (myFlk s).ctx ((me s).pc.toNat / 256 * 256) d) (myPid s) (myFlk s).ctx
        (((me s).pc.toNat + 4) % 2 ^ 64 / 256 * 256) d',
      .ok (longFetched (parcelAt d ((me s).pc.toNat % 256)) (parcelAt d' (((me s).pc.toNat + 4) % 2 ^ 64 % 256)))) := by
  have hlo : BitVec.ofNat 32 (leNat (((d.drop ((me s).pc.toNat % 256)).take 4).take 4)) = parcelAt d ((me s).pc.toNat % 256) := by
    rw [List.take_take]; rfl
  have hf : fetchBytes s s.cur.fid (myPid s) (me s).pc.toNat 4 = _ := fetchBytes_cached 4 hc hl
  have hf' : fetchBytes (usedLine s (myPid s) (myFlk s).ctx ((me s).pc.toNat / 256 * 256) d) s.cur.fid (myPid s)
    (((me s).pc.toNat + 4) % 2 ^ 64) 4 = _ := fetchBytes_cached 4 hc' hl'
  have hm : (usedLine s (myPid s) (s.flk s.cur.fid).ctx ((me s).pc.toNat / 256 * 256) d) = usedLine s (myPid s) (myFlk s).ctx ((me s).pc.toNat / 256 * 256) d := rfl
  unfold fetchInstr
  simp only [ha, decide_false, Bool.false_eq_true, if_false, hf, hm, hlo, Bool.false_and, hp, if_true, hf']
  have hhi : BitVec.ofNat 32 (leNat ((d'.drop (((me s).pc.toNat + 4) % 2 ^ 64 % 256)).take 4)) = parcelAt d' (((me s).pc.toNat + 4) % 2 ^ 64 % 256) := rfl
  rw [hhi]
  unfold longFetched
  cases decodeLong _ _ <;> rfl

/-! ### Decoding the bytes at PC -/

/-- Every instruction that a decoder accepts, paired with what is left, is one that it accepts. -/
theorem ok_of_map_ok {r : Except DecodeError Instr} {rest : List Byte} {x : Instr × List Byte}
    (h : (r.map fun i => (i, rest)) = .ok x) : r = .ok x.1 := by
  cases r with
  | error e => cases h
  | ok i => cases h; rfl

/-- The decoder by the parcels that it reads. -/
theorem decode_eq (al : Bool) (bs : List Byte) : decode al bs =
    if bs.length < 4 then .error .short
    else if al && decide (8 ≤ bs.length) && decide (pCls (parcelAt bs 4) = 3) then
      (decodeLane (BitVec.ofNat 64 (leNat (bs.take 8)))).map fun i => (i, bs.drop 8)
    else if isPrefix (parcelAt bs 0) then
      if bs.length < 8 then .error .short else (decodeLong (parcelAt bs 0) (parcelAt bs 4)).map fun i => (i, bs.drop 8)
    else (decodeShort (parcelAt bs 0)).map fun i => (i, bs.drop 4) := rfl

/-- What the decoder accepts at an 8-byte-aligned address with a doubleword of bytes (R28). -/
theorem decode_aligned {bs rest : List Byte} {i : Instr} (h8 : 8 ≤ bs.length) (h : decode true bs = .ok (i, rest)) :
    if pCls (parcelAt bs 4) = 3 then decodeLane (BitVec.ofNat 64 (leNat (bs.take 8))) = .ok i
    else if isPrefix (parcelAt bs 0) then decodeLong (parcelAt bs 0) (parcelAt bs 4) = .ok i else decodeShort (parcelAt bs 0) = .ok i := by
  rw [decode_eq, if_neg (by omega : ¬ bs.length < 4)] at h
  simp only [h8, decide_true, Bool.true_and, decide_eq_true_eq, if_neg (Nat.not_lt.mpr h8)] at h
  split_ifs at h ⊢ <;> exact ok_of_map_ok h

/-- What it accepts elsewhere. -/
theorem decode_unaligned {bs rest : List Byte} {i : Instr} (h : decode false bs = .ok (i, rest)) :
    4 ≤ bs.length ∧ if isPrefix (parcelAt bs 0) then 8 ≤ bs.length ∧ decodeLong (parcelAt bs 0) (parcelAt bs 4) = .ok i
      else decodeShort (parcelAt bs 0) = .ok i := by
  rw [decode_eq] at h
  split at h
  · cases h
  next h4 =>
    refine ⟨Nat.le_of_not_lt h4, ?_⟩
    simp only [Bool.false_and, Bool.false_eq_true, if_false] at h
    split_ifs at h ⊢ with _ h8
    · exact ⟨Nat.le_of_not_lt h8, ok_of_map_ok h⟩
    · exact ok_of_map_ok h

theorem parcelAt_drop (l : List Byte) (o k : Nat) : parcelAt (l.drop o) k = parcelAt l (o + k) := by
  rw [parcelAt, List.drop_drop]; rfl

/-- A parcel that lies within the first of two strings of bytes. -/
theorem parcelAt_append_left {l m : List Byte} {k : Nat} (h : k + 4 ≤ l.length) : parcelAt (l ++ m) k = parcelAt l k := by
  rw [parcelAt, List.drop_append_of_le_length (by omega), List.take_append_of_le_length (by rw [List.length_drop]; omega)]
  rfl

theorem parcelAt_append_right {l m : List Byte} (k : Nat) : parcelAt (l ++ m) (l.length + k) = parcelAt m k := by
  rw [parcelAt, List.drop_append, List.drop_eq_nil_of_le (by omega), List.nil_append, Nat.add_sub_cancel_left]
  rfl

theorem leNat_append (xs ys : List Byte) : leNat (xs ++ ys) = leNat xs + 256 ^ xs.length * leNat ys := by
  induction xs with
  | nil => simp [leNat]
  | cons x xs ih => rw [List.cons_append, leNat, leNat, ih, List.length_cons, pow_succ]; ring

theorem leNat_lt (xs : List Byte) : leNat xs < 256 ^ xs.length := by
  induction xs with
  | nil => simp [leNat]
  | cons x xs ih => rw [leNat, List.length_cons, pow_succ]; have := x.isLt; omega

/-- A doubleword of bytes is its two parcels. -/
theorem encL_parcelAt {l : List Byte} {o : Nat} (h : o + 8 ≤ l.length) :
    encL (parcelAt l o) (parcelAt l (o + 4)) = BitVec.ofNat 64 (leNat ((l.drop o).take 8)) := by
  have hsplit : (l.drop o).take 8 = (l.drop o).take 4 ++ (l.drop (o + 4)).take 4 := by
    rw [show 8 = 4 + 4 from rfl, List.take_add, List.drop_drop]
  have hlo : ((l.drop o).take 4).length = 4 := by rw [List.length_take, List.length_drop]; omega
  have hhi : ((l.drop (o + 4)).take 4).length = 4 := by rw [List.length_take, List.length_drop]; omega
  have h0 := leNat_lt ((l.drop o).take 4)
  have h1 := leNat_lt ((l.drop (o + 4)).take 4)
  rw [hlo] at h0
  rw [hhi] at h1
  apply BitVec.eq_of_toNat_eq
  rw [hsplit, encL_toNat, leNat_append, hlo, parcelAt, parcelAt, BitVec.toNat_ofNat, BitVec.toNat_ofNat, BitVec.toNat_ofNat,
    Nat.mod_eq_of_lt (by omega), Nat.mod_eq_of_lt (by omega), Nat.mod_eq_of_lt (by omega)]
  omega

/-- The fetch has the answer that the decoder gives, and changes no more than the cached lines' order. -/
def Fetches (s : State) (i : Instr) : Prop :=
  (fetchInstr s).1 = { s with clusters := (fetchInstr s).1.clusters } ∧ Fetched i (fetchInstr s).2

theorem fetches_aligned {s : State} {l rest : List Byte} {i : Instr} (ha : (me s).pc.toNat % 8 = 0)
    (hc : canonical (me s).pc.toNat = true) (hl : LineCached s (myPid s) (myFlk s).ctx ((me s).pc.toNat / 256 * 256) l)
    (hlen : l.length = 256) (h : decode true (l.drop ((me s).pc.toNat % 256)) = .ok (i, rest)) : Fetches s i := by
  have hd := decode_aligned (by rw [List.length_drop]; omega) h
  simp only [parcelAt_drop, Nat.add_zero] at hd
  unfold Fetches
  rw [fetchInstr_aligned ha hc hl]
  refine ⟨rfl, ?_⟩
  split_ifs at hd ⊢ with hcls hp
  · rw [← encL_parcelAt (by omega)] at hd ⊢
    exact fetched_lane ((lCls_encL _ _).trans hcls) hd
  · exact fetched_long hd
  · exact fetched_short hd

theorem fetches_short {s : State} {l : List Byte} {i : Instr} (ha : (me s).pc.toNat % 8 ≠ 0)
    (hc : canonical (me s).pc.toNat = true) (hl : LineCached s (myPid s) (myFlk s).ctx ((me s).pc.toNat / 256 * 256) l)
    (hp : isPrefix (parcelAt l ((me s).pc.toNat % 256)) = false) (h : decodeShort (parcelAt l ((me s).pc.toNat % 256)) = .ok i) :
    Fetches s i := by
  unfold Fetches
  rw [fetchInstr_short ha hc hl hp]
  exact ⟨rfl, fetched_short h⟩

theorem fetches_long {s : State} {l l' : List Byte} {i : Instr} (ha : (me s).pc.toNat % 8 ≠ 0)
    (hc : canonical (me s).pc.toNat = true) (hl : LineCached s (myPid s) (myFlk s).ctx ((me s).pc.toNat / 256 * 256) l)
    (hp : isPrefix (parcelAt l ((me s).pc.toNat % 256)) = true) (hc' : canonical (((me s).pc.toNat + 4) % 2 ^ 64) = true)
    (hl' : LineCached (usedLine s (myPid s) (myFlk s).ctx ((me s).pc.toNat / 256 * 256) l) (myPid s) (myFlk s).ctx
      (((me s).pc.toNat + 4) % 2 ^ 64 / 256 * 256) l')
    (h : decodeLong (parcelAt l ((me s).pc.toNat % 256)) (parcelAt l' (((me s).pc.toNat + 4) % 2 ^ 64 % 256)) = .ok i) :
    Fetches s i := by
  unfold Fetches
  rw [fetchInstr_long ha hc hl hp hc' hl']
  exact ⟨rfl, fetched_long h⟩

theorem fetchDecodes : FetchDecodes := by
  intro s l m rest i
  dsimp only
  intro hc hl hlen hm hd
  show Fetches s i
  have hpc : (me s).pc.toNat < 2 ^ 64 := (me s).pc.isLt
  by_cases ha : (me s).pc.toNat % 8 = 0
  · rw [if_neg (by omega), List.append_nil, ha, decide_eq_true rfl] at hd
    exact fetches_aligned ha hc hl hlen hd
  rw [decide_eq_false ha] at hd
  obtain ⟨h4, hu⟩ := decode_unaligned hd
  have hin : (me s).pc.toNat % 256 + 4 ≤ 256 := by
    split_ifs at h4 with he
    · omega
    · rw [List.length_append, List.length_drop, List.length_nil] at h4
      omega
  have hlo : parcelAt (l.drop ((me s).pc.toNat % 256) ++ if (me s).pc.toNat % 256 = 252 then m else []) 0
      = parcelAt l ((me s).pc.toNat % 256) := by
    rw [parcelAt_append_left (by rw [List.length_drop]; omega), parcelAt_drop]; rfl
  rw [hlo] at hu
  cases hp : isPrefix (parcelAt l ((me s).pc.toNat % 256)) with
  | false => exact fetches_short ha hc hl hp (by simpa [hp] using hu)
  | true =>
    rw [if_pos hp] at hu
    obtain ⟨h8, hu⟩ := hu
    by_cases he : (me s).pc.toNat % 256 = 252
    · have hpre : isPrefix (BitVec.ofNat 32 (leNat (l.drop 252))) = true := by
        rw [he, parcelAt, List.take_of_length_le (by rw [List.length_drop]; omega)] at hp
        exact hp
      obtain ⟨hc', hl', -⟩ := hm he hpre
      have hva : ((me s).pc.toNat + 4) % 2 ^ 64 / 256 * 256 = ((me s).pc.toNat + 4) % 2 ^ 64 := by omega
      have hq : parcelAt (l.drop ((me s).pc.toNat % 256) ++ if (me s).pc.toNat % 256 = 252 then m else []) 4 = parcelAt m 0 := by
        rw [if_pos he]
        have h4 : (l.drop ((me s).pc.toNat % 256)).length = 4 := by rw [List.length_drop]; omega
        have := parcelAt_append_right (l := l.drop ((me s).pc.toNat % 256)) (m := m) 0
        rwa [h4] at this
      refine fetches_long (l' := m) ha hc hl hp hc' ?_ ?_
      · rw [hva]
        exact lineCached_usedLine (by omega) hl'
      · rw [show ((me s).pc.toNat + 4) % 2 ^ 64 % 256 = 0 by omega, ← hq]
        exact hu
    · rw [if_neg he, List.append_nil] at h8 hu
      rw [List.length_drop] at h8
      have hmod : ((me s).pc.toNat + 4) % 2 ^ 64 = (me s).pc.toNat + 4 := by omega
      refine fetches_long (l' := l) ha hc hl hp (canonical_in_line (by omega) hc) ?_ ?_
      · rw [show ((me s).pc.toNat + 4) % 2 ^ 64 / 256 * 256 = (me s).pc.toNat / 256 * 256 by omega]
        exact lineCached_usedLine_self s _ _ _ l
      · rw [parcelAt_drop] at hu
        rw [show ((me s).pc.toNat + 4) % 2 ^ 64 % 256 = (me s).pc.toNat % 256 + 4 by omega]
        exact hu

/-! ### The turn that is due -/

/-- The state in which a turn is taken: the head of the agenda is gone and its time has passed. -/
def turnState (s : State) (dt : Nat) (rest : List Turn) : State :=
  { noteReady s with agenda := rest, tick := s.tick + 1, now := if s.pkg.powered then s.now + dt else s.now }

theorem splitTurn_nothingDue {s : State} {t : Turn} (rest : List Turn) (h : NothingDue s t.elapse) : splitTurn s t rest = (t, rest) := by
  unfold splitTurn
  rcases h with h | h | h
  · rw [if_pos (Or.inl h)]
  · rw [if_pos (Or.inr (by rw [h]; rfl))]
  · split
    · rfl
    · split
      · rfl
      · next hf => rw [if_pos (h _ hf)]

theorem nextTurn_nothingDue {s : State} {dt : Nat} {a : Act} {rest : List Turn} (hs : s.agenda = ⟨dt, a⟩ :: rest)
    (h : NothingDue (noteReady s) dt) : nextTurn s = (⟨dt, a⟩, turnState s dt rest) := by
  have hn : (noteReady s).agenda = ⟨dt, a⟩ :: rest := hs
  unfold nextTurn
  simp only [hn, splitTurn_nothingDue (t := ⟨dt, a⟩) rest h]
  rfl

/-- What is due at an exact moment comes before a turn whose time would pass it. -/
theorem nextTurn_exact {s : State} {dt d : Nat} {a : Act} {x : Exact} {rest : List Turn} (hs : s.agenda = ⟨dt, a⟩ :: rest)
    (h0 : dt ≠ 0) (hp : s.pkg.powered = true) (hf : firstDue (noteReady s) = some (d, x)) (hd : d ≤ s.now + dt) :
    nextTurn s = (⟨d - s.now, .exact x⟩, turnState s (d - s.now) (⟨dt - (d - s.now), a⟩ :: rest)) := by
  have hn : (noteReady s).agenda = ⟨dt, a⟩ :: rest := hs
  have hp' : (noteReady s).pkg.powered = true := hp
  have hnow : ¬ (noteReady s).now + dt < d := Nat.not_lt.mpr hd
  unfold nextTurn
  simp only [hn, splitTurn, h0, hp', hf, hnow, Bool.not_true, Bool.false_eq_true, or_self, if_false]
  unfold turnState
  rw [if_pos hp, if_pos trivial]
  rfl

/-! ### The turn of a thread -/

theorem stopDue_none {s : State} {u : Tid} (hq : (s.thr u).stopNext = none) (hr : (s.thr u).stopReq = false)
    (hb : ∀ k, k < 4 → (s.ctx (s.ctxOf u)).bps.getD k 0 ≠ (s.thr u).pc.toNat ∨ (s.thr u).pc = 0) : stopDue s u = (s, none) := by
  have hbp : breakAt (s.ctx (s.ctxOf u)) (s.thr u).pc.toNat = none := by
    rw [breakAt, List.find?_eq_none]
    intro k hk hc
    simp only [Bool.and_eq_true, decide_eq_true_eq] at hc
    rcases hb k (List.mem_range.mp hk) with h | h
    · exact h hc.2
    · rw [h] at hc
      exact hc.1 hc.2
  unfold stopDue
  simp only [hq, hr, hbp, Option.isSome_none, Bool.or_self, Bool.not_false, Bool.or_true, if_true, ite_self]

section
variable {b s v : State} {u : Tid} {i : Instr}

/-- A thread with no stop, pre-emption, trap or host access before it comes to the instruction at its PC (R320). -/
theorem threadTurn_fetched (hs : s = { b with cur := u }) (hc : canRun s u = true) (hh : (me s).hostOp = none)
    (hp : (myFlk s).preReq = false) (hst : stopDue s u = (s, none))
    (hheld : (me s).held = [] ∨ (me s).intrap = true ∨ (me s).wait.isSome = true) (hf : fetchInstr s = (v, .ok i)) :
    threadTurn b u = if v.held || scoreboardHolds (me v) i || ((me v).wait.isNone && !mayIssue v u) then .idle v
      else .word (modMe v fun x => { x with resumed := false, tried := some v.now }) i := by
  have hcb : canRun b u = true := by subst hs; exact hc
  have hn : (!(me s).held.isEmpty && !(me s).intrap && (me s).atBoundary) = false := by
    rcases hheld with h | h | h
    · simp [h]
    · simp [h]
    · rw [Thread.atBoundary, ← Option.not_isSome, h]
      simp
  unfold threadTurn
  simp only [hcb, ← hs, hh, hp, hst, hn, hf, Bool.not_true, Bool.false_eq_true, if_false, Option.isSome_none]

/-- It executes that instruction where it may issue. -/
theorem word_of_mayIssue
    (h : threadTurn b u = if v.held || scoreboardHolds (me v) i || ((me v).wait.isNone && !mayIssue v u) then .idle v
      else .word (modMe v fun x => { x with resumed := false, tried := some v.now }) i)
    (hv : v.held = false) (hsb : scoreboardHolds (me v) i = false) (hmay : (me v).wait.isSome = true ∨ mayIssue v u = true) :
    threadTurn b u = .word (modMe v fun x => { x with resumed := false, tried := some v.now }) i := by
  have hgo : ((me v).wait.isNone && !mayIssue v u) = false := by
    rw [Bool.and_eq_false_iff, Bool.not_eq_false', ← Option.not_isSome, Bool.not_eq_false']
    exact hmay
  rw [h, hv, hsb, hgo, Bool.or_self, Bool.or_self, if_neg Bool.false_ne_true]

/-- An outstanding register keeps it back. -/
theorem idle_of_scoreboardHolds
    (h : threadTurn b u = if v.held || scoreboardHolds (me v) i || ((me v).wait.isNone && !mayIssue v u) then .idle v
      else .word (modMe v fun x => { x with resumed := false, tried := some v.now }) i)
    (hsb : scoreboardHolds (me v) i = true) : threadTurn b u = .idle v := by
  rw [h, hsb, Bool.or_true, Bool.true_or, if_pos rfl]

end

/-- A turn of a thread at which nothing executes. -/
theorem step_threadIdle {s b t : State} {dt : Nat} {u : Tid} (hn : nextTurn s = (⟨dt, .thread u⟩, b)) (ht : threadTurn b u = .idle t) :
    step s = .next (endTurn b t) := by
  have hd : due s = .idle t := by simp only [due, hn, ht]
  simp only [step, hd, hn]

/-- A turn at which a thread's instruction executes. -/
theorem step_threadWord {s b t : State} {dt : Nat} {u : Tid} {i : Instr} (hn : nextTurn s = (⟨dt, .thread u⟩, b))
    (ht : threadTurn b u = .word t i) : step s = match exec i t with
      | .next v => .next (endTurn t (afterAttempt i t v))
      | .fault f => .fault f
      | .refused r => .refused r := by
  have hd : due s = .word t i := by simp only [due, hn, ht]
  cases h : exec i t <;> simp only [step, hd, h]

theorem turnExecutes : TurnExecutes := by
  intro s dt u rest i hs hd
  dsimp only
  intro hc hh hp hq hr hb hheld hf hv
  have hturn := threadTurn_fetched (b := turnState s dt rest) (u := u) rfl hc hh hp (stopDue_none hq hr hb) hheld (Prod.ext rfl hf)
  have hnext := nextTurn_nothingDue hs hd
  exact ⟨fun hsb hmay => step_threadWord hnext (word_of_mayIssue hturn hv hsb hmay),
    fun hsb => step_threadIdle hnext (idle_of_scoreboardHolds hturn hsb)⟩

/-! ### Events and pipes -/

/-- A run whose next word is ready to issue (R17, R39). -/
theorem pipeTurn_ready {s : State} {pid k : Nat} {p : PipeRun} {w : EWord} (hk : (s.clu pid).pipes.find k = some p)
    (hw : p.run.words[p.pos]? = some w) (hr : p.replay = false) (hn : p.ready ≤ s.now) (ht : (s.die (pid / 64)).tripped = false)
    (hc : (s.ctx (s.ctxOf p.tid)).check = false) :
    pipeTurn s pid k = .word (focusWord s pid k p w 0) w.op w.x := by
  have hf : focusRun s pid k p = some (focusWord s pid k p w 0) := by
    simp only [focusRun, hw, hr, Option.map_some, Bool.false_eq_true, if_false]
  have hs : skipped s p pid = false := by rw [skipped, hr, Bool.false_and]
  unfold pipeTurn
  simp only [hk, ht, hf, hs, hc, Nat.not_lt.mpr hn, Bool.false_eq_true, if_false, Bool.false_and]
  rfl

theorem step_event {s b : State} {dt : Nat} {i : Instr} (hn : nextTurn s = (⟨dt, .event i⟩, b)) (hi : isEvent i = true) :
    step s = Ends b (exec i b) := by
  have hd : due s = .own b i := by simp only [due, hn, hi, if_true]
  cases h : exec i b <;> simp only [step, hd, hn, h, Ends]

theorem step_exact {s b : State} {dt : Nat} {x : Exact} (hn : nextTurn s = (⟨dt, .exact x⟩, b)) : step s = Ends b (x.run b) := by
  have hd : due s = .exact b x := by simp only [due, hn]
  cases h : x.run b <;> simp only [step, hd, hn, h, Ends]

theorem step_pipe {s b t : State} {dt pid k op : Nat} {x : LaneWord} {i : Instr} (hn : nextTurn s = (⟨dt, .issue pid k⟩, b))
    (ht : pipeTurn b pid k = .word t op x) (hi : decodeLane t.lane.word.w = .ok i) :
    step s = Ends b (match exec i t with
      | .next u => .next (giveBack u)
      | o => o) := by
  have hd : due s = .lane t i := by simp only [due, hn, ht, hi]
  cases h : exec i t <;> simp only [step, hd, hn, h, Ends]

theorem eventsAndPipes : EventsAndPipes := by
  intro s dt rest
  dsimp only
  refine ⟨fun i hs hd hi => step_event (nextTurn_nothingDue hs hd) hi, fun act d x hs h0 hp hf hd => ?_,
    fun pid k p w i hs hd hk hw hi _ hr hn ht hc => ?_⟩
  · rw [step_exact (nextTurn_exact hs h0 hp hf hd), turnState, if_pos hp]
  · exact step_pipe (nextTurn_nothingDue hs hd) (pipeTurn_ready hk hw hr hn ht hc) hi

/-- Settles O8: the cached lines are the bytes that the decoder takes apart, and each kind of turn is one path through the step. -/
theorem stepRunsDecoded : Obligations.StepRunsDecoded := ⟨fetchDecodes, turnExecutes, eventsAndPipes⟩

end Sys2Proof.Turns

end

section
/-! PROOFS. Runs: the trailer that closes one, LWAIT and LARR in it, its end on its group, and the arbiter that gives it a pipe. -/

namespace Sys2Proof.Runs
open Sys2Proof Sys2Proof.Machine Sys2Proof.Claims Sys2Proof.Laws Sys2Proof.Lanes

/-! ### Streams of a thread -/

theorem thr_modStr_self (s : State) (t : Tid) (n : Nat) (f : Stream → Stream) :
    (modStr s t n f).thr t = { s.thr t with streams := (s.thr t).streams.set n (f (strOf s t n)) } := State.thr_modThr_self ..

theorem thr_modStr_ne (s : State) {t u : Tid} (n : Nat) (f : Stream → Stream) (h : u ≠ t) : (modStr s t n f).thr u = s.thr u :=
  State.thr_modThr_ne _ _ h

theorem strOf_modStr (s : State) (t : Tid) (n : Nat) (f : Stream → Stream) (k : Nat) :
    strOf (modStr s t n f) t k = if k = n then f (strOf s t n) else strOf s t k := by
  rw [strOf, thr_modStr_self, Table.get_set]
  rfl

theorem strOf_curStream {s : State} {n : Nat} {st : Stream} (h : curStream (me s) = some (n, st)) : strOf s s.cur n = st := by
  obtain ⟨k, -, hk⟩ := Option.bind_eq_some_iff.mp h
  obtain ⟨st', hst, heq⟩ := Option.map_eq_some_iff.mp hk
  cases heq
  rw [strOf, Table.get_eq_find]
  exact congrArg (Option.getD · Stream.unbound) hst

/-! ### The trailer -/

theorem trap_eq (s : State) (cause : Cause) (tval : Word64) : trap s cause tval = .next (Trapped s cause tval (me s).pc) := by
  unfold trap Trapped
  split
  · next h => rw [takeTrap_halts s s.cur cause tval (me s).pc h]
  · next h =>
    rw [not_or, Bool.not_eq_true] at h
    rw [takeTrap_enters s s.cur cause tval (me s).pc h.1 h.2, Nat.mul_comm]
    rfl

/-- No check refuses the form of a trailer (R40, R55). -/
theorem formCheck_trailer (r : Role) {x : LaneWord} (h : x.ok 0x380 = true) : formCheck r (encLane 0x380 x) = none := by
  have hop : (lOp (encLane 0x380 x)).toNat = 0x380 := by rw [encLane_op]; rfl
  unfold formCheck
  simp only [hop, encLane_fields, h]
  rfl

theorem trailerNext_trailer (s : State) (x : LaneWord) : trailerNext s (encLane 0x380 x) = (s, none) := by
  unfold trailerNext
  rw [encLane_op, if_pos (by simp)]

/-- The state behind a trailer's emission. -/
def afterTrailer (s : State) (n : Nat) (w : BitVec 64) : State := advance (record (closeRun s s.cur n w false) w) 8

theorem afterTrailer_thr_ne (s : State) (n : Nat) (w : BitVec 64) {u : Tid} (h : u ≠ s.cur) : (afterTrailer s n w).thr u = s.thr u := by
  unfold afterTrailer advance record closeRun modMe modStr
  simp only [State.modThr_cur, State.thr_modThr_ne _ _ h]

theorem afterTrailer_me (s : State) (n : Nat) (w : BitVec 64) : me (afterTrailer s n w) = { me s with
    pc := (me s).pc + 8
    streams := (me (afterTrailer s n w)).streams
    capture := (me s).capture.map fun c => (c.1, c.2 ++ [w]) } := by
  unfold me afterTrailer advance record closeRun modMe modStr
  simp only [State.modThr_cur, State.thr_modThr_self]
  rfl

theorem strOf_afterTrailer (s : State) (n : Nat) (w : BitVec 64) (k : Nat) :
    strOf (afterTrailer s n w) s.cur k = strOf (closeRun s s.cur n w false) s.cur k := by
  unfold strOf afterTrailer advance record closeRun modMe modStr
  simp only [State.modThr_cur, State.thr_modThr_self]

theorem execTrl_checked {x : LaneWord} {s : State} (hx : x.ok 0x380 = true) (he : emitHeld s = false) :
    execTrl x s = match runCheck ((curStream (me s)).map (·.2)) 0x380, curStream (me s) with
      | some c, _ => trap s c (encLane 0x380 x)
      | none, none => trap s .stream (encLane 0x380 x)
      | none, some (n, _) => .next (afterTrailer s n (encLane 0x380 x)) := by
  have hop : (lOp (encLane 0x380 x)).toNat = 0x380 := by rw [encLane_op]; rfl
  unfold execTrl execLaneWordEmit
  simp only [he, Bool.false_eq_true, if_false, formCheck_trailer _ hx, hop, trailerNext_trailer, if_true]
  cases runCheck ((curStream (me s)).map (·.2)) 0x380 <;> cases curStream (me s) <;> rfl

theorem runCheck_trailer (st : Stream) : runCheck (some st) 0x380 = if st.openRun = [] then some .run else none := by
  simp only [runCheck, if_true, List.length_eq_zero_iff]

theorem trailers : Trailers := by
  intro x s hx he
  dsimp only
  show (curStream (me s) = none → execTrl x s = _) ∧ ∀ n st, curStream (me s) = some (n, st) →
    (st.openRun = [] → execTrl x s = _) ∧ (st.openRun ≠ [] → Goes (execTrl x s) _)
  rw [execTrl_checked hx he]
  refine ⟨fun hn => ?_, fun n st hs => ?_⟩
  · simp only [hn, Option.map_none, runCheck, trap_eq]
  · simp only [hs, Option.map_some, runCheck_trailer]
    refine ⟨fun ho => ?_, fun ho => ?_⟩
    · simp only [ho, if_true, trap_eq]
    · simp only [ho, if_false]
      refine ⟨_, rfl, ⟨rfl, fun v hv => afterTrailer_thr_ne s n _ hv⟩, fun _ => rfl, afterTrailer_me s n _, ?_, fun k hk => ?_⟩
      · rw [strOf_afterTrailer, closeRun, strOf_modStr, if_pos rfl, strOf_curStream hs]
        rfl
      · rw [strOf_afterTrailer, closeRun, strOf_modStr, if_neg hk]

/-! ### Handles of LWAIT and LARR -/

theorem laneHandle_eq (s : State) : laneHandle s = s.lane.word.ua.toNat % 2 ^ 32 :=
  Nat.mod_mod_of_dvd _ (Nat.pow_dvd_pow 2 (by decide))

theorem hKind_eq (h : Nat) : hKind h = h / 2 ^ 6 % 4 := by
  show (h >>> 6) % 4 = _
  rw [Nat.shiftRight_eq_div_pow]

theorem hClu_eq (h : Nat) : hClu h = h / 2 ^ 16 % 16 := by
  show (h >>> 16) % 16 = _
  rw [Nat.shiftRight_eq_div_pow]

theorem hSlot_eq (h : Nat) : hSlot h = h / 2 ^ 8 % 2 ^ 8 := by
  show (h >>> 8) % 2 ^ 8 = _
  rw [Nat.shiftRight_eq_div_pow]

theorem lwaitPhase_eq (s : State) : lo64 s.lane.word.ub % 65536 = s.lane.word.ub.toNat % 65536 :=
  Nat.mod_mod_of_dvd _ (by decide)

/-! ### Boundary traps -/

theorem signal_lane (s : State) (n : Nat) : (signal s n).lane = s.lane := by
  unfold signal
  split <;> rfl

theorem ctxEvent_lane (s : State) (c b : Nat) : (ctxEvent s c b).lane = s.lane := signal_lane ..

theorem faultRecord_lane (s : State) (ctx pid : Nat) (bs : List Byte) : (faultRecord s ctx pid bs).1.lane = s.lane :=
  (faultRecord_frame s ctx pid bs).lane

theorem haltThread_lane (s : State) (t : Tid) (cause : Cause) (tval resume : Word64) : (haltThread s t cause tval resume).lane = s.lane := by
  unfold haltThread
  simp only [ctxEvent_lane, State.modFlk_lane, State.modThr_lane, faultRecord_lane]

theorem raiseTrap_lane (s : State) (t : Tid) (cause : Cause) (tval : Word64) (after : Nat) : (raiseTrap s t cause tval after).lane = s.lane := by
  unfold raiseTrap
  dsimp only
  split
  · split <;> rfl
  · exact haltThread_lane ..
  · rfl

/-! ### LWAIT (R376) -/

/-- LWAIT goes on in a state (R376). -/
def waitPassed (s : State) (x : LaneWord) (u : State) : Out :=
  .next (issued (setCissue u { cissueOf s with slots := (cissueOf s).slots ||| 2 ^ s.lane.slot, done := true }) x (activeMask s x) true)

/-- It acquires as of a moment, or is held. -/
def waitAcquires (s : State) (x : LaneWord) (u : State) (t : Nat) : Out :=
  if acquireLane u then waitPassed s x (l1Invalidate u s.lane.pid t) else holdWord u

theorem execLwait_eq (x : LaneWord) (s : State) : execLwait x s =
    if (cissueOf s).done then waitPassed s x s
    else match (cissueOf s).acq with
      | some t => waitAcquires s x s t
      | none =>
        if !handleLive s then waitPassed s x (raiseGen s)
        else if (barAt s s.lane.tid.fid (laneSlotKey s)).phase = lo64 s.lane.word.ub % 65536 then holdWord s
        else waitAcquires s x (setCissue s { cissueOf s with acq := some (barAt s s.lane.tid.fid (laneSlotKey s)).t })
          (barAt s s.lane.tid.fid (laneSlotKey s)).t := by
  have hgen : (raiseGen s).lane = s.lane := raiseTrap_lane ..
  unfold execLwait
  dsimp only
  rw [hgen]
  rfl

section
variable {x : LaneWord} {s : State}

theorem execLwait_done (hd : (cissueOf s).done = true) : execLwait x s = waitPassed s x s := by
  rw [execLwait_eq, if_pos hd]

theorem execLwait_again (hd : (cissueOf s).done = false) {t : Nat} (ha : (cissueOf s).acq = some t) :
    execLwait x s = waitAcquires s x s t := by
  rw [execLwait_eq, hd, if_neg Bool.false_ne_true, ha]

theorem execLwait_dead (hd : (cissueOf s).done = false) (ha : (cissueOf s).acq = none) (hl : handleLive s = false) :
    execLwait x s = waitPassed s x (raiseGen s) := by
  rw [execLwait_eq, hd, if_neg Bool.false_ne_true, ha, hl]
  rfl

theorem execLwait_waits (hd : (cissueOf s).done = false) (ha : (cissueOf s).acq = none) (hl : handleLive s = true)
    (hp : (barAt s s.lane.tid.fid (laneSlotKey s)).phase = lo64 s.lane.word.ub % 65536) : execLwait x s = holdWord s := by
  rw [execLwait_eq, hd, if_neg Bool.false_ne_true, ha, hl]
  exact if_pos hp

theorem execLwait_passes (hd : (cissueOf s).done = false) (ha : (cissueOf s).acq = none) (hl : handleLive s = true)
    (hp : (barAt s s.lane.tid.fid (laneSlotKey s)).phase ≠ lo64 s.lane.word.ub % 65536) :
    execLwait x s = waitAcquires s x (setCissue s { cissueOf s with acq := some (barAt s s.lane.tid.fid (laneSlotKey s)).t })
      (barAt s s.lane.tid.fid (laneSlotKey s)).t := by
  rw [execLwait_eq, hd, if_neg Bool.false_ne_true, ha, hl]
  exact if_neg hp

end

theorem waitAcquires_ends (s u : State) (x : LaneWord) (t : Nat) :
    (acquireLane u = false → waitAcquires s x u t = holdWord u)
    ∧ (acquireLane u = true → waitAcquires s x u t = waitPassed s x (l1Invalidate u s.lane.pid t)) := by
  unfold waitAcquires
  refine ⟨fun h => ?_, fun h => ?_⟩
  · rw [h, if_neg Bool.false_ne_true]
  · rw [h, if_pos rfl]

/-! ### LARR (R377) -/

/-- A lane-counted LARR arrives, or owes its arrival to an LFENCE that has not been made (log 126). -/
def arriveLanes (s : State) (act : Nat) : State :=
  if !handleLive s then raiseGen s
  else if fenceOpen s s.lane.slot s.lane.word.seq then modStr s s.lane.tid s.lane.str fun st =>
    { st with owedArr := st.owedArr ++ [(laneMember s, s.lane.slot, s.lane.word.seq, laneHandle s, act)] }
  else addLanes s s.lane.tid (laneHandle s) (laneMember s) s.lane.slot act

/-- An arrival-counted LARR's action on its member. -/
def arriveMember (s : State) (c : CIssue) : State × Bool :=
  if !handleLive s then (raiseGen s, true)
  else if !c.active then (s, true)
  else match addArrivals s s.lane.tid.fid (laneSlotKey s) 1 with
    | some s => (s, true)
    | none => (raiseTrap s s.lane.tid .barover (BitVec.ofNat 64 (laneHandle s)) 0, true)

theorem execLarr_lanes {x : LaneWord} {s : State} (h : hKind (laneHandle s) = 1) :
    execLarr x s = .next (issued (arriveLanes s (activeMask s x)) x (activeMask s x) true) := by
  unfold execLarr
  rw [if_pos h]
  rfl

theorem execLarr_member {x : LaneWord} {s : State} (h : hKind (laneHandle s) ≠ 1) :
    execLarr x s = onceWord x (fun _ c => arriveMember s c) s := by
  unfold execLarr
  rw [if_neg h]
  unfold onceWord arriveMember
  rfl

theorem markActed_lane (s : State) : (markActed s).lane = s.lane := by
  unfold markActed
  dsimp only
  refine (foldl_keep State.lane _ ?_ _ _).trans rfl
  exact fun _ _ => rfl

/-- A word that acts once per cluster, outside a replay (R483). -/
theorem onceWord_eq (x : LaneWord) {f : CIssue → State × Bool} {s : State} (hf : ∀ c, (f c).1.lane = s.lane) (hr : s.lane.replay = false) :
    onceWord x (fun _ c => f c) s =
      if !(cissueNext s (activeMask s x)).done then .next (issued (setCissue s (cissueNext s (activeMask s x))) x (activeMask s x) false)
      else if (f (cissueNext s (activeMask s x))).2 then .next (issued (dropCissue (if (cissueNext s (activeMask s x)).active
        then markActed (f (cissueNext s (activeMask s x))).1 else (f (cissueNext s (activeMask s x))).1)) x (activeMask s x)
          (cissueNext s (activeMask s x)).active)
      else holdWord (f (cissueNext s (activeMask s x))).1 := by
  unfold onceWord
  simp only [hr, Bool.false_eq_true, if_false]
  generalize activeMask s x = act
  generalize cissueNext s act = c
  have hk : (if c.active then markActed (f c).1 else (f c).1).lane.replay = false := by
    rw [← hr]
    split
    · rw [markActed_lane, hf]
    · rw [hf]
  rcases hfc : f c with ⟨u, b⟩
  rw [hfc] at hk
  cases b
  · rfl
  · dsimp only at hk ⊢
    rw [hk]
    rfl

theorem onceWord_laneOnce (x : LaneWord) (f : CIssue → State × Bool) (s : State) (hf : ∀ c, (f c).1.lane = s.lane) :
    LaneOnce s (onceWord x (fun _ c => f c) s) x f := by
  intro hr
  rw [onceWord_eq x hf hr]
  refine ⟨fun hd => ?_, fun hd hb => ?_, fun hd hb => ?_⟩
  · rw [hd]; rfl
  · rw [hd, hb]; rfl
  · rw [hd, hb]; rfl

/-! ### Arrivals -/

theorem barEvent_lane (s : State) (fid : Nat) (k : Nat × Nat) : (barEvent s fid k).lane = s.lane := by
  unfold barEvent
  dsimp only
  split <;> rfl

theorem addArrivals_lane {s u : State} {fid n : Nat} {k : Nat × Nat} (h : addArrivals s fid k n = some u) : u.lane = s.lane := by
  unfold addArrivals at h
  dsimp only at h
  split at h
  · cases h
  · cases h
    exact barEvent_lane ..

theorem arriveMember_lane (s : State) (c : CIssue) : (arriveMember s c).1.lane = s.lane := by
  unfold arriveMember
  split
  · exact raiseTrap_lane ..
  · split
    · rfl
    · split
      · next h => exact addArrivals_lane h
      · exact raiseTrap_lane ..

/-- A second arrival of a lane, or one outside SCOPE, is ignored; the second gives BAROVER (R368, R377). -/
theorem addLanes_eq (s : State) (t : Tid) (h m slot lanes : Nat) : addLanes s t h m slot lanes =
    if lanes = 0 ∨ (∀ e ∈ (barAt s t.fid (hClu h, hSlot h)).scope, e.1 = m → e.2.testBit slot = false) then s
    else
      let b := barAt s t.fid (hClu h, hSlot h)
      let old := b.arrived.get (m, slot) 0
      let u := if old ||| lanes = old then s
        else barEvent (setBar s t.fid (hClu h, hSlot h) { b with arrived := b.arrived.set (m, slot) (old ||| lanes) }) t.fid (hClu h, hSlot h)
      if old &&& lanes = 0 then u else raiseTrap u t .barover (BitVec.ofNat 64 h) 0 := by
  unfold addLanes
  dsimp only
  congr 1
  rw [Bool.or_eq_true, Bool.not_eq_true', decide_eq_true_eq, List.any_eq_false, or_comm]
  simp only [Bool.and_eq_true, decide_eq_true_eq, not_and, Bool.not_eq_true]

theorem and_eq_of_or_eq {a b : Nat} (h : a ||| b = a) : a &&& b = b := by
  apply Nat.eq_of_testBit_eq
  intro k
  have hk : (a ||| b).testBit k = a.testBit k := by rw [h]
  rw [Nat.testBit_or] at hk
  rw [Nat.testBit_and]
  cases ha : a.testBit k <;> cases hb : b.testBit k <;> simp_all

theorem arriveLanes_dead {s : State} (h : handleLive s = false) (act : Nat) : arriveLanes s act = raiseGen s := by
  rw [arriveLanes, h]
  rfl

theorem arriveLanes_owed {s : State} (h : handleLive s = true) (hf : fenceOpen s s.lane.slot s.lane.word.seq = true) (act : Nat) :
    arriveLanes s act = modStr s s.lane.tid s.lane.str fun st =>
      { st with owedArr := st.owedArr ++ [(laneMember s, s.lane.slot, s.lane.word.seq, laneHandle s, act)] } := by
  rw [arriveLanes, h, hf]
  rfl

theorem arriveLanes_now {s : State} (h : handleLive s = true) (hf : fenceOpen s s.lane.slot s.lane.word.seq = false) (act : Nat) :
    arriveLanes s act = addLanes s s.lane.tid (laneHandle s) (laneMember s) s.lane.slot act := by
  rw [arriveLanes, h, hf]
  rfl

theorem arriveMember_dead {s : State} (h : handleLive s = false) (c : CIssue) : arriveMember s c = (raiseGen s, true) := by
  rw [arriveMember, h]
  rfl

theorem arriveMember_inactive {s : State} (h : handleLive s = true) {c : CIssue} (hc : c.active = false) : arriveMember s c = (s, true) := by
  rw [arriveMember, h, hc]
  rfl

theorem arriveMember_active {s : State} (h : handleLive s = true) {c : CIssue} (hc : c.active = true) : arriveMember s c =
    match addArrivals s s.lane.tid.fid (laneSlotKey s) 1 with
    | some u => (u, true)
    | none => (raiseTrap s s.lane.tid .barover (BitVec.ofNat 64 (laneHandle s)) 0, true) := by
  rw [arriveMember, h, hc]
  rfl

/-- The lanes that arrive are an event, and those that had arrived are BAROVER. -/
theorem addLanes_scope {s : State} {t : Tid} {h m slot lanes : Nat} (hl : lanes ≠ 0)
    (hs : ∃ e ∈ (barAt s t.fid (hClu h, hSlot h)).scope, e.1 = m ∧ e.2.testBit slot = true) :
    let b := barAt s t.fid (hClu h, hSlot h)
    let old := b.arrived.get (m, slot) 0
    let trap (u : State) : State := raiseTrap u t .barover (BitVec.ofNat 64 h) 0
    let event : State :=
      barEvent (setBar s t.fid (hClu h, hSlot h) { b with arrived := b.arrived.set (m, slot) (old ||| lanes) }) t.fid (hClu h, hSlot h)
    (old ||| lanes = old → addLanes s t h m slot lanes = trap s)
    ∧ (old ||| lanes ≠ old → addLanes s t h m slot lanes = if old &&& lanes = 0 then event else trap event) := by
  intro b old trap event
  obtain ⟨e, he, hm, hb⟩ := hs
  have hno : ¬(lanes = 0 ∨ ∀ e ∈ (barAt s t.fid (hClu h, hSlot h)).scope, e.1 = m → e.2.testBit slot = false) := by
    rintro (h0 | hall)
    · exact hl h0
    · rw [hall e he hm] at hb
      cases hb
  rw [addLanes_eq, if_neg hno]
  refine ⟨fun hold => ?_, fun hold => ?_⟩
  · have hand : old &&& lanes ≠ 0 := by rw [and_eq_of_or_eq hold]; exact hl
    dsimp only
    rw [if_neg hand, if_pos hold]
  · dsimp only
    rw [if_neg hold]

theorem laneBarriers : LaneBarriers := by
  intro x s
  dsimp only
  simp only [← laneHandle_eq, ← lwaitPhase_eq, ← hKind_eq, ← hClu_eq, ← hSlot_eq]
  refine ⟨fun hd => execLwait_done hd, fun t hd ha => ?_, fun hd ha => ⟨fun hl => execLwait_dead hd ha hl,
      fun hl hb => execLwait_waits hd ha hl hb, fun hl hb => ?_⟩,
    fun hk hl hf => ?_, fun hk hl hf => ?_, fun hk hl => ?_, fun hk => ?_, fun t m slot lanes => ⟨fun h => ?_, fun hl hs => ?_⟩⟩
  · have hw : exec (.lwait x) s = _ := execLwait_again hd ha
    rw [hw]
    exact waitAcquires_ends s s x t
  · have hw : exec (.lwait x) s = _ := execLwait_passes hd ha hl hb
    rw [hw]
    exact waitAcquires_ends s _ x _
  · have he : exec (.larr x) s = _ := execLarr_lanes hk
    refine ⟨_, he.trans (by rw [arriveLanes_owed hl hf]), rfl, fun k hne => thr_modStr_ne s _ _ hne, _, rfl, thr_modStr_self ..⟩
  · have he : exec (.larr x) s = _ := execLarr_lanes hk
    rw [he, arriveLanes_now hl hf]
  · have he : exec (.larr x) s = _ := execLarr_lanes hk
    rw [he, arriveLanes_dead hl]
    rfl
  · have he : exec (.larr x) s = _ := execLarr_member hk
    refine ⟨arriveMember s, he ▸ onceWord_laneOnce x _ s (arriveMember_lane s), fun d =>
      ⟨fun hl => arriveMember_dead hl d, fun hc hl => arriveMember_inactive hl hc, fun hc hl => ⟨fun u hu => ?_, fun hu => ?_⟩⟩⟩
    · rw [arriveMember_active hl hc, laneSlotKey, hu]
    · rw [arriveMember_active hl hc, laneSlotKey, hu]
  · rw [addLanes_eq, if_pos h]
  · exact addLanes_scope hl hs

/-! ### The end of a run (R17, R424, R426) -/

/-- A trap that no held one of its cause takes in is held behind the others (R423). -/
theorem raiseTrap_held {s : State} {t : Tid} {cause : Cause} (hr : (s.thr t).status = .running) (hh : ∀ x ∈ (s.thr t).held, x.cause ≠ cause)
    (tval : Word64) (after : Nat) :
    raiseTrap s t cause tval after = s.modThr t fun x => { x with held := x.held ++ [⟨cause, tval, after⟩] } := by
  have hany : ((s.thr t).held.any fun h => decide (h.cause = cause)) = false := by
    rw [List.any_eq_false]
    exact fun x hx => by rw [decide_eq_true_eq]; exact hh x hx
  unfold raiseTrap
  simp only [hr, hany, Bool.false_eq_true, if_false]

/-- The pipe is free, and the group keeps the writes that are still in flight (R17, R198). -/
def pipeFreed (s : State) (p : PipeRun) : State :=
  modLaneGrp (s.modClu s.lane.pid fun c => { c with pipes := c.pipes.erase s.lane.pipe }) fun g =>
    { g with fixEnd := max g.fixEnd (p.fix.foldl (fun acc f => max acc f.lands) 0), tail := p.fix.filter fun f => decide (s.now < f.lands) }

/-- The stream has finished the run on the group. -/
def runCounted (s : State) (p : PipeRun) : State :=
  modStr s p.tid p.str fun st => { st with prog := st.prog.set (laneMember s, p.slot) (p.run.idx + 1) }

theorem endRun_replay {s : State} {p : PipeRun} (h : p.replay = true) : endRun s p = endReplay (pipeFreed s p) p := by
  unfold endRun
  rw [h]
  rfl

theorem endRun_first {s : State} {p : PipeRun} (h : p.replay = false) : endRun s p =
    modStr (laneFaultDue (applyMasks (runCounted (pipeFreed s p) p) p.tid p.str (laneMember s, p.slot)) p.tid p.str p.run.idx)
      p.tid p.str pruneRuns := by
  unfold endRun
  rw [h]
  rfl

theorem tryEnd_eq {s : State} {p : PipeRun} (h : laneRun s = some p) :
    tryEnd s = if p.run.words.length ≤ p.pos ∧ hostOwed s = false then endRun s p else s := by
  unfold tryEnd
  rw [h]
  simp only [Bool.and_eq_true, decide_eq_true_eq, Bool.not_eq_true']

/-- No MASK.WR that the group has reached waits. -/
theorem applyMasks_none {s : State} {t : Tid} {n : Nat} {p : Nat × Nat}
    (h : ∀ m ∈ (strOf s t n).masks, ¬(m.2.1 = p.1 * 16 + p.2 ∧ m.1 ≤ (strOf s t n).prog.get p 0)) : applyMasks s t n p = s := by
  have hany : ((strOf s t n).masks.any fun m => decide (m.2.1 = p.1 * 16 + p.2) && decide (m.1 ≤ (strOf s t n).prog.get p 0)) = false := by
    rw [List.any_eq_false]
    intro m hm
    rw [Bool.and_eq_true, decide_eq_true_eq, decide_eq_true_eq]
    exact h m hm
  unfold applyMasks
  simp only [hany, Bool.not_false, Bool.true_or, if_true]

section
variable {s : State} {t : Tid} {n idx : Nat}

theorem laneFaultDue_unparked (h : ∀ e ∈ (strOf s t n).parked, e.1 ≠ idx) : laneFaultDue s t n idx = s := by
  have hf : ((strOf s t n).parked.find? fun e => decide (e.1 = idx)) = none := by
    rw [List.find?_eq_none]
    exact fun e he => by rw [decide_eq_true_eq]; exact h e he
  simp only [laneFaultDue, hf]

theorem laneFaultDue_unended (h : ¬∀ q ∈ pairs (strOf s t n), idx < (strOf s t n).prog.get q 0) : laneFaultDue s t n idx = s := by
  have ha : ((pairs (strOf s t n)).all fun q => decide (idx < (strOf s t n).prog.get q 0)) = false := by
    rw [← Bool.not_eq_true, List.all_eq_true]
    simpa only [decide_eq_true_eq] using h
  unfold laneFaultDue
  simp only [ha, Bool.false_eq_true, if_false]
  split <;> rfl

/-- The last group to finish a run with parked lanes (R424). -/
theorem laneFaultDue_ended {va due : Nat} (hp : (strOf s t n).parked = [(idx, va, due)])
    (h : ∀ q ∈ pairs (strOf s t n), idx < (strOf s t n).prog.get q 0) :
    laneFaultDue s t n idx = raiseTrap (modStr s t n fun st => { st with parked := st.parked.filter fun e => !decide (e.1 = idx) })
      t .lanefault (BitVec.ofNat 64 va) due := by
  have ha : ((pairs (strOf s t n)).all fun q => decide (idx < (strOf s t n).prog.get q 0)) = true := by
    rw [List.all_eq_true]
    simpa only [decide_eq_true_eq] using h
  have hf : ((strOf s t n).parked.find? fun e => decide (e.1 = idx)) = some (idx, va, due) := by
    rw [hp, List.find?_cons_of_pos (by simp)]
  simp only [laneFaultDue, hf, ha, if_true]

end

/-- What the end of a run leaves of the rest of the machine: its pipe is free, and only the run's group and thread may have
changed besides. -/
def EndFrame (s : State) (p : PipeRun) (t : State) : Prop :=
  t = { s with clusters := t.clusters, groups := t.groups, threads := t.threads }
    ∧ t.clu s.lane.pid = { s.clu s.lane.pid with pipes := (s.clu s.lane.pid).pipes.erase s.lane.pipe }
    ∧ (∀ q, q ≠ s.lane.pid → t.clu q = s.clu q)
    ∧ (∀ f k j, (f, k, j) ≠ (s.lane.tid.fid, laneMember s, s.lane.slot) → t.grp f k j = s.grp f k j)
    ∧ ∀ u, u ≠ p.tid → t.thr u = s.thr u

theorem grp_modGrp_ne (s : State) {i c k f m j : Nat} (g : Group → Group) (h : (f, m, j) ≠ (i, c, k)) :
    (s.modGrp i c k g).grp f m j = s.grp f m j := by
  rw [State.grp_modGrp]
  exact if_neg fun e => h (by simp_all)

theorem pipeFreed_frame (s : State) (p : PipeRun) : EndFrame s p (pipeFreed s p) :=
  ⟨rfl, by simp only [pipeFreed, modLaneGrp, State.modGrp_clu, State.clu_modClu_self],
    fun _ hq => by simp only [pipeFreed, modLaneGrp, State.modGrp_clu, State.clu_modClu_ne _ _ hq],
    fun _ _ _ hk => grp_modGrp_ne _ _ hk, fun _ _ => rfl⟩

theorem laneGrp_pipeFreed (s : State) (p : PipeRun) : laneGrp (pipeFreed s p) = { laneGrp s with
    fixEnd := max (laneGrp s).fixEnd ((p.fix.map fun f => f.lands).foldl max 0)
    tail := p.fix.filter fun f => decide (s.now < f.lands) } := by
  rw [List.foldl_map]
  exact State.grp_modGrp_self ..

theorem EndFrame.modThr {s t : State} {p : PipeRun} (h : EndFrame s p t) (f : Thread → Thread) : EndFrame s p (t.modThr p.tid f) := by
  obtain ⟨hrest, hclu, hclus, hgrp, hthr⟩ := h
  refine ⟨?_, hclu, hclus, hgrp, fun u hu => (State.thr_modThr_ne t f hu).trans (hthr u hu)⟩
  rw [hrest]
  rfl

theorem EndFrame.modStr {s t : State} {p : PipeRun} (h : EndFrame s p t) (n : Nat) (f : Stream → Stream) :
    EndFrame s p (modStr t p.tid n f) := h.modThr _

theorem EndFrame.modLaneGrp {s t : State} {p : PipeRun} (h : EndFrame s p t) (f : Group → Group) : EndFrame s p (modLaneGrp t f) := by
  obtain ⟨hrest, hclu, hclus, hgrp, hthr⟩ := h
  have hm : laneMember t = laneMember s := by rw [hrest]; rfl
  have hl : t.lane = s.lane := by rw [hrest]
  refine ⟨?_, hclu, hclus, fun a b c hk => ?_, hthr⟩
  · rw [hrest]; rfl
  · unfold Machine.modLaneGrp
    rw [hl, hm, grp_modGrp_ne _ _ hk, hgrp a b c hk]

theorem laneGrp_modLaneGrp (s : State) (f : Group → Group) : laneGrp (modLaneGrp s f) = f (laneGrp s) := State.grp_modGrp_self ..

section
variable {s : State} {p : PipeRun}

/-- The end of a replay on its group (R426). -/
def replayCounted (s : State) (p : PipeRun) : State :=
  modLaneGrp (pipeFreed s p) fun g => { g with prec := g.prec.map fun r => { r with replaying := false, queued := r.queued - 1 } }

theorem replayCounted_group (s : State) (p : PipeRun) : laneGrp (replayCounted s p) = { laneGrp s with
    fixEnd := max (laneGrp s).fixEnd ((p.fix.map fun f => f.lands).foldl max 0)
    tail := p.fix.filter fun f => decide (s.now < f.lands)
    prec := (laneGrp s).prec.map fun r => { r with replaying := false, queued := r.queued - 1 } } := by
  rw [replayCounted, laneGrp_modLaneGrp, laneGrp_pipeFreed]

theorem endRun_replay_clean (hr : p.replay = true) (hf : p.faultRec = none) : endRun s p = replayCounted s p := by
  rw [endRun_replay hr, endReplay]
  simp only [hf]
  rfl

theorem endRun_replay_fault (hr : p.replay = true) {va due : Nat} (hf : p.faultRec = some (va, due))
    (hs : (s.thr p.tid).status = .running) (hh : ∀ x ∈ (s.thr p.tid).held, x.cause ≠ .lanefault) :
    endRun s p = (replayCounted s p).modThr p.tid fun x => { x with held := x.held ++ [⟨.lanefault, BitVec.ofNat 64 va, due⟩] } := by
  rw [endRun_replay hr, endReplay]
  simp only [hf]
  exact raiseTrap_held (s := replayCounted s p) hs hh _ _

end

/-! What the stream keeps once the group has finished a run. -/

section
variable {s : State} {p : PipeRun}

/-- The stream once the group in focus has finished the run. -/
def countedStream (s : State) (p : PipeRun) : Stream :=
  { strOf s p.tid p.str with prog := (strOf s p.tid p.str).prog.set (laneMember s, p.slot) (p.run.idx + 1) }

theorem strOf_runCounted (s : State) (p : PipeRun) : strOf (runCounted (pipeFreed s p) p) p.tid p.str = countedStream s p := by
  rw [runCounted, strOf_modStr, if_pos rfl]
  rfl

theorem endRun_counted (hr : p.replay = false)
    (hm : ∀ k ∈ (strOf s p.tid p.str).masks, ¬(k.2.1 = laneMember s * 16 + p.slot ∧ k.1 ≤ p.run.idx + 1)) :
    endRun s p = modStr (laneFaultDue (runCounted (pipeFreed s p) p) p.tid p.str p.run.idx) p.tid p.str pruneRuns := by
  rw [endRun_first hr, applyMasks_none]
  intro k hk
  rw [strOf_runCounted] at hk ⊢
  rw [countedStream, Table.get_set_self]
  exact hm k hk

theorem mem_pruneRuns_cissue {st : Stream} {c : (Nat × Nat) × CIssue} (hc : c ∈ st.cissue) (hk : c.1.1 ≠ refusedKey) :
    c ∈ (pruneRuns st).cissue :=
  List.mem_filter.mpr ⟨hc, by rw [decide_eq_true hk, Bool.true_or]⟩

/-- The stream's finished runs leave it. -/
theorem pruned_stream {t : State} {u : Tid} {n : Nat} {st : Stream} (h : strOf t u n = st) :
    strOf (modStr t u n pruneRuns) u n = { st with
      runs := st.runs.filter fun r => (pairs st).any fun q => decide (st.prog.get q 0 ≤ r.idx)
      checkStops := (strOf (modStr t u n pruneRuns) u n).checkStops
      cissue := (strOf (modStr t u n pruneRuns) u n).cissue }
    ∧ ∀ c ∈ st.cissue, c.1.1 ≠ refusedKey → c ∈ (strOf (modStr t u n pruneRuns) u n).cissue := by
  have hs : strOf (modStr t u n pruneRuns) u n = pruneRuns st := by rw [strOf_modStr, if_pos rfl, h]
  rw [hs]
  exact ⟨rfl, fun c hc hk => mem_pruneRuns_cissue hc hk⟩

end

/-- The run's thread has LANEFAULT, once every bound group has finished a run with parked lanes (R424). -/
def laneFaulted (s : State) (p : PipeRun) (va due : Nat) : State :=
  (modStr (runCounted (pipeFreed s p) p) p.tid p.str fun st => { st with parked := st.parked.filter fun e => !decide (e.1 = p.run.idx) }).modThr
    p.tid fun x => { x with held := x.held ++ [⟨.lanefault, BitVec.ofNat 64 va, due⟩] }

theorem strOf_laneFaulted (s : State) (p : PipeRun) (va due n : Nat) : strOf (laneFaulted s p va due) p.tid n = if n = p.str
    then { countedStream s p with parked := (strOf s p.tid p.str).parked.filter fun e => !decide (e.1 = p.run.idx) }
    else strOf s p.tid n := by
  have hs : strOf (laneFaulted s p va due) p.tid n = strOf (modStr (runCounted (pipeFreed s p) p) p.tid p.str fun st =>
      { st with parked := st.parked.filter fun e => !decide (e.1 = p.run.idx) }) p.tid n := by
    rw [strOf, laneFaulted, State.thr_modThr_self]
    rfl
  rw [hs, strOf_modStr]
  split
  · rw [strOf_runCounted]
    rfl
  · next hn =>
    rw [runCounted, strOf_modStr, if_neg hn]
    rfl

theorem thr_runCounted (s : State) (p : PipeRun) : (runCounted (pipeFreed s p) p).thr p.tid
    = { s.thr p.tid with streams := (s.thr p.tid).streams.set p.str (countedStream s p) } := thr_modStr_self ..

theorem laneFaultDue_faulted {s : State} {p : PipeRun} {va due : Nat} (hp : (strOf s p.tid p.str).parked = [(p.run.idx, va, due)])
    (he : ∀ q ∈ pairs (strOf s p.tid p.str), p.run.idx < (countedStream s p).prog.get q 0) (hs : (s.thr p.tid).status = .running)
    (hh : ∀ x ∈ (s.thr p.tid).held, x.cause ≠ .lanefault) :
    laneFaultDue (runCounted (pipeFreed s p) p) p.tid p.str p.run.idx = laneFaulted s p va due := by
  rw [laneFaultDue_ended (va := va) (due := due) (by rw [strOf_runCounted]; exact hp) (by rw [strOf_runCounted]; exact he)]
  refine raiseTrap_held ?_ ?_ _ _
  · rw [thr_modStr_self, thr_runCounted]
    exact hs
  · rw [thr_modStr_self, thr_runCounted]
    exact hh

theorem runEnds : RunEnds := by
  intro s p hrun
  dsimp only
  rw [tryEnd_eq hrun]
  refine ⟨fun hd => if_neg hd, fun hd hr => ⟨fun hf => ?_, fun va due hf hs hh => ?_⟩, fun hd hr hm => ⟨fun hp => ?_, fun va due hp he hs hh => ?_⟩⟩
  · rw [if_pos hd, endRun_replay_clean hr hf]
    exact ⟨_, rfl, ⟨(pipeFreed_frame s p).modLaneGrp _, replayCounted_group s p⟩, rfl⟩
  · rw [if_pos hd, endRun_replay_fault hr hf hs hh]
    exact ⟨_, rfl, ⟨((pipeFreed_frame s p).modLaneGrp _).modThr _, replayCounted_group s p⟩, State.thr_modThr_self ..⟩
  · have hnone : laneFaultDue (runCounted (pipeFreed s p) p) p.tid p.str p.run.idx = runCounted (pipeFreed s p) p := by
      rcases hp with hp | hp
      · exact laneFaultDue_unparked (by rw [strOf_runCounted]; exact hp)
      · exact laneFaultDue_unended (by rw [strOf_runCounted]; exact hp)
    rw [if_pos hd, endRun_counted hr hm, hnone]
    obtain ⟨hst, hci⟩ := pruned_stream (strOf_runCounted s p)
    refine ⟨_, rfl, ((pipeFreed_frame s p).modStr _ _).modStr _ _, laneGrp_pipeFreed s p, ⟨hst, hci, fun n hn => ?_⟩, ?_⟩
    · rw [strOf_modStr, if_neg hn, runCounted, strOf_modStr, if_neg hn]
      rfl
    · rw [thr_modStr_self, thr_runCounted]
  · rw [if_pos hd, endRun_counted hr hm, laneFaultDue_faulted hp he hs hh]
    have hstr : strOf (laneFaulted s p va due) p.tid p.str = { countedStream s p with parked := [] } := by
      rw [strOf_laneFaulted, if_pos rfl, hp, List.filter_cons_of_neg (by simp), List.filter_nil]
    obtain ⟨hst, hci⟩ := pruned_stream hstr
    refine ⟨_, rfl, (((pipeFreed_frame s p).modStr _ _).modStr _ _ |>.modThr _).modStr _ _, laneGrp_pipeFreed s p,
      ⟨hst, hci, fun n hn => ?_⟩, ?_⟩
    · rw [strOf_modStr, if_neg hn, strOf_laneFaulted, if_neg hn]
    · rw [thr_modStr_self, laneFaulted, State.thr_modThr_self, thr_modStr_self, thr_runCounted]

/-! ### The arbiter's choice (R414) -/

/-- Three numbers in order, the first of which counts most. -/
def KeyLe (x y : Nat × Nat × Nat) : Prop := x.1 < y.1 ∨ (x.1 = y.1 ∧ (x.2.1 < y.2.1 ∨ (x.2.1 = y.2.1 ∧ x.2.2 ≤ y.2.2)))

theorem KeyLe.refl (x : Nat × Nat × Nat) : KeyLe x x := Or.inr ⟨rfl, Or.inr ⟨rfl, le_rfl⟩⟩

theorem KeyLe.trans {x y z : Nat × Nat × Nat} (h : KeyLe x y) (k : KeyLe y z) : KeyLe x z := by
  unfold KeyLe at h k ⊢
  omega

/-- A choice takes an element than which none comes before. -/
theorem pickMin_spec {α : Type} (key : α → Nat × Nat × Nat) (l : List α) (h : l ≠ []) :
    ∃ b ∈ l, pickMin key l = some b ∧ ∀ y ∈ l, KeyLe (key b) (key y) := by
  induction l with
  | nil => exact absurd rfl h
  | cons a l ih =>
    rcases eq_or_ne l [] with rfl | hl
    · exact ⟨a, List.mem_cons_self, rfl, fun y hy => by rw [List.mem_singleton.mp hy]; exact KeyLe.refl _⟩
    · obtain ⟨b, hb, hpick, hmin⟩ := ih hl
      by_cases hlt : (key b).1 < (key a).1 ∨ ((key b).1 = (key a).1 ∧ ((key b).2.1 < (key a).2.1
          ∨ ((key b).2.1 = (key a).2.1 ∧ (key b).2.2 < (key a).2.2)))
      · refine ⟨b, List.mem_cons_of_mem _ hb, by simp only [pickMin, hpick, hlt, if_true], fun y hy => ?_⟩
        rcases List.mem_cons.mp hy with rfl | hy
        · unfold KeyLe; omega
        · exact hmin y hy
      · refine ⟨a, List.mem_cons_self, by simp only [pickMin, hpick, hlt, if_false], fun y hy => ?_⟩
        rcases List.mem_cons.mp hy with rfl | hy
        · exact KeyLe.refl _
        · exact KeyLe.trans (by unfold KeyLe; omega) (hmin y hy)

/-- The key by which the arbiter of a cluster takes a ready run. -/
def runKey (s : State) (pid : Nat) (e : PipeRun × Nat) : Nat × Nat × Nat :=
  let t := readySince (s.clu pid) s.now e.1
  if 256 ≤ (s.now - t) * cluMHz s pid / 1000000 then (0, t, e.1.run.born)
  else (1, if (s.clu pid).purse.lastLimit < 2 * (s.clu pid).purse.lastSpend then e.2 else t, e.1.run.born)

theorem chooseRun_eq (s : State) (pid : Nat) (rs : List (PipeRun × Nat)) : chooseRun s pid rs = pickMin (runKey s pid) rs := by
  unfold chooseRun
  simp only [decide_eq_true_eq]
  rfl

section
variable {s : State} {pid : Nat} {e y : PipeRun × Nat}

theorem runKey_aged (h : 256 ≤ (s.now - readySince (s.clu pid) s.now e.1) * cluMHz s pid / 1000000) :
    runKey s pid e = (0, readySince (s.clu pid) s.now e.1, e.1.run.born) := if_pos h

theorem runKey_fresh (h : ¬256 ≤ (s.now - readySince (s.clu pid) s.now e.1) * cluMHz s pid / 1000000) :
    runKey s pid e = (1, if (s.clu pid).purse.lastLimit < 2 * (s.clu pid).purse.lastSpend then e.2
      else readySince (s.clu pid) s.now e.1, e.1.run.born) := if_neg h

/-- A run taken before one that has been ready for 256 cycles has been so too, and no less long. -/
theorem aged_of_keyLe (h : KeyLe (runKey s pid e) (runKey s pid y))
    (hy : 256 ≤ (s.now - readySince (s.clu pid) s.now y.1) * cluMHz s pid / 1000000) :
    256 ≤ (s.now - readySince (s.clu pid) s.now e.1) * cluMHz s pid / 1000000
    ∧ readySince (s.clu pid) s.now e.1 ≤ readySince (s.clu pid) s.now y.1
    ∧ (readySince (s.clu pid) s.now y.1 = readySince (s.clu pid) s.now e.1 → e.1.run.born ≤ y.1.run.born) := by
  by_cases he : 256 ≤ (s.now - readySince (s.clu pid) s.now e.1) * cluMHz s pid / 1000000
  · rw [runKey_aged hy, runKey_aged he] at h
    simp only [KeyLe] at h
    refine ⟨he, ?_, ?_⟩ <;> omega
  · rw [runKey_aged hy, runKey_fresh he] at h
    simp only [KeyLe] at h
    omega

section
variable (h : KeyLe (runKey s pid e) (runKey s pid y))
  (he : ¬256 ≤ (s.now - readySince (s.clu pid) s.now e.1) * cluMHz s pid / 1000000)
  (hy : ¬256 ≤ (s.now - readySince (s.clu pid) s.now y.1) * cluMHz s pid / 1000000)
include h he hy

/-- After a heavy window, of runs that have not been ready for 256 cycles none is taken before a cheaper one. -/
theorem cheap_of_keyLe (hh : (s.clu pid).purse.lastLimit < 2 * (s.clu pid).purse.lastSpend) :
    e.2 ≤ y.2 ∧ (y.2 = e.2 → e.1.run.born ≤ y.1.run.born) := by
  rw [runKey_fresh he, runKey_fresh hy, if_pos hh, if_pos hh] at h
  simp only [KeyLe] at h
  omega

/-- Else none is taken before one that has been ready longer. -/
theorem old_of_keyLe (hh : ¬(s.clu pid).purse.lastLimit < 2 * (s.clu pid).purse.lastSpend) :
    readySince (s.clu pid) s.now e.1 ≤ readySince (s.clu pid) s.now y.1
    ∧ (readySince (s.clu pid) s.now y.1 = readySince (s.clu pid) s.now e.1 → e.1.run.born ≤ y.1.run.born) := by
  rw [runKey_fresh he, runKey_fresh hy, if_neg hh, if_neg hh] at h
  simp only [KeyLe] at h
  omega

end

end

/-! ### RUN_START (R17, R414) -/

/-- A run that a pipe takes leaves the lists of those that wait, and its replay has begun. -/
def runTaken (s : State) (pid : Nat) (p : PipeRun) : State :=
  let t := s.modClu pid fun c => { c with
    ready := c.ready.filter fun e => !decide (e.1 = keyOf p)
    cuts := c.cuts.filter fun e => !decide (keyOf e = keyOf p) }
  if p.replay then t.modGrp p.tid.fid ((t.flk p.tid.fid).clus.idxOf pid) p.slot fun g =>
    { g with prec := g.prec.map fun r => { r with replaying := true } }
  else t

/-- A pipe is free, and has not issued in the present cycle. -/
def pipeFree (s : State) (pid k : Nat) : Bool := ((s.clu pid).pipes.find k).isNone && decide ((s.clu pid).pipeNext.get k 0 ≤ s.now)

theorem execRunStart_eq (pid pipe : Nat) (s : State) : execRunStart pid pipe s =
    if 4 ≤ pipe || !pipeFree s pid pipe || (List.range pipe).any (pipeFree s pid) || (s.die (pid / 64)).tripped then .next s
    else match chooseRun (rollSpend s pid) pid (readyRuns (rollSpend s pid) pid pipe) with
      | none => .next (rollSpend s pid)
      | some e => .next (rejoin (place (runTaken (rollSpend s pid) pid e.1) pid pipe { e.1 with denied := none }) pid pipe e.1) := by
  unfold execRunStart
  refine if_congr Iff.rfl rfl ?_
  dsimp only
  generalize rollSpend s pid = z
  cases chooseRun z pid (readyRuns z pid pipe) with
  | none => rfl
  | some e => rfl

theorem rejoin_rest (s : State) (pid pipe : Nat) (p : PipeRun) : rejoin s pid pipe p = { s with clusters := (rejoin s pid pipe p).clusters } := by
  unfold rejoin
  split <;> rfl

/-- A cut run's denied word asks a purse again, with the age it had (R420). -/
def askAgain (x : Purse) (pipe : Nat) (p : PipeRun) : Purse :=
  match p.denied with
  | some (age, debit) => { x with payers := x.payers ++ [⟨pipeWho pipe, debit, age⟩] }
  | none => x

theorem rejoin_clu (s : State) (pid pipe : Nat) (p : PipeRun) :
    (rejoin s pid pipe p).clu pid = { s.clu pid with purse := askAgain (s.clu pid).purse pipe p } := by
  unfold rejoin askAgain
  cases p.denied with
  | none => rfl
  | some d => exact State.clu_modClu_self ..

theorem rejoin_clu_ne (s : State) {pid q : Nat} (pipe : Nat) (p : PipeRun) (h : q ≠ pid) : (rejoin s pid pipe p).clu q = s.clu q := by
  unfold rejoin
  split
  · exact State.clu_modClu_ne _ _ h
  · rfl

theorem runTaken_rest (s : State) (pid : Nat) (p : PipeRun) : runTaken s pid p
    = { s with clusters := (runTaken s pid p).clusters, groups := (runTaken s pid p).groups } := by
  unfold runTaken
  dsimp only
  split <;> rfl

theorem runTaken_clu (s : State) (pid : Nat) (p : PipeRun) (q : Nat) : (runTaken s pid p).clu q = if q = pid then { s.clu pid with
    ready := (s.clu pid).ready.filter fun e => !decide (e.1 = keyOf p)
    cuts := (s.clu pid).cuts.filter fun e => !decide (keyOf e = keyOf p) } else s.clu q := by
  unfold runTaken
  dsimp only
  split
  · rw [State.modGrp_clu, State.clu_modClu]
  · rw [State.clu_modClu]

theorem runTaken_groups (s : State) (pid : Nat) {p : PipeRun} (h : p.replay = false) : (runTaken s pid p).groups = s.groups := by
  unfold runTaken
  rw [h]
  rfl

/-- The window's turn changes the purse of the cluster alone. -/
theorem rollSpend_rest (s : State) (pid : Nat) : rollSpend s pid = { s with clusters := (rollSpend s pid).clusters } := by
  rcases rollSpend_frame s pid with h | ⟨p, h⟩
  · rw [h]
  · rw [h]
    rfl

theorem rollSpend_clu_ne (s : State) {pid q : Nat} (h : q ≠ pid) : (rollSpend s pid).clu q = s.clu q := by
  rcases rollSpend_frame s pid with hs | ⟨p, hs⟩
  · rw [hs]
  · rw [hs]
    exact State.clu_modClu_ne _ _ h

/-- What a cluster is once its pipe has taken a run. -/
theorem started_clu (z : State) (pid pipe : Nat) (p : PipeRun) (q : Nat) :
    (rejoin (place (runTaken z pid p) pid pipe { p with denied := none }) pid pipe p).clu q = if q = pid then { z.clu pid with
      pipes := (z.clu pid).pipes.set pipe { p with denied := none }
      ready := (z.clu pid).ready.filter fun e => !decide (e.1 = keyOf p)
      cuts := (z.clu pid).cuts.filter fun e => !decide (keyOf e = keyOf p)
      purse := askAgain (z.clu pid).purse pipe p } else z.clu q := by
  by_cases hq : q = pid
  · subst hq
    rw [if_pos rfl, rejoin_clu, place, State.clu_modClu_self, runTaken_clu, if_pos rfl]
  · rw [if_neg hq, rejoin_clu_ne _ _ _ hq, place, State.clu_modClu_ne _ _ hq, runTaken_clu, if_neg hq]

/-! ### The notes of the arbiters, and runs that have not started (R17, R414) -/

theorem find_mapVals (f : Nat → Cluster → Cluster) (t : Table Nat Cluster) (k : Nat) : (Table.mapVals f t).find k = (t.find k).map (f k) := by
  induction t with
  | nil => rfl
  | cons e t ih =>
    obtain ⟨j, c⟩ := e
    by_cases h : j = k
    · subst h
      simp [Table.mapVals, Table.find]
    · simpa [Table.mapVals, Table.find, h] using ih

theorem noteReady_clu {s : State} {pid : Nat} (h : (s.clusters.find pid).isSome = true) :
    (noteReady s).clu pid = { s.clu pid with ready := noteReadyAt s pid } := by
  obtain ⟨c, hc⟩ := Option.isSome_iff_exists.mp h
  simp only [noteReady, State.clu, Table.get_eq_find, find_mapVals, hc, Option.map_some, Option.getD_some]

/-- The state with the pipe in focus free again. -/
def pipeGivenBack (s : State) : State := s.modClu s.lane.pid fun c => { c with pipes := c.pipes.erase s.lane.pipe }

theorem giveBack_eq {s : State} {p : PipeRun} (h : laneRun s = some p) : giveBack s =
    if !s.lane.held || decide (p.pos ≠ 0) || !p.acts.isEmpty then s
    else if (readyPrice (pipeGivenBack s) s.lane.pid s.lane.pipe p).isSome then s
    else
      let t := modPurse (pipeGivenBack s) s.lane.pid fun x => { x with payers := x.payers.filter fun q => !decide (q.who = pipeWho s.lane.pipe) }
      if p.replay then t.modGrp p.tid.fid (laneMember s) p.slot fun g => { g with prec := g.prec.map fun r => { r with replaying := false } }
      else t := by
  unfold giveBack
  simp only [h]
  rfl

/-- A pipe takes no run: it is none of the four, it or one below it is the wrong one, or the die has tripped. -/
theorem runStart_stops (s : State) (pid pipe : Nat) :
    (4 ≤ pipe || !pipeFree s pid pipe || (List.range pipe).any (pipeFree s pid) || (s.die (pid / 64)).tripped) = true ↔
      4 ≤ pipe ∨ ¬(((s.clu pid).pipes.find pipe).isNone = true ∧ (s.clu pid).pipeNext.get pipe 0 ≤ s.now)
        ∨ (∃ k, k < pipe ∧ ((s.clu pid).pipes.find k).isNone = true ∧ (s.clu pid).pipeNext.get k 0 ≤ s.now)
        ∨ (s.die (pid / 64)).tripped = true := by
  simp only [pipeFree, Bool.or_eq_true, decide_eq_true_eq, Bool.not_eq_true', List.any_eq_true, List.mem_range, Bool.and_eq_true,
    ← Bool.not_eq_true, or_assoc]

theorem runStarts : RunStarts := by
  refine ⟨fun pid pipe s => ?_, fun s pid hp => ⟨rfl, noteReady_clu hp⟩, fun s p hp => ⟨fun h => ?_, fun hh hpos hacts hprice hr => ?_⟩⟩
  · dsimp only
    have he : exec (.runStart pid pipe) s = _ := execRunStart_eq pid pipe s
    rw [he, ← runStart_stops]
    refine ⟨fun h => if_pos h, fun h hrs => ?_, fun h hrs => ?_⟩
    · rw [if_neg h, hrs]
      rfl
    · obtain ⟨e, hmem, hpick, hmin⟩ := pickMin_spec (runKey (rollSpend s pid) pid) _ hrs
      have hrest := rollSpend_rest s pid
      have hnow : (rollSpend s pid).now = s.now := by rw [hrest]
      have hmhz : cluMHz (rollSpend s pid) pid = cluMHz s pid := by rw [hrest]; rfl
      rw [if_neg h, chooseRun_eq, hpick]
      have haged := fun y hy => aged_of_keyLe (hmin y hy)
      have hcheap := fun y hy => cheap_of_keyLe (hmin y hy)
      have hold := fun y hy => old_of_keyLe (hmin y hy)
      simp only [hnow, hmhz] at haged hcheap hold
      have hclu := started_clu (rollSpend s pid) pid pipe e.1
      refine ⟨e, hmem, ⟨haged, fun ha hh y hy => hcheap y hy (ha e hmem) (ha y hy) hh,
        fun ha hh y hy => hold y hy (ha e hmem) (ha y hy) hh⟩, _, rfl, ?_, ?_, fun k hk => ?_, ?_, fun q hq => ?_, fun hr => ?_⟩
      · rw [rejoin_rest, place, runTaken_rest, hrest]
        rfl
      · rw [hclu, if_pos rfl]
        exact Table.find_set_self ..
      · rw [hclu, if_pos rfl]
        exact Table.find_set_ne _ hk _
      · rw [hclu, if_pos rfl]
        unfold askAgain
        cases e.1.denied <;> rfl
      · rw [hclu, if_neg hq, rollSpend_clu_ne s hq]
      · rw [rejoin_rest]
        exact (runTaken_groups _ _ hr).trans (by rw [hrest])
  · rw [giveBack_eq hp]
    split
    · rfl
    · next hn =>
      have hprice : (readyPrice (pipeGivenBack s) s.lane.pid s.lane.pipe p).isSome = true := by
        rcases h with h | h | h | h
        · exact absurd (by rw [h]; rfl) hn
        · exact absurd (by rw [decide_eq_true h, Bool.or_true, Bool.true_or]) hn
        · exact absurd (by rw [List.isEmpty_eq_false_iff.mpr h, Bool.not_false, Bool.or_true]) hn
        · exact h
      rw [if_pos hprice]
  · have hprice' : readyPrice (pipeGivenBack s) s.lane.pid s.lane.pipe p = none := hprice
    rw [giveBack_eq hp, hh, hpos, hacts, hprice', hr]
    rfl

end Sys2Proof.Runs

end

section
/-! PROOFS. Results of the lanes: the reads that perform, what lands in the lanes of a load, an atomic, an LDB and a tile, and the
captures of the temporal array. -/

namespace Sys2Proof.Results
open Sys2Proof Sys2Proof.Machine Sys2Proof.Claims Sys2Proof.Laws Sys2Proof.Lanes Sys2Proof.Turns Sys2Proof.Runs

/-! ### Reads and atomics of the lanes that perform (R149, R150, R289) -/

section
variable {s : State} {o : MemOp}

theorem execVariableResultLand_of_find (h : findOp s o.id = some o) : execVariableResultLand o.id s =
    if o.str.isSome && decide (o.dest ≠ .none) && o.live s then .next (progressOp s o) else .next s := by
  unfold execVariableResultLand
  rw [h]

/-- Nothing happens to an access that gives the lanes no result. -/
theorem execVariableResultLand_stays (h : findOp s o.id = some o) (hn : o.str = none ∨ o.dest = .none ∨ (s.flk o.tid.fid).resident = false) :
    execVariableResultLand o.id s = .next s := by
  rw [execVariableResultLand_of_find h]
  refine if_neg ?_
  simp only [Bool.and_eq_true, decide_eq_true_eq, MemOp.live, not_and, ← Option.ne_none_iff_isSome]
  rintro ⟨hs, hd⟩ hl
  rcases hn with hn | hn | hn
  · exact hs hn
  · exact hd hn
  · rw [hl] at hn
    cases hn

theorem execVariableResultLand_goes (h : findOp s o.id = some o) (hs : o.str ≠ none) (hd : o.dest ≠ .none)
    (hl : (s.flk o.tid.fid).resident = true) : execVariableResultLand o.id s = .next (progressOp s o) := by
  rw [execVariableResultLand_of_find h]
  refine if_pos ?_
  rw [Option.ne_none_iff_isSome.mp hs, decide_eq_true hd]
  exact hl

theorem gathers_load (h : o.deed = .load) (s : State) : gathers s o = false := by
  unfold gathers
  rw [h]

theorem gathers_alone {op v cmp : Nat} (h : o.deed = .atomic op v cmp false) (s : State) : gathers s o = false := by
  unfold gathers
  rw [h]
  cases serveOf s o <;> rfl

/-- A read performs: what it takes stands until its lanes take it. -/
theorem perform_load (hd : o.deed = .load) (hm : o.made = none) (hs : o.str ≠ none) : perform s o =
    if blockedBySame s o then s
    else match readNow s o with
      | (u, none) => u
      | (u, some (bs, ct)) => keepRead (acquireOf (noteRead u o ct) o ct) o .load (raceBytes (acquireOf (noteRead u o ct) o ct) o bs) := by
  have hs' : o.str.isNone = false := by rw [← Option.not_isSome, Option.ne_none_iff_isSome.mp hs]; rfl
  unfold perform
  rcases readNow s o with ⟨u, _ | ⟨bs, ct⟩⟩ <;>
    simp only [gathers_load hd, hm, Bool.false_eq_true, if_false, Option.isSome_none, Bool.or_false, hd, hs']

/-- An atomic performs: a write whose time is not known yet is still owed. -/
theorem perform_atomic {op v cmp : Nat} (hd : o.deed = .atomic op v cmp false) (hm : o.made = none) (hs : o.str ≠ none) (hn : o.dest ≠ .none)
    (hb : blockedBySame s o = false) : perform s o = match atomicNow s o op v cmp with
      | (u, none, _) => u
      | (u, some _, .notYet) => u
      | (u, some (bs, ct), .done g) => keepRead (acquireOf (noteRead (noteWrite u o g) o ct) o ct) o .load bs
      | (u, some (bs, ct), .owed) => keepRead (acquireOf (noteRead u o ct) o ct) o o.deed bs := by
  have hs' : o.str.isSome = true := Option.ne_none_iff_isSome.mp hs
  unfold perform
  rcases ha : atomicNow s o op v cmp with ⟨u, _ | ⟨bs, ct⟩, _ | g | _⟩ <;>
    simp only [gathers_alone hd, hm, Bool.false_eq_true, if_false, Option.isSome_none, Bool.or_false, hd, hs', hb, hn, if_true, ha]

theorem raceBytes_clean (s : State) {o : MemOp} (h : o.alt = []) (bs : List Byte) : raceBytes s o bs = bs := by
  rw [raceBytes, h]
  rfl

theorem readNow_sram {c off : Nat} (h : serveOf s o = .sram c off) : readNow s o = (s, some (s.localRead o.tid.fid c off o.n, 0)) := by
  unfold readNow
  rw [h]

theorem atomicNow_sram {c off : Nat} (h : serveOf s o = .sram c off) (op v cmp : Nat) : atomicNow s o op v cmp =
    (s.localWrite o.tid.fid c off (leBytes o.n (atomResult op o.n (leNat (s.localRead o.tid.fid c off o.n)) v cmp)),
      some (s.localRead o.tid.fid c off o.n, 0), .done (Gwct.flat (dt s))) := by
  unfold atomicNow writeNow
  simp only [h]

theorem leBytes_getD (n x k : Nat) (h : k < n) : (leBytes n x).getD k 0 = BitVec.ofNat 8 (x / 256 ^ k) := by
  induction n generalizing x k with
  | zero => exact absurd h (Nat.not_lt_zero k)
  | succ n ih =>
    cases k with
    | zero => rw [leBytes, pow_zero, Nat.div_one, List.getD_cons_zero]
    | succ k => rw [leBytes, List.getD_cons_succ, ih _ _ (Nat.lt_of_succ_lt_succ h), Nat.div_div_eq_div_mul, pow_succ']

theorem read_writeList_leBytes (m : Mem) (hm : m.wf = true) (a n x k : Nat) : (m.writeList a (leBytes n x)).read k =
    if a ≤ k ∧ k < a + n then BitVec.ofNat 8 (x / 256 ^ (k - a)) else m.read k := by
  split
  · next h =>
    obtain ⟨i, rfl⟩ := Nat.exists_eq_add_of_le h.1
    rw [Mem.read_writeList_in m a _ hm i (by rw [leBytes_length]; omega), Nat.add_sub_cancel_left, leBytes_getD _ _ _ (by omega)]
  · next h => exact Mem.read_writeList_out m a _ (by rw [leBytes_length]; omega)

theorem readList_getD (m : Mem) (a n k : Nat) (h : k < n) : (m.readList a n).getD k 0 = m.read (a + k) := by
  induction n generalizing a k with
  | zero => exact absurd h (Nat.not_lt_zero k)
  | succ n ih =>
    cases k with
    | zero => rfl
    | succ k => rw [Mem.readList, List.getD_cons_succ, ih _ _ (Nat.lt_of_succ_lt_succ h)]; congr 1; omega

theorem localWrite_localMem (s : State) (fid clu off : Nat) (bs : List Byte) :
    (s.localWrite fid clu off bs).localMem fid clu = (s.localMem fid clu).writeList off bs := Table.get_set_self ..

/-- A read within one sector that nobody owns or shares finds its home as it stands. -/
theorem atHome_alone {s : State} {pa n : Nat} (ho : (s.homeOf pa).owners = []) (hs : (s.homeOf pa).sharers = []) (hn : pa % 32 + n ≤ 32) :
    atHome s pa n = s := by
  have hsec : (List.range ((pa % 32 + n + 31) / 32)).foldl (init := s) (fun s k => recallBy (atHomeN 5) s (pa + 32 * k)) = s := by
    rcases Nat.le_one_iff_eq_zero_or_eq_one.mp (show (pa % 32 + n + 31) / 32 ≤ 1 by omega) with h | h
    · rw [h]; rfl
    · rw [h]
      show recallBy (atHomeN 5) s (pa + 32 * 0) = s
      simp only [recallBy, Nat.mul_zero, Nat.add_zero, ho, Table.find_nil]
  have hline : (List.range ((pa % 256 + n + 255) / 256)).foldl (init := s) (fun s k =>
      if (s.homeOf (pa + 256 * k)).sharers = [] then s else combineBy (atHomeN 5) s (lineOf (pa + 256 * k))) = s := by
    rcases Nat.le_one_iff_eq_zero_or_eq_one.mp (show (pa % 256 + n + 255) / 256 ≤ 1 by omega) with h | h
    · rw [h]; rfl
    · rw [h]
      exact if_pos hs
  show atHomeBy (atHomeN 5) s pa n = s
  unfold atHomeBy
  rw [hsec]
  exact hline

theorem l2Touch_mem (s : State) (pa n pri : Nat) (na wr : Bool) : (l2Touch s pa n pri na wr).mem = s.mem := by
  unfold l2Touch
  split
  · rfl
  · split
    · split <;> rfl
    · rfl

section
variable {va pa : Nat} (hv : serveOf s o = .home va pa) (hb : bypasses o = true) (hu : uoAt (s.clu o.pid) (lineOf pa) = none)
include hv

/-- A read that meets a held line waits. -/
theorem readNow_held (hh : readHeld s pa = true) : readNow s o = (s, none) := by
  unfold readNow
  simp only [hv, hh, if_true]

include hb hu

/-- A read that passes the L1 takes the bytes at the home. -/
theorem readNow_bypasses (hh : readHeld s pa = false) : readNow s o
    = (l2Touch (readAtHome s pa o.n).1 pa o.n o.pri o.na false, some ((readAtHome s pa o.n).2.1, (readAtHome s pa o.n).2.2)) := by
  unfold readNow
  simp only [hv, hh, hb, hu, if_true, Bool.false_eq_true, if_false]

end

end

theorem resultsReturn : ResultsReturn := by
  intro s o
  dsimp only
  refine ⟨fun hf hc => ?_, fun hf hn => execVariableResultLand_stays hf hn, fun hf hs hd hl hm => ?_, fun c off hv => ?_,
    fun va pa hv hb hu => ⟨fun hh => readNow_held hv hh, fun hh ho hsh hn => ?_⟩⟩
  · have he : exec (.variableResultLand o.id) s = execVariableResultLand o.id s := rfl
    rw [he, execVariableResultLand]
    simp only [hf, hc]
  · have he : exec (.variableResultLand o.id) s = .next (perform s o) :=
      (execVariableResultLand_goes hf hs hd hl).trans (by simp only [progressOp, hm])
    rw [he]
    refine ⟨fun hload => ?_, fun op val cmp hat hb u => ?_⟩
    · rw [perform_load hload hm hs]
      refine ⟨fun hb => by rw [hb, if_pos rfl], fun hb u => ?_⟩
      rw [hb, if_neg Bool.false_ne_true]
      exact ⟨fun hr => by rw [hr], fun bs ct hr => ⟨_, _, by rw [hr]; rfl, rfl, rfl, fun ha => raceBytes_clean _ ha bs⟩⟩
    · rw [perform_atomic hat hm hs hd hb]
      exact ⟨fun m ha => by rw [ha], fun bs ct => ⟨fun ha => by rw [ha], fun g ha => by rw [ha]; rfl, fun ha => by rw [ha]; rfl⟩⟩
  · refine ⟨readNow_sram hv, fun op val cmp hwf => ⟨_, _, atomicNow_sram hv op val cmp, fun k => ?_⟩⟩
    rw [localWrite_localMem, read_writeList_leBytes _ hwf]
  · refine ⟨_, _, _, readNow_bypasses hv hb hu hh, ?_, ?_, fun k hk => ?_⟩
    · rw [l2Touch_mem]
      show (obtain (atHome s pa o.n) pa o.n 1).mem = s.mem
      rw [obtain_mem, atHome_alone ho hsh hn]
    · rw [readAtHome_bytes, Mem.readList_length]
    · rw [readAtHome_bytes, atHome_alone ho hsh hn, readList_getD _ _ _ _ hk]

/-! ### Results that land in lane registers (R42, R148, R198) -/

/-- No fixed-latency write of a group is in flight. -/
def Quiet (s : State) (fid m slot : Nat) : Prop :=
  (s.grp fid m slot).tail = []
    ∧ ∀ y ∈ (s.clu (s.pidOf fid m)).pipes, y.2.tid.fid = fid → y.2.slot = slot → y.2.fix = []

/-- Some lanes of some registers of one group have taken values, and nothing else has changed. -/
def LanesPut (s t : State) (fid m slot : Nat) (hit : Nat → Nat → Prop) (v : Nat → Nat → Word32) : Prop :=
  t = { s with groups := t.groups } ∧ (∀ f k j, (f, k, j) ≠ (fid, m, slot) → t.grp f k j = s.grp f k j)
    ∧ t.grp fid m slot = { s.grp fid m slot with v := (t.grp fid m slot).v }
    ∧ ∀ q l, l < 32 → (hit q l → (t.grp fid m slot).laneOf q l = v q l)
      ∧ (¬hit q l → (t.grp fid m slot).laneOf q l = (s.grp fid m slot).laneOf q l)

section
variable {s t u : State} {fid m slot : Nat} {hit hit' : Nat → Nat → Prop} {v : Nat → Nat → Word32}

theorem Quiet.of_lanesPut (hs : Quiet s fid m slot) (h : LanesPut s t fid m slot hit v) : Quiet t fid m slot := by
  obtain ⟨hrest, -, hg, -⟩ := h
  refine ⟨by rw [hg]; exact hs.1, ?_⟩
  rw [hrest]
  exact hs.2

theorem LanesPut.none (h : ∀ q l, ¬hit q l) : LanesPut s s fid m slot hit v :=
  ⟨rfl, fun _ _ _ _ => rfl, rfl, fun q l _ => ⟨fun hh => absurd hh (h q l), fun _ => rfl⟩⟩

theorem LanesPut.trans (h : LanesPut s t fid m slot hit v) (k : LanesPut t u fid m slot hit' v) {both : Nat → Nat → Prop}
    (hb : ∀ q l, both q l ↔ hit q l ∨ hit' q l) : LanesPut s u fid m slot both v := by
  obtain ⟨hrest, hne, hg, hl⟩ := h
  obtain ⟨krest, kne, kg, kl⟩ := k
  refine ⟨by rw [krest, hrest], fun f c j hk => (kne f c j hk).trans (hne f c j hk), by rw [kg, hg], fun q l hl32 => ⟨fun hh => ?_, fun hh => ?_⟩⟩
  · by_cases h2 : hit' q l
    · exact (kl q l hl32).1 h2
    · rw [(kl q l hl32).2 h2]
      exact (hl q l hl32).1 (((hb q l).mp hh).resolve_right h2)
  · rw [hb, not_or] at hh
    rw [(kl q l hl32).2 hh.2, (hl q l hl32).2 hh.1]

/-- A result lands in a lane of a register at once where no write is in flight. -/
theorem landReg_quiet (hs : Quiet s fid m slot) (r l : Nat) (x : Word32) :
    landReg s fid m slot r l x = s.modGrp fid m slot fun g => g.setLane r l x := by
  have hp : ((groupPipe s fid m slot).bind fun p => (landUnder s.now r l x p.2.fix.reverse).map fun fs => (p.1, { p.2 with fix := fs.reverse }))
      = none := by
    cases hg : groupPipe s fid m slot with
    | none => rfl
    | some e =>
      have hmem := List.mem_of_find?_eq_some hg
      have hcond := List.find?_some hg
      simp only [Bool.and_eq_true, decide_eq_true_eq] at hcond
      simp only [Option.bind_some, hs.2 e hmem hcond.1 hcond.2, List.reverse_nil, landUnder, Option.map_none]
  unfold landReg
  rw [hp]
  show s.setGrp fid m slot (match landUnder s.now r l x (s.grp fid m slot).tail.reverse with
    | some fs => _
    | none => _) = _
  rw [hs.1]
  rfl

theorem landReg_put (hs : Quiet s fid m slot) {r l : Nat} {x : Word32} (hx : v r l = x) :
    LanesPut s (landReg s fid m slot r l x) fid m slot (fun q k => k = l ∧ q = r) v := by
  rw [landReg_quiet hs]
  refine ⟨rfl, fun f c j hk => grp_modGrp_ne _ _ hk, by rw [State.grp_modGrp_self]; rfl, fun q k hk => ?_⟩
  rw [State.grp_modGrp_self, laneOf_setLane _ _ _ _ _ hk]
  refine ⟨fun ⟨hl, hr⟩ => ?_, fun hn => if_neg fun h => hn ⟨h.2, h.1⟩⟩
  rw [if_pos ⟨hr, hl⟩, hr, hl, hx]

/-- The registers of a value, lowest first. -/
theorem landRegs_put (hs : Quiet s fid m slot) {r l : Nat} {xs : List Word32} (hx : ∀ k, k < xs.length → v (r + k) l = xs.getD k 0) :
    LanesPut s (landRegs s fid m slot r l xs) fid m slot (fun q k => k = l ∧ r ≤ q ∧ q < r + xs.length) v := by
  induction xs generalizing s r with
  | nil =>
    refine LanesPut.none fun q k h => ?_
    rw [List.length_nil] at h
    omega
  | cons x xs ih =>
    have h1 : LanesPut s (landReg s fid m slot r l x) fid m slot (fun q k => k = l ∧ q = r) v := landReg_put hs (hx 0 (Nat.succ_pos _))
    have h2 := ih (r := r + 1) (hs.of_lanesPut h1) fun k hk => by
      have := hx (k + 1) (Nat.succ_lt_succ hk)
      rw [List.getD_cons_succ] at this
      rw [← this, Nat.add_assoc, Nat.add_comm 1 k]
    refine h1.trans h2 fun q k => ?_
    rw [List.length_cons]
    omega

/-- Lane by lane: what each lane takes may look at its own old value, which no lane before it has changed. -/
theorem foldl_lanes {g : Group} {row : Nat → Prop} (F : State → Nat → State) (ls : List Nat) (hls : ∀ l ∈ ls, l < 32) (hnd : ls.Nodup)
    (hF : ∀ l ∈ ls, ∀ u, Quiet u fid m slot → (∀ q, (u.grp fid m slot).laneOf q l = g.laneOf q l) →
      LanesPut u (F u l) fid m slot (fun q k => k = l ∧ row q) v)
    (hs : Quiet s fid m slot) (hg : ∀ l ∈ ls, ∀ q, (s.grp fid m slot).laneOf q l = g.laneOf q l) :
    LanesPut s (ls.foldl F s) fid m slot (fun q k => k ∈ ls ∧ row q) v := by
  induction ls generalizing s with
  | nil => exact LanesPut.none fun q k h => List.not_mem_nil h.1
  | cons l ls ih =>
    obtain ⟨hl, hnd⟩ := List.nodup_cons.mp hnd
    have h1 := hF l List.mem_cons_self s hs (hg l List.mem_cons_self)
    have h2 := ih (fun k hk => hls k (List.mem_cons_of_mem _ hk)) hnd (fun k hk => hF k (List.mem_cons_of_mem _ hk)) (hs.of_lanesPut h1)
      fun k hk q => by
        rw [(h1.2.2.2 q k (hls k (List.mem_cons_of_mem _ hk))).2 fun h => hl (h.1 ▸ hk)]
        exact hg k (List.mem_cons_of_mem _ hk) q
    refine h1.trans h2 fun q k => ?_
    rw [List.mem_cons]
    tauto

end

theorem setBits_nodup (n m : Nat) : (setBits n m).Nodup := List.nodup_range.filter _

/-- The scoreboard entries of a word, with the lanes of a mask that still wait. -/
def outLeft (o : MemOp) (left : Nat) (out : List OutLane) : List OutLane :=
  (out.map fun x => if x.tid = o.tid ∧ some x.str = o.str ∧ x.seq = o.seq then { x with lanes := x.lanes &&& left } else x).filter
    fun x => decide (x.lanes ≠ 0)

theorem clearOut_eq {s : State} {o : MemOp} {n left : Nat} (hn : o.str = some n) (hl : ∀ x, lanesLeft s o x = x &&& left) :
    clearOut s o = s.modGrp o.tid.fid (o.member s) o.slot fun g => { g with out := outLeft o left g.out } := by
  have hn' : o.str.isNone = false := by rw [hn]; rfl
  unfold clearOut
  simp only [hn', Bool.false_eq_true, if_false, hl]
  rfl

/-- What a landing leaves: some lanes of some registers written, the accesses that are left, and on the scoreboard the lanes that
still wait. -/
theorem clearOut_lands {s u : State} {o : MemOp} {n left : Nat} {ops : List MemOp} {hit : Nat → Nat → Prop} {v : Nat → Nat → Word32}
    (hn : o.str = some n) (hput : LanesPut s u o.tid.fid (o.member s) o.slot hit v)
    (hl : ∀ x, lanesLeft { u with ops := ops } o x = x &&& left) :
    let t := clearOut { u with ops := ops } o
    t = { s with ops := ops, groups := t.groups }
      ∧ (∀ f k j, (f, k, j) ≠ (o.tid.fid, o.member s, o.slot) → t.grp f k j = s.grp f k j)
      ∧ (let h := t.grp o.tid.fid (o.member s) o.slot
         h = { s.grp o.tid.fid (o.member s) o.slot with v := h.v, out := h.out } ∧ StillOut (s.grp o.tid.fid (o.member s) o.slot) h o left
         ∧ ∀ q l, l < 32 → (hit q l → h.laneOf q l = v q l)
           ∧ (¬hit q l → h.laneOf q l = (s.grp o.tid.fid (o.member s) o.slot).laneOf q l)) := by
  obtain ⟨hrest, hne, hg, hlanes⟩ := hput
  have hm : o.member { u with ops := ops } = o.member s := by rw [hrest]; rfl
  intro t
  have ht : t = _ := clearOut_eq hn hl
  rw [hm] at ht
  refine ⟨?_, fun f k j hk => ?_, ?_⟩
  · rw [ht, hrest]
    rfl
  · rw [ht, grp_modGrp_ne _ _ hk]
    exact hne f k j hk
  · intro h
    have hh : h = _ := (congrArg (fun x => x.grp o.tid.fid (o.member s) o.slot) ht).trans (State.grp_modGrp_self ..)
    have hu : State.grp { u with ops := ops } o.tid.fid (o.member s) o.slot = u.grp o.tid.fid (o.member s) o.slot := rfl
    rw [hu, hg] at hh
    refine ⟨by rw [hh], by rw [hh]; rfl, fun q l hl32 => ?_⟩
    rw [hh]
    exact hlanes q l hl32

/-! ### The landing of a read that has performed (R42, R147, R151) -/

/-- The lanes that take a result now. -/
def takenLanes (s : State) (o : MemOp) : Nat :=
  match o.dest with
  | .lane _ l _ _ => 2 ^ l
  | d => someLanes s d.lanes

/-- One lane takes a result. -/
def landLane (o : MemOp) (m : Nat) (mates : List MemOp) (s : State) (l : Nat) : State :=
  match o.dest, o.got with
  | .lane sl _ r w, some bs => landRegs s o.tid.fid m sl r l (widthRegs w bs)
  | .bcast sl _ r w, some bs => landRegs s o.tid.fid m sl r l (widthRegs w bs)
  | .tile sl _ r e row _, _ =>
    let k := r + row * e / 4
    let ps := mates.filterMap fun x => match x.dest, x.got with
      | .tile _ _ _ _ row pos, some bs => some (row, pos, bs)
      | _, _ => none
    landReg s o.tid.fid m sl k l (tileWord e l ((s.grp o.tid.fid m sl).laneOf k l) ps)
  | _, _ => s

/-- The accesses that are left once some lanes of their results have landed. -/
def opsLeft (mates : List MemOp) (took : Nat) (ops : List MemOp) : List MemOp :=
  (ops.map fun e => if !(mates.any fun x => decide (x.id = e.id)) then e
    else if (e.dest.left took).lanes = 0 then { e with dest := .none, got := none } else { e with dest := e.dest.left took }).filter
    fun e => !((mates.any fun x => decide (x.id = e.id)) && e.got.isNone && !e.deed.writes)

theorem landSpread_eq (s : State) (o : MemOp) : landSpread s o = if (spreadMates s o).any fun e => e.got.isNone then s
    else
      let t := (setBits 32 (takenLanes s o)).foldl (landLane o (o.member s) (spreadMates s o)) s
      clearOut { t with ops := opsLeft (spreadMates s o) (takenLanes s o) t.ops } o := rfl

theorem testBit_setBits {n k : Nat} (hk : k < 32) : k ∈ setBits 32 n ↔ n.testBit k = true := by
  rw [mem_setBits]
  exact and_iff_right hk

theorem someLanes_and (s : State) (mask : Nat) : someLanes s mask &&& mask = someLanes s mask := by
  unfold someLanes
  split
  · exact Nat.and_self _
  · rw [Nat.and_right_comm, Nat.and_self]

/-- The register of a value that a lane takes, by the width code (R148). -/
def widthValue (n w : Nat) (bs : List Byte) : Nat :=
  if w = 1 ∨ w = 3 then ((BitVec.ofNat (8 * n) (leNat bs)).signExtend 32).toNat else leNat bs

def widthSpan (w : Nat) : Nat := if w = 5 then 2 else if w = 6 then 4 else 1

theorem widthRegs_length (w : Nat) (bs : List Byte) : (widthRegs w bs).length = widthSpan w := by
  unfold widthRegs widthSpan
  split <;> simp_all

theorem sextInt_eq_toInt (w x : Nat) : sextInt x w = (BitVec.ofNat w x).toInt := by
  rw [BitVec.toInt, BitVec.toNat_ofNat]
  rfl

/-- The sign extension of a byte or a halfword to a register (R148). -/
theorem ofNat_truncNat_sextInt (w x : Nat) : BitVec.ofNat 32 (truncNat (sextInt x w) 32) = (BitVec.ofNat w x).signExtend 32 := by
  apply BitVec.eq_of_toNat_eq
  rw [BitVec.toNat_ofNat, Nat.mod_eq_of_lt (truncNat_lt _ 32), BitVec.signExtend, BitVec.toNat_ofInt, ← sextInt_eq_toInt]
  rfl

theorem widthRegs_getD {w n : Nat} (hw : w ≤ 6) (hn : n = [1, 1, 2, 2, 4, 8, 16].getD w 4) (bs : List Byte) {k : Nat} (hk : k < widthSpan w) :
    (widthRegs w bs).getD k 0 = BitVec.ofNat 32 (widthValue n w bs / 2 ^ (32 * k)) := by
  have hone (y : BitVec 32) : y = BitVec.ofNat 32 (y.toNat / 2 ^ (32 * 0)) := by simp
  have hzero (hs : widthSpan w = 1) : k = 0 := by omega
  match w, hw with
  | 0, _ | 2, _ | 4, _ =>
    obtain rfl := hzero rfl
    exact congrArg (BitVec.ofNat 32) (Nat.div_one _).symm
  | 1, _ =>
    obtain rfl := hzero rfl
    subst hn
    exact (ofNat_truncNat_sextInt 8 _).trans (hone _)
  | 3, _ =>
    obtain rfl := hzero rfl
    subst hn
    exact (ofNat_truncNat_sextInt 16 _).trans (hone _)
  | 5, _ =>
    match k, hk with
    | 0, _ => exact congrArg (BitVec.ofNat 32) (Nat.div_one _).symm
    | 1, _ => rfl
  | 6, _ =>
    match k, hk with
    | 0, _ => exact congrArg (BitVec.ofNat 32) (Nat.div_one _).symm
    | 1, _ | 2, _ | 3, _ => rfl

/-- The lanes of one that take a value of a width code. -/
theorem landRegs_width {s : State} {fid m slot r l n w : Nat} {bs : List Byte} (hs : Quiet s fid m slot) (hw : w ≤ 6)
    (hn : n = [1, 1, 2, 2, 4, 8, 16].getD w 4) :
    LanesPut s (landRegs s fid m slot r l (widthRegs w bs)) fid m slot (fun q k => k = l ∧ r ≤ q ∧ q < r + widthSpan w)
      fun q _ => BitVec.ofNat 32 (widthValue n w bs / 2 ^ (32 * (q - r))) := by
  have h := landRegs_put (v := fun q _ => BitVec.ofNat 32 (widthValue n w bs / 2 ^ (32 * (q - r)))) hs (r := r) (l := l) (xs := widthRegs w bs)
    fun k hk => by
      rw [widthRegs_length] at hk
      rw [widthRegs_getD hw hn bs hk, Nat.add_sub_cancel_left]
  rwa [widthRegs_length] at h

theorem spreadMates_single {s : State} {o : MemOp} (h : s.ops = [o]) : spreadMates s o = [o] := by
  rw [spreadMates, h, List.filter_cons_of_pos (by simp), List.filter_nil]

/-- The exec of a landing. -/
theorem execVariableResultLand_lands {s : State} {o : MemOp} {n : Nat} (hf : findOp s o.id = some o) (hn : o.str = some n)
    (hl : (s.flk o.tid.fid).resident = true) (hm : o.made ≠ none) (hd : o.dest ≠ .none) (hg : o.got ≠ none) :
    exec (.variableResultLand o.id) s = .next (landSpread s o) := by
  have he : exec (.variableResultLand o.id) s = .next (progressOp s o) :=
    execVariableResultLand_goes hf (by rw [hn]; exact Option.some_ne_none n) hd hl
  obtain ⟨k, hk⟩ := Option.ne_none_iff_exists'.mp hm
  rw [he]
  simp only [progressOp, hk, Option.ne_none_iff_isSome.mp hg, if_true]

/-- A landing: the lanes of a mask take values in some registers, and of the accesses and of the scoreboard's lanes some are left. -/
def Lands (s : State) (o : MemOp) (took left : Nat) (ops : List MemOp) (hit : Nat → Prop) (v : Nat → Nat → Word32) : Prop :=
  ∃ t, exec (.variableResultLand o.id) s = .next t
    ∧ t = { s with ops := ops, groups := t.groups }
    ∧ (∀ f k j, (f, k, j) ≠ (o.tid.fid, o.member s, o.slot) → t.grp f k j = s.grp f k j)
    ∧ (let h := t.grp o.tid.fid (o.member s) o.slot
       h = { s.grp o.tid.fid (o.member s) o.slot with v := h.v, out := h.out } ∧ StillOut (s.grp o.tid.fid (o.member s) o.slot) h o left
       ∧ ∀ q l, l < 32 → (took.testBit l = true → hit q → h.laneOf q l = v q l)
         ∧ (took.testBit l = false ∨ ¬hit q → h.laneOf q l = (s.grp o.tid.fid (o.member s) o.slot).laneOf q l))

/-- A landing, by what each of its lanes takes. -/
theorem landSpread_lands {s : State} {o : MemOp} {n took left : Nat} {ops : List MemOp} {hit : Nat → Prop} {v : Nat → Nat → Word32}
    (he : exec (.variableResultLand o.id) s = .next (landSpread s o)) (hn : o.str = some n) (hq : Quiet s o.tid.fid (o.member s) o.slot)
    (hg : ((spreadMates s o).any fun e => e.got.isNone) = false) (ht : takenLanes s o = took)
    (hF : ∀ l < 32, ∀ u, Quiet u o.tid.fid (o.member s) o.slot →
      (∀ q, (u.grp o.tid.fid (o.member s) o.slot).laneOf q l = (s.grp o.tid.fid (o.member s) o.slot).laneOf q l) →
      LanesPut u (landLane o (o.member s) (spreadMates s o) u l) o.tid.fid (o.member s) o.slot (fun q k => k = l ∧ hit q) v)
    (hops : opsLeft (spreadMates s o) took s.ops = ops) (hl : ∀ x, lanesLeft { s with ops := ops } o x = x &&& left) :
    Lands s o took left ops hit v := by
  have hput : LanesPut s ((setBits 32 took).foldl (landLane o (o.member s) (spreadMates s o)) s) o.tid.fid (o.member s) o.slot
      (fun q k => k ∈ setBits 32 took ∧ hit q) v :=
    foldl_lanes (g := s.grp o.tid.fid (o.member s) o.slot) _ _ (fun l h => (mem_setBits.mp h).1) (setBits_nodup 32 took)
      (fun l h => hF l (mem_setBits.mp h).1) hq fun _ _ _ => rfl
  have hs : landSpread s o = clearOut { (setBits 32 took).foldl (landLane o (o.member s) (spreadMates s o)) s with ops := ops } o := by
    rw [landSpread_eq, hg, if_neg Bool.false_ne_true, ht, ← hops]
    dsimp only
    rw [congrArg State.ops hput.1]
  obtain ⟨hrest, hne, hgrp, hout, hlanes⟩ := clearOut_lands (ops := ops) (left := left) hn hput hl
  rw [← hs] at hrest hne hgrp hout hlanes
  refine ⟨_, he, hrest, hne, hgrp, hout, fun q l hl32 => ⟨fun hb hh => ?_, fun hb => ?_⟩⟩
  · exact (hlanes q l hl32).1 ⟨(testBit_setBits hl32).mpr hb, hh⟩
  · refine (hlanes q l hl32).2 fun h => ?_
    rw [testBit_setBits hl32] at h
    rcases hb with hb | hb
    · rw [h.1] at hb
      cases hb
    · exact hb h.2

/-- The lanes of a mask that another has not taken. -/
def lanesRest (mask took : Nat) : Nat := mask &&& (took ^^^ (2 ^ 32 - 1))

/-- An access whose result has landed everywhere keeps no lane waiting. -/
theorem lanesLeft_none (s : State) (o : MemOp) (ops : List MemOp) (h : ∀ e ∈ ops, e.dest = .none) (x : Nat) :
    lanesLeft { s with ops := ops } o x = x &&& 0 := by
  rw [Nat.and_zero, lanesLeft]
  generalize hl : List.filter _ _ = l
  have hl' : ∀ e ∈ l, e.dest = .none := fun e he => h e (List.mem_of_mem_filter (hl ▸ he))
  clear hl
  induction l with
  | nil => rfl
  | cons e l ih =>
    rw [List.foldl_cons, hl' e List.mem_cons_self]
    exact ih fun y hy => hl' y (List.mem_cons_of_mem _ hy)

/-- Loads of which some lanes have landed: all of them leave once no lane is left, else each keeps the lanes that are. -/
theorem opsLeft_loads {mates : List MemOp} {took left : Nat} (d : MemOp → Dest) {ops : List MemOp}
    (h : ∀ e ∈ ops, e ∈ mates ∧ e.deed = .load ∧ e.got ≠ none ∧ e.dest.left took = d e ∧ (d e).lanes = left) :
    opsLeft mates took ops = if left = 0 then [] else ops.map fun e => { e with dest := d e } := by
  induction ops with
  | nil => simp [opsLeft]
  | cons e ops ih =>
    obtain ⟨hmem, hload, hgot, hleft, hlanes⟩ := h e List.mem_cons_self
    have hmine : (mates.any fun x => decide (x.id = e.id)) = true := List.any_eq_true.mpr ⟨e, hmem, decide_eq_true rfl⟩
    have hcons : opsLeft mates took (e :: ops) = opsLeft mates took [e] ++ opsLeft mates took ops := by
      rw [opsLeft, List.map_cons, ← List.singleton_append, List.filter_append]
      rfl
    have hone : opsLeft mates took [e] = if left = 0 then [] else [{ e with dest := d e }] := by
      rw [opsLeft, List.map_singleton, hmine, hleft, hlanes, Bool.not_true, if_neg Bool.false_ne_true]
      split
      · simp [hmine, hload, Deed.writes]
      · simp [Option.ne_none_iff_isSome.mp hgot]
    rw [hcons, hone, ih fun y hy => h y (List.mem_cons_of_mem _ hy)]
    split <;> rfl

section
variable {s : State} {o : MemOp} {n : Nat} (hf : findOp s o.id = some o) (hn : o.str = some n) (hres : (s.flk o.tid.fid).resident = true)
  (hm : o.made ≠ none) (hq : Quiet s o.tid.fid (o.member s) o.slot) (hops : s.ops = [o]) {bs : List Byte} (hgot : o.got = some bs)
include hf hn hres hm hq hops hgot

/-- The one lane of a plain load or an atomic (R42, R148). -/
theorem lands_lane {l r w : Nat} (hd : o.dest = .lane o.slot l r w) (hw : w ≤ 6) (hwn : o.n = [1, 1, 2, 2, 4, 8, 16].getD w 4) :
    Lands s o (2 ^ l) 0 (if o.deed.writes then [{ o with dest := .none, got := none }] else []) (fun q => r ≤ q ∧ q < r + widthSpan w)
      fun q _ => BitVec.ofNat 32 (widthValue o.n w bs / 2 ^ (32 * (q - r))) := by
  have hmates := spreadMates_single hops
  have he := execVariableResultLand_lands hf hn hres hm (by rw [hd]; exact fun h => nomatch h) (by rw [hgot]; exact Option.some_ne_none _)
  refine landSpread_lands he hn hq (by rw [hmates]; simp [hgot]) (by rw [takenLanes, hd]) (fun k _ u hu _ => ?_) ?_ (lanesLeft_none s o _ ?_)
  · simp only [landLane, hd, hgot]
    exact landRegs_width hu hw hwn
  · rw [hmates, hops]
    cases hw : o.deed.writes <;> simp [opsLeft, hd, Dest.left, Dest.lanes, Nat.testBit_two_pow_self, hw]
  · intro e hmem
    split at hmem
    · rw [List.mem_singleton.mp hmem]
    · cases hmem

/-- Some of the lanes of an LDB (R147). -/
theorem lands_bcast {mask r w : Nat} (hd : o.dest = .bcast o.slot mask r w) (hw : w ≤ 6) (hwn : o.n = [1, 1, 2, 2, 4, 8, 16].getD w 4)
    (hload : o.deed = .load) :
    Lands s o (someLanes s mask) (lanesRest mask (someLanes s mask))
      (if lanesRest mask (someLanes s mask) = 0 then [] else [{ o with dest := .bcast o.slot (lanesRest mask (someLanes s mask)) r w }])
      (fun q => r ≤ q ∧ q < r + widthSpan w) fun q _ => BitVec.ofNat 32 (widthValue o.n w bs / 2 ^ (32 * (q - r))) := by
  have hmates := spreadMates_single hops
  have he := execVariableResultLand_lands hf hn hres hm (by rw [hd]; exact fun h => nomatch h) (by rw [hgot]; exact Option.some_ne_none _)
  refine landSpread_lands he hn hq (by rw [hmates]; simp [hgot]) (by rw [takenLanes, hd]; rfl) (fun k _ u hu _ => ?_) ?_ fun x => ?_
  · simp only [landLane, hd, hgot]
    exact landRegs_width hu hw hwn
  · rw [hmates, hops]
    refine opsLeft_loads (fun _ => .bcast o.slot (lanesRest mask (someLanes s mask)) r w) fun e he => ?_
    rw [List.mem_singleton.mp he]
    exact ⟨List.mem_singleton_self o, hload, by rw [hgot]; exact Option.some_ne_none bs, by rw [hd]; rfl, rfl⟩
  · split
    · next h0 =>
      rw [h0]
      exact lanesLeft_none s o [] (fun e he => nomatch he) x
    · simp [lanesLeft]

end

/-! ### A register of a tile (R151) -/

/-- A byte of a little-endian number (R3). -/
theorem leNat_byte {xs : List Byte} {k : Nat} (h : k < xs.length) : leNat xs / 256 ^ k % 256 = (xs.getD k 0).toNat := by
  induction xs generalizing k with
  | nil => exact absurd h (Nat.not_lt_zero k)
  | cons x xs ih =>
    have hx := x.isLt
    cases k with
    | zero => rw [leNat, List.getD_cons_zero, pow_zero, Nat.div_one]; omega
    | succ k =>
      rw [leNat, List.getD_cons_succ, ← ih (Nat.lt_of_succ_lt_succ h), pow_succ', ← Nat.div_div_eq_div_mul]
      congr 2
      omega

/-- The bytes of a register of which some have been replaced. -/
theorem putField_byte (x : Word32) {e row v j : Nat} (he : e = 1 ∨ e = 2 ∨ e = 4) (hv : v < 256 ^ e) (hj : j < 4) :
    (putField x (8 * (row * e % 4)) (8 * e) v).toNat / 256 ^ j % 256
      = if row * e % 4 ≤ j ∧ j < row * e % 4 + e then v / 256 ^ (j - row * e % 4) % 256 else x.toNat / 256 ^ j % 256 := by
  have hx := x.isLt
  have hcase : (e = 1 ∧ row * e % 4 < 4) ∨ (e = 2 ∧ (row * e % 4 = 0 ∨ row * e % 4 = 2)) ∨ (e = 4 ∧ row * e % 4 = 0) := by
    rcases he with rfl | rfl | rfl <;> omega
  generalize row * e % 4 = sh at hcase ⊢
  have hsh : sh + e ≤ 4 := by omega
  rw [putField, BitVec.toNat_ofNat, fld, Nat.shiftRight_eq_div_pow]
  clear he
  rcases hcase with ⟨rfl, h4⟩ | ⟨rfl, rfl | rfl⟩ | ⟨rfl, rfl⟩
  · interval_cases sh <;> interval_cases j <;> simp <;> omega
  · interval_cases j <;> simp <;> omega
  · interval_cases j <;> simp <;> omega
  · interval_cases j <;> simp <;> omega

/-- A piece of a row covers the element of a lane. -/
def pieceCovers (e l : Nat) (p : Nat × Nat × List Byte) : Bool := decide (p.2.1 ≤ e * l ∧ e * l + e ≤ p.2.1 + p.2.2.length)

theorem tileWord_eq (e l : Nat) (old : Word32) (ps : List (Nat × Nat × List Byte)) : tileWord e l old ps =
    (ps.filter (pieceCovers e l)).foldl (init := old) fun x p =>
      putField x (8 * (p.1 * e % 4)) (8 * e) (leNat ((p.2.2.drop (e * l - p.2.1)).take e)) := by
  rw [List.foldl_filter]
  simp only [tileWord, pieceCovers, decide_eq_true_eq]

/-- The pieces of a tile's register that have returned. -/
def tilePieces (mates : List MemOp) : List (Nat × Nat × List Byte) := mates.filterMap fun x => match x.dest, x.got with
  | .tile _ _ _ _ row pos, some bs => some (row, pos, bs)
  | _, _ => none

theorem tilePieces_eq {mates : List MemOp} {sl mask r e : Nat} {row pos : MemOp → Nat}
    (h : ∀ x ∈ mates, x.dest = .tile sl mask r e (row x) (pos x) ∧ x.got ≠ none) :
    tilePieces mates = mates.map fun x => (row x, pos x, x.got.getD []) := by
  rw [tilePieces, ← List.filterMap_eq_map]
  refine List.filterMap_congr fun x hx => ?_
  obtain ⟨hd, hg⟩ := h x hx
  obtain ⟨bs, hbs⟩ := Option.ne_none_iff_exists'.mp hg
  simp only [hd, hbs, Function.comp_apply, Option.getD_some]

/-- Accesses that all keep the same lanes of a tile, one of them of the word and the group in question. -/
theorem lanesLeft_tiles {s : State} {o : MemOp} {ops : List MemOp} {sl left r e : Nat}
    (h : ∀ x ∈ ops, ∃ row pos, x.dest = .tile sl left r e row pos)
    (ho : ∃ x ∈ ops, x.tid = o.tid ∧ x.str = o.str ∧ x.seq = o.seq ∧ x.pid = o.pid ∧ x.slot = o.slot ∧ x.pos = o.pos) (lanes : Nat) :
    lanesLeft { s with ops := ops } o lanes = lanes &&& left := by
  rw [lanesLeft]
  generalize hl : List.filter _ _ = l
  have hall : ∀ x ∈ l, ∃ row pos, x.dest = .tile sl left r e row pos := fun x hx => h x (List.mem_of_mem_filter (hl ▸ hx))
  obtain ⟨y, hy, h1, h2, h3, h4, h5, h6⟩ := ho
  have hmem : y ∈ l := by
    rw [← hl]
    exact List.mem_filter.mpr ⟨hy, by simp [h1, h2, h3, h4, h5, h6]⟩
  clear hl
  have hfold : ∀ acc, l.foldl (fun acc e => match e.dest with
      | .lane _ l _ _ => acc ||| (lanes &&& 2 ^ l)
      | .bcast _ m _ _ => acc ||| (lanes &&& m)
      | .tile _ m _ _ _ _ => acc ||| (lanes &&& m)
      | _ => acc) acc = if l = [] then acc else acc ||| (lanes &&& left) := by
    clear hmem
    induction l with
    | nil => exact fun _ => rfl
    | cons x l ih =>
      intro acc
      obtain ⟨row, pos, hx⟩ := hall x List.mem_cons_self
      rw [List.foldl_cons, hx, ih fun z hz => hall z (List.mem_cons_of_mem _ hz), if_neg (List.cons_ne_nil x l)]
      split
      · rfl
      · rw [Nat.or_assoc, Nat.or_self]
  have := hfold 0
  rw [if_neg (List.ne_nil_of_mem hmem), Nat.zero_or] at this
  exact this

theorem findOp_mem {s : State} {id : Nat} {o : MemOp} (h : findOp s id = some o) : o ∈ s.ops := List.mem_of_find?_eq_some h

/-- A register of a tile, every piece of which has returned (R42, R151). -/
theorem lands_tile {s : State} {o : MemOp} {n mask r e ro po : Nat} {row pos : MemOp → Nat} (hf : findOp s o.id = some o)
    (hn : o.str = some n) (hres : (s.flk o.tid.fid).resident = true) (hm : o.made ≠ none) (hq : Quiet s o.tid.fid (o.member s) o.slot)
    (hd : o.dest = .tile o.slot mask r e ro po) (hmates : spreadMates s o = s.ops)
    (hall : ∀ x ∈ s.ops, x.dest = .tile o.slot mask r e (row x) (pos x) ∧ x.deed = .load ∧ x.got ≠ none) :
    Lands s o (someLanes s mask) (lanesRest mask (someLanes s mask))
      (if lanesRest mask (someLanes s mask) = 0 then []
        else s.ops.map fun x => { x with dest := .tile o.slot (lanesRest mask (someLanes s mask)) r e (row x) (pos x) })
      (fun q => q = r + ro * e / 4)
      fun q l => tileWord e l ((s.grp o.tid.fid (o.member s) o.slot).laneOf q l) (tilePieces s.ops) := by
  have ho : o ∈ s.ops := findOp_mem hf
  have he := execVariableResultLand_lands hf hn hres hm (by rw [hd]; exact fun h => nomatch h) (hall o ho).2.2
  refine landSpread_lands he hn hq ?_ (by rw [takenLanes, hd]; rfl) (fun l _ u hu hold => ?_) ?_ fun x => ?_
  · rw [hmates, List.any_eq_false]
    intro x hx
    rw [← Option.not_isSome, Option.ne_none_iff_isSome.mp (hall x hx).2.2]
    exact Bool.false_ne_true
  · rw [hmates]
    have hstep : landLane o (o.member s) s.ops u l = landReg u o.tid.fid (o.member s) o.slot (r + ro * e / 4) l
        (tileWord e l ((u.grp o.tid.fid (o.member s) o.slot).laneOf (r + ro * e / 4) l) (tilePieces s.ops)) := by
      unfold landLane
      rw [hd]
      rfl
    rw [hstep]
    exact landReg_put hu (by rw [hold])
  · rw [hmates]
    refine opsLeft_loads (fun x => .tile o.slot (lanesRest mask (someLanes s mask)) r e (row x) (pos x)) fun x hx => ?_
    obtain ⟨hxd, hxl, hxg⟩ := hall x hx
    exact ⟨hx, hxl, hxg, by rw [hxd]; rfl, rfl⟩
  · split
    · next h0 =>
      rw [h0]
      exact lanesLeft_none s o [] (fun e he => nomatch he) x
    · refine lanesLeft_tiles (sl := o.slot) (r := r) (e := e) (fun y hy => ?_) ?_ x
      · obtain ⟨z, -, rfl⟩ := List.mem_map.mp hy
        exact ⟨row z, pos z, rfl⟩
      · exact ⟨_, List.mem_map.mpr ⟨o, ho, rfl⟩, rfl, rfl, rfl, rfl, rfl, rfl⟩

/-- What a lane of a tile's register takes: where no piece covers it, its old value; where one does, that piece's bytes. -/
theorem tileWord_uncovered {ops : List MemOp} {sl mask r e l : Nat} {row pos : MemOp → Nat}
    (hall : ∀ x ∈ ops, x.dest = .tile sl mask r e (row x) (pos x) ∧ x.got ≠ none)
    (h : ∀ x ∈ ops, ¬(pos x ≤ e * l ∧ e * l + e ≤ pos x + (x.got.getD []).length)) (old : Word32) :
    tileWord e l old (tilePieces ops) = old := by
  rw [tileWord_eq, tilePieces_eq hall, List.filter_map, List.filter_eq_nil_iff.mpr]
  · rfl
  · intro x hx
    rw [Function.comp_apply, pieceCovers, decide_eq_true_eq]
    exact h x hx

theorem tileWord_covered {ops : List MemOp} {sl mask r e l : Nat} {row pos : MemOp → Nat}
    (hall : ∀ x ∈ ops, x.dest = .tile sl mask r e (row x) (pos x) ∧ x.got ≠ none) {x : MemOp}
    (h : ops.filter (fun y => decide (pos y ≤ e * l) && decide (e * l + e ≤ pos y + (y.got.getD []).length)) = [x]) (old : Word32) :
    tileWord e l old (tilePieces ops)
      = putField old (8 * (row x * e % 4)) (8 * e) (leNat (((x.got.getD []).drop (e * l - pos x)).take e)) := by
  have hf : ops.filter (pieceCovers e l ∘ fun x => (row x, pos x, x.got.getD [])) = [x] := by
    rw [← h]
    exact List.filter_congr fun y _ => Bool.decide_and _ _
  rw [tileWord_eq, tilePieces_eq hall, List.filter_map, hf]
  rfl

/-- The bytes of a covered element, and of the rest of its register. -/
theorem tileWord_byte {ops : List MemOp} {sl mask r e l : Nat} {row pos : MemOp → Nat} (he : e = 1 ∨ e = 2 ∨ e = 4)
    (hall : ∀ x ∈ ops, x.dest = .tile sl mask r e (row x) (pos x) ∧ x.got ≠ none) {x : MemOp}
    (h : ops.filter (fun y => decide (pos y ≤ e * l) && decide (e * l + e ≤ pos y + (y.got.getD []).length)) = [x]) (old : Word32) {j : Nat}
    (hj : j < 4) : (tileWord e l old (tilePieces ops)).toNat / 256 ^ j % 256
      = if row x * e % 4 ≤ j ∧ j < row x * e % 4 + e then ((x.got.getD []).getD (e * l - pos x + (j - row x * e % 4)) 0).toNat
        else old.toNat / 256 ^ j % 256 := by
  have hcover : pos x ≤ e * l ∧ e * l + e ≤ pos x + (x.got.getD []).length := by
    have hx := (List.mem_filter.mp (h ▸ List.mem_singleton_self x)).2
    rwa [Bool.and_eq_true, decide_eq_true_eq, decide_eq_true_eq] at hx
  have hlen : (((x.got.getD []).drop (e * l - pos x)).take e).length = e := by
    rw [List.length_take, List.length_drop]
    omega
  have hlt := leNat_lt (((x.got.getD []).drop (e * l - pos x)).take e)
  rw [hlen] at hlt
  rw [tileWord_covered hall h, putField_byte _ he hlt hj]
  split
  · next hsh =>
    have hk : j - row x * e % 4 < e := by omega
    rw [leNat_byte (hlen.symm ▸ hk), List.getD_eq_getElem?_getD, List.getElem?_take_of_lt hk, List.getElem?_drop, ← List.getD_eq_getElem?_getD]
  · rfl

theorem resultsLand : ResultsLand := by
  intro s o n hf hn hres hm i fid m g htail hfix lands value span part rest
  have hq : Quiet s o.tid.fid (o.member s) o.slot := ⟨htail, hfix⟩
  refine ⟨?_, ?_, ?_⟩
  · intro bs l r w hops hgot hd _ hw _ hwn
    exact lands_lane hf hn hres hm hq hops hgot hd hw hwn
  · intro bs mask r w hops hgot hd _ hw _ hwn hload
    exact ⟨_, someLanes_and s mask, lands_bcast hf hn hres hm hq hops hgot hd hw hwn hload⟩
  · intro mask r e row pos hd _
    refine ⟨fun hgot ⟨x, hx, hxg⟩ => ?_, fun rw ps hmates _ _ he hall => ?_⟩
    · refine (execVariableResultLand_lands hf hn hres hm (by rw [hd]; exact fun h => nomatch h) hgot).trans ?_
      rw [landSpread_eq, if_pos (List.any_eq_true.mpr ⟨x, hx, by rw [hxg]; rfl⟩)]
    · have hall' : ∀ x ∈ s.ops, x.dest = .tile o.slot mask r e (rw x) (ps x) ∧ x.got ≠ none := fun x hx => ⟨(hall x hx).1, (hall x hx).2.2⟩
      refine ⟨_, someLanes_and s mask, _, lands_tile hf hn hres hm hq hd hmates hall, fun q l _ _ => ?_⟩
      refine ⟨fun hnone => tileWord_uncovered hall' hnone _, fun x hx => ?_⟩
      intro sh j hj
      exact tileWord_byte he hall' hx _ hj

/-! ### Captures that land (R42, R235, R282, R283) -/

/-- What a capture takes with it of the scoreboard: the entries of its own word. -/
def ofCapture (e : TaEnt) (x : OutLane) : Bool := decide (x.tid = e.tid) && decide (x.str = e.str) && decide (x.seq = e.word.seq)

theorem ofCapture_iff {e : TaEnt} {x : OutLane} : ofCapture e x = true ↔ x.tid = e.tid ∧ x.str = e.str ∧ x.seq = e.word.seq := by
  rw [ofCapture, Bool.and_eq_true, Bool.and_eq_true, decide_eq_true_eq, decide_eq_true_eq, decide_eq_true_eq, and_assoc]

/-- A capture lands in the lanes of one group. -/
def captureIn (pid m : Nat) (e : TaEnt) (bs : List Byte) (s : State) (g : Nat × Nat) : State :=
  let old := (s.grp e.tid.fid m g.1).row e.word.x.dN
  let free := !((s.grp e.tid.fid m g.1).out.any fun o => ofCapture e o && o.named)
  let s := (setBits 32 g.2).foldl
    (fun s l => landReg s e.tid.fid m g.1 e.word.x.dN l (BitVec.ofNat 32 (leNat ((bs.drop (4 * l)).take 4)))) s
  s.modGrp e.tid.fid m g.1 fun gr => { gr with
    tail := if free then gr.tail.filter (fun f => decide (s.now < f.lands)) ++ [⟨e.word.x.dN, g.2, cyclesAhead s pid 1, old, e.word.seq⟩]
      else gr.tail
    out := gr.out.filter fun o => !ofCapture e o }

theorem landCapture_eq (s : State) (pid : Nat) (e : TaEnt) : landCapture s pid e =
    e.masks.foldl (captureIn pid ((s.flk e.tid.fid).clus.idxOf pid) e (taResult (s.clu pid).ta.latch e.word.x.m e.word.x.cN)) s := rfl

/-- What a capture makes of a group. -/
def Captured (e : TaEnt) (bs : List Byte) (mask : Nat) (g h : Group) : Prop :=
  (∀ l q, l < 32 → h.laneOf q l
      = if mask.testBit l ∧ q = e.word.x.dN then BitVec.ofNat 32 (leNat ((bs.drop (4 * l)).take 4)) else g.laneOf q l)
    ∧ (∀ x ∈ h.out, ¬(x.tid = e.tid ∧ x.str = e.str ∧ x.seq = e.word.seq))
    ∧ ((∃ x ∈ g.out, (x.tid = e.tid ∧ x.str = e.str ∧ x.seq = e.word.seq) ∧ x.named = true) → h.tail = [])
    ∧ ((∀ x ∈ g.out, (x.tid = e.tid ∧ x.str = e.str ∧ x.seq = e.word.seq) → x.named = false) →
        ∃ f, h.tail = [f] ∧ f.code = e.word.x.dN ∧ f.mask = mask ∧ f.old = g.row e.word.x.dN)

theorem captureIn_captured {s : State} {pid m : Nat} {e : TaEnt} {bs : List Byte} {g : Nat × Nat} (hq : Quiet s e.tid.fid m g.1) :
    captureIn pid m e bs s g = { s with groups := (captureIn pid m e bs s g).groups }
      ∧ (∀ f k j, (f, k, j) ≠ (e.tid.fid, m, g.1) → (captureIn pid m e bs s g).grp f k j = s.grp f k j)
      ∧ Captured e bs g.2 (s.grp e.tid.fid m g.1) ((captureIn pid m e bs s g).grp e.tid.fid m g.1) := by
  obtain ⟨hrest, hne, hgrp, hlanes⟩ := foldl_lanes (g := s.grp e.tid.fid m g.1) (row := fun q => q = e.word.x.dN)
    (v := fun _ l => BitVec.ofNat 32 (leNat ((bs.drop (4 * l)).take 4)))
    (fun s l => landReg s e.tid.fid m g.1 e.word.x.dN l (BitVec.ofNat 32 (leNat ((bs.drop (4 * l)).take 4))))
    (setBits 32 g.2) (fun l h => (mem_setBits.mp h).1) (setBits_nodup 32 g.2) (fun l _ u hu _ => landReg_put hu rfl) hq fun _ _ _ => rfl
  unfold captureIn
  dsimp only
  generalize (setBits 32 g.2).foldl _ s = u at hrest hne hgrp hlanes ⊢
  refine ⟨by rw [hrest]; rfl, fun f k j hk => (grp_modGrp_ne _ _ hk).trans (hne f k j hk), ?_⟩
  rw [State.grp_modGrp_self, hgrp, hq.1]
  refine ⟨fun l q hl => ?_, fun x hx => ?_, fun ⟨x, hx, hmine, hnamed⟩ => ?_, fun hfree => ?_⟩
  · by_cases h : g.2.testBit l = true ∧ q = e.word.x.dN
    · exact ((hlanes q l hl).1 ⟨(testBit_setBits hl).mpr h.1, h.2⟩).trans (if_pos h).symm
    · exact ((hlanes q l hl).2 fun hh => h ⟨(testBit_setBits hl).mp hh.1, hh.2⟩).trans (if_neg h).symm
  · rw [← ofCapture_iff]
    simpa using (List.mem_filter.mp hx).2
  · have hany : ((s.grp e.tid.fid m g.1).out.any fun o => ofCapture e o && o.named) = true :=
      List.any_eq_true.mpr ⟨x, hx, by rw [ofCapture_iff.mpr hmine, hnamed]; rfl⟩
    rw [hany]
    rfl
  · have hany : ((s.grp e.tid.fid m g.1).out.any fun o => ofCapture e o && o.named) = false := by
      rw [List.any_eq_false]
      intro x hx h
      rw [Bool.and_eq_true, ofCapture_iff] at h
      exact absurd h.2 (by rw [hfree x hx h.1]; exact Bool.false_ne_true)
    rw [hany]
    exact ⟨_, rfl, rfl, rfl, rfl⟩

/-- A capture lands in each group of its masks, and in no other. -/
theorem captures_captured {pid m : Nat} {e : TaEnt} {bs : List Byte} (gs : List (Nat × Nat)) (s : State) (hnd : (gs.map (·.1)).Nodup)
    (hq : ∀ g ∈ gs, Quiet s e.tid.fid m g.1) :
    gs.foldl (captureIn pid m e bs) s = { s with groups := (gs.foldl (captureIn pid m e bs) s).groups }
      ∧ (∀ g ∈ gs, Captured e bs g.2 (s.grp e.tid.fid m g.1) ((gs.foldl (captureIn pid m e bs) s).grp e.tid.fid m g.1))
      ∧ ∀ f k j, f ≠ e.tid.fid ∨ k ≠ m ∨ (∀ g ∈ gs, g.1 ≠ j) → (gs.foldl (captureIn pid m e bs) s).grp f k j = s.grp f k j := by
  induction gs generalizing s with
  | nil => exact ⟨rfl, fun _ h => (List.not_mem_nil h).elim, fun _ _ _ _ => rfl⟩
  | cons g gs ih =>
    rw [List.map_cons, List.nodup_cons] at hnd
    have hother : ∀ x ∈ gs, x.1 ≠ g.1 := fun x hx h => hnd.1 (List.mem_map.mpr ⟨x, hx, h⟩)
    obtain ⟨hrest, hne, hcap⟩ := captureIn_captured (pid := pid) (bs := bs) (hq g List.mem_cons_self)
    have hkeep : ∀ x ∈ gs, (captureIn pid m e bs s g).grp e.tid.fid m x.1 = s.grp e.tid.fid m x.1 := fun x hx =>
      hne _ _ _ fun h => hother x hx (Prod.mk.inj (Prod.mk.inj h).2).2
    obtain ⟨irest, icap, ine⟩ := ih (captureIn pid m e bs s g) hnd.2 fun x hx => by
      obtain ⟨htail, hpipe⟩ := hq x (List.mem_cons_of_mem _ hx)
      refine ⟨by rw [hkeep x hx, htail], ?_⟩
      rw [hrest]
      exact hpipe
    rw [List.foldl_cons]
    refine ⟨irest.trans (by rw [hrest]), fun x hx => ?_, fun f k j hk => ?_⟩
    · rcases List.mem_cons.mp hx with rfl | hx
      · rw [ine _ _ _ (.inr (.inr hother))]
        exact hcap
      · rw [← hkeep x hx]
        exact icap x hx
    · rw [ine f k j (hk.imp_right (Or.imp_right fun h x hx => h x (List.mem_cons_of_mem _ hx)))]
      refine hne f k j fun h => ?_
      obtain ⟨hf, hkj⟩ := Prod.mk.inj h
      obtain ⟨hm, hj⟩ := Prod.mk.inj hkj
      rcases hk with hk | hk | hk
      · exact hk hf
      · exact hk hm
      · exact hk g List.mem_cons_self hj.symm

/-- The entry at the head of a queue retires. -/
theorem retireTa_cons {s : State} {pid : Nat} {e : TaEnt} (h : (s.clu pid).ta.ents.head? = some e) : retireTa s pid =
    progress (modTa s pid fun a => { a with ents := (s.clu pid).ta.ents.drop 1, lastRet := some s.now }) (s.ctxOf e.tid) := by
  unfold retireTa
  cases hents : (s.clu pid).ta.ents with
  | nil =>
    rw [hents] at h
    cases h
  | cons y es =>
    rw [hents] at h
    cases h
    rfl

theorem capturesLand : CapturesLand := by
  intro s id pid e hf hdue hhead hnd _ fid m bs mine hquiet
  obtain ⟨hrest, hcap, hne⟩ := captures_captured (pid := pid) (bs := bs) e.masks s hnd hquiet
  have hland : landCapture s pid e = e.masks.foldl (captureIn pid m e bs) s := landCapture_eq s pid e
  rw [← hland] at hrest hcap hne
  have hexec : exec (.variableResultLand id) s = .next (retireTa (landCapture s pid e) pid) := by
    show execVariableResultLand id s = _
    simp only [execVariableResultLand, hf, hdue]
  generalize landCapture s pid e = u at hrest hcap hne hexec
  have hclu : ∀ p, u.clu p = s.clu p := fun p => by rw [hrest]; rfl
  rw [retireTa_cons ((congrArg (fun c => c.ta.ents.head?) (hclu pid)).trans hhead), hclu] at hexec
  have hctx : u.ctxOf e.tid = s.ctxOf e.tid := by rw [hrest]; rfl
  rw [hctx] at hexec
  refine ⟨_, hexec, ?_, ?_, fun p hp => ?_, hcap, hne⟩
  · rw [hrest]
    rfl
  · rw [modTa, State.clu_modClu_self, hclu, hrest]
  · rw [modTa, State.clu_modClu_ne _ _ hp, hclu]

/-- Settles O54: the arbiter's choice by the order of its keys, the end of a run and the landings by what each lane takes, and the
words LWAIT, LARR and TRL by their cases. -/
theorem runsAndResults : Obligations.RunsAndResults :=
  ⟨runStarts, runEnds, resultsReturn, resultsLand, capturesLand, laneBarriers, trailers⟩

end Sys2Proof.Results

end

section
/-! PROOFS. Encoding and decoding: each instruction's words as bytes and what the decoder reads from them; what the decoder accepts
has the words that were read (R28 to R35, R54). -/

namespace Sys2Proof.Laws.Coding
open Sys2Proof

/-- Every well-formed instruction that has words is decoded from them. -/
theorem statement (i : Instr) : Statement i :=
  Instr.rec
    add sub mul mulh mulhu div divu rem andR orR xorR shlR shrR sarR minR maxR slt sltu seq csel popc clz gexit sfadd sfsub sfmul sfmac sfmin
    sfmax sfcmp sfcvt jr callr sret trap fence icinv vqPop vqPeek barNew barExpect barArrive barWait barFree stagePut stageTake reelOpen
    reelShut reelPlay reelDrop strBind strSel strFree maskRd maskWr parkReplay unpark launch gatom pinSet pinClr addi andi ori xori shli shri
    sari slti movi insh sltiu srd swr pft addiLong andiLong oriLong xoriLong sltiLong sltiuLong moviLong inshLong pftLong ldgN8 ldgS8 ldgN16
    ldgS16 ldgN32 ldgS32 ldgB64 stgB8 stgB16 stgB32 stgB64 ldgN8Long ldgS8Long ldgN16Long ldgS16Long ldgN32Long ldgS32Long ldgB64Long
    stgB8Long stgB16Long stgB32Long stgB64Long beq bne blt bge bltu bgeu jmp call illegalInstruction laneWordEmit runStart iadd isub imul
    imulh imad imin imax iabs andLane orLane xorLane notLane shlLane shrLane rotl bfe bfi popcLane clzLane brev movLane iadd3 isad imulw
    imadw idp4 idp2 fadd fsub fmul ffma fmin fmax fabs fneg fdp2 fdp4 frnd cvt cvts cbd pack unpk icmp fcmp plop pmov sel lexit nop rcp rsq
    sqrt exp2 log2 sin cos cte ctld curveTableLoadFinish shfl vote ballot reduce scan bcast regroup uni ld st ldt ldb atom red lfence
    stashMap stashFlush stashDrop cp cp2d cpt cpg cpset qfence copyChunkStart copyChunkWrite copyChunkLand copyChunkFault mm mmy mzero mcbt
    codebookLoadFinish yokeLatchComplete matrixEntryStart matrixRetirement taWin taDly taMode taGo taCapt taClr taEntryStart taWindowEnd
    lwait larr trl idiv irem fdiv variableResultLand generatorResultArrival voteEntryPresent uniResultArrival reelPlayFeed boundaryTrap
    threadEnd tableWalk leaseGrant leaseExpiry homeWritePerform stashOwnershipGrant sectorFillLand stashRecall updateOnlyGrant
    updateOnlyCombine hostCxlMemAccess cxlCacheSnoop cxlerr cxlCompletionTimeout instructionFill pftTargetFill pinRehome pinClrWriteback
    inval invalAll migrate biasHost biasDev xlcmdFinish ttbaseWrite cqctlAbort cqctlResume deferredStageOperation barWaitTimeout bardoor
    watchdogReport load unload recordParse placementStep headAgeTick flockEnd voltageRampReachesTarget tokenFlitInject spendWindowRollover
    claimPost ashareWrite thallowUpdate sensorSample bankRefresh droopDetect droopRecovery coreRailClamp clampFloorEnd junctionTrip
    firmwareHeartbeatMiss preempt clear preemptionHalt sampleRecord stop dbgctlResume debugStop checkScoreboardStop dbgdataWrite srseedWrite
    exmaskWrite leaseWrite sampctlWrite registerWrite packageReset railsInRegulation firstConfigAccess controllerRamWrite start
    firmwareStartTimeout train trainComplete release haltfw contextCreation clockStepDown    i

end Sys2Proof.Laws.Coding

namespace Sys2Proof.Formats
open Sys2Proof Sys2Proof.Machine Sys2Proof.Laws Sys2Proof.Laws.Coding Sys2Proof.Turns

/-! ### Words as bytes -/

theorem leBytes_add (m n x : Nat) : leBytes (m + n) x = leBytes m x ++ leBytes n (x / 256 ^ m) := by
  induction m generalizing x with
  | zero => simp [leBytes]
  | succ m ih => rw [Nat.succ_add, leBytes, leBytes, ih, List.cons_append, Nat.div_div_eq_div_mul, Nat.pow_succ']

theorem leBytes_leNat (l : List Byte) : leBytes l.length (leNat l) = l := by
  induction l with
  | nil => rfl
  | cons b l ih =>
    have hb := b.isLt
    rw [List.length_cons, leBytes, leNat, Nat.add_mul_div_left _ _ (by decide), Nat.div_eq_of_lt hb, Nat.zero_add, ih]
    congr 1
    apply BitVec.eq_of_toNat_eq
    rw [BitVec.toNat_ofNat]
    omega

theorem parcelAt_leBytes (p : Parcel) (rest : List Byte) : parcelAt (leBytes 4 p.toNat ++ rest) 0 = p := by
  rw [parcelAt_append_left (by simp), parcelAt, List.drop_zero, List.take_of_length_le (by simp), leNat_leBytes,
    Nat.mod_eq_of_lt p.isLt, BitVec.ofNat_toNat, BitVec.setWidth_eq]

/-- The bytes of a long form are those of its two parcels. -/
theorem leBytes_encL (p q : Parcel) : leBytes 8 (encL p q).toNat = leBytes 4 p.toNat ++ leBytes 4 q.toNat := by
  have hp := p.isLt
  have hlow (x : Nat) : leBytes 4 (x % 2 ^ 32) = leBytes 4 x := by
    conv_rhs => rw [← leBytes_leNat (leBytes 4 x), leNat_leBytes, leBytes_length]
  rw [show 8 = 4 + 4 from rfl, leBytes_add, encL_toNat, ← hlow (_ + _)]
  congr 2 <;> omega

theorem parcelAt_encL_low (p q : Parcel) (rest : List Byte) : parcelAt (leBytes 8 (encL p q).toNat ++ rest) 0 = p := by
  rw [leBytes_encL, List.append_assoc, parcelAt_leBytes]

theorem parcelAt_encL_high (p q : Parcel) (rest : List Byte) : parcelAt (leBytes 8 (encL p q).toNat ++ rest) 4 = q := by
  rw [leBytes_encL, List.append_assoc]
  have h := parcelAt_append_right (l := leBytes 4 p.toNat) (m := leBytes 4 q.toNat ++ rest) 0
  rwa [leBytes_length, parcelAt_leBytes] at h


/-! ### What the decoder reads from them -/

theorem decode_short {al : Bool} {p : Parcel} {i : Instr} {rest : List Byte} (h : Short p i)
    (hal : al = true → rest.length < 4 ∨ pCls (parcelAt rest 0) ≠ 3) : decode al (leBytes 4 p.toNat ++ rest) = .ok (i, rest) := by
  obtain ⟨-, hpre, hdec⟩ := h
  have hlen : (leBytes 4 p.toNat ++ rest).length = 4 + rest.length := by simp
  have hnext : parcelAt (leBytes 4 p.toNat ++ rest) 4 = parcelAt rest 0 := by
    simpa using parcelAt_append_right (l := leBytes 4 p.toNat) (m := rest) 0
  have hno : (al && decide (8 ≤ 4 + rest.length) && decide (pCls (parcelAt rest 0) = 3)) = false := by
    cases al with
    | false => rfl
    | true =>
      rcases hal rfl with h | h
      · simp [show ¬8 ≤ 4 + rest.length by omega]
      · rw [decide_eq_false h, Bool.and_false]
  rw [decode_eq, hlen, hnext, hno, parcelAt_leBytes, if_neg (by omega), if_neg (by simp), hpre, if_neg (by simp), hdec]
  rfl

theorem decode_long {al : Bool} {p q : Parcel} {i : Instr} (rest : List Byte) (h : Long p q i) :
    decode al (leBytes 8 (encL p q).toNat ++ rest) = .ok (i, rest) := by
  obtain ⟨hpre, hcls, hdec⟩ := h
  have hlen : (leBytes 8 (encL p q).toNat ++ rest).length = 8 + rest.length := by simp
  rw [decode_eq, hlen, parcelAt_encL_high, parcelAt_encL_low, if_neg (by omega), hcls, if_neg (by simp), hpre, if_pos rfl,
    if_neg (by omega), hdec]
  simp [Except.map]

theorem parcelAt_lane {w : BitVec 64} (rest : List Byte) : pCls (parcelAt (leBytes 8 w.toNat ++ rest) 4) = lCls w := by
  have h := encL_parcelAt (l := leBytes 8 w.toNat ++ rest) (o := 0) (by simp)
  rw [← lCls_encL (parcelAt (leBytes 8 w.toNat ++ rest) 0), h, List.drop_zero, List.take_left' (by simp), leNat_leBytes,
    Nat.mod_eq_of_lt w.isLt, BitVec.ofNat_toNat, BitVec.setWidth_eq]

theorem decode_lane {w : BitVec 64} {i : Instr} (rest : List Byte) (h : Lane w i) :
    decode true (leBytes 8 w.toNat ++ rest) = .ok (i, rest) := by
  obtain ⟨hcls, hdec⟩ := h
  have hlen : (leBytes 8 w.toNat ++ rest).length = 8 + rest.length := by simp
  rw [decode_eq, hlen, parcelAt_lane, hcls, if_neg (by omega), if_pos (by simp), List.take_left' (by simp), leNat_leBytes,
    Nat.mod_eq_of_lt w.isLt, BitVec.ofNat_toNat, BitVec.setWidth_eq, hdec]
  simp [Except.map]

theorem decodeTableWord_of_decode {n w : Nat} {i : Instr} (hn : n = 32 ∨ n = 64) (h : decode true (leBytes (n / 8) w ++ []) = .ok (i, [])) :
    decodeTableWord n w = some i := by
  have hk : (if n ≤ 32 then 32 else 64) = n := by rcases hn with rfl | rfl <;> rfl
  rw [List.append_nil] at h
  simp only [decodeTableWord, wordBytes, hk, h]

/-- Settles O1: each instruction's own words decode to it, and the decoder reads a parcel, a long form or a lane word as what it is. -/
theorem encodingRoundTrip : Obligations.EncodingRoundTrip := by
  intro i n w hwf he
  rcases statement i hwf n w he with ⟨rfl, p, rfl, hs⟩ | ⟨rfl, p, q, rfl, hl⟩ | ⟨rfl, x, rfl, hx⟩
  · refine ⟨decodeTableWord_of_decode (.inl rfl) (decode_short hs fun _ => .inl (by simp)), fun h => ?_, fun _ rest => ?_, fun _ rest hr => ?_⟩
    · cases h
    · exact decode_short hs fun h => by cases h
    · exact decode_short hs fun _ => hr
  · refine ⟨decodeTableWord_of_decode (.inr rfl) (decode_long [] hl), fun _ rest => decode_long rest hl,
      fun _ rest => decode_long rest hl, fun h => ?_⟩
    cases h
  · refine ⟨decodeTableWord_of_decode (.inr rfl) (decode_lane [] hx), fun _ rest => decode_lane rest hx, fun h => ?_, fun h => ?_⟩
    · rcases h with h | h
      · cases h
      · rw [BitVec.ofNat_toNat, BitVec.setWidth_eq] at h
        exact absurd hx.1 h
    · cases h

/-! ### What the decoder accepts -/

/-- A field of `func` above which every bit is zero. -/
theorem func_low2 : ∀ {f : BitVec 5}, f.extractLsb' 2 3 = 0#3 → 0#3 ++ f.extractLsb' 0 2 = f := by decide
theorem func_low3 : ∀ {f : BitVec 5}, f.extractLsb' 3 2 = 0#2 → 0#2 ++ f.extractLsb' 0 3 = f := by decide
theorem func_low4 : ∀ {f : BitVec 5}, f.extractLsb' 4 1 = 0#1 → 0#1 ++ f.extractLsb' 0 4 = f := by decide
theorem func_bit : ∀ {f : BitVec 5}, f.extractLsb' 1 4 = 0#4 → 0#4 ++ flag (f.getLsbD 0) = f := by decide
theorem func_ext_kind : ∀ {f : BitVec 5}, f.extractLsb' 3 2 = 0#2 → 0#2 ++ flag (f.getLsbD 2) ++ f.extractLsb' 0 2 = f := by decide
theorem func_two : ∀ {f : BitVec 5}, f.extractLsb' 2 3 = 0#3 → 0#3 ++ flag (f.getLsbD 1) ++ flag (f.getLsbD 0) = f := by decide
theorem func_high3 : ∀ {f : BitVec 5}, f.extractLsb' 0 2 = 0#2 → f.extractLsb' 2 3 ++ 0#2 = f := by decide
theorem func_high3_last : ∀ {f : BitVec 5}, f.extractLsb' 0 1 = 0#1 → f.extractLsb' 2 3 ++ flag (f.getLsbD 1) ++ 0#1 = f := by decide
theorem func_all : ∀ f : BitVec 5, f.extractLsb' 0 5 = f := by decide
theorem func_3_2 : ∀ {f : BitVec 5}, f.extractLsb' 2 3 ++ f.extractLsb' 0 2 = f := by decide
theorem func_2_3 : ∀ {f : BitVec 5}, f.extractLsb' 3 2 ++ f.extractLsb' 0 3 = f := by decide

theorem flag_parcel (p : Parcel) (k : Nat) : (flag (p.getLsbD k)).toNat = p.toNat / 2 ^ k % 2 ^ 1 := by
  rw [flag, BitVec.toNat_ofBool, BitVec.getLsbD, Nat.testBit_eq_decide_div_mod_eq]
  rcases Nat.mod_two_eq_zero_or_one (p.toNat / 2 ^ k) with h | h <;> simp [h]

theorem cls_toNat {p : Parcel} {c : BitVec 2} (hc : pCls p = c) : c.toNat = p.toNat / 2 ^ 30 := by
  have hp := p.isLt
  rw [← hc, pCls, BitVec.extractLsb'_toNat, Nat.shiftRight_eq_div_pow]
  omega

/-- A parcel of the class of a format is built of that format's fields (R29). -/
theorem encR_of_fields {p : Parcel} (hc : pCls p = 0#2) : encR (pS p) (pOp p) (pD p) (pA p) (pB p) (pFunc p) = p := by
  apply BitVec.eq_of_toNat_eq
  simp only [encR, pS, pOp, pD, pA, pB, pFunc, toNat_append, flag_parcel, BitVec.extractLsb'_toNat, Nat.shiftRight_eq_div_pow, cls_toNat hc]
  rw [div_field _ 29 1, div_field _ 23 6, div_field _ 17 6, div_field _ 11 6, div_field _ 5 6, div_field _ 0 5, Nat.pow_zero, Nat.div_one]

theorem encI_of_fields {p : Parcel} (hc : pCls p = 1#2) : encI (pS p) (pOp p) (pD p) (pA p) (pImm p) = p := by
  apply BitVec.eq_of_toNat_eq
  simp only [encI, pS, pOp, pD, pA, pImm, toNat_append, flag_parcel, BitVec.extractLsb'_toNat, Nat.shiftRight_eq_div_pow, cls_toNat hc]
  rw [div_field _ 29 1, div_field _ 23 6, div_field _ 17 6, div_field _ 11 6, div_field _ 0 11, Nat.pow_zero, Nat.div_one]

theorem encM_of_fields {p : Parcel} (hc : pCls p = 1#2) :
    encM (pS p) (pOp p) (pD p) (pA p) (pPri p) (pNa p) (pScope p) (p.extractLsb' 0 5) = p := by
  apply BitVec.eq_of_toNat_eq
  simp only [encM, pS, pOp, pD, pA, pPri, pNa, pScope, toNat_append, flag_parcel, BitVec.extractLsb'_toNat, Nat.shiftRight_eq_div_pow,
    cls_toNat hc]
  rw [div_field _ 29 1, div_field _ 23 6, div_field _ 17 6, div_field _ 11 6, div_field _ 9 2, div_field _ 8 1, div_field _ 5 3,
    div_field _ 0 5, Nat.pow_zero, Nat.div_one]

theorem encB_of_fields {p : Parcel} (hc : pCls p = 2#2) : encB (pS p) (pOp p) (bA p) (bB p) (pImm p) = p := by
  apply BitVec.eq_of_toNat_eq
  simp only [encB, pS, pOp, bA, pD, bB, pA, pImm, toNat_append, flag_parcel, BitVec.extractLsb'_toNat, Nat.shiftRight_eq_div_pow,
    cls_toNat hc]
  rw [div_field _ 29 1, div_field _ 23 6, div_field _ 17 6, div_field _ 11 6, div_field _ 0 11, Nat.pow_zero, Nat.div_one]

theorem encJ_of_fields {p : Parcel} (hc : pCls p = 2#2) : encJ (pS p) (pOp p) (pOff23 p) = p := by
  apply BitVec.eq_of_toNat_eq
  simp only [encJ, pS, pOp, pOff23, toNat_append, flag_parcel, BitVec.extractLsb'_toNat, Nat.shiftRight_eq_div_pow, cls_toNat hc]
  rw [div_field _ 29 1, div_field _ 23 6, div_field _ 0 23, Nat.pow_zero, Nat.div_one]

theorem encP_of_fields {p : Parcel} (h : isPrefix p = true) : encP (pS p) (pOff23 p) = p := by
  simp only [isPrefix, Bool.and_eq_true, decide_eq_true_eq] at h
  obtain ⟨hc, hop⟩ := h
  rw [encP, show 0x3F#6 = pOp p from hop.symm]
  apply BitVec.eq_of_toNat_eq
  simp only [pS, pOp, pOff23, toNat_append, flag_parcel, BitVec.extractLsb'_toNat, Nat.shiftRight_eq_div_pow,
    cls_toNat (c := 1#2) hc]
  rw [div_field _ 29 1, div_field _ 23 6, div_field _ 0 23, Nat.pow_zero, Nat.div_one]

/-- An instruction that is well formed and has these words. -/
def Coded (n w : Nat) (i : Instr) : Prop := i.wf = true ∧ encode i = some (n, w)

section
variable {p q : Parcel} {i : Instr} {op : BitVec 6} {d a b : GReg}

theorem coded_R {f : BitVec 5} (hc : pCls p = 0) (he : encode i = some (32, (encR (pS p) op d a b f).toNat)) (hop : (pOp p).toNat = op.toNat)
    (hd : pD p = d) (ha : pA p = a) (hb : pB p = b) (hf : f = pFunc p) (hw : i.wf = true) : Coded 32 p.toNat i := by
  rw [BitVec.eq_of_toNat_eq hop.symm, ← hd, ← ha, ← hb, hf, encR_of_fields hc] at he
  exact ⟨hw, he⟩

theorem coded_I {imm : BitVec 11} (hc : pCls p = 1) (he : encode i = some (32, (encI (pS p) op d a imm).toNat))
    (hop : (pOp p).toNat = op.toNat) (hd : pD p = d) (ha : pA p = a) (hi : imm = pImm p) (hw : i.wf = true) : Coded 32 p.toNat i := by
  rw [BitVec.eq_of_toNat_eq hop.symm, ← hd, ← ha, hi, encI_of_fields hc] at he
  exact ⟨hw, he⟩

theorem coded_M {sc : BitVec 3} (hc : pCls p = 1)
    (he : encode i = some (32, (encM (pS p) op (pD p) (pA p) (pPri p) (pNa p) sc (p.extractLsb' 0 5)).toNat))
    (hop : (pOp p).toNat = op.toNat) (hs : pScope p = sc) (hw : i.wf = true) : Coded 32 p.toNat i := by
  rw [BitVec.eq_of_toNat_eq hop.symm, ← hs, encM_of_fields hc] at he
  exact ⟨hw, he⟩

theorem coded_longI (hp : isPrefix p = true) (hc : pCls q = 1) (hS : pS q = false)
    (he : encode i = some (64, (encL (encP (pS p) (pOff23 p)) (encI false op d a (pImm q))).toNat)) (hop : (pOp q).toNat = op.toNat)
    (hd : pD q = d) (ha : pA q = a) (hw : i.wf = true) : Coded 64 (encL p q).toNat i := by
  rw [BitVec.eq_of_toNat_eq hop.symm, ← hd, ← ha, ← hS, encI_of_fields hc, encP_of_fields hp] at he
  exact ⟨hw, he⟩

theorem coded_longM {sc : BitVec 3} (hp : isPrefix p = true) (hc : pCls q = 1) (hS : pS q = false)
    (he : encode i = some (64,
      (encL (encP (pS p) (pOff23 p)) (encM false op (pD q) (pA q) (pPri q) (pNa q) sc (q.extractLsb' 0 5))).toNat))
    (hop : (pOp q).toNat = op.toNat) (hs : pScope q = sc) (hw : i.wf = true) : Coded 64 (encL p q).toNat i := by
  rw [BitVec.eq_of_toNat_eq hop.symm, ← hs, ← hS, encM_of_fields hc, encP_of_fields hp] at he
  exact ⟨hw, he⟩

theorem decodeR_coded (hc : pCls p = 0) : Accepts (Coded 32 p.toNat) (decodeR p) := by
  unfold decodeR
  split <;> simp only [accepts_error, accepts_need, accepts_ok, accepts_zero, Bool.and_eq_true, decide_eq_true_eq, func_all, BitVec.ofNat_eq_ofNat] <;> intros
  all_goals
    refine coded_R hc rfl ‹_› ?_ ?_ ?_ ?_ ?_
    all_goals simp_all only [func_low2, func_low3, func_low4, func_bit, func_ext_kind, func_two, func_high3, func_high3_last,
      func_3_2, func_2_3, Instr.wf, BitVec.ofNat_eq_ofNat]

theorem imm_cnt (h : p.extractLsb' 6 5 = 0#5) : 0#5 ++ p.extractLsb' 0 6 = pImm p := by
  rw [← h]
  apply BitVec.eq_of_toNat_eq
  simp only [toNat_append, BitVec.extractLsb'_toNat, pImm, Nat.shiftRight_eq_div_pow]
  omega

theorem decodeI_coded (hc : pCls p = 1) : Accepts (Coded 32 p.toNat) (decodeI p) := by
  unfold decodeI
  split <;> simp only [accepts_error, accepts_need, accepts_ok, accepts_zero, decide_eq_true_eq, BitVec.ofNat_eq_ofNat] <;> intros
  case h_12 | h_13 | h_14 | h_15 | h_16 | h_17 | h_18 | h_19 | h_20 | h_21 | h_22 =>
    refine coded_M hc rfl ‹_› ?_ ?_
    all_goals simp_all only [Instr.wf, BitVec.ofNat_eq_ofNat]
  all_goals
    refine coded_I hc rfl ‹_› ?_ ?_ ?_ ?_
    all_goals simp_all only [imm_cnt, Instr.wf, BitVec.ofNat_eq_ofNat]

theorem decodeB_coded (hc : pCls p = 2) : Accepts (Coded 32 p.toNat) (decodeB p) := by
  have near {op' : BitVec 6} (h : (pOp p).toNat = op'.toNat) : encB (pS p) op' (bA p) (bB p) (pImm p) = p := by
    rw [BitVec.eq_of_toNat_eq h.symm, encB_of_fields hc]
  have far {op' : BitVec 6} (h : (pOp p).toNat = op'.toNat) : encJ (pS p) op' (pOff23 p) = p := by
    rw [BitVec.eq_of_toNat_eq h.symm, encJ_of_fields hc]
  unfold decodeB
  split <;> simp only [accepts_error, accepts_ok]
  case h_7 | h_8 => exact ⟨rfl, by rw [encode, far ‹_›]⟩
  all_goals exact ⟨rfl, by rw [encode, near ‹_›]⟩

theorem decodeShort_coded (p : Parcel) : Accepts (Coded 32 p.toNat) (decodeShort p) := by
  unfold decodeShort
  split
  · next h => exact decodeR_coded (BitVec.eq_of_toNat_eq h)
  · next h => exact decodeI_coded (BitVec.eq_of_toNat_eq h)
  · next h => exact decodeB_coded (BitVec.eq_of_toNat_eq h)
  · simp

theorem decodeLong_coded (hp : isPrefix p = true) : Accepts (Coded 64 (encL p q).toNat) (decodeLong p q) := by
  unfold decodeLong
  split
  · simp
  next h =>
    obtain ⟨hc, hS⟩ : pCls q = 1 ∧ pS q = false := by simpa using h
    split <;> simp only [accepts_error, accepts_need, accepts_ok, accepts_zero, decide_eq_true_eq, BitVec.ofNat_eq_ofNat] <;> intros
    case h_9 | h_10 | h_11 | h_12 | h_13 | h_14 | h_15 | h_16 | h_17 | h_18 | h_19 =>
      refine coded_longM hp hc hS rfl ‹_› ?_ ?_
      all_goals simp_all only [Instr.wf, BitVec.ofNat_eq_ofNat]
    all_goals
      refine coded_longI hp hc hS rfl ‹_› ?_ ?_ ?_
      all_goals simp_all only [Instr.wf, BitVec.ofNat_eq_ofNat]

theorem decodeLane_coded {w : BitVec 64} (hc : lCls w = 3) : Accepts (Coded 64 w.toNat) (decodeLane w) := by
  intro i h
  refine ⟨?_, encode_decodeLane hc h⟩
  revert i
  show Accepts (fun i => i.wf = true) (decodeLane w)
  unfold decodeLane
  split <;> simp

end

/-- The first bytes of a string, by the number that they denote. -/
theorem leBytes_take {bs : List Byte} {n : Nat} (h : n ≤ bs.length) : leBytes n (leNat (bs.take n)) ++ bs.drop n = bs := by
  have hn : (bs.take n).length = n := by simp [h]
  conv_lhs => enter [1, 1]; rw [← hn]
  rw [leBytes_leNat, List.take_append_drop]

theorem parcelAt_toNat {bs : List Byte} (h : 4 ≤ bs.length) : (parcelAt bs 0).toNat = leNat (bs.take 4) := by
  have hlt := leNat_lt (bs.take 4)
  rw [List.length_take, Nat.min_eq_left h] at hlt
  rw [parcelAt, List.drop_zero, BitVec.toNat_ofNat, Nat.mod_eq_of_lt (by omega)]

theorem doubleword_toNat {bs : List Byte} (h : 8 ≤ bs.length) : (BitVec.ofNat 64 (leNat (bs.take 8))).toNat = leNat (bs.take 8) := by
  have hlt := leNat_lt (bs.take 8)
  rw [List.length_take, Nat.min_eq_left h] at hlt
  rw [BitVec.toNat_ofNat, Nat.mod_eq_of_lt (by omega)]

/-- An accepted instruction whose words are the first bytes, with the bytes after them. -/
theorem words_of_map {bs rest : List Byte} {r : Except DecodeError Instr} {i : Instr} {n w : Nat} (hlen : n / 8 ≤ bs.length)
    (hw : w = leNat (bs.take (n / 8))) (hr : Accepts (Coded n w) r) (h : (r.map fun i => (i, bs.drop (n / 8))) = .ok (i, rest)) :
    i.wf = true ∧ ∃ n w, encode i = some (n, w) ∧ bs = leBytes (n / 8) w ++ rest := by
  cases r with
  | error e => cases h
  | ok j =>
    cases h
    obtain ⟨hwf, he⟩ := hr i rfl
    exact ⟨hwf, n, w, he, by rw [hw, leBytes_take hlen]⟩

/-- Settles O2: what each format's decoder accepts has the words read, which are the bytes that were taken. -/
theorem decodedWordsWellFormed : Obligations.DecodedWordsWellFormed := by
  intro al bs rest i h
  rw [decode_eq] at h
  split_ifs at h with h4 hl hp h8
  · simp only [Bool.and_eq_true, decide_eq_true_eq] at hl
    obtain ⟨⟨-, h8⟩, hc⟩ := hl
    refine words_of_map (n := 64) h8 (doubleword_toNat h8) (decodeLane_coded ?_) h
    rw [← hc, ← lCls_encL (parcelAt bs 0), encL_parcelAt (by omega), List.drop_zero]
  · have hpair := encL_parcelAt (l := bs) (o := 0) (by omega)
    rw [List.drop_zero] at hpair
    exact words_of_map (n := 64) (by omega) ((congrArg BitVec.toNat hpair).trans (doubleword_toNat (by omega))) (decodeLong_coded hp) h
  · exact words_of_map (n := 32) (by omega) (parcelAt_toNat (by omega)) (decodeShort_coded _) h

/-- Settles O3: the decoder evaluated on each word. -/
theorem decodeWords : Obligations.DecodeWords := by
  unfold Obligations.DecodeWords
  decide

end Sys2Proof.Formats
end

section
/-! PROOFS. Jumps through a register, TRAP and SRET, and the halt of a thread whose trap no handler takes (R331 to R333, R429). -/

namespace Sys2Proof.Jumps
open Sys2Proof Sys2Proof.Machine Sys2Proof.Claims Sys2Proof.Runs Sys2Proof.Results

/-! ### Jumps through a register, traps and the return from one -/

/-- A new PC and new registers of the thread in focus are all that such a write changes. -/
theorem onlyRegs_setThr (s : State) (pc : Word64) (g : Table Nat Word64) : OnlyRegs s (s.setThr s.cur { me s with pc := pc, g := g }) := by
  refine ⟨⟨rfl, fun v hv => ?_⟩, fun _ => rfl, ?_⟩
  · rw [State.thr_setThr, if_neg hv]
  · rw [me, State.setThr_cur, State.thr_setThr_self]

/-- A register is written and the thread goes on at an address. -/
theorem setPc_wr (s : State) (d : GReg) (v a : Word64) :
    setPc (wr s d v) a = s.setThr s.cur { me s with pc := a, g := ((me s).setGr d.toNat v).g } := by
  simp only [setPc, wr, modMe, State.modThr, State.thr_setThr_self, State.setThr_cur, setThr_setThr]
  unfold Thread.setGr me
  split <;> rfl

theorem link_goes (s : State) (a : Word64) :
    Goes (.next (setPc (wr s 63 ((me s).pc + 4)) a)) fun t => OnlyRegs s t ∧ RegIs s t 63 ((me s).pc + 4) ∧ (me t).pc = a := by
  refine ⟨_, rfl, ?_, fun r => ?_, setPc_pc _ _⟩
  · rw [setPc_wr]
    exact onlyRegs_setThr _ _ _
  · rw [setPc_gr, wr_gr]
    by_cases h0 : r = 0
    · subst h0
      simp
    · simp [h0]

theorem registerJumps : RegisterJumps := by
  intro sb a s x
  refine ⟨fun h => ⟨?_, ?_⟩, fun h => ⟨?_, ?_⟩⟩
  · exact if_neg (not_not.mpr h)
  · rw [show exec (.callr sb a) s = .next _ from if_neg (not_not.mpr h)]
    exact link_goes s x
  · rw [show exec (.jr sb a) s = _ from if_pos h, trap_eq]
  · rw [show exec (.callr sb a) s = _ from if_pos h, trap_eq]

/-- A trap of the thread in focus, with the address at which it resumes. -/
theorem takeTrap_eq (s : State) (cause : Cause) (tval resume : Word64) : takeTrap s s.cur cause tval resume = Trapped s cause tval resume := by
  unfold Trapped
  split
  · next h => exact takeTrap_halts s s.cur cause tval resume h
  · next h =>
    rw [not_or, Bool.not_eq_true] at h
    rw [takeTrap_enters s s.cur cause tval resume h.1 h.2, Nat.mul_comm]
    rfl

theorem trapsAndReturn : TrapsAndReturn := by
  intro sb n w s
  refine ⟨?_, trap_eq .., fun h => ?_, fun h => ?_⟩
  · show Host.Outcome.next (takeTrap ..) = _
    rw [takeTrap_eq, BitVec.ofNat_toNat]
  · rw [show exec (.sret sb) s = _ from if_pos h, Nat.mul_comm]
    rfl
  · rw [show exec (.sret sb) s = _ from if_neg (by rw [h]; decide), trap_eq]
    cases sb <;> rfl

/-! ### The halt of a thread -/

theorem readList_writeList (m : Mem) (a : Nat) (bs : List Byte) (h : m.wf = true) : (m.writeList a bs).readList a bs.length = bs := by
  refine List.ext_getElem (Mem.readList_length _ _ _) fun k hk hk' => ?_
  have hin := Mem.read_writeList_in m a bs h k hk'
  rw [← List.getD_eq_getElem _ 0 hk, ← List.getD_eq_getElem _ 0 hk', readList_getD _ _ _ _ hk', hin]

theorem reelTouch_mem (s : State) (ctx va pa n : Nat) : (reelTouch s ctx va pa n).mem = s.mem := by
  unfold reelTouch
  refine foldl_keep State.mem _ ?_ _ _
  intro _ _
  rfl

/-- A store of the hardware that translates leaves its bytes in memory (R429). -/
theorem recStore_bytes {s z : State} {ctx pid va pa n : Nat} {bs : List Byte} (hs : s.mem.wf = true) (hn : bs.length = n)
    (h : translateRange s pid ctx va n .store = (z, .ok pa)) : (recStore s ctx pid va bs).1.mem.readList pa n = bs := by
  subst hn
  have hz : z.mem.wf = true := by
    have := (translateRange_frame s pid ctx va bs.length .store).mem hs
    rwa [h] at this
  simp only [recStore, h, reelTouch_mem, writeAtHome_mem]
  exact readList_writeList _ _ _ ((atHome_frame _ _ _).mem (by rwa [holdIf_mem]))

/-- The record of a thread that halts (R430). -/
def haltRecord (s : State) (c : Cause) (v r : Word64) : List Byte :=
  recHead (if (me s).intrap then Cause.double.code else c.code) 6 0 0 ++ leBytes 8 r.toNat ++ leBytes 8 v.toNat ++ leBytes 2 c.code
    ++ leBytes 3 0 ++ leBytes 1 (s.cur.t * 4) ++ leBytes 2 (myPid s)

/-- The state that its record leaves. -/
def haltRecorded (s : State) (c : Cause) (v r : Word64) : State := (faultRecord s (myCtx s) (myPid s) (haltRecord s c v r)).1

theorem haltThread_eq (s : State) (c : Cause) (v r : Word64) : haltThread s s.cur c v r =
    ctxEvent (((haltRecorded s c v r).modThr s.cur fun x => { x with status := .halted, wait := none, haltCause := c.code }).modFlk
      s.cur.fid fun f => { f with faulted := true }) (myCtx s) 0 := rfl

theorem haltRecord_bytes (s : State) (c : Cause) (v r : Word64) : pad64 (haltRecord s c v r) =
    leBytes 2 (if (me s).intrap = true then 9 else c.code) ++ leBytes 2 6 ++ leBytes 4 0 ++ leBytes 8 r.toNat
      ++ leBytes 8 v.toNat ++ leBytes 2 c.code ++ leBytes 3 0 ++ leBytes 1 (4 * s.cur.t) ++ leBytes 2 (myPid s) ++ leBytes 32 0 := by
  have hlen : (haltRecord s c v r).length = 32 := by simp [haltRecord, recHead]
  rw [pad64, hlen, haltRecord, recHead, Nat.mul_comm, show leBytes 2 6 = leBytes 1 6 ++ leBytes 1 0 from rfl]
  simp only [List.append_assoc]
  rfl

theorem signal_pkg (s : State) (n : Nat) : signal s n = { s with pkg := (signal s n).pkg } := by unfold signal; split <;> rfl

/-- A context event sets one bit of the context's events; the package may be signalled. -/
theorem ctxEvent_eq (s : State) (c b : Nat) :
    ctxEvent s c b = { s.setCtx c { s.ctx c with evt := (s.ctx c).evt ||| 2 ^ b } with pkg := (ctxEvent s c b).pkg } := signal_pkg ..

theorem ctxEvent_flk (s : State) (c b f : Nat) : (ctxEvent s c b).flk f = s.flk f := by rw [ctxEvent_eq]; rfl

theorem haltRecorded_mem {s z : State} {pa : Nat} (c : Cause) (v r : Word64) (hwf : s.mem.wf = true)
    (h : translateRange (s.setCtx (myCtx s) { s.ctx (myCtx s) with frHead := ((s.ctx (myCtx s)).frHead + 1) % 2 ^ 32 }) (myPid s) (myCtx s)
      ((s.ctx (myCtx s)).frBase * 4096 + 64 * ((s.ctx (myCtx s)).frHead % 2 ^ ((s.ctx (myCtx s)).frLog2 + 4))) 64 .store = (z, .ok pa)) :
    (haltRecorded s c v r).mem.readList pa 64 = pad64 (haltRecord s c v r) := by
  have hlen : (pad64 (haltRecord s c v r)).length = 64 := by rw [haltRecord_bytes]; simp
  have hb := recStore_bytes (by exact hwf) hlen h
  rw [haltRecorded, faultRecord]
  split <;> next hr => rw [hr] at hb; exact hb

theorem untakenTrapHalts : UntakenTrapHalts := by
  intro s c v r h t
  have ht : t = haltThread s s.cur c v r := if_pos h
  have hthr := haltThread_thr s s.cur c v r
  have hf : HomeFrame _ (haltRecorded s c v r) := faultRecord_frame s (myCtx s) (myPid s) (haltRecord s c v r)
  have hmem := fun hwf z pa => haltRecorded_mem (s := s) (z := z) (pa := pa) c v r hwf
  rw [← ht] at hthr
  rw [haltThread_eq] at ht
  generalize haltRecorded s c v r = u at ht hf hmem
  have hflk : t.flk s.cur.fid = { u.flk s.cur.fid with faulted := true } := by rw [ht, ctxEvent_flk, State.flk_modFlk_self]; rfl
  rw [ctxEvent_eq] at ht
  have hcur : t.cur = s.cur := by rw [ht]; exact hf.cur
  have hctx : t.ctx (myCtx s) = { u.ctx (myCtx s) with evt := (u.ctx (myCtx s)).evt ||| 2 ^ 0 } := by
    rw [ht]; exact State.ctx_setCtx_self ..
  refine ⟨?_, ?_, ?_, ?_, fun w hw => ?_, ?_, ?_, fun hwf z pa hz => ?_⟩
  · rw [me, hcur, hthr, if_pos rfl]
  · rw [me, hcur, hthr, if_pos rfl]
    rfl
  · rw [me, hcur, hthr, if_pos rfl]
  · rw [hctx]
    simp
  · rw [hthr, if_neg hw]
  · rw [hflk]
  · rw [hctx, hf.ctx, State.ctx_setCtx_self]
  · rw [ht, ← haltRecord_bytes]
    exact hmem hwf z pa hz

/-- Settles O12: the jumps and traps are single updates of the thread in focus; a halt is its record and then that update. -/
theorem jumpsAndTraps : Obligations.JumpsAndTraps := ⟨⟨registerJumps, trapsAndReturn⟩, untakenTrapHalts⟩

end Sys2Proof.Jumps

end

section
/-! PROOFS. The scalar FP32 words: the rounded result in its register, the conversions, and the order of values (R327, R189, R221). -/

namespace Sys2Proof.ScalarFp
open Sys2Proof Sys2Proof.Machine Sys2Proof.Claims Sys2Proof.Lanes Sys2Proof.Results

/-! ### A scalar result (R327, R433) -/

/-- What the record of a scalar instruction's events leaves alone. -/
structure ScalarRecord (s t : State) : Prop where
  cur : t.cur = s.cur
  thr : ∀ u, t.thr u = s.thr u
  quiet : (s.ctx (myCtx s)).aelEn = 0 → t = s

theorem aelScalar_record (s : State) (e : Ev) : ScalarRecord s (aelScalar s e) := by
  unfold aelScalar aelRecord
  dsimp only
  split
  · exact ⟨rfl, fun _ => rfl, fun _ => rfl⟩
  · next h =>
    have hf := recStore_frame (s.setCtx (myCtx s) { s.ctx (myCtx s) with aelHead := ((s.ctx (myCtx s)).aelHead + 1) % 2 ^ 32 }) (myCtx s) (myPid s)
    refine ⟨(hf _ _).cur, (hf _ _).thr, fun hz => absurd ?_ h⟩
    rw [evEnabled, hz, Nat.and_zero]

/-- A general register reads the same in any two threads that hold the same register file. -/
theorem gr_congr {x y : Thread} (h : x.g = y.g) (k : Nat) : x.gr k = y.gr k := by
  rw [Thread.gr, Thread.gr, h]

theorem putF_goes (s : State) (d : GReg) (r : Nat × Ev) : FloatGoes s (putF s d r) d (BitVec.ofNat 64 r.1) := by
  obtain ⟨hcur, hthr, hquiet⟩ := aelScalar_record s r.2
  have hme : me (aelScalar s r.2) = me s := by rw [me, hcur, hthr, me]
  rw [putF, put_eq, hme, hcur]
  generalize aelScalar s r.2 = z at hcur hthr hquiet
  set y : Thread := { me s with pc := (me s).pc + BitVec.ofNat 64 4, g := ((me s).setGr d.toNat (BitVec.ofNat 64 r.1)).g } with hyd
  have hy : me (z.setThr s.cur y) = y := by rw [me, State.setThr_cur, hcur, State.thr_setThr_self]
  refine ⟨_, rfl, fun k => ?_, ?_, ?_, fun u hu => ?_, fun hz => ?_⟩
  · rw [hy, gr_congr (x := y) (y := (me s).setGr d.toNat (BitVec.ofNat 64 r.1)) rfl, gr_setGr]
    by_cases hk : k = 0
    · rw [if_pos hk, if_neg fun h => h.2 hk, hk]
      rfl
    · simp only [hk, if_false, ne_eq, not_false_iff, and_true]
  · rw [hy]
    rfl
  · rw [hy]
  · rw [State.thr_setThr, if_neg hu, hthr]
  · rw [hquiet hz]
    refine ⟨⟨rfl, fun v hv => by rw [State.thr_setThr, if_neg hv]⟩, fun _ => rfl, ?_⟩
    rw [me, State.setThr_cur, State.thr_setThr_self]

/-- `putF_goes` with the written word under another form. -/
theorem putF_writes (s : State) (d : GReg) (r : Nat × Ev) (v : Word64) (hv : BitVec.ofNat 64 r.1 = v) :
    FloatGoes s (putF s d r) d v := hv ▸ putF_goes s d r

/-! ### Rounded results -/

theorem isRm_eq (rnd : BitVec 2) : isRm rnd = decide (rnd = 2) := by
  revert rnd
  decide

theorem rounded_fst (s : State) (rnd : BitVec 2) (rs : List GReg) (x : Val × Bool) :
    (rounded s rnd rs x).1 = (roundTo fF32 (rmode rnd.toNat) false false x.1).1 := rfl

/-- What SFCVT writes, by the types of its kind. -/
theorem sfcvt_goes (sb : Bool) (d a : GReg) (kind : BitVec 3) (rnd : BitVec 2) (s : State) (src dst : Nat) (v : Word64)
    (hk : sfKind kind.toNat = (src, dst))
    (hv : BitVec.ofNat 64 (if dst = 6
        then truncNat (sextInt (convert src dst (rmode rnd.toNat) false (rdN s a % 2 ^ tyWidth src)).1 32) 64
        else (convert src dst (rmode rnd.toNat) false (rdN s a % 2 ^ tyWidth src)).1) = v) :
    FloatGoes s (exec (.sfcvt sb d a kind rnd) s) d v := by
  show FloatGoes s (execSfcvt sb d a kind rnd s) d v
  unfold execSfcvt
  rw [hk]
  exact putF_writes s d _ v hv

theorem convert_toInt (src dst : Nat) (m : RMode) (x : Nat) (hs : isIntTy src = false) (hd : isIntTy dst = true) :
    (convert src dst m false x).1 = (toInt m (isSigned dst) (tyWidth dst) ((fmtOf src).value x)).1 := by
  rw [convert, if_pos hd, hs]
  rfl

theorem convert_ofInt (src : Nat) (m : RMode) (x : Nat) (hs : isIntTy src = true) :
    (convert src 10 m false x).1 = (roundTo fF32 m false false (Val.ofInt (intVal src x))).1 := by
  rw [convert, if_neg (by decide), elemVal, if_pos hs]
  rfl

theorem intVal_seven (x : Word64) : intVal 7 (x.toNat % 2 ^ tyWidth 7) = x.toInt := by
  show sextInt (x.toNat % 2 ^ 64) 64 = x.toInt
  rw [sextInt_eq_toInt, Nat.mod_eq_of_lt x.isLt, BitVec.ofNat_toNat, BitVec.setWidth_eq]

theorem intVal_three (x : Word64) : intVal 3 (x.toNat % 2 ^ tyWidth 3) = x.toNat := by
  show ((x.toNat % 2 ^ 64 % 2 ^ 64 : Nat) : Int) = x.toNat
  rw [Nat.mod_mod, Nat.mod_eq_of_lt x.isLt]

/-- A 32-bit result, sign-extended into its register. -/
theorem ofNat_sext (n : Nat) : BitVec.ofNat 64 (truncNat (sextInt n 32) 64) = (BitVec.ofNat 32 n).signExtend 64 := by
  apply BitVec.eq_of_toNat_eq
  rw [BitVec.toNat_ofNat, Nat.mod_eq_of_lt (truncNat_lt _ 64), BitVec.signExtend, BitVec.toNat_ofInt, ← sextInt_eq_toInt]
  rfl

theorem scalarFloat : ScalarFloat := by
  intro sb d a b rnd s
  refine ⟨?_, ?_, ?_, ?_, ?_, ?_, ?_, ?_, ?_, ?_⟩
  · exact putF_writes _ _ _ _ (by rw [rounded_fst, isRm_eq]; rfl)
  · exact putF_writes _ _ _ _ (by rw [rounded_fst, isRm_eq]; rfl)
  · exact putF_writes _ _ _ _ (by rw [rounded_fst]; rfl)
  · exact putF_writes _ _ _ _ (by rw [rounded_fst, isRm_eq]; rfl)
  · refine sfcvt_goes _ _ _ _ _ _ 10 7 _ rfl ?_
    rw [if_neg (by decide), convert_toInt _ _ _ _ rfl rfl]
    rfl
  · refine sfcvt_goes _ _ _ _ _ _ 10 3 _ rfl ?_
    rw [if_neg (by decide), convert_toInt _ _ _ _ rfl rfl]
    rfl
  · refine sfcvt_goes _ _ _ _ _ _ 7 10 _ rfl ?_
    rw [if_neg (by decide), convert_ofInt _ _ _ rfl, rdN, intVal_seven]
    rfl
  · refine sfcvt_goes _ _ _ _ _ _ 3 10 _ rfl ?_
    rw [if_neg (by decide), convert_ofInt _ _ _ rfl, rdN, intVal_three]
    rfl
  · refine sfcvt_goes _ _ _ _ _ _ 10 6 _ rfl ?_
    rw [if_pos rfl, convert_toInt _ _ _ _ rfl rfl, ofNat_sext]
    rfl
  · refine sfcvt_goes _ _ _ _ _ _ 10 2 _ rfl ?_
    rw [if_neg (by decide), convert_toInt _ _ _ _ rfl rfl]
    rfl

/-! ### Order of values (R189, R221) -/

theorem lt_nan {u v : Val} (h : Val.lt u v = true) : u.isNan = false ∧ v.isNan = false := by
  cases u <;> cases v <;> simp_all [Val.lt, Val.isNan]

/-- The same two values aligned in the other order. -/
theorem align_swap (m n e f : Int) :
    (Val.align n f m e).1 = (Val.align m e n f).2.1 ∧ (Val.align n f m e).2.1 = (Val.align m e n f).1 := by
  unfold Val.align
  rcases lt_trichotomy e f with h | rfl | h
  · simp [h.le, h.not_ge]
  · simp
  · simp [h.le, h.not_ge]

theorem lt_asymm {u v : Val} (h : Val.lt u v = true) : Val.lt v u = false := by
  cases u with
  | nan => simp [Val.lt] at h
  | inf p => cases v <;> simp_all [Val.lt]
  | fin n m e =>
    cases v with
    | nan => simp [Val.lt] at h
    | inf q => simp_all [Val.lt]
    | fin n' m' e' =>
      simp only [Val.lt, decide_eq_true_eq, decide_eq_false_iff_not] at h ⊢
      obtain ⟨ha, hb⟩ := align_swap (Val.sm n m) (Val.sm n' m') e e'
      rw [ha, hb]
      exact h.le.not_gt

theorem sign_value {x : Nat} (h : (fF32.value x).isNan = false) : (fF32.value x).sign = x.testBit 31 := by
  revert h
  unfold Fmt.value
  dsimp only
  split
  · split
    · exact fun _ => rfl
    · exact fun h => absurd h (by decide)
  · split
    · exact fun h => absurd h (by decide)
    · split <;> exact fun _ => rfl

theorem execSfmin_goes (sb : Bool) (d a b : GReg) (s : State) :
    FloatGoes s (exec (.sfmin sb d a b) s) d (BitVec.ofNat 64 (fMinMax fF32 true (rdF s a) (rdF s b)).1) :=
  putF_goes s d _

theorem execSfmax_goes (sb : Bool) (d a b : GReg) (s : State) :
    FloatGoes s (exec (.sfmax sb d a b) s) d (BitVec.ofNat 64 (fMinMax fF32 false (rdF s a) (rdF s b)).1) :=
  putF_goes s d _

/-- The conditions of a comparison, from the two strict orders and whether either value is a NaN (R48, R221). -/
theorem fCond_holds (F : Fmt) (c x y : Nat) :
    (fCond F c x y).1 =
      let un := (F.value x).isNan || (F.value y).isNan
      let lt := Val.lt (F.value x) (F.value y)
      let gt := Val.lt (F.value y) (F.value x)
      match c with
          | 0 => !un && !lt && !gt
          | 1 => un || lt || gt
          | 2 => lt
          | 3 => !un && !gt
          | 4 => gt
          | 5 => !un && !lt
          | 6 => !un
          | _ => un := by
  have hxy := @lt_nan (F.value x) (F.value y)
  have hyx := @lt_nan (F.value y) (F.value x)
  have has := @lt_asymm (F.value x) (F.value y)
  unfold fCond Val.eqv
  dsimp only
  generalize Val.lt (F.value x) (F.value y) = lt at *
  generalize Val.lt (F.value y) (F.value x) = gt at *
  generalize (F.value x).isNan = nx at *
  generalize (F.value y).isNan = ny at *
  match c with
  | _ + 7 => rfl
  | 0 | 1 | 2 | 3 | 4 | 5 | 6 =>
    revert lt gt nx ny
    decide

/-- The lesser and the greater operand where neither is a NaN (R189). -/
theorem fMinMax_ordered (isMin : Bool) {x y : Nat} (hx : (fF32.value x).isNan = false) (hy : (fF32.value y).isNan = false) :
    (fMinMax fF32 isMin x y).1 =
      let aFirst := if Val.lt (fF32.value x) (fF32.value y) then true
        else if Val.lt (fF32.value y) (fF32.value x) then false else x.testBit 31 || !y.testBit 31
      if isMin then (if aFirst then x else y) else (if aFirst then y else x) := by
  simp only [fMinMax, hx, hy, sign_value hx, sign_value hy, Bool.and_self, Bool.false_eq_true, if_false]

theorem ofNat_b2n (p : Bool) : BitVec.ofNat 64 (b2n p) = if p then 1 else 0 := by
  cases p <;> rfl

/-- A single NaN is ignored; two give the canonical one (R189). -/
theorem fMinMax_nan (isMin : Bool) (x y : Nat) :
    ((fF32.value x).isNan = true → (fF32.value y).isNan = true → (fMinMax fF32 isMin x y).1 = 0x7FC0_0000)
    ∧ ((fF32.value x).isNan = true → (fF32.value y).isNan = false → (fMinMax fF32 isMin x y).1 = y)
    ∧ ((fF32.value x).isNan = false → (fF32.value y).isNan = true → (fMinMax fF32 isMin x y).1 = x) := by
  have hn : fF32.nan = 0x7FC0_0000 := rfl
  refine ⟨fun hx hy => ?_, fun hx hy => ?_, fun hx hy => ?_⟩ <;> simp [fMinMax, hx, hy, hn]

theorem scalarFloatCompare : ScalarFloatCompare := by
  intro sb d a b s
  dsimp only
  refine ⟨⟨_, _, execSfmin_goes sb d a b s, execSfmax_goes sb d a b s, ?_⟩, fun c => putF_writes s d _ _ ?_⟩
  · rw [show (rd s a).toNat % 2 ^ 32 = rdF s a from rfl, show (rd s b).toNat % 2 ^ 32 = rdF s b from rfl]
    generalize rdF s a = x
    generalize rdF s b = y
    obtain ⟨bothMin, leftMin, rightMin⟩ := fMinMax_nan true x y
    obtain ⟨bothMax, leftMax, rightMax⟩ := fMinMax_nan false x y
    simp only [Bool.not_eq_true]
    refine ⟨fun hx hy => ⟨bothMin hx hy, bothMax hx hy⟩, fun hx hy => ⟨leftMin hx hy, leftMax hx hy⟩,
      fun hx hy => ⟨rightMin hx hy, rightMax hx hy⟩, fun hl => ?_, fun hg => ?_,
      fun hx hy hl hg => ⟨fun hs => ?_, fun hsy hsx => ?_⟩⟩
    · obtain ⟨hx, hy⟩ := lt_nan hl
      simp [fMinMax_ordered, hx, hy, hl]
    · obtain ⟨hy, hx⟩ := lt_nan hg
      simp [fMinMax_ordered, hx, hy, hg, lt_asymm hg]
    · simp [fMinMax_ordered, hx, hy, hg, hl, hs]
    · simp [fMinMax_ordered, hx, hy, hg, hl, hsy, hsx]
  · rw [fCond_holds]
    exact ofNat_b2n _

/-- Settles O13: each word is `putF` of its value, and the two strict orders and the NaN tests decide the comparisons. -/
theorem scalarFloats : Obligations.ScalarFloats := ⟨scalarFloat, scalarFloatCompare⟩

end Sys2Proof.ScalarFp

end

section
/-! PROOFS. The generator's loads and stores: the frame of what a load asks of the L1, and the access that joins the machine (R328, R30, R32). -/

namespace Sys2Proof.GenAccess
open Sys2Proof Sys2Proof.Machine Sys2Proof.Claims Sys2Proof.Runs Sys2Proof.Lanes Sys2Proof.Results

/-! ### The generator's loads and stores (R328) -/

theorem genVa_eq (s : State) (a : GReg) (off : Int) : genVa s a off = (BitVec.ofInt 64 ((rd s a).toNat + off)).toNat := by
  rw [genVa, wrap64, BitVec.ofInt_add, BitVec.ofInt_natCast, BitVec.ofNat_toNat, BitVec.setWidth_eq]
  congr 2
  apply BitVec.eq_of_toNat_eq
  rw [BitVec.toNat_ofNat, BitVec.toNat_ofInt, Nat.mod_eq_of_lt (truncNat_lt off 64)]
  rfl

theorem gatomAcquired_none {s : State} (h : (me s).acqOp = none) : gatomAcquired s = some s := by
  rw [gatomAcquired, h]

section
variable {s u : State}

theorem myPid_frame (h : HomeFrame s u) : myPid u = myPid s := by
  rw [myPid, State.pidOf, h.flk, h.cur, myPid, State.pidOf]

end

/-! #### What a load asks of the L1 -/

/-- A cluster gathers no update-only line. -/
def NoUo (s : State) (pid : Nat) : Prop := ∀ x ∈ (s.clu pid).l1, x.uo = none

theorem uoAt_noUo {s : State} {pid : Nat} (h : NoUo s pid) (line : Nat) : uoAt (s.clu pid) line = none := by
  unfold uoAt
  rw [Option.bind_eq_none_iff]
  exact fun l hl => h l (List.mem_of_find?_eq_some hl)

theorem l1Room_mem {s : State} {pid : Nat} (h : NoUo s pid) (line : Nat) : (l1Room s pid line).mem = s.mem := by
  unfold l1Room
  dsimp only
  split
  · rfl
  · split
    · rfl
    · split
      · rfl
      · next v _ =>
        rw [uoAt_noUo h, Option.isSome_none, Bool.false_and]
        show (uoFlush s pid v).mem = s.mem
        rw [uoFlush, uoAt_noUo h]

theorem l1Claim_mem {s : State} {pid : Nat} (h : NoUo s pid) (ctx pa pri : Nat) : (l1Claim s pid ctx pa pri).mem = s.mem :=
  l1Room_mem h _

/-- The hit of a load: only priorities in the L1 change. -/
theorem l1Touch_frame (s : State) (o : MemOp) (pa : Nat) : HomeFrame s (s.modClu o.pid fun c =>
    match l1Line c (lineOf pa) with
    | some l => l1Demote (putL1 c { l with pri := if o.na then 0 else o.pri }) (lineOf pa)
    | none => c) := by
  refine HomeFrame.ofClu s _ _ fun c => ?_
  split
  · rw [l1Demote_plane, putL1_plane]
  · rfl

theorem direct_frame (s : State) (o : MemOp) (pa : Nat) :
    HomeFrame s (l2Touch (readAtHome s pa o.n).1 pa o.n o.pri o.na false) :=
  (readAtHome_frame s pa o.n).trans (l2Touch_frame _ _ _ _ _ _)

theorem l1Read_frame (s : State) (o : MemOp) (pa : Nat) : HomeFrame s (l1Read s o pa).1 := by
  unfold l1Read
  dsimp only
  split
  · split
    · exact direct_frame s o pa
    · split
      · exact HomeFrame.refl s
      · split
        · exact direct_frame s o pa
        · exact (atHome_frame s _ _).trans (l1Claim_frame _ _ _ _ _)
  · split
    · split
      · exact l1Touch_frame s o pa
      · split
        · exact direct_frame s o pa
        · split
          · exact HomeFrame.refl s
          · exact l1Claim_frame s _ _ _ _
    · split
      · exact direct_frame s o pa
      · exact l1Claim_frame s _ _ _ _

theorem l1Read_mem {s : State} {o : MemOp} (h : NoUo s o.pid) (hna : o.na = false) (pa : Nat) :
    (l1Read s o pa).1.mem = s.mem := by
  unfold l1Read
  dsimp only
  rw [uoAt_noUo h]
  dsimp only
  simp only [hna, Bool.false_eq_true, if_false]
  split
  · split
    · rfl
    · split
      · rfl
      · exact l1Claim_mem h _ _ _
  · exact l1Claim_mem h _ _ _

theorem askFill_frame (s : State) (o : MemOp) : HomeFrame s (askFill s o) := by
  unfold askFill
  split
  · split
    · exact HomeFrame.refl s
    · exact l1Read_frame s o _
  · exact HomeFrame.refl s

theorem askFill_mem {s : State} {o : MemOp} (h : NoUo s o.pid) : (askFill s o).mem = s.mem := by
  unfold askFill
  split
  · split
    · rfl
    · next hn =>
      refine l1Read_mem h ?_ _
      simp only [Bool.or_eq_true, not_or, Bool.not_eq_true] at hn
      exact hn.1
  · rfl

/-! #### An access that has joined -/

/-- The access of a load or store, pushed onto a machine that translation and caches have changed. -/
theorem issued_push {s u t : State} (h : HomeFrame s u) {va pa n : Nat} {deed : Deed} {dest : Dest} {o : MemOp}
    (ho : o.tid = s.cur ∧ o.pid = myPid s ∧ o.str = none ∧ o.place = .glob va pa ∧ o.n = n ∧ o.deed = deed ∧ o.dest = dest ∧ o.made = none)
    (ht : t = { pushOp u o with threads := t.threads }) (hthr : ∀ v, v ≠ s.cur → t.thr v = s.thr v) :
    AccessIssued s t va pa n deed dest := by
  obtain ⟨otid, opid, ostr, oplace, on, odeed, odest, omade⟩ := ho
  refine ⟨⟨{ o with id := u.nextId }, u.ops, ?_, h.bare, ?_, otid, opid, ostr, oplace, on, odeed, odest, omade⟩, ?_, hthr, ?_, ?_, ?_⟩
  · rw [ht]; rfl
  · show u.nextId = s.nextId
    rw [h.rest]
  · rw [ht]
    show u.nextId + 1 = _
    rw [h.rest]
  · rw [ht]; exact h.groups
  · rw [ht]; exact h.flocks
  · rw [ht]; exact h.cur

/-- A load sent: the access has joined, its register is outstanding, and the thread goes on, or waits for the host (R428). -/
theorem sendRead_issued {s u : State} (h : HomeFrame s u) (va pa w : Nat) (dest : Dest) (pri : Nat) (na : Bool) (d n : Nat) :
    let o := genOp u va pa w .load dest pri na 0 false
    let t := sendRead (outstanding (askFill u o) d (.mem u.nextId)) o n
    AccessIssued s t va pa w .load dest
    ∧ me t = { me s with
        out := (me s).out ++ [⟨d, .mem s.nextId⟩]
        pc := if isHost pa then (me s).pc else (me s).pc + BitVec.ofNat 64 n
        hostOp := if isHost pa then some (s.nextId, n) else (me s).hostOp }
    ∧ t.mem = (askFill u o).mem := by
  intro o
  have hz : HomeFrame s (askFill u o) := h.trans (askFill_frame u o)
  have hid : u.nextId = s.nextId := by rw [h.rest]
  have hzid : (askFill u o).nextId = s.nextId := by rw [hz.rest]
  have ho : o.tid = s.cur ∧ o.pid = myPid s ∧ o.str = none ∧ o.place = .glob va pa ∧ o.n = w ∧ o.deed = .load ∧ o.dest = dest ∧ o.made = none :=
    ⟨h.cur, myPid_frame h, rfl, rfl, rfl, rfl, rfl, rfl⟩
  have hplace : o.place = .glob va pa := rfl
  generalize askFill u o = z at hz hzid
  intro t
  set x : Thread := { me s with
        out := (me s).out ++ [⟨d, .mem s.nextId⟩]
        pc := if isHost pa then (me s).pc else (me s).pc + BitVec.ofNat 64 n
        hostOp := if isHost pa then some (s.nextId, n) else (me s).hostOp } with hx
  have ht : t = (pushOp z o).setThr s.cur x := by
    have hout : outstanding z d (.mem u.nextId) = z.setThr s.cur { me s with out := (me s).out ++ [⟨d, .mem s.nextId⟩] } := by
      rw [outstanding, modMe, State.modThr, hid, hz.cur, hz.thr, me]
    have hpush (y : Thread) : pushOp (z.setThr s.cur y) o = (pushOp z o).setThr s.cur y := rfl
    have hnext (y : Thread) : (z.setThr s.cur y).nextId = s.nextId := hzid
    have hcur (y : Thread) : ((pushOp z o).setThr s.cur y).cur = s.cur := hz.cur
    show sendRead (outstanding z d (.mem u.nextId)) o n = _
    rw [hout, sendRead]
    simp only [hplace, hpush, hnext, advance, modMe, hcur, State.modThr, State.thr_setThr_self, setThr_setThr, hx]
    by_cases hh : isHost pa = true
    · simp only [hh, if_true]
    · simp only [hh, if_false, Bool.false_eq_true]
  rw [ht]
  refine ⟨issued_push hz ho rfl fun v hv => ?_, ?_, rfl⟩
  · rw [State.thr_setThr, if_neg hv]
    exact hz.thr v
  · rw [me, State.setThr_cur]
    show State.thr _ z.cur = x
    rw [hz.cur, State.thr_setThr_self]

theorem genLoad_clauses (n : Nat) (d a : GReg) (off : Int) (w : Nat) (sx : Bool) (pri : BitVec 2) (na : Bool) (s : State)
    (hq : (me s).acqOp = none) :
    let va := (BitVec.ofInt 64 ((rd s a).toNat + off)).toNat
    let r := translate s (myPid s) (myCtx s) va .load
    (va % w ≠ 0 → genLoad n d a off w sx pri na s = .next (Trapped s .align (BitVec.ofNat 64 va) (me s).pc))
    ∧ (va % w = 0 → ∀ c, r.2 = .error c → genLoad n d a off w sx pri na s = .next (Trapped r.1 c (BitVec.ofNat 64 va) (me s).pc))
    ∧ (va % w = 0 → ∀ pa, r.2 = .ok pa → Goes (genLoad n d a off w sx pri na s) fun t =>
          AccessIssued s t va pa w .load (.gen d.toNat sx)
          ∧ me t = { me s with
              out := (me s).out ++ [⟨d.toNat, .mem s.nextId⟩]
              pc := if isHost pa then (me s).pc else (me s).pc + BitVec.ofNat 64 n
              hostOp := if isHost pa then some (s.nextId, n) else (me s).hostOp }
          ∧ ((∀ x ∈ (r.1.clu (myPid s)).l1, x.uo = none) → SameMem r.1 t)) := by
  intro va r
  have hva : genVa s a off = va := genVa_eq s a off
  have hr : HomeFrame s r.1 := translate_frame s _ _ va .load
  unfold genLoad
  rw [gatomAcquired_none hq]
  dsimp only
  rw [hva]
  refine ⟨fun hm => by rw [if_pos hm, trap_eq], fun hm c hc => ?_, fun hm pa hp => ?_⟩
  · rw [if_neg (not_not_intro hm), show translate s (myPid s) (myCtx s) va .load = (r.1, .error c) from Prod.ext rfl hc]
    dsimp only
    rw [trap_eq, hr.me]
  · rw [if_neg (not_not_intro hm), show translate s (myPid s) (myCtx s) va .load = (r.1, .ok pa) from Prod.ext rfl hp]
    obtain ⟨hi, hme, hmem⟩ := sendRead_issued hr va pa w (.gen d.toNat sx) pri.toNat na d.toNat n
    refine ⟨_, rfl, hi, hme, fun hu b => ?_⟩
    rw [hmem, askFill_mem]
    show NoUo r.1 (myPid r.1)
    rw [myPid_frame hr]
    exact hu

/-- Settles O23: the fourteen words are one function, and a load that translates is one access sent. -/
theorem generatorLoads : Obligations.GeneratorLoads := by
  intro sb d a pri na off ext s hq o l
  simp only [List.forall_mem_cons]
  exact ⟨genLoad_clauses _ _ _ _ _ _ _ _ _ hq, genLoad_clauses _ _ _ _ _ _ _ _ _ hq, genLoad_clauses _ _ _ _ _ _ _ _ _ hq,
    genLoad_clauses _ _ _ _ _ _ _ _ _ hq, genLoad_clauses _ _ _ _ _ _ _ _ _ hq, genLoad_clauses _ _ _ _ _ _ _ _ _ hq,
    genLoad_clauses _ _ _ _ _ _ _ _ _ hq, genLoad_clauses _ _ _ _ _ _ _ _ _ hq, genLoad_clauses _ _ _ _ _ _ _ _ _ hq,
    genLoad_clauses _ _ _ _ _ _ _ _ _ hq, genLoad_clauses _ _ _ _ _ _ _ _ _ hq, genLoad_clauses _ _ _ _ _ _ _ _ _ hq,
    genLoad_clauses _ _ _ _ _ _ _ _ _ hq, genLoad_clauses _ _ _ _ _ _ _ _ _ hq, fun _ h => absurd h List.not_mem_nil⟩

/-- A store sent: the access has joined with its data, and the thread goes on. -/
theorem store_issued {s u : State} (h : HomeFrame s u) (va pa w data : Nat) (pri : Nat) (na : Bool) (scope n : Nat) :
    let t := advance (pushOp u (genOp u va pa w (.store data) .none pri na scope false)) n
    AccessIssued s t va pa w (.store data) .none ∧ me t = { me s with pc := (me s).pc + BitVec.ofNat 64 n } ∧ t.mem = u.mem := by
  intro t
  have hcur : (pushOp u (genOp u va pa w (.store data) .none pri na scope false)).cur = s.cur := h.cur
  have hthr v : (pushOp u (genOp u va pa w (.store data) .none pri na scope false)).thr v = s.thr v := h.thr v
  have ht : t = (pushOp u (genOp u va pa w (.store data) .none pri na scope false)).setThr s.cur
      { me s with pc := (me s).pc + BitVec.ofNat 64 n } := by
    show advance _ n = _
    rw [advance, modMe, State.modThr, hcur, hthr, me]
  rw [ht]
  refine ⟨issued_push h ⟨h.cur, myPid_frame h, rfl, rfl, rfl, rfl, rfl, rfl⟩ rfl fun v hv => ?_, ?_, rfl⟩
  · rw [State.thr_setThr, if_neg hv, hthr]
  · rw [me, State.setThr_cur, hcur, State.thr_setThr_self]

theorem genStore_clauses (n : Nat) (d a : GReg) (off : Int) (w : Nat) (pri : BitVec 2) (na : Bool) (scope : BitVec 3) (s : State)
    (hq : (me s).acqOp = none) :
    let va := (BitVec.ofInt 64 ((rd s a).toNat + off)).toNat
    let r := translate s (myPid s) (myCtx s) va (globalAcc s (myPid s) va .store)
    (va % w ≠ 0 → genStore n d a off w pri na scope s = .next (Trapped s .align (BitVec.ofNat 64 va) (me s).pc))
    ∧ (va % w = 0 → ∀ c, r.2 = .error c → genStore n d a off w pri na scope s = .next (Trapped r.1 c (BitVec.ofNat 64 va) (me s).pc))
    ∧ (va % w = 0 → ∀ pa, r.2 = .ok pa → Goes (genStore n d a off w pri na scope s) fun t =>
          AccessIssued s t va pa w (.store ((rd s d).toNat % 2 ^ (8 * w))) .none
          ∧ me t = { me s with pc := (me s).pc + BitVec.ofNat 64 n } ∧ SameMem r.1 t) := by
  intro va r
  have hva : genVa s a off = va := genVa_eq s a off
  have hr : HomeFrame s r.1 := translate_frame s _ _ va _
  unfold genStore
  rw [gatomAcquired_none hq]
  dsimp only
  rw [hva]
  refine ⟨fun hm => by rw [if_pos hm, trap_eq], fun hm c hc => ?_, fun hm pa hp => ?_⟩
  · rw [if_neg (not_not_intro hm), show translate s (myPid s) (myCtx s) va _ = (r.1, .error c) from Prod.ext rfl hc]
    dsimp only
    rw [trap_eq, hr.me]
  · rw [if_neg (not_not_intro hm), show translate s (myPid s) (myCtx s) va _ = (r.1, .ok pa) from Prod.ext rfl hp]
    have hd : rdN r.1 d = (rd s d).toNat := by rw [rdN, rd, hr.me, rd]
    obtain ⟨hi, hme, hmem⟩ := store_issued hr va pa w ((rd s d).toNat % 2 ^ (8 * w)) pri.toNat na scope.toNat n
    refine ⟨_, rfl, ?_⟩
    rw [hd]
    exact ⟨hi, hme, fun b => by rw [hmem]⟩

/-- Settles O24: the eight words are one function, and a store that translates is one access sent. -/
theorem generatorStores : Obligations.GeneratorStores := by
  intro sb d a pri na scope off ext s hq o l
  simp only [List.forall_mem_cons]
  exact ⟨genStore_clauses _ _ _ _ _ _ _ _ _ hq, genStore_clauses _ _ _ _ _ _ _ _ _ hq, genStore_clauses _ _ _ _ _ _ _ _ _ hq,
    genStore_clauses _ _ _ _ _ _ _ _ _ hq, genStore_clauses _ _ _ _ _ _ _ _ _ hq, genStore_clauses _ _ _ _ _ _ _ _ _ hq,
    genStore_clauses _ _ _ _ _ _ _ _ _ hq, genStore_clauses _ _ _ _ _ _ _ _ _ hq, fun _ h => absurd h List.not_mem_nil⟩

end Sys2Proof.GenAccess

end

section
/-! PROOFS. Emission: the checks of a lane word in order, the doubleword after it, and its entry into the open run of its stream (R55, R40, R43, R434). -/

namespace Sys2Proof.Emission
open Sys2Proof Sys2Proof.Machine Sys2Proof.Claims Sys2Proof.Runs

/-! ### What fetching changes (R336, R337) -/

theorem installIc_frame (s : State) (pid ctx va : Nat) (data : List Byte) : HomeFrame s (installIc s pid ctx va data) :=
  HomeFrame.ofClu s pid _ fun _ => rfl

theorem icFill_frame (s : State) (fid pid va : Nat) : HomeFrame s (icFill s fid pid va).1 := by
  unfold icFill
  dsimp only
  have ht := translate_frame s pid (s.flk fid).ctx va .fetch
  split
  · next h => rw [h] at ht; exact ht
  · next h =>
    rw [h] at ht
    exact (((ht.trans (HomeFrame.ofHeld _ _)).trans (readAtHome_frame _ _ _)).trans (l2Touch_frame _ _ _ _ _ _)).trans
      (HomeFrame.foldl _ (fun s p => installIc_frame s p _ _ _) _ _)

theorem icLine_frame (s : State) (fid pid va : Nat) : HomeFrame s (icLine s fid pid va).1 := by
  unfold icLine
  dsimp only
  split
  · next l _ =>
    exact HomeFrame.ofClu s pid (fun c => { c with
      icache := l :: c.icache.filter fun x => !decide ((x.ctx, x.va) = ((s.flk fid).ctx, va / 256 * 256)) }) fun _ => rfl
  · exact icFill_frame s fid pid va

theorem fetchBytes_frame (s : State) (fid pid va n : Nat) : HomeFrame s (fetchBytes s fid pid va n).1 := by
  unfold fetchBytes
  split
  · exact HomeFrame.refl s
  · have hl := icLine_frame s fid pid va
    split <;> next h => rw [h] at hl; exact hl

/-! ### The checks before a word enters (R43, R55) -/

theorem formCheck_illegal {r : Role} {w : BitVec 64}
    (h : ¬ (assigned (lOp w).toNat = true ∧ LaneWord.ok (lOp w).toNat (laneFields w) = true)) : formCheck r w = some .illegal := by
  unfold formCheck
  dsimp only
  rw [if_pos]
  rw [not_and_or, Bool.not_eq_true, Bool.not_eq_true] at h
  rcases h with h | h <;> simp [h]

section
variable {r : Role} {w : BitVec 64} (h : assigned (lOp w).toNat = true ∧ LaneWord.ok (lOp w).toNat (laneFields w) = true)
include h

theorem formCheck_role (hr : roleOk r (lOp w).toNat = false) : formCheck r w = some .role := by
  unfold formCheck
  simp [h.1, h.2, hr]

theorem formCheck_mask (hr : roleOk r (lOp w).toNat = true) (hm : (isCopyOp (lOp w).toNat || isMatrixOp (lOp w).toNat) = true)
    (ha : (laneFields w).always = false) : formCheck r w = some .mask := by
  unfold formCheck fullMask
  simp only [h.1, h.2, hr, hm, ha]
  rfl

theorem formCheck_none (hr : roleOk r (lOp w).toNat = true)
    (hm : (isCopyOp (lOp w).toNat || isMatrixOp (lOp w).toNat) = false ∨ (laneFields w).always = true) : formCheck r w = none := by
  unfold formCheck fullMask
  simp only [h.1, h.2, hr]
  rcases hm with hm | hm <;> simp [hm]

end

/-- The run structure admits the next word of a run (R43). -/
theorem runCheck_admits {st : Stream} {op : Nat} (ho : op ≠ 0x380) (hl : st.openRun.length < 32) (hv : ∀ v ∈ st.openRun, v.op ≠ 0x318)
    (hw : op = 0x318 → st.openRun = []) : runCheck (some st) op = none := by
  unfold runCheck
  dsimp only
  rw [if_neg ho, if_neg (Nat.not_le_of_lt hl), if_neg]
  intro hb
  simp only [Bool.and_eq_true, Bool.or_eq_true, decide_eq_true_eq, List.any_eq_true] at hb
  rcases hb with ⟨hn, h | ⟨v, hm, h⟩⟩
  · exact hn (List.length_eq_zero_iff.2 (hw h))
  · exact hv v hm h

theorem runCheck_full {st : Stream} {op : Nat} (ho : op ≠ 0x380) (hl : 32 ≤ st.openRun.length) : runCheck (some st) op = some .run := by
  unfold runCheck
  dsimp only
  rw [if_neg ho, if_pos hl]

theorem runCheck_lwait {st : Stream} {op : Nat} (ho : op ≠ 0x380) (hn : st.openRun ≠ [])
    (hw : op = 0x318 ∨ ∃ v ∈ st.openRun, v.op = 0x318) : runCheck (some st) op = some .run := by
  unfold runCheck
  dsimp only
  rw [if_neg ho]
  split
  · rfl
  · rw [if_pos]
    simp only [Bool.and_eq_true, Bool.or_eq_true, decide_eq_true_eq, List.any_eq_true]
    exact ⟨fun hz => hn (List.length_eq_zero_iff.1 hz), hw⟩

/-! ### A word's entry into its stream (R232, R243, R258, R320) -/

/-- What capturing banks changes: the clusters' bank counts and the word's banks. -/
structure Captured (p q : State × EWord) : Prop where
  state : q.1 = { p.1 with clusters := q.1.clusters }
  word : q.2 = { p.2 with banks := q.2.banks }

theorem Captured.refl (p : State × EWord) : Captured p p := ⟨rfl, rfl⟩

theorem Captured.trans {p q r : State × EWord} (h : Captured p q) (k : Captured q r) : Captured p r :=
  ⟨by rw [k.state, h.state], by rw [k.word, h.word]⟩

theorem foldl_captured {α : Type} (f : State × EWord → α → State × EWord) (hf : ∀ p a, Captured p (f p a)) (l : List α)
    (p : State × EWord) : Captured p (l.foldl f p) := by
  induction l generalizing p with
  | nil => exact Captured.refl p
  | cons a l ih => exact (hf p a).trans (ih _)

theorem captureAll_captured (s : State) (fid cmask : Nat) (e : EWord) : Captured (s, e) (captureAll s fid cmask e) := by
  unfold captureAll
  refine foldl_captured _ (fun p m => ?_) _ _
  dsimp only
  split
  · exact ⟨rfl, rfl⟩
  · exact Captured.refl p

/-- What a word's reservation changes: the thread's vote queue and outstanding registers. -/
structure Reserved (s t : State) (u : Tid) : Prop where
  rest : t = { s with threads := t.threads }
  self : t.thr u = { s.thr u with
    votes := (t.thr u).votes
    out := (t.thr u).out }
  others : ∀ v, v ≠ u → t.thr v = s.thr v

theorem reserve_reserved (s : State) (t : Tid) (n : Nat) (st : Stream) (e : EWord) : Reserved s (reserve s t n st e) t := by
  unfold reserve
  dsimp only
  split
  · refine ⟨rfl, ?_, fun v hv => ?_⟩
    · rw [State.thr_modThr_self]
    · rw [State.thr_modThr_ne _ _ hv]
  · split
    · refine ⟨rfl, ?_, fun v hv => ?_⟩
      · rw [State.thr_modThr_self]
      · rw [State.thr_modThr_ne _ _ hv]
    · exact ⟨rfl, rfl, fun _ _ => rfl⟩

/-- What a word's entry and its recording change. -/
structure Entered (s t : State) (n : Nat) (e : EWord) : Prop where
  mem : t.mem = s.mem
  groups : t.groups = s.groups
  others : ∀ u, u ≠ s.cur → t.thr u = s.thr u
  g : (me t).g = (me s).g
  pc : (me t).pc = (me s).pc + 8
  seq : (strOf t s.cur n).seq = ((strOf s s.cur n).seq + 1) % 2 ^ 32
  runs : (strOf t s.cur n).runs = (strOf s s.cur n).runs
  opened : ∃ bs, (strOf t s.cur n).openRun = (strOf s s.cur n).openRun ++ [{ e with seq := (strOf s s.cur n).seq, banks := bs }]

/-- The state behind the emission of a word that is no trailer. -/
def afterWord (s : State) (n : Nat) (e : EWord) (w : BitVec 64) : State := advance (record (enterWord s s.cur n e false) w) 8

/-- A stream of the thread in focus changed, the word recorded, and the next doubleword reached. -/
theorem advance_record_modStr (s : State) (n : Nat) (f : Stream → Stream) (w : BitVec 64) :
    let t := advance (record (modStr s s.cur n f) w) 8
    t.mem = s.mem ∧ t.groups = s.groups ∧ t.cur = s.cur ∧ (∀ u, u ≠ s.cur → t.thr u = s.thr u)
    ∧ (t.thr s.cur).g = (s.thr s.cur).g ∧ (t.thr s.cur).pc = (s.thr s.cur).pc + 8 ∧ strOf t s.cur n = f (strOf s s.cur n) := by
  unfold strOf advance record modMe modStr
  refine ⟨rfl, rfl, rfl, fun u hu => ?_, ?_, ?_, ?_⟩
  · simp only [State.modThr_cur, State.thr_modThr_ne _ _ hu]
  · simp only [State.modThr_cur, State.thr_modThr_self]
  · simp only [State.modThr_cur, State.thr_modThr_self]
    rfl
  · simp only [State.modThr_cur, State.thr_modThr_self]
    rw [Table.get_set, if_pos rfl]

/-- The state that a captured and reserved word leaves, its stream extended. -/
theorem entered_push {s y : State} {n : Nat} {e : EWord} (hm : y.mem = s.mem) (hg : y.groups = s.groups) (hc : y.cur = s.cur)
    (ht : ∀ u, u ≠ s.cur → y.thr u = s.thr u) (hxg : (y.thr s.cur).g = (me s).g) (hpc : (y.thr s.cur).pc = (me s).pc)
    (hst : strOf y s.cur n = strOf s s.cur n) (bs : Table Nat Nat) (k born : Nat) (w : BitVec 64) :
    Entered s (advance (record (modStr { y with nextId := k } s.cur n fun st =>
      { st with
        seq := (st.seq + 1) % 2 ^ 32
        openBorn := born
        openRun := st.openRun ++ [{ e with seq := (strOf s s.cur n).seq, banks := bs }]
        playRun := st.playRun }) w) 8) n e := by
  rw [← hc]
  obtain ⟨tmem, tgroups, tcur, tothers, tg, tpc, tst⟩ := advance_record_modStr { y with nextId := k } n
    (fun st => { st with
      seq := (st.seq + 1) % 2 ^ 32
      openBorn := born
      openRun := st.openRun ++ [{ e with seq := (strOf s y.cur n).seq, banks := bs }]
      playRun := st.playRun }) w
  have hstr : strOf { y with nextId := k } y.cur n = strOf s s.cur n := by rw [← hst, ← hc]; rfl
  rw [hstr] at tst
  have hthr (u : Tid) : ({ y with nextId := k } : State).thr u = y.thr u := rfl
  refine ⟨tmem.trans hm, tgroups.trans hg, fun u hu => ?_, ?_, ?_, ?_, ?_, bs, ?_⟩
  · rw [tothers u (by rw [← hc] at hu; exact hu), hthr, ht u hu]
  · rw [me, tcur, tg, hthr]
    exact hc ▸ hxg
  · rw [me, tcur, tpc, hthr]
    exact congrArg (· + 8) (hc ▸ hpc)
  · rw [← hc, tst, hc]
  · rw [← hc, tst, hc]
  · rw [← hc, tst, hc]

theorem afterWord_entered (s : State) (n : Nat) (e : EWord) (w : BitVec 64) : Entered s (afterWord s n e w) n e := by
  obtain ⟨hc, he⟩ := captureAll_captured s s.cur.fid (strOf s s.cur n).cmask { e with seq := (strOf s s.cur n).seq }
  unfold afterWord enterWord
  dsimp only
  generalize captureAll s s.cur.fid (strOf s s.cur n).cmask { e with seq := (strOf s s.cur n).seq } = q at hc he
  obtain ⟨z, v⟩ := q
  dsimp only at hc he ⊢
  obtain ⟨bs, rfl⟩ : ∃ bs, v = { e with seq := (strOf s s.cur n).seq, banks := bs } := ⟨_, he⟩
  clear he
  obtain ⟨hrest, hself, hothers⟩ := reserve_reserved z s.cur n (strOf s s.cur n) { e with seq := (strOf s s.cur n).seq, banks := bs }
  generalize reserve z s.cur n (strOf s s.cur n) { e with seq := (strOf s s.cur n).seq, banks := bs } = y at hrest hself hothers
  have hthr u : z.thr u = s.thr u := by rw [hc]; rfl
  have hmem : y.mem = s.mem := by rw [hrest, hc]
  have hgrp : y.groups = s.groups := by rw [hrest, hc]
  have hcur : y.cur = s.cur := by rw [hrest, hc]
  rw [hthr] at hself
  simp only [Bool.false_eq_true, if_false]
  exact entered_push hmem hgrp hcur (fun u hu => (hothers u hu).trans (hthr u)) (by rw [hself, me]) (by rw [hself, me])
    (by rw [strOf, hself, strOf]) bs _ _ w

/-! ### The doubleword after a word (R43) -/

/-- The operands that a word has, read from its thread. -/
def wordOperands (s : State) (w : BitVec 64) : EWord := withUniforms (fun r => ((me s).gr r).toNat) w (me s).yoke

section
variable {s : State} {w : BitVec 64}

theorem trailerNext_alone (h : (laneFields w).t = false ∨ (lOp w).toNat = 0x380) : trailerNext s w = (s, none) := by
  unfold trailerNext
  rw [if_pos]
  rcases h with h | h
  · rw [show w.getLsbD 10 = false from h]
    rfl
  · rw [decide_eq_true h, Bool.or_true]

variable (ho : (lOp w).toNat ≠ 0x380) (ht : (laneFields w).t = true)
include ho ht

theorem trailer_wanted : ¬ (!w.getLsbD 10 || decide ((lOp w).toNat = 0x380)) = true := by
  rw [show w.getLsbD 10 = true from ht, decide_eq_false ho]
  decide

theorem trailerNext_fault {r : State} {c : Cause}
    (h : fetchBytes s s.cur.fid (myPid s) ((me s).pc + 8).toNat 8 = (r, .error c)) : trailerNext s w = (r, some (c, (me s).pc + 8)) := by
  unfold trailerNext
  rw [if_neg (trailer_wanted ho ht)]
  dsimp only
  rw [h]
  dsimp only
  rw [BitVec.ofNat_toNat, BitVec.setWidth_eq]

variable {r : State} {bs : List Byte} (h : fetchBytes s s.cur.fid (myPid s) ((me s).pc + 8).toNat 8 = (r, .ok bs))
include h

theorem trailerNext_found (hb : lCls (BitVec.ofNat 64 (leNat bs)) = 3 ∧ lOp (BitVec.ofNat 64 (leNat bs)) = 0x380) :
    trailerNext s w = (r, none) := by
  unfold trailerNext
  rw [if_neg (trailer_wanted ho ht)]
  dsimp only
  rw [h]
  exact if_pos hb

theorem trailerNext_missing (hb : ¬ (lCls (BitVec.ofNat 64 (leNat bs)) = 3 ∧ lOp (BitVec.ofNat 64 (leNat bs)) = 0x380)) :
    trailerNext s w = (r, some (.run, w)) := by
  unfold trailerNext
  rw [if_neg (trailer_wanted ho ht)]
  dsimp only
  rw [h]
  exact if_neg hb

end

/-! ### Emission, check by check (R55) -/

section
variable {w : BitVec 64} {s : State} (he : emitHeld s = false)
include he

theorem emit_malformed {c : Cause} (h : formCheck (me s).role w = some c) :
    execLaneWordEmit w s = .next (Trapped s c w (me s).pc) := by
  unfold execLaneWordEmit
  rw [he, if_neg Bool.false_ne_true, h]
  exact trap_eq s c w

variable (hf : formCheck (me s).role w = none)
include hf

theorem emit_run {c : Cause} (h : runCheck ((curStream (me s)).map (·.2)) (lOp w).toNat = some c) :
    execLaneWordEmit w s = .next (Trapped s c w (me s).pc) := by
  unfold execLaneWordEmit
  rw [he, if_neg Bool.false_ne_true, hf]
  dsimp only
  rw [h]
  exact trap_eq s c w

theorem emit_trailerless (hr : runCheck ((curStream (me s)).map (·.2)) (lOp w).toNat = none) {r : State} {c : Cause} {v : Word64}
    (ht : trailerNext s w = (r, some (c, v))) : execLaneWordEmit w s = .next (Trapped r c v (me r).pc) := by
  unfold execLaneWordEmit
  rw [he, if_neg Bool.false_ne_true, hf]
  dsimp only
  rw [hr, ht]
  exact trap_eq r c v

variable {r : State} (ht : trailerNext s w = (r, none))
include ht

theorem emit_streamless (hc : curStream (me s) = none) : execLaneWordEmit w s = .next (Trapped r .stream w (me r).pc) := by
  unfold execLaneWordEmit
  rw [he, if_neg Bool.false_ne_true, hf]
  dsimp only
  rw [hc, ht]
  exact trap_eq r .stream w

variable {n : Nat} {st : Stream} (hc : curStream (me s) = some (n, st)) (hr : runCheck (some st) (lOp w).toNat = none)
include hc hr

theorem emit_trailer (ho : (lOp w).toNat = 0x380) : execLaneWordEmit w s = .next (afterTrailer r n w) := by
  unfold execLaneWordEmit
  rw [he, if_neg Bool.false_ne_true, hf]
  dsimp only
  rw [hc, Option.map_some, hr, ht]
  dsimp only
  rw [if_pos ho]
  rfl

theorem emit_enters (ho : (lOp w).toNat ≠ 0x380) (ha : argCheck r r.cur.fid st.cmask (wordOperands r w) = none)
    (hv : (me r).queued.length < 32 ∨ (lOp w).toNat ≠ 0x201) :
    execLaneWordEmit w s =
      if isRetired (lOp w).toNat then afterStall r fun u => .next (afterWord u n (wordOperands r w) w)
      else .next (afterWord r n (wordOperands r w) w) := by
  unfold execLaneWordEmit
  rw [he, if_neg Bool.false_ne_true, hf]
  dsimp only
  rw [hc, Option.map_some, hr, ht]
  dsimp only
  rw [if_neg ho]
  rw [show argCheck r r.cur.fid st.cmask (withUniforms (fun k => ((me r).gr k).toNat) w (me r).yoke) = none from ha]
  dsimp only
  rw [if_neg]
  · rfl
  · rw [Bool.and_eq_true, decide_eq_true_eq, decide_eq_true_eq]
    omega

end

/-- An entry into a state that agrees with another in all that emission reads of it. -/
theorem Entered.of_agree {s u t : State} {n : Nat} {e : EWord} (h : Entered u t n e) (hc : u.cur = s.cur) (hg : u.groups = s.groups)
    (ho : ∀ v, v ≠ s.cur → u.thr v = s.thr v) (hx : (me u).g = (me s).g) (hpc : (me u).pc = (me s).pc)
    (hst : strOf u s.cur n = strOf s s.cur n) :
    t.groups = s.groups ∧ (∀ v, v ≠ s.cur → t.thr v = s.thr v) ∧ (me t).g = (me s).g ∧ (me t).pc = (me s).pc + 8
    ∧ (strOf t s.cur n).seq = ((strOf s s.cur n).seq + 1) % 2 ^ 32 ∧ (strOf t s.cur n).runs = (strOf s s.cur n).runs
    ∧ ∃ v, (strOf t s.cur n).openRun = (strOf s s.cur n).openRun ++ [v] ∧ v.w = e.w ∧ v.seq = (strOf s s.cur n).seq
      ∧ v.ua = e.ua ∧ v.ub = e.ub ∧ v.uc = e.uc := by
  obtain ⟨-, groups, others, g, pc, seq, runs, bs, opened⟩ := h
  rw [hc, hst] at seq runs opened
  rw [hc] at others
  exact ⟨groups.trans hg, fun v hv => (others v hv).trans (ho v hv), g.trans hx, by rw [pc, hpc], seq, runs, _, opened, rfl, rfl, rfl, rfl, rfl⟩

theorem strOf_frame {s r : State} (h : HomeFrame s r) (t : Tid) (n : Nat) : strOf r t n = strOf s t n := by
  rw [strOf, h.thr, strOf]

theorem endWait_me (s : State) : me (endWait s) = { me s with wait := none } := State.thr_modThr_self ..

theorem strOf_endWait (s : State) (n : Nat) : strOf (endWait s) s.cur n = strOf s s.cur n := by
  show (me (endWait s)).streams.get n Stream.unbound = _
  rw [endWait_me]
  rfl

theorem isRetired_iff (op : Nat) : isRetired op = true ↔ 0x3C0 ≤ op ∧ op ≤ 0x3C2 := by
  rw [isRetired, Bool.and_eq_true, decide_eq_true_eq, decide_eq_true_eq]

/-- A word that a trailer may follow as it is: no doubleword is fetched, or the one fetched is a trailer. -/
theorem passes_next {s r : State} {w : BitVec 64} (ho : (lOp w).toNat ≠ 0x380)
    (h : ((laneFields w).t = false ∧ r = s) ∨ ((laneFields w).t = true ∧ ∃ bs,
      fetchBytes s s.cur.fid (myPid s) ((me s).pc + 8).toNat 8 = (r, .ok bs)
      ∧ lCls (BitVec.ofNat 64 (leNat bs)) = 3 ∧ lOp (BitVec.ofNat 64 (leNat bs)) = 0x380)) :
    trailerNext s w = (r, none) ∧ HomeFrame s r := by
  rcases h with ⟨ht, rfl⟩ | ⟨ht, bs, hn, hb⟩
  · exact ⟨trailerNext_alone (.inl ht), HomeFrame.refl r⟩
  · have hfr := fetchBytes_frame s s.cur.fid (myPid s) ((me s).pc + 8).toNat 8
    rw [hn] at hfr
    exact ⟨trailerNext_found ho ht hn hb, hfr⟩

/-- Settles O37: the checks one by one, then the word's entry. -/
theorem laneWordEmission : Obligations.LaneWordEmission := by
  intro w s x op f i trapAs formed e next trailer passed retired
  show (_ → execLaneWordEmit w s = _) ∧ _
  have hexec : exec i s = execLaneWordEmit w s := rfl
  rw [hexec]
  refine ⟨fun he => if_pos he, fun he hf => emit_malformed he (formCheck_illegal hf),
    fun he hf hr => emit_malformed he (formCheck_role hf hr), fun he hf hr hm ha => emit_malformed he (formCheck_mask hf hr hm ha),
    fun he hf hr hm => ?_⟩
  have hform : formCheck (me s).role w = none := formCheck_none hf hr hm
  refine ⟨fun hc ht => emit_streamless he hform (trailerNext_alone ht) hc, fun n st hc => ?_⟩
  have hcur : (curStream (me s)).map (·.2) = some st := by rw [show curStream (me s) = some (n, st) from hc]; rfl
  have hrun {c : Option Cause} (h : runCheck (some st) op = c) : runCheck ((curStream (me s)).map (·.2)) op = c := by rw [hcur]; exact h
  refine ⟨fun ho hz => emit_run he hform (hrun (by rw [ho, runCheck_trailer, if_pos hz])),
    fun ho hl => emit_run he hform (hrun (runCheck_full ho hl)), fun ho hn hw => emit_run he hform (hrun (runCheck_lwait ho hn hw)),
    fun ho hz hst => ?_, fun ho hl hv hw ht => ⟨fun r c hn => ?_, fun r bs hn hb => ?_⟩, fun ho hl hv hw r hp hst harg hq => ?_⟩
  · refine ⟨_, emit_trailer he hform (trailerNext_alone (.inr ho)) hc
      (by rw [show (lOp w).toNat = 0x380 from ho, runCheck_trailer, if_neg hz]) ho, ?_⟩
    exact ⟨⟨rfl, fun v hv => afterTrailer_thr_ne s n w hv⟩, fun _ => rfl, by rw [afterTrailer_me], by rw [afterTrailer_me],
      by rw [strOf_afterTrailer, closeRun, strOf_modStr, if_pos rfl, hst]; rfl⟩
  · have hfr := fetchBytes_frame s s.cur.fid (myPid s) ((me s).pc + 8).toNat 8
    rw [show fetchBytes s s.cur.fid (myPid s) ((me s).pc + 8).toNat 8 = (r, .error c) from hn] at hfr
    rw [emit_trailerless he hform (hrun (runCheck_admits ho hl hv hw)) (trailerNext_fault ho ht hn), hfr.me]
  · have hfr := fetchBytes_frame s s.cur.fid (myPid s) ((me s).pc + 8).toNat 8
    rw [show fetchBytes s s.cur.fid (myPid s) ((me s).pc + 8).toNat 8 = (r, .ok bs) from hn] at hfr
    rw [emit_trailerless he hform (hrun (runCheck_admits ho hl hv hw)) (trailerNext_missing ho ht hn hb), hfr.me]
  · obtain ⟨hnext, hfr⟩ := passes_next ho hp
    have hwo : wordOperands r w = e := by rw [wordOperands, hfr.me]
    have hout := emit_enters he hform hnext hc (runCheck_admits ho hl hv hw) ho (by rw [hwo, hfr.cur]; exact harg)
      (by rw [hfr.me]; exact hq)
    rw [hout, hwo]
    have hstr : strOf r s.cur n = strOf s s.cur n := strOf_frame hfr _ _
    have hagree (t : State) (h : Entered r t n e) := h.of_agree (s := s) hfr.cur hfr.groups (fun v _ => hfr.thr v) (by rw [hfr.me])
      (by rw [hfr.me]) hstr
    have hwait (t : State) (h : Entered (endWait r) t n e) := h.of_agree (s := s) hfr.cur hfr.groups
      (fun v hv => (State.thr_modThr_ne _ _ (hfr.cur ▸ hv)).trans (hfr.thr v)) (by rw [endWait_me, hfr.me]) (by rw [endWait_me, hfr.me])
      (by rw [← hfr.cur, strOf_endWait, hfr.cur, hstr])
    rw [hst] at hagree hwait
    refine ⟨fun hret hnone => ?_, fun hret => ?_⟩
    · rw [if_pos ((isRetired_iff op).2 hret), afterStall, hfr.me, show (me s).wait = none from hnone, Option.isNone_none, if_pos rfl, stall, modMe, State.modThr,
        hfr.cur, hfr.thr]
      rfl
    · by_cases h : isRetired (lOp w).toNat = true
      · rcases hret with hno | hsome
        · exact absurd ((isRetired_iff op).1 h) hno
        · rw [if_pos h, afterStall, hfr.me, if_neg fun hn => hsome (Option.isNone_iff_eq_none.1 hn)]
          have ht := afterWord_entered (endWait r) n e w
          exact ⟨_, rfl, fun b => by rw [ht.mem]; rfl, hwait _ ht⟩
      · rw [if_neg h]
        have ht := afterWord_entered r n e w
        exact ⟨_, rfl, fun b => by rw [ht.mem], hagree _ ht⟩

end Sys2Proof.Emission

end

section
/-! PROOFS. Predicate masks bit by bit, compares, PMOV, SEL, LEXIT, and the retired words with their quotients (R37, R39, R53, R221 to R226, R434). -/

namespace Sys2Proof.Predicates
open Sys2Proof Sys2Proof.Machine Sys2Proof.Claims Sys2Proof.Lanes

/-! ### Masks of 32 lanes -/

/-- A number given by its bits. -/
def bitSum (f : Nat → Bool) (n : Nat) : Nat := ((List.range n).map fun k => b2n (f k) * 2 ^ k).sum

theorem bitSum_succ (f : Nat → Bool) (n : Nat) : bitSum f (n + 1) = 2 ^ n * b2n (f n) + bitSum f n := by
  simp [bitSum, List.range_succ, Nat.mul_comm, Nat.add_comm]

theorem b2n_lt_two (b : Bool) : b2n b < 2 := by cases b <;> decide

theorem bitSum_lt (f : Nat → Bool) (n : Nat) : bitSum f n < 2 ^ n := by
  induction n with
  | zero => simp [bitSum]
  | succ n ih =>
    rw [bitSum_succ, Nat.pow_succ]
    have := Nat.mul_le_mul_left (2 ^ n) (Nat.lt_succ_iff.1 (b2n_lt_two (f n)))
    omega

theorem bitSum_testBit (f : Nat → Bool) (n l : Nat) : (bitSum f n).testBit l = (decide (l < n) && f l) := by
  induction n with
  | zero => simp [bitSum]
  | succ n ih =>
    rw [bitSum_succ, Nat.testBit_two_pow_mul_add _ (bitSum_lt f n), ih]
    by_cases h : l < n
    · simp [h, h.le]
    · rw [if_neg h]
      by_cases hl : l = n
      · subst hl
        cases hf : f l <;> simp [b2n]
      · rw [Nat.testBit_lt_two_pow ((b2n_lt_two _).trans_le ?_)]
        · simp [show ¬ l ≤ n by omega]
        · exact Nat.le_self_pow (by omega) 2

/-- A list paired with its places, place by place. -/
theorem zip_range {α : Type} (d : α) {l : List α} {n : Nat} (h : l.length = n) :
    l.zip (List.range n) = (List.range n).map fun k => (l.getD k d, k) := by
  apply List.ext_getElem
  · simp [h]
  · intro k h1 h2
    simp only [List.length_zip, List.length_map, List.length_range, h, Nat.min_self] at h1 h2
    simp [List.getD_eq_getElem?_getD, List.getElem?_eq_getElem (h.symm ▸ h1)]

theorem maskFrom_eq {bs : List Bool} (hb : bs.length = 32) : maskFrom bs = bitSum (bs.getD · false) 32 := by
  rw [maskFrom, zip_range false hb, foldl_add_map, Nat.zero_add, List.map_map]
  rfl

theorem maskFrom_testBit {bs : List Bool} (hb : bs.length = 32) {l : Nat} (hl : l < 32) :
    (maskFrom bs).testBit l = bs.getD l false := by
  rw [maskFrom_eq hb, bitSum_testBit, decide_eq_true hl, Bool.true_and]

theorem combineMask_testBit (c old new l : Nat) : (combineMask c old new).testBit l =
    if c = 0 then new.testBit l else if c = 1 then old.testBit l && new.testBit l
    else if c = 2 then old.testBit l || new.testBit l else old.testBit l != new.testBit l := by
  match c with
  | 0 => rfl
  | 1 => exact Nat.testBit_and ..
  | 2 => exact Nat.testBit_or ..
  | _ + 3 => exact Nat.testBit_xor ..

/-! ### A predicate written (R37, R39) -/

theorem laneGrp_putPred (s : State) (k lat : Nat) {mask : Nat} (new : Nat) (hm : mask ≠ 0) :
    laneGrp (putPred s k lat mask new) =
      { laneGrp s with p := (laneGrp s).p.set k ((predNow s k &&& (mask ^^^ allLanes)) ||| (new &&& mask)) } := by
  rw [putPred, if_neg hm, laneGrp_noteFix]
  exact State.grp_modGrp_self ..

theorem putPred_grp (s : State) (k lat mask new : Nat) :
    laneGrp (putPred s k lat mask new) = { laneGrp s with p := (laneGrp (putPred s k lat mask new)).p } := by
  by_cases hm : mask = 0
  · subst hm; rfl
  · rw [laneGrp_putPred s k lat new hm]

theorem putPred_get_ne (s : State) {k j : Nat} (lat mask new : Nat) (h : j ≠ k) :
    (laneGrp (putPred s k lat mask new)).p.get j 0 = (laneGrp s).p.get j 0 := by
  by_cases hm : mask = 0
  · subst hm; rfl
  · rw [laneGrp_putPred s k lat new hm]
    exact Table.get_set_ne _ h _ _

theorem putPred_p (s : State) (k lat mask new : Nat) {l : Nat} (hl : l < 32) (j : Nat) :
    ((laneGrp (putPred s k lat mask new)).p.get j 0).testBit l =
      if j = k ∧ mask.testBit l = true then new.testBit l else ((laneGrp s).p.get j 0).testBit l := by
  by_cases hj : j = k
  · subst hj
    by_cases hm : mask = 0
    · subst hm; simp [putPred_inactive]
    · rw [laneGrp_putPred s j lat new hm, Table.get_set_self, Nat.testBit_or, Nat.testBit_and, Nat.testBit_and, Nat.testBit_xor,
        allLanes_testBit hl]
      cases mask.testBit l <;> simp [predNow]
  · rw [putPred_get_ne s lat mask new hj, if_neg fun h => hj h.1]

theorem predicateWrites : PredicateWrites := by
  intro s k lat mask new _ t
  have hf := putPred_frame s k lat mask new
  exact ⟨hf.rest, hf.grp, putPred_grp s k lat mask new, fun j hj => putPred_get_ne s lat mask new hj,
    fun l hl => by rw [putPred_p s k lat mask new hl k]; simp, hf.other⟩

/-! ### What a payment leaves to read -/

/-- Two states in which a lane word reads the same: they differ in their threads, in the clusters but for the run in focus, and in
the groups but for the one in focus, which may differ in the results that it waits for. -/
structure ReadsAlike (s t : State) : Prop where
  rest : t = { s with
    clusters := t.clusters
    threads := t.threads
    groups := t.groups }
  run : laneRun t = laneRun s
  grp : laneGrp t = { laneGrp s with out := (laneGrp t).out }

namespace ReadsAlike

variable {s t u : State}

theorem trans (h : ReadsAlike s t) (k : ReadsAlike t u) : ReadsAlike s u := ⟨by rw [k.rest, h.rest], k.run.trans h.run, by rw [k.grp, h.grp]⟩

theorem ofPurse (h : PurseFrame s.lane.pid s t) : ReadsAlike s t := by
  rcases h with rfl | ⟨p, rfl⟩
  · exact ⟨rfl, rfl, rfl⟩
  · refine ⟨rfl, ?_, rfl⟩
    show ((modPurse s s.lane.pid fun _ => p).clu s.lane.pid).pipes.find s.lane.pipe = _
    rw [modPurse, State.clu_modClu_self]
    rfl

variable (h : ReadsAlike s t)
include h

theorem lane : t.lane = s.lane := by rw [h.rest]
theorem now : t.now = s.now := by rw [h.rest]
theorem tick : t.tick = s.tick := by rw [h.rest]
theorem member : laneMember t = laneMember s := by rw [h.rest]; rfl

theorem writesTo (code : Nat) : Machine.writesTo t code = Machine.writesTo s code := by
  rw [Machine.writesTo, h.run, h.grp, Machine.writesTo]

theorem inFlight (code : Nat) : Machine.inFlight t code = Machine.inFlight s code := by
  rw [Machine.inFlight, h.writesTo, h.now, Machine.inFlight]

theorem laneReads (code l : Nat) (val : Word32) (old : FixWrite → Word32) (fs : List FixWrite) :
    Machine.laneReads t code l val old fs = Machine.laneReads s code l val old fs := by
  induction fs generalizing val old with
  | nil => rfl
  | cons f fs ih => simp only [Machine.laneReads, ih, h.now, h.tick]

theorem rowNow (code : Nat) : Machine.rowNow t code = Machine.rowNow s code := by
  rw [Machine.rowNow, Machine.rowNow, tempRow, tempRow, h.run, h.grp, h.tick]
  rfl

theorem regRow (code : Nat) : Machine.regRow t code = Machine.regRow s code := by
  rw [Machine.regRow, Machine.regRow, h.inFlight, h.rowNow, h.writesTo]
  simp only [h.laneReads]

theorem srcNat (code : Nat) (u : Uniform) (n : Nat) : Machine.srcNat t code u n = Machine.srcNat s code u n := by
  induction n with
  | zero => rfl
  | succ n ih => rw [Machine.srcNat, Machine.srcNat, ih, srcRow, srcRow, h.regRow]

theorem predMask (k : Nat) : Machine.predMask t k = Machine.predMask s k := by
  have hp : predNow t k = predNow s k := by rw [predNow, h.grp, predNow]
  rw [Machine.predMask, Machine.predMask, h.inFlight, h.writesTo, hp]
  simp only [h.laneReads]

theorem baseMask : Machine.baseMask t = Machine.baseMask s := by
  unfold Machine.baseMask
  rw [h.lane, h.grp]
  have hc t0 : sameCycle t s.lane.pid t0 = sameCycle s s.lane.pid t0 := by rw [h.rest]; rfl
  simp only [hc]

theorem activeMask (x : LaneWord) : Machine.activeMask t x = Machine.activeMask s x := by
  rw [Machine.activeMask, Machine.activeMask, h.baseMask, guardMask, guardMask, h.predMask]

end ReadsAlike

theorem payLane_frame (s : State) (weight act : Nat) : PurseFrame s.lane.pid s (payLane s weight act).1 := pay_frame ..

theorem payLane_reads (s : State) (weight act : Nat) : ReadsAlike s (payLane s weight act).1 := ReadsAlike.ofPurse (payLane_frame ..)

section
variable (s : State) (x : LaneWord) (weight act n : Nat)

theorem srcA_paid : srcA (payLane s weight act).1 x n = srcA s x n := by
  rw [srcA, (payLane_reads s weight act).lane, (payLane_reads s weight act).srcNat, srcA]

theorem srcB_paid : srcB (payLane s weight act).1 x n = srcB s x n := by
  rw [srcB, (payLane_reads s weight act).lane, (payLane_reads s weight act).srcNat, srcB]

end

/-- A word with a weight that is paid for (R202). -/
theorem pricedWord_paid (weight : Nat) (x : LaneWord) (body : State → Nat → State) (s : State)
    (h : (payLane s weight (activeMask s x)).2 = true) :
    pricedWord weight x body s = .next (issued (body (payLane s weight (activeMask s x)).1 (activeMask s x)) x (activeMask s x) true) := by
  unfold pricedWord
  dsimp only
  generalize payLane s weight (activeMask s x) = q at h ⊢
  obtain ⟨u, b⟩ := q
  dsimp only at h
  subst h
  rfl

/-! ### Compares (R221, R224) -/

theorem zipWith_getElem? {γ : Type} (f : Nat → Nat → γ) {A B : List Nat} (ha : A.length = 32) (hb : B.length = 32) {l : Nat}
    (hl : l < 32) : (List.zipWith f A B)[l]? = some (f (A.getD l 0) (B.getD l 0)) := by
  simp [List.getD_eq_getElem?_getD, List.getElem?_zipWith, List.getElem?_eq_getElem (ha ▸ hl : l < A.length),
    List.getElem?_eq_getElem (hb ▸ hl : l < B.length)]

theorem zipWith_getD {γ : Type} (f : Nat → Nat → γ) (d : γ) {A B : List Nat} (ha : A.length = 32) (hb : B.length = 32) {l : Nat}
    (hl : l < 32) : (List.zipWith f A B).getD l d = f (A.getD l 0) (B.getD l 0) := by
  rw [List.getD_eq_getElem?_getD, zipWith_getElem? f ha hb hl, Option.getD_some]

@[simp] theorem srcA_length (s : State) (x : LaneWord) (n : Nat) : (srcA s x n).length = 32 := srcNat_length ..
@[simp] theorem srcB_length (s : State) (x : LaneWord) (n : Nat) : (srcB s x n).length = 32 := srcNat_length ..

/-- The condition codes of integers (R48). -/
theorem iCond_eq (c : Nat) (a b : Int) : iCond c a b =
    if c = 0 then decide (a = b) else if c = 1 then decide (a ≠ b) else if c = 2 then decide (a < b)
    else if c = 3 then decide (a ≤ b) else if c = 4 then decide (b < a) else decide (b ≤ a) := by
  match c with
  | 0 | 1 | 2 | 3 | 4 | _ + 5 => rfl

theorem icmp_sets (x : LaneWord) (s : State) : LaneSets s (exec (.icmp x) s) x 2 fun l =>
    let r := iCond x.cond (intVal x.ty ((srcA s x (tySpan x.ty)).getD l 0)) (intVal x.ty ((srcB s x (tySpan x.ty)).getD l 0))
    if x.comb = 0 then r else if x.comb = 1 then (predMask s x.dN).testBit l && r
    else if x.comb = 2 then (predMask s x.dN).testBit l || r else (predMask s x.dN).testBit l != r := by
  refine ⟨_, fun l hl => ?_, rfl⟩
  dsimp only
  rw [combineMask_testBit, maskFrom_testBit (by simp) hl,
    zipWith_getD _ false (srcA_length ..) (srcB_length ..) hl]

/-- The record of one event in the lanes of a mask. -/
theorem eventsOf_when {mask : Nat} {rs : List (Nat × Ev)} {g : Nat → Bool} (h : ∀ l < 32, rs[l]? = some (0, Ev.when (g l) Ev.invalid)) :
    eventsOf mask rs = Ev.when ((setBits 32 mask).any g) Ev.invalid := by
  have hls : ∀ l ∈ setBits 32 mask, l < 32 := fun l hl => (mem_setBits.1 hl).1
  have hfold : ∀ (ls : List Nat) (b : Bool), (∀ l ∈ ls, l < 32) → ls.foldl (fun e l => match rs[l]? with
      | some r => e.or r.2
      | none => e) (Ev.when b Ev.invalid) = Ev.when (b || ls.any g) Ev.invalid := by
    intro ls
    induction ls with
    | nil => intro b _; rw [List.foldl_nil, List.any_nil, Bool.or_false]
    | cons l ls ih =>
      intro b hm
      rw [List.foldl_cons, h l (hm l (List.mem_cons_self ..)), List.any_cons, ← Bool.or_assoc,
        ← ih (b || g l) fun k hk => hm k (List.mem_cons_of_mem _ hk)]
      congr 1
      cases b <;> cases g l <;> rfl
  exact (hfold (setBits 32 mask) false hls).trans (by rw [Bool.false_or])

theorem plop_sets (x : LaneWord) (s : State) : LaneSets s (exec (.plop x) s) x 1 fun l =>
    (x.cN % 16).testBit (2 * b2n ((predMask s x.aN).testBit l) + b2n ((predMask s x.bN).testBit l)) := by
  refine ⟨_, fun l hl => ?_, rfl⟩
  rw [maskFrom_testBit (by simp) hl]
  simp [List.getD_eq_getElem?_getD, hl]

theorem sel_writes (x : LaneWord) (s : State) : LaneWrites s (exec (.sel x) s) x 2 (tySpan x.ty) fun l =>
    if (predMask s x.cN).testBit l then (srcA s x (tySpan x.ty)).getD l 0 else (srcB s x (tySpan x.ty)).getD l 0 :=
  laneWrites_of_values (x := x) (vals := fun s => zip3 (fun l a b => if (predMask s x.cN).testBit l then a else b) (List.range 32)
      (srcA s x (tySpan x.ty)) (srcB s x (tySpan x.ty)))
    ((zip3_lanes (by simp) (srcNat_length ..) (srcNat_length ..)).trans
      (map_range_congr fun l hl => by rw [show (List.range 32).getD l 0 = l by simp [List.getD_eq_getElem?_getD, hl]]; rfl))

theorem pmovGet_writes (x : LaneWord) (s : State) (h : x.ty ≠ 0) : LaneWrites s (exec (.pmov x) s) x 1 1 fun l =>
    ((List.range 12).map fun k => b2n ((predMask s k).testBit l) * 2 ^ k).sum := by
  show LaneWrites s (execPmov x s) x 1 1 _
  unfold execPmov freeWordAct
  dsimp only
  rw [if_neg h, LaneWrites]
  congr 4
  funext l
  rw [zip_range 0 (by simp), foldl_add_map, Nat.zero_add, List.map_map]
  rfl

/-- The mask that FCMP writes. -/
def fcmpMask (x : LaneWord) (s : State) : Nat :=
  combineMask x.comb (predMask s x.dN) (maskFrom ((List.zipWith (fun a b =>
    fCond (fmtOf x.ty) x.cond (a % 2 ^ tyWidth x.ty) (b % 2 ^ tyWidth x.ty)) (srcA s x 1) (srcB s x 1)).map (·.1)))

/-- The comparison that FCMP makes in a lane. -/
def fcmpLane (x : LaneWord) (s : State) (l : Nat) : Bool × Ev :=
  fCond (fmtOf x.ty) x.cond ((srcA s x 1).getD l 0 % 2 ^ tyWidth x.ty) ((srcB s x 1).getD l 0 % 2 ^ tyWidth x.ty)

theorem fcmpMask_testBit (x : LaneWord) (s : State) {l : Nat} (hl : l < 32) : (fcmpMask x s).testBit l =
    if x.comb = 0 then (fcmpLane x s l).1 else if x.comb = 1 then (predMask s x.dN).testBit l && (fcmpLane x s l).1
    else if x.comb = 2 then (predMask s x.dN).testBit l || (fcmpLane x s l).1 else (predMask s x.dN).testBit l != (fcmpLane x s l).1 := by
  rw [fcmpMask, combineMask_testBit, maskFrom_testBit (by simp) hl, List.map_zipWith,
    zipWith_getD _ false (srcA_length ..) (srcB_length ..) hl]
  rfl

/-- A compare of floating-point values, paid for. -/
theorem fcmp_paid (x : LaneWord) (s : State) (h : (payLane s 1 (activeMask s x)).2 = true) :
    exec (.fcmp x) s = .next (issued (aelLane (putPred (payLane s 1 (activeMask s x)).1 x.dN 2 (activeMask s x) (fcmpMask x s))
      (eventsOf (activeMask s x) ((List.zipWith (fun a b => fCond (fmtOf x.ty) x.cond (a % 2 ^ tyWidth x.ty) (b % 2 ^ tyWidth x.ty))
        (srcA s x 1) (srcB s x 1)).map fun r => (0, r.2)))) x (activeMask s x) true) := by
  show execFcmp x s = _
  unfold execFcmp
  dsimp only
  rw [pricedWord_paid 1 x _ s h, srcA_paid, srcB_paid, (payLane_reads s 1 (activeMask s x)).predMask]
  rfl

/-- The condition codes of floating-point values (R48, R221). -/
theorem fCond_eq (F : Fmt) (c a b : Nat) :
    let va := F.value a
    let vb := F.value b
    let nan := va.isNan || vb.isNan
    let lt := Val.lt va vb
    let gt := Val.lt vb va
    fCond F c a b = (if c = 0 then !nan && !lt && !gt else if c = 1 then nan || lt || gt
        else if c = 2 then lt else if c = 3 then !nan && !gt else if c = 4 then !nan && gt
        else if c = 5 then !nan && !lt else if c = 6 then !nan else nan,
      Ev.when (F.snan a || F.snan b || (nan && decide (2 ≤ c) && decide (c ≤ 5))) Ev.invalid) := by
  intro va vb nan lt gt
  refine Prod.ext ?_ rfl
  rw [ScalarFp.fCond_holds]
  match c with
  | 4 =>
    have hgt : gt = true → nan = false := fun h => by
      obtain ⟨hb, ha⟩ := ScalarFp.lt_nan h
      rw [show nan = (va.isNan || vb.isNan) from rfl, ha, hb]
      rfl
    show gt = (!nan && gt)
    revert hgt
    cases gt <;> cases nan <;> decide
  | 0 | 1 | 2 | 3 | 5 | 6 | _ + 7 => rfl

/-- The predicates that `PMOV.set` writes, over some of them. -/
def pmovSet (s : State) (act : Nat) (a b : List Nat) (ks : List Nat) : State :=
  ks.foldl (fun s k => putPred s k 1 (act &&& maskFrom (b.map (·.testBit k))) (maskFrom (a.map (·.testBit k)))) s

theorem pmovSet_frame (s : State) (act : Nat) (a b ks : List Nat) : LaneFrame s (pmovSet s act a b ks) :=
  LaneFrame.foldl _ (fun s k => putPred_frame s k _ _ _) ks s

theorem pmovSet_grp (s : State) (act : Nat) (a b ks : List Nat) :
    laneGrp (pmovSet s act a b ks) = { laneGrp s with p := (laneGrp (pmovSet s act a b ks)).p } := by
  induction ks generalizing s with
  | nil => rfl
  | cons k ks ih =>
    rw [pmovSet, List.foldl_cons, ← pmovSet, ih, putPred_grp]

theorem map_getD_testBit {a : List Nat} (ha : a.length = 32) (k : Nat) {l : Nat} (hl : l < 32) :
    (maskFrom (a.map (·.testBit k))).testBit l = (a.getD l 0).testBit k := by
  rw [maskFrom_testBit (by simpa using ha) hl]
  simp [List.getD_eq_getElem?_getD, List.getElem?_eq_getElem (ha ▸ hl : l < a.length)]

theorem pmovSet_p (s : State) (act : Nat) {a b : List Nat} (ha : a.length = 32) (hb : b.length = 32) {ks : List Nat} (hk : ks.Nodup)
    (j : Nat) {l : Nat} (hl : l < 32) : ((laneGrp (pmovSet s act a b ks)).p.get j 0).testBit l =
      if j ∈ ks ∧ (act.testBit l && (b.getD l 0).testBit j) = true then (a.getD l 0).testBit j else ((laneGrp s).p.get j 0).testBit l := by
  induction ks generalizing s with
  | nil => simp [pmovSet]
  | cons k ks ih =>
    obtain ⟨hn, hks⟩ := List.nodup_cons.1 hk
    rw [pmovSet, List.foldl_cons, ← pmovSet, ih _ hks, putPred_p _ _ _ _ _ hl, Nat.testBit_and, map_getD_testBit ha k hl,
      map_getD_testBit hb k hl]
    by_cases hj : j = k
    · subst hj
      simp [hn]
    · simp [hj]

theorem pmovSet_eq (x : LaneWord) (s : State) (h : x.ty = 0) : exec (.pmov x) s =
    .next (issued (pmovSet s (activeMask s x) (srcA s x 1) (srcB s x 1) (List.range 12)) x (activeMask s x) true) := by
  show execPmov x s = _
  unfold execPmov freeWordAct
  dsimp only
  rw [if_pos h]
  rfl

theorem lanePredicates : LanePredicates := by
  intro x s t n act A B pred combine
  refine ⟨fun _ _ => ?_, fun _ hc => ?_, plop_sets x s, pmovGet_writes x s, fun h0 => ?_, sel_writes x s⟩
  · have := icmp_sets x s
    simp only [iCond_eq, intVal_mod] at this
    exact this
  · intro F a b va vb nan lt gt r inv p
    obtain ⟨body, hb⟩ := execFcmp_priced x s
    refine ⟨fun hp => hb.trans (pricedWord_denied 1 x body s hp), fun hp => ⟨fcmpMask x s, fun l hl => ?_, ?_⟩⟩
    · rw [fcmpMask_testBit x s hl, fcmpLane, fCond_eq]
    · rw [fcmp_paid x s hp, eventsOf_when (g := inv) fun l hl => ?_]
      rw [List.map_zipWith, zipWith_getElem? _ (srcA_length ..) (srcB_length ..) hl, fCond_eq]
  · have hf := pmovSet_frame s act (srcA s x 1) (srcB s x 1) (List.range 12)
    refine ⟨_, pmovSet_eq x s h0, hf.rest, pmovSet_grp .., hf.grp, fun k l hk hl => ?_⟩
    rw [pmovSet_p s act (srcA_length ..) (srcB_length ..) List.nodup_range k hl]
    simp only [List.mem_range, hk, true_and]
    rfl

/-! ### LEXIT (R225, R366) -/

/-- What a barrier event changes: barriers of flocks, what a context remembers of progress, and waits of threads. -/
structure BarFrame (s t : State) : Prop where
  rest : t = { s with
    flocks := t.flocks
    ctxs := t.ctxs
    threads := t.threads }
  thr : ∀ u, t.thr u = { s.thr u with wait := (t.thr u).wait }
  clus : ∀ i, (t.flk i).clus = (s.flk i).clus

theorem BarFrame.refl (s : State) : BarFrame s s := ⟨rfl, fun _ => rfl, fun _ => rfl⟩

theorem BarFrame.trans {s t u : State} (h : BarFrame s t) (k : BarFrame t u) : BarFrame s u :=
  ⟨by rw [k.rest, h.rest], fun v => by rw [k.thr v, h.thr v], fun i => (k.clus i).trans (h.clus i)⟩

/-- What every value of a table and its new value have in common, the values at a key have. -/
theorem get_mapVals_rel {κ α : Type} [DecidableEq κ] {P : α → α → Prop} {f : κ → α → α} (hf : ∀ k v, P v (f k v)) {d : α}
    (hd : P d d) (t : Table κ α) (k : κ) : P (t.get k d) ((t.mapVals f).get k d) := by
  induction t with
  | nil => exact hd
  | cons e t ih =>
    show P (if e.1 = k then e.2 else Table.get t k d) (if e.1 = k then f e.1 e.2 else Table.get (Table.mapVals f t) k d)
    split
    · exact hf _ _
    · exact ih

theorem endBarWaits_frame (s : State) (fid : Nat) (k : Nat × Nat) (b : BarSlot) : BarFrame s (endBarWaits s fid k b) := by
  refine ⟨rfl, fun u => ?_, fun _ => rfl⟩
  unfold endBarWaits State.thr
  dsimp only
  refine get_mapVals_rel (P := fun v w => w = { v with wait := w.wait }) (fun t x => ?_) (d := Thread.start) rfl s.threads u
  split
  · split <;> rfl
  · rfl

theorem setBar_frame (s : State) (fid : Nat) (k : Nat × Nat) (b : BarSlot) : BarFrame s (setBar s fid k b) := by
  refine ⟨rfl, fun _ => rfl, fun i => ?_⟩
  rw [setBar, State.flk_modFlk]
  split
  · next h => rw [h]
  · rfl

theorem barEvent_frame (s : State) (fid : Nat) (k : Nat × Nat) : BarFrame s (barEvent s fid k) := by
  unfold barEvent
  dsimp only
  split
  · generalize carried s fid _ _ = c
    have hset : BarFrame s (setBar s fid k c) := setBar_frame s fid k c
    have hprog (u : State) : BarFrame u (progress u (s.flk fid).ctx) := ⟨rfl, fun _ => rfl, fun _ => rfl⟩
    exact (hset.trans (endBarWaits_frame _ fid k c)).trans (hprog _)
  · exact BarFrame.refl s

theorem exitEvent_frame (s : State) (fid m slot : Nat) : BarFrame s (exitEvent s fid m slot) := by
  unfold exitEvent
  generalize (s.flk fid).bars = bars
  induction bars generalizing s with
  | nil => exact BarFrame.refl s
  | cons e bars ih =>
    rw [List.foldl_cons]
    refine BarFrame.trans ?_ (ih _)
    dsimp only
    split
    · exact barEvent_frame s fid _
    · exact BarFrame.refl s

/-- The masks of the group in focus as LEXIT leaves them. -/
def exitMasks (s : State) (act : Nat) : State :=
  modLaneGrp s fun g => { g with
    ex := g.ex &&& (act ^^^ allLanes)
    park := g.park &&& (act ^^^ allLanes)
    exit := g.exit ||| act }

/-- The state that LEXIT leaves before it counts as issued. -/
def afterExit (s : State) (act : Nat) : State :=
  if act = 0 then exitMasks s act else exitEvent (exitMasks s act) s.lane.tid.fid (laneMember s) s.lane.slot

theorem execLexit_eq (x : LaneWord) (s : State) :
    exec (.lexit x) s = .next (issued (afterExit s (activeMask s x)) x (activeMask s x) true) := rfl

theorem afterExit_frame (s : State) (act : Nat) : BarFrame (exitMasks s act) (afterExit s act) := by
  unfold afterExit
  split
  · exact BarFrame.refl _
  · exact exitEvent_frame ..

theorem laneExits : LaneExits := by
  intro x s act
  have hb := afterExit_frame s act
  have hgrp f m j : (afterExit s act).grp f m j = (exitMasks s act).grp f m j := by rw [hb.rest]; rfl
  have hlane : laneGrp (afterExit s act) = laneGrp (exitMasks s act) := by
    have hl : (afterExit s act).lane = s.lane := by rw [hb.rest]; rfl
    have hm : laneMember (afterExit s act) = laneMember s := by
      rw [laneMember, hl, hb.clus]
      rfl
    rw [laneGrp, hl, hm, hgrp]
    rfl
  have hself : laneGrp (exitMasks s act) = { laneGrp s with
    ex := (laneGrp s).ex &&& (act ^^^ allLanes)
    park := (laneGrp s).park &&& (act ^^^ allLanes)
    exit := (laneGrp s).exit ||| act } := State.grp_modGrp_self ..
  refine ⟨rfl, afterExit s act, execLexit_eq x s, ?_, hb.thr, fun f m j h => ?_, ?_, fun l hl => ?_, fun h0 => ?_⟩
  · rw [hb.rest]; rfl
  · rw [hgrp]
    exact (modLaneGrp_frame s _).grp f m j h
  · rw [hlane, hself]
  · rw [hlane, hself]
    simp only [Nat.testBit_and, Nat.testBit_xor, Nat.testBit_or, allLanes_testBit hl, Bool.xor_true]
    exact ⟨trivial, trivial, trivial⟩
  · rw [afterExit, if_pos h0]
    exact ⟨rfl, rfl, rfl⟩

/-! ### Retired words (R53, R434) -/

theorem b2n_nonzero (r : Nat) : b2n (decide (r ≠ 0)) = if r = 0 then 0 else 1 := by
  by_cases h : r = 0 <;> simp [b2n, h]

theorem quotients : Quotients := by
  refine ⟨fun v => ⟨rfl, by cases v <;> rfl⟩, fun a b => rfl, fun n k m e => ⟨rfl, rfl⟩, fun n k e e' => rfl,
    fun n k m e e' hm => by unfold divVal; dsimp only; rw [if_pos rfl, if_neg hm],
    fun n k m m' e e' hm => ⟨_, if_neg hm, ?_, ?_⟩⟩
  · rw [b2n_nonzero]
    split <;> omega
  · rw [b2n_nonzero, Nat.dvd_iff_mod_eq_zero]
    split <;> omega

/-- What a retired word of a price pays and writes. -/
theorem retiredWord_pays (price : Nat) (x : LaneWord) (s : State) (g : Nat → Nat → Nat) (f : Nat → Nat)
    (h : ∀ l < 32, g ((srcA s x 1).getD l 0) ((srcB s x 1).getD l 0) = f l) :
    let p := payLane s price (activeMask s x)
    (p.2 = false → retiredWord price x g s = holdWord p.1)
    ∧ (p.2 = true → retiredWord price x g s =
        .next (issued (putDest p.1 x.dN 1 0 (activeMask s x) ((List.range 32).map f)) x (activeMask s x) true)) := by
  intro p
  refine ⟨fun hp => pricedWord_denied price x _ s hp, fun hp => ?_⟩
  rw [retiredWord, pricedWord_paid price x _ s hp, srcA_paid, srcB_paid, zipWith_lanes (srcA_length ..) (srcB_length ..), map_range_congr h]

section
variable {t : Nat} (ht : t = 2 ∨ t = 6)
include ht

theorem tyWidth_word : tyWidth t = 32 := by rcases ht with rfl | rfl <;> rfl

theorem intVal_word {e : Nat} (he : e < 2 ^ 32) : intVal t e = ival t e := intVal_eq (by rw [tyWidth_word ht]; exact he)

/-- A number read in a 32-bit type is itself up to multiples of 2^32. -/
theorem ival_modEq (e : Nat) : Int.ModEq (2 ^ 32) (ival t e) e := by
  unfold ival
  rw [tyWidth_word ht]
  split
  · exact Int.sub_emod_right _ _
  · rfl

variable {a b : Nat} (ha : a < 2 ^ 32) (hb : b < 2 ^ 32)
include ha hb

theorem idivQ_eq : idivQ t a b = ((if b = 0 then -1 else Int.tdiv (ival t a) (ival t b)) % 2 ^ 32).toNat := by
  rw [idivQ, Nat.mod_eq_of_lt hb]
  split
  · rfl
  · rw [truncNat_eq, intVal_word ht ha, intVal_word ht hb]

theorem iremR_eq : iremR t a b = if b = 0 then a else
    ((ival t a - ival t b * (if b = 0 then -1 else Int.tdiv (ival t a) (ival t b))) % 2 ^ 32).toNat := by
  rw [iremR, Nat.mod_eq_of_lt hb, idivQ_eq ht ha hb]
  generalize (if b = 0 then -1 else Int.tdiv (ival t a) (ival t b)) = q
  split
  · rfl
  · have hq : Int.ModEq (2 ^ 32) (intVal t (q % 2 ^ 32).toNat) q := by
      have h0 : 0 ≤ q % 2 ^ 32 := Int.emod_nonneg _ (by decide)
      have hlt : (q % 2 ^ 32).toNat < 2 ^ 32 := by have := Int.emod_lt_of_pos q (show (0 : Int) < 2 ^ 32 by decide); omega
      rw [intVal_word ht hlt]
      refine (ival_modEq ht _).trans ?_
      rw [Int.toNat_of_nonneg h0]
      exact Int.mod_modEq q _
    rw [truncNat_eq, intVal_word ht ha, intVal_word ht hb]
    exact congrArg Int.toNat (Int.ModEq.sub_left _ (Int.ModEq.mul_left _ hq))

end

theorem retiredWords : RetiredWords := by
  intro x s act A B iv q pays
  have hA {l : Nat} (hl : l < 32) : A l < 2 ^ 32 := srcNat_lt s x.aN _ 1 hl
  have hB {l : Nat} (hl : l < 32) : B l < 2 ^ 32 := srcNat_lt s x.bN _ 1 hl
  refine ⟨fun ht => ⟨?_, ?_⟩, ?_⟩
  · exact retiredWord_pays 4 x s (idivQ x.ty) _ fun l hl => idivQ_eq ht (hA hl) (hB hl)
  · exact retiredWord_pays 4 x s (iremR x.ty) _ fun l hl => iremR_eq ht (hA hl) (hB hl)
  · exact retiredWord_pays 6 x s (fdivR x) _ fun l _ => rfl

/-- Settles O46: predicate masks bit by bit, the frame of a barrier event for LEXIT, and the retired words as paid words. -/
theorem lanePredicatesAndDivision : Obligations.LanePredicatesAndDivision :=
  ⟨⟨predicateWrites, lanePredicates, laneExits⟩, retiredWords, quotients⟩

end Sys2Proof.Predicates

end

section
/-! PROOFS. Matrix words: their entry into the queue, the lengths of a shape, and an element of the result (R247, R248, R49, R50, R191, R192, R250, R251, R263, R266, R347). -/

namespace Sys2Proof.Matrix
open Sys2Proof Sys2Proof.Machine Sys2Proof.Claims Sys2Proof.Lanes Sys2Proof.Runs

/-! ### Entering the queue (R247, R248, R347) -/

theorem refuseWord_lane (s : State) : (refuseWord s).lane = s.lane := by
  unfold refuseWord raiseOnce
  dsimp only
  split
  · rfl
  · exact raiseTrap_lane ..

theorem releaseCode_lane (s : State) (pid m : Nat) (e : EWord) : (releaseCode s pid m e).lane = s.lane := by
  unfold releaseCode
  split <;> rfl

/-- The entry of the word in focus. -/
def newEntry (s : State) : MatEnt :=
  { tid := s.lane.tid, str := s.lane.str, word := s.lane.word, paid := false, yop := none, start := none, snap := []
    lead := (laneMember s, s.lane.word), peerErr := false }

/-- What a matrix word does at its cluster issue. -/
def enterQueue (s : State) (c : CIssue) : State × Bool :=
  if !c.full then (releaseCode (refuseWord s) s.lane.pid (laneMember s) s.lane.word, true)
  else if 8 ≤ (s.clu s.lane.pid).mq.length then (s, false)
  else (s.setClu s.lane.pid { s.clu s.lane.pid with mq := (s.clu s.lane.pid).mq ++ [newEntry s] }, true)

theorem enterQueue_lane (s : State) (c : CIssue) : (enterQueue s c).1.lane = s.lane := by
  unfold enterQueue
  split
  · exact (releaseCode_lane ..).trans (refuseWord_lane s)
  · split <;> rfl

theorem matrixWord_eq (x : LaneWord) (s : State) : matrixWord x s = onceWord x (fun _ c => enterQueue s c) s := by
  unfold matrixWord enterQueue onceWord
  rfl

theorem enterQueue_spec (s : State) (c : CIssue) :
    (c.full = false → ∃ t, enterQueue s c = (t, true) ∧ (usesCode s.lane.word.op s.lane.word.x = false → t = refuseWord s)
        ∧ (usesCode s.lane.word.op s.lane.word.x = true → t = (refuseWord s).setClu s.lane.pid { (refuseWord s).clu s.lane.pid with
            code := ((refuseWord s).clu s.lane.pid).code.retire (s.lane.word.banks.get (laneMember s) 0) }))
    ∧ (c.full = true → 8 ≤ (s.clu s.lane.pid).mq.length → enterQueue s c = (s, false))
    ∧ (c.full = true → (s.clu s.lane.pid).mq.length < 8 →
        enterQueue s c = (s.setClu s.lane.pid { s.clu s.lane.pid with mq := (s.clu s.lane.pid).mq ++ [newEntry s] }, true)) := by
  refine ⟨fun hc => ⟨releaseCode (refuseWord s) s.lane.pid (laneMember s) s.lane.word, ?_, fun hu => ?_, fun hu => ?_⟩, fun hc hq => ?_, fun hc hq => ?_⟩
  · rw [enterQueue, hc]
    rfl
  · rw [releaseCode, hu]
    rfl
  · rw [releaseCode, hu]
    rfl
  · rw [enterQueue, hc]
    exact if_pos hq
  · rw [enterQueue, hc]
    exact if_neg (Nat.not_le_of_lt hq)

theorem wordsEnterQueue : Claims.MatrixWords := by
  intro x s i hi pid
  have hexec : exec i s = onceWord x (fun _ c => enterQueue s c) s := by
    simp only [List.mem_cons, List.not_mem_nil, or_false] at hi
    rcases hi with rfl | rfl | rfl <;> exact matrixWord_eq x s
  rw [hexec]
  refine ⟨enterQueue s, onceWord_laneOnce x _ s (enterQueue_lane s), fun c => ?_⟩
  obtain ⟨hrefused, hheld, henters⟩ := enterQueue_spec s c
  exact ⟨hrefused, hheld, fun hc hq => ⟨newEntry s, henters hc hq, rfl, rfl, rfl, rfl, rfl, rfl, rfl, rfl, rfl⟩⟩

/-! ### Shapes (R49, R50, R263, R266) -/

theorem shapeN_eq (sh : Nat) : shapeN sh = if sh / 4 % 2 = 1 then 128 else 64 := by
  rw [shapeN, Nat.testBit_eq_decide_div_mod_eq]
  by_cases h : sh / 4 % 2 = 1 <;> simp [h]

/-- The streaming length of a shape, at most 8192 cycles. -/
theorem streamed_le : ∀ sh < 32, ∀ v ∈ [(256, 256, 1), (64, 128, 2), (128, 128, 1)],
    (v.1 * 4 ^ (sh % 4) + v.2.1 - 1) / v.2.1 * (32 * (sh / 8 + 1)) * v.2.2 ≤ 8192 := by
  decide

theorem tile_le : ∀ sh < 32, 32 * (sh / 8 + 1) * (if sh / 4 % 2 = 1 then 128 else 64) / 128 ≤ 128
    ∧ 4 * (32 * (sh / 8 + 1) / 32) * ((if sh / 4 % 2 = 1 then 128 else 64) / 64) * 4 ^ (sh % 4) ≤ 2048 := by
  decide

theorem streamLen_le (t : Nat) {sh : Nat} (hs : sh < 32) :
    ((if t = 13 then 256 else if t = 8 ∨ t = 9 then 64 else 128) * 4 ^ (sh % 4) + (if t = 13 then 256 else 128) - 1)
      / (if t = 13 then 256 else 128) * (32 * (sh / 8 + 1)) * (if t = 8 ∨ t = 9 then 2 else 1) ≤ 8192 := by
  by_cases h13 : t = 13
  · subst h13
    exact streamed_le sh hs (256, 256, 1) (by decide)
  · by_cases h8 : t = 8 ∨ t = 9
    · simp only [h13, h8, if_true, if_false]
      exact streamed_le sh hs (64, 128, 2) (by decide)
    · simp only [h13, h8, if_false]
      exact streamed_le sh hs (128, 128, 1) (by decide)

theorem matrixShapes : MatrixShapes := by
  intro e hop hsh sh t M N K kp S y
  have hz : e.isZero = false := decide_eq_false (by rcases hop with h | h <;> rw [h] <;> decide)
  have hy : (if e.isYoked then 32 else 0) = y := by
    rw [MatEnt.isYoked]
    simp only [decide_eq_true_eq]
    rfl
  have hN : shapeN sh = N := shapeN_eq sh
  have hS : e.streamLen = S := by
    rw [MatEnt.streamLen, hz]
    rfl
  have hlen : e.length = 40 + y + S + M * N / 128 := by
    rw [MatEnt.length, hz, hy, hS, ← hN]
    rfl
  have hprice : e.price = 4 * (M / 32) * (N / 64) * 4 ^ (sh % 4) := by
    rw [MatEnt.price, hz, ← hN]
    rfl
  have hSle : S ≤ 8192 := streamLen_le t hsh
  have hyle : y ≤ 32 := by
    show (if _ then 32 else 0) ≤ 32
    split <;> omega
  obtain ⟨htile, hple⟩ := tile_le sh hsh
  refine ⟨rfl, hN, rfl, hS, by rw [MatEnt.streamEnd, hy, hS], hlen, hprice, ?_, ?_⟩
  · rw [hlen]
    have : M * N / 128 ≤ 128 := htile
    omega
  · rw [hprice]
    exact hple

/-! ### Values (R191, R192, R250, R251) -/

theorem nibAt_eq (bs : List Byte) (j : Nat) : nibAt bs j = byteAt bs (j / 2) / (if j % 2 = 0 then 1 else 16) % 16 := by
  rw [nibAt]
  rcases Nat.mod_two_eq_zero_or_one j with h | h <;> rw [h] <;> rfl

/-- The exact sum of values, in order. -/
def exactSum (vs : List Val) (z : Val) : Val := vs.foldl (fun a v => (Val.add false a v).1) z

theorem any_isNan (vs : List Val) : vs.any Val.isNan = true ↔ Val.nan ∈ vs := by
  rw [List.any_eq_true]
  constructor
  · rintro ⟨v, hv, hn⟩
    cases v with
    | nan => exact hv
    | inf _ => cases hn
    | fin _ _ _ => cases hn
  · exact fun h => ⟨_, h, rfl⟩

theorem any_isInf (n : Bool) (vs : List Val) : vs.any (Val.isInf n) = true ↔ Val.inf n ∈ vs := by
  rw [List.any_eq_true]
  constructor
  · rintro ⟨v, hv, hn⟩
    cases v with
    | inf k => rw [← eq_of_beq hn]; exact hv
    | nan => cases hn
    | fin _ _ _ => cases hn
  · exact fun h => ⟨_, h, beq_self_eq_true n⟩

/-- A group's value: a NaN, or its exact sum rounded once (R191). -/
theorem groupSum_eq (ps : List (Val × Ev)) {v : Val} {vs : List Val} (h : ps.map (·.1) = v :: vs) :
    let bad := Val.nan ∈ v :: vs ∨ (Val.inf true ∈ v :: vs ∧ Val.inf false ∈ v :: vs)
    (bad → (groupSum ps).1 = fF32.nan) ∧ (¬ bad → (groupSum ps).1 = (roundTo fF32 .rn false false (exactSum vs v)).1) := by
  intro bad
  unfold groupSum
  dsimp only
  rw [h]
  by_cases hn : Val.nan ∈ v :: vs
  · rw [if_pos ((any_isNan _).2 hn)]
    exact ⟨fun _ => rfl, fun hb => absurd (Or.inl hn) hb⟩
  · rw [if_neg (mt (any_isNan _).1 hn)]
    by_cases hi : Val.inf true ∈ v :: vs ∧ Val.inf false ∈ v :: vs
    · rw [if_pos (by rw [Bool.and_eq_true]; exact ⟨(any_isInf _ _).2 hi.1, (any_isInf _ _).2 hi.2⟩)]
      exact ⟨fun _ => rfl, fun hb => absurd (Or.inr hi) hb⟩
    · rw [if_neg (by rw [Bool.and_eq_true]; exact fun k => hi ⟨(any_isInf _ _).1 k.1, (any_isInf _ _).1 k.2⟩)]
      exact ⟨fun hb => absurd hb (not_or.2 ⟨hn, hi⟩), fun _ => rfl⟩

/-- The sums of the groups after each is added, the first sum given. -/
def sumAfter (g : Nat → Nat × Ev) (z : Nat × Ev) (n : Nat) : Nat × Ev := (List.range n).foldl (fun a i => accStep a (g i)) z

theorem sumAfter_succ (g : Nat → Nat × Ev) (z : Nat × Ev) (n : Nat) : (sumAfter g z (n + 1)).1 =
    (roundTo fF32 .rn false false (Val.add false (fF32.value (sumAfter g z n).1) (fF32.value (g n).1)).1).1 := by
  rw [sumAfter, List.range_succ, List.foldl_append]
  rfl

/-- A product whose operands have scales of blocks of 32 (R191). -/
theorem matProduct_scaled {e : MatEnt} (h : e.ty = 13) (vec : Nat → Nat) (m k c : Nat) : (matProduct e vec m k c).1 =
    if byteAt (e.snap.getD 1 []) (m * (shapeK e.ty e.sh / 32) + k / 32) = 255 ∨ bScale (e.snap.getD 3 []) (k / 32) c = 255 then .nan
    else Val.scale ((byteAt (e.snap.getD 1 []) (m * (shapeK e.ty e.sh / 32) + k / 32) : Int) + bScale (e.snap.getD 3 []) (k / 32) c - 254)
      (Val.mul ((fmtOf e.aTy).value (aElem e.ty (rowBytes e.ty e.sh) (e.snap.getD 0 []) m k))
        ((fmtOf e.aTy).value (bElem e.ty (e.snap.getD 2 []) k c))).1 := by
  unfold matProduct
  dsimp only
  rw [if_pos h]
  split <;> rfl

/-- A product with a weight of the codebook (R192). -/
theorem matProduct_weight {e : MatEnt} (h : e.ty = 14) (vec : Nat → Nat) (m k c : Nat) : (matProduct e vec m k c).1 =
    let b := bElem e.ty (e.snap.getD 2 []) k c
    let q := (cb2Decode b (vec b)).getD (k % 8) 0
    if bScale (e.snap.getD 3 []) (k / 64) c = 255 then .nan
    else (Val.mul ((fmtOf e.aTy).value (aElem e.ty (rowBytes e.ty e.sh) (e.snap.getD 0 []) m k))
      (.fin (decide (q < 0)) q.natAbs ((bScale (e.snap.getD 3 []) (k / 64) c : Int) - 130))).1 := by
  unfold matProduct
  dsimp only
  rw [if_neg (by omega), if_pos h]
  split <;> rfl

theorem matProduct_plain {e : MatEnt} (h13 : e.ty ≠ 13) (h14 : e.ty ≠ 14) (vec : Nat → Nat) (m k c : Nat) :
    (matProduct e vec m k c).1 = (Val.mul ((fmtOf e.aTy).value (aElem e.ty (rowBytes e.ty e.sh) (e.snap.getD 0 []) m k))
      ((fmtOf e.ty).value (bElem e.ty (e.snap.getD 2 []) k c))).1 := by
  unfold matProduct
  dsimp only
  rw [if_neg h13, if_neg h14]

/-- An element of an integer result: the exact sum, wrapped to 32 bits (R191). -/
theorem matElem_int {e : MatEnt} (h : e.ty = 0 ∨ e.ty = 4) (vec : Nat → Nat) (m c : Nat) : ((matElem e vec m c).1 : Int) =
    (((List.range (shapeK e.ty e.sh)).map fun k => ival e.ty (aElem e.ty (rowBytes e.ty e.sh) (e.snap.getD 0 []) m k % 256)
        * ival e.ty (bElem e.ty (e.snap.getD 2 []) k c % 256)).sum
      + (if e.acc then (leNat (((e.snap.getD 4 []).drop (4 * (128 * m + c))).take 4) : Int) else 0)) % 2 ^ 32 := by
  have hw : tyWidth e.ty = 8 := by rcases h with h | h <;> rw [h] <;> rfl
  have hv x : intVal e.ty x = ival e.ty (x % 256) := by rw [intVal_mod, hw]; rfl
  unfold matElem
  dsimp only
  rw [if_pos h]
  dsimp only
  rw [truncNat_eq, Int.toNat_of_nonneg (Int.emod_nonneg _ (by decide)), foldl_add_map, zero_add]
  simp only [hv]

/-- The sum of a group of 16 products. -/
def groupAt (e : MatEnt) (vec : Nat → Nat) (m c g : Nat) : Nat × Ev :=
  groupSum ((List.range 16).map fun j => matProduct e vec m (16 * g + j) c)

/-- An element of a floating-point result: the groups added in ascending order (R191). -/
theorem matElem_float {e : MatEnt} (h : ¬ (e.ty = 0 ∨ e.ty = 4)) (vec : Nat → Nat) (m c : Nat) : matElem e vec m c =
    if e.acc then sumAfter (groupAt e vec m c) (leNat (((e.snap.getD 4 []).drop (4 * (128 * m + c))).take 4), Ev.none) (shapeK e.ty e.sh / 16)
    else sumAfter (fun g => groupAt e vec m c (g + 1)) (groupAt e vec m c 0) (shapeK e.ty e.sh / 16 - 1) := by
  unfold matElem
  dsimp only
  rw [if_neg h]
  rfl

theorem shapeK_groups (t sh : Nat) : 1 ≤ shapeK t sh / 16 := by
  have hp : 1 ≤ 4 ^ (sh % 4) := Nat.one_le_pow _ _ (by decide)
  have hb : 64 ≤ kBase t := by unfold kBase; split_ifs <;> decide
  have := Nat.mul_le_mul hb hp
  rw [shapeK]
  omega

theorem matrixValues : MatrixValues := by
  intro e vec m c _ _ _ t K byte half nib wide row A kr at1 B scale FA p group exact bad G old acc r
  have hA k : A k = aElem e.ty (rowBytes e.ty e.sh) (e.snap.getD 0 []) m k := by
    rw [aElem, nibAt_eq]
    rfl
  have hB k : B k = bElem e.ty (e.snap.getD 2 []) k c := by
    rw [bElem, nibAt_eq]
    rfl
  have hFA : FA = fmtOf e.aTy := by
    show fmtOf _ = fmtOf e.aTy
    rw [MatEnt.aTy, Nat.testBit_eq_decide_div_mod_eq]
    simp only [decide_eq_true_eq]
    rfl
  have hacc : e.acc = true ↔ acc := by
    rw [MatEnt.acc, Nat.testBit_eq_decide_div_mod_eq, decide_eq_true_eq]
  have hp k : p k = (matProduct e vec m k c).1 := by
    by_cases h13 : t = 13
    · rw [matProduct_scaled h13, ← hA, ← hB, ← hFA]
      refine (if_pos h13).trans ?_
      show (if _ then _ else Val.scale _ (Val.mul _ ((fmtOf t).value (B k))).1) = _
      rw [show fmtOf t = FA from congrArg fmtOf (if_neg (by omega)).symm]
      rfl
    · refine (if_neg h13).trans ?_
      by_cases h14 : t = 14
      · rw [matProduct_weight h14, ← hA, ← hB, ← hFA]
        exact if_pos h14
      · rw [matProduct_plain h13 h14, ← hA, ← hB, ← hFA]
        exact if_neg h14
  refine ⟨fun ht => ?_, fun h0 h4 => ?_⟩
  · show ((matElem e vec m c).1 : Int) = _
    rw [matElem_int ht]
    simp only [← hA, ← hB, hacc]
    rfl
  · have hG g : G g (groupAt e vec m c g).1 := by
      have hmap : ((List.range 16).map fun j => matProduct e vec m (16 * g + j) c).map (·.1) = group g := by
        rw [List.map_map]
        exact List.map_congr_left fun j _ => (hp (16 * g + j)).symm
      exact groupSum_eq _ (v := p (16 * g)) (vs := (group g).drop 1) hmap
    have hel : r = _ := congrArg Prod.fst (matElem_float (not_or.2 ⟨h0, h4⟩) vec m c)
    have hK : K / 16 - 1 + 1 = K / 16 := Nat.sub_add_cancel (shapeK_groups ..)
    have hrow (h : wide) : row = 2 * K := (if_neg (by rcases h with h | h <;> omega)).trans (if_pos h)
    by_cases ha : acc
    · rw [if_pos (hacc.2 ha)] at hel
      refine ⟨fun g => (sumAfter (groupAt e vec m c) (old, Ev.none) (g + 1)).1, fun g => (groupAt e vec m c g).1, fun g _ => hG g,
        fun _ => sumAfter_succ .., fun h => absurd ha h, fun g _ => sumAfter_succ .., ?_, hrow⟩
      beta_reduce
      rw [hK]
      exact hel
    · rw [if_neg (mt hacc.1 ha)] at hel
      exact ⟨fun g => (sumAfter (fun g => groupAt e vec m c (g + 1)) (groupAt e vec m c 0) g).1, fun g => (groupAt e vec m c g).1, fun g _ => hG g,
        fun h => absurd h ha, fun _ => rfl, fun g _ => sumAfter_succ .., hel, hrow⟩

/-- Settles O52: a matrix word is one action per cluster, a shape's lengths are checked over the 32 shapes, and an element is the
sum of its groups of products. -/
theorem matrixWords : Obligations.MatrixWords := ⟨wordsEnterQueue, matrixShapes, matrixValues⟩

end Sys2Proof.Matrix

end

section
/-! PROOFS. SWR: what a write to a system register leaves of the program counters and the general registers (R322, R323). -/

namespace Sys2Proof.Completion
open Sys2Proof Sys2Proof.Machine Sys2Proof.Claims Sys2Proof.Runs Sys2Proof.Results

/-! ### SWR: no write to a system register touches a program counter or a general register -/

/-- The thread in focus, and of each thread its program counter and its registers. -/
def regsOf (s : State) : Tid × (Tid → Word64 × Table Nat Word64) := (s.cur, fun v => ((s.thr v).pc, (s.thr v).g))

theorem regsOf_modThr (s : State) (t : Tid) {f : Thread → Thread} (hf : ∀ x, (f x).pc = x.pc ∧ (f x).g = x.g) :
    regsOf (s.modThr t f) = regsOf s := by
  refine Prod.ext rfl (funext fun v => ?_)
  show ((((s.modThr t f).thr v).pc, ((s.modThr t f).thr v).g) : Word64 × Table Nat Word64) = _
  rw [State.thr_modThr]
  split
  · next h => rw [(hf _).1, (hf _).2, h]; rfl
  · rfl

theorem regsOf_home {s t : State} (h : HomeFrame s t) : regsOf t = regsOf s :=
  Prod.ext h.cur (funext fun v => by simp only [regsOf, h.thr v])

theorem regsOf_setEx (s : State) (fid clu slot v : Nat) : regsOf (setEx s fid clu slot v) = regsOf s := by
  unfold setEx
  split <;> rfl

theorem regsOf_modStr (s : State) (t : Tid) (n : Nat) (f : Stream → Stream) : regsOf (modStr s t n f) = regsOf s :=
  regsOf_modThr _ _ fun _ => ⟨rfl, rfl⟩

theorem regsOf_settleMaskRdUntil (s : State) (t : Tid) (k : Nat) : regsOf (settleMaskRdUntil s t k) = regsOf s := by
  unfold settleMaskRdUntil
  dsimp only
  split
  · exact regsOf_modThr _ _ fun _ => ⟨rfl, rfl⟩
  · rfl

theorem regsOf_applyMasks (s : State) (t : Tid) (n : Nat) (p : Nat × Nat) : regsOf (applyMasks s t n p) = regsOf s := by
  unfold applyMasks
  dsimp only
  split
  · rfl
  · refine (regsOf_modStr ..).trans (foldl_keep regsOf _ (fun u m => ?_) _ _)
    exact (regsOf_setEx ..).trans (regsOf_settleMaskRdUntil ..)

theorem regsOf_writeEx (s : State) (slot v : Nat) : regsOf (writeEx s slot v) = regsOf s := by
  unfold writeEx
  split
  · exact (foldl_keep regsOf _ (fun _ _ => regsOf_applyMasks ..) _ _).trans (regsOf_modStr ..)
  · dsimp only
    split
    · rfl
    · exact regsOf_setEx ..

theorem regsOf_popFences (pid n : Nat) (s : State) : regsOf (popFences s pid n) = regsOf s := by
  induction n generalizing s with
  | zero => rfl
  | succ n ih =>
    unfold popFences
    dsimp only
    split
    · rfl
    · refine (ih _).trans (foldl_keep regsOf _ ?_ _ _)
      exact fun _ _ => rfl

theorem regsOf_modHead (s : State) (pid q : Nat) (f : CopyEnt → CopyEnt) : regsOf (modHead s pid q f) = regsOf s := by
  unfold modHead
  dsimp only
  split <;> rfl

theorem regsOf_abort (s : State) (pid q : Nat) : regsOf (outState (execCqctlAbort pid q s) s) = regsOf s := by
  unfold execCqctlAbort
  dsimp only
  split
  · rfl
  · exact (regsOf_popFences ..).trans rfl

theorem regsOf_resume (s : State) (pid q : Nat) : regsOf (outState (execCqctlResume pid q s) s) = regsOf s := by
  unfold execCqctlResume
  dsimp only
  split
  · rfl
  · exact (regsOf_modHead ..).trans rfl

theorem regsOf_writeCqctl (s : State) (pid v : Nat) : regsOf (writeCqctl s pid v) = regsOf s := by
  refine foldl_keep regsOf _ (fun u q => ?_) _ _
  split
  · exact regsOf_abort ..
  · split
    · exact regsOf_resume ..
    · rfl

theorem cleanPage_frame (s : State) (pa n : Nat) : HomeFrame s (cleanPage s pa n) := by
  refine HomeFrame.foldl _ (fun u l => ?_) _ _
  have h := HomeFrame.foldl (fun u k => recallSector u (l * 256 + 32 * k)) (fun u k => recallSector_frame u _) (List.range 8) u
  dsimp only
  split
  · exact h
  · exact h.trans (combine_frame ..)

theorem regsOf_xlStart (s : State) (ctx op count size : Nat) : regsOf (xlStart s ctx op count size) = regsOf s := by
  unfold xlStart
  dsimp only
  split
  · rfl
  · split
    · rfl
    · split
      · have h := walkFromBy_frame atHome_frame ctx (s.ctx ctx).xlarg0.toNat walkLevels s ((s.ctx ctx).root * 4096) []
        unfold walkFrom
        split
        · next hw =>
          rw [hw] at h
          split
          · exact (regsOf_home (cleanPage_frame ..)).trans (regsOf_home h)
          · rfl
        · rfl
      · rfl
      · rfl
      · rfl

theorem regsOf_setSeed (s : State) (pid : Nat) (v : Word64) : regsOf (setSeed s pid v) = regsOf s := by
  unfold setSeed settleSeed
  split <;> rfl

theorem regsOf_sysWrite (s : State) (r : SysReg) (v : Word64) : regsOf (sysWrite s r v) = regsOf s := by
  cases r with
  | tpc | tvec | tscr | yoke => exact regsOf_modThr _ _ fun _ => ⟨rfl, rfl⟩
  | srseed => exact regsOf_setSeed ..
  | cqctl => exact regsOf_writeCqctl ..
  | xlcmd => exact regsOf_xlStart ..
  | exmask k => exact regsOf_writeEx ..
  | _ => rfl

theorem sysReg_numbers : ∀ (p : Bool) (n : Fin 0xB0), (n.val ≤ 0x007 ∨ (0x010 ≤ n.val ∧ n.val ≤ 0x01C) ∨ (0x020 ≤ n.val ∧ n.val ≤ 0x025)
      ∨ (0x040 ≤ n.val ∧ n.val ≤ 0x043) ∨ (0x080 ≤ n.val ∧ n.val ≤ 0x0AF)) → n.val ≠ 0x16 →
    ((n.val = 0x13 ∨ n.val = 0x43 ∨ (0x20 ≤ n.val ∧ n.val ≤ 0x25)) → p = true) →
    (sysReg n.val).any (fun r => !sysDenied r true p) = true := by decide +kernel

/-- Every assigned number but COLSPLIT's names a register that a thread may write, with privilege where R323 asks for it. -/
theorem sysReg_writable {n : Nat} (h : Assigned n) (hc : n ≠ 0x16) (p : Bool)
    (hp : (n = 0x13 ∨ n = 0x43 ∨ (0x20 ≤ n ∧ n ≤ 0x25)) → p = true) : ∃ r, sysReg n = some r ∧ sysDenied r true p = false := by
  have hn : n < 0xB0 := by unfold Assigned at h; omega
  obtain ⟨r, hr, hd⟩ := (Option.any_eq_true _ _).mp (sysReg_numbers p ⟨n, hn⟩ h hc hp)
  exact ⟨r, hr, by simpa using hd⟩

theorem swr_writes (sb : Bool) (a : GReg) (num : BitVec 11) (s : State) {r : SysReg} (hr : sysReg num.toNat = some r)
    (hd : sysDenied r true (myPriv s) = false) : exec (.swr sb a num) s = .next (advance (sysWrite s r (rd s a)) 4) := by
  show execSwr sb a num s = _
  unfold execSwr
  simp only [hr, hd]
  rfl

theorem parcelVa_eq (v : Word64) : parcelVa v = BitVec.ofNat 64 (4 * (v.toNat / 4)) := by rw [parcelVa, Nat.mul_comm]

theorem swrCompletes (sb : Bool) (a : GReg) (num : BitVec 11) (s : State) (h : Assigned num.toNat) (hc : num.toNat ≠ 0x16)
    (hp : (num.toNat = 0x13 ∨ num.toNat = 0x43 ∨ (0x20 ≤ num.toNat ∧ num.toNat ≤ 0x25)) → (s.ctx (myCtx s)).priv = true) :
    ∃ u, exec (.swr sb a num) s = .next u ∧ (me u).pc = (me s).pc + 4 ∧ (∀ r, (me u).gr r = (me s).gr r)
      ∧ (num.toNat = 0x005 → (me u).tscr = rd s a) ∧ (num.toNat = 0x007 → (me u).yoke = (rd s a).toNat % 2 ^ 16)
      ∧ (num.toNat = 0x000 → (me u).tpc = BitVec.ofNat 64 (4 * ((rd s a).toNat / 4)))
      ∧ (num.toNat = 0x004 → (me u).tvec = BitVec.ofNat 64 (4 * ((rd s a).toNat / 4))) := by
  obtain ⟨r, hr, hd⟩ := sysReg_writable h hc (myPriv s) hp
  have hk := regsOf_sysWrite s r (rd s a)
  have hcur : (sysWrite s r (rd s a)).cur = s.cur := congrArg Prod.fst hk
  have hthr := congrFun (congrArg Prod.snd hk) s.cur
  have hpc : (me (sysWrite s r (rd s a))).pc = (me s).pc := by rw [me, hcur]; exact congrArg Prod.fst hthr
  have hg : (me (sysWrite s r (rd s a))).g = (me s).g := by rw [me, hcur]; exact congrArg Prod.snd hthr
  have hadv : ∀ u n, (me (advance u n)).tscr = (me u).tscr ∧ (me (advance u n)).yoke = (me u).yoke
      ∧ (me (advance u n)).tpc = (me u).tpc ∧ (me (advance u n)).tvec = (me u).tvec := fun u n => by
    simp [advance, modMe, me]
  obtain ⟨hs, hy, ht, hv⟩ := hadv (sysWrite s r (rd s a)) 4
  refine ⟨_, swr_writes sb a num s hr hd, ?_, fun q => ?_, fun hn => ?_, fun hn => ?_, fun hn => ?_, fun hn => ?_⟩
  · rw [advance_pc, hpc]; rfl
  · rw [advance_gr]
    unfold Thread.gr
    rw [hg]
  all_goals
    rw [hn] at hr
    cases hr
  · rw [hs]; simp [sysWrite, me, modMe]
  · rw [hy]; simp [sysWrite, me, modMe]
  · rw [ht, ← parcelVa_eq]; simp [sysWrite, me, modMe]
  · rw [hv, ← parcelVa_eq]; simp [sysWrite, me, modMe]

end Sys2Proof.Completion

end

section
/-! PROOFS. Where instructions complete: the generator's jumps and traps, free lane words, and words that pay the floating-point price (R331 to R333, R39, R202). -/

namespace Sys2Proof.Completion
open Sys2Proof Sys2Proof.Machine Sys2Proof.Claims Sys2Proof.Runs Sys2Proof.Results Sys2Proof.Predicates

/-- JR, CALLR, SRET, TRAP and SWR complete. -/
theorem generatorCompletes (sb : Bool) (a : GReg) (n5 : BitVec 5) (s : State) :
    ((rd s a).toNat % 4 = 0 → exec (.jr sb a) s = .next (s.setThr s.cur { me s with pc := rd s a }))
    ∧ ((rd s a).toNat % 4 = 0 → ∃ u, exec (.callr sb a) s = .next u ∧ (me u).pc = rd s a
        ∧ (∀ r, (me u).gr r = if r = 63 then (me s).pc + 4 else (me s).gr r) ∧ OnlyRegs s u)
    ∧ ((me s).intrap = true → exec (.sret sb) s = .next (s.setThr s.cur
        { me s with pc := BitVec.ofNat 64 (4 * ((me s).tpc.toNat / 4)), intrap := false }))
    ∧ ((me s).intrap = false → (me s).tvec.toNat / 4 ≠ 0 → exec (.trap sb n5) s = .next (s.setThr s.cur { me s with
        pc := BitVec.ofNat 64 (4 * ((me s).tvec.toNat / 4)), tpc := (me s).pc + 4, tcause := Cause.soft.code
        tval := BitVec.ofNat 64 n5.toNat, intrap := true, wait := none, popAt := none })) := by
  obtain ⟨hjump, -⟩ := Jumps.registerJumps sb a s
  obtain ⟨htrap, -, hret, -⟩ := Jumps.trapsAndReturn sb n5 0 s
  refine ⟨fun h => (hjump h).1, fun h => ?_, fun h => hret h, fun hi hv => ?_⟩
  · obtain ⟨-, u, hu, hk, hr, hpc⟩ := hjump h
    exact ⟨u, hu, hpc, fun r => (hr r).trans (by by_cases h63 : r = 63 <;> simp [h63]), hk⟩
  · rw [htrap, Trapped, if_neg (by rw [hi]; simpa using hv)]

/-! ### Free words: an active set and a destination -/

/-- The word issues on its group with a destination written from a state, in the lanes active before. -/
def IssuesDest (o : Out) (s : State) (x : LaneWord) (z : State) (n lat : Nat) : Prop :=
  ∃ vals, o = .next (issued (putDest z x.dN n lat (activeMask s x) vals) x (activeMask s x) true)

theorem elemWord_issues (x : LaneWord) (s : State) (lat : Nat) (f : Nat → Nat → Nat → Nat) :
    IssuesDest (elemWord x lat f s) s x s (tySpan x.ty) lat := ⟨_, rfl⟩

theorem integerWords_complete (x : LaneWord) (s : State) :
    ∀ i ∈ ([.iadd x, .isub x, .imin x, .imax x, .iabs x, .iadd3 x, .andLane x, .orLane x, .xorLane x, .notLane x, .movLane x,
      .shlLane x, .shrLane x, .rotl x, .brev x, .bfe x, .bfi x] : List Instr),
      IssuesDest (exec i s) s x s (tySpan x.ty) (if tyWidth x.ty = 64 then 3 else 2) := by
  simp only [List.forall_mem_cons]
  have e := elemWord_issues x s (intLat x.ty)
  exact ⟨e _, e _, e _, e _, e _, e _, e _, e _, e _, e _, e _, e _, e _, e _, e _, ⟨_, rfl⟩, ⟨_, rfl⟩, by simp⟩

theorem multiplies_complete (x : LaneWord) (s : State) : ∀ i ∈ ([.imul x, .imulh x, .imad x] : List Instr),
    IssuesDest (exec i s) s x s (tySpan x.ty) (if tyWidth x.ty = 64 then 6 else 4) := by
  simp only [List.forall_mem_cons]
  have e := elemWord_issues x s (mulLat x.ty)
  exact ⟨e _, e _, e _, by simp⟩

theorem bitCounts_complete (x : LaneWord) (s : State) : ∀ i ∈ ([.popcLane x, .clzLane x] : List Instr),
    IssuesDest (exec i s) s x s 1 (if tyWidth x.ty = 64 then 3 else 2) := by
  simp only [List.forall_mem_cons]
  exact ⟨⟨_, rfl⟩, ⟨_, rfl⟩, by simp⟩

theorem wideMultiplies_complete (x : LaneWord) (s : State) : ∀ i ∈ ([.imulw x, .imadw x] : List Instr),
    IssuesDest (exec i s) s x s 2 4 := by
  simp only [List.forall_mem_cons]
  exact ⟨⟨_, rfl⟩, ⟨_, rfl⟩, by simp⟩

theorem dotProducts_complete (x : LaneWord) (s : State) : ∀ i ∈ ([.idp4 x, .idp2 x] : List Instr),
    IssuesDest (exec i s) s x s 1 4 := by
  simp only [List.forall_mem_cons]
  exact ⟨⟨_, rfl⟩, ⟨_, rfl⟩, by simp⟩

theorem packs_complete (x : LaneWord) (s : State) : ∀ i ∈ ([.isad x, .pack x, .unpk x] : List Instr),
    IssuesDest (exec i s) s x s 1 2 := by
  simp only [List.forall_mem_cons]
  exact ⟨⟨_, rfl⟩, ⟨_, rfl⟩, ⟨_, rfl⟩, by simp⟩

/-! ### Predicates, SEL, LEXIT, NOP -/

theorem pmovGet_complete (x : LaneWord) (s : State) (h : x.ty ≠ 0) : IssuesDest (exec (.pmov x) s) s x s 1 1 := by
  show ∃ vals, execPmov x s = _
  unfold execPmov freeWordAct
  dsimp only
  rw [if_neg h]
  exact ⟨_, rfl⟩

theorem pmovSet_complete (x : LaneWord) (s : State) (h : x.ty = 0) :
    ∃ u, exec (.pmov x) s = .next (issued u x (activeMask s x) true) ∧ u = { s with groups := u.groups, clusters := u.clusters }
      ∧ ∀ k l, k < 12 → l < 32 → ((laneGrp u).p.get k 0).testBit l =
          if (activeMask s x).testBit l && ((srcB s x 1).getD l 0).testBit k then ((srcA s x 1).getD l 0).testBit k
          else ((laneGrp s).p.get k 0).testBit l := by
  refine ⟨_, pmovSet_eq x s h, (pmovSet_frame ..).rest, fun k l hk hl => ?_⟩
  rw [pmovSet_p s _ (srcA_length ..) (srcB_length ..) List.nodup_range k hl]
  simp only [List.mem_range, hk, true_and]

theorem lexit_complete (x : LaneWord) (s : State) :
    ∃ u, exec (.lexit x) s = .next (issued u x (activeMask s x) true)
      ∧ ∀ l, l < 32 → (laneGrp u).ex.testBit l = ((laneGrp s).ex.testBit l && !(activeMask s x).testBit l)
        ∧ (laneGrp u).exit.testBit l = ((laneGrp s).exit.testBit l || (activeMask s x).testBit l) := by
  obtain ⟨-, u, hu, -, -, -, -, hm, -⟩ := laneExits x s
  exact ⟨u, hu, fun l hl => ⟨(hm l hl).1, (hm l hl).2.2⟩⟩

/-! ### Words that pay the floating-point price (R202) -/

/-- The word issues on its group, paid for, with a destination written and one record of events. -/
def IssuesFloat (o : Out) (s : State) (x : LaneWord) (n lat : Nat) : Prop :=
  ∃ vals e, o = .next (issued (aelLane (putDest (payLane s 1 (activeMask s x)).1 x.dN n lat (activeMask s x) vals) e) x
    (activeMask s x) true)

section
variable (x : LaneWord) (s : State) (hp : (payLane s 1 (activeMask s x)).2 = true)
include hp

theorem floatWord_issues (lat n : Nat) (res : State → List (Nat × Ev)) : IssuesFloat (floatWord x lat n res s) s x n lat :=
  ⟨_, _, pricedWord_paid 1 x _ s hp⟩

theorem arithmetic_complete : ∀ i ∈ ([.fadd x, .fsub x, .fmul x, .ffma x, .frnd x] : List Instr), IssuesFloat (exec i s) s x 1 4 := by
  simp only [List.forall_mem_cons]
  have f := floatWord_issues x s hp 4 1
  exact ⟨f _, f _, f _, f _, f _, by simp⟩

theorem minMaxSign_complete : ∀ i ∈ ([.fmin x, .fmax x, .fabs x, .fneg x] : List Instr), IssuesFloat (exec i s) s x 1 2 := by
  simp only [List.forall_mem_cons]
  have f := floatWord_issues x s hp 2 1
  exact ⟨f _, f _, f _, f _, by simp⟩

theorem floatDots_complete : ∀ i ∈ ([.fdp2 x, .fdp4 x] : List Instr), IssuesFloat (exec i s) s x 1 5 := by
  simp only [List.forall_mem_cons]
  have f := floatWord_issues x s hp 5 1
  exact ⟨f _, f _, by simp⟩

theorem specials_complete : ∀ i ∈ ([.rcp x, .rsq x, .exp2 x, .log2 x, .sin x, .cos x] : List Instr), IssuesFloat (exec i s) s x 1 12 := by
  simp only [List.forall_mem_cons]
  have f := floatWord_issues x s hp 12 1
  exact ⟨f _, f _, f _, f _, f _, f _, by simp⟩

theorem sqrt_complete : IssuesFloat (exec (.sqrt x) s) s x 1 14 := floatWord_issues x s hp 14 1 _

theorem fcmp_complete : ∃ m e, exec (.fcmp x) s =
    .next (issued (aelLane (putPred (payLane s 1 (activeMask s x)).1 x.dN 2 (activeMask s x) m) e) x (activeMask s x) true) :=
  ⟨_, _, fcmp_paid x s hp⟩

end

/-! ### Conversions: a destination, and the generators that a stochastic rounding steps -/

/-- The state that a conversion leaves before it counts as issued: its destination, written from a state whose seed has taken
effect where the generators step, their new states, and the record of its events. -/
def Converted (s : State) (x : LaneWord) (sr : Bool) (k lat : Nat) (u : State) : Prop := ∃ vals e,
  let w := putDest (if sr then settleSeed (payLane s 1 (activeMask s x)).1 s.lane.pid else (payLane s 1 (activeMask s x)).1)
    x.dN k lat (activeMask s x) vals
  ∃ z, u = aelLane z e ∧ z = { w with clusters := z.clusters } ∧ (sr = false → z = w)

/-- A fold whose steps change nothing but the clusters. -/
theorem foldl_clusters {α : Type} (f : State → α → State) (hf : ∀ u a, f u a = { u with clusters := (f u a).clusters }) (l : List α)
    (s : State) : l.foldl f s = { s with clusters := (l.foldl f s).clusters } := by
  induction l generalizing s with
  | nil => rfl
  | cons a l ih => rw [List.foldl_cons, ih, hf s a]

/-- The generators of the active lanes take the states that their conversions left them. -/
def stepGenerators (sr : Bool) (rs : List (List Nat × Ev × Word32)) (act : Nat) (s : State) : State :=
  if sr then (setBits 32 act).foldl (fun t l => match rs[l]? with
    | some r => setSr t l r.2.2
    | none => t) s else s

theorem stepGenerators_clusters (sr : Bool) (rs : List (List Nat × Ev × Word32)) (act : Nat) (s : State) :
    stepGenerators sr rs act s = { s with clusters := (stepGenerators sr rs act s).clusters } := by
  unfold stepGenerators
  split
  · exact foldl_clusters _ (fun u l => by split <;> rfl) _ _
  · rfl

theorem convWord_converts (x : LaneWord) (s : State) (hp : (payLane s 1 (activeMask s x)).2 = true) (lat n wS wD : Nat) (round : Bool)
    (els : Nat → List Nat) (f : State → Nat → RMode → Nat → Nat → Nat × Ev) :
    ∃ u, convWord x lat n wS wD round els f s = .next (issued u x (activeMask s x) true)
      ∧ Converted s x (decide (x.rnd = 4) && round) (n * wD / 32) lat u := by
  unfold convWord
  dsimp only
  rw [pricedWord_paid 1 x _ s hp]
  refine ⟨_, rfl, ?_⟩
  rw [(payLane_reads s 1 (activeMask s x)).lane]
  generalize List.map _ (List.range 32) = rs
  refine ⟨_, _, stepGenerators _ rs _ _, rfl, stepGenerators_clusters .., fun h => ?_⟩
  rw [h]
  rfl

end Sys2Proof.Completion

end

section
/-! PROOFS. Where instructions complete: CBD and CTE, retired words, and cross-lane words (R218, R232, R434, R233 to R242). -/

namespace Sys2Proof.Completion
open Sys2Proof Sys2Proof.Machine Sys2Proof.Claims Sys2Proof.Runs Sys2Proof.Results Sys2Proof.Predicates

/-! ### The word in focus stays in focus -/

theorem setEx_lane (s : State) (fid clu slot v : Nat) : (setEx s fid clu slot v).lane = s.lane := by
  unfold setEx
  split <;> rfl

theorem settleMaskRdUntil_lane (s : State) (t : Tid) (k : Nat) : (settleMaskRdUntil s t k).lane = s.lane := by
  rw [Lanes.settleMaskRdUntil_rest]

theorem applyMasks_lane (s : State) (t : Tid) (n : Nat) (p : Nat × Nat) : (applyMasks s t n p).lane = s.lane := by
  unfold applyMasks
  dsimp only
  split
  · rfl
  · exact foldl_keep State.lane _ (fun u m => (setEx_lane ..).trans (settleMaskRdUntil_lane ..)) _ _

theorem laneFaultDue_lane (s : State) (t : Tid) (n idx : Nat) : (laneFaultDue s t n idx).lane = s.lane := by
  unfold laneFaultDue
  dsimp only
  split
  · rfl
  · split
    · exact raiseTrap_lane ..
    · rfl

theorem endReplay_lane (s : State) (p : PipeRun) : (endReplay s p).lane = s.lane := by
  unfold endReplay
  dsimp only
  split
  · rfl
  · exact raiseTrap_lane ..

theorem endRun_lane (s : State) (p : PipeRun) : (endRun s p).lane = s.lane := by
  cases h : p.replay
  · rw [endRun_first h]
    show (laneFaultDue (applyMasks (runCounted (pipeFreed s p) p) p.tid p.str (laneMember s, p.slot)) p.tid p.str p.run.idx).lane = s.lane
    rw [laneFaultDue_lane, applyMasks_lane]
    rfl
  · rw [endRun_replay h, endReplay_lane]
    rfl

theorem tryEnd_lane (s : State) : (tryEnd s).lane = s.lane := by
  unfold tryEnd
  split
  · split
    · exact endRun_lane ..
    · rfl
  · rfl

theorem recordPark_lane (s : State) (act : Nat) (acted : Bool) : (recordPark s act acted).lane = s.lane := by
  rw [Lanes.recordPark_rest]

theorem issued_lane (s : State) (x : LaneWord) (act : Nat) (acted : Bool) : (issued s x act acted).lane = s.lane := by
  unfold issued settleMaskRd
  dsimp only
  rw [settleMaskRdUntil_lane, tryEnd_lane]
  exact recordPark_lane ..

theorem retireUse_lane (s : State) (f : Cluster → Cluster) : (retireUse s f).lane = s.lane := by
  unfold retireUse
  split
  · rfl
  · dsimp only
    split <;> rfl

theorem aelRecord_frame (s : State) (ctx pid : Nat) (e : Ev) (source clu slot t str seq : Nat) :
    HomeFrame (s.setCtx ctx { s.ctx ctx with aelHead := ((s.ctx ctx).aelHead + 1) % 2 ^ 32 }) (aelRecord s ctx pid e source clu slot t str seq)
    ∨ aelRecord s ctx pid e source clu slot t str seq = s := by
  unfold aelRecord
  dsimp only
  split
  · exact Or.inr rfl
  · exact Or.inl (recStore_frame ..)

theorem aelLane_lane (s : State) (e : Ev) : (aelLane s e).lane = s.lane := by
  unfold aelLane
  rcases aelRecord_frame s (s.ctxOf s.lane.tid) s.lane.pid e 0 (laneMember s) s.lane.slot s.lane.tid.t (s.lane.str % 4) (firstSeq s) with h | h
  · exact h.lane
  · rw [h]

theorem settleSeed_lane (s : State) (pid : Nat) : (settleSeed s pid).lane = s.lane := by
  unfold settleSeed
  split <;> rfl

/-! ### CBD and CTE: held while the captured bank loads, and given back as the member has issued them (R218, R232, R258) -/

theorem converted_lane {s u : State} {x : LaneWord} {sr : Bool} {k lat : Nat} (h : Converted s x sr k lat u) : u.lane = s.lane := by
  obtain ⟨vals, e, z, rfl, hz, -⟩ := h
  rw [aelLane_lane, hz]
  refine (putDest_frame ..).lane.trans ?_
  split
  · exact (settleSeed_lane ..).trans ((payLane_reads ..).lane)
  · exact (payLane_reads ..).lane

section
variable (x : LaneWord) (s : State) (hp : (payLane s 1 (activeMask s x)).2 = true)
include hp

theorem cvt_complete : ∃ u, exec (.cvt x) s = .next (issued u x (activeMask s x) true)
    ∧ Converted s x (decide (x.rnd = 4) && canRound x.srcTy x.ty)
      (32 / min (min (tyWidth x.srcTy) (tyWidth x.ty)) 32 * tyWidth x.ty / 32) 4 u := by
  show ∃ u, execCvt x s = _ ∧ _
  unfold execCvt
  exact convWord_converts x s hp 4 (LaneWord.cvtN (tyWidth x.srcTy) (tyWidth x.ty)) (tyWidth x.srcTy) (tyWidth x.ty) _ _ _

theorem cvts_complete : ∃ u, exec (.cvts x) s = .next (issued u x (activeMask s x) true)
    ∧ Converted s x (decide (x.rnd = 4) && true)
      (32 / min (min (tyWidth x.srcTy) (tyWidth x.ty)) 32 * tyWidth x.ty / 32) 5 u := by
  show ∃ u, execCvts x s = _ ∧ _
  unfold execCvts
  exact convWord_converts x s hp 5 (LaneWord.cvtN (tyWidth x.srcTy) (tyWidth x.ty)) (tyWidth x.srcTy) (tyWidth x.ty) _ _ _

theorem cbd_complete (hw : (s.clu s.lane.pid).code.waits (s.lane.word.banks.get (laneMember s) 0) = false) (hh : s.lane.held = false) :
    ∃ u v, exec (.cbd x) s = .next u ∧ u.lane.held = false ∧ Converted s x (decide (x.rnd = 4) && true) (16 * tyWidth x.ty / 32) 6 v
      ∧ u = retireUse (issued v x (activeMask s x) true) fun k =>
          { k with code := k.code.retire (s.lane.word.banks.get (laneMember s) 0) } := by
  show ∃ u v, execCbd x s = .next u ∧ _
  unfold execCbd
  dsimp only
  rw [if_neg (by rw [codeLoading, bankIn, hw]; decide)]
  obtain ⟨v, hv, hc⟩ := convWord_converts x s hp 6 16 2 (tyWidth x.ty) true _ _
  have hl : (issued v x (activeMask s x) true).lane.held = false := by rw [issued_lane, converted_lane hc, hh]
  refine ⟨_, v, ?_, ?_, hc, rfl⟩
  · rw [hv]
    dsimp only
    rw [if_neg (by rw [hl]; decide)]
    rfl
  · rw [retireUse_lane, hl]

theorem cte_complete (hw : ((s.clu s.lane.pid).curve.get (x.cN % 4) BankCtl.placed).waits (s.lane.word.banks.get (laneMember s) 0) = false)
    (hh : s.lane.held = false) :
    ∃ u vals e, exec (.cte x) s = .next u ∧ u.lane.held = false
      ∧ u = retireUse (issued (aelLane (putDest (payLane s 1 (activeMask s x)).1 x.dN 1 10 (activeMask s x) vals) e) x (activeMask s x) true)
          (modCurve (x.cN % 4) fun k => k.retire (s.lane.word.banks.get (laneMember s) 0)) := by
  show ∃ u vals e, execCte x s = .next u ∧ _
  unfold execCte
  dsimp only
  rw [if_neg (by rw [curveCtl, bankIn, hw]; decide)]
  obtain ⟨vals, e, hv⟩ := floatWord_issues x s hp 10 1 fun s' =>
    (srcA s' x 1).map (cteLane ((s.clu s.lane.pid).curves.get (x.cN % 4, bankIn s % 2) CurveBank.zero))
  have hl : (issued (aelLane (putDest (payLane s 1 (activeMask s x)).1 x.dN 1 10 (activeMask s x) vals) e) x (activeMask s x) true).lane.held
      = false := by rw [issued_lane, aelLane_lane, (putDest_frame ..).lane, (payLane_reads ..).lane, hh]
  refine ⟨_, vals, e, ?_, ?_, rfl⟩
  · rw [hv]
    dsimp only
    rw [if_neg (by rw [hl]; decide)]
    rfl
  · rw [retireUse_lane, hl]

end

/-! ### Retired words (R434) -/

theorem retiredWord_issues (price : Nat) (x : LaneWord) (s : State) (g : Nat → Nat → Nat)
    (hp : (payLane s price (activeMask s x)).2 = true) :
    IssuesDest (retiredWord price x g s) s x (payLane s price (activeMask s x)).1 1 0 :=
  ⟨_, pricedWord_paid price x _ s hp⟩

theorem divisions_complete (x : LaneWord) (s : State) (hp : (payLane s 4 (activeMask s x)).2 = true) :
    ∀ i ∈ ([.idiv x, .irem x] : List Instr), IssuesDest (exec i s) s x (payLane s 4 (activeMask s x)).1 1 0 := by
  simp only [List.forall_mem_cons]
  exact ⟨retiredWord_issues 4 x s _ hp, retiredWord_issues 4 x s _ hp, by simp⟩

theorem fdiv_complete (x : LaneWord) (s : State) (hp : (payLane s 6 (activeMask s x)).2 = true) :
    IssuesDest (exec (.fdiv x) s) s x (payLane s 6 (activeMask s x)).1 1 0 := retiredWord_issues 6 x s _ hp

/-! ### Cross-lane words -/

theorem moves_complete (x : LaneWord) (s : State) : ∀ i ∈ ([.shfl x, .bcast x] : List Instr),
    IssuesDest (exec i s) s x s (tySpan x.ty4) (if tySpan x.ty4 = 2 then 5 else 4) := by
  simp only [List.forall_mem_cons]
  exact ⟨⟨_, rfl⟩, ⟨_, rfl⟩, by simp⟩

theorem ballot_complete (x : LaneWord) (s : State) : IssuesDest (exec (.ballot x) s) s x s 1 3 := ⟨_, rfl⟩

theorem integerReductions_complete (x : LaneWord) (s : State) (ht : x.ty4 < 8) : ∀ i ∈ ([.reduce x, .scan x] : List Instr),
    ∃ vals e, exec i s = .next (issued (aelLane (putDest s x.dN (tySpan x.ty4) (if tyWidth x.ty4 = 64 then 8 else 6) (activeMask s x) vals) e)
      x (activeMask s x) true) := by
  have hi : isIntTy x.ty4 = true := decide_eq_true ht
  have hw : ∀ scan, ∃ vals e, reduceWord x scan s = .next (issued (aelLane (putDest s x.dN (tySpan x.ty4) (if tyWidth x.ty4 = 64 then 8 else 6)
      (activeMask s x) vals) e) x (activeMask s x) true) := fun scan => by
    have hl : redLat x.ty4 scan = if tyWidth x.ty4 = 64 then 8 else 6 := by
      unfold redLat
      rw [hi]
      rfl
    rw [reduceWord, if_pos hi, hl]
    exact ⟨_, _, rfl⟩
  simp only [List.forall_mem_cons]
  exact ⟨hw false, hw true, by simp⟩

theorem floatReduction_complete (x : LaneWord) (s : State) (scan : Bool) (ht : 8 ≤ x.ty4) (hp : (payLane s 1 (activeMask s x)).2 = true) :
    IssuesFloat (reduceWord x scan s) s x (tySpan x.ty4) (if scan then 14 else 10) := by
  have hi : isIntTy x.ty4 = false := decide_eq_false (by omega)
  have hl : redLat x.ty4 scan = if scan then 14 else 10 := by
    unfold redLat
    rw [hi]
    rfl
  rw [reduceWord, hi, hl]
  exact ⟨_, _, pricedWord_paid 1 x _ s hp⟩

theorem vote_complete (x : LaneWord) (s : State) (hr : s.lane.replay = false) : ∃ vs,
    exec (.vote x) s = .next (issued (s.setThr s.lane.tid { s.thr s.lane.tid with votes := vs }) x (activeMask s x) true)
      ∧ ∀ v ∈ vs, v.str = s.lane.str → v.seq = s.lane.word.seq → (laneMember s, s.lane.slot) ∉ v.need := by
  show ∃ vs, execVote x s = _ ∧ _
  unfold execVote freeWordAct
  dsimp only
  rw [hr]
  refine ⟨_, rfl, fun v hv hs hq => ?_⟩
  obtain ⟨u, -, rfl⟩ := List.mem_map.1 hv
  by_cases h : u.str = s.lane.str ∧ u.seq = s.lane.word.seq
  · rw [if_pos h]
    simp
  · rw [if_neg h] at hs hq
    exact absurd ⟨hs, hq⟩ h

theorem uni_complete (x : LaneWord) (s : State) (hr : s.lane.replay = false) : ∃ os,
    exec (.uni x) s = .next (issued (s.setThr s.lane.tid { s.thr s.lane.tid with out := os }) x (activeMask s x) true)
      ∧ ∀ o ∈ os, ∀ w all need seen, o.pend = .uni s.lane.str s.lane.word.seq w all need seen → o.reg = x.dN - 192 →
          (laneMember s, s.lane.slot) ∉ need := by
  show ∃ os, execUni x s = _ ∧ _
  unfold execUni freeWordAct
  dsimp only
  rw [hr]
  refine ⟨_, rfl, fun o ho w all need seen hp hg => ?_⟩
  obtain ⟨u, -, rfl⟩ := List.mem_map.1 ho
  cases hu : u.pend <;> simp only [hu] at hp hg
  case uni =>
    split at hp
    · cases hp
      simp
    · next h =>
      rw [if_neg h] at hg
      rw [hu] at hp
      cases hp
      exact absurd ⟨rfl, rfl, hg⟩ h
  all_goals cases hp

end Sys2Proof.Completion

end

section
/-! PROOFS. Where instructions complete: lane memory words whose accesses no lane faults (R147 to R151, R292). -/

namespace Sys2Proof.Completion
open Sys2Proof Sys2Proof.Machine Sys2Proof.Claims Sys2Proof.Runs Sys2Proof.Results Sys2Proof.Predicates

/-! ### Lane memory words: what the acquires made first leave to read (R311) -/

theorem reads_refl (s : State) : ReadsAlike s s := ⟨rfl, rfl, rfl⟩

theorem l1Invalidate_reads (s : State) (h : Nat) : ReadsAlike s (l1Invalidate s s.lane.pid h) := by
  refine ⟨rfl, ?_, rfl⟩
  show ((l1Invalidate s s.lane.pid h).clu s.lane.pid).pipes.find s.lane.pipe = _
  rw [l1Invalidate, State.clu_modClu_self]
  rfl

theorem reads_foldl {α : Type} (f : State → α → State) (hf : ∀ u a, ReadsAlike u (f u a)) (l : List α) (s : State) :
    ReadsAlike s (l.foldl f s) := by
  induction l generalizing s with
  | nil => exact reads_refl s
  | cons a l ih => exact (hf s a).trans (ih _)

theorem modStr_reads (s : State) (t : Tid) (n : Nat) (f : Stream → Stream) : ReadsAlike s (modStr s t n f) := ⟨rfl, rfl, rfl⟩

theorem makeAcqs_reads (s : State) (n : Nat) (ready : Nat → Bool) : ReadsAlike s (makeAcqs s n ready) := by
  unfold makeAcqs
  dsimp only
  split
  · exact reads_refl s
  · refine (reads_foldl _ (fun u a => ?_) _ s).trans (modStr_reads ..)
    split
    · exact l1Invalidate_reads ..
    · exact reads_refl u

theorem settleAcqs_reads (s : State) : ReadsAlike s (settleAcqs s) := by
  unfold settleAcqs
  exact (makeAcqs_reads ..).trans (makeAcqs_reads ..)

theorem srcB_settled (s : State) (x : LaneWord) (n : Nat) : srcB (settleAcqs s) x n = srcB s x n := by
  rw [srcB, (settleAcqs_reads s).lane, (settleAcqs_reads s).srcNat, srcB]

/-! ### The accesses made -/

/-- Accesses join the machine: how many, and what they leave of the groups. -/
structure Joined (s t : State) (n : Nat) : Prop where
  ops : t.ops.length = s.ops.length + n
  lane : t.lane = s.lane
  flocks : t.flocks = s.flocks
  groups : t.groups = s.groups

theorem Joined.refl (s : State) : Joined s s 0 := ⟨rfl, rfl, rfl, rfl⟩

theorem Joined.trans {s t u : State} {n m : Nat} (h : Joined s t n) (k : Joined t u m) : Joined s u (n + m) :=
  ⟨by rw [k.ops, h.ops, Nat.add_assoc], k.lane.trans h.lane, k.flocks.trans h.flocks, k.groups.trans h.groups⟩

theorem Joined.laneGrp {s t : State} {n : Nat} (h : Joined s t n) : laneGrp t = laneGrp s := by
  simp only [Machine.laneGrp, laneMember, State.grp, State.flk, h.lane, h.flocks, h.groups]

theorem Joined.foldl {α : Type} (f : State → α → State) (c : α → Nat) (hf : ∀ s a, Joined s (f s a) (c a)) (l : List α) (s : State) :
    Joined s (l.foldl f s) (l.map c).sum := by
  induction l generalizing s with
  | nil => exact Joined.refl s
  | cons a l ih => exact (hf s a).trans (ih _)

theorem pushOp_joined {s u : State} (h : HomeFrame s u) (o : MemOp) : Joined s (pushOp u o) 1 := by
  have hb := congrArg List.length h.bare
  simp only [List.length_map] at hb
  exact ⟨by rw [pushOp, List.length_append, hb]; rfl, h.lane, h.flocks, h.groups⟩

theorem pushPieces_joined (s : State) (x : LaneWord) (r : MemReq) (recv lane : Nat) (ps : List (Nat × Nat × Place)) :
    Joined s (pushPieces s x r recv lane ps) ps.length := by
  have h : Joined s (pushPieces s x r recv lane ps) (ps.map fun _ => 1).sum := by
    unfold pushPieces
    exact Joined.foldl _ (fun _ => 1) (fun s p => pushOp_joined (GenAccess.askFill_frame s _) _) ps s
  rw [List.map_const', List.sum_replicate, smul_eq_mul, mul_one] at h
  exact h

theorem noteAcq_joined (s : State) (sc : Nat) : Joined s (noteAcq s sc) 0 := ⟨rfl, rfl, rfl, rfl⟩

theorem noteOut_ops (s : State) (reg span lanes : Nat) : (noteOut s reg span lanes).ops = s.ops := by
  unfold noteOut
  split <;> rfl

theorem noteOut_laneGrp (s : State) (reg span lanes : Nat) :
    laneGrp (noteOut s reg span lanes) = { laneGrp s with out := (laneGrp (noteOut s reg span lanes)).out } := by
  unfold noteOut
  split
  · rfl
  · dsimp only
    rw [laneGrp_modLaneGrp]

/-- The state that a lane memory word leaves where no lane faults. -/
def memDone (x : LaneWord) (r : MemReq) (act : Nat) (good : List (Nat × List (Nat × Nat × Place))) (s : State) : State :=
  let recv := receivers s act 0
  let s := good.foldl (fun s g => pushPieces s x r recv g.1 g.2) s
  let s := if x.order % 2 = 1 then noteAcq s r.scope else s
  let done := act &&& (0 ^^^ allLanes)
  if r.outSpan = 0 then s else noteOut s r.outReg r.outSpan (if good.isEmpty then 0 else if r.all then recv else done)

theorem memDone_spec (x : LaneWord) (r : MemReq) (act : Nat) (good : List (Nat × List (Nat × Nat × Place))) (s : State) :
    (memDone x r act good s).ops.length = s.ops.length + (good.map (·.2.length)).sum
    ∧ laneGrp (memDone x r act good s) = { laneGrp s with out := (laneGrp (memDone x r act good s)).out } := by
  unfold memDone
  dsimp only
  have hg := Joined.foldl (fun u g => pushPieces u x r (receivers s act 0) g.1 g.2) (·.2.length)
    (fun u g => pushPieces_joined u x r (receivers s act 0) g.1 g.2) good s
  generalize good.foldl _ s = u at hg ⊢
  have ha : Joined s (if x.order % 2 = 1 then noteAcq u r.scope else u) (good.map (·.2.length)).sum := by
    split
    · exact hg.trans (noteAcq_joined u r.scope)
    · exact hg
  generalize (if x.order % 2 = 1 then noteAcq u r.scope else u) = w at ha ⊢
  split
  · exact ⟨ha.ops, by rw [ha.laneGrp]⟩
  · exact ⟨by rw [noteOut_ops, ha.ops], by rw [noteOut_laneGrp, ha.laneGrp]⟩

/-- Lanes asked in turn, none of which faults. -/
theorem foldl_asks {β γ : Type} (f : State × List (Nat × β) × γ → Nat → State × List (Nat × β) × γ) (users : List Nat) (u : Nat → State)
    (ps : Nat → β) (bad : γ)
    (hf : ∀ k < users.length, ∀ g, f (u k, g, bad) (users.getD k 0) = (u (k + 1), g ++ [(users.getD k 0, ps k)], bad)) (g : List (Nat × β)) :
    users.foldl f (u 0, g, bad) = (u users.length, g ++ (List.range users.length).map fun k => (users.getD k 0, ps k), bad) := by
  induction users generalizing u ps g with
  | nil => simp
  | cons l ls ih =>
    have h0 := hf 0 (by simp) g
    rw [List.getD_cons_zero] at h0
    rw [List.foldl_cons, h0, ih (fun k => u (k + 1)) (fun k => ps (k + 1)) (fun k hk g' => hf (k + 1) (by simpa using hk) g')]
    simp [List.range_succ_eq_map, Function.comp_def]

/-- A lane memory word that nothing holds, whose accesses no lane faults (R147 to R151, R292). -/
theorem memWord_made {x : LaneWord} {req : State → MemReq} {s : State} {users : List Nat} {offs : List Int} {off : Nat → Int}
    (hu : (if (req (settleAcqs s)).single then (setBits 32 (activeMask s x)).take 1 else setBits 32 (activeMask s x)) = users)
    (ho : (if (req (settleAcqs s)).single then List.replicate 32 0
      else (srcB s x 1).map fun b => laneOff x (req (settleAcqs s)).scaled b) = offs)
    (hoff : ∀ l ∈ users, offs.getD l 0 = off l)
    (hheld : orderHeld (settleAcqs s) = false) (hrel : 2 ≤ x.order → releaseLane (settleAcqs s) (req (settleAcqs s)).scope = true)
    (ht : tileHeld (settleAcqs s) x (activeMask s x) (req (settleAcqs s)).n offs = false)
    (hp : (payLane (settleAcqs s) 2 (activeMask s x)).2 = true)
    (u : Nat → State) (ps : Nat → List (Nat × Nat × Place)) (h0 : u 0 = (payLane (settleAcqs s) 2 (activeMask s x)).1)
    (hk : ∀ k, k < users.length → lanePieces (u k) x (req (settleAcqs s)).acc (off (users.getD k 0)) (req (settleAcqs s)).n
      (req (settleAcqs s)).al = (u (k + 1), .ok (ps k))) :
    memWord x req s = .next (issued (memDone x (req (settleAcqs s)) (activeMask s x)
      ((List.range users.length).map fun k => (users.getD k 0, ps k)) (u users.length)) x (activeMask s x) true) := by
  have hnot : ¬(orderHeld (settleAcqs s) || (decide (2 ≤ x.order) && !releaseLane (settleAcqs s) (req (settleAcqs s)).scope)
      || tileHeld (settleAcqs s) x (activeMask s x) (req (settleAcqs s)).n offs) = true := by
    rw [hheld, ht]
    by_cases h2 : 2 ≤ x.order
    · simp [hrel h2]
    · simp [h2]
  unfold memWord
  dsimp only
  rw [(settleAcqs_reads s).activeMask, srcB_settled, ho, hu, if_neg hnot]
  generalize payLane (settleAcqs s) 2 (activeMask s x) = q at hp h0 ⊢
  obtain ⟨q, b⟩ := q
  dsimp only at hp h0 ⊢
  subst hp h0
  dsimp only
  rw [foldl_asks _ users u ps [] fun k hku g => by
    dsimp only
    rw [hoff _ (by rw [List.getD_eq_getElem _ _ hku]; exact List.getElem_mem hku), hk k hku]]
  simp only [List.nil_append, List.flatMap_nil, ite_self, List.foldl_nil]
  rfl

/-- The word makes its accesses where no lane faults: their number, and what they leave of the group. -/
def AccessesMade (x : LaneWord) (s : State) (i : Instr) (bytes : Nat) (acc : Acc) (n : Nat) (users : List Nat) (off : Nat → Int) : Prop :=
  tileHeld (settleAcqs s) x (activeMask s x) n ((List.range 32).map off) = false →
    ∀ (u : Nat → State) (ps : Nat → List (Nat × Nat × Place)), u 0 = (payLane (settleAcqs s) 2 (activeMask s x)).1 →
      (∀ k, k < users.length → lanePieces (u k) x acc (off (users.getD k 0)) n bytes = (u (k + 1), .ok (ps k))) →
      ∃ v, exec i s = .next (issued v x (activeMask s x) true)
        ∧ v.ops.length = (u users.length).ops.length + ((List.range users.length).map fun k => (ps k).length).sum
        ∧ laneGrp v = { laneGrp (u users.length) with out := (laneGrp v).out }

/-- The lanes that a word asks for, in order: those active, or the lowest of them. -/
def asked (s : State) (x : LaneWord) (single : Bool) : List Nat :=
  if single then (setBits 32 (activeMask s x)).take 1 else setBits 32 (activeMask s x)

/-- The offsets of the lanes: none for a word with one access. -/
def askedOff (s : State) (x : LaneWord) (r : MemReq) (l : Nat) : Int :=
  if r.single then 0 else laneOff x r.scaled ((srcB s x 1).getD l 0)

theorem asked_lt {s : State} {x : LaneWord} {single : Bool} {l : Nat} (h : l ∈ asked s x single) : l < 32 := by
  unfold asked at h
  split at h
  · exact (Lanes.mem_setBits.1 (List.mem_of_mem_take h)).1
  · exact (Lanes.mem_setBits.1 h).1

theorem askedOff_list (s : State) (x : LaneWord) (r : MemReq) :
    (if r.single then List.replicate 32 0 else (srcB s x 1).map fun b => laneOff x r.scaled b) = (List.range 32).map (askedOff s x r) := by
  unfold askedOff
  cases r.single
  · refine List.ext_getElem (by simp) fun k hk _ => ?_
    have hk : k < (srcB s x 1).length := by simpa using hk
    simp [List.getElem?_eq_getElem hk]
  · rfl

theorem memWord_completes {x : LaneWord} {s : State} {i : Instr} {req : State → MemReq} {acc : Acc} {n bytes sc : Nat} {single : Bool}
    {off : Nat → Int} (hi : exec i s = memWord x req s) (hheld : orderHeld (settleAcqs s) = false)
    (hp : (payLane (settleAcqs s) 2 (activeMask s x)).2 = true) (hrel : 2 ≤ x.order → releaseLane (settleAcqs s) sc = true)
    (hsc : (req (settleAcqs s)).scope = sc) (hacc : (req (settleAcqs s)).acc = acc) (hn : (req (settleAcqs s)).n = n)
    (hal : (req (settleAcqs s)).al = bytes) (hsi : (req (settleAcqs s)).single = single)
    (hoff : askedOff s x (req (settleAcqs s)) = off) : AccessesMade x s i bytes acc n (asked s x single) off := by
  subst hsc hacc hn hal hsi hoff
  intro ht u ps h0 hk
  refine ⟨_, hi.trans (memWord_made rfl (askedOff_list s x _) (fun l hl => ?_) hheld hrel ht hp u ps h0 hk), ?_⟩
  · rw [List.getD_eq_getElem _ _ (by simpa using asked_lt hl)]
    simp
  · obtain ⟨ho, hg⟩ := memDone_spec x (req (settleAcqs s)) (activeMask s x)
      ((List.range (asked s x (req (settleAcqs s)).single).length).map fun k => ((asked s x (req (settleAcqs s)).single).getD k 0, ps k))
      (u (asked s x (req (settleAcqs s)).single).length)
    rw [List.map_map] at ho
    exact ⟨ho, hg⟩

theorem widthBytes_eq (w : Nat) : widthBytes w = [1, 1, 2, 2, 4, 8, 16].getD w 16 := by
  match w with
  | 0 | 1 | 2 | 3 | 4 | 5 | 6 | _ + 7 => rfl

theorem laneOff_eq (x : LaneWord) (scaled : Bool) (b : Nat) :
    laneOff x scaled b = ival 6 (b % 2 ^ 32) * (if scaled = true then ((([1, 1, 2, 2, 4, 8, 16].getD x.width 16 : Nat)) : Int) else 1) := by
  rw [laneOff, widthBytes_eq, ← show intVal 6 b = ival 6 (b % 2 ^ 32) from Lanes.intVal_mod 6 b]
  rfl

/-- LD, ST, LDT, LDB, ATOM and RED make their accesses where nothing holds them and no lane faults. -/
theorem laneMemory_complete (x : LaneWord) (s : State) (hheld : orderHeld (settleAcqs s) = false)
    (hp : (payLane (settleAcqs s) 2 (activeMask s x)).2 = true) :
    let bytes : Nat := [1, 1, 2, 2, 4, 8, 16].getD x.width 16
    let B (l : Nat) : Int := ival 6 ((srcB s x 1).getD l 0 % 2 ^ 32)
    let scaled (l : Nat) : Int := B l * (if x.scale = true then (bytes : Int) else 1)
    let lanes := setBits 32 (activeMask s x)
    let rel (scope : Nat) : Prop := 2 ≤ x.order → releaseLane (settleAcqs s) scope = true
    (rel (if x.space = 1 then 0 else x.scope) →
      AccessesMade x s (.ld x) bytes .load bytes lanes scaled ∧ AccessesMade x s (.st x) bytes .store bytes lanes scaled
      ∧ AccessesMade x s (.ldt x) bytes .load (32 * bytes) lanes scaled ∧ AccessesMade x s (.ldb x) bytes .load bytes (lanes.take 1) (fun _ => 0))
    ∧ (rel x.scope → AccessesMade x s (.atom x) bytes .atomic bytes lanes B ∧ AccessesMade x s (.red x) bytes .atomic bytes lanes B) := by
  intro bytes B scaled lanes rel
  have hs r (hr : r.single = false) (hsc : r.scaled = x.scale) : askedOff s x r = scaled := funext fun l => by
    rw [askedOff, hr, if_neg (by decide), hsc, laneOff_eq]
  have ha r (hr : r.single = false) (hsc : r.scaled = false) : askedOff s x r = B := funext fun l => by
    rw [askedOff, hr, if_neg (by decide), hsc, laneOff_eq, if_neg (by decide), mul_one]
  have hw : widthBytes x.width = bytes := widthBytes_eq _
  have hld : exec (.ld x) s = execLd x s := rfl
  have hst : exec (.st x) s = execSt x s := rfl
  have hldt : exec (.ldt x) s = execLdt x s := rfl
  have hldb : exec (.ldb x) s = execLdb x s := rfl
  have hatom : exec (.atom x) s = execAtom x s := rfl
  have hred : exec (.red x) s = execRed x s := rfl
  unfold execLd at hld
  unfold execSt at hst
  unfold execLdt at hldt
  unfold execLdb at hldb
  unfold execAtom at hatom
  unfold execRed at hred
  refine ⟨fun h => ⟨?_, ?_, ?_, ?_⟩, fun h => ⟨?_, ?_⟩⟩
  · exact memWord_completes (single := false) hld hheld hp h rfl rfl hw hw rfl (hs _ rfl rfl)
  · exact memWord_completes (single := false) hst hheld hp h rfl rfl hw hw rfl (hs _ rfl rfl)
  · exact memWord_completes (single := false) hldt hheld hp h rfl rfl (congrArg (32 * ·) hw) hw rfl (hs _ rfl rfl)
  · exact memWord_completes (single := true) hldb hheld hp h rfl rfl hw hw rfl rfl
  · exact memWord_completes (single := false) hatom hheld hp h rfl rfl hw hw rfl (ha _ rfl rfl)
  · exact memWord_completes (single := false) hred hheld hp h rfl rfl hw hw rfl (ha _ rfl rfl)

end Sys2Proof.Completion

end

section
/-! PROOFS. Where instructions complete: words that act once on each cluster, from the loads of curve tables and the codebook to copy and matrix words (R483). -/

namespace Sys2Proof.Completion
open Sys2Proof Sys2Proof.Machine Sys2Proof.Claims Sys2Proof.Runs Sys2Proof.Results Sys2Proof.Predicates

/-! ### Words that act once on each cluster (R483) -/

/-- What the groups of the member have found of the word once this one issues it. -/
def nextFound (s : State) (x : LaneWord) : CIssue := cissueNext s (activeMask s x)

/-- The word has acted on its cluster, and the group that made it act issues it. -/
def Made (x : LaneWord) (s u : State) : Out := .next (issued (dropCissue (markActed u)) x (activeMask s x) true)

section
variable {x : LaneWord} {s : State} {f : State → CIssue → State × Bool} (hr : s.lane.replay = false)
include hr

theorem onceWord_earlier (hd : (nextFound s x).done = false) :
    onceWord x f s = .next (issued (setCissue s (nextFound s x)) x (activeMask s x) false) := by
  unfold onceWord
  simp only [hr, Bool.false_eq_true, if_false]
  rw [← nextFound, hd]
  rfl

theorem onceWord_made (hd : (nextFound s x).done = true) (ha : (nextFound s x).active = true) {u : State}
    (hf : f s (nextFound s x) = (u, true)) (hl : u.lane = s.lane) : onceWord x f s = Made x s u := by
  unfold onceWord
  simp only [hr, Bool.false_eq_true, if_false]
  rw [← nextFound, hf, hd, ha]
  dsimp only
  simp only [if_true, markActed_lane, hl, hr]
  rfl

end

/-- The words that an earlier group of a member only records. -/
theorem exec_onceWord (x : LaneWord) (s : State) : ∀ i ∈ ([.ctld x, .mcbt x, .lfence x, .stashMap x, .stashFlush x, .stashDrop x, .cp x,
    .cp2d x, .cpt x, .cpg x, .cpset x, .qfence x, .mm x, .mmy x, .mzero x] : List Instr), ∃ f, exec i s = onceWord x f s := by
  have hctld : ∃ f, execCtld x s = onceWord x f s := by unfold execCtld; exact ⟨_, rfl⟩
  have hmcbt : ∃ f, execMcbt x s = onceWord x f s := by unfold execMcbt; exact ⟨_, rfl⟩
  have hlfence : ∃ f, execLfence x s = onceWord x f s := by unfold execLfence; exact ⟨_, rfl⟩
  have hstash go : ∃ f, stashWord x go s = onceWord x f s := by unfold stashWord; exact ⟨_, rfl⟩
  have hcopy op : ∃ f, copyWord x op s = onceWord x f s := by unfold copyWord; exact ⟨_, rfl⟩
  have hmatrix : ∃ f, matrixWord x s = onceWord x f s := by unfold matrixWord; exact ⟨_, rfl⟩
  simp only [List.forall_mem_cons]
  exact ⟨hctld, hmcbt, hlfence, hstash _, hstash _, hstash _, hcopy _, hcopy _, hcopy _, hcopy _, hcopy _, hcopy _, hmatrix, hmatrix,
    hmatrix, by simp⟩

/-! ### CTLD and MCBT (R230, R232, R258) -/

theorem payOnce_reads (s : State) : ReadsAlike s (payOnce s).1 := ReadsAlike.ofPurse (pay_frame ..)

theorem purse_clu {s t : State} {pid : Nat} (h : PurseFrame pid s t) (p : Nat) : t.clu p = { s.clu p with purse := (t.clu p).purse } := by
  rcases h with rfl | ⟨q, rfl⟩
  · rfl
  · rw [modPurse, State.clu_modClu]
    split
    · next h => rw [h]
    · rfl

/-- What a CTLD does at its cluster issue. -/
def loadCurve (x : LaneWord) (s : State) (c : CIssue) : State × Bool :=
  let t := x.cN % 4
  let code := bankIn s
  let k := code % 2
  let ctl := curveCtl (s.clu s.lane.pid) t
  let off := lo64 s.lane.word.ua
  let b := lo64 s.lane.word.ub
  if !c.active then (s.modClu s.lane.pid (modCurve t fun b => b.finish code), true)
  else if ctl.used code || (ctl.loading.find k).isSome || localBlocked s off 4096 then (s, false)
  else if (payOnce s).2 then
    ((payOnce s).1.modClu (payOnce s).1.lane.pid (modCurve t fun d => { d with
      loading := d.loading.set k ⟨code / 2, (payOnce s).1.now,
        (payOnce s).1.localRead (payOnce s).1.lane.tid.fid (laneMember (payOnce s).1) off 4096,
        BitVec.ofNat 32 b, sextInt (b / 2 ^ 32) 8, none⟩ }), true)
  else ((payOnce s).1, false)

theorem execCtld_eq (x : LaneWord) (s : State) : execCtld x s = onceWord x (loadCurve x) s := by
  unfold execCtld
  refine congrArg (onceWord x · s) (funext fun u => funext fun c => ?_)
  unfold loadCurve
  dsimp only
  rcases payOnce u with ⟨q, b⟩
  cases b <;> rfl

theorem ctld_complete {x : LaneWord} {s : State} (hr : s.lane.replay = false) (hd : (nextFound s x).done = true)
    (ha : (nextFound s x).active = true) :
    let code := s.lane.word.banks.get (laneMember s) 0
    let ctl := (s.clu s.lane.pid).curve.get (x.cN % 4) BankCtl.placed
    ctl.used code = false → ctl.loading.find (code % 2) = none → localBlocked s (lo64 s.lane.word.ua) 4096 = false → (payOnce s).2 = true →
      ∃ ld, exec (.ctld x) s = Made x s ((payOnce s).1.setClu s.lane.pid { (payOnce s).1.clu s.lane.pid with
        curve := ((payOnce s).1.clu s.lane.pid).curve.set (x.cN % 4) { ctl with loading := ctl.loading.set (code % 2) ld } }) := by
  intro code ctl hu hl hb hp
  have hfr : PurseFrame s.lane.pid s (payOnce s).1 := pay_frame ..
  have hctl : curveCtl ((payOnce s).1.clu s.lane.pid) (x.cN % 4) = ctl := by rw [purse_clu hfr]; rfl
  have hlane := (payOnce_reads s).lane
  have hfree : ((curveCtl (s.clu s.lane.pid) (x.cN % 4)).used (bankIn s) || ((curveCtl (s.clu s.lane.pid) (x.cN % 4)).loading.find
      (bankIn s % 2)).isSome || localBlocked s (lo64 s.lane.word.ua) 4096) = false := by
    show (ctl.used code || (ctl.loading.find (code % 2)).isSome || _) = false
    rw [hu, hl, hb]
    rfl
  have hload : ∃ ld, loadCurve x s (nextFound s x) = ((payOnce s).1.setClu s.lane.pid { (payOnce s).1.clu s.lane.pid with
      curve := ((payOnce s).1.clu s.lane.pid).curve.set (x.cN % 4) { ctl with loading := ctl.loading.set (code % 2) ld } }, true) := by
    unfold loadCurve
    dsimp only
    rw [if_neg (by rw [ha]; decide), if_neg (by rw [hfree]; decide), if_pos hp, State.modClu, modCurve, hlane, hctl]
    exact ⟨_, rfl⟩
  obtain ⟨ld, hload⟩ := hload
  exact ⟨ld, (execCtld_eq x s).trans (onceWord_made hr hd ha hload hlane)⟩

/-- What an MCBT does at its cluster issue. -/
def loadCodebook (s : State) (c : CIssue) : State × Bool :=
  let code := bankIn s
  let k := code % 2
  let ctl := (s.clu s.lane.pid).code
  let off := lo64 s.lane.word.ua
  if !c.full then (refuseWord (s.modClu s.lane.pid fun c => { c with code := c.code.finish code }), true)
  else if ctl.used code || (ctl.loading.find k).isSome || localBlocked s off 1024 then (s, false)
  else if (payOnce s).2 then
    let m := laneMember (payOnce s).1
    let u := (localReady (payOnce s).1 (payOnce s).1.lane.tid.fid m off 1024).1
    let load : BankLoad := if (localReady (payOnce s).1 (payOnce s).1.lane.tid.fid m off 1024).2
      then ⟨code / 2, u.now, u.localRead u.lane.tid.fid m off 1024, 0, 0, none⟩
      else ⟨code / 2, u.now, [], 0, 0, some (u.lane.tid, u.lane.str, u.lane.word.seq, off)⟩
    (u.modClu u.lane.pid fun c => { c with code := { c.code with loading := c.code.loading.set k load } }, true)
  else ((payOnce s).1, false)

theorem localReady_frame (s : State) (fid m off n : Nat) : HomeFrame s (localReady s fid m off n).1 := by
  unfold localReady
  dsimp only
  refine HomeFrame.foldlPair _ (fun y k => ?_) _ (s, true)
  obtain ⟨u, ok⟩ := y
  dsimp only
  split
  · exact HomeFrame.refl u
  · next e he =>
    split
    · have ht := translate_frame u (s.pidOf fid m) (u.flk fid).ctx (e.va + (off / 32 * 32 + 32 * k - e.off)) .load
      split
      · next hq =>
        rw [hq] at ht
        exact ht.trans (stashClaim_frame ..)
      · next hq =>
        rw [hq] at ht
        exact ht
    · exact HomeFrame.refl u
    · exact HomeFrame.refl u

theorem loadCodebook_starts {s : State} {c : CIssue} (hfull : c.full = true)
    (hfree : ((s.clu s.lane.pid).code.used (bankIn s) || ((s.clu s.lane.pid).code.loading.find (bankIn s % 2)).isSome
      || localBlocked s (lo64 s.lane.word.ua) 1024) = false) (hp : (payOnce s).2 = true) :
    ∃ load, loadCodebook s c = ((localReady (payOnce s).1 (payOnce s).1.lane.tid.fid (laneMember (payOnce s).1) (lo64 s.lane.word.ua) 1024).1.modClu
      s.lane.pid fun c => { c with code := { c.code with loading := c.code.loading.set (bankIn s % 2) load } }, true) := by
  have hlane : (localReady (payOnce s).1 (payOnce s).1.lane.tid.fid (laneMember (payOnce s).1) (lo64 s.lane.word.ua) 1024).1.lane = s.lane :=
    (localReady_frame ..).lane.trans (payOnce_reads s).lane
  unfold loadCodebook
  dsimp only
  rw [if_neg (by rw [hfull]; decide), if_neg (by rw [hfree]; decide), if_pos hp, hlane]
  exact ⟨_, rfl⟩

theorem execMcbt_eq (x : LaneWord) (s : State) : execMcbt x s = onceWord x loadCodebook s := by
  unfold execMcbt
  refine congrArg (onceWord x · s) (funext fun u => funext fun c => ?_)
  unfold loadCodebook
  dsimp only
  rcases payOnce u with ⟨q, b⟩
  cases b <;> rfl

theorem mcbt_complete {x : LaneWord} {s : State} (hr : s.lane.replay = false) (hd : (nextFound s x).done = true)
    (ha : (nextFound s x).active = true) (hfull : (nextFound s x).full = true) :
    let code := s.lane.word.banks.get (laneMember s) 0
    let ctl := (s.clu s.lane.pid).code
    ctl.used code = false → ctl.loading.find (code % 2) = none → localBlocked s (lo64 s.lane.word.ua) 1024 = false → (payOnce s).2 = true →
      ∃ u, exec (.mcbt x) s = Made x s u ∧ ((u.clu s.lane.pid).code.loading.find (code % 2)).isSome = true := by
  intro code ctl hu hl hb hp
  have hlane : (localReady (payOnce s).1 (payOnce s).1.lane.tid.fid (laneMember (payOnce s).1) (lo64 s.lane.word.ua) 1024).1.lane = s.lane :=
    (localReady_frame ..).lane.trans (payOnce_reads s).lane
  have hfree : ((s.clu s.lane.pid).code.used (bankIn s) || ((s.clu s.lane.pid).code.loading.find (bankIn s % 2)).isSome
      || localBlocked s (lo64 s.lane.word.ua) 1024) = false := by
    show (ctl.used code || (ctl.loading.find (code % 2)).isSome || _) = false
    rw [hu, hl, hb]
    rfl
  obtain ⟨load, hload⟩ := loadCodebook_starts hfull hfree hp
  refine ⟨_, (execMcbt_eq x s).trans (onceWord_made hr hd ha hload hlane), ?_⟩
  rw [State.clu_modClu_self]
  show ((Table.set _ (code % 2) load).find (code % 2)).isSome = true
  rw [Table.find_set_self]
  rfl

/-! ### LFENCE (R310) -/

theorem addLanes_lane (s : State) (t : Tid) (h m slot lanes : Nat) : (addLanes s t h m slot lanes).lane = s.lane := by
  rw [addLanes_eq]
  dsimp only
  split
  · rfl
  · split
    · split
      · rfl
      · exact barEvent_lane ..
    · refine (raiseTrap_lane ..).trans ?_
      split
      · rfl
      · exact barEvent_lane ..

theorem arriveOwed_lane (s : State) : (arriveOwed s).lane = s.lane := by
  unfold arriveOwed
  dsimp only
  split
  all_goals
    refine foldl_keep State.lane _ (fun u a => ?_) _ _
    split
    · exact addLanes_lane ..
    · rfl

theorem arriveOwed_none {s : State} (h : (strOf s s.lane.tid s.lane.str).owedArr = []) : arriveOwed s = s := by
  unfold arriveOwed
  dsimp only
  rw [h]
  rfl

/-- The state that an LFENCE leaves once it is made. -/
def fenced (x : LaneWord) (s : State) : State :=
  arriveOwed (if decide (x.order % 2 = 1) && decide (2 ≤ x.scope) then l1Invalidate s s.lane.pid (laneHor s).acq else s)

theorem fenced_lane (x : LaneWord) (s : State) : (fenced x s).lane = s.lane := by
  refine (arriveOwed_lane _).trans ?_
  split <;> rfl

theorem lfence_complete {x : LaneWord} {s : State} (hr : s.lane.replay = false) (hd : (nextFound s x).done = true)
    (ha : (nextFound s x).active = true) (hrel : 2 ≤ x.order → releaseLane s x.scope = true) (hacq : x.order % 2 = 1 → acquireLane s = true) :
    ∃ u, exec (.lfence x) s = Made x s u
      ∧ ((strOf s s.lane.tid s.lane.str).owedArr = [] → u = { s with clusters := u.clusters }) := by
  refine ⟨fenced x s, ?_, fun h => ?_⟩
  · show execLfence x s = _
    unfold execLfence
    refine onceWord_made hr hd ha ?_ (fenced_lane x s)
    have hnot : ¬((decide (2 ≤ x.order) && !releaseLane s x.scope) || (decide (x.order % 2 = 1) && !acquireLane s)) = true := by
      simp only [Bool.or_eq_true, Bool.and_eq_true, decide_eq_true_eq, Bool.not_eq_true', not_or, not_and, Bool.not_eq_false]
      exact ⟨hrel, hacq⟩
    dsimp only
    rw [if_neg hnot]
    rfl
  · unfold fenced
    split
    · rw [arriveOwed_none (by exact h)]
      rfl
    · rw [arriveOwed_none h]

/-! ### The stash words (R161 to R163) -/

theorem stashWord_made {x : LaneWord} {s : State} {go : State → State} (hr : s.lane.replay = false) (hd : (nextFound s x).done = true)
    (ha : (nextFound s x).active = true) (hops : ∀ o ∈ streamOps (settleAcqs s), o.made ≠ none) (hheld : orderHeld (settleAcqs s) = false)
    (hp : (payOnce (settleAcqs s)).2 = true) (hgo : ∀ u, (go u).lane = u.lane) :
    stashWord x go s = Made x s (go (payOnce (settleAcqs s)).1) := by
  unfold stashWord
  refine onceWord_made hr hd ha ?_ (((hgo _).trans (payOnce_reads _).lane).trans (settleAcqs_reads s).lane)
  have hany : (streamOps (settleAcqs s)).any (fun o => o.made.isNone) = false :=
    List.any_eq_false.2 fun o ho => by
      rw [Option.isNone_iff_eq_none]
      exact hops o ho
  dsimp only
  rw [if_neg (by rw [ha]; decide), if_neg (by rw [hany, hheld]; decide)]
  generalize payOnce (settleAcqs s) = q at hp ⊢
  obtain ⟨q, b⟩ := q
  dsimp only at hp
  subst hp
  rfl

theorem noteBack_lane (s : State) (scope : Nat) (g : Gwct) : (noteBack s scope g).lane = s.lane := rfl

/-- What STASH.DROP does to a sector. -/
def dropSector (x : LaneWord) (s : State) (e : StashEnt) (k : Nat) : State :=
  match (evictSector s s.lane.pid (backHint x) e k).2 with
  | some g => noteBack (evictSector s s.lane.pid (backHint x) e k).1 x.scope g
  | none => (evictSector s s.lane.pid (backHint x) e k).1

theorem dropSector_lane (x : LaneWord) (s : State) (e : StashEnt) (k : Nat) : (dropSector x s e k).lane = s.lane := by
  unfold dropSector
  have h := (evictSector_frame s s.lane.pid (backHint x) e k).lane
  split
  · exact (noteBack_lane ..).trans h
  · exact h

theorem execStashDrop_eq (x : LaneWord) (s : State) : execStashDrop x s = stashWord x (fun s => stashRange s (dropSector x)) s := by
  unfold execStashDrop
  refine congrArg (stashWord x · s) (funext fun u => congrArg (stashRange u) (funext fun v => funext fun e => funext fun k => ?_))
  unfold dropSector
  rcases evictSector v v.lane.pid (backHint x) e k with ⟨w, _ | g⟩ <;> rfl

theorem flushSector_lane (s : State) (x : LaneWord) (e : StashEnt) (k : Nat) : (flushSector s x e k).lane = s.lane := by
  unfold flushSector
  split
  · dsimp only
    rw [noteBack_lane, (setSector_frame ..).lane]
    exact (writeBack_frame ..).lane
  · rfl

theorem stashRange_lane (s : State) {f : State → StashEnt → Nat → State} (hf : ∀ u e k, (f u e k).lane = u.lane) :
    (stashRange s f).lane = s.lane := by
  unfold stashRange
  dsimp only
  refine foldl_keep State.lane _ (fun u e => foldl_keep State.lane _ (fun v k => ?_) _ _) _ _
  split
  · rfl
  · split
    · exact hf ..
    · rfl

theorem stashRange_empty {s : State} (h : (s.clu s.lane.pid).stash = []) (f : State → StashEnt → Nat → State) : stashRange s f = s := by
  unfold stashRange
  dsimp only
  rw [h]
  rfl

theorem raiseOnce_lane (s : State) (cause : Cause) : (raiseOnce s cause).lane = s.lane := by
  unfold raiseOnce
  dsimp only
  split
  · rfl
  · exact raiseTrap_lane ..

theorem emptyEntry_lane (s : State) (x : LaneWord) (e : StashEnt) : (emptyEntry s x e).lane = s.lane := by
  unfold emptyEntry
  refine foldl_keep State.lane _ (fun u k => ?_) _ _
  split
  · rfl
  · next f hf =>
    have h := (evictSector_frame u u.lane.pid (backHint x) f k).lane
    split
    · next he =>
      rw [he] at h
      exact (noteBack_lane ..).trans h
    · next he =>
      rw [he] at h
      exact h

/-- An entry that a STASH.MAP's ranges meet. -/
def stashHit (s : State) (e : StashEnt) : Bool :=
  rangesMeet e.va e.len (lo64 s.lane.word.ua) (lo64 s.lane.word.uc)
    || (decide (e.fid = s.lane.tid.fid) && decide (e.clu = laneMember s) && rangesMeet e.off e.len (lo64 s.lane.word.ub) (lo64 s.lane.word.uc))

/-- What a STASH.MAP does once it is paid for. -/
def mapStash (x : LaneWord) (s : State) : State :=
  let es := (s.clu s.lane.pid).stash
  if 64 < es.length - (es.filter (stashHit s)).length + 1 then raiseOnce s .stashfull
  else
    ((es.filter (stashHit s)).foldl (fun s e => emptyEntry s x e) s).modClu
      ((es.filter (stashHit s)).foldl (fun s e => emptyEntry s x e) s).lane.pid fun c => { c with
        stash := (c.stash.filter fun e => !stashHit s e)
          ++ [⟨s.lane.tid.fid, laneMember s, lo64 s.lane.word.ua, lo64 s.lane.word.uc, lo64 s.lane.word.ub, []⟩] }

theorem execStashMap_eq (x : LaneWord) (s : State) : execStashMap x s = stashWord x (mapStash x) s := by
  unfold execStashMap mapStash
  rfl

theorem mapStash_lane (x : LaneWord) (s : State) : (mapStash x s).lane = s.lane := by
  unfold mapStash
  dsimp only
  split
  · exact raiseOnce_lane ..
  · exact foldl_keep State.lane _ (fun u e => emptyEntry_lane ..) _ _

theorem mapStash_fresh (x : LaneWord) {s : State} (hn : (s.clu s.lane.pid).stash.length < 64)
    (hmiss : ∀ e ∈ (s.clu s.lane.pid).stash, stashHit s e = false) :
    mapStash x s = s.setClu s.lane.pid { s.clu s.lane.pid with stash := (s.clu s.lane.pid).stash
      ++ [⟨s.lane.tid.fid, laneMember s, lo64 s.lane.word.ua, lo64 s.lane.word.uc, lo64 s.lane.word.ub, []⟩] } := by
  have hnone : (s.clu s.lane.pid).stash.filter (stashHit s) = [] := List.filter_eq_nil_iff.2 fun e he => by simp [hmiss e he]
  have hall : ((s.clu s.lane.pid).stash.filter fun e => !stashHit s e) = (s.clu s.lane.pid).stash :=
    List.filter_eq_self.2 fun e he => by simp [hmiss e he]
  unfold mapStash
  dsimp only
  rw [hnone, if_neg (by simp; omega), List.foldl_nil, State.modClu, hall]

section
variable {x : LaneWord} {s : State} (hr : s.lane.replay = false) (hd : (nextFound s x).done = true)
  (ha : (nextFound s x).active = true) (hops : ∀ o ∈ streamOps (settleAcqs s), o.made ≠ none) (hheld : orderHeld (settleAcqs s) = false)
  (hp : (payOnce (settleAcqs s)).2 = true)
include hr hd ha hops hheld hp

theorem stashFlush_complete : ∃ w, exec (.stashFlush x) s = Made x s w
    ∧ (((payOnce (settleAcqs s)).1.clu s.lane.pid).stash = [] → w = (payOnce (settleAcqs s)).1) := by
  refine ⟨_, stashWord_made hr hd ha hops hheld hp fun u => stashRange_lane u fun v e k => flushSector_lane v x e k, fun h => ?_⟩
  exact stashRange_empty (by rw [(payOnce_reads _).lane, (settleAcqs_reads s).lane]; exact h) _

theorem stashDrop_complete : ∃ w, exec (.stashDrop x) s = Made x s w
    ∧ (((payOnce (settleAcqs s)).1.clu s.lane.pid).stash = [] → w = (payOnce (settleAcqs s)).1) := by
  refine ⟨_, (execStashDrop_eq x s).trans (stashWord_made hr hd ha hops hheld hp fun u => stashRange_lane u (dropSector_lane x)), fun h => ?_⟩
  exact stashRange_empty (by rw [(payOnce_reads _).lane, (settleAcqs_reads s).lane]; exact h) _

theorem stashMap_complete (hn : ((payOnce (settleAcqs s)).1.clu s.lane.pid).stash.length < 64)
    (hmiss : ∀ e ∈ ((payOnce (settleAcqs s)).1.clu s.lane.pid).stash,
      ¬(e.va < lo64 s.lane.word.ua + lo64 s.lane.word.uc ∧ lo64 s.lane.word.ua < e.va + e.len)
      ∧ ¬(e.fid = s.lane.tid.fid ∧ e.clu = laneMember s ∧ e.off < lo64 s.lane.word.ub + lo64 s.lane.word.uc
        ∧ lo64 s.lane.word.ub < e.off + e.len)) :
    exec (.stashMap x) s = Made x s ((payOnce (settleAcqs s)).1.setClu s.lane.pid { (payOnce (settleAcqs s)).1.clu s.lane.pid with
      stash := ((payOnce (settleAcqs s)).1.clu s.lane.pid).stash
        ++ [⟨s.lane.tid.fid, laneMember s, lo64 s.lane.word.ua, lo64 s.lane.word.uc, lo64 s.lane.word.ub, []⟩] }) := by
  have hlane : (payOnce (settleAcqs s)).1.lane = s.lane := ((payOnce_reads _).lane).trans (settleAcqs_reads s).lane
  have hmem : laneMember (payOnce (settleAcqs s)).1 = laneMember s := ((payOnce_reads _).member).trans (settleAcqs_reads s).member
  refine (execStashMap_eq x s).trans ((stashWord_made hr hd ha hops hheld hp (mapStash_lane x)).trans ?_)
  rw [mapStash_fresh x (by rw [hlane]; exact hn) fun e he => ?_, hlane, hmem]
  · rw [hlane] at he
    obtain ⟨hva, hoff⟩ := hmiss e he
    rw [stashHit, hlane, hmem]
    rw [Bool.or_eq_false_iff]
    constructor
    · simpa [rangesMeet] using hva
    · simpa [rangesMeet, and_assoc] using hoff

end

/-! ### Copy words and matrix words (R119, R136, R247) -/

/-- The entry of the copy word in focus. -/
def newCopy (s : State) : CopyEnt :=
  { id := s.nextId, tid := s.lane.tid, str := s.lane.str, word := s.lane.word, done := 0, chunks := []
    fault := none, told := false, list := [] }

/-- An entry behind the others of some queues. -/
def enterQueues (s : State) (pid : Nat) (e : CopyEnt) (qs : List Nat) : State :=
  qs.foldl (fun s q => setCopyQ s pid q { copyQ s pid q with ents := (copyQ s pid q).ents ++ [e] }) s

theorem copyQ_setCopyQ (s : State) (pid q : Nat) (v : CopyQ) (k : Nat) :
    copyQ (setCopyQ s pid q v) pid k = if k = q then v else copyQ s pid k := by
  rw [copyQ, setCopyQ, State.clu_modClu_self, Table.get_set]
  rfl

theorem enterQueues_lane (s : State) (pid : Nat) (e : CopyEnt) (qs : List Nat) : (enterQueues s pid e qs).lane = s.lane := by
  refine foldl_keep State.lane _ ?_ qs s
  exact fun _ _ => rfl

theorem enterQueues_ents (s : State) (pid : Nat) (e : CopyEnt) {qs : List Nat} (hn : qs.Nodup) (q : Nat) :
    (copyQ (enterQueues s pid e qs) pid q).ents = if q ∈ qs then (copyQ s pid q).ents ++ [e] else (copyQ s pid q).ents := by
  induction qs generalizing s with
  | nil => rfl
  | cons p ps ih =>
    obtain ⟨hp, hps⟩ := List.nodup_cons.1 hn
    rw [enterQueues, List.foldl_cons, ← enterQueues, ih _ hps, copyQ_setCopyQ]
    by_cases h : q = p
    · subst h
      simp [hp]
    · simp [h]

theorem copyWord_complete {x : LaneWord} {s : State} (op : Nat) (hr : s.lane.replay = false) (hd : (nextFound s x).done = true)
    (ha : (nextFound s x).active = true) (hfull : (nextFound s x).full = true) (hn : (queuesOf x op).Nodup)
    (hroom : ∀ q ∈ queuesOf x op, (copyQ s s.lane.pid q).ents.length < 32) :
    ∃ u e, copyWord x op s = Made x s u ∧ e.word = s.lane.word ∧ e.chunks = []
      ∧ ∀ q ∈ queuesOf x op, (copyQ u s.lane.pid q).ents = (copyQ s s.lane.pid q).ents ++ [e] := by
  refine ⟨enterQueues { s with nextId := s.nextId + 1 } s.lane.pid (newCopy s) (queuesOf x op), newCopy s, ?_, rfl, rfl, fun q hq => ?_⟩
  · unfold copyWord
    refine onceWord_made hr hd ha ?_ (enterQueues_lane ..)
    have hnot : copyFull s s.lane.pid (queuesOf x op) = false := List.any_eq_false.2 fun q hq => by
      rw [decide_eq_true_eq, not_le]
      exact hroom q hq
    dsimp only
    rw [if_neg (by rw [hfull]; decide), if_neg (by rw [hnot]; decide)]
    rfl
  · rw [enterQueues_ents _ _ _ hn, if_pos hq]
    rfl

theorem copies_complete {x : LaneWord} {s : State} (hr : s.lane.replay = false) (hd : (nextFound s x).done = true)
    (ha : (nextFound s x).active = true) :
    ∀ i ∈ ([.cp x, .cp2d x, .cpt x, .cpg x, .cpset x] : List Instr), (nextFound s x).full = true →
      (∀ q, q = x.m / 256 → (copyQ s s.lane.pid q).ents.length < 32) →
      ∃ u e, exec i s = Made x s u ∧ e.word = s.lane.word ∧ e.chunks = []
        ∧ ∀ q, q = x.m / 256 → (copyQ u s.lane.pid q).ents = (copyQ s s.lane.pid q).ents ++ [e] := by
  intro i hi hfull hroom
  have hone op (hop : op ≠ 0x305) : ∃ u e, copyWord x op s = Made x s u ∧ e.word = s.lane.word ∧ e.chunks = []
      ∧ ∀ q, q = x.m / 256 → (copyQ u s.lane.pid q).ents = (copyQ s s.lane.pid q).ents ++ [e] := by
    have hq : queuesOf x op = [x.m / 256] := if_neg hop
    obtain ⟨u, e, h⟩ := copyWord_complete (x := x) (s := s) op hr hd ha hfull (by rw [hq]; exact List.nodup_singleton _)
      (by simpa [hq] using hroom)
    exact ⟨u, e, by simpa [hq] using h⟩
  simp only [List.mem_cons, List.not_mem_nil, or_false] at hi
  rcases hi with rfl | rfl | rfl | rfl | rfl
  · exact hone 0x300 (by decide)
  · exact hone 0x301 (by decide)
  · exact hone 0x302 (by decide)
  · exact hone 0x303 (by decide)
  · exact hone 0x304 (by decide)

theorem qfence_complete {x : LaneWord} {s : State} (hr : s.lane.replay = false) (hd : (nextFound s x).done = true)
    (ha : (nextFound s x).active = true) (hfull : (nextFound s x).full = true)
    (hroom : ∀ q, (q < 4 ∧ x.cN.testBit q = true) → (copyQ s s.lane.pid q).ents.length < 32) :
    ∃ u e, exec (.qfence x) s = Made x s u ∧ e.word = s.lane.word ∧ e.chunks = []
      ∧ ∀ q, (q < 4 ∧ x.cN.testBit q = true) → (copyQ u s.lane.pid q).ents = (copyQ s s.lane.pid q).ents ++ [e] := by
  have hq : queuesOf x 0x305 = setBits 4 x.cN := if_pos rfl
  obtain ⟨u, e, hu, hw, hc, he⟩ := copyWord_complete (x := x) (s := s) 0x305 hr hd ha hfull (by rw [hq]; exact List.nodup_range.filter _)
    (fun q h => hroom q (Lanes.mem_setBits.1 (hq ▸ h)))
  exact ⟨u, e, hu, hw, hc, fun q h => he q (hq ▸ Lanes.mem_setBits.2 h)⟩

theorem matrix_complete {x : LaneWord} {s : State} (hr : s.lane.replay = false) (hd : (nextFound s x).done = true)
    (ha : (nextFound s x).active = true) :
    ∀ i ∈ ([.mm x, .mmy x, .mzero x] : List Instr), (nextFound s x).full = true → (s.clu s.lane.pid).mq.length < 8 → ∃ e,
      exec i s = Made x s (s.setClu s.lane.pid { s.clu s.lane.pid with mq := (s.clu s.lane.pid).mq ++ [e] }) ∧ e.word = s.lane.word := by
  intro i hi hfull hq
  have hm : matrixWord x s = Made x s (s.setClu s.lane.pid { s.clu s.lane.pid with mq := (s.clu s.lane.pid).mq ++ [Matrix.newEntry s] }) := by
    rw [Matrix.matrixWord_eq]
    exact onceWord_made hr hd ha ((Matrix.enterQueue_spec s _).2.2 hfull hq) rfl
  simp only [List.mem_cons, List.not_mem_nil, or_false] at hi
  rcases hi with rfl | rfl | rfl <;> exact ⟨_, hm, rfl⟩

end Sys2Proof.Completion

end

section
/-! PROOFS. Where instructions complete: temporal array words, LWAIT and LARR, and REGROUP (R272, R376, R377, R245). -/

namespace Sys2Proof.Completion
open Sys2Proof Sys2Proof.Machine Sys2Proof.Claims Sys2Proof.Runs Sys2Proof.Results Sys2Proof.Predicates

/-! ### Temporal array words (R272, R279) -/

theorem noteOut_reads (s : State) (reg span lanes : Nat) : ReadsAlike s (noteOut s reg span lanes) := by
  refine ⟨?_, ?_, noteOut_laneGrp ..⟩
  all_goals
    unfold noteOut
    split <;> rfl

theorem cissueOf_setCissue (s : State) (c : CIssue) : cissueOf (setCissue s c) = c := by
  show (strOf (setCissue s c) s.lane.tid s.lane.str).cissue.get (laneMember s, s.lane.word.seq) default = c
  rw [setCissue, strOf_modStr, if_pos rfl]
  exact Table.get_set_self ..

theorem gmask_setCissue (s : State) (c : CIssue) : (strOf (setCissue s c) s.lane.tid s.lane.str).gmask = (strOf s s.lane.tid s.lane.str).gmask := by
  rw [setCissue, strOf_modStr, if_pos rfl]

theorem markActed_ta (s : State) (p : Nat) : ((markActed s).clu p).ta = (s.clu p).ta := by
  unfold markActed
  dsimp only
  refine (foldl_keep (fun u => (u.clu p).ta) _ ?_ _ _).trans ?_
  · exact fun _ _ => rfl
  · rw [State.clu_modClu]
    split
    · next h => rw [h]
    · rfl

theorem cissueOf_noteOut (s : State) (reg span lanes : Nat) : cissueOf (noteOut s reg span lanes) = cissueOf s := by
  unfold noteOut
  split <;> rfl

theorem strOf_noteOut (s : State) (reg span lanes : Nat) (t : Tid) (n : Nat) : strOf (noteOut s reg span lanes) t n = strOf s t n := by
  unfold noteOut
  split <;> rfl

theorem clu_noteOut (s : State) (reg span lanes p : Nat) : (noteOut s reg span lanes).clu p = s.clu p := by
  unfold noteOut
  split <;> rfl

/-- What a TA word records of the word before its cluster issue is looked at: the inputs of its group, and its destination. -/
def taNoted (x : LaneWord) (go capt : Bool) (s : State) : State :=
  let mine := if go && decide ((setBits 16 (strOf s s.lane.tid s.lane.str).gmask).head? = some s.lane.slot) then goInputs s x (activeMask s x) else []
  let u := setCissue s { cissueOf s with inputs := (cissueOf s).inputs ++ mine }
  if capt then noteOut u x.dN 1 (activeMask s x) else u

theorem taNoted_reads (x : LaneWord) (go capt : Bool) (s : State) : ReadsAlike s (taNoted x go capt s) := by
  unfold taNoted
  dsimp only
  split
  · exact (modStr_reads ..).trans (noteOut_reads ..)
  · exact modStr_reads ..

theorem taNoted_clu (x : LaneWord) (go capt : Bool) (s : State) (p : Nat) : (taNoted x go capt s).clu p = s.clu p := by
  unfold taNoted
  dsimp only
  split
  · exact clu_noteOut ..
  · rfl

theorem taNoted_cissue (x : LaneWord) (go capt : Bool) (s : State) :
    ∃ bs, cissueOf (taNoted x go capt s) = { cissueOf s with inputs := bs } := by
  unfold taNoted
  dsimp only
  split
  · rw [cissueOf_noteOut, cissueOf_setCissue]
    exact ⟨_, rfl⟩
  · rw [cissueOf_setCissue]
    exact ⟨_, rfl⟩

theorem taNoted_gmask (x : LaneWord) (go capt : Bool) (s : State) :
    (strOf (taNoted x go capt s) s.lane.tid s.lane.str).gmask = (strOf s s.lane.tid s.lane.str).gmask := by
  unfold taNoted
  dsimp only
  split
  · rw [strOf_noteOut, gmask_setCissue]
  · exact gmask_setCissue ..

theorem taNoted_found (x : LaneWord) (go capt : Bool) (s : State) :
    (nextFound (taNoted x go capt s) x).done = (nextFound s x).done ∧ (nextFound (taNoted x go capt s) x).active = (nextFound s x).active := by
  obtain ⟨bs, hc⟩ := taNoted_cissue x go capt s
  unfold nextFound cissueNext
  dsimp only
  rw [(taNoted_reads x go capt s).activeMask, (taNoted_reads x go capt s).lane, hc, taNoted_gmask]
  exact ⟨rfl, rfl⟩

/-- The entry of the TA word in focus. -/
def newTaEnt (s : State) (c : CIssue) (mine : List Byte) : TaEnt :=
  { id := s.nextId, tid := s.lane.tid, str := s.lane.str, word := s.lane.word
    inputs := if s.lane.replay then mine else c.inputs, masks := c.masks, paid := false, start := none, snap := [] }

/-- An entry behind the others of the array's queue. -/
def enterArray (s : State) (e : TaEnt) : State :=
  modTa { s with nextId := s.nextId + 1 } s.lane.pid fun a => { a with ents := a.ents ++ [e] }

theorem taWord_eq {x : LaneWord} {s : State} (go capt : Bool) (hr : s.lane.replay = false) (hn : (s.clu s.lane.pid).ta.ents.length < 8) :
    ∃ mine, taWord x go capt s =
      onceWord x (fun s c => if !c.active then (s, true) else (enterArray s (newTaEnt s c mine), true)) (taNoted x go capt s) := by
  unfold taWord
  dsimp only
  rw [if_neg (by rw [decide_eq_false (by omega : ¬ 8 ≤ (s.clu s.lane.pid).ta.ents.length), Bool.and_false]; decide)]
  simp only [hr, Bool.false_eq_true, if_false]
  exact ⟨_, rfl⟩

theorem taWord_complete {x : LaneWord} {s : State} (go capt : Bool) (hr : s.lane.replay = false) (hd : (nextFound s x).done = true)
    (ha : (nextFound s x).active = true) (hn : (s.clu s.lane.pid).ta.ents.length < 8) :
    ∃ u e, taWord x go capt s = .next (issued u x (activeMask s x) true) ∧ e.word = s.lane.word
      ∧ (u.clu s.lane.pid).ta = { (s.clu s.lane.pid).ta with ents := (s.clu s.lane.pid).ta.ents ++ [e] } := by
  have hreads := taNoted_reads x go capt s
  have hclu := taNoted_clu x go capt s s.lane.pid
  obtain ⟨hd', ha'⟩ := taNoted_found x go capt s
  obtain ⟨mine, heq⟩ := taWord_eq (x := x) go capt hr hn
  generalize taNoted x go capt s = z at hreads hclu hd' ha' heq
  have hmade := onceWord_made (x := x) (s := z) (f := fun s c => if !c.active then (s, true) else (enterArray s (newTaEnt s c mine), true))
    (by rw [hreads.lane, hr]) (hd'.trans hd) (ha'.trans ha) (if_neg (by rw [ha', ha]; decide)) rfl
  rw [Made, hreads.activeMask] at hmade
  refine ⟨_, newTaEnt z (nextFound z x) mine, heq.trans hmade, congrArg LaneCtx.word hreads.lane, ?_⟩
  show ((markActed (enterArray z (newTaEnt z (nextFound z x) mine))).clu s.lane.pid).ta = _
  rw [markActed_ta, enterArray, modTa, hreads.lane, State.clu_modClu_self, ← hclu]
  rfl

theorem taWords_complete {x : LaneWord} {s : State} (hr : s.lane.replay = false) (hd : (nextFound s x).done = true)
    (ha : (nextFound s x).active = true) :
    ∀ i ∈ ([.taWin x, .taDly x, .taMode x, .taClr x, .taGo x, .taCapt x] : List Instr), (s.clu s.lane.pid).ta.ents.length < 8 →
      ∃ u e, exec i s = .next (issued u x (activeMask s x) true) ∧ e.word = s.lane.word
        ∧ (u.clu s.lane.pid).ta = { (s.clu s.lane.pid).ta with ents := (s.clu s.lane.pid).ta.ents ++ [e] } := by
  simp only [List.forall_mem_cons]
  exact ⟨taWord_complete false false hr hd ha, taWord_complete false false hr hd ha, taWord_complete false false hr hd ha,
    taWord_complete false false hr hd ha, taWord_complete true false hr hd ha, taWord_complete false true hr hd ha, by simp⟩

/-! ### LWAIT and LARR (R376, R377) -/

theorem laneSlotKey_eq (s : State) : laneSlotKey s =
    (s.lane.word.ua.toNat % 2 ^ 32 / 2 ^ 16 % 16, s.lane.word.ua.toNat % 2 ^ 32 / 2 ^ 8 % 2 ^ 8) := by
  rw [laneSlotKey, hClu_eq, hSlot_eq, laneHandle_eq]

theorem lwait_complete {x : LaneWord} {s : State} (hd : (cissueOf s).done = false) (hq : (cissueOf s).acq = none) (hl : handleLive s = true)
    (hp : (barAt s s.lane.tid.fid (laneSlotKey s)).phase ≠ s.lane.word.ub.toNat % 65536)
    (ha : acquireLane (setCissue s { cissueOf s with acq := some (barAt s s.lane.tid.fid (laneSlotKey s)).t }) = true) :
    ∃ u, exec (.lwait x) s = .next (issued u x (activeMask s x) true) ∧ u.groups = s.groups ∧ u.ops = s.ops := by
  refine ⟨_, (execLwait_passes hd hq hl (by rw [lwaitPhase_eq]; exact hp)).trans ((waitAcquires_ends s _ x _).2 ha), rfl, rfl⟩

theorem larrLanes_complete {x : LaneWord} {s : State} (hk : hKind (laneHandle s) = 1) (hl : handleLive s = true) :
    (fenceOpen s s.lane.slot s.lane.word.seq = true →
      ∃ u, exec (.larr x) s = .next (issued u x (activeMask s x) true) ∧ u = { s with threads := u.threads })
    ∧ (fenceOpen s s.lane.slot s.lane.word.seq = false →
      exec (.larr x) s = .next (issued (addLanes s s.lane.tid (laneHandle s) (laneMember s) s.lane.slot (activeMask s x)) x (activeMask s x) true)) := by
  refine ⟨fun hf => ⟨_, execLarr_lanes hk, ?_⟩, fun hf => (execLarr_lanes hk).trans ?_⟩
  · rw [arriveLanes_owed hl hf]
    rfl
  · rw [arriveLanes_now hl hf]

theorem larrMember_complete {x : LaneWord} {s u : State} (hr : s.lane.replay = false) (hd : (nextFound s x).done = true)
    (ha : (nextFound s x).active = true) (hk : hKind (laneHandle s) ≠ 1) (hl : handleLive s = true)
    (hu : addArrivals s s.lane.tid.fid (laneSlotKey s) 1 = some u) : exec (.larr x) s = Made x s u := by
  refine (execLarr_member hk).trans (onceWord_made hr hd ha ?_ (addArrivals_lane hu))
  rw [arriveMember_active hl ha, hu]

/-! ### REGROUP (R244, R245) -/

/-- What the groups of the member have found of a REGROUP, this one's targets with it. -/
def regroupFound (s : State) (x : LaneWord) : CIssue :=
  { nextFound s x with inputs := (nextFound s x).inputs ++ (srcA s x 1).flatMap fun v => leBytes 4 v }

/-- The active positions of the member with the targets recorded for them. -/
def regroupSources (d : CIssue) : List ((Nat × Nat) × Nat) :=
  (List.range d.masks.length).flatMap fun k =>
    (setBits 32 (d.masks.getD k (0, 0)).2).map fun l => (((d.masks.getD k (0, 0)).1, l), leNat ((d.inputs.drop (128 * k + 4 * l)).take 4))

/-- The target positions of those whose target R244 allows. -/
def regroupTargets (slots : List Nat) (src : List ((Nat × Nat) × Nat)) : List (Nat × Nat) :=
  src.filterMap fun e =>
    if e.2 < 4096 ∧ e.2 / 32 % 8 = 0 ∧ e.2 / 256 < slots.length then some (slots.getD (e.2 / 256) 0, e.2 % 32) else none

theorem zip_range_le {α : Type} (d : α) {l : List α} {n : Nat} (h : l.length ≤ n) :
    l.zip (List.range n) = (List.range l.length).map fun k => (l.getD k d, k) := by
  refine List.ext_getElem (by simpa using h) fun k hk _ => ?_
  have hk : k < l.length := by simp at hk; exact hk.1
  simp [List.getElem?_eq_getElem hk]

theorem regroupSources_eq {d : CIssue} (h : d.masks.length ≤ 16) : regroupSources d =
    (d.masks.zip (List.range 16)).flatMap fun e =>
      (setBits 32 e.1.2).map fun l => ((e.1.1, l), leNat ((d.inputs.drop (128 * e.2 + 4 * l)).take 4)) := by
  rw [zip_range_le (0, 0) h, List.flatMap_map]
  rfl

theorem regroupTarget_eq (slots : List Nat) (a : Nat) : regroupTarget slots 1 a =
    if a < 4096 ∧ a / 32 % 8 = 0 ∧ a / 256 < slots.length then some (slots.getD (a / 256) 0, a % 32) else none := by
  have h7 : fld a 7 5 = a / 32 % 8 := by simp [fld, Nat.shiftRight_eq_div_pow]
  have h11 : fld a 11 8 = a / 256 % 16 := by simp [fld, Nat.shiftRight_eq_div_pow]
  unfold regroupTarget
  rw [h7, h11]
  by_cases ha : a < 4096
  · rw [Nat.mod_eq_of_lt (by omega : a / 256 < 16), Nat.div_eq_of_lt ha]
    by_cases hz : a / 32 % 8 = 0
    · by_cases hs : a / 256 < slots.length
      · simp [ha, hz, hs, Nat.not_le.2 hs]
      · simp [hs, Nat.not_lt.1 hs]
    · simp [hz]
  · have : a / 4096 ≠ 0 := by omega
    simp [ha, this]

theorem notHeld {a b d : Bool} (ha : a = true) (hb : d = true → b = true) : ¬(!a || (d && !b)) = true := by
  subst ha
  cases d
  · simp
  · simp [hb rfl]

theorem regroup_complete {x : LaneWord} {s : State} (hr : s.lane.replay = false)
    (hready : regroupReady s (setBits 16 (strOf s s.lane.tid s.lane.str).gmask) ((setBits 32 (activeMask s x)).map fun l => (s.lane.slot, l)) = true) :
    let fid := s.lane.tid.fid
    let m := laneMember s
    let slots := setBits 16 (strOf s s.lane.tid s.lane.str).gmask
    let src := regroupSources (regroupFound s x)
    ((nextFound s x).done = false → exec (.regroup x) s = .next (issued (setCissue s (regroupFound s x)) x (activeMask s x) false))
    ∧ ((nextFound s x).done = true → (regroupFound s x).masks.length ≤ 16 →
        regroupReady s slots (src.map (·.1) ++ regroupTargets slots src) = true →
        ∀ mv, regroupMoves s fid m slots src = some mv →
          exec (.regroup x) s = .next (issued (masksAfter (dropCissue (moveLanes s fid m mv)) fid m slots) x (activeMask s x) true)) := by
  intro fid m slots src
  have hexec : exec (.regroup x) s = execRegroup x s := rfl
  refine ⟨fun hd => ?_, fun hd hm hall mv hmv => ?_⟩
  · rw [hexec]
    unfold execRegroup
    dsimp only
    rw [← nextFound]
    refine (if_neg (by rw [hr]; decide)).trans ((if_neg (notHeld hready fun h => ?_)).trans (if_pos (by rw [hd]; decide)))
    rw [hd] at h
    cases h
  · have hsrc : src = _ := regroupSources_eq hm
    have htgt : regroupTargets slots src = src.filterMap fun e => regroupTarget slots 1 e.2 := by
      simp only [regroupTargets, regroupTarget_eq]
    rw [htgt, hsrc] at hall
    rw [hsrc] at hmv
    rw [hexec]
    unfold execRegroup
    dsimp only
    rw [← nextFound]
    refine (if_neg (by rw [hr]; decide)).trans ((if_neg (notHeld hready fun _ => hall)).trans ((if_neg (by rw [hd]; decide)).trans ?_))
    unfold regroupFound at hmv
    dsimp only at hmv
    rw [hmv]

end Sys2Proof.Completion

end

section
/-! PROOFS. Where instructions complete: the statement of all of them (R39, R202, R331 to R333, R322, R323, R410, R483). -/

namespace Sys2Proof.Completion
open Sys2Proof Sys2Proof.Machine Sys2Proof.Claims Sys2Proof.Runs Sys2Proof.Results Sys2Proof.Predicates

/-- Settles O60: each word completes by the path of its kind, once what could hold it is excluded. -/
theorem instructionsComplete : Obligations.InstructionsComplete := by
  refine ⟨fun sb a num n5 s => ?_, fun x s => ?_, fun x s => ?_⟩
  · obtain ⟨hjr, hcallr, hsret, htrap⟩ := generatorCompletes sb a n5 s
    exact ⟨hjr, hcallr, hsret, htrap, swrCompletes sb a num s⟩
  · refine ⟨integerWords_complete x s, multiplies_complete x s, bitCounts_complete x s, wideMultiplies_complete x s,
      dotProducts_complete x s, packs_complete x s, ⟨_, rfl⟩, ⟨_, rfl⟩, pmovGet_complete x s, pmovSet_complete x s, ⟨_, rfl⟩,
      lexit_complete x s, rfl, fun hp => ?_, divisions_complete x s, fdiv_complete x s, ?_, ?_⟩
    · exact ⟨arithmetic_complete x s hp, minMaxSign_complete x s hp, floatDots_complete x s hp, specials_complete x s hp,
        sqrt_complete x s hp, fcmp_complete x s hp,
        ⟨fun _ _ => ⟨cvt_complete x s hp, cvts_complete x s hp⟩, cbd_complete x s hp⟩, cte_complete x s hp⟩
    · exact ⟨moves_complete x s, ballot_complete x s, integerReductions_complete x s,
        fun ht hp => ⟨floatReduction_complete x s false ht hp, floatReduction_complete x s true ht hp⟩,
        fun hr => ⟨vote_complete x s hr, uni_complete x s hr⟩⟩
    · exact fun _ _ _ hheld hp => laneMemory_complete x s hheld hp
  · intro pid act c code z made bank queued taQueued hr
    refine ⟨fun hd i hi => ?_, fun hd ha => ⟨ctld_complete hr hd ha, mcbt_complete hr hd ha, lfence_complete hr hd ha,
      fun hops hheld hp => ⟨stashMap_complete hr hd ha hops hheld hp, stashFlush_complete hr hd ha hops hheld hp,
        stashDrop_complete hr hd ha hops hheld hp⟩, copies_complete hr hd ha, qfence_complete hr hd ha, matrix_complete hr hd ha,
      taWords_complete hr hd ha⟩, fun hready => regroup_complete hr hready, ?_⟩
    · obtain ⟨f, hf⟩ := exec_onceWord x s i hi
      exact hf.trans (onceWord_earlier hr hd)
    · intro h key b e
      have hh : laneHandle s = h := laneHandle_eq s
      have hkey : laneSlotKey s = key := laneSlotKey_eq s
      have hkind : hKind (laneHandle s) = h / 2 ^ 6 % 4 := by rw [hKind_eq, hh]
      refine ⟨fun hd hq hl hp hacq => lwait_complete hd hq hl (by rw [hkey]; exact hp) (by rw [hkey]; exact hacq),
        fun hk hl => (larrLanes_complete (hkind.trans hk) hl).1, fun hk hl hf => ?_,
        fun hk hl hd ha u hu => larrMember_complete hr hd ha (by rw [hkind]; exact hk) hl (by rw [hkey]; exact hu)⟩
      have := (larrLanes_complete (x := x) (hkind.trans hk) hl).2 hf
      rwa [hh] at this

end Sys2Proof.Completion

end

section
/-! PROOFS. The canonical form of the memories, and what the operations on the state leave of it. -/

namespace Sys2Proof.Form
open Sys2Proof Sys2Proof.Machine Sys2Proof.Claims

/-! ### The form, part by part -/

/-- The weight plane of every cluster is in canonical form (R251). -/
def planesWf (cs : Table Nat Cluster) : Bool := cs.all fun e => Mem.wf e.2.plane

/-- The weight planes that an image holds are in canonical form (R438). -/
def savedWf (vs : List SavedClu) : Bool := vs.all fun v => Mem.wf v.plane

/-- The weight planes that the images of every flock hold are in canonical form (R438). -/
def imagesWf (fs : Table Nat Flock) : Bool := fs.all fun e => savedWf e.2.saved

/-- Every local SRAM is in canonical form (R142). -/
def localsWf (ls : Table (Nat × Nat) Mem) : Bool := ls.all fun e => Mem.wf e.2

/-- The canonical form speaks of five parts of the state alone. -/
theorem wf_parts (s : State) : s.wf = (s.mem.wf && s.pkg.ctlRam.wf && localsWf s.locals && planesWf s.clusters && imagesWf s.flocks) := rfl

theorem wf_iff {s : State} : s.wf = true ↔ s.mem.wf = true ∧ s.pkg.ctlRam.wf = true ∧ localsWf s.locals = true
    ∧ planesWf s.clusters = true ∧ imagesWf s.flocks = true := by
  simp only [wf_parts, Bool.and_eq_true, and_assoc]

variable {s t : State}

theorem homeFrame_wf (hf : HomeFrame s t) (h : s.wf = true) : t.wf = true := by
  rw [wf_iff] at *
  obtain ⟨hm, hr, hl, hp, hi⟩ := h
  exact ⟨hf.mem hm, hf.pkg ▸ hr, hf.locals ▸ hl, hf.planes hp, hf.flocks ▸ hi⟩

theorem plane_wf (h : s.wf = true) (pid : Nat) : (s.clu pid).plane.wf = true :=
  Table.get_of_all (fun e : Nat × Cluster => Mem.wf e.2.plane) _ pid Cluster.reset (wf_iff.1 h).2.2.2.1 rfl

theorem localMem_wf (h : s.wf = true) (fid m : Nat) : (s.localMem fid m).wf = true :=
  Table.get_of_all (fun e : (Nat × Nat) × Mem => Mem.wf e.2) _ (fid, m) [] (wf_iff.1 h).2.2.1 rfl

theorem saved_wf (h : s.wf = true) (fid : Nat) : savedWf (s.flk fid).saved = true :=
  Table.get_of_all (fun e : Nat × Flock => savedWf e.2.saved) _ fid default (wf_iff.1 h).2.2.2.2 rfl

/-! ### The tables of the state -/

theorem setClu_wf {pid : Nat} {c : Cluster} (h : s.wf = true) (hc : c.plane.wf = true) : (s.setClu pid c).wf = true := by
  rw [wf_iff] at *
  obtain ⟨hm, hr, hl, hp, hi⟩ := h
  exact ⟨hm, hr, hl, Table.all_set _ _ _ _ hp hc, hi⟩

theorem modClu_wf {pid : Nat} {f : Cluster → Cluster} (h : s.wf = true) (hf : ∀ c, c.plane.wf = true → (f c).plane.wf = true) :
    (s.modClu pid f).wf = true := setClu_wf h (hf _ (plane_wf h pid))

theorem setFlk_wf {fid : Nat} {f : Flock} (h : s.wf = true) (hf : savedWf f.saved = true) : (s.setFlk fid f).wf = true := by
  rw [wf_iff] at *
  obtain ⟨hm, hr, hl, hp, hi⟩ := h
  exact ⟨hm, hr, hl, hp, Table.all_set _ _ _ _ hi hf⟩

theorem modFlk_wf {fid : Nat} {f : Flock → Flock} (h : s.wf = true) (hf : ∀ x, savedWf x.saved = true → savedWf (f x).saved = true) :
    (s.modFlk fid f).wf = true := setFlk_wf h (hf _ (saved_wf h fid))

theorem modPkg_wf {f : Pkg → Pkg} (h : s.wf = true) (hf : ∀ p, p.ctlRam.wf = true → (f p).ctlRam.wf = true) :
    (s.modPkg f).wf = true := by
  rw [wf_iff] at *
  obtain ⟨hm, hr, hl, hp, hi⟩ := h
  exact ⟨hm, hf _ hr, hl, hp, hi⟩

theorem localWrite_wf {fid m off : Nat} {bs : List Byte} (h : s.wf = true) : (s.localWrite fid m off bs).wf = true := by
  have hw := Mem.wf_writeList (s.localMem fid m) off bs (localMem_wf h fid m)
  rw [wf_iff] at *
  obtain ⟨hm, hr, hl, hp, hi⟩ := h
  exact ⟨hm, hr, Table.all_set _ _ _ _ hl hw, hp, hi⟩

theorem planeWrite_wf {pid off : Nat} {bs : List Byte} (h : s.wf = true) : (s.planeWrite pid off bs).wf = true :=
  modClu_wf h fun _ hc => Mem.wf_writeList _ _ _ hc

theorem setThr_wf {t : Tid} {x : Thread} (h : s.wf = true) : (s.setThr t x).wf = true := h
theorem modThr_wf {t : Tid} {f : Thread → Thread} (h : s.wf = true) : (s.modThr t f).wf = true := h
theorem setCtx_wf {k : Nat} {c : Ctx} (h : s.wf = true) : (s.setCtx k c).wf = true := h
theorem modCtx_wf {k : Nat} {f : Ctx → Ctx} (h : s.wf = true) : (s.modCtx k f).wf = true := h
theorem setGrp_wf {fid m k : Nat} {g : Group} (h : s.wf = true) : (s.setGrp fid m k g).wf = true := h
theorem modGrp_wf {fid m k : Nat} {f : Group → Group} (h : s.wf = true) : (s.modGrp fid m k f).wf = true := h
theorem modDie_wf {d : Nat} {f : Die → Die} (h : s.wf = true) : (s.modDie d f).wf = true := h
theorem modQuad_wf {q : Nat} {f : Quad → Quad} (h : s.wf = true) : (s.modQuad q f).wf = true := h
theorem modStk_wf {k : Nat} {f : Stack → Stack} (h : s.wf = true) : (s.modStk k f).wf = true := h
theorem modQue_wf {q : Nat} {f : Queue → Queue} (h : s.wf = true) : (s.modQue q f).wf = true := h
theorem modHome_wf {pa : Nat} {f : HomeLine → HomeLine} (h : s.wf = true) : (s.modHome pa f).wf = true := h

/-! ### Folds -/

theorem foldl_wf {α : Type} {f : State → α → State} {l : List α} (h : s.wf = true) (hf : ∀ s a, s.wf = true → (f s a).wf = true) :
    (l.foldl f s).wf = true := by
  induction l generalizing s with
  | nil => exact h
  | cons a l ih => exact ih (hf s a h)

/-- A fold that carries a value beside the state. -/
theorem foldlPair_wf {α β : Type} {f : State × β → α → State × β} {l : List α} {x : State × β} (h : x.1.wf = true)
    (hf : ∀ x a, x.1.wf = true → (f x a).1.wf = true) : (l.foldl f x).1.wf = true := by
  induction l generalizing x with
  | nil => exact h
  | cons a l ih => exact ih (hf x a h)

/-! ### What an instruction answers -/

/-- The answer is a next state, whose memories keep their form where a condition holds. -/
def Lands (p : Prop) (o : Out) : Prop := ∃ t, o = .next t ∧ (p → t.wf = true)

theorem lands_next {p : Prop} (h : p → t.wf = true) : Lands p (.next t) := ⟨t, rfl, h⟩

theorem ite_wf {c : Prop} [Decidable c] (hs : s.wf = true) (ht : t.wf = true) : (if c then s else t).wf = true := by
  split
  · exact hs
  · exact ht

/-- The state of a pair that an operation has answered. -/
theorem fst_wf {α : Type} {x : State × α} {a : α} (e : x = (s, a)) (h : x.1.wf = true) : s.wf = true := by
  rwa [e] at h

/-! ### A part of the state replaced -/

theorem ofMem_wf {m : Mem} (h : s.wf = true) (hm : m.wf = true) : { s with mem := m }.wf = true := by
  rw [wf_iff] at *
  exact ⟨hm, h.2⟩

theorem ofClusters_wf {cs : Table Nat Cluster} (h : s.wf = true) (hc : planesWf cs = true) : { s with clusters := cs }.wf = true := by
  rw [wf_iff] at *
  obtain ⟨hm, hr, hl, _, hi⟩ := h
  exact ⟨hm, hr, hl, hc, hi⟩

theorem ofFlocks_wf {fs : Table Nat Flock} (h : s.wf = true) (hf : imagesWf fs = true) : { s with flocks := fs }.wf = true := by
  rw [wf_iff] at *
  obtain ⟨hm, hr, hl, hp, _⟩ := h
  exact ⟨hm, hr, hl, hp, hf⟩

theorem ofLocals_wf {ls : Table (Nat × Nat) Mem} (h : s.wf = true) (hl : localsWf ls = true) : { s with locals := ls }.wf = true := by
  rw [wf_iff] at *
  obtain ⟨hm, hr, _, hp, hi⟩ := h
  exact ⟨hm, hr, hl, hp, hi⟩

theorem planesWf_mapVals {cs : Table Nat Cluster} {f : Nat → Cluster → Cluster} (h : planesWf cs = true)
    (hf : ∀ k c, c.plane.wf = true → (f k c).plane.wf = true) : planesWf (cs.mapVals f) = true := by
  unfold planesWf Table.mapVals at *
  rw [List.all_map]
  rw [List.all_eq_true] at *
  exact fun e he => hf _ _ (h e he)

theorem imagesWf_mapVals {fs : Table Nat Flock} {f : Nat → Flock → Flock} (h : imagesWf fs = true)
    (hf : ∀ k x, savedWf x.saved = true → savedWf (f k x).saved = true) : imagesWf (fs.mapVals f) = true := by
  unfold imagesWf Table.mapVals at *
  rw [List.all_map]
  rw [List.all_eq_true] at *
  exact fun e he => hf _ _ (h e he)

/-- Every cluster is changed, and no weight plane. -/
theorem mapClus_wf {f : Nat → Cluster → Cluster} (h : s.wf = true) (hf : ∀ k c, (f k c).plane = c.plane) :
    { s with clusters := s.clusters.mapVals f }.wf = true :=
  ofClusters_wf h (planesWf_mapVals (wf_iff.1 h).2.2.2.1 fun k c hc => by rwa [hf k c])

/-- Every flock is changed, and no weight plane that an image holds. -/
theorem mapFlks_wf {f : Nat → Flock → Flock} (h : s.wf = true) (hf : ∀ k x, savedWf x.saved = true → savedWf (f k x).saved = true) :
    { s with flocks := s.flocks.mapVals f }.wf = true :=
  ofFlocks_wf h (imagesWf_mapVals (wf_iff.1 h).2.2.2.2 hf)

theorem savedWf_iff {vs : List SavedClu} : savedWf vs = true ↔ ∀ v ∈ vs, v.plane.wf = true := List.all_eq_true

theorem savedWf_map {vs : List SavedClu} {f : SavedClu → SavedClu} (h : savedWf vs = true) (hf : ∀ v, (f v).plane = v.plane) :
    savedWf (vs.map f) = true := by
  rw [savedWf_iff] at *
  intro v hv
  obtain ⟨w, hw, rfl⟩ := List.mem_map.1 hv
  rw [hf]
  exact h w hw

theorem planesWf_map {cs : Table Nat Cluster} {f : Nat × Cluster → Nat × Cluster} (h : planesWf cs = true)
    (hf : ∀ e, e.2.plane.wf = true → (f e).2.plane.wf = true) : planesWf (cs.map f) = true := by
  unfold planesWf at *
  rw [List.all_map]
  rw [List.all_eq_true] at *
  exact fun e he => hf _ (h e he)

theorem imagesWf_map {fs : Table Nat Flock} {f : Nat × Flock → Nat × Flock} (h : imagesWf fs = true)
    (hf : ∀ e, savedWf e.2.saved = true → savedWf (f e).2.saved = true) : imagesWf (fs.map f) = true := by
  unfold imagesWf at *
  rw [List.all_map]
  rw [List.all_eq_true] at *
  exact fun e he => hf _ (h e he)

theorem localsWf_filter {ls : Table (Nat × Nat) Mem} {q : (Nat × Nat) × Mem → Bool} (h : localsWf ls = true) :
    localsWf (ls.filter q) = true := by
  unfold localsWf at *
  rw [List.all_eq_true] at *
  exact fun e he => h e (List.mem_of_mem_filter he)

/-- The images of the flocks listed, one by one. -/
theorem listed_saved_wf (h : s.wf = true) {e : Nat × Flock} (he : e ∈ s.flocks) : savedWf e.2.saved = true :=
  (List.all_eq_true.1 (wf_iff.1 h).2.2.2.2) e he

theorem savedWf_setAt {vs : List SavedClu} {k : Nat} {v : SavedClu} (h : savedWf vs = true) (hv : v.plane.wf = true) :
    savedWf (setAt vs k v) = true := by
  induction vs generalizing k with
  | nil => rfl
  | cons w vs ih =>
    unfold savedWf at h ih
    rw [List.all_cons, Bool.and_eq_true] at h
    cases k with
    | zero => unfold setAt savedWf; rw [List.all_cons, hv, h.2]; rfl
    | succ k => unfold setAt savedWf; rw [List.all_cons, h.1]; exact ih h.2

theorem plane_of_getElem? {vs : List SavedClu} {k : Nat} {v : SavedClu} (h : savedWf vs = true) (hv : vs[k]? = some v) :
    v.plane.wf = true := savedWf_iff.1 h v (List.mem_of_getElem? hv)

theorem foldlMem_wf {α : Type} {f : Mem → α → Mem} {l : List α} {m : Mem} (h : m.wf = true)
    (hf : ∀ m a, m.wf = true → (f m a).wf = true) : (l.foldl f m).wf = true := by
  induction l generalizing m with
  | nil => exact h
  | cons a l ih => exact ih (hf m a h)

/-- A fold over the entries of a list that all have a property. -/
theorem foldlMem_state {α : Type} {P : α → Prop} {f : State → α → State} {l : List α} (h : s.wf = true) (hl : ∀ a ∈ l, P a)
    (hf : ∀ s a, s.wf = true → P a → (f s a).wf = true) : (l.foldl f s).wf = true := by
  induction l generalizing s with
  | nil => exact h
  | cons a l ih => exact ih (hf s a h (hl a (by simp))) fun b hb => hl b (by simp [hb])

theorem faultRecord_wf {ctx pid : Nat} {bs : List Byte} (h : s.wf = true) : (faultRecord s ctx pid bs).1.wf = true :=
  homeFrame_wf (faultRecord_frame s ctx pid bs) h

theorem setThreads_wf {ts : Table Tid Thread} (h : s.wf = true) : { s with threads := ts }.wf = true := h

theorem captureOn_plane (e : EWord) (c : Cluster) : (captureOn e c).1.plane = c.plane := by
  unfold captureOn
  dsimp only
  split
  · rfl
  · split
    · rfl
    · split
      · rfl
      · split
        · rfl
        · rfl

/-- A fold that keeps the images of the pair it carries. -/
theorem foldr_saved {α β : Type} {f : α → β × List SavedClu → β × List SavedClu} {l : List α} {x : β × List SavedClu}
    (h : savedWf x.2 = true) (hf : ∀ a y, savedWf y.2 = true → savedWf (f a y).2 = true) : savedWf (l.foldr f x).2 = true := by
  induction l with
  | nil => exact h
  | cons a l ih => exact hf a _ ih

theorem foldl_saved {α β : Type} {f : β × List SavedClu → α → β × List SavedClu} {l : List α} {x : β × List SavedClu}
    (h : savedWf x.2 = true) (hf : ∀ y a, savedWf y.2 = true → savedWf (f y a).2 = true) : savedWf (l.foldl f x).2 = true := by
  induction l generalizing x with
  | nil => exact h
  | cons a l ih => exact ih (hf x a h)

/-- A fold over saved clusters that writes back entries with the weight planes they had. -/
theorem foldlSaved_wf {α : Type} {f : List SavedClu → α → List SavedClu} {l : List α} {vs : List SavedClu} (h : savedWf vs = true)
    (hf : ∀ ws a, savedWf ws = true → savedWf (f ws a) = true) : savedWf (l.foldl f vs) = true := by
  induction l generalizing vs with
  | nil => exact h
  | cons a l ih => exact ih (hf vs a h)

/-- What is written back into the saved clusters for the UNIs of a flock leaves their weight planes. -/
theorem redoUnis_saved {s : State} {fid : Nat} {saved : List SavedClu} (h : savedWf saved = true) : savedWf (redoUnis s fid saved).2 = true := by
  unfold redoUnis
  refine foldl_saved h fun y e hy => ?_
  refine foldr_saved (β := List OutReg) (x := ([], y.2)) hy fun o z hz => ?_
  dsimp only
  split
  · refine foldlSaved_wf hz fun ws q hw => ?_
    split
    case h_1 v hv => exact savedWf_setAt hw (plane_of_getElem? (v := v) hw hv)
    · exact hw
  · exact hz

end Sys2Proof.Form
end

section
/-! PROOFS. What each function of the model leaves of the canonical form, one lemma per function, in the order of the model. An
instruction or event answers a next state (`Lands`), in canonical form where it starts in one. -/

namespace Sys2Proof.Form
open Sys2Proof Sys2Proof.Machine Sys2Proof.Claims

theorem place_wf {s pid pipe p} (hs : s.wf = true) : (place s pid pipe p).wf = true :=
  modClu_wf hs fun _ hc => hc

theorem modPurse_wf {s pid f} (hs : s.wf = true) : (modPurse s pid f).wf = true :=
  modClu_wf hs fun _ hc => hc

theorem focusWord_wf {s pid pipe p w act} (hs : s.wf = true) : (focusWord s pid pipe p w act).wf = true :=
  hs

theorem focusRun_wf {u : State} {s pid pipe p} (hs : s.wf = true) (hu : focusRun s pid pipe p = some u) : u.wf = true := by
  grind [focusRun, focusWord_wf, wf_parts]

theorem modLaneRun_wf {s f} (hs : s.wf = true) : (modLaneRun s f).wf = true :=
  modClu_wf hs fun _ hc => hc

theorem modLaneGrp_wf {s f} (hs : s.wf = true) : (modLaneGrp s f).wf = true :=
  modGrp_wf hs

theorem recordPark_wf {s act acted} (hs : s.wf = true) : (recordPark s act acted).wf = true := by
  unfold recordPark
  split
  · exact hs
  · exact modLaneGrp_wf hs

theorem progress_wf {s ctx} (hs : s.wf = true) : (progress s ctx).wf = true :=
  modCtx_wf hs

theorem settleMaskRdUntil_wf {s t k} (hs : s.wf = true) : (settleMaskRdUntil s t k).wf = true := by
  unfold settleMaskRdUntil
  dsimp only
  split
  · exact modThr_wf hs
  · exact hs

theorem settleMaskRd_wf {s t} (hs : s.wf = true) : (settleMaskRd s t).wf = true :=
  settleMaskRdUntil_wf hs

theorem holdIf_wf {b s} (hs : s.wf = true) : (holdIf b s).wf = true := by
  unfold holdIf
  split
  · exact hs
  · exact hs

theorem atHome_wf {s pa n} (hs : s.wf = true) : (atHome s pa n).wf = true := homeFrame_wf (atHome_frame s pa n) hs

theorem signal_wf {s entry} (hs : s.wf = true) : (signal s entry).wf = true := by
  unfold signal
  split
  · exact hs
  · exact modPkg_wf hs fun _ hx => hx

theorem ctxEvent_wf {s ctx bit} (hs : s.wf = true) : (ctxEvent s ctx bit).wf = true := by
  unfold ctxEvent
  dsimp only
  exact signal_wf (setCtx_wf hs)

theorem haltThread_wf {s t cause tval resume} (hs : s.wf = true) : (haltThread s t cause tval resume).wf = true := by
  unfold haltThread
  dsimp only
  exact ctxEvent_wf (modFlk_wf (modThr_wf (homeFrame_wf (faultRecord_frame ..) hs)) fun _ hx => hx)

theorem raiseTrap_wf {s t cause tval after} (hs : s.wf = true) : (raiseTrap s t cause tval after).wf = true := by
  unfold raiseTrap
  dsimp only
  split
  · split
    · exact modThr_wf hs
    · exact modThr_wf hs
  · exact haltThread_wf hs
  · exact hs

theorem endReplay_wf {s p} (hs : s.wf = true) : (endReplay s p).wf = true := by
  unfold endReplay
  dsimp only
  split
  · exact modLaneGrp_wf hs
  · exact raiseTrap_wf (modLaneGrp_wf hs)

theorem modStr_wf {s t n f} (hs : s.wf = true) : (modStr s t n f).wf = true :=
  modThr_wf hs

theorem setEx_wf {s fid clu slot v} (hs : s.wf = true) : (setEx s fid clu slot v).wf = true := by
  unfold setEx
  split
  · exact hs
  · exact modGrp_wf hs

theorem applyMasks_wf {s t n p} (hs : s.wf = true) : (applyMasks s t n p).wf = true := by
  unfold applyMasks
  dsimp only
  split
  · exact hs
  · exact modStr_wf (foldl_wf hs fun u _ hu => setEx_wf (settleMaskRdUntil_wf hu))

theorem laneFaultDue_wf {s t n idx} (hs : s.wf = true) : (laneFaultDue s t n idx).wf = true := by
  unfold laneFaultDue
  dsimp only
  split
  · exact hs
  · split
    · exact raiseTrap_wf (modStr_wf hs)
    · exact hs

theorem endRun_wf {s p} (hs : s.wf = true) : (endRun s p).wf = true := by
  unfold endRun
  dsimp only
  split
  · exact endReplay_wf (modLaneGrp_wf (modClu_wf hs fun _ hc => hc))
  · exact modStr_wf (laneFaultDue_wf (applyMasks_wf (modStr_wf (modLaneGrp_wf (modClu_wf hs fun _ hc => hc)))))

theorem tryEnd_wf {s} (hs : s.wf = true) : (tryEnd s).wf = true := by
  unfold tryEnd
  split
  · split
    · exact endRun_wf hs
    · exact hs
  · exact hs

theorem issued_wf {s x act acted} (hs : s.wf = true) : (issued s x act acted).wf = true := by
  unfold issued
  dsimp only
  exact settleMaskRd_wf (tryEnd_wf (progress_wf (recordPark_wf (modClu_wf (modLaneRun_wf hs) fun _ hc => hc))))

theorem freeWordAct_lands {p : Prop} {x : LaneWord} {body : State → Nat → State} {s : State}
    (hb : ∀ u a, u.wf = true → (body u a).wf = true) (hs : p → s.wf = true) : Lands p (freeWordAct x body s) :=
  lands_next fun hp => issued_wf (hb _ _ (hs hp))

theorem writeRow_wf {s code mask vals} (hs : s.wf = true) : (writeRow s code mask vals).wf = true := by
  unfold writeRow
  split
  · exact modLaneGrp_wf hs
  · exact modLaneRun_wf hs

theorem noteFix_wf {s code mask lat old} (hs : s.wf = true) : (noteFix s code mask lat old).wf = true :=
  modLaneRun_wf hs

theorem putDest_wf {s code n lat mask vals} (hs : s.wf = true) : (putDest s code n lat mask vals).wf = true := by
  unfold putDest
  split
  · exact hs
  · exact foldl_wf hs fun u _ hu => noteFix_wf (writeRow_wf hu)

theorem elemWord_lands {p : Prop} {x lat f a4} (ha4 : p → a4.wf = true) : Lands p (elemWord x lat f a4) := by
  unfold elemWord
  exact freeWordAct_lands (fun _ _ hu => putDest_wf hu) ha4

theorem intWord_lands {p : Prop} {x lat op a4} (ha4 : p → a4.wf = true) : Lands p (intWord x lat op a4) := by
  unfold intWord
  exact elemWord_lands ha4

theorem execIadd_lands {p : Prop} {x s} (hs : p → s.wf = true) : Lands p (execIadd x s) := by
  unfold execIadd
  exact intWord_lands hs

theorem execIsub_lands {p : Prop} {x s} (hs : p → s.wf = true) : Lands p (execIsub x s) := by
  unfold execIsub
  exact intWord_lands hs

theorem execImul_lands {p : Prop} {x s} (hs : p → s.wf = true) : Lands p (execImul x s) := by
  unfold execImul
  exact intWord_lands hs

theorem execImulh_lands {p : Prop} {x s} (hs : p → s.wf = true) : Lands p (execImulh x s) := by
  unfold execImulh
  exact intWord_lands hs

theorem execImad_lands {p : Prop} {x s} (hs : p → s.wf = true) : Lands p (execImad x s) := by
  unfold execImad
  exact intWord_lands hs

theorem execImin_lands {p : Prop} {x s} (hs : p → s.wf = true) : Lands p (execImin x s) := by
  unfold execImin
  exact intWord_lands hs

theorem execImax_lands {p : Prop} {x s} (hs : p → s.wf = true) : Lands p (execImax x s) := by
  unfold execImax
  exact intWord_lands hs

theorem execIabs_lands {p : Prop} {x s} (hs : p → s.wf = true) : Lands p (execIabs x s) := by
  unfold execIabs
  exact intWord_lands hs

theorem bitWord_lands {p : Prop} {x lat op a4} (ha4 : p → a4.wf = true) : Lands p (bitWord x lat op a4) := by
  unfold bitWord
  exact elemWord_lands ha4

theorem execAndLane_lands {p : Prop} {x s} (hs : p → s.wf = true) : Lands p (execAndLane x s) := by
  unfold execAndLane
  exact bitWord_lands hs

theorem execOrLane_lands {p : Prop} {x s} (hs : p → s.wf = true) : Lands p (execOrLane x s) := by
  unfold execOrLane
  exact bitWord_lands hs

theorem execXorLane_lands {p : Prop} {x s} (hs : p → s.wf = true) : Lands p (execXorLane x s) := by
  unfold execXorLane
  exact bitWord_lands hs

theorem execNotLane_lands {p : Prop} {x s} (hs : p → s.wf = true) : Lands p (execNotLane x s) := by
  unfold execNotLane
  exact bitWord_lands hs

theorem execShlLane_lands {p : Prop} {x s} (hs : p → s.wf = true) : Lands p (execShlLane x s) := by
  unfold execShlLane
  exact bitWord_lands hs

theorem execShrLane_lands {p : Prop} {x s} (hs : p → s.wf = true) : Lands p (execShrLane x s) := by
  unfold execShrLane
  exact bitWord_lands hs

theorem execRotl_lands {p : Prop} {x s} (hs : p → s.wf = true) : Lands p (execRotl x s) := by
  unfold execRotl
  exact bitWord_lands hs

theorem execBfe_lands {p : Prop} {x s} (hs : p → s.wf = true) : Lands p (execBfe x s) := by
  unfold execBfe
  dsimp only
  exact freeWordAct_lands (fun _ _ hu => putDest_wf hu) hs

theorem execBfi_lands {p : Prop} {x s} (hs : p → s.wf = true) : Lands p (execBfi x s) := by
  unfold execBfi
  dsimp only
  exact freeWordAct_lands (fun _ _ hu => putDest_wf hu) hs

theorem execPopcLane_lands {p : Prop} {x s} (hs : p → s.wf = true) : Lands p (execPopcLane x s) := by
  unfold execPopcLane
  exact freeWordAct_lands (fun _ _ hu => putDest_wf hu) hs

theorem execClzLane_lands {p : Prop} {x s} (hs : p → s.wf = true) : Lands p (execClzLane x s) := by
  unfold execClzLane
  exact freeWordAct_lands (fun _ _ hu => putDest_wf hu) hs

theorem execBrev_lands {p : Prop} {x s} (hs : p → s.wf = true) : Lands p (execBrev x s) := by
  unfold execBrev
  exact bitWord_lands hs

theorem execMovLane_lands {p : Prop} {x s} (hs : p → s.wf = true) : Lands p (execMovLane x s) := by
  unfold execMovLane
  exact bitWord_lands hs

theorem execIadd3_lands {p : Prop} {x s} (hs : p → s.wf = true) : Lands p (execIadd3 x s) := by
  unfold execIadd3
  exact intWord_lands hs

theorem sumWord_lands {p : Prop} {x lat f a4} (ha4 : p → a4.wf = true) : Lands p (sumWord x lat f a4) := by
  unfold sumWord
  exact freeWordAct_lands (fun _ _ hu => putDest_wf hu) ha4

theorem execIsad_lands {p : Prop} {x s} (hs : p → s.wf = true) : Lands p (execIsad x s) := by
  unfold execIsad
  exact sumWord_lands hs

theorem execImulw_lands {p : Prop} {x s} (hs : p → s.wf = true) : Lands p (execImulw x s) := by
  unfold execImulw
  exact freeWordAct_lands (fun _ _ hu => putDest_wf hu) hs

theorem execImadw_lands {p : Prop} {x s} (hs : p → s.wf = true) : Lands p (execImadw x s) := by
  unfold execImadw
  exact freeWordAct_lands (fun _ _ hu => putDest_wf hu) hs

theorem execIdp4_lands {p : Prop} {x s} (hs : p → s.wf = true) : Lands p (execIdp4 x s) := by
  unfold execIdp4
  exact sumWord_lands hs

theorem execIdp2_lands {p : Prop} {x s} (hs : p → s.wf = true) : Lands p (execIdp2 x s) := by
  unfold execIdp2
  exact sumWord_lands hs

theorem rollSpend_wf {s pid} (hs : s.wf = true) : (rollSpend s pid).wf = true := by
  unfold rollSpend
  dsimp only
  split
  · exact hs
  · exact modPurse_wf hs

theorem deny_wf {s pid who d} (hs : s.wf = true) : (deny s pid who d).wf = true :=
  modPurse_wf hs

theorem pay_wf {s pid who price} (hs : s.wf = true) : (pay s pid who price).1.wf = true := by
  unfold pay
  split
  · exact hs
  · dsimp only
    split
    · exact deny_wf (rollSpend_wf hs)
    · split
      · exact modPurse_wf (modPurse_wf (rollSpend_wf hs))
      · exact deny_wf (modPurse_wf (rollSpend_wf hs))

theorem payLane_wf {s weight act} (hs : s.wf = true) : (payLane s weight act).1.wf = true :=
  pay_wf hs

theorem holdWord_lands {p : Prop} {s} (hs : p → s.wf = true) : Lands p (holdWord s) := by
  unfold holdWord
  exact lands_next hs

theorem pricedWord_lands {p : Prop} {w : Nat} {x : LaneWord} {body : State → Nat → State} {s : State}
    (hb : ∀ u a, u.wf = true → (body u a).wf = true) (hs : p → s.wf = true) : Lands p (pricedWord w x body s) := by
  unfold pricedWord
  dsimp only
  split
  · exact holdWord_lands fun hp => fst_wf ‹_› (payLane_wf (hs hp))
  · exact lands_next fun hp => issued_wf (hb _ _ (fst_wf ‹_› (payLane_wf (hs hp))))

theorem aelRecord_wf {s ctx pid e source clu slot t str seq} (hs : s.wf = true) :
    (aelRecord s ctx pid e source clu slot t str seq).wf = true := by
  unfold aelRecord
  dsimp only
  split
  · exact hs
  · exact homeFrame_wf (recStore_frame ..) (setCtx_wf hs)

theorem aelLane_wf {s e} (hs : s.wf = true) : (aelLane s e).wf = true :=
  aelRecord_wf hs

theorem floatWord_lands {p : Prop} {x lat n res a5} (ha5 : p → a5.wf = true) : Lands p (floatWord x lat n res a5) := by
  unfold floatWord
  exact pricedWord_lands (fun _ _ hu => aelLane_wf (putDest_wf hu)) ha5

theorem execFadd_lands {p : Prop} {x s} (hs : p → s.wf = true) : Lands p (execFadd x s) := by
  unfold execFadd
  exact floatWord_lands hs

theorem execFsub_lands {p : Prop} {x s} (hs : p → s.wf = true) : Lands p (execFsub x s) := by
  unfold execFsub
  exact floatWord_lands hs

theorem execFmul_lands {p : Prop} {x s} (hs : p → s.wf = true) : Lands p (execFmul x s) := by
  unfold execFmul
  exact floatWord_lands hs

theorem execFfma_lands {p : Prop} {x s} (hs : p → s.wf = true) : Lands p (execFfma x s) := by
  unfold execFfma
  exact floatWord_lands hs

theorem execFmin_lands {p : Prop} {x s} (hs : p → s.wf = true) : Lands p (execFmin x s) := by
  unfold execFmin
  exact floatWord_lands hs

theorem execFmax_lands {p : Prop} {x s} (hs : p → s.wf = true) : Lands p (execFmax x s) := by
  unfold execFmax
  exact floatWord_lands hs

theorem execFabs_lands {p : Prop} {x s} (hs : p → s.wf = true) : Lands p (execFabs x s) := by
  unfold execFabs
  exact floatWord_lands hs

theorem execFneg_lands {p : Prop} {x s} (hs : p → s.wf = true) : Lands p (execFneg x s) := by
  unfold execFneg
  exact floatWord_lands hs

theorem execFdp2_lands {p : Prop} {x s} (hs : p → s.wf = true) : Lands p (execFdp2 x s) := by
  unfold execFdp2
  exact floatWord_lands hs

theorem execFdp4_lands {p : Prop} {x s} (hs : p → s.wf = true) : Lands p (execFdp4 x s) := by
  unfold execFdp4
  exact floatWord_lands hs

theorem execFrnd_lands {p : Prop} {x s} (hs : p → s.wf = true) : Lands p (execFrnd x s) := by
  unfold execFrnd
  exact floatWord_lands hs

theorem settleSeed_wf {s pid} (hs : s.wf = true) : (settleSeed s pid).wf = true :=
  ite_wf hs (modClu_wf hs fun c hc => by unfold Cluster.seeded; split <;> exact hc)

theorem setSr_wf {s l v} (hs : s.wf = true) : (setSr s l v).wf = true := by
  unfold setSr
  dsimp only
  exact modClu_wf hs fun _ hc => hc

theorem convWord_lands {p : Prop} {x lat n wS wD round els f a9} (ha9 : p → a9.wf = true) : Lands p
    (convWord x lat n wS wD round els f a9) := by
  unfold convWord
  refine pricedWord_lands (fun _ _ hu => aelLane_wf (ite_wf (foldl_wf (putDest_wf (ite_wf (settleSeed_wf hu) hu)) fun u1 _ hu1 => ?_)
      (putDest_wf (ite_wf (settleSeed_wf hu) hu)))) ha9
  split
  · exact setSr_wf hu1
  · exact hu1

theorem execCvt_lands {p : Prop} {x s} (hs : p → s.wf = true) : Lands p (execCvt x s) := by
  unfold execCvt
  dsimp only
  exact convWord_lands hs

theorem execCvts_lands {p : Prop} {x s} (hs : p → s.wf = true) : Lands p (execCvts x s) := by
  unfold execCvts
  dsimp only
  exact convWord_lands hs

theorem dropCissue_wf {s} (hs : s.wf = true) : (dropCissue s).wf = true :=
  modStr_wf hs

theorem setCissue_wf {s c} (hs : s.wf = true) : (setCissue s c).wf = true :=
  modStr_wf hs

theorem retireUse_wf {s : State} {f : Cluster → Cluster} (hs : s.wf = true) (hf : ∀ c, c.plane.wf = true → (f c).plane.wf = true) :
    (retireUse s f).wf = true :=
  ite_wf hs (ite_wf (dropCissue_wf (modClu_wf hs hf)) (setCissue_wf hs))

theorem execCbd_lands {p : Prop} {x s} (hs : p → s.wf = true) : Lands p (execCbd x s) := by
  unfold execCbd
  split
  · exact holdWord_lands hs
  · extract_lets wD bank pos weights c0
    obtain ⟨t, ht, hw⟩ := convWord_lands (x := x) (lat := 6) (n := 16) (wS := 2) (wD := wD) (round := true) (els := weights c0)
      (f := fun s l mode j e => cbdElem x mode (scaleOf (regRow s x.bN) 16 64 l j x.bs) ((e : Int) - 31)) hs
    rw [ht]
    dsimp only
    split
    · exact lands_next hw
    · exact lands_next fun hp => retireUse_wf (hw hp) fun _ hc => hc

theorem execPack_lands {p : Prop} {x s} (hs : p → s.wf = true) : Lands p (execPack x s) := by
  unfold execPack
  exact freeWordAct_lands (fun _ _ hu => putDest_wf hu) hs

theorem execUnpk_lands {p : Prop} {x s} (hs : p → s.wf = true) : Lands p (execUnpk x s) := by
  unfold execUnpk
  exact freeWordAct_lands (fun _ _ hu => putDest_wf hu) hs

theorem putPred_wf {s k lat mask new} (hs : s.wf = true) : (putPred s k lat mask new).wf = true := by
  unfold putPred
  split
  · exact hs
  · dsimp only
    exact noteFix_wf (modLaneGrp_wf hs)

theorem execIcmp_lands {p : Prop} {x s} (hs : p → s.wf = true) : Lands p (execIcmp x s) := by
  unfold execIcmp
  dsimp only
  exact freeWordAct_lands (fun _ _ hu => putPred_wf hu) hs

theorem execFcmp_lands {p : Prop} {x s} (hs : p → s.wf = true) : Lands p (execFcmp x s) := by
  unfold execFcmp
  dsimp only
  exact pricedWord_lands (fun _ _ hu => aelLane_wf (putPred_wf hu)) hs

theorem execPlop_lands {p : Prop} {x s} (hs : p → s.wf = true) : Lands p (execPlop x s) := by
  unfold execPlop
  exact freeWordAct_lands (fun _ _ hu => putPred_wf hu) hs

theorem execPmov_lands {p : Prop} {x s} (hs : p → s.wf = true) : Lands p (execPmov x s) := by
  unfold execPmov
  exact freeWordAct_lands (fun _ _ hu => ite_wf (foldl_wf hu fun u1 _ hu1 => putPred_wf hu1) (putDest_wf hu)) hs

theorem execSel_lands {p : Prop} {x s} (hs : p → s.wf = true) : Lands p (execSel x s) := by
  unfold execSel
  dsimp only
  exact freeWordAct_lands (fun _ _ hu => putDest_wf hu) hs

theorem endBarWaits_wf {s fid k b} (hs : s.wf = true) : (endBarWaits s fid k b).wf = true := by
  unfold endBarWaits
  dsimp only
  exact hs

theorem setBar_wf {s fid k b} (hs : s.wf = true) : (setBar s fid k b).wf = true :=
  modFlk_wf hs fun _ hx => hx

theorem barEvent_wf {s fid k} (hs : s.wf = true) : (barEvent s fid k).wf = true := by
  unfold barEvent
  dsimp only
  split
  · exact progress_wf (endBarWaits_wf (setBar_wf hs))
  · exact hs

theorem exitEvent_wf {s fid m slot} (hs : s.wf = true) : (exitEvent s fid m slot).wf = true :=
  foldl_wf hs fun u _ hu => ite_wf (barEvent_wf hu) hu

theorem execLexit_lands {p : Prop} {x s} (hs : p → s.wf = true) : Lands p (execLexit x s) := by
  unfold execLexit
  exact freeWordAct_lands (fun _ _ hu => ite_wf (modLaneGrp_wf hu) (exitEvent_wf (modLaneGrp_wf hu))) hs

theorem execNop_lands {p : Prop} {x s} (hs : p → s.wf = true) : Lands p (execNop x s) := by
  unfold execNop
  exact freeWordAct_lands (fun _ _ hu => hu) hs

theorem specialWord_lands {p : Prop} {x op lat a4} (ha4 : p → a4.wf = true) : Lands p (specialWord x op lat a4) := by
  unfold specialWord
  exact floatWord_lands ha4

theorem execRcp_lands {p : Prop} {x s} (hs : p → s.wf = true) : Lands p (execRcp x s) := by
  unfold execRcp
  exact specialWord_lands hs

theorem execRsq_lands {p : Prop} {x s} (hs : p → s.wf = true) : Lands p (execRsq x s) := by
  unfold execRsq
  exact specialWord_lands hs

theorem execSqrt_lands {p : Prop} {x s} (hs : p → s.wf = true) : Lands p (execSqrt x s) := by
  unfold execSqrt
  exact specialWord_lands hs

theorem execExp2_lands {p : Prop} {x s} (hs : p → s.wf = true) : Lands p (execExp2 x s) := by
  unfold execExp2
  exact specialWord_lands hs

theorem execLog2_lands {p : Prop} {x s} (hs : p → s.wf = true) : Lands p (execLog2 x s) := by
  unfold execLog2
  exact specialWord_lands hs

theorem execSin_lands {p : Prop} {x s} (hs : p → s.wf = true) : Lands p (execSin x s) := by
  unfold execSin
  exact specialWord_lands hs

theorem execCos_lands {p : Prop} {x s} (hs : p → s.wf = true) : Lands p (execCos x s) := by
  unfold execCos
  exact specialWord_lands hs

theorem execCte_lands {p : Prop} {x s} (hs : p → s.wf = true) : Lands p (execCte x s) := by
  unfold execCte
  extract_lets t code c
  split
  · exact holdWord_lands hs
  · obtain ⟨u, hu, hw⟩ := floatWord_lands (x := x) (lat := 10) (n := 1)
      (res := fun s => (srcA s x 1).map (cteLane (c.curves.get (t, code % 2) CurveBank.zero))) hs
    rw [hu]
    dsimp only
    split
    · exact lands_next hw
    · exact lands_next fun hp => retireUse_wf (hw hp) fun _ hc => hc

theorem markActed_wf {s} (hs : s.wf = true) : (markActed s).wf = true := by
  unfold markActed
  dsimp only
  exact foldl_wf (modClu_wf hs fun _ hc => hc) fun u _ hu => modGrp_wf hu

theorem onceWord_lands {p : Prop} {x : LaneWord} {act1 : State → CIssue → State × Bool} {s : State}
    (ha : ∀ u c, u.wf = true → (act1 u c).1.wf = true) (hs : p → s.wf = true) : Lands p (onceWord x act1 s) := by
  unfold onceWord
  extract_lets act c
  split
  · exact lands_next fun hp => issued_wf (setCissue_wf (hs hp))
  · split
    · rename_i u heq
      have hu (hp : p) : u.wf = true := fst_wf heq (ha s c (hs hp))
      have hv (hp : p) : (if c.active = true then markActed u else u).wf = true := ite_wf (markActed_wf (hu hp)) (hu hp)
      exact lands_next fun hp => issued_wf (ite_wf (hv hp) (dropCissue_wf (hv hp)))
    · rename_i u heq
      exact holdWord_lands fun hp => fst_wf heq (ha s c (hs hp))

theorem payOnce_wf {s} (hs : s.wf = true) : (payOnce s).1.wf = true :=
  pay_wf hs

theorem execCtld_lands {p : Prop} {x s} (hs : p → s.wf = true) : Lands p (execCtld x s) := by
  unfold execCtld
  dsimp only
  refine onceWord_lands (fun _ _ hu => ?_) hs
  split
  · exact modClu_wf hu fun _ hc => hc
  · split
    · exact hu
    · split
      · exact fst_wf ‹_› (payOnce_wf hu)
      · exact modClu_wf (fst_wf ‹_› (payOnce_wf hu)) fun _ hc => hc

theorem moveWord_lands {p : Prop} {x src a3} (ha3 : p → a3.wf = true) : Lands p (moveWord x src a3) := by
  unfold moveWord
  exact freeWordAct_lands (fun _ _ hu => putDest_wf hu) ha3

theorem execShfl_lands {p : Prop} {x s} (hs : p → s.wf = true) : Lands p (execShfl x s) := by
  unfold execShfl
  dsimp only
  exact moveWord_lands hs

theorem execVote_lands {p : Prop} {x s} (hs : p → s.wf = true) : Lands p (execVote x s) := by
  unfold execVote
  exact freeWordAct_lands (fun _ _ hu => ite_wf hu (modThr_wf hu)) hs

theorem execBallot_lands {p : Prop} {x s} (hs : p → s.wf = true) : Lands p (execBallot x s) := by
  unfold execBallot
  dsimp only
  exact freeWordAct_lands (fun _ _ hu => putDest_wf hu) hs

theorem reduceBody_wf {x scan lat s act} (hs : s.wf = true) : (reduceBody x scan lat s act).wf = true := by
  unfold reduceBody
  dsimp only
  exact aelLane_wf (putDest_wf hs)

theorem reduceWord_lands {p : Prop} {x scan a3} (ha3 : p → a3.wf = true) : Lands p (reduceWord x scan a3) := by
  unfold reduceWord
  split
  · exact freeWordAct_lands (fun _ _ hu => reduceBody_wf hu) ha3
  · exact pricedWord_lands (fun _ _ hu => reduceBody_wf hu) ha3

theorem execReduce_lands {p : Prop} {x s} (hs : p → s.wf = true) : Lands p (execReduce x s) := by
  unfold execReduce
  exact reduceWord_lands hs

theorem execScan_lands {p : Prop} {x s} (hs : p → s.wf = true) : Lands p (execScan x s) := by
  unfold execScan
  exact reduceWord_lands hs

theorem execBcast_lands {p : Prop} {x s} (hs : p → s.wf = true) : Lands p (execBcast x s) := by
  unfold execBcast
  dsimp only
  exact moveWord_lands hs

theorem moveLane_wf {old fid m s mv} (hold : old.wf = true) (hs : s.wf = true) : (moveLane old fid m s mv).wf = true := by
  unfold moveLane
  dsimp only
  exact modGrp_wf hs

theorem moveLanes_wf {s fid m mv} (hs : s.wf = true) : (moveLanes s fid m mv).wf = true :=
  modFlk_wf (foldl_wf hs fun u _ hu => moveLane_wf hs hu) fun _ hx => hx

theorem raiseOnce_wf {s cause} (hs : s.wf = true) : (raiseOnce s cause).wf = true := by
  unfold raiseOnce
  dsimp only
  split
  · exact hs
  · exact raiseTrap_wf (modStr_wf hs)

theorem masksAfter_wf {s fid m slots} (hs : s.wf = true) : (masksAfter s fid m slots).wf = true :=
  foldl_wf hs fun u _ hu => ite_wf hu (foldl_wf hu fun u1 _ hu1 => foldl_wf hu1 fun u2 _ hu2 => applyMasks_wf hu2)

theorem execRegroup_lands {p : Prop} {x s} (hs : p → s.wf = true) : Lands p (execRegroup x s) := by
  unfold execRegroup
  dsimp only
  split
  · exact lands_next fun hp => issued_wf (hs hp)
  · split
    · exact holdWord_lands hs
    · split
      · exact lands_next fun hp => issued_wf (setCissue_wf (hs hp))
      · refine lands_next fun hp => issued_wf (masksAfter_wf (dropCissue_wf ?_))
        split
        · exact moveLanes_wf (hs hp)
        · exact raiseOnce_wf (hs hp)

theorem execUni_lands {p : Prop} {x s} (hs : p → s.wf = true) : Lands p (execUni x s) := by
  unfold execUni
  exact freeWordAct_lands (fun _ _ hu => ite_wf hu (modThr_wf hu)) hs

theorem makeAcqs_wf {s n ready} (hs : s.wf = true) : (makeAcqs s n ready).wf = true := by
  unfold makeAcqs
  dsimp only
  split
  · exact hs
  · exact modStr_wf (foldl_wf hs fun u _ hu => ite_wf (homeFrame_wf (l1Invalidate_frame ..) hu) hu)

theorem settleAcqs_wf {s} (hs : s.wf = true) : (settleAcqs s).wf = true := by
  unfold settleAcqs
  dsimp only
  exact makeAcqs_wf (makeAcqs_wf hs)

theorem localPlace_wf {s m off acc} (hs : s.wf = true) : (localPlace s m off acc).1.wf = true := by
  unfold localPlace
  dsimp only
  split
  · exact hs
  · split
    · exact hs
    · split
      · exact fst_wf ‹_› (homeFrame_wf (translate_frame ..) hs)
      · exact fst_wf ‹_› (homeFrame_wf (translate_frame ..) hs)

theorem lanePieces_wf {s x acc off n al} (hs : s.wf = true) : (lanePieces s x acc off n al).1.wf = true := by
  unfold lanePieces
  dsimp only
  split
  · split
    · exact hs
    · split
      · split
        · exact hs
        · refine foldlPair_wf hs fun x _ hx => ?_
          split
          · exact hx
          · split
            · exact fst_wf ‹_› (localPlace_wf hx)
            · exact fst_wf ‹_› (localPlace_wf hx)
      · split
        · exact hs
        · refine foldlPair_wf hs fun x _ hx => ?_
          split
          · exact hx
          · split
            · exact fst_wf ‹_› (localPlace_wf hx)
            · exact fst_wf ‹_› (localPlace_wf hx)
  · split
    · exact hs
    · refine foldlPair_wf hs fun x _ hx => ?_
      split
      · exact hx
      · split
        · exact fst_wf ‹_› (homeFrame_wf (translate_frame ..) hx)
        · exact fst_wf ‹_› (homeFrame_wf (translate_frame ..) hx)

theorem pushOp_wf {s o} (hs : s.wf = true) : (pushOp s o).wf = true :=
  hs

theorem pushPieces_wf {s x r recv lane ps} (hs : s.wf = true) : (pushPieces s x r recv lane ps).wf = true :=
  foldl_wf hs fun u _ hu => pushOp_wf (homeFrame_wf (GenAccess.askFill_frame ..) hu)

theorem noteAcq_wf {s sc} (hs : s.wf = true) : (noteAcq s sc).wf = true := by
  unfold noteAcq
  dsimp only
  exact modStr_wf hs

theorem noteOut_wf {s reg span lanes} (hs : s.wf = true) : (noteOut s reg span lanes).wf = true := by
  unfold noteOut
  split
  · exact hs
  · dsimp only
    exact modLaneGrp_wf hs

theorem parkLanes_wf {s x pos done faults} (hs : s.wf = true) : (parkLanes s x pos done faults).wf = true := by
  unfold parkLanes
  split
  · exact hs
  · dsimp only
    split
    · exact modLaneRun_wf (modLaneGrp_wf (homeFrame_wf (faultRecord_frame ..) hs))
    · exact modStr_wf (modLaneGrp_wf (homeFrame_wf (faultRecord_frame ..) hs))

theorem memWord_lands {p : Prop} {x req s} (hs : p → s.wf = true) : Lands p (memWord x req s) := by
  unfold memWord
  dsimp only
  split
  · split
    · exact holdWord_lands (fun hp => settleAcqs_wf (hs hp))
    · split
      · exact holdWord_lands (fun hp => fst_wf ‹_› (payLane_wf (settleAcqs_wf (hs hp))))
      · refine lands_next fun hp => issued_wf (parkLanes_wf (ite_wf (ite_wf (noteAcq_wf (foldl_wf (foldlPair_wf (fst_wf ‹_› (payLane_wf
            (settleAcqs_wf (hs hp)))) fun x _ hx => ?_) fun u _ hu => pushPieces_wf hu)) (foldl_wf (foldlPair_wf (fst_wf ‹_› (payLane_wf
            (settleAcqs_wf (hs hp)))) fun x _ hx => ?_) fun u _ hu => pushPieces_wf hu)) (noteOut_wf (ite_wf (noteAcq_wf (foldl_wf
            (foldlPair_wf (fst_wf ‹_› (payLane_wf (settleAcqs_wf (hs hp)))) fun x _ hx => ?_) fun u _ hu => pushPieces_wf hu)) (foldl_wf
            (foldlPair_wf (fst_wf ‹_› (payLane_wf (settleAcqs_wf (hs hp)))) fun x _ hx => ?_) fun u _ hu => pushPieces_wf hu)))))
        · split
          · exact fst_wf ‹_› (lanePieces_wf hx)
          · exact fst_wf ‹_› (lanePieces_wf hx)
        · split
          · exact fst_wf ‹_› (lanePieces_wf hx)
          · exact fst_wf ‹_› (lanePieces_wf hx)
        · split
          · exact fst_wf ‹_› (lanePieces_wf hx)
          · exact fst_wf ‹_› (lanePieces_wf hx)
        · split
          · exact fst_wf ‹_› (lanePieces_wf hx)
          · exact fst_wf ‹_› (lanePieces_wf hx)
  · split
    · exact holdWord_lands (fun hp => settleAcqs_wf (hs hp))
    · split
      · exact holdWord_lands (fun hp => fst_wf ‹_› (payLane_wf (settleAcqs_wf (hs hp))))
      · refine lands_next fun hp => issued_wf (parkLanes_wf (ite_wf (ite_wf (noteAcq_wf (foldl_wf (foldlPair_wf (fst_wf ‹_› (payLane_wf
            (settleAcqs_wf (hs hp)))) fun x _ hx => ?_) fun u _ hu => pushPieces_wf hu)) (foldl_wf (foldlPair_wf (fst_wf ‹_› (payLane_wf
            (settleAcqs_wf (hs hp)))) fun x _ hx => ?_) fun u _ hu => pushPieces_wf hu)) (noteOut_wf (ite_wf (noteAcq_wf (foldl_wf
            (foldlPair_wf (fst_wf ‹_› (payLane_wf (settleAcqs_wf (hs hp)))) fun x _ hx => ?_) fun u _ hu => pushPieces_wf hu)) (foldl_wf
            (foldlPair_wf (fst_wf ‹_› (payLane_wf (settleAcqs_wf (hs hp)))) fun x _ hx => ?_) fun u _ hu => pushPieces_wf hu)))))
        · split
          · exact fst_wf ‹_› (lanePieces_wf hx)
          · exact fst_wf ‹_› (lanePieces_wf hx)
        · split
          · exact fst_wf ‹_› (lanePieces_wf hx)
          · exact fst_wf ‹_› (lanePieces_wf hx)
        · split
          · exact fst_wf ‹_› (lanePieces_wf hx)
          · exact fst_wf ‹_› (lanePieces_wf hx)
        · split
          · exact fst_wf ‹_› (lanePieces_wf hx)
          · exact fst_wf ‹_› (lanePieces_wf hx)

theorem execLd_lands {p : Prop} {x s} (hs : p → s.wf = true) : Lands p (execLd x s) := by
  unfold execLd
  dsimp only
  exact memWord_lands hs

theorem execSt_lands {p : Prop} {x s} (hs : p → s.wf = true) : Lands p (execSt x s) := by
  unfold execSt
  dsimp only
  exact memWord_lands hs

theorem execLdt_lands {p : Prop} {x s} (hs : p → s.wf = true) : Lands p (execLdt x s) := by
  unfold execLdt
  dsimp only
  exact memWord_lands hs

theorem execLdb_lands {p : Prop} {x s} (hs : p → s.wf = true) : Lands p (execLdb x s) := by
  unfold execLdb
  dsimp only
  exact memWord_lands hs

theorem execAtom_lands {p : Prop} {x s} (hs : p → s.wf = true) : Lands p (execAtom x s) := by
  unfold execAtom
  dsimp only
  exact memWord_lands hs

theorem execRed_lands {p : Prop} {x s} (hs : p → s.wf = true) : Lands p (execRed x s) := by
  unfold execRed
  dsimp only
  exact memWord_lands hs

theorem addLanes_wf {s t h m slot lanes} (hs : s.wf = true) : (addLanes s t h m slot lanes).wf = true := by
  unfold addLanes
  dsimp only
  split
  · exact hs
  · split
    · split
      · exact hs
      · exact barEvent_wf (setBar_wf hs)
    · exact raiseTrap_wf (ite_wf hs (barEvent_wf (setBar_wf hs)))

theorem arriveOwed_wf {s} (hs : s.wf = true) : (arriveOwed s).wf = true := by
  unfold arriveOwed
  dsimp only
  split
  · refine foldl_wf hs fun u _ hu => ?_
    split
    · exact addLanes_wf hu
    · exact hu
  · refine modStr_wf (foldl_wf hs fun u _ hu => ?_)
    split
    · exact addLanes_wf hu
    · exact hu

theorem execLfence_lands {p : Prop} {x s} (hs : p → s.wf = true) : Lands p (execLfence x s) := by
  unfold execLfence
  refine onceWord_lands (fun u _ hu => ?_) hs
  dsimp only
  split
  · exact hu
  · exact arriveOwed_wf (ite_wf (homeFrame_wf (l1Invalidate_frame ..) hu) hu)

theorem stashWord_lands {p : Prop} {x : LaneWord} {go : State → State} {s : State}
    (hg : ∀ u, u.wf = true → (go u).wf = true) (hs : p → s.wf = true) : Lands p (stashWord x go s) := by
  refine onceWord_lands (fun u c hu => ?_) hs
  dsimp only
  split
  · exact settleAcqs_wf hu
  · split
    · exact settleAcqs_wf hu
    · split
      · exact fst_wf ‹_› (payOnce_wf (settleAcqs_wf hu))
      · exact hg _ (fst_wf ‹_› (payOnce_wf (settleAcqs_wf hu)))

theorem noteBack_wf {s scope g} (hs : s.wf = true) : (noteBack s scope g).wf = true := by
  unfold noteBack
  dsimp only
  exact modThr_wf (modStr_wf hs)

theorem emptyEntry_wf {s x e} (hs : s.wf = true) : (emptyEntry s x e).wf = true := by
  unfold emptyEntry
  refine foldl_wf hs fun u _ hu => ?_
  split
  · exact hu
  · split
    · exact noteBack_wf (fst_wf ‹_› (homeFrame_wf (evictSector_frame ..) hu))
    · exact fst_wf ‹_› (homeFrame_wf (evictSector_frame ..) hu)

theorem execStashMap_lands {p : Prop} {x s} (hs : p → s.wf = true) : Lands p (execStashMap x s) := by
  unfold execStashMap
  exact stashWord_lands (fun _ hu => ite_wf (raiseOnce_wf hu) (modClu_wf (foldl_wf hu fun u1 _ hu1 => emptyEntry_wf hu1) fun _ hc => hc)) hs

theorem stashRange_wf {s : State} {f : State → StashEnt → Nat → State} (hs : s.wf = true)
    (hf : ∀ u e k, u.wf = true → (f u e k).wf = true) : (stashRange s f).wf = true := by
  refine foldl_wf hs fun u e hu => foldl_wf hu fun v k hv => ?_
  split
  · exact hv
  · exact ite_wf (hf _ _ _ hv) hv

theorem flushSector_wf {s x e k} (hs : s.wf = true) : (flushSector s x e k).wf = true := by
  unfold flushSector
  split
  · split
    · exact noteBack_wf (homeFrame_wf (setSector_frame ..) (fst_wf ‹_› (homeFrame_wf (writeBack_frame ..) hs)))
  · exact hs

theorem execStashFlush_lands {p : Prop} {x s} (hs : p → s.wf = true) : Lands p (execStashFlush x s) := by
  unfold execStashFlush
  exact stashWord_lands (fun _ hu => stashRange_wf hu (fun _ _ _ hu1 => flushSector_wf hu1)) hs

theorem execStashDrop_lands {p : Prop} {x s} (hs : p → s.wf = true) : Lands p (execStashDrop x s) := by
  unfold execStashDrop
  refine stashWord_lands (fun _ hu => stashRange_wf hu (fun _ _ _ hu1 => ?_)) hs
  split
  · exact noteBack_wf (fst_wf ‹_› (homeFrame_wf (evictSector_frame ..) hu1))
  · exact fst_wf ‹_› (homeFrame_wf (evictSector_frame ..) hu1)

theorem refuseWord_wf {s} (hs : s.wf = true) : (refuseWord s).wf = true :=
  raiseOnce_wf hs

theorem setCopyQ_wf {s pid q x} (hs : s.wf = true) : (setCopyQ s pid q x).wf = true :=
  modClu_wf hs fun _ hc => hc

theorem copyWord_lands {p : Prop} {x op s} (hs : p → s.wf = true) : Lands p (copyWord x op s) := by
  unfold copyWord
  refine onceWord_lands (fun u _ hu => ?_) hs
  dsimp only
  split
  · exact refuseWord_wf hu
  · split
    · exact hu
    · exact foldl_wf (s := { u with nextId := u.nextId + 1 }) hu fun _ _ hv => setCopyQ_wf hv

theorem execCp_lands {p : Prop} {x s} (hs : p → s.wf = true) : Lands p (execCp x s) := by
  unfold execCp
  exact copyWord_lands hs

theorem execCp2d_lands {p : Prop} {x s} (hs : p → s.wf = true) : Lands p (execCp2d x s) := by
  unfold execCp2d
  exact copyWord_lands hs

theorem execCpt_lands {p : Prop} {x s} (hs : p → s.wf = true) : Lands p (execCpt x s) := by
  unfold execCpt
  exact copyWord_lands hs

theorem execCpg_lands {p : Prop} {x s} (hs : p → s.wf = true) : Lands p (execCpg x s) := by
  unfold execCpg
  exact copyWord_lands hs

theorem execCpset_lands {p : Prop} {x s} (hs : p → s.wf = true) : Lands p (execCpset x s) := by
  unfold execCpset
  exact copyWord_lands hs

theorem execQfence_lands {p : Prop} {x s} (hs : p → s.wf = true) : Lands p (execQfence x s) := by
  unfold execQfence
  exact copyWord_lands hs

theorem releaseCode_wf {s pid m e} (hs : s.wf = true) : (releaseCode s pid m e).wf = true := by
  unfold releaseCode
  split
  · exact modClu_wf hs fun _ hc => hc
  · exact hs

theorem matrixWord_lands {p : Prop} {x s} (hs : p → s.wf = true) : Lands p (matrixWord x s) := by
  unfold matrixWord
  refine onceWord_lands (fun u _ hu => ?_) hs
  dsimp only
  split
  · exact releaseCode_wf (refuseWord_wf hu)
  · split
    · exact hu
    · exact modClu_wf hu fun _ hc => hc

theorem execMm_lands {p : Prop} {x s} (hs : p → s.wf = true) : Lands p (execMm x s) := by
  unfold execMm
  exact matrixWord_lands hs

theorem execMmy_lands {p : Prop} {x s} (hs : p → s.wf = true) : Lands p (execMmy x s) := by
  unfold execMmy
  exact matrixWord_lands hs

theorem execMzero_lands {p : Prop} {x s} (hs : p → s.wf = true) : Lands p (execMzero x s) := by
  unfold execMzero
  exact matrixWord_lands hs

theorem execMcbt_lands {p : Prop} {x s} (hs : p → s.wf = true) : Lands p (execMcbt x s) := by
  unfold execMcbt
  refine onceWord_lands (fun u c hu => ?_) hs
  dsimp only
  split
  · exact refuseWord_wf (modClu_wf hu fun _ hc => hc)
  · split
    · exact hu
    · split
      · exact fst_wf ‹_› (payOnce_wf hu)
      · exact modClu_wf (homeFrame_wf (Completion.localReady_frame ..) (fst_wf ‹_› (payOnce_wf hu))) fun _ hc => hc

theorem modTa_wf {s pid f} (hs : s.wf = true) : (modTa s pid f).wf = true :=
  modClu_wf hs fun _ hc => hc

theorem taWord_lands {p : Prop} {x go capt s} (hs : p → s.wf = true) : Lands p (taWord x go capt s) := by
  unfold taWord
  dsimp only
  split
  · exact holdWord_lands hs
  · refine onceWord_lands (fun _ _ hu => ?_) (fun hp => ite_wf (noteOut_wf (ite_wf (hs hp) (setCissue_wf (hs hp)))) (ite_wf (hs hp)
        (setCissue_wf (hs hp))))
    split
    · exact hu
    · exact modTa_wf hu

theorem execTaWin_lands {p : Prop} {x s} (hs : p → s.wf = true) : Lands p (execTaWin x s) := by
  unfold execTaWin
  exact taWord_lands hs

theorem execTaDly_lands {p : Prop} {x s} (hs : p → s.wf = true) : Lands p (execTaDly x s) := by
  unfold execTaDly
  exact taWord_lands hs

theorem execTaMode_lands {p : Prop} {x s} (hs : p → s.wf = true) : Lands p (execTaMode x s) := by
  unfold execTaMode
  exact taWord_lands hs

theorem execTaGo_lands {p : Prop} {x s} (hs : p → s.wf = true) : Lands p (execTaGo x s) := by
  unfold execTaGo
  exact taWord_lands hs

theorem execTaCapt_lands {p : Prop} {x s} (hs : p → s.wf = true) : Lands p (execTaCapt x s) := by
  unfold execTaCapt
  exact taWord_lands hs

theorem execTaClr_lands {p : Prop} {x s} (hs : p → s.wf = true) : Lands p (execTaClr x s) := by
  unfold execTaClr
  exact taWord_lands hs

theorem raiseGen_wf {s} (hs : s.wf = true) : (raiseGen s).wf = true :=
  raiseTrap_wf hs

theorem execLwait_lands {p : Prop} {x s} (hs : p → s.wf = true) : Lands p (execLwait x s) := by
  unfold execLwait
  dsimp only
  split
  · exact lands_next fun hp => issued_wf (setCissue_wf (hs hp))
  · split
    · split
      · exact lands_next fun hp => issued_wf (setCissue_wf (homeFrame_wf (l1Invalidate_frame ..) (hs hp)))
      · exact holdWord_lands hs
    · split
      · exact lands_next fun hp => issued_wf (setCissue_wf (raiseGen_wf (hs hp)))
      · split
        · exact holdWord_lands hs
        · split
          · exact lands_next fun hp => issued_wf (setCissue_wf (homeFrame_wf (l1Invalidate_frame ..) (setCissue_wf (hs hp))))
          · exact holdWord_lands (fun hp => setCissue_wf (hs hp))

theorem addArrivals_wf {u : State} {s fid k n} (hs : s.wf = true) (hu : addArrivals s fid k n = some u) : u.wf = true := by
  grind [addArrivals, barEvent_wf, setBar_wf, wf_parts]

theorem execLarr_lands {p : Prop} {x s} (hs : p → s.wf = true) : Lands p (execLarr x s) := by
  unfold execLarr
  dsimp only
  split
  · exact freeWordAct_lands (fun _ _ hu => ite_wf (raiseGen_wf hu) (ite_wf (modStr_wf hu) (addLanes_wf hu))) hs
  · refine onceWord_lands (fun _ _ hu => ?_) hs
    split
    · exact raiseGen_wf hu
    · split
      · exact hu
      · split
        · exact addArrivals_wf hu ‹_›
        · exact raiseTrap_wf hu

theorem retiredWord_lands {p : Prop} {price x f a4} (ha4 : p → a4.wf = true) : Lands p (retiredWord price x f a4) := by
  unfold retiredWord
  exact pricedWord_lands (fun _ _ hu => putDest_wf hu) ha4

theorem execIdiv_lands {p : Prop} {x s} (hs : p → s.wf = true) : Lands p (execIdiv x s) := by
  unfold execIdiv
  exact retiredWord_lands hs

theorem execIrem_lands {p : Prop} {x s} (hs : p → s.wf = true) : Lands p (execIrem x s) := by
  unfold execIrem
  exact retiredWord_lands hs

theorem execFdiv_lands {p : Prop} {x s} (hs : p → s.wf = true) : Lands p (execFdiv x s) := by
  unfold execFdiv
  exact retiredWord_lands hs

theorem issueOp_lands {p : Prop} {op x s} (hs : p → s.wf = true) : Lands p (issueOp op x s) := by
  unfold issueOp
  split
  · exact execIadd_lands hs
  · exact execIsub_lands hs
  · exact execImul_lands hs
  · exact execImulh_lands hs
  · exact execImad_lands hs
  · exact execImin_lands hs
  · exact execImax_lands hs
  · exact execIabs_lands hs
  · exact execAndLane_lands hs
  · exact execOrLane_lands hs
  · exact execXorLane_lands hs
  · exact execNotLane_lands hs
  · exact execShlLane_lands hs
  · exact execShrLane_lands hs
  · exact execRotl_lands hs
  · exact execBfe_lands hs
  · exact execBfi_lands hs
  · exact execPopcLane_lands hs
  · exact execClzLane_lands hs
  · exact execBrev_lands hs
  · exact execMovLane_lands hs
  · exact execIadd3_lands hs
  · exact execIsad_lands hs
  · exact execImulw_lands hs
  · exact execImadw_lands hs
  · exact execIdp4_lands hs
  · exact execIdp2_lands hs
  · exact execFadd_lands hs
  · exact execFsub_lands hs
  · exact execFmul_lands hs
  · exact execFfma_lands hs
  · exact execFmin_lands hs
  · exact execFmax_lands hs
  · exact execFabs_lands hs
  · exact execFneg_lands hs
  · exact execFdp2_lands hs
  · exact execFdp4_lands hs
  · exact execFrnd_lands hs
  · exact execCvt_lands hs
  · exact execCvts_lands hs
  · exact execCbd_lands hs
  · exact execPack_lands hs
  · exact execUnpk_lands hs
  · exact execIcmp_lands hs
  · exact execFcmp_lands hs
  · exact execPlop_lands hs
  · exact execPmov_lands hs
  · exact execSel_lands hs
  · exact execLexit_lands hs
  · exact execNop_lands hs
  · exact execRcp_lands hs
  · exact execRsq_lands hs
  · exact execSqrt_lands hs
  · exact execExp2_lands hs
  · exact execLog2_lands hs
  · exact execSin_lands hs
  · exact execCos_lands hs
  · exact execCte_lands hs
  · exact execCtld_lands hs
  · exact execShfl_lands hs
  · exact execVote_lands hs
  · exact execBallot_lands hs
  · exact execReduce_lands hs
  · exact execScan_lands hs
  · exact execBcast_lands hs
  · exact execRegroup_lands hs
  · exact execUni_lands hs
  · exact execLd_lands hs
  · exact execSt_lands hs
  · exact execLdt_lands hs
  · exact execLdb_lands hs
  · exact execAtom_lands hs
  · exact execRed_lands hs
  · exact execLfence_lands hs
  · exact execStashMap_lands hs
  · exact execStashFlush_lands hs
  · exact execStashDrop_lands hs
  · exact execCp_lands hs
  · exact execCp2d_lands hs
  · exact execCpt_lands hs
  · exact execCpg_lands hs
  · exact execCpset_lands hs
  · exact execQfence_lands hs
  · exact execMm_lands hs
  · exact execMmy_lands hs
  · exact execMzero_lands hs
  · exact execMcbt_lands hs
  · exact execTaWin_lands hs
  · exact execTaDly_lands hs
  · exact execTaMode_lands hs
  · exact execTaGo_lands hs
  · exact execTaCapt_lands hs
  · exact execTaClr_lands hs
  · exact execLwait_lands hs
  · exact execLarr_lands hs
  · exact execIdiv_lands hs
  · exact execIrem_lands hs
  · exact execFdiv_lands hs
  · exact lands_next hs

theorem noteReady_wf {s : State} (hs : s.wf = true) : (noteReady s).wf = true :=
  mapClus_wf hs (fun _ _ => rfl)

theorem outState_wf {o : Out} {s : State} (ho : Lands True o) : (outState o s).wf = true := by
  obtain ⟨t, rfl, ht⟩ := ho
  exact ht trivial

theorem addLanded_wf {u : State} {s fid k n} (hs : s.wf = true) (hu : addLanded s fid k n = some u) : u.wf = true := by
  grind [addLanded, barEvent_wf, setBar_wf, wf_parts]

theorem countBytes_wf {s t h n} (hs : s.wf = true) : (countBytes s t h n).wf = true := by
  unfold countBytes
  split
  · exact addLanded_wf hs ‹_›
  · exact raiseTrap_wf hs

theorem writeOut_wf {s pid m e} (hs : s.wf = true) : (writeOut s pid m e).wf = true := by
  unfold writeOut
  dsimp only
  split
  · split
    · exact countBytes_wf (localWrite_wf hs)
    · exact localWrite_wf hs
  · split
    · exact countBytes_wf (aelRecord_wf (localWrite_wf hs))
    · exact aelRecord_wf (localWrite_wf hs)

theorem tellFellows_wf {s pid e} (hs : s.wf = true) : (tellFellows s pid e).wf = true := by
  unfold tellFellows
  split
  · exact hs
  · exact foldl_wf hs fun u _ hu => ite_wf hu (modClu_wf (foldl_wf hu fun u1 _ hu1 => homeFrame_wf (faultRecord_frame ..) hu1)
        fun _ hc => hc)

theorem sweepYoke_wf {s e} (hs : s.wf = true) : (sweepYoke s e).wf = true := by
  unfold sweepYoke
  split
  · exact hs
  · dsimp only
    split
    · exact hs
    · exact foldl_wf hs fun u _ hu => modClu_wf hu fun _ hc => hc

theorem execMatrixRetirement_lands {p : Prop} {pid tile err s} (hs : p → s.wf = true) : Lands p (execMatrixRetirement pid tile err s) := by
  unfold execMatrixRetirement
  split
  · exact lands_next hs
  · dsimp only
    exact lands_next fun hp => progress_wf (sweepYoke_wf (modClu_wf (ite_wf (tellFellows_wf (raiseTrap_wf (homeFrame_wf
        (faultRecord_frame ..) (releaseCode_wf (ite_wf (hs hp) (writeOut_wf (hs hp))))))) (ite_wf (homeFrame_wf (faultRecord_frame ..)
        (releaseCode_wf (ite_wf (hs hp) (writeOut_wf (hs hp))))) (releaseCode_wf (ite_wf (hs hp) (writeOut_wf (hs hp)))))) fun _ hc => hc))

theorem retireTa_wf {s pid} (hs : s.wf = true) : (retireTa s pid).wf = true := by
  unfold retireTa
  split
  · exact hs
  · exact progress_wf (modTa_wf hs)

theorem execTaWindowEnd_lands {p : Prop} {pid err s} (hs : p → s.wf = true) : Lands p (execTaWindowEnd pid err s) := by
  unfold execTaWindowEnd
  split
  · exact lands_next hs
  · split
    · exact lands_next hs
    · split
      · split
        · exact lands_next fun hp => retireTa_wf (raiseTrap_wf (fst_wf ‹_› (homeFrame_wf (faultRecord_frame ..) (hs hp))))
      · exact lands_next fun hp => retireTa_wf (modTa_wf (hs hp))

theorem modTaHead_wf {s pid f} (hs : s.wf = true) : (modTaHead s pid f).wf = true :=
  modTa_wf hs

theorem execTaEntryStart_lands {p : Prop} {pid s} (hs : p → s.wf = true) : Lands p (execTaEntryStart pid s) := by
  unfold execTaEntryStart
  split
  · exact lands_next hs
  · dsimp only
    split
    · split
      · exact lands_next hs
      · split
        · exact lands_next fun hp => retireTa_wf (modTa_wf (hs hp))
        · split
          · exact lands_next fun hp => modTaHead_wf (hs hp)
          · exact lands_next hs
    · split
      · exact lands_next hs
      · split
        · split
          · exact lands_next hs
          · exact lands_next fun hp => modTaHead_wf (progress_wf (hs hp))
        · split
          · exact lands_next fun hp => pay_wf (hs hp)
          · exact lands_next fun hp => modTaHead_wf (progress_wf (pay_wf (hs hp)))

theorem landReg_wf {s fid m slot r lane v} (hs : s.wf = true) : (landReg s fid m slot r lane v).wf = true := by
  unfold landReg
  split
  · exact modClu_wf hs fun _ hc => hc
  · exact modGrp_wf hs

theorem landRegs_wf {s fid m slot r lane a7} (hs : s.wf = true) : (landRegs s fid m slot r lane a7).wf = true := by
  unfold landRegs
  split
  · exact hs
  · exact landRegs_wf (landReg_wf hs)

theorem clearOut_wf {s o} (hs : s.wf = true) : (clearOut s o).wf = true := by
  unfold clearOut
  dsimp only
  split
  · exact hs
  · exact modGrp_wf hs

theorem landSpread_wf {s o} (hs : s.wf = true) : (landSpread s o).wf = true := by
  unfold landSpread
  dsimp only
  split
  · exact hs
  · refine clearOut_wf (foldl_wf hs fun u _ hu => ?_)
    split
    · exact landRegs_wf hu
    · exact landRegs_wf hu
    · exact landReg_wf hu
    · exact hu

theorem dropOp_wf {s id} (hs : s.wf = true) : (dropOp s id).wf = true :=
  hs

theorem modHor_wf {s o f} (hs : s.wf = true) : (modHor s o f).wf = true := by
  unfold modHor
  split
  · exact modThr_wf hs
  · dsimp only
    exact modThr_wf hs

theorem noteWrite_wf {s o g} (hs : s.wf = true) : (noteWrite s o g).wf = true :=
  modHor_wf hs

theorem settle_wf {s o} (hs : s.wf = true) : (settle s o).wf = true := by
  unfold settle
  split
  · exact dropOp_wf (noteWrite_wf hs)
  · split
    · exact hs
    · split
      · exact dropOp_wf (noteWrite_wf hs)
      · exact hs
  · exact hs

theorem stashRead_wf {s pid e off pa n} (hs : s.wf = true) : (stashRead s pid e off pa n).1.wf = true := by
  unfold stashRead
  split
  · exact homeFrame_wf (stashClaim_frame ..) hs
  · exact hs
  · exact hs

theorem readNow_wf {s o} (hs : s.wf = true) : (readNow s o).1.wf = true := by
  unfold readNow
  split
  · split
    · exact fst_wf ‹_› (stashRead_wf hs)
    · exact fst_wf ‹_› (stashRead_wf hs)
  · exact hs
  · dsimp only
    split
    · exact hs
    · split
      · split
        · split
          · exact hs
          · exact homeFrame_wf (l2Touch_frame ..) (homeFrame_wf (readAtHome_frame ..) hs)
        · exact homeFrame_wf (l2Touch_frame ..) (homeFrame_wf (readAtHome_frame ..) hs)
      · exact homeFrame_wf (GenAccess.l1Read_frame ..) hs

theorem acquireOf_wf {s o ct} (hs : s.wf = true) : (acquireOf s o ct).wf = true := by
  unfold acquireOf
  split
  · dsimp only
    exact modThr_wf hs
  · exact hs

theorem noteRead_wf {s o ct} (hs : s.wf = true) : (noteRead s o ct).wf = true :=
  modHor_wf hs

theorem landGen_wf {s o bs} (hs : s.wf = true) : (landGen s o bs).wf = true := by
  unfold landGen
  dsimp only
  split
  · exact modThr_wf hs
  · exact modThr_wf hs
  · exact modThr_wf hs

theorem keepRead_wf {s o deed bs} (hs : s.wf = true) : (keepRead s o deed bs).wf = true :=
  hs

theorem noteRaces_wf {s w pid sv pa n} (hs : s.wf = true) : (noteRaces s w pid sv pa n).wf = true := by
  unfold noteRaces
  dsimp only
  exact hs

theorem stashWrite_wf {s pid e off bs pa} (hs : s.wf = true) : (stashWrite s pid e off bs pa).1.wf = true := by
  unfold stashWrite
  dsimp only
  split
  · exact homeFrame_wf (setSector_frame ..) (localWrite_wf hs)
  · exact homeFrame_wf (setSector_frame ..) (localWrite_wf hs)
  · exact homeFrame_wf (setSector_frame ..) (localWrite_wf hs)
  · exact homeFrame_wf (setSector_frame ..) (localWrite_wf hs)

theorem writeNow_wf {s o bs} (hs : s.wf = true) : (writeNow s o bs).1.wf = true := by
  unfold writeNow
  dsimp only
  split
  · split
    · exact fst_wf ‹_› (stashWrite_wf (homeFrame_wf (reelTouch_frame ..) (noteRaces_wf hs)))
    · exact fst_wf ‹_› (stashWrite_wf (homeFrame_wf (reelTouch_frame ..) (noteRaces_wf hs)))
  · exact localWrite_wf hs
  · split
    · exact hs
    · exact homeFrame_wf (reelTouch_frame ..) (ite_wf (homeFrame_wf (writeAtHome_frame ..) (noteRaces_wf (homeFrame_wf
          (l2Touch_frame ..) hs))) (homeFrame_wf (l1Store_frame ..) (homeFrame_wf (writeAtHome_frame ..) (noteRaces_wf (homeFrame_wf
          (l2Touch_frame ..) hs)))))

theorem markMade_wf {s p} (hs : s.wf = true) : (markMade s p).wf = true := by
  unfold markMade
  dsimp only
  exact hs

theorem uoAlloc_wf {s pid line op w pri req} (hs : s.wf = true) : (uoAlloc s pid line op w pri req).wf = true :=
  modClu_wf (homeFrame_wf (l1Room_frame ..) hs) fun c hc => by rwa [l1Demote_plane, putL1_plane]

theorem uoGather_wf {s pid line op w pri pa v} (hs : s.wf = true) : (uoGather s pid line op w pri pa v).wf = true :=
  modClu_wf hs fun c hc => by
    dsimp only
    split
    · split
      · rwa [l1Demote_plane, putL1_plane]
      · exact hc
    · exact hc

theorem gatherNow_wf {s o op pa} (hs : s.wf = true) : (gatherNow s o op pa).1.wf = true := by
  unfold gatherNow
  dsimp only
  split
  · exact hs
  · rename_i u hu
    have hu : u.wf = true := by
      split at hu
      · split at hu
        · cases hu; exact hs
        · split at hu
          · cases hu
          · cases hu; exact uoAlloc_wf (homeFrame_wf (combine_frame ..) hs)
      · cases hu; exact uoAlloc_wf (homeFrame_wf (dropL1Line_frame ..) hs)
    have hm := foldl_wf (l := gatherMates u o (lineOf pa)) (f := fun s e => match e.deed, e.place with
      | .atomic op v _ _, .glob va a => uoGather (reelTouch s o.ctx va a o.n) o.pid (lineOf pa) op o.n o.pri a v
      | _, _ => s) hu fun v e hv => by
        split
        · exact uoGather_wf (homeFrame_wf (reelTouch_frame ..) hv)
        · exact hv
    split
    · exact foldl_wf hm fun v e hv => dropOp_wf (noteWrite_wf hv)
    · exact markMade_wf hm

theorem atomicNow_wf {s o op v cmp} (hs : s.wf = true) : (atomicNow s o op v cmp).1.wf = true := by
  unfold atomicNow
  dsimp only
  split
  · split
    · exact writeNow_wf (fst_wf ‹_› (stashRead_wf hs))
    · exact fst_wf ‹_› (stashRead_wf hs)
  · exact writeNow_wf hs
  · split
    · exact hs
    · exact writeNow_wf (homeFrame_wf (logAtomic_frame ..) (homeFrame_wf (readAtHome_frame ..) hs))

theorem perform_wf {s o} (hs : s.wf = true) : (perform s o).wf = true := by
  unfold perform
  split
  · split
    · exact hs
    · split
      · split
        · exact fst_wf ‹_› (readNow_wf hs)
        · dsimp only
          split
          · exact dropOp_wf (landGen_wf (acquireOf_wf (noteRead_wf (fst_wf ‹_› (readNow_wf hs)))))
          · exact keepRead_wf (acquireOf_wf (noteRead_wf (fst_wf ‹_› (readNow_wf hs))))
      · split
        · exact fst_wf ‹_› (writeNow_wf hs)
        · exact dropOp_wf (noteWrite_wf (fst_wf ‹_› (writeNow_wf hs)))
        · exact markMade_wf (fst_wf ‹_› (writeNow_wf hs))
      · split
        · exact gatherNow_wf hs
        · split
          · exact fst_wf ‹_› (atomicNow_wf hs)
          · exact fst_wf ‹_› (atomicNow_wf hs)
          · dsimp only
            split
            · split
              · split
                · exact markMade_wf (noteWrite_wf (fst_wf ‹_› (atomicNow_wf hs)))
                · exact dropOp_wf (noteWrite_wf (fst_wf ‹_› (atomicNow_wf hs)))
              · split
                · exact markMade_wf (fst_wf ‹_› (atomicNow_wf hs))
                · exact dropOp_wf (fst_wf ‹_› (atomicNow_wf hs))
            · split
              · refine keepRead_wf (acquireOf_wf (noteRead_wf ?_))
                split
                · exact noteWrite_wf (fst_wf ‹_› (atomicNow_wf hs))
                · exact fst_wf ‹_› (atomicNow_wf hs)
              · split
                · split
                  · exact markMade_wf (landGen_wf (acquireOf_wf (noteRead_wf (noteWrite_wf (fst_wf ‹_› (atomicNow_wf hs))))))
                  · exact dropOp_wf (landGen_wf (acquireOf_wf (noteRead_wf (noteWrite_wf (fst_wf ‹_› (atomicNow_wf hs))))))
                · split
                  · exact markMade_wf (landGen_wf (acquireOf_wf (noteRead_wf (fst_wf ‹_› (atomicNow_wf hs)))))
                  · exact dropOp_wf (landGen_wf (acquireOf_wf (noteRead_wf (fst_wf ‹_› (atomicNow_wf hs)))))
  · split
    · exact hs
    · split
      · split
        · exact fst_wf ‹_› (readNow_wf hs)
        · dsimp only
          split
          · exact dropOp_wf (landGen_wf (acquireOf_wf (noteRead_wf (fst_wf ‹_› (readNow_wf hs)))))
          · exact keepRead_wf (acquireOf_wf (noteRead_wf (fst_wf ‹_› (readNow_wf hs))))
      · split
        · exact fst_wf ‹_› (writeNow_wf hs)
        · exact dropOp_wf (noteWrite_wf (fst_wf ‹_› (writeNow_wf hs)))
        · exact markMade_wf (fst_wf ‹_› (writeNow_wf hs))
      · split
        · exact gatherNow_wf hs
        · split
          · exact fst_wf ‹_› (atomicNow_wf hs)
          · exact fst_wf ‹_› (atomicNow_wf hs)
          · dsimp only
            split
            · split
              · split
                · exact markMade_wf (noteWrite_wf (fst_wf ‹_› (atomicNow_wf hs)))
                · exact dropOp_wf (noteWrite_wf (fst_wf ‹_› (atomicNow_wf hs)))
              · split
                · exact markMade_wf (fst_wf ‹_› (atomicNow_wf hs))
                · exact dropOp_wf (fst_wf ‹_› (atomicNow_wf hs))
            · split
              · refine keepRead_wf (acquireOf_wf (noteRead_wf ?_))
                split
                · exact noteWrite_wf (fst_wf ‹_› (atomicNow_wf hs))
                · exact fst_wf ‹_› (atomicNow_wf hs)
              · split
                · split
                  · exact markMade_wf (landGen_wf (acquireOf_wf (noteRead_wf (noteWrite_wf (fst_wf ‹_› (atomicNow_wf hs))))))
                  · exact dropOp_wf (landGen_wf (acquireOf_wf (noteRead_wf (noteWrite_wf (fst_wf ‹_› (atomicNow_wf hs))))))
                · split
                  · exact markMade_wf (landGen_wf (acquireOf_wf (noteRead_wf (fst_wf ‹_› (atomicNow_wf hs)))))
                  · exact dropOp_wf (landGen_wf (acquireOf_wf (noteRead_wf (fst_wf ‹_› (atomicNow_wf hs)))))

theorem progressOp_wf {s o} (hs : s.wf = true) : (progressOp s o).wf = true := by
  unfold progressOp
  split
  · split
    · exact landSpread_wf hs
    · exact settle_wf hs
  · exact perform_wf hs

theorem landCapture_wf {s pid e} (hs : s.wf = true) : (landCapture s pid e).wf = true := by
  unfold landCapture
  dsimp only
  exact foldl_wf hs fun u _ hu => modGrp_wf (foldl_wf hu fun u1 _ hu1 => landReg_wf hu1)

theorem execVariableResultLand_lands {p : Prop} {id s} (hs : p → s.wf = true) : Lands p (execVariableResultLand id s) := by
  unfold execVariableResultLand
  split
  · split
    · exact lands_next fun hp => progressOp_wf (hs hp)
    · exact lands_next hs
  · split
    · exact lands_next fun hp => retireTa_wf (landCapture_wf (hs hp))
    · exact lands_next hs

theorem execClaimPost_lands {p : Prop} {pid s} (hs : p → s.wf = true) : Lands p (execClaimPost pid s) := by
  unfold execClaimPost
  split
  · exact lands_next hs
  · exact lands_next fun hp => modPurse_wf (hs hp)

theorem countStarved_wf {s die} (hs : s.wf = true) : (countStarved s die).wf = true :=
  foldl_wf hs fun u _ hu => foldl_wf hu fun u1 _ hu1 => modPurse_wf hu1

theorem stationTake_wf {s cycle claims pid left} (hs : s.wf = true) : (stationTake s cycle claims pid left).1.wf = true := by
  unfold stationTake
  dsimp only
  exact modPurse_wf hs

theorem execTokenFlitInject_lands {p : Prop} {die s} (hs : p → s.wf = true) : Lands p (execTokenFlitInject die s) := by
  unfold execTokenFlitInject
  dsimp only
  split
  · exact lands_next hs
  · have h1 (hp : p) : (countStarved s die).wf = true := countStarved_wf (hs hp)
    generalize countStarved s die = u at h1 ⊢
    exact lands_next fun hp => modDie_wf (foldlPair_wf (h1 hp) fun x q hx => foldlPair_wf hx fun y k hy => stationTake_wf hy)

theorem fetchInstr_wf {s} (hs : s.wf = true) : (fetchInstr s).1.wf = true := by
  unfold fetchInstr
  dsimp only
  split
  · exact fst_wf ‹_› (homeFrame_wf (Emission.fetchBytes_frame ..) hs)
  · split
    · exact fst_wf ‹_› (homeFrame_wf (Emission.fetchBytes_frame ..) hs)
    · split
      · split
        · exact fst_wf ‹_› (homeFrame_wf (Emission.fetchBytes_frame ..) hs)
        · split
          · exact fst_wf ‹_› (homeFrame_wf (Emission.fetchBytes_frame ..) (fst_wf ‹_› (homeFrame_wf
                (Emission.fetchBytes_frame ..) hs)))
          · exact fst_wf ‹_› (homeFrame_wf (Emission.fetchBytes_frame ..) (fst_wf ‹_› (homeFrame_wf
                (Emission.fetchBytes_frame ..) hs)))
      · split
        · exact fst_wf ‹_› (homeFrame_wf (Emission.fetchBytes_frame ..) hs)
        · exact fst_wf ‹_› (homeFrame_wf (Emission.fetchBytes_frame ..) hs)

theorem modMe_wf {s f} (hs : s.wf = true) : (modMe s f).wf = true :=
  modThr_wf hs

theorem acquire_wf {s t sc marks} (hs : s.wf = true) : (acquire s t sc marks).wf = true := by
  unfold acquire
  split
  · exact hs
  · dsimp only
    exact foldl_wf (homeFrame_wf (l1Invalidate_frame ..) hs) fun u _ hu => foldl_wf hu fun u1 _ hu1 => homeFrame_wf
        (l1Invalidate_frame ..) hu1

theorem gatomAcquired_wf {u : State} {s} (hs : s.wf = true) (hu : gatomAcquired s = some u) : u.wf = true := by
  grind [gatomAcquired, modMe_wf, acquire_wf, wf_parts]

theorem execSampleRecord_lands {p : Prop} {pid s} (hs : p → s.wf = true) : Lands p (execSampleRecord pid s) := by
  unfold execSampleRecord
  split
  · exact lands_next hs
  · dsimp only
    split
    · exact lands_next hs
    · split
      · exact lands_next fun hp => modCtx_wf (hs hp)
      · exact lands_next fun hp => homeFrame_wf (recStore_frame ..) (modClu_wf (modCtx_wf (modCtx_wf (hs hp))) fun _ hc => hc)

theorem execWatchdogReport_lands {p : Prop} {ctx s} (hs : p → s.wf = true) : Lands p (execWatchdogReport ctx s) := by
  unfold execWatchdogReport
  dsimp only
  split
  · exact lands_next hs
  · split
    · exact lands_next fun hp => ctxEvent_wf (modCtx_wf (progress_wf (hs hp)))
    · exact lands_next fun hp => ctxEvent_wf (progress_wf (hs hp))

theorem execFirmwareStartTimeout_lands {p : Prop} {s} (hs : p → s.wf = true) : Lands p (execFirmwareStartTimeout s) := by
  unfold execFirmwareStartTimeout
  split
  · split
    · exact lands_next fun hp => modPkg_wf (hs hp) fun _ hx => hx
    · exact lands_next hs
  · exact lands_next hs

theorem run_lands {p : Prop} {x : Exact} {s : State} (hs : p → s.wf = true) : Lands p (x.run s) := by
  unfold Exact.run
  split
  · exact execMatrixRetirement_lands hs
  · exact execTaWindowEnd_lands hs
  · exact execTaEntryStart_lands hs
  · exact execVariableResultLand_lands hs
  · exact execClaimPost_lands hs
  · exact execTokenFlitInject_lands hs
  · exact execSampleRecord_lands hs
  · exact execWatchdogReport_lands hs
  · exact execFirmwareStartTimeout_lands hs

theorem safeAt_wf {s t} (hs : s.wf = true) : (safeAt s t).1.wf = true := by
  have hf : (fetchInstr { s with cur := t }).1.wf = true := fetchInstr_wf hs
  unfold safeAt
  dsimp only
  split
  · exact hs
  · generalize fetchInstr { s with cur := t } = r at hf ⊢
    obtain ⟨u, x⟩ := r
    cases x with
    | ok i => exact hf
    | error c => exact hf

theorem hostReturn_wf {s t} (hs : s.wf = true) : (hostReturn s t).wf = true := by
  unfold hostReturn
  split
  · split
    · exact hs
    · exact modThr_wf hs
  · exact hs

theorem stopDue_wf {s t} (hs : s.wf = true) : (stopDue s t).1.wf = true := by
  unfold stopDue
  dsimp only
  split
  · exact hs
  · split
    · exact hs
    · split
      · exact hs
      · split
        · exact fst_wf ‹_› (safeAt_wf hs)
        · exact fst_wf ‹_› (safeAt_wf hs)

theorem watchSync_wf {s ctx} (hs : s.wf = true) : (watchSync s ctx).wf = true := by
  unfold watchSync
  dsimp only
  exact modCtx_wf hs

theorem takeStop_wf {s t d} (hs : s.wf = true) : (takeStop s t d).wf = true := by
  unfold takeStop
  split
  · exact hs
  · exact watchSync_wf (modThr_wf hs)

theorem acquirePhase_wf {s t h} {u : State} (hs : s.wf = true) (hu : acquirePhase s t h = some u) : u.wf = true := by
  unfold acquirePhase at hu
  split at hu
  · cases hu
  · cases hu
    exact foldl_wf hs fun _ _ hv => homeFrame_wf (l1Invalidate_frame ..) hv

theorem takeTrap_wf {s t cause tval resume} (hs : s.wf = true) : (takeTrap s t cause tval resume).wf = true := by
  unfold takeTrap
  dsimp only
  split
  · exact haltThread_wf hs
  · exact modThr_wf hs

theorem takeHeld_wf {s t} (hs : s.wf = true) : (takeHeld s t).wf = true := by
  grind [takeHeld, modThr_wf, acquirePhase_wf, takeTrap_wf, wf_parts]

theorem recordLost_wf {s w} (hs : s.wf = true) : (recordLost s w).wf = true := by
  unfold recordLost
  dsimp only
  exact ctxEvent_wf (homeFrame_wf (faultRecord_frame ..) hs)

theorem endTurn_wf {base u} (hbase : base.wf = true) (hu : u.wf = true) : (endTurn base u).wf = true := by
  unfold endTurn
  dsimp only
  split
  · exact hbase
  · exact foldl_wf hu fun u _ hu => recordLost_wf hu

theorem advance_wf {s n} (hs : s.wf = true) : (advance s n).wf = true :=
  modMe_wf hs

theorem wr_wf {s r v} (hs : s.wf = true) : (wr s r v).wf = true :=
  modMe_wf hs

theorem put_lands {p : Prop} {s n d v} (hs : p → s.wf = true) : Lands p (put s n d v) := by
  unfold put
  exact lands_next fun hp => advance_wf (wr_wf (hs hp))

theorem alu_lands {p : Prop} {d a2 b f s} (hs : p → s.wf = true) : Lands p (alu d a2 b f s) := by
  unfold alu
  exact put_lands hs

theorem execAdd_lands {p : Prop} {_sb d a3 b s} (hs : p → s.wf = true) : Lands p (execAdd _sb d a3 b s) := by
  unfold execAdd
  exact alu_lands hs

theorem execSub_lands {p : Prop} {_sb d a3 b s} (hs : p → s.wf = true) : Lands p (execSub _sb d a3 b s) := by
  unfold execSub
  exact alu_lands hs

theorem execMul_lands {p : Prop} {_sb d a3 b s} (hs : p → s.wf = true) : Lands p (execMul _sb d a3 b s) := by
  unfold execMul
  exact alu_lands hs

theorem execMulh_lands {p : Prop} {_sb d a3 b s} (hs : p → s.wf = true) : Lands p (execMulh _sb d a3 b s) := by
  unfold execMulh
  exact alu_lands hs

theorem execMulhu_lands {p : Prop} {_sb d a3 b s} (hs : p → s.wf = true) : Lands p (execMulhu _sb d a3 b s) := by
  unfold execMulhu
  exact alu_lands hs

theorem execDiv_lands {p : Prop} {_sb d a3 b s} (hs : p → s.wf = true) : Lands p (execDiv _sb d a3 b s) := by
  unfold execDiv
  exact alu_lands hs

theorem execDivu_lands {p : Prop} {_sb d a3 b s} (hs : p → s.wf = true) : Lands p (execDivu _sb d a3 b s) := by
  unfold execDivu
  exact alu_lands hs

theorem execRem_lands {p : Prop} {_sb d a3 b s} (hs : p → s.wf = true) : Lands p (execRem _sb d a3 b s) := by
  unfold execRem
  exact alu_lands hs

theorem execAndR_lands {p : Prop} {_sb d a3 b s} (hs : p → s.wf = true) : Lands p (execAndR _sb d a3 b s) := by
  unfold execAndR
  exact alu_lands hs

theorem execOrR_lands {p : Prop} {_sb d a3 b s} (hs : p → s.wf = true) : Lands p (execOrR _sb d a3 b s) := by
  unfold execOrR
  exact alu_lands hs

theorem execXorR_lands {p : Prop} {_sb d a3 b s} (hs : p → s.wf = true) : Lands p (execXorR _sb d a3 b s) := by
  unfold execXorR
  exact alu_lands hs

theorem execShlR_lands {p : Prop} {_sb d a3 b s} (hs : p → s.wf = true) : Lands p (execShlR _sb d a3 b s) := by
  unfold execShlR
  exact alu_lands hs

theorem execShrR_lands {p : Prop} {_sb d a3 b s} (hs : p → s.wf = true) : Lands p (execShrR _sb d a3 b s) := by
  unfold execShrR
  exact alu_lands hs

theorem execSarR_lands {p : Prop} {_sb d a3 b s} (hs : p → s.wf = true) : Lands p (execSarR _sb d a3 b s) := by
  unfold execSarR
  exact alu_lands hs

theorem execMinR_lands {p : Prop} {_sb d a3 b s} (hs : p → s.wf = true) : Lands p (execMinR _sb d a3 b s) := by
  unfold execMinR
  exact alu_lands hs

theorem execMaxR_lands {p : Prop} {_sb d a3 b s} (hs : p → s.wf = true) : Lands p (execMaxR _sb d a3 b s) := by
  unfold execMaxR
  exact alu_lands hs

theorem execSlt_lands {p : Prop} {_sb d a3 b s} (hs : p → s.wf = true) : Lands p (execSlt _sb d a3 b s) := by
  unfold execSlt
  exact alu_lands hs

theorem execSltu_lands {p : Prop} {_sb d a3 b s} (hs : p → s.wf = true) : Lands p (execSltu _sb d a3 b s) := by
  unfold execSltu
  exact alu_lands hs

theorem execSeq_lands {p : Prop} {_sb d a3 b s} (hs : p → s.wf = true) : Lands p (execSeq _sb d a3 b s) := by
  unfold execSeq
  exact alu_lands hs

theorem execCsel_lands {p : Prop} {_sb d a3 b s} (hs : p → s.wf = true) : Lands p (execCsel _sb d a3 b s) := by
  unfold execCsel
  split
  · exact lands_next fun hp => advance_wf (hs hp)
  · exact put_lands hs

theorem execPopc_lands {p : Prop} {_sb d a3 s} (hs : p → s.wf = true) : Lands p (execPopc _sb d a3 s) := by
  unfold execPopc
  exact put_lands hs

theorem execClz_lands {p : Prop} {_sb d a3 s} (hs : p → s.wf = true) : Lands p (execClz _sb d a3 s) := by
  unfold execClz
  exact put_lands hs

theorem trap_lands {p : Prop} {s cause tval} (hs : p → s.wf = true) : Lands p (trap s cause tval) := by
  unfold trap
  exact lands_next fun hp => takeTrap_wf (hs hp)

theorem dropCapture_wf {s} (hs : s.wf = true) : (dropCapture s).wf = true := by
  unfold dropCapture
  split
  · exact hs
  · exact modMe_wf (modCtx_wf hs)

theorem execGexit_lands {p : Prop} {sb s} (hs : p → s.wf = true) : Lands p (execGexit sb s) := by
  unfold execGexit
  dsimp only
  split
  · exact trap_lands hs
  · split
    · exact lands_next fun hp => modMe_wf (dropCapture_wf (hs hp))
    · exact lands_next fun hp => haltThread_wf (modMe_wf (dropCapture_wf (hs hp)))

theorem aelScalar_wf {s e} (hs : s.wf = true) : (aelScalar s e).wf = true :=
  aelRecord_wf hs

theorem putF_lands {p : Prop} {s d r} (hs : p → s.wf = true) : Lands p (putF s d r) := by
  unfold putF
  exact put_lands (fun hp => aelScalar_wf (hs hp))

theorem execSfadd_lands {p : Prop} {_sb d a3 b rnd s} (hs : p → s.wf = true) : Lands p (execSfadd _sb d a3 b rnd s) := by
  unfold execSfadd
  exact putF_lands hs

theorem execSfsub_lands {p : Prop} {_sb d a3 b rnd s} (hs : p → s.wf = true) : Lands p (execSfsub _sb d a3 b rnd s) := by
  unfold execSfsub
  exact putF_lands hs

theorem execSfmul_lands {p : Prop} {_sb d a3 b rnd s} (hs : p → s.wf = true) : Lands p (execSfmul _sb d a3 b rnd s) := by
  unfold execSfmul
  exact putF_lands hs

theorem execSfmac_lands {p : Prop} {_sb d a3 b rnd s} (hs : p → s.wf = true) : Lands p (execSfmac _sb d a3 b rnd s) := by
  unfold execSfmac
  dsimp only
  exact putF_lands hs

theorem execSfmin_lands {p : Prop} {_sb d a3 b s} (hs : p → s.wf = true) : Lands p (execSfmin _sb d a3 b s) := by
  unfold execSfmin
  exact putF_lands hs

theorem execSfmax_lands {p : Prop} {_sb d a3 b s} (hs : p → s.wf = true) : Lands p (execSfmax _sb d a3 b s) := by
  unfold execSfmax
  exact putF_lands hs

theorem execSfcmp_lands {p : Prop} {_sb d a3 b cond s} (hs : p → s.wf = true) : Lands p (execSfcmp _sb d a3 b cond s) := by
  unfold execSfcmp
  dsimp only
  exact putF_lands hs

theorem execSfcvt_lands {p : Prop} {_sb d a3 kind rnd s} (hs : p → s.wf = true) : Lands p (execSfcvt _sb d a3 kind rnd s) := by
  unfold execSfcvt
  split
  · dsimp only
    exact putF_lands hs

theorem setPc_wf {s a2} (hs : s.wf = true) : (setPc s a2).wf = true :=
  modMe_wf hs

theorem execJr_lands {p : Prop} {_sb a2 s} (hs : p → s.wf = true) : Lands p (execJr _sb a2 s) := by
  unfold execJr
  split
  · exact trap_lands hs
  · exact lands_next fun hp => setPc_wf (hs hp)

theorem execCallr_lands {p : Prop} {_sb a2 s} (hs : p → s.wf = true) : Lands p (execCallr _sb a2 s) := by
  unfold execCallr
  split
  · exact trap_lands hs
  · exact lands_next fun hp => setPc_wf (wr_wf (hs hp))

theorem trapReturn_wf {s} (hs : s.wf = true) : (trapReturn s).wf = true :=
  modMe_wf hs

theorem execSret_lands {p : Prop} {sb s} (hs : p → s.wf = true) : Lands p (execSret sb s) := by
  unfold execSret
  split
  · exact lands_next fun hp => trapReturn_wf (hs hp)
  · exact trap_lands hs

theorem execTrap_lands {p : Prop} {_sb n s} (hs : p → s.wf = true) : Lands p (execTrap _sb n s) := by
  unfold execTrap
  exact lands_next fun hp => takeTrap_wf (hs hp)

theorem endWait_wf {s} (hs : s.wf = true) : (endWait s).wf = true :=
  modMe_wf hs

theorem stall_lands {p : Prop} {s w} (hs : p → s.wf = true) : Lands p (stall s w) := by
  unfold stall
  exact lands_next fun hp => modMe_wf (hs hp)

theorem execFence_lands {p : Prop} {_sb order scope s} (hs : p → s.wf = true) : Lands p (execFence _sb order scope s) := by
  unfold execFence
  split
  · exact lands_next hs
  · dsimp only
    split
    · exact lands_next fun hp => advance_wf (endWait_wf (ite_wf (acquire_wf (gatomAcquired_wf (hs hp) ‹_›)) (gatomAcquired_wf (hs hp) ‹_›)))
    · exact stall_lands (fun hp => gatomAcquired_wf (hs hp) ‹_›)

theorem afterStall_lands {p : Prop} {s : State} {f : State → Out} (hs : p → s.wf = true)
    (hf : ∀ u, (p → u.wf = true) → Lands p (f u)) : Lands p (afterStall s f) := by
  unfold afterStall
  split
  · exact stall_lands hs
  · exact hf _ fun hp => endWait_wf (hs hp)

theorem dropCode_wf {s pid ctx lo n all} (hs : s.wf = true) : (dropCode s pid ctx lo n all).wf = true :=
  modClu_wf hs fun _ hc => hc

theorem execIcinv_lands {p : Prop} {sb a2 b scope s} (hs : p → s.wf = true) : Lands p (execIcinv sb a2 b scope s) := by
  unfold execIcinv
  split
  · exact trap_lands hs
  · split
    · exact trap_lands hs
    · dsimp only
      exact afterStall_lands hs (fun _ hu => lands_next fun hp => advance_wf (foldl_wf (hu hp) fun u1 _ hu1 => dropCode_wf hu1))

theorem outstanding_wf {s d p} (hs : s.wf = true) : (outstanding s d p).wf = true :=
  modMe_wf hs

theorem execVqPop_lands {p : Prop} {sb d s} (hs : p → s.wf = true) : Lands p (execVqPop sb d s) := by
  unfold execVqPop
  split
  · exact trap_lands hs
  · dsimp only
    exact lands_next fun hp => advance_wf (outstanding_wf (modMe_wf (hs hp)))

theorem execVqPeek_lands {p : Prop} {_sb d s} (hs : p → s.wf = true) : Lands p (execVqPeek _sb d s) := by
  unfold execVqPeek
  dsimp only
  exact lands_next fun hp => advance_wf (outstanding_wf (hs hp))

theorem execBarNew_lands {p : Prop} {sb d a3 b ext kind s} (hs : p → s.wf = true) : Lands p (execBarNew sb d a3 b ext kind s) := by
  unfold execBarNew
  dsimp only
  split
  · exact trap_lands hs
  · split
    · exact trap_lands hs
    · split
      · split
        · exact trap_lands hs
        · exact put_lands (fun hp => foldl_wf (hs hp) fun u _ hu => setBar_wf hu)
      · split
        · exact trap_lands hs
        · exact put_lands (fun hp => foldl_wf (hs hp) fun u _ hu => setBar_wf hu)

theorem execBarExpect_lands {p : Prop} {sb d a3 b base s} (hs : p → s.wf = true) : Lands p (execBarExpect sb d a3 b base s) := by
  unfold execBarExpect
  dsimp only
  split
  · exact trap_lands hs
  · split
    · exact trap_lands hs
    · split
      · exact trap_lands hs
      · split
        · exact trap_lands hs
        · exact put_lands (fun hp => barEvent_wf (setBar_wf (hs hp)))

theorem execBarArrive_lands {p : Prop} {sb d a3 b s} (hs : p → s.wf = true) : Lands p (execBarArrive sb d a3 b s) := by
  unfold execBarArrive
  dsimp only
  split
  · exact trap_lands hs
  · split
    · exact trap_lands hs
    · split
      · exact trap_lands hs
      · exact put_lands (fun hp => addArrivals_wf (hs hp) ‹_›)

theorem finishWait_lands {p : Prop} {w bw d v h s} (hs : p → s.wf = true) : Lands p (finishWait w bw d v h s) := by
  unfold finishWait
  split
  · exact put_lands (fun hp => endWait_wf (hs hp))
  · split
    · exact stall_lands hs
    · exact put_lands (fun hp => endWait_wf (acquirePhase_wf (hs hp) ‹_›))

theorem execBarWait_lands {p : Prop} {sb d a3 b s} (hs : p → s.wf = true) : Lands p (execBarWait sb d a3 b s) := by
  unfold execBarWait
  dsimp only
  split
  · exact finishWait_lands hs
  · split
    · exact trap_lands hs
    · split
      · exact trap_lands hs
      · split
        · exact finishWait_lands hs
        · split
          · exact finishWait_lands hs
          · exact stall_lands hs

theorem endWaiters_wf {s fid set} (hs : s.wf = true) : (endWaiters s fid set).wf = true := by
  unfold endWaiters
  refine foldl_wf hs fun u _ hu => ?_
  split
  · split
    · split
      · exact modThr_wf hu
      · exact takeTrap_wf hu
    · exact hu
  · exact hu

theorem execBarFree_lands {p : Prop} {sb a2 s} (hs : p → s.wf = true) : Lands p (execBarFree sb a2 s) := by
  unfold execBarFree
  dsimp only
  split
  · exact trap_lands hs
  · split
    · exact stall_lands hs
    · exact lands_next fun hp => advance_wf (endWait_wf (foldl_wf (endWaiters_wf (hs hp)) fun u _ hu => setBar_wf hu))

theorem defer_wf {s k release scope} (hs : s.wf = true) : (defer s k release scope).wf = true :=
  modMe_wf hs

theorem execStagePut_lands {p : Prop} {sb d a3 b scope s} (hs : p → s.wf = true) : Lands p (execStagePut sb d a3 b scope s) := by
  unfold execStagePut
  dsimp only
  split
  · exact trap_lands hs
  · split
    · exact trap_lands hs
    · split
      · exact stall_lands hs
      · split
        · exact trap_lands hs
        · split
          · exact stall_lands hs
          · exact put_lands (fun hp => endWait_wf (defer_wf (setBar_wf (acquirePhase_wf (hs hp) ‹_›))))

theorem execStageTake_lands {p : Prop} {sb d a3 scope last s} (hs : p → s.wf = true) : Lands p (execStageTake sb d a3 scope last s) := by
  unfold execStageTake
  dsimp only
  split
  · exact trap_lands hs
  · split
    · exact lands_next fun hp => advance_wf (endWait_wf (ite_wf (hs hp) (defer_wf (hs hp))))
    · split
      · split
        · exact stall_lands hs
        · split
          · exact stall_lands hs
          · exact put_lands (fun hp => endWait_wf (acquirePhase_wf (hs hp) ‹_›))
      · split
        · exact stall_lands (fun hp => defer_wf (hs hp))
        · split
          · exact stall_lands (fun hp => defer_wf (hs hp))
          · exact put_lands (fun hp => endWait_wf (acquirePhase_wf (defer_wf (hs hp)) ‹_›))

theorem execReelOpen_lands {p : Prop} {sb a2 s} (hs : p → s.wf = true) : Lands p (execReelOpen sb a2 s) := by
  unfold execReelOpen
  dsimp only
  split
  · exact trap_lands hs
  · split
    · exact trap_lands hs
    · split
      · exact trap_lands hs
      · split
        · exact trap_lands hs
        · exact lands_next fun hp => advance_wf (modMe_wf (hs hp))

theorem execReelShut_lands {p : Prop} {sb s} (hs : p → s.wf = true) : Lands p (execReelShut sb s) := by
  unfold execReelShut
  dsimp only
  split
  · exact trap_lands hs
  · split
    · exact trap_lands hs
    · split
      · exact lands_next fun hp => takeTrap_wf (homeFrame_wf (dropReels_frame ..) (modMe_wf (hs hp)))
      · exact afterStall_lands hs (fun _ hu => lands_next fun hp => advance_wf (modCtx_wf (homeFrame_wf (dropReels_frame ..) (modMe_wf
            (hu hp)))))

theorem execReelPlay_lands {p : Prop} {sb a2 s} (hs : p → s.wf = true) : Lands p (execReelPlay sb a2 s) := by
  unfold execReelPlay
  dsimp only
  split
  · exact trap_lands hs
  · split
    · exact trap_lands hs
    · split
      · exact trap_lands hs
      · split
        · exact trap_lands hs
        · split
          · exact lands_next hs
          · split
            · exact trap_lands hs
            · exact trap_lands hs
            · split
              · exact stall_lands hs
              · exact lands_next fun hp => advance_wf (endWait_wf (ite_wf (hs hp) (modStr_wf (hs hp))))

theorem execReelDrop_lands {p : Prop} {sb a2 s} (hs : p → s.wf = true) : Lands p (execReelDrop sb a2 s) := by
  unfold execReelDrop
  split
  · exact trap_lands hs
  · exact afterStall_lands hs (fun _ hu => lands_next fun hp => advance_wf (homeFrame_wf (dropReels_frame ..) (hu hp)))

theorem retireBinding_wf {s t n} (hs : s.wf = true) : (retireBinding s t n).wf = true := by
  obtain ⟨hm, hr, hl, hp, hi⟩ := wf_iff.1 hs
  exact modThr_wf (modStr_wf (wf_iff.2 ⟨hm, hr, hl, planesWf_map hp fun _ hc => hc, hi⟩))

theorem execStrBind_lands {p : Prop} {sb a b n s} (hs : p → s.wf = true) : Lands p (execStrBind sb a b n s) := by
  unfold execStrBind
  dsimp only
  split
  · exact trap_lands hs
  · split
    · exact trap_lands hs
    · have h1 (hp : p) : (retireBinding s s.cur n.toNat).wf = true := retireBinding_wf (hs hp)
      generalize retireBinding s s.cur n.toNat = u at h1 ⊢
      exact lands_next h1

theorem execStrSel_lands {p : Prop} {sb n s} (hs : p → s.wf = true) : Lands p (execStrSel sb n s) := by
  unfold execStrSel
  dsimp only
  split
  · exact trap_lands hs
  · split
    · exact trap_lands hs
    · split
      · exact trap_lands hs
      · exact lands_next fun hp => advance_wf (modMe_wf (hs hp))

theorem execStrFree_lands {p : Prop} {sb n s} (hs : p → s.wf = true) : Lands p (execStrFree sb n s) := by
  unfold execStrFree
  dsimp only
  split
  · exact trap_lands hs
  · split
    · exact trap_lands hs
    · split
      · exact lands_next fun hp => advance_wf (hs hp)
      · split
        · exact stall_lands hs
        · exact lands_next fun hp => advance_wf (modMe_wf (endWait_wf (modStr_wf (hs hp))))

theorem execMaskRd_lands {p : Prop} {sb d a3 which s} (hs : p → s.wf = true) : Lands p (execMaskRd sb d a3 which s) := by
  unfold execMaskRd
  split
  · exact trap_lands hs
  · dsimp only
    exact lands_next fun hp => advance_wf (settleMaskRd_wf (outstanding_wf (hs hp)))

theorem placeMask_wf {s t n slot v} (hs : s.wf = true) : (placeMask s t n slot v).wf = true := by
  unfold placeMask
  dsimp only
  exact foldl_wf (modStr_wf hs) fun u _ hu => applyMasks_wf hu

theorem execMaskWr_lands {p : Prop} {sb a2 b s} (hs : p → s.wf = true) : Lands p (execMaskWr sb a2 b s) := by
  unfold execMaskWr
  split
  · exact trap_lands hs
  · exact lands_next fun hp => advance_wf (placeMask_wf (hs hp))

theorem execParkReplay_lands {p : Prop} {sb a2 b s} (hs : p → s.wf = true) : Lands p (execParkReplay sb a2 b s) := by
  unfold execParkReplay
  dsimp only
  split
  · exact trap_lands hs
  · split
    · exact trap_lands hs
    · exact lands_next fun hp => advance_wf (foldl_wf (hs hp) fun u _ hu => modGrp_wf hu)

theorem unparkPair_wf {s kill p} (hs : s.wf = true) : (unparkPair s kill p).wf = true := by
  unfold unparkPair
  dsimp only
  split
  · exact hs
  · split
    · exact exitEvent_wf (modGrp_wf hs)
    · exact modGrp_wf hs

theorem execUnpark_lands {p : Prop} {sb a2 b kill s} (hs : p → s.wf = true) : Lands p (execUnpark sb a2 b kill s) := by
  unfold execUnpark
  split
  · exact trap_lands hs
  · split
    · exact stall_lands hs
    · exact lands_next fun hp => advance_wf (endWait_wf (foldl_wf (hs hp) fun u _ hu => unparkPair_wf hu))

theorem sendRead_wf {s o n} (hs : s.wf = true) : (sendRead s o n).wf = true := by
  unfold sendRead
  dsimp only
  split
  · split
    · exact modMe_wf (pushOp_wf hs)
    · exact advance_wf (pushOp_wf hs)
  · split
    · exact modMe_wf (pushOp_wf hs)
    · exact advance_wf (pushOp_wf hs)

theorem probeHost_wf {u : State} {s va pa n} (hs : s.wf = true) (hu : probeHost s va pa n = some u) : u.wf = true := by
  grind [probeHost, modMe_wf, sendRead_wf, outstanding_wf, wf_parts]

theorem readSectors_wf {a1 a2 a3 a4} (ha4 : a4.wf = true) : (readSectors a1 a2 a3 a4).1.wf = true := by
  unfold readSectors
  split
  · exact ha4
  · dsimp only
    split
    · exact ha4
    · split
      · exact readSectors_wf (fst_wf ‹_› (readNow_wf ha4))
      · split
        · exact fst_wf ‹_› (readSectors_wf (noteRead_wf (fst_wf ‹_› (readNow_wf ha4))))
        · exact fst_wf ‹_› (readSectors_wf (noteRead_wf (fst_wf ‹_› (readNow_wf ha4))))

theorem execLaunch_lands {p : Prop} {sb d a3 b s} (hs : p → s.wf = true) : Lands p (execLaunch sb d a3 b s) := by
  unfold execLaunch
  split
  · exact lands_next hs
  · dsimp only
    split
    · exact trap_lands (fun hp => gatomAcquired_wf (hs hp) ‹_›)
    · split
      · exact trap_lands (fun hp => gatomAcquired_wf (hs hp) ‹_›)
      · split
        · exact trap_lands (fun hp => fst_wf ‹_› (homeFrame_wf (translate_frame ..) (gatomAcquired_wf (hs hp) ‹_›)))
        · split
          · exact lands_next fun hp => probeHost_wf (fst_wf ‹_› (homeFrame_wf (translate_frame ..) (gatomAcquired_wf (hs hp) ‹_›))) ‹_›
          · split
            · exact stall_lands (fun hp => fst_wf ‹_› (readSectors_wf (fst_wf ‹_› (homeFrame_wf (translate_frame ..) (gatomAcquired_wf
                  (hs hp) ‹_›)))))
            · split
              · exact put_lands (fun hp => endWait_wf (fst_wf ‹_› (readSectors_wf (fst_wf ‹_› (homeFrame_wf (translate_frame ..)
                    (gatomAcquired_wf (hs hp) ‹_›))))))
              · split
                · exact put_lands (fun hp => endWait_wf (fst_wf ‹_› (readSectors_wf (fst_wf ‹_› (homeFrame_wf (translate_frame ..)
                      (gatomAcquired_wf (hs hp) ‹_›))))))
                · split
                  · exact stall_lands (fun hp => fst_wf ‹_› (readSectors_wf (fst_wf ‹_› (homeFrame_wf (translate_frame ..)
                        (gatomAcquired_wf (hs hp) ‹_›)))))
                  · exact put_lands (fun hp => endWait_wf (modQue_wf (homeFrame_wf (writeAtHome_frame ..) (homeFrame_wf
                        (writeAtHome_frame ..) (holdIf_wf (fst_wf ‹_› (readSectors_wf (fst_wf ‹_› (homeFrame_wf (translate_frame ..)
                        (gatomAcquired_wf (hs hp) ‹_›))))))))))

theorem execGatom_lands {p : Prop} {sb d a3 b op s} (hs : p → s.wf = true) : Lands p (execGatom sb d a3 b op s) := by
  unfold execGatom
  split
  · exact lands_next hs
  · dsimp only
    split
    · exact trap_lands (fun hp => gatomAcquired_wf (hs hp) ‹_›)
    · split
      · split
        · exact trap_lands (fun hp => gatomAcquired_wf (hs hp) ‹_›)
        · split
          · exact trap_lands (fun hp => fst_wf ‹_› (homeFrame_wf (translate_frame ..) (gatomAcquired_wf (hs hp) ‹_›)))
          · split
            · exact stall_lands (fun hp => fst_wf ‹_› (homeFrame_wf (translate_frame ..) (gatomAcquired_wf (hs hp) ‹_›)))
            · exact lands_next fun hp => sendRead_wf (ite_wf (modMe_wf (ite_wf (outstanding_wf (outstanding_wf (endWait_wf (fst_wf ‹_›
                  (homeFrame_wf (translate_frame ..) (gatomAcquired_wf (hs hp) ‹_›)))))) (outstanding_wf (endWait_wf (fst_wf ‹_›
                  (homeFrame_wf (translate_frame ..) (gatomAcquired_wf (hs hp) ‹_›))))))) (ite_wf (outstanding_wf (outstanding_wf
                  (endWait_wf (fst_wf ‹_› (homeFrame_wf (translate_frame ..) (gatomAcquired_wf (hs hp) ‹_›)))))) (outstanding_wf
                  (endWait_wf (fst_wf ‹_› (homeFrame_wf (translate_frame ..) (gatomAcquired_wf (hs hp) ‹_›)))))))
      · split
        · split
          · exact trap_lands (fun hp => gatomAcquired_wf (hs hp) ‹_›)
          · split
            · exact trap_lands (fun hp => fst_wf ‹_› (homeFrame_wf (translate_frame ..) (gatomAcquired_wf (hs hp) ‹_›)))
            · split
              · exact stall_lands (fun hp => fst_wf ‹_› (homeFrame_wf (translate_frame ..) (gatomAcquired_wf (hs hp) ‹_›)))
              · exact lands_next fun hp => sendRead_wf (ite_wf (modMe_wf (ite_wf (outstanding_wf (outstanding_wf (endWait_wf (fst_wf ‹_›
                    (homeFrame_wf (translate_frame ..) (gatomAcquired_wf (hs hp) ‹_›)))))) (outstanding_wf (endWait_wf (fst_wf ‹_›
                    (homeFrame_wf (translate_frame ..) (gatomAcquired_wf (hs hp) ‹_›))))))) (ite_wf (outstanding_wf (outstanding_wf
                    (endWait_wf (fst_wf ‹_› (homeFrame_wf (translate_frame ..) (gatomAcquired_wf (hs hp) ‹_›)))))) (outstanding_wf
                    (endWait_wf (fst_wf ‹_› (homeFrame_wf (translate_frame ..) (gatomAcquired_wf (hs hp) ‹_›)))))))
        · split
          · exact trap_lands (fun hp => gatomAcquired_wf (hs hp) ‹_›)
          · split
            · exact trap_lands (fun hp => fst_wf ‹_› (homeFrame_wf (translate_frame ..) (gatomAcquired_wf (hs hp) ‹_›)))
            · split
              · exact stall_lands (fun hp => fst_wf ‹_› (homeFrame_wf (translate_frame ..) (gatomAcquired_wf (hs hp) ‹_›)))
              · exact lands_next fun hp => sendRead_wf (ite_wf (modMe_wf (ite_wf (outstanding_wf (outstanding_wf (endWait_wf (fst_wf ‹_›
                    (homeFrame_wf (translate_frame ..) (gatomAcquired_wf (hs hp) ‹_›)))))) (outstanding_wf (endWait_wf (fst_wf ‹_›
                    (homeFrame_wf (translate_frame ..) (gatomAcquired_wf (hs hp) ‹_›))))))) (ite_wf (outstanding_wf (outstanding_wf
                    (endWait_wf (fst_wf ‹_› (homeFrame_wf (translate_frame ..) (gatomAcquired_wf (hs hp) ‹_›)))))) (outstanding_wf
                    (endWait_wf (fst_wf ‹_› (homeFrame_wf (translate_frame ..) (gatomAcquired_wf (hs hp) ‹_›)))))))

theorem framesOf_wf {ctx pid a3 a4 a5} (ha5 : a5.wf = true) : (framesOf ctx pid a3 a4 a5).1.wf = true := by
  unfold framesOf
  split
  · exact ha5
  · split
    · exact fst_wf ‹_› (homeFrame_wf (translate_frame ..) ha5)
    · split
      · exact fst_wf ‹_› (homeFrame_wf (translate_frame ..) ha5)
      · split
        · exact fst_wf ‹_› (framesOf_wf (fst_wf ‹_› (homeFrame_wf (translate_frame ..) ha5)))
        · exact fst_wf ‹_› (framesOf_wf (fst_wf ‹_› (homeFrame_wf (translate_frame ..) ha5)))

theorem pinCheck_wf {s base b fill plane} (hs : s.wf = true) : (pinCheck s base b fill plane).1.wf = true := by
  grind [pinCheck, framesOf_wf, wf_parts]

theorem countDrop_wf {s ctx} (hs : s.wf = true) : (countDrop s ctx).wf = true :=
  modCtx_wf hs

theorem execPinSet_lands {p : Prop} {_sb d a3 b fill kind s} (hs : p → s.wf = true) : Lands p (execPinSet _sb d a3 b fill kind s) := by
  unfold execPinSet
  split
  · exact stall_lands hs
  · split
    · dsimp only
      exact put_lands (fun hp => endWait_wf (ite_wf (modCtx_wf (fst_wf ‹_› (pinCheck_wf (hs hp)))) (ite_wf (countDrop_wf (fst_wf ‹_›
          (pinCheck_wf (hs hp)))) (fst_wf ‹_› (pinCheck_wf (hs hp))))))

theorem modWindow_wf {s ctx die va f} (hs : s.wf = true) : (modWindow s ctx die va f).wf = true :=
  modCtx_wf hs

theorem execPinClr_lands {p : Prop} {_sb d a3 s} (hs : p → s.wf = true) : Lands p (execPinClr _sb d a3 s) := by
  unfold execPinClr
  dsimp only
  split
  · exact put_lands hs
  · exact put_lands (fun hp => modWindow_wf (hs hp))

theorem aluI_lands {p : Prop} {n d a3 i f s} (hs : p → s.wf = true) : Lands p (aluI n d a3 i f s) := by
  unfold aluI
  exact put_lands hs

theorem execAddi_lands {p : Prop} {_sb d a3 imm s} (hs : p → s.wf = true) : Lands p (execAddi _sb d a3 imm s) := by
  unfold execAddi
  exact aluI_lands hs

theorem execAndi_lands {p : Prop} {_sb d a3 imm s} (hs : p → s.wf = true) : Lands p (execAndi _sb d a3 imm s) := by
  unfold execAndi
  exact aluI_lands hs

theorem execOri_lands {p : Prop} {_sb d a3 imm s} (hs : p → s.wf = true) : Lands p (execOri _sb d a3 imm s) := by
  unfold execOri
  exact aluI_lands hs

theorem execXori_lands {p : Prop} {_sb d a3 imm s} (hs : p → s.wf = true) : Lands p (execXori _sb d a3 imm s) := by
  unfold execXori
  exact aluI_lands hs

theorem execShli_lands {p : Prop} {_sb d a3 cnt s} (hs : p → s.wf = true) : Lands p (execShli _sb d a3 cnt s) := by
  unfold execShli
  exact put_lands hs

theorem execShri_lands {p : Prop} {_sb d a3 cnt s} (hs : p → s.wf = true) : Lands p (execShri _sb d a3 cnt s) := by
  unfold execShri
  exact put_lands hs

theorem execSari_lands {p : Prop} {_sb d a3 cnt s} (hs : p → s.wf = true) : Lands p (execSari _sb d a3 cnt s) := by
  unfold execSari
  exact put_lands hs

theorem execSlti_lands {p : Prop} {_sb d a3 imm s} (hs : p → s.wf = true) : Lands p (execSlti _sb d a3 imm s) := by
  unfold execSlti
  exact aluI_lands hs

theorem execMovi_lands {p : Prop} {_sb d imm s} (hs : p → s.wf = true) : Lands p (execMovi _sb d imm s) := by
  unfold execMovi
  exact put_lands hs

theorem execInsh_lands {p : Prop} {_sb d imm s} (hs : p → s.wf = true) : Lands p (execInsh _sb d imm s) := by
  unfold execInsh
  exact put_lands hs

theorem execSltiu_lands {p : Prop} {_sb d a3 imm s} (hs : p → s.wf = true) : Lands p (execSltiu _sb d a3 imm s) := by
  unfold execSltiu
  exact aluI_lands hs

theorem execSrd_lands {p : Prop} {sb d num s} (hs : p → s.wf = true) : Lands p (execSrd sb d num s) := by
  unfold execSrd
  dsimp only
  split
  · exact trap_lands hs
  · split
    · exact trap_lands hs
    · split
      · exact lands_next fun hp => advance_wf (outstanding_wf (hs hp))
      · exact put_lands hs

theorem setLease_wf {s ctx v} (hs : s.wf = true) : (setLease s ctx v).wf = true :=
  modCtx_wf hs

theorem setHintdrop_wf {s pid ctx v} (hs : s.wf = true) : (setHintdrop s pid ctx v).wf = true :=
  modCtx_wf hs

theorem setSeed_wf {s pid v} (hs : s.wf = true) : (setSeed s pid v).wf = true :=
  modClu_wf (settleSeed_wf hs) fun _ hc => hc

theorem popFences_wf {s pid a3} (hs : s.wf = true) : (popFences s pid a3).wf = true := by
  unfold popFences
  split
  · exact hs
  · dsimp only
    split
    · exact hs
    · exact popFences_wf (foldl_wf hs fun u _ hu => setCopyQ_wf hu)

theorem dropAsks_wf {s pid q} (hs : s.wf = true) : (dropAsks s pid q).wf = true :=
  modPurse_wf hs

theorem execCqctlAbort_lands {p : Prop} {pid q s} (hs : p → s.wf = true) : Lands p (execCqctlAbort pid q s) := by
  unfold execCqctlAbort
  dsimp only
  split
  · exact lands_next hs
  · exact lands_next fun hp => popFences_wf (setCopyQ_wf (dropAsks_wf (hs hp)))

theorem modHead_wf {s pid q f} (hs : s.wf = true) : (modHead s pid q f).wf = true := by
  unfold modHead
  dsimp only
  split
  · exact hs
  · exact setCopyQ_wf hs

theorem execCqctlResume_lands {p : Prop} {pid q s} (hs : p → s.wf = true) : Lands p (execCqctlResume pid q s) := by
  unfold execCqctlResume
  dsimp only
  split
  · exact lands_next hs
  · exact lands_next fun hp => modHead_wf (setCopyQ_wf (hs hp))

theorem writeCqctl_wf {s pid v} (hs : s.wf = true) : (writeCqctl s pid v).wf = true :=
  foldl_wf hs fun u _ hu => ite_wf (outState_wf (execCqctlAbort_lands (fun hp => hu))) (ite_wf (outState_wf (execCqctlResume_lands
      (fun hp => hu))) hu)

theorem execTtbaseWrite_lands {p : Prop} {ctx v s} (hs : p → s.wf = true) : Lands p (execTtbaseWrite ctx v s) := by
  unfold execTtbaseWrite
  exact lands_next fun hp => modCtx_wf (hs hp)

theorem walkFrom_wf {ctx va ls s node ns} (hs : s.wf = true) : (walkFrom ctx va ls s node ns).1.wf = true :=
  homeFrame_wf (walkFromBy_frame atHome_frame ctx va ls s node ns) hs

theorem dropLeaves_wf {s ctx all code lo n} (hs : s.wf = true) : (dropLeaves s ctx all code lo n).wf = true := by
  obtain ⟨hm, hr, hl, hp, hi⟩ := wf_iff.1 hs
  exact wf_iff.2 ⟨hm, hr, hl, planesWf_map hp fun _ hc => hc, hi⟩

theorem xlStart_wf {s ctx op count size} (hs : s.wf = true) : (xlStart s ctx op count size).wf = true := by
  unfold xlStart
  dsimp only
  split
  · exact setCtx_wf hs
  · split
    · exact modCtx_wf hs
    · split
      · split
        · split
          · exact modCtx_wf (homeFrame_wf (Completion.cleanPage_frame ..) (fst_wf ‹_› (walkFrom_wf hs)))
          · exact modCtx_wf hs
        · exact modCtx_wf hs
      · exact modCtx_wf (dropLeaves_wf hs)
      · exact modCtx_wf (dropLeaves_wf hs)
      · exact modCtx_wf hs

theorem xlWrite_wf {s ctx v} (hs : s.wf = true) : (xlWrite s ctx v).wf = true :=
  xlStart_wf hs

theorem execAshareWrite_lands {p : Prop} {ctx v s} (hs : p → s.wf = true) : Lands p (execAshareWrite ctx v s) := by
  unfold execAshareWrite
  dsimp only
  exact lands_next fun hp => modCtx_wf (hs hp)

theorem writeEx_wf {s slot v} (hs : s.wf = true) : (writeEx s slot v).wf = true := by
  unfold writeEx
  split
  · exact placeMask_wf hs
  · dsimp only
    split
    · exact hs
    · exact modGrp_wf (setEx_wf hs)

theorem sysWrite_wf {s r v} (hs : s.wf = true) : (sysWrite s r v).wf = true := by
  unfold sysWrite
  dsimp only
  split
  · exact modMe_wf hs
  · exact modMe_wf hs
  · exact modMe_wf hs
  · exact modMe_wf hs
  · exact setLease_wf hs
  · exact setHintdrop_wf hs
  · exact modCtx_wf hs
  · exact setSeed_wf hs
  · exact writeCqctl_wf hs
  · exact outState_wf (execTtbaseWrite_lands (fun hp => hs))
  · exact modCtx_wf hs
  · exact modCtx_wf hs
  · exact modCtx_wf hs
  · exact xlWrite_wf hs
  · exact modCtx_wf hs
  · exact outState_wf (execAshareWrite_lands (fun hp => hs))
  · exact writeEx_wf hs
  · exact hs

theorem execSwr_lands {p : Prop} {sb a2 num s} (hs : p → s.wf = true) : Lands p (execSwr sb a2 num s) := by
  unfold execSwr
  dsimp only
  split
  · exact trap_lands hs
  · split
    · exact trap_lands hs
    · exact lands_next fun hp => advance_wf (sysWrite_wf (hs hp))

theorem prefetch_lands {p : Prop} {i n a off s} (hs : p → s.wf = true) : Lands p (prefetch i n a off s) := by
  unfold prefetch
  split
  · exact lands_next hs
  · rename_i u hu
    have hu (hp : p) : u.wf = true := gatomAcquired_wf (hs hp) hu
    dsimp only
    split
    · exact trap_lands hu
    · split
      · exact trap_lands fun hp => fst_wf ‹_› (homeFrame_wf (translate_frame ..) (hu hp))
      · rename_i v pa hv
        have hv (hp : p) : v.wf = true := fst_wf hv (homeFrame_wf (translate_frame ..) (hu hp))
        split
        · exact lands_next fun hp => probeHost_wf (hv hp) ‹_›
        · split
          · exact stall_lands fun hp => fst_wf ‹_› (readSectors_wf (hv hp))
          · rename_i w d hw
            have hw (hp : p) : w.wf = true := fst_wf hw (readSectors_wf (hv hp))
            split
            · exact trap_lands hw
            · split
              · exact trap_lands hw
              · split
                · exact stall_lands hw
                · exact lands_next fun hp => advance_wf (endWait_wf (modClu_wf (s := { w with nextId := w.nextId + 1 }) (hw hp)
                      fun _ hc => hc))

theorem execPft_lands {p : Prop} {sb a2 imm s} (hs : p → s.wf = true) : Lands p (execPft sb a2 imm s) := by
  unfold execPft
  exact prefetch_lands hs

theorem execAddiLong_lands {p : Prop} {_sb d a3 ext imm s} (hs : p → s.wf = true) : Lands p (execAddiLong _sb d a3 ext imm s) := by
  unfold execAddiLong
  exact aluI_lands hs

theorem execAndiLong_lands {p : Prop} {_sb d a3 ext imm s} (hs : p → s.wf = true) : Lands p (execAndiLong _sb d a3 ext imm s) := by
  unfold execAndiLong
  exact aluI_lands hs

theorem execOriLong_lands {p : Prop} {_sb d a3 ext imm s} (hs : p → s.wf = true) : Lands p (execOriLong _sb d a3 ext imm s) := by
  unfold execOriLong
  exact aluI_lands hs

theorem execXoriLong_lands {p : Prop} {_sb d a3 ext imm s} (hs : p → s.wf = true) : Lands p (execXoriLong _sb d a3 ext imm s) := by
  unfold execXoriLong
  exact aluI_lands hs

theorem execSltiLong_lands {p : Prop} {_sb d a3 ext imm s} (hs : p → s.wf = true) : Lands p (execSltiLong _sb d a3 ext imm s) := by
  unfold execSltiLong
  exact aluI_lands hs

theorem execSltiuLong_lands {p : Prop} {_sb d a3 ext imm s} (hs : p → s.wf = true) : Lands p (execSltiuLong _sb d a3 ext imm s) := by
  unfold execSltiuLong
  exact aluI_lands hs

theorem execMoviLong_lands {p : Prop} {_sb d ext imm s} (hs : p → s.wf = true) : Lands p (execMoviLong _sb d ext imm s) := by
  unfold execMoviLong
  exact put_lands hs

theorem execInshLong_lands {p : Prop} {_sb d ext imm s} (hs : p → s.wf = true) : Lands p (execInshLong _sb d ext imm s) := by
  unfold execInshLong
  exact put_lands hs

theorem execPftLong_lands {p : Prop} {sb a2 ext imm s} (hs : p → s.wf = true) : Lands p (execPftLong sb a2 ext imm s) := by
  unfold execPftLong
  exact prefetch_lands hs

theorem genLoad_lands {p : Prop} {n d a3 off w sx pri na s} (hs : p → s.wf = true) : Lands p (genLoad n d a3 off w sx pri na s) := by
  unfold genLoad
  split
  · exact lands_next hs
  · dsimp only
    split
    · exact trap_lands (fun hp => gatomAcquired_wf (hs hp) ‹_›)
    · split
      · exact trap_lands (fun hp => fst_wf ‹_› (homeFrame_wf (translate_frame ..) (gatomAcquired_wf (hs hp) ‹_›)))
      · exact lands_next fun hp => sendRead_wf (outstanding_wf (homeFrame_wf (GenAccess.askFill_frame ..) (fst_wf ‹_›
            (homeFrame_wf (translate_frame ..) (gatomAcquired_wf (hs hp) ‹_›)))))

theorem execLdgN8_lands {p : Prop} {_sb d a3 pri na off s} (hs : p → s.wf = true) : Lands p (execLdgN8 _sb d a3 pri na off s) := by
  unfold execLdgN8
  exact genLoad_lands hs

theorem execLdgS8_lands {p : Prop} {_sb d a3 pri na off s} (hs : p → s.wf = true) : Lands p (execLdgS8 _sb d a3 pri na off s) := by
  unfold execLdgS8
  exact genLoad_lands hs

theorem execLdgN16_lands {p : Prop} {_sb d a3 pri na off s} (hs : p → s.wf = true) : Lands p (execLdgN16 _sb d a3 pri na off s) := by
  unfold execLdgN16
  exact genLoad_lands hs

theorem execLdgS16_lands {p : Prop} {_sb d a3 pri na off s} (hs : p → s.wf = true) : Lands p (execLdgS16 _sb d a3 pri na off s) := by
  unfold execLdgS16
  exact genLoad_lands hs

theorem execLdgN32_lands {p : Prop} {_sb d a3 pri na off s} (hs : p → s.wf = true) : Lands p (execLdgN32 _sb d a3 pri na off s) := by
  unfold execLdgN32
  exact genLoad_lands hs

theorem execLdgS32_lands {p : Prop} {_sb d a3 pri na off s} (hs : p → s.wf = true) : Lands p (execLdgS32 _sb d a3 pri na off s) := by
  unfold execLdgS32
  exact genLoad_lands hs

theorem execLdgB64_lands {p : Prop} {_sb d a3 pri na off s} (hs : p → s.wf = true) : Lands p (execLdgB64 _sb d a3 pri na off s) := by
  unfold execLdgB64
  exact genLoad_lands hs

theorem genStore_lands {p : Prop} {n d a3 off w pri na scope s} (hs : p → s.wf = true) : Lands p
    (genStore n d a3 off w pri na scope s) := by
  unfold genStore
  split
  · exact lands_next hs
  · dsimp only
    split
    · exact trap_lands (fun hp => gatomAcquired_wf (hs hp) ‹_›)
    · split
      · exact trap_lands (fun hp => fst_wf ‹_› (homeFrame_wf (translate_frame ..) (gatomAcquired_wf (hs hp) ‹_›)))
      · exact lands_next fun hp => advance_wf (pushOp_wf (fst_wf ‹_› (homeFrame_wf (translate_frame ..) (gatomAcquired_wf (hs hp) ‹_›))))

theorem execStgB8_lands {p : Prop} {_sb d a3 pri na scope off s} (hs : p → s.wf = true) : Lands p
    (execStgB8 _sb d a3 pri na scope off s) := by
  unfold execStgB8
  exact genStore_lands hs

theorem execStgB16_lands {p : Prop} {_sb d a3 pri na scope off s} (hs : p → s.wf = true) : Lands p
    (execStgB16 _sb d a3 pri na scope off s) := by
  unfold execStgB16
  exact genStore_lands hs

theorem execStgB32_lands {p : Prop} {_sb d a3 pri na scope off s} (hs : p → s.wf = true) : Lands p
    (execStgB32 _sb d a3 pri na scope off s) := by
  unfold execStgB32
  exact genStore_lands hs

theorem execStgB64_lands {p : Prop} {_sb d a3 pri na scope off s} (hs : p → s.wf = true) : Lands p
    (execStgB64 _sb d a3 pri na scope off s) := by
  unfold execStgB64
  exact genStore_lands hs

theorem execLdgN8Long_lands {p : Prop} {_sb d a3 ext pri na off s} (hs : p → s.wf = true) : Lands p
    (execLdgN8Long _sb d a3 ext pri na off s) := by
  unfold execLdgN8Long
  exact genLoad_lands hs

theorem execLdgS8Long_lands {p : Prop} {_sb d a3 ext pri na off s} (hs : p → s.wf = true) : Lands p
    (execLdgS8Long _sb d a3 ext pri na off s) := by
  unfold execLdgS8Long
  exact genLoad_lands hs

theorem execLdgN16Long_lands {p : Prop} {_sb d a3 ext pri na off s} (hs : p → s.wf = true) : Lands p
    (execLdgN16Long _sb d a3 ext pri na off s) := by
  unfold execLdgN16Long
  exact genLoad_lands hs

theorem execLdgS16Long_lands {p : Prop} {_sb d a3 ext pri na off s} (hs : p → s.wf = true) : Lands p
    (execLdgS16Long _sb d a3 ext pri na off s) := by
  unfold execLdgS16Long
  exact genLoad_lands hs

theorem execLdgN32Long_lands {p : Prop} {_sb d a3 ext pri na off s} (hs : p → s.wf = true) : Lands p
    (execLdgN32Long _sb d a3 ext pri na off s) := by
  unfold execLdgN32Long
  exact genLoad_lands hs

theorem execLdgS32Long_lands {p : Prop} {_sb d a3 ext pri na off s} (hs : p → s.wf = true) : Lands p
    (execLdgS32Long _sb d a3 ext pri na off s) := by
  unfold execLdgS32Long
  exact genLoad_lands hs

theorem execLdgB64Long_lands {p : Prop} {_sb d a3 ext pri na off s} (hs : p → s.wf = true) : Lands p
    (execLdgB64Long _sb d a3 ext pri na off s) := by
  unfold execLdgB64Long
  exact genLoad_lands hs

theorem execStgB8Long_lands {p : Prop} {_sb d a3 ext pri na scope off s} (hs : p → s.wf = true) : Lands p
    (execStgB8Long _sb d a3 ext pri na scope off s) := by
  unfold execStgB8Long
  exact genStore_lands hs

theorem execStgB16Long_lands {p : Prop} {_sb d a3 ext pri na scope off s} (hs : p → s.wf = true) : Lands p
    (execStgB16Long _sb d a3 ext pri na scope off s) := by
  unfold execStgB16Long
  exact genStore_lands hs

theorem execStgB32Long_lands {p : Prop} {_sb d a3 ext pri na scope off s} (hs : p → s.wf = true) : Lands p
    (execStgB32Long _sb d a3 ext pri na scope off s) := by
  unfold execStgB32Long
  exact genStore_lands hs

theorem execStgB64Long_lands {p : Prop} {_sb d a3 ext pri na scope off s} (hs : p → s.wf = true) : Lands p
    (execStgB64Long _sb d a3 ext pri na scope off s) := by
  unfold execStgB64Long
  exact genStore_lands hs

theorem branch_lands {p : Prop} {taken off s} (hs : p → s.wf = true) : Lands p (branch taken off s) := by
  unfold branch
  exact lands_next fun hp => ite_wf (setPc_wf (hs hp)) (advance_wf (hs hp))

theorem execBeq_lands {p : Prop} {_sb a2 b off s} (hs : p → s.wf = true) : Lands p (execBeq _sb a2 b off s) := by
  unfold execBeq
  exact branch_lands hs

theorem execBne_lands {p : Prop} {_sb a2 b off s} (hs : p → s.wf = true) : Lands p (execBne _sb a2 b off s) := by
  unfold execBne
  exact branch_lands hs

theorem execBlt_lands {p : Prop} {_sb a2 b off s} (hs : p → s.wf = true) : Lands p (execBlt _sb a2 b off s) := by
  unfold execBlt
  exact branch_lands hs

theorem execBge_lands {p : Prop} {_sb a2 b off s} (hs : p → s.wf = true) : Lands p (execBge _sb a2 b off s) := by
  unfold execBge
  exact branch_lands hs

theorem execBltu_lands {p : Prop} {_sb a2 b off s} (hs : p → s.wf = true) : Lands p (execBltu _sb a2 b off s) := by
  unfold execBltu
  exact branch_lands hs

theorem execBgeu_lands {p : Prop} {_sb a2 b off s} (hs : p → s.wf = true) : Lands p (execBgeu _sb a2 b off s) := by
  unfold execBgeu
  exact branch_lands hs

theorem execJmp_lands {p : Prop} {_sb off s} (hs : p → s.wf = true) : Lands p (execJmp _sb off s) := by
  unfold execJmp
  exact lands_next fun hp => setPc_wf (hs hp)

theorem execCall_lands {p : Prop} {_sb off s} (hs : p → s.wf = true) : Lands p (execCall _sb off s) := by
  unfold execCall
  exact lands_next fun hp => setPc_wf (wr_wf (hs hp))

theorem trailerNext_wf {s w} (hs : s.wf = true) : (trailerNext s w).1.wf = true := by
  unfold trailerNext
  split
  · exact hs
  · dsimp only
    split
    · exact fst_wf ‹_› (homeFrame_wf (Emission.fetchBytes_frame ..) hs)
    · split
      · exact fst_wf ‹_› (homeFrame_wf (Emission.fetchBytes_frame ..) hs)
      · exact fst_wf ‹_› (homeFrame_wf (Emission.fetchBytes_frame ..) hs)

theorem record_wf {s w} (hs : s.wf = true) : (record s w).wf = true :=
  modMe_wf hs

theorem closeRun_wf {s t n w play} (hs : s.wf = true) : (closeRun s t n w play).wf = true :=
  modStr_wf hs

theorem captureAll_wf {s fid cmask e} (hs : s.wf = true) : (captureAll s fid cmask e).1.wf = true :=
  foldlPair_wf hs fun (u, e) m hu => by
    have hc := captureOn_plane e (u.clu (u.pidOf fid m))
    dsimp only
    split
    · rename_i c k heq
      rw [heq] at hc
      exact setClu_wf hu (hc ▸ plane_wf hu _)
    · exact hu

theorem reserve_wf {s t n st e} (hs : s.wf = true) : (reserve s t n st e).wf = true := by
  unfold reserve
  split
  · dsimp only
    exact modThr_wf hs
  · split
    · dsimp only
      exact modThr_wf hs
    · exact hs

theorem enterWord_wf {s t n e play} (hs : s.wf = true) : (enterWord s t n e play).wf = true := by
  unfold enterWord
  dsimp only
  exact modStr_wf (reserve_wf (captureAll_wf hs))

theorem execLaneWordEmit_lands {p : Prop} {w s} (hs : p → s.wf = true) : Lands p (execLaneWordEmit w s) := by
  unfold execLaneWordEmit
  split
  · exact lands_next hs
  · split
    · exact trap_lands hs
    · dsimp only
      split
      · exact trap_lands hs
      · exact trap_lands (fun hp => fst_wf ‹_› (trailerNext_wf (hs hp)))
      · split
        · exact trap_lands (fun hp => fst_wf ‹_› (trailerNext_wf (hs hp)))
        · split
          · exact lands_next fun hp => advance_wf (record_wf (closeRun_wf (fst_wf ‹_› (trailerNext_wf (hs hp)))))
          · split
            · exact trap_lands (fun hp => fst_wf ‹_› (trailerNext_wf (hs hp)))
            · split
              · exact trap_lands (fun hp => fst_wf ‹_› (trailerNext_wf (hs hp)))
              · split
                · exact afterStall_lands (fun hp => fst_wf ‹_› (trailerNext_wf (hs hp))) (fun _ hu => lands_next fun hp => advance_wf
                      (record_wf (enterWord_wf (hu hp))))
                · exact lands_next fun hp => advance_wf (record_wf (enterWord_wf (fst_wf ‹_› (trailerNext_wf (hs hp)))))

theorem rejoin_wf {s pid pipe p} (hs : s.wf = true) : (rejoin s pid pipe p).wf = true := by
  unfold rejoin
  split
  · exact modPurse_wf hs
  · exact hs

theorem execRunStart_lands {p : Prop} {pid pipe s} (hs : p → s.wf = true) : Lands p (execRunStart pid pipe s) := by
  unfold execRunStart
  dsimp only
  split
  · exact lands_next hs
  · split
    · exact lands_next fun hp => rollSpend_wf (hs hp)
    · exact lands_next fun hp => rejoin_wf (place_wf (ite_wf (modGrp_wf (modClu_wf (rollSpend_wf (hs hp)) fun _ hc => hc)) (modClu_wf
          (rollSpend_wf (hs hp)) fun _ hc => hc)))

theorem execCurveTableLoadFinish_lands {p : Prop} {pid tbl bank s} (hs : p → s.wf = true) : Lands p
    (execCurveTableLoadFinish pid tbl bank s) := by
  unfold execCurveTableLoadFinish
  split
  · exact lands_next hs
  · split
    · exact lands_next hs
    · dsimp only
      exact lands_next fun hp => modClu_wf (modClu_wf (hs hp) fun _ hc => hc) fun _ hc => hc

theorem chunkPa_wf {s pages fin pid ctx a6 acc} (hs : s.wf = true) : (chunkPa s pages fin pid ctx a6 acc).1.wf = true := by
  unfold chunkPa
  split
  · exact hs
  · exact homeFrame_wf (translate_frame ..) hs

theorem resolve_wf {s pages fin t pid sp a7 acc} (hs : s.wf = true) : (resolve s pages fin t pid sp a7 acc).1.wf = true := by
  unfold resolve
  dsimp only
  split
  · split
    · exact fst_wf ‹_› (chunkPa_wf hs)
    · exact fst_wf ‹_› (chunkPa_wf hs)
  · split
    · exact hs
    · split
      · exact hs
      · split
        · exact fst_wf ‹_› (chunkPa_wf hs)
        · exact fst_wf ‹_› (chunkPa_wf hs)
  · exact hs

theorem readEntries_wf {pid upto a3 a4 a5} (ha4 : a4.wf = true) : (readEntries pid upto a3 a4 a5).1.wf = true := by
  unfold readEntries
  split
  · exact ha4
  · dsimp only
    split
    · exact ha4
    · split
      · exact fst_wf ‹_› (resolve_wf ha4)
      · split
        · exact fst_wf ‹_› (homeFrame_wf (Completion.localReady_frame ..) (fst_wf ‹_› (resolve_wf ha4)))
        · split
          · exact fst_wf ‹_› (homeFrame_wf (Completion.localReady_frame ..) (fst_wf ‹_› (resolve_wf ha4)))
          · exact readEntries_wf (fst_wf ‹_› (homeFrame_wf (Completion.localReady_frame ..) (fst_wf ‹_› (resolve_wf ha4))))

theorem askBehind_wf {s pid q e} (hs : s.wf = true) : (askBehind s pid q e).wf = true := by
  unfold askBehind
  dsimp only
  exact foldl_wf hs fun u _ hu => ite_wf hu (deny_wf hu)

theorem faultHead_wf {s pid q k c a6 i} (hs : s.wf = true) : (faultHead s pid q k c a6 i).wf = true :=
  modHead_wf (dropAsks_wf hs)

theorem readLoc_wf {s t l n} (hs : s.wf = true) : (readLoc s t l n).1.wf = true := by
  unfold readLoc
  split
  · split
    · exact hs
    · split
      · exact homeFrame_wf (l2Touch_frame ..) (fst_wf ‹_› (homeFrame_wf (readAtHome_frame ..) hs))
  · exact stashRead_wf hs
  · exact hs
  · exact hs

theorem startSegs_wf {pid e a3 a4 a5} (ha4 : a4.wf = true) : (startSegs pid e a3 a4 a5).1.wf = true := by
  unfold startSegs
  split
  · exact ha4
  · split
    · split
      · refine fst_wf ‹_› ?_
        split
        · exact ha4
        · split
          · exact fst_wf ‹_› (resolve_wf ha4)
          · split
            · exact fst_wf ‹_› (readLoc_wf (fst_wf ‹_› (resolve_wf ha4)))
            · exact fst_wf ‹_› (readLoc_wf (fst_wf ‹_› (resolve_wf ha4)))
      · split
        · refine fst_wf ‹_› (resolve_wf (fst_wf ‹_› ?_))
          split
          · exact ha4
          · split
            · exact fst_wf ‹_› (resolve_wf ha4)
            · split
              · exact fst_wf ‹_› (readLoc_wf (fst_wf ‹_› (resolve_wf ha4)))
              · exact fst_wf ‹_› (readLoc_wf (fst_wf ‹_› (resolve_wf ha4)))
        · split
          · refine fst_wf ‹_› (startSegs_wf (fst_wf ‹_› (resolve_wf (fst_wf ‹_› ?_))))
            split
            · exact ha4
            · split
              · exact fst_wf ‹_› (resolve_wf ha4)
              · split
                · exact fst_wf ‹_› (readLoc_wf (fst_wf ‹_› (resolve_wf ha4)))
                · exact fst_wf ‹_› (readLoc_wf (fst_wf ‹_› (resolve_wf ha4)))
          · refine fst_wf ‹_› (startSegs_wf (fst_wf ‹_› (resolve_wf (fst_wf ‹_› ?_))))
            split
            · exact ha4
            · split
              · exact fst_wf ‹_› (resolve_wf ha4)
              · split
                · exact fst_wf ‹_› (readLoc_wf (fst_wf ‹_› (resolve_wf ha4)))
                · exact fst_wf ‹_› (readLoc_wf (fst_wf ‹_› (resolve_wf ha4)))

theorem execCopyChunkStart_lands {p : Prop} {pid q s} (hs : p → s.wf = true) : Lands p (execCopyChunkStart pid q s) := by
  unfold execCopyChunkStart
  dsimp only
  split
  · exact lands_next hs
  · split
    · exact lands_next hs
    · split
      · split
        · exact lands_next fun hp => modHead_wf (readEntries_wf (hs hp))
        · split
          · exact lands_next fun hp => askBehind_wf (modHead_wf (fst_wf ‹_› (pay_wf (readEntries_wf (hs hp)))))
          · split
            · exact lands_next fun hp => faultHead_wf (modHead_wf (progress_wf (fst_wf ‹_› (pay_wf (readEntries_wf (hs hp))))))
            · split
              · exact lands_next fun hp => faultHead_wf (modHead_wf (fst_wf ‹_› (startSegs_wf (progress_wf (fst_wf ‹_› (pay_wf
                    (readEntries_wf (hs hp))))))))
              · exact lands_next fun hp => modHead_wf (fst_wf ‹_› (startSegs_wf (progress_wf (fst_wf ‹_› (pay_wf (readEntries_wf
                    (hs hp)))))))
      · split
        · exact lands_next fun hp => modHead_wf (hs hp)
        · split
          · exact lands_next fun hp => askBehind_wf (modHead_wf (fst_wf ‹_› (pay_wf (hs hp))))
          · split
            · exact lands_next fun hp => faultHead_wf (modHead_wf (progress_wf (fst_wf ‹_› (pay_wf (hs hp)))))
            · split
              · exact lands_next fun hp => faultHead_wf (modHead_wf (fst_wf ‹_› (startSegs_wf (progress_wf (fst_wf ‹_› (pay_wf (hs hp)))))))
              · exact lands_next fun hp => modHead_wf (fst_wf ‹_› (startSegs_wf (progress_wf (fst_wf ‹_› (pay_wf (hs hp))))))

theorem sampleSegs_wf {pid e pages a4 a5 a6} (ha5 : a5.wf = true) : (sampleSegs pid e pages a4 a5 a6).1.wf = true := by
  unfold sampleSegs
  split
  · exact ha5
  · split
    · dsimp only
      refine sampleSegs_wf (fst_wf ‹_› ?_)
      split
      · exact ha5
      · split
        · exact fst_wf ‹_› (resolve_wf ha5)
        · exact readLoc_wf (fst_wf ‹_› (resolve_wf ha5))

theorem setChunk_wf {s pid q c} (hs : s.wf = true) : (setChunk s pid q c).wf = true :=
  modHead_wf hs

theorem writeLoc_wf {s t pid sp cls l bs} (hs : s.wf = true) : (writeLoc s t pid sp cls l bs).1.wf = true := by
  unfold writeLoc
  split
  · split
    · exact homeFrame_wf (reelTouch_frame ..) (fst_wf ‹_› (homeFrame_wf (writeAtHome_frame ..) (noteRaces_wf (homeFrame_wf
          (l2Touch_frame ..) hs))))
  · dsimp only
    split
    · exact fst_wf ‹_› (stashWrite_wf (homeFrame_wf (reelTouch_frame ..) (noteRaces_wf hs)))
    · exact fst_wf ‹_› (stashWrite_wf (homeFrame_wf (reelTouch_frame ..) (noteRaces_wf hs)))
  · exact localWrite_wf hs
  · exact planeWrite_wf hs

theorem writeSeg_wf {s pid e c g ps} (hs : s.wf = true) : (writeSeg s pid e c g ps).1.wf = true := by
  unfold writeSeg
  split
  · exact fst_wf ‹_› (resolve_wf hs)
  · dsimp only
    split
    · exact writeLoc_wf (fst_wf ‹_› (resolve_wf hs))
    · refine foldlPair_wf (fst_wf ‹_› (resolve_wf hs)) fun x _ hx => ?_
      split
      · exact fst_wf ‹_› (resolve_wf hx)
      · exact writeLoc_wf (fst_wf ‹_› (resolve_wf hx))

theorem writeSome_wf {s pid e c} (hs : s.wf = true) : (writeSome s pid e c).1.wf = true :=
  foldlPair_wf hs fun (u, k) g hu => by
    dsimp only
    split
    · exact hu
    · exact writeSeg_wf hu

theorem execCopyChunkWrite_lands {p : Prop} {pid q s} (hs : p → s.wf = true) : Lands p (execCopyChunkWrite pid q s) := by
  unfold execCopyChunkWrite
  split
  · exact lands_next hs
  · split
    · exact lands_next hs
    · split
      · exact lands_next hs
      · split
        · split
          · dsimp only
            exact lands_next fun hp => setChunk_wf (fst_wf ‹_› (sampleSegs_wf (hs hp)))
        · split
          · exact lands_next fun hp => setChunk_wf (fst_wf ‹_› (writeSome_wf (hs hp)))

theorem countLanded_wf {s e n} (hs : s.wf = true) : (countLanded s e n).wf = true := by
  unfold countLanded
  split
  · exact countBytes_wf hs
  · exact hs

theorem landSaved_wf {s pid q} (hs : s.wf = true) : (landSaved s pid q).wf = true := by
  obtain ⟨_, _, _, _, hi⟩ := wf_iff.1 hs
  refine foldlMem_state hs (P := fun f => savedWf f.2.saved = true) (fun f hf => listed_saved_wf hs hf) fun u f hu hf => ?_
  split
  · exact hu
  · refine foldl_wf hu fun v m hv => ?_
    split
    · rename_i heq
      obtain ⟨w, hw, hx⟩ := Option.bind_eq_some_iff.1 heq
      obtain ⟨x, _, hx⟩ := Option.bind_eq_some_iff.1 hx
      obtain ⟨r, _, hr⟩ := Option.map_eq_some_iff.1 hx
      have hw : w.plane.wf = true := plane_of_getElem? hf hw
      obtain ⟨rfl, -, -⟩ := Prod.mk.inj hr |>.imp_right Prod.mk.inj
      exact modFlk_wf (progress_wf (countLanded_wf hv)) fun y hy => savedWf_setAt hy hw
    · exact hv

theorem execCopyChunkLand_lands {p : Prop} {pid q s} (hs : p → s.wf = true) : Lands p (execCopyChunkLand pid q s) := by
  unfold execCopyChunkLand
  dsimp only
  split
  · exact lands_next fun hp => landSaved_wf (popFences_wf (hs hp))
  · exact lands_next fun hp => popFences_wf (setCopyQ_wf (progress_wf (countLanded_wf (landSaved_wf (popFences_wf (hs hp))))))

theorem execCopyChunkFault_lands {p : Prop} {pid q s} (hs : p → s.wf = true) : Lands p (execCopyChunkFault pid q s) := by
  unfold execCopyChunkFault
  dsimp only
  split
  · exact lands_next hs
  · split
    · exact lands_next hs
    · split
      · exact lands_next hs
      · split
        · exact lands_next fun hp => setCopyQ_wf (hs hp)
        · exact lands_next fun hp => raiseTrap_wf (modHead_wf (setCopyQ_wf (homeFrame_wf (faultRecord_frame ..) (hs hp))))

theorem execCodebookLoadFinish_lands {p : Prop} {pid bank s} (hs : p → s.wf = true) : Lands p (execCodebookLoadFinish pid bank s) := by
  unfold execCodebookLoadFinish
  split
  · exact lands_next hs
  · split
    · dsimp only
      exact lands_next fun hp => ite_wf (modClu_wf (homeFrame_wf (Completion.localReady_frame ..) (hs hp)) fun _ hc => hc)
          (homeFrame_wf (Completion.localReady_frame ..) (hs hp))
    · split
      · exact lands_next hs
      · exact lands_next fun hp => modClu_wf (hs hp) fun _ hc => hc

theorem modMqHead_wf {s pid f} (hs : s.wf = true) : (modMqHead s pid f).wf = true :=
  modClu_wf hs fun _ hc => hc

theorem execYokeLatchComplete_lands {p : Prop} {fid members s} (hs : p → s.wf = true) : Lands p (execYokeLatchComplete fid members s) := by
  unfold execYokeLatchComplete
  dsimp only
  split
  · exact lands_next hs
  · split
    · exact lands_next hs
    · split
      · exact lands_next fun hp => foldl_wf (hs hp) fun u _ hu => modMqHead_wf hu
      · refine lands_next fun hp => foldl_wf (foldl_wf (hs hp) fun u _ hu => releaseCode_wf (modClu_wf hu fun _ hc => hc)) fun u _ hu => ?_
        split
        · exact raiseTrap_wf hu
        · exact hu

theorem multicastA_wf {s e} (hs : s.wf = true) : (multicastA s e).wf = true :=
  ite_wf hs (mapClus_wf hs fun _ _ => rfl)

theorem refreshArray_wf {s pid} (hs : s.wf = true) : (refreshArray s pid).wf = true := by
  unfold refreshArray
  dsimp only
  exact foldl_wf (modClu_wf hs fun _ hc => hc) fun u _ hu => multicastA_wf hu

theorem startHead_wf {s pid m} (hs : s.wf = true) : (startHead s pid m).wf = true := by
  unfold startHead
  split
  · exact hs
  · dsimp only
    exact progress_wf (modClu_wf hs fun _ hc => hc)

theorem execMatrixEntryStart_lands {p : Prop} {pid s} (hs : p → s.wf = true) : Lands p (execMatrixEntryStart pid s) := by
  unfold execMatrixEntryStart
  dsimp only
  split
  · exact lands_next fun hp => refreshArray_wf (hs hp)
  · split
    · exact lands_next fun hp => refreshArray_wf (hs hp)
    · split
      · split
        · exact lands_next fun hp => refreshArray_wf (hs hp)
        · split
          · exact lands_next fun hp => startHead_wf (refreshArray_wf (hs hp))
          · split
            · exact lands_next fun hp => foldl_wf (modMqHead_wf (refreshArray_wf (hs hp))) fun u _ hu => startHead_wf hu
            · exact lands_next fun hp => modMqHead_wf (refreshArray_wf (hs hp))
      · split
        · exact lands_next fun hp => pay_wf (refreshArray_wf (hs hp))
        · split
          · exact lands_next fun hp => startHead_wf (pay_wf (refreshArray_wf (hs hp)))
          · split
            · exact lands_next fun hp => foldl_wf (modMqHead_wf (pay_wf (refreshArray_wf (hs hp)))) fun u _ hu => startHead_wf hu
            · exact lands_next fun hp => modMqHead_wf (pay_wf (refreshArray_wf (hs hp)))

theorem execTrl_lands {p : Prop} {x s} (hs : p → s.wf = true) : Lands p (execTrl x s) := by
  unfold execTrl
  exact execLaneWordEmit_lands hs

theorem execGeneratorResultArrival_lands {p : Prop} {fid clu t reg s} (hs : p → s.wf = true) : Lands p
    (execGeneratorResultArrival fid clu t reg s) := by
  unfold execGeneratorResultArrival
  dsimp only
  split
  · exact lands_next hs
  · split
    · exact lands_next fun hp => modThr_wf (hs hp)
    · split
      · split
        · exact lands_next fun hp => progressOp_wf (hs hp)
        · exact lands_next hs
      · exact lands_next hs
    · exact lands_next fun hp => settleMaskRd_wf (hs hp)
    · exact lands_next hs
    · exact lands_next hs

theorem execVoteEntryPresent_lands {p : Prop} {fid clu t s} (hs : p → s.wf = true) : Lands p (execVoteEntryPresent fid clu t s) := by
  unfold execVoteEntryPresent
  dsimp only
  split
  · exact lands_next hs
  · split
    · exact lands_next hs
    · split
      · exact lands_next fun hp => modThr_wf (hs hp)
      · exact lands_next fun hp => modThr_wf (hs hp)

theorem execUniResultArrival_lands {p : Prop} {fid clu t reg s} (hs : p → s.wf = true) : Lands p
    (execUniResultArrival fid clu t reg s) := by
  unfold execUniResultArrival
  dsimp only
  split
  · exact lands_next hs
  · split
    · split
      · exact lands_next fun hp => raiseTrap_wf (modThr_wf (hs hp))
      · exact lands_next fun hp => modThr_wf (modThr_wf (hs hp))
    · exact lands_next hs

theorem loadReel_wf {s t n p} (hs : s.wf = true) : (loadReel s t n p).wf = true := by
  unfold loadReel
  dsimp only
  refine modStr_wf ?_
  split
  · exact modClu_wf hs fun _ hc => hc
  · exact hs

theorem playEnded_wf {s t n} (hs : s.wf = true) : (playEnded s t n).wf = true := by
  unfold playEnded
  dsimp only
  exact foldl_wf (modStr_wf (modThr_wf hs)) fun u _ hu => foldl_wf hu fun u1 _ hu1 => applyMasks_wf hu1

theorem stopPlay_wf {s t n p} (hs : s.wf = true) : (stopPlay s t n p).wf = true := by
  unfold stopPlay
  dsimp only
  refine playEnded_wf (ite_wf hs ?_)
  split
  · exact closeRun_wf hs
  · exact hs

theorem execReelPlayFeed_lands {p : Prop} {fid clu t str s} (hs : p → s.wf = true) : Lands p (execReelPlayFeed fid clu t str s) := by
  unfold execReelPlayFeed
  dsimp only
  split
  · exact lands_next hs
  · split
    · exact lands_next hs
    · split
      · exact lands_next fun hp => loadReel_wf (hs hp)
      · split
        · exact lands_next fun hp => playEnded_wf (hs hp)
        · split
          · exact lands_next fun hp => raiseTrap_wf (stopPlay_wf (hs hp))
          · split
            · exact lands_next fun hp => playEnded_wf (ite_wf (closeRun_wf (hs hp)) (enterWord_wf (hs hp)))
            · exact lands_next fun hp => modStr_wf (ite_wf (closeRun_wf (hs hp)) (enterWord_wf (hs hp)))

theorem execBoundaryTrap_lands {p : Prop} {fid clu t s} (hs : p → s.wf = true) : Lands p (execBoundaryTrap fid clu t s) := by
  unfold execBoundaryTrap
  dsimp only
  split
  · exact lands_next hs
  · split
    · exact lands_next fun hp => fst_wf ‹_› (stopDue_wf (hs hp))
    · exact lands_next fun hp => takeHeld_wf (fst_wf ‹_› (stopDue_wf (hs hp)))

theorem execThreadEnd_lands {p : Prop} {fid clu t s} (hs : p → s.wf = true) : Lands p (execThreadEnd fid clu t s) := by
  unfold execThreadEnd
  dsimp only
  split
  · exact lands_next fun hp => modThr_wf (hs hp)
  · exact lands_next hs

theorem execTableWalk_lands {p : Prop} {pid ctx va s} (hs : p → s.wf = true) : Lands p (execTableWalk pid ctx va s) := by
  unfold execTableWalk
  dsimp only
  split
  · exact lands_next hs
  · exact lands_next fun hp => homeFrame_wf (leafFor_frame ..) (hs hp)

theorem execLeaseGrant_lands {p : Prop} {pid _ctx pa s} (hs : p → s.wf = true) : Lands p (execLeaseGrant pid _ctx pa s) := by
  unfold execLeaseGrant
  split
  · split
    · exact lands_next fun hp => homeFrame_wf (l1Grant_frame ..) (hs hp)
    · exact lands_next hs
  · exact lands_next hs

theorem modL1Sec_wf {s pid pa f} (hs : s.wf = true) : (modL1Sec s pid pa f).wf = true :=
  modClu_wf hs fun _ hc => hc

theorem execLeaseExpiry_lands {p : Prop} {pid pa s} (hs : p → s.wf = true) : Lands p (execLeaseExpiry pid pa s) := by
  unfold execLeaseExpiry
  split
  · split
    · exact lands_next fun hp => modL1Sec_wf (hs hp)
    · exact lands_next hs
  · exact lands_next hs

theorem execHomeWritePerform_lands {p : Prop} {id s} (hs : p → s.wf = true) : Lands p (execHomeWritePerform id s) := by
  unfold execHomeWritePerform
  split
  · split
    · exact lands_next fun hp => progressOp_wf (hs hp)
    · exact lands_next hs
  · exact lands_next hs

theorem execStashOwnershipGrant_lands {p : Prop} {pid va s} (hs : p → s.wf = true) : Lands p (execStashOwnershipGrant pid va s) := by
  unfold execStashOwnershipGrant
  split
  · exact lands_next hs
  · dsimp only
    split
    · split
      · exact lands_next hs
      · exact lands_next fun hp => homeFrame_wf (setSector_frame ..) (modHome_wf (homeFrame_wf (l2Touch_frame ..) (homeFrame_wf
            (obtain_frame ..) (homeFrame_wf (oweSector_frame ..) (atHome_wf (hs hp))))))
    · exact lands_next hs

theorem stashFill_wf {s pid e k pa ot touched} (hs : s.wf = true) : (stashFill s pid e k pa ot touched).wf = true := by
  unfold stashFill
  dsimp only
  exact homeFrame_wf (setSector_frame ..) (localWrite_wf hs)

theorem execSectorFillLand_lands {p : Prop} {pid pa s} (hs : p → s.wf = true) : Lands p (execSectorFillLand pid pa s) := by
  unfold execSectorFillLand
  dsimp only
  split
  · exact lands_next fun hp => modL1Sec_wf (hs hp)
  · split
    · exact lands_next fun hp => stashFill_wf (hs hp)
    · exact lands_next fun hp => modClu_wf (hs hp) fun _ hc => hc

theorem execStashRecall_lands {p : Prop} {pa s} (hs : p → s.wf = true) : Lands p (execStashRecall pa s) := by
  unfold execStashRecall
  split
  · exact lands_next fun hp => homeFrame_wf (recallSector_frame ..) (hs hp)
  · exact lands_next hs

theorem uoRefuse_wf {s pid line u} (hs : s.wf = true) : (uoRefuse s pid line u).wf = true := by
  unfold uoRefuse
  split
  · exact modClu_wf (homeFrame_wf (owe_frame ..) (fst_wf ‹_› (homeFrame_wf (applyVals_frame ..) (atHome_wf hs)))) fun _ hc => hc

theorem execUpdateOnlyGrant_lands {p : Prop} {pid line room s} (hs : p → s.wf = true) : Lands p (execUpdateOnlyGrant pid line room s) := by
  unfold execUpdateOnlyGrant
  split
  · exact lands_next hs
  · dsimp only
    split
    · exact lands_next hs
    · split
      · exact lands_next fun hp => uoRefuse_wf (foldl_wf (hs hp) fun u _ hu => homeFrame_wf (recallSector_frame ..) hu)
      · exact lands_next fun hp => modClu_wf (modHome_wf (homeFrame_wf (owe_frame ..) (ite_wf (homeFrame_wf (combine_frame ..) (foldl_wf
            (hs hp) fun u _ hu => homeFrame_wf (recallSector_frame ..) hu)) (foldl_wf (hs hp) fun u _ hu => homeFrame_wf
            (recallSector_frame ..) hu)))) fun _ hc => hc

theorem execUpdateOnlyCombine_lands {p : Prop} {line s} (hs : p → s.wf = true) : Lands p (execUpdateOnlyCombine line s) := by
  unfold execUpdateOnlyCombine
  split
  · exact lands_next fun hp => homeFrame_wf (combine_frame ..) (hs hp)
  · exact lands_next hs

theorem snoopLine_wf {s pa} (hs : s.wf = true) : (snoopLine s pa).wf = true := by
  unfold snoopLine
  dsimp only
  refine modHome_wf (modClu_wf (homeFrame_wf (l1EndLease_frame _ _) ?_) fun _ hc => hc)
  exact foldl_wf hs fun u k hu => homeFrame_wf (recallSector_frame ..) hu

theorem hostByte_wf {s wr pa data} (hs : s.wf = true) : (hostByte s wr pa data).wf = true := by
  unfold hostByte
  dsimp only
  split
  · exact holdIf_wf hs
  · split
    · exact modHome_wf (ite_wf (homeFrame_wf (writeAtHome_frame ..) (noteRaces_wf (holdIf_wf hs))) (homeFrame_wf (readAtHome_frame ..)
          (holdIf_wf hs)))
    · split
      · exact homeFrame_wf (homeWrite_frame ..) (noteRaces_wf (ite_wf (snoopLine_wf (holdIf_wf hs)) (holdIf_wf hs)))
      · split
        · exact snoopLine_wf (holdIf_wf hs)
        · exact holdIf_wf hs

theorem execHostCxlMemAccess_lands {p : Prop} {wr hpa len data s} (hs : p → s.wf = true)
    (hr : ¬(hpa < s.pkg.hb ∨ s.pkg.hb + devTop < hpa + len)) : Lands p (execHostCxlMemAccess wr hpa len data s) := by
  unfold execHostCxlMemAccess
  rw [if_neg hr]
  split
  · exact lands_next hs
  · exact lands_next fun hp => foldl_wf (hs hp) fun _ _ hu => hostByte_wf hu

theorem execCxlCacheSnoop_lands {p : Prop} {pa s} (hs : p → s.wf = true) : Lands p (execCxlCacheSnoop pa s) := by
  unfold execCxlCacheSnoop
  split
  · exact lands_next hs
  · exact lands_next fun hp => snoopLine_wf (hs hp)

theorem copyError_wf {s id} (hs : s.wf = true) : (copyError s id).wf = true := by
  unfold copyError
  dsimp only
  split
  · split
    · exact hs
    · exact faultHead_wf hs
  · refine mapFlks_wf hs fun _ x hx => ?_
    split
    · exact hx
    · refine savedWf_iff.2 fun v hv => ?_
      obtain ⟨m, _, hm⟩ := List.mem_filterMap.1 hv
      obtain ⟨w, hw, rfl⟩ := Option.map_eq_some_iff.1 hm
      exact plane_of_getElem? (v := w) hx hw

theorem postedError_wf {s o} (hs : s.wf = true) : (postedError s o).wf = true := by
  have h1 := ite_wf (c := (o.made.isNone && Config.freeBit s.tick 0) = true) (perform_wf (o := o) hs) hs
  unfold postedError
  dsimp only
  generalize (if (o.made.isNone && Config.freeBit s.tick 0) = true then perform s o else s) = u at h1 ⊢
  have h2 : (dropOp (noteWrite u o (gwctOf u o.pid o.pa)) o.id).wf = true := dropOp_wf (noteWrite_wf h1)
  exact ctxEvent_wf (ctxEvent_wf (faultRecord_wf h2))

theorem genReadError_wf {s o} (hs : s.wf = true) : (genReadError s o).wf = true := by
  unfold genReadError
  dsimp only
  exact takeTrap_wf (modThr_wf (dropOp_wf hs))

theorem laneReadError_wf {s o} (hs : s.wf = true) : (laneReadError s o).wf = true := by
  unfold laneReadError
  split
  · exact hs
  · split
    · dsimp only
      exact parkLanes_wf (focusWord_wf (clearOut_wf hs))

theorem cxlFail_wf {s id} (hs : s.wf = true) : (cxlFail s id).wf = true := by
  unfold cxlFail
  split
  · exact copyError_wf hs
  · dsimp only
    split
    · split
      · exact hs
      · split
        · exact postedError_wf hs
        · split
          · exact genReadError_wf hs
          · exact hs
        · exact laneReadError_wf hs
    · split
      · exact hs
      · split
        · exact postedError_wf hs
        · split
          · exact genReadError_wf hs
          · exact hs
        · exact laneReadError_wf hs

theorem execCxlerr_lands {p : Prop} {id s} (hs : p → s.wf = true) : Lands p (execCxlerr id s) := by
  unfold execCxlerr
  exact lands_next fun hp => cxlFail_wf (hs hp)

theorem execCxlCompletionTimeout_lands {p : Prop} {id s} (hs : p → s.wf = true) : Lands p (execCxlCompletionTimeout id s) := by
  unfold execCxlCompletionTimeout
  exact lands_next fun hp => cxlFail_wf (hs hp)

theorem execInstructionFill_lands {p : Prop} {pid fid va s} (hs : p → s.wf = true) : Lands p (execInstructionFill pid fid va s) := by
  unfold execInstructionFill
  dsimp only
  split
  · exact lands_next hs
  · exact lands_next fun hp => homeFrame_wf (Emission.icFill_frame ..) (hs hp)

theorem countEach_wf {s t h n} (hs : s.wf = true) : (countEach s t h n).wf = true :=
  foldl_wf hs fun u _ hu => countBytes_wf hu

theorem execPftTargetFill_lands {p : Prop} {pid id s} (hs : p → s.wf = true) : Lands p (execPftTargetFill pid id s) := by
  unfold execPftTargetFill
  split
  · exact lands_next hs
  · dsimp only
    split
    · exact lands_next hs
    · split
      · split
        · split
          · exact lands_next fun hp => homeFrame_wf (translate_frame ..) (hs hp)
          · split
            · refine lands_next fun hp => modClu_wf (progress_wf ?_) fun _ hc => hc
              split
              · exact countEach_wf (homeFrame_wf (translate_frame ..) (hs hp))
              · split
                · exact homeFrame_wf (translate_frame ..) (hs hp)
                · split
                  · exact homeFrame_wf (reelTouch_frame ..) (homeFrame_wf (l2Touch_frame ..) (homeFrame_wf (obtain_frame ..) (homeFrame_wf
                        (translate_frame ..) (hs hp))))
                  · exact planeWrite_wf (homeFrame_wf (l2Touch_frame ..) (homeFrame_wf (readAtHome_frame ..) (homeFrame_wf
                        (translate_frame ..) (hs hp))))
            · refine lands_next fun hp => ite_wf (countDrop_wf (modClu_wf (progress_wf ?_) fun _ hc => hc)) (modClu_wf (progress_wf ?_)
                  fun _ hc => hc)
              · split
                · exact countEach_wf (homeFrame_wf (translate_frame ..) (hs hp))
                · split
                  · exact homeFrame_wf (translate_frame ..) (hs hp)
                  · split
                    · exact homeFrame_wf (reelTouch_frame ..) (homeFrame_wf (l2Touch_frame ..) (homeFrame_wf (obtain_frame ..)
                          (homeFrame_wf (translate_frame ..) (hs hp))))
                    · exact planeWrite_wf (homeFrame_wf (l2Touch_frame ..) (homeFrame_wf (readAtHome_frame ..) (homeFrame_wf
                          (translate_frame ..) (hs hp))))
              · split
                · exact countEach_wf (homeFrame_wf (translate_frame ..) (hs hp))
                · split
                  · exact homeFrame_wf (translate_frame ..) (hs hp)
                  · split
                    · exact homeFrame_wf (reelTouch_frame ..) (homeFrame_wf (l2Touch_frame ..) (homeFrame_wf (obtain_frame ..)
                          (homeFrame_wf (translate_frame ..) (hs hp))))
                    · exact planeWrite_wf (homeFrame_wf (l2Touch_frame ..) (homeFrame_wf (readAtHome_frame ..) (homeFrame_wf
                          (translate_frame ..) (hs hp))))
        · split
          · exact lands_next fun hp => homeFrame_wf (translate_frame ..) (hs hp)
          · split
            · refine lands_next fun hp => modClu_wf (progress_wf ?_) fun _ hc => hc
              split
              · exact countEach_wf (ite_wf (homeFrame_wf (reelTouch_frame ..) (homeFrame_wf (l2Touch_frame ..) (homeFrame_wf
                    (obtain_frame ..) (homeFrame_wf (translate_frame ..) (hs hp))))) (planeWrite_wf (homeFrame_wf (l2Touch_frame ..)
                    (homeFrame_wf (readAtHome_frame ..) (homeFrame_wf (translate_frame ..) (hs hp))))))
              · split
                · exact homeFrame_wf (translate_frame ..) (hs hp)
                · split
                  · exact homeFrame_wf (reelTouch_frame ..) (homeFrame_wf (l2Touch_frame ..) (homeFrame_wf (obtain_frame ..) (homeFrame_wf
                        (translate_frame ..) (hs hp))))
                  · exact planeWrite_wf (homeFrame_wf (l2Touch_frame ..) (homeFrame_wf (readAtHome_frame ..) (homeFrame_wf
                        (translate_frame ..) (hs hp))))
            · refine lands_next fun hp => ite_wf (countDrop_wf (modClu_wf (progress_wf ?_) fun _ hc => hc)) (modClu_wf (progress_wf ?_)
                  fun _ hc => hc)
              · split
                · exact countEach_wf (ite_wf (homeFrame_wf (reelTouch_frame ..) (homeFrame_wf (l2Touch_frame ..) (homeFrame_wf
                      (obtain_frame ..) (homeFrame_wf (translate_frame ..) (hs hp))))) (planeWrite_wf (homeFrame_wf (l2Touch_frame ..)
                      (homeFrame_wf (readAtHome_frame ..) (homeFrame_wf (translate_frame ..) (hs hp))))))
                · split
                  · exact homeFrame_wf (translate_frame ..) (hs hp)
                  · split
                    · exact homeFrame_wf (reelTouch_frame ..) (homeFrame_wf (l2Touch_frame ..) (homeFrame_wf (obtain_frame ..)
                          (homeFrame_wf (translate_frame ..) (hs hp))))
                    · exact planeWrite_wf (homeFrame_wf (l2Touch_frame ..) (homeFrame_wf (readAtHome_frame ..) (homeFrame_wf
                          (translate_frame ..) (hs hp))))
              · split
                · exact countEach_wf (ite_wf (homeFrame_wf (reelTouch_frame ..) (homeFrame_wf (l2Touch_frame ..) (homeFrame_wf
                      (obtain_frame ..) (homeFrame_wf (translate_frame ..) (hs hp))))) (planeWrite_wf (homeFrame_wf (l2Touch_frame ..)
                      (homeFrame_wf (readAtHome_frame ..) (homeFrame_wf (translate_frame ..) (hs hp))))))
                · split
                  · exact homeFrame_wf (translate_frame ..) (hs hp)
                  · split
                    · exact homeFrame_wf (reelTouch_frame ..) (homeFrame_wf (l2Touch_frame ..) (homeFrame_wf (obtain_frame ..)
                          (homeFrame_wf (translate_frame ..) (hs hp))))
                    · exact planeWrite_wf (homeFrame_wf (l2Touch_frame ..) (homeFrame_wf (readAtHome_frame ..) (homeFrame_wf
                          (translate_frame ..) (hs hp))))
      · split
        · exact lands_next fun hp => homeFrame_wf (translate_frame ..) (hs hp)
        · split
          · refine lands_next fun hp => modClu_wf (progress_wf ?_) fun _ hc => hc
            split
            · exact countEach_wf (homeFrame_wf (translate_frame ..) (hs hp))
            · split
              · exact homeFrame_wf (translate_frame ..) (hs hp)
              · split
                · exact homeFrame_wf (reelTouch_frame ..) (homeFrame_wf (l2Touch_frame ..) (homeFrame_wf (obtain_frame ..) (homeFrame_wf
                      (translate_frame ..) (hs hp))))
                · exact planeWrite_wf (homeFrame_wf (l2Touch_frame ..) (homeFrame_wf (readAtHome_frame ..) (homeFrame_wf
                      (translate_frame ..) (hs hp))))
          · refine lands_next fun hp => ite_wf (countDrop_wf (modClu_wf (progress_wf ?_) fun _ hc => hc)) (modClu_wf (progress_wf ?_)
                fun _ hc => hc)
            · split
              · exact countEach_wf (homeFrame_wf (translate_frame ..) (hs hp))
              · split
                · exact homeFrame_wf (translate_frame ..) (hs hp)
                · split
                  · exact homeFrame_wf (reelTouch_frame ..) (homeFrame_wf (l2Touch_frame ..) (homeFrame_wf (obtain_frame ..) (homeFrame_wf
                        (translate_frame ..) (hs hp))))
                  · exact planeWrite_wf (homeFrame_wf (l2Touch_frame ..) (homeFrame_wf (readAtHome_frame ..) (homeFrame_wf
                        (translate_frame ..) (hs hp))))
            · split
              · exact countEach_wf (homeFrame_wf (translate_frame ..) (hs hp))
              · split
                · exact homeFrame_wf (translate_frame ..) (hs hp)
                · split
                  · exact homeFrame_wf (reelTouch_frame ..) (homeFrame_wf (l2Touch_frame ..) (homeFrame_wf (obtain_frame ..) (homeFrame_wf
                        (translate_frame ..) (hs hp))))
                  · exact planeWrite_wf (homeFrame_wf (l2Touch_frame ..) (homeFrame_wf (readAtHome_frame ..) (homeFrame_wf
                        (translate_frame ..) (hs hp))))

theorem combineHomed_wf {s pid} (hs : s.wf = true) : (combineHomed s pid).wf = true :=
  foldl_wf hs fun u _ hu => homeFrame_wf (combine_frame ..) hu

theorem settleFrames_wf {s frames} (hs : s.wf = true) : (settleFrames s frames).wf = true :=
  mapClus_wf (foldl_wf hs fun u l hu => ite_wf hu (homeFrame_wf (combine_frame ..) hu)) fun _ _ => rfl

theorem takeBanks_wf {s w} (hs : s.wf = true) : (takeBanks s w).wf = true := by
  unfold takeBanks
  split
  · exact hs
  · dsimp only
    exact settleFrames_wf (foldl_wf hs fun u _ hu => modClu_wf (combineHomed_wf hu) fun _ hc => hc)

theorem startFill_wf {s ctx w} (hs : s.wf = true) : (startFill s ctx w).wf = true := by
  unfold startFill
  dsimp only
  split
  · exact hs
  · have h1 : (modWindow s ctx w.die w.va fun x => some (if x = w then { x with fill := false } else x)).wf = true := modWindow_wf hs
    exact modClu_wf h1 fun _ hc => hc

theorem execPinRehome_lands {p : Prop} {ctx die va s} (hs : p → s.wf = true) : Lands p (execPinRehome ctx die va s) := by
  unfold execPinRehome
  split
  · exact lands_next hs
  · dsimp only
    exact lands_next fun hp => startFill_wf (modWindow_wf (ite_wf (takeBanks_wf (hs hp)) (hs hp)))

theorem giveBanks_wf {s w} (hs : s.wf = true) : (giveBanks s w).wf = true := by
  unfold giveBanks
  split
  · exact hs
  · exact foldl_wf (settleFrames_wf hs) fun u _ hu => modClu_wf hu fun _ hc => hc

theorem windowGone_wf {s ctx w} (hs : s.wf = true) : (windowGone s ctx w).wf = true := by
  unfold windowGone
  dsimp only
  exact foldl_wf (modCtx_wf hs) fun u _ hu => giveBanks_wf hu

theorem execPinClrWriteback_lands {p : Prop} {ctx die va s} (hs : p → s.wf = true) : Lands p (execPinClrWriteback ctx die va s) := by
  unfold execPinClrWriteback
  split
  · exact lands_next hs
  · exact lands_next fun hp => windowGone_wf (hs hp)

theorem execInval_lands {p : Prop} {ctx count size s} (hs : p → s.wf = true) : Lands p (execInval ctx count size s) := by
  unfold execInval
  exact lands_next fun hp => xlStart_wf (hs hp)

theorem execInvalAll_lands {p : Prop} {ctx count size s} (hs : p → s.wf = true) : Lands p (execInvalAll ctx count size s) := by
  unfold execInvalAll
  exact lands_next fun hp => xlStart_wf (hs hp)

theorem execMigrate_lands {p : Prop} {ctx count size s} (hs : p → s.wf = true) : Lands p (execMigrate ctx count size s) := by
  unfold execMigrate
  exact lands_next fun hp => xlStart_wf (hs hp)

theorem execBiasHost_lands {p : Prop} {ctx count size s} (hs : p → s.wf = true) : Lands p (execBiasHost ctx count size s) := by
  unfold execBiasHost
  exact lands_next fun hp => xlStart_wf (hs hp)

theorem execBiasDev_lands {p : Prop} {ctx count size s} (hs : p → s.wf = true) : Lands p (execBiasDev ctx count size s) := by
  unfold execBiasDev
  exact lands_next fun hp => xlStart_wf (hs hp)

theorem xlEnd_wf {s ctx err} (hs : s.wf = true) : (xlEnd s ctx err).wf = true :=
  modCtx_wf hs

theorem copyPage_wf {s pa q n} (hs : s.wf = true) : (copyPage s pa q n).wf = true := by
  have h1 := homeFrame_wf (obtain_frame _ q n 2) (homeFrame_wf (obtain_frame _ pa n 1) (homeFrame_wf (Completion.cleanPage_frame s q n) hs))
  have h2 := foldl_wf (l := homesIn (obtain (obtain (cleanPage s q n) pa n 1) q n 2) q n)
    (f := fun s l => backInvalidate s (l * 256) 256) h1 fun _ _ hu => homeFrame_wf (backInvalidate_frame ..) hu
  exact foldl_wf (ofMem_wf h2 (foldlMem_wf (Mem.wf_clearRange _ _ _ (wf_iff.1 h2).1) fun _ _ hm => Mem.wf_write _ _ _ hm))
    fun _ _ hu => modHome_wf hu

theorem releaseLate_wf {s p q n} (hs : s.wf = true) : (releaseLate s p q n).wf = true := by
  unfold releaseLate
  dsimp only
  exact foldl_wf hs fun u _ hu => ite_wf (homeFrame_wf (writeAtHome_frame ..) hu) (homeFrame_wf (writeAtHome_frame ..) (homeFrame_wf
      (readAtHome_frame ..) hu))

theorem releaseTo_wf {s pa q n} (hs : s.wf = true) : (releaseTo s pa q n).wf = true := by
  obtain ⟨hm, hr, hl, hp, hi⟩ := wf_iff.1 hs
  exact releaseLate_wf (wf_iff.2 ⟨hm, hr, hl, planesWf_map hp fun _ hc => hc, imagesWf_map hi fun _ hx => hx⟩)

theorem migrateEnd_wf {s ctx r} (hs : s.wf = true) : (migrateEnd s ctx r).wf = true := by
  unfold migrateEnd
  dsimp only
  exact releaseTo_wf (dropLeaves_wf (homeFrame_wf (writeAtHome_frame ..) (homeFrame_wf (readEntry_frame ..) (holdIf_wf (copyPage_wf
      (modCtx_wf hs))))))

theorem setBias_wf {s k on} (hs : s.wf = true) : (setBias s k on).wf = true := by
  obtain ⟨hm, h⟩ := wf_iff.1 hs
  refine wf_iff.2 ⟨?_, h⟩
  unfold setBias
  dsimp only
  split
  · exact hm
  · exact Mem.wf_write _ _ _ hm

theorem pageToDev_wf {s p} (hs : s.wf = true) : (pageToDev s p).wf = true := by
  unfold pageToDev
  dsimp only
  exact setBias_wf (foldl_wf hs fun u _ hu => modHome_wf hu)

theorem pageToHost_wf {s k} (hs : s.wf = true) : (pageToHost s k).wf = true := by
  obtain ⟨hm, hr, hl, hp, hi⟩ := wf_iff.1 hs
  exact setBias_wf (wf_iff.2 ⟨hm, hr, hl, planesWf_map hp fun _ hc => hc, hi⟩)

theorem dirtyBack_wf {s pa} (hs : s.wf = true) : (dirtyBack s pa).wf = true := by
  unfold dirtyBack
  split
  · exact hs
  · split
    · exact hs
    · split
      · exact homeFrame_wf (recallSector_frame ..) hs
      · exact modHome_wf hs

theorem applyOwn_wf {s pa n} (hs : s.wf = true) : (applyOwn s pa n).wf = true :=
  foldl_wf hs fun u _ hu => foldl_wf hu fun u1 _ hu1 => homeFrame_wf (sendGathered_frame ..) hu1

theorem givePage_wf {s p} (hs : s.wf = true) : (givePage s p).wf = true := by
  unfold givePage
  dsimp only
  exact applyOwn_wf (foldl_wf hs fun u _ hu => foldl_wf (ite_wf hu (homeFrame_wf (combine_frame ..) hu)) fun u1 _ hu1 => dirtyBack_wf hu1)

theorem flip_wf {s toDev pa count} (hs : s.wf = true) : (Machine.flip s toDev pa count).wf = true := by
  unfold Machine.flip
  dsimp only
  split
  · exact foldl_wf hs fun u _ hu => pageToDev_wf hu
  · exact foldl_wf (foldl_wf hs fun u _ hu => givePage_wf hu) fun u _ hu => pageToHost_wf hu

theorem dropStash_wf {s ctx all lo n} (hs : s.wf = true) : (dropStash s ctx all lo n).wf = true :=
  foldl_wf hs fun u _ hu => modClu_wf (foldl_wf hu fun u1 _ hu1 => foldl_wf hu1 fun u2 _ hu2 => homeFrame_wf
      (evictSector_frame ..) hu2) fun _ hc => hc

theorem execXlcmdFinish_lands {p : Prop} {ctx s} (hs : p → s.wf = true) : Lands p (execXlcmdFinish ctx s) := by
  unfold execXlcmdFinish
  split
  · exact lands_next hs
  · split
    · exact lands_next fun hp => xlEnd_wf (hs hp)
    · split
      · exact lands_next fun hp => xlEnd_wf (migrateEnd_wf (hs hp))
      · exact lands_next fun hp => flip_wf (xlEnd_wf (hs hp))
      · exact lands_next fun hp => flip_wf (xlEnd_wf (hs hp))
      · dsimp only
        split
        · exact lands_next hs
        · exact lands_next fun hp => xlEnd_wf (dropStash_wf (hs hp))

theorem addRelease_wf {s fid k} (hs : s.wf = true) : (addRelease s fid k).wf = true := by
  unfold addRelease
  dsimp only
  exact barEvent_wf (setBar_wf hs)

theorem execDeferredStageOperation_lands {p : Prop} {fid clu t s} (hs : p → s.wf = true) : Lands p
    (execDeferredStageOperation fid clu t s) := by
  unfold execDeferredStageOperation
  dsimp only
  split
  · exact lands_next hs
  · split
    · split
      · exact lands_next fun hp => addRelease_wf (modThr_wf (hs hp))
      · split
        · exact lands_next fun hp => addArrivals_wf (modThr_wf (hs hp)) ‹_›
        · exact lands_next fun hp => raiseTrap_wf (modThr_wf (hs hp))
    · exact lands_next hs

theorem execBarWaitTimeout_lands {p : Prop} {fid clu t s} (hs : p → s.wf = true) : Lands p (execBarWaitTimeout fid clu t s) := by
  unfold execBarWaitTimeout
  dsimp only
  split
  · split
    · exact lands_next fun hp => modThr_wf (hs hp)
    · exact lands_next hs
  · exact lands_next hs

theorem execBardoor_lands {p : Prop} {ctx v s} (hs : p → s.wf = true) : Lands p (execBardoor ctx v s) := by
  unfold execBardoor
  dsimp only
  split
  · exact lands_next fun hp => modCtx_wf (hs hp)
  · refine lands_next fun hp => foldl_wf (hs hp) fun u _ hu => ?_
    split
    · exact progress_wf (addArrivals_wf hu ‹_›)
    · exact modCtx_wf hu

theorem loadQueue_wf {s q d} (hs : s.wf = true) : (loadQueue s q d).wf = true := by
  unfold loadQueue
  dsimp only
  exact modQue_wf hs

theorem qcmdDo_wf {s op q} (hs : s.wf = true) : (qcmdDo s op q).1.wf = true := by
  unfold qcmdDo
  split
  · exact hs
  · split
    · exact hs
    · split
      · exact hs
      · split
        · exact modQue_wf hs
        · split
          · exact hs
          · split
            · split
              · exact loadQueue_wf (fst_wf ‹_› (homeFrame_wf (readAtHome_frame ..) (holdIf_wf hs)))
              · exact fst_wf ‹_› (homeFrame_wf (readAtHome_frame ..) (holdIf_wf hs))

theorem qcmd_wf {s op q} (hs : s.wf = true) : (qcmd s op q).wf = true := by
  unfold qcmd
  split
  · exact modPkg_wf (fst_wf ‹_› (qcmdDo_wf hs)) fun _ hx => hx

theorem qcmdWrite_wf {s op q} (hs : s.wf = true) : (qcmdWrite s op q).wf = true := by
  unfold qcmdWrite
  split
  · exact hs
  · split
    · exact modPkg_wf hs fun _ hx => hx
    · exact qcmd_wf hs

theorem queueCommand_wf {s op q} (hs : s.wf = true) : (queueCommand s op q).wf = true := by
  unfold queueCommand
  split
  · exact qcmd_wf hs
  · exact qcmdWrite_wf hs

theorem execLoad_lands {p : Prop} {q s} (hs : p → s.wf = true) : Lands p (execLoad q s) := by
  unfold execLoad
  exact lands_next fun hp => queueCommand_wf (hs hp)

theorem execUnload_lands {p : Prop} {q s} (hs : p → s.wf = true) : Lands p (execUnload q s) := by
  unfold execUnload
  exact lands_next fun hp => queueCommand_wf (hs hp)

theorem complete_wf {s r pid status} (hs : s.wf = true) : (complete s r pid status).wf = true := by
  unfold complete
  dsimp only
  split
  · split
    · exact hs
    · exact modPkg_wf hs fun _ hx => hx
  · split
    · split
      · refine fst_wf ‹_› ?_
        split
        · exact homeFrame_wf (recStore_frame ..) hs
        · exact hs
      · refine modPkg_wf (fst_wf ‹_› ?_) fun _ hx => hx
        split
        · exact homeFrame_wf (recStore_frame ..) hs
        · exact hs
    · refine modCtx_wf (fst_wf ‹_› ?_)
      split
      · exact homeFrame_wf (recStore_frame ..) hs
      · exact hs

theorem execRecordParse_lands {p : Prop} {q s} (hs : p → s.wf = true) : Lands p (execRecordParse q s) := by
  unfold execRecordParse
  dsimp only
  split
  · exact lands_next hs
  · have h1 (hp : p) := homeFrame_wf (readAtHome_frame _ (slotAt (s.que q) (s.que q).h + 255) 1)
      (holdIf_wf (b := readHeld s (slotAt (s.que q) (s.que q).h)) (hs hp))
    split
    · exact lands_next hs
    · have h2 (hp : p) := homeFrame_wf (readAtHome_frame _ (slotAt (s.que q) (s.que q).h) 256) (h1 hp)
      split
      · exact lands_next fun hp => complete_wf (modCtx_wf (modQue_wf (h2 hp)))
      · split
        · exact lands_next fun hp => complete_wf (modCtx_wf (modQue_wf (h2 hp)))
        · exact lands_next fun hp => modQue_wf (h2 hp)

theorem coldCode_wf {s pid ctx} (hs : s.wf = true) : (coldCode s pid ctx).wf = true :=
  dropCode_wf hs

theorem freshCluster_wf {s pid ctx wplane} (hs : s.wf = true) : (freshCluster s pid ctx wplane).wf = true :=
  modClu_wf (ite_wf hs (combineHomed_wf hs)) fun _ _ => rfl

theorem takeClusters_wf {s ctx wplane set} (hs : s.wf = true) : (takeClusters s ctx wplane set).wf = true :=
  foldl_wf hs fun u _ hu => coldCode_wf (ite_wf (freshCluster_wf hu) hu)

theorem retakeSlots_wf {s set slots} (hs : s.wf = true) : (retakeSlots s set slots).wf = true := by
  unfold retakeSlots
  dsimp only
  exact hs

theorem coldCaches_wf {s pid ctx} (hs : s.wf = true) : (coldCaches s pid ctx).wf = true :=
  modClu_wf hs fun _ hc => hc

theorem restoreClu_wf {s fid m v fresh} (hs : s.wf = true) (hv : v.plane.wf = true) : (restoreClu s fid m v fresh).wf = true :=
  modClu_wf (ite_wf hs (modClu_wf hs fun _ _ => hv)) fun _ hc => hc

theorem mapWords_wf {s fid m f} (hs : s.wf = true) : (mapWords s fid m f).wf = true := by
  unfold mapWords
  dsimp only
  exact modClu_wf hs fun _ hc => hc

theorem rebindBanks_wf {s fid m old fresh} (hs : s.wf = true) : (rebindBanks s fid m old fresh).wf = true := by
  unfold rebindBanks
  dsimp only
  exact mapWords_wf (modClu_wf hs fun _ hc => hc)

theorem lateFault_wf {s o c} (hs : s.wf = true) : (lateFault s o c).wf = true := by
  unfold lateFault
  dsimp only
  refine raiseTrap_wf (modGrp_wf (faultRecord_wf (modFlk_wf (clearOut_wf ?_) fun _ hx => hx)))
  exact hs

theorem restoreOps_wf {s fid} (hs : s.wf = true) : (restoreOps s fid).wf = true := by
  have back (u : State) (ops : List MemOp) (hu : u.wf = true) : { u with ops := ops }.wf = true := hu
  refine modFlk_wf (foldl_wf hs fun u o hu => ?_) fun _ hx => hx
  dsimp only
  split
  · exact hu
  · split
    · split
      · exact back _ _ (fst_wf ‹_› (homeFrame_wf (translate_frame ..) hu))
      · have ht := fst_wf ‹_› (homeFrame_wf (translate_frame ..) hu)
        exact ite_wf (lateFault_wf ht) (modThr_wf ht)
    · split
      · exact back _ _ (fst_wf ‹_› (homeFrame_wf (translate_frame ..) hu))
      · have ht := fst_wf ‹_› (homeFrame_wf (translate_frame ..) hu)
        exact ite_wf (lateFault_wf ht) (modThr_wf ht)
    · exact back _ _ hu

theorem resetWindows_wf {s fid fresh} (hs : s.wf = true) : (resetWindows s fid fresh).wf = true := by
  unfold resetWindows
  dsimp only
  exact modCtx_wf (modFlk_wf hs fun _ hx => hx)

theorem resumeThread_wf {s t} (hs : s.wf = true) : (resumeThread s t).wf = true := by
  unfold resumeThread
  dsimp only
  exact modThr_wf (foldl_wf (homeFrame_wf (l1Invalidate_frame ..) hs) fun u _ hu => foldl_wf hu fun u1 _ hu1 => homeFrame_wf
      (l1Invalidate_frame ..) hu1)

theorem placeAgain_wf {s fid w set} (hs : s.wf = true) : (placeAgain s fid w set).wf = true := by
  unfold placeAgain
  extract_lets slots fresh u v saved
  have hu : u.wf = true := takeClusters_wf (retakeSlots_wf hs)
  have hv : v.wf = true := foldl_wf hu fun _ _ hx => coldCaches_wf hx
  have hsaved : savedWf saved = true := saved_wf hv fid
  refine foldl_wf (restoreOps_wf (resetWindows_wf (watchSync_wf (foldl_wf (modCtx_wf (modFlk_wf hv fun _ _ => rfl))
    fun x m hx => ?_)))) fun _ _ hx => resumeThread_wf hx
  split
  · exact hx
  · exact rebindBanks_wf (restoreClu_wf hx (plane_of_getElem? hsaved ‹_›))

theorem startThread_wf {s t r grid} (hs : s.wf = true) : (startThread s t r grid).wf = true := by
  unfold startThread
  split
  · dsimp only
    exact homeFrame_wf (l1Invalidate_frame ..) (setThr_wf hs)

theorem placeNew_wf {s w set} (hs : s.wf = true) : (placeNew s w set).wf = true := by
  unfold placeNew
  dsimp only
  refine modQue_wf (foldl_wf (watchSync_wf (setFlk_wf ?_ rfl)) fun _ _ hu => foldl_wf hu fun _ _ hv => startThread_wf hv)
  exact takeClusters_wf (retakeSlots_wf hs)

theorem placeWant_wf {s w set} (hs : s.wf = true) : (placeWant s w set).wf = true := by
  unfold placeWant
  dsimp only
  split
  · exact placeAgain_wf (modPkg_wf hs fun _ hx => hx)
  · exact placeNew_wf (modPkg_wf hs fun _ hx => hx)

theorem requestClass_wf {s quad c} (hs : s.wf = true) : (requestClass s quad c).wf = true :=
  modQuad_wf hs

theorem reassign_wf {s w} (hs : s.wf = true) : (reassign s w).1.wf = true := by
  unfold reassign
  dsimp only
  split
  · exact hs
  · exact foldl_wf hs fun u _ hu => requestClass_wf hu

theorem requestStop_wf {s fid} (hs : s.wf = true) : (requestStop s fid).wf = true :=
  modFlk_wf hs fun _ hx => hx

theorem blockHead_wf {s w} (hs : s.wf = true) : (blockHead s w).wf = true := by
  unfold blockHead
  dsimp only
  split
  · exact reassign_wf (modQue_wf hs)
  · split
    · exact foldl_wf (reassign_wf (modQue_wf hs)) fun u _ hu => requestStop_wf hu
    · exact reassign_wf (modQue_wf hs)

theorem tryHeads_wf {s a2} (hs : s.wf = true) : (tryHeads s a2).wf = true := by
  unfold tryHeads
  split
  · exact hs
  · split
    · exact placeWant_wf hs
    · exact tryHeads_wf (blockHead_wf hs)

theorem execPlacementStep_lands {p : Prop} {s} (hs : p → s.wf = true) : Lands p (execPlacementStep s) := by
  unfold execPlacementStep
  split
  · exact lands_next hs
  · exact lands_next fun hp => tryHeads_wf (hs hp)

theorem execHeadAgeTick_lands {p : Prop} {s} (hs : p → s.wf = true) : Lands p (execHeadAgeTick s) := by
  unfold execHeadAgeTick
  dsimp only
  split
  · exact lands_next hs
  · exact lands_next fun hp => modPkg_wf (hs hp) fun _ hx => hx

theorem drainStash_wf {s fid} (hs : s.wf = true) : (drainStash s fid).1.wf = true :=
  foldlPair_wf hs fun (u, gs) q hu => foldlPair_wf hu fun (v, gs) e hv => foldlPair_wf hv fun (w, gs) k hw => by
    dsimp only
    split
    · exact fst_wf ‹_› (homeFrame_wf (evictSector_frame ..) hw)
    · exact fst_wf ‹_› (homeFrame_wf (evictSector_frame ..) hw)

theorem noteWrites_wf {s fid gs} (hs : s.wf = true) : (noteWrites s fid gs).wf = true := by
  unfold noteWrites
  split
  · exact foldl_wf hs fun u _ hu => modThr_wf hu
  · exact hs

theorem dropStashOf_wf {s fid} (hs : s.wf = true) : (dropStashOf s fid).wf = true :=
  foldl_wf hs fun u _ hu => modClu_wf hu fun _ hc => hc

theorem handWindow_wf {s ctx w f} (hs : s.wf = true) : (handWindow s ctx w f).wf = true := by
  unfold handWindow
  dsimp only
  exact modWindow_wf hs

theorem endWindow_wf {s ctx w} (hs : s.wf = true) : (endWindow s ctx w).wf = true := by
  unfold endWindow
  dsimp only
  exact windowGone_wf (modWindow_wf hs)

theorem clearWindows_wf {s fid} (hs : s.wf = true) : (clearWindows s fid).wf = true := by
  unfold clearWindows
  dsimp only
  refine foldl_wf hs fun u _ hu => ?_
  split
  · exact handWindow_wf hu
  · exact endWindow_wf hu

theorem combineLines_wf {s fid} (hs : s.wf = true) : (combineLines s fid).wf = true :=
  foldl_wf hs fun u _ hu => foldl_wf hu fun u1 _ hu1 => homeFrame_wf (combine_frame ..) hu1

theorem dropReelsOf_wf {s fid} (hs : s.wf = true) : (dropReelsOf s fid).wf = true :=
  foldl_wf hs fun u _ hu => modClu_wf hu fun _ hc => hc

theorem dropCodeOf_wf {s fid} (hs : s.wf = true) : (dropCodeOf s fid).wf = true :=
  foldl_wf hs fun u _ hu => dropCode_wf hu

theorem flockDone_wf {s q r pid fault} (hs : s.wf = true) : (flockDone s q r pid fault).wf = true := by
  unfold flockDone
  split
  · dsimp only
    split
    · exact modQue_wf hs
    · exact complete_wf (modQue_wf hs)

theorem releaseFlock_wf {s fid} (hs : s.wf = true) : (releaseFlock s fid).wf = true := by
  obtain ⟨hm, hr, hl, hp, hi⟩ := wf_iff.1 (dropReelsOf_wf (fid := fid) (dropCodeOf_wf (fid := fid) hs))
  refine watchSync_wf (flockDone_wf (modFlk_wf ?_ fun _ hx => hx))
  exact wf_iff.2 ⟨hm, hr, localsWf_filter hl, hp, hi⟩

theorem execFlockEnd_lands {p : Prop} {fid s} (hs : p → s.wf = true) : Lands p (execFlockEnd fid s) := by
  unfold execFlockEnd
  dsimp only
  split
  · exact lands_next hs
  · exact lands_next fun hp => ite_wf (releaseFlock_wf (noteWrites_wf (dropStashOf_wf (clearWindows_wf (combineLines_wf (drainStash_wf
        (hs hp))))))) (noteWrites_wf (dropStashOf_wf (clearWindows_wf (combineLines_wf (drainStash_wf (hs hp))))))

theorem execVoltageRampReachesTarget_lands {p : Prop} {quad s} (hs : p → s.wf = true) : Lands p (execVoltageRampReachesTarget quad s) := by
  unfold execVoltageRampReachesTarget
  dsimp only
  split
  · exact lands_next hs
  · exact lands_next fun hp => modQuad_wf (hs hp)

theorem execSpendWindowRollover_lands {p : Prop} {pid s} (hs : p → s.wf = true) : Lands p (execSpendWindowRollover pid s) := by
  unfold execSpendWindowRollover
  exact lands_next fun hp => rollSpend_wf (hs hp)

theorem execThallowUpdate_lands {p : Prop} {die pallow s} (hs : p → s.wf = true) : Lands p (execThallowUpdate die pallow s) := by
  unfold execThallowUpdate
  split
  · exact lands_next hs
  · dsimp only
    exact lands_next fun hp => modPkg_wf (modDie_wf (hs hp)) fun _ hx => hx

theorem execSensorSample_lands {p : Prop} {die temps ta tb s} (hs : p → s.wf = true) : Lands p (execSensorSample die temps ta tb s) := by
  unfold execSensorSample
  dsimp only
  exact lands_next fun hp => modStk_wf (modStk_wf (modDie_wf (foldl_wf (hs hp) fun u _ hu => modQuad_wf hu)))

theorem execBankRefresh_lands {p : Prop} {stack bank s} (hs : p → s.wf = true) : Lands p (execBankRefresh stack bank s) := by
  unfold execBankRefresh
  dsimp only
  split
  · split
    · exact lands_next fun hp => modStk_wf (hs hp)
    · exact lands_next hs
  · exact lands_next fun hp => modStk_wf (hs hp)

theorem execDroopDetect_lands {p : Prop} {pid s} (hs : p → s.wf = true) : Lands p (execDroopDetect pid s) := by
  unfold execDroopDetect
  exact lands_next fun hp => modPurse_wf (hs hp)

theorem execDroopRecovery_lands {p : Prop} {pid s} (hs : p → s.wf = true) : Lands p (execDroopRecovery pid s) := by
  unfold execDroopRecovery
  split
  · split
    · exact lands_next fun hp => modPurse_wf (hs hp)
    · exact lands_next hs
  · exact lands_next hs

theorem execCoreRailClamp_lands {p : Prop} {s} (hs : p → s.wf = true) : Lands p (execCoreRailClamp s) := by
  unfold execCoreRailClamp
  exact lands_next fun hp => modPkg_wf (hs hp) fun _ hx => hx

theorem execClampFloorEnd_lands {p : Prop} {s} (hs : p → s.wf = true) : Lands p (execClampFloorEnd s) := by
  unfold execClampFloorEnd
  split
  · exact lands_next fun hp => modPkg_wf (hs hp) fun _ hx => hx
  · exact lands_next hs

theorem execJunctionTrip_lands {p : Prop} {die s} (hs : p → s.wf = true) : Lands p (execJunctionTrip die s) := by
  unfold execJunctionTrip
  split
  · exact lands_next hs
  · exact lands_next fun hp => foldl_wf (modDie_wf (hs hp)) fun u _ hu => ctxEvent_wf hu

theorem safeAll_wf {s} (hs : s.wf = true) : (safeAll s).wf = true :=
  foldl_wf hs fun u _ hu => modDie_wf hu

theorem execFirmwareHeartbeatMiss_lands {p : Prop} {s} (hs : p → s.wf = true) : Lands p (execFirmwareHeartbeatMiss s) := by
  unfold execFirmwareHeartbeatMiss
  exact lands_next fun hp => safeAll_wf (hs hp)

theorem execPreempt_lands {p : Prop} {ctx s} (hs : p → s.wf = true) : Lands p (execPreempt ctx s) := by
  refine lands_next fun hp => ofFlocks_wf (hs hp) (imagesWf_map (wf_iff.1 (hs hp)).2.2.2.2 fun e he => ?_)
  split
  · exact he
  · exact he

theorem closeRuns_wf {s t} (hs : s.wf = true) : (closeRuns s t).wf = true :=
  foldl_wf hs fun u _ hu => ite_wf hu (closeRun_wf hu)

theorem abortQueues_wf {s ts} (hs : s.wf = true) : (abortQueues s ts).wf = true :=
  foldl_wf (mapFlks_wf hs fun _ _ hx => savedWf_map hx fun _ => rfl) fun _ _ hu => foldl_wf hu fun _ _ hv =>
    ite_wf (outState_wf (execCqctlAbort_lands fun _ => hv)) hv

theorem execClear_lands {p : Prop} {ctx s} (hs : p → s.wf = true) : Lands p (execClear ctx s) := by
  unfold execClear
  dsimp only
  exact lands_next fun hp => abortQueues_wf (foldl_wf (foldl_wf (hs hp) fun u _ hu => closeRuns_wf hu) fun u _ hu => modThr_wf hu)

theorem saveWindows_wf {s fid} (hs : s.wf = true) : (saveWindows s fid).wf = true := by
  unfold saveWindows
  dsimp only
  refine modFlk_wf (foldl_wf hs fun u _ hu => ?_) fun _ hx => hx
  split
  · exact handWindow_wf hu
  · exact endWindow_wf hu

theorem redoUnis_wf {s fid saved} (hs : s.wf = true) : (redoUnis s fid saved).1.wf = true :=
  foldlPair_wf hs fun _ _ hu => modThr_wf hu

theorem leaveBanks_wf {s fid m} (hs : s.wf = true) : (leaveBanks s fid m).wf = true :=
  foldl_wf hs fun u e hu => modClu_wf hu fun c hc => by
    split
    · exact hc
    · split
      · exact hc
      · split
        · exact hc
        · split
          · exact hc
          · exact hc

theorem saveOps_wf {s fid} (hs : s.wf = true) : (saveOps s fid).wf = true :=
  modFlk_wf (f := fun f => { f with ops := _ }) hs fun _ hx => hx

theorem saveFlock_wf {s fid slot} (hs : s.wf = true) : (saveFlock s fid slot).wf = true := by
  unfold saveFlock
  dsimp only
  have h1 := dropCodeOf_wf (fid := fid) (saveWindows_wf (fid := fid) (drainStash_wf (fid := fid) (combineLines_wf (fid := fid) hs)))
  generalize dropCodeOf (saveWindows (drainStash (combineLines s fid) fid).1 fid) fid = u at h1 ⊢
  have hv : savedWf ((List.range (u.size fid)).map (saveClu u fid)) = true := savedWf_iff.2 fun v hv => by
    obtain ⟨m, _, rfl⟩ := List.mem_map.1 hv
    exact plane_wf h1 _
  have h2 := redoUnis_wf (fid := fid) (saved := (List.range (u.size fid)).map (saveClu u fid)) h1
  have h3 := redoUnis_saved (s := u) (fid := fid) hv
  generalize redoUnis u fid ((List.range (u.size fid)).map (saveClu u fid)) = r at h2 h3 ⊢
  obtain ⟨w, saved⟩ := r
  refine watchSync_wf (modFlk_wf (modCtx_wf ?_) fun _ _ => h3)
  refine setThreads_wf (saveOps_wf (foldl_wf (foldl_wf (homeFrame_wf (writeAtHome_frame ..) (holdIf_wf h2))
    fun _ _ hu => leaveBanks_wf hu) fun _ _ hu => modClu_wf hu fun _ hc => hc))

theorem execPreemptionHalt_lands {p : Prop} {fid s} (hs : p → s.wf = true) : Lands p (execPreemptionHalt fid s) := by
  unfold execPreemptionHalt
  dsimp only
  split
  · exact lands_next hs
  · split
    · exact lands_next fun hp => saveFlock_wf (hs hp)
    · exact lands_next hs

theorem modCtxThreads_wf {s ctx f} (hs : s.wf = true) : (modCtxThreads s ctx f).wf = true :=
  hs

theorem execStop_lands {p : Prop} {ctx s} (hs : p → s.wf = true) : Lands p (execStop ctx s) := by
  unfold execStop
  exact lands_next fun hp => modCtxThreads_wf (hs hp)

theorem execDbgctlResume_lands {p : Prop} {ctx s} (hs : p → s.wf = true) : Lands p (execDbgctlResume ctx s) := by
  unfold execDbgctlResume
  exact lands_next fun hp => watchSync_wf (modCtxThreads_wf (hs hp))

theorem execDebugStop_lands {p : Prop} {fid clu t s} (hs : p → s.wf = true) : Lands p (execDebugStop fid clu t s) := by
  unfold execDebugStop
  dsimp only
  split
  · exact lands_next hs
  · split
    · split
      · exact lands_next fun hp => fst_wf ‹_› (stopDue_wf (hs hp))
      · exact lands_next fun hp => takeStop_wf (fst_wf ‹_› (stopDue_wf (hs hp)))
    · exact lands_next fun hp => fst_wf ‹_› (stopDue_wf (hs hp))

theorem execCheckScoreboardStop_lands {p : Prop} {fid clu t s} (hs : p → s.wf = true) : Lands p (execCheckScoreboardStop fid clu t s) := by
  unfold execCheckScoreboardStop
  dsimp only
  split
  · exact lands_next hs
  · split
    · split
      · exact lands_next fun hp => takeStop_wf (fst_wf ‹_› (stopDue_wf (hs hp)))
      · exact lands_next fun hp => fst_wf ‹_› (stopDue_wf (hs hp))
    · exact lands_next fun hp => fst_wf ‹_› (stopDue_wf (hs hp))

theorem execDbgdataWrite_lands {p : Prop} {ctx v s} (hs : p → s.wf = true) : Lands p (execDbgdataWrite ctx v s) := by
  unfold execDbgdataWrite
  split
  · exact lands_next hs
  · split
    · exact lands_next hs
    · dsimp only
      exact lands_next fun hp => modThr_wf (hs hp)

theorem execSrseedWrite_lands {p : Prop} {pid v s} (hs : p → s.wf = true) : Lands p (execSrseedWrite pid v s) := by
  unfold execSrseedWrite
  exact lands_next fun hp => setSeed_wf (hs hp)

theorem execExmaskWrite_lands {p : Prop} {slot v s} (hs : p → s.wf = true) : Lands p (execExmaskWrite slot v s) := by
  unfold execExmaskWrite
  exact lands_next fun hp => writeEx_wf (hs hp)

theorem execLeaseWrite_lands {p : Prop} {ctx v s} (hs : p → s.wf = true) : Lands p (execLeaseWrite ctx v s) := by
  unfold execLeaseWrite
  exact lands_next fun hp => setLease_wf (hs hp)

theorem execSampctlWrite_lands {p : Prop} {ctx v s} (hs : p → s.wf = true) : Lands p (execSampctlWrite ctx v s) := by
  unfold execSampctlWrite
  dsimp only
  exact lands_next fun hp => modCtx_wf (hs hp)

theorem noteAged_wf {s} (hs : s.wf = true) : (noteAged s).wf = true :=
  hs

theorem setErr_wf {s e} (hs : s.wf = true) : (setErr s e).wf = true :=
  modPkg_wf hs fun _ hx => hx

theorem execStart_lands {p : Prop} {s} (hs : p → s.wf = true) : Lands p (execStart s) := by
  unfold execStart
  split
  · exact lands_next fun hp => setErr_wf (hs hp)
  · split
    · exact lands_next fun hp => setErr_wf (hs hp)
    · exact lands_next fun hp => modPkg_wf (hs hp) fun _ hx => hx

theorem execTrain_lands {p : Prop} {s} (hs : p → s.wf = true) : Lands p (execTrain s) := by
  unfold execTrain
  split
  · exact lands_next fun hp => modPkg_wf (hs hp) fun _ hx => hx
  · exact lands_next fun hp => setErr_wf (hs hp)

theorem execRelease_lands {p : Prop} {s} (hs : p → s.wf = true) : Lands p (execRelease s) := by
  unfold execRelease
  split
  · exact lands_next fun hp => modPkg_wf (hs hp) fun _ hx => hx
  · exact lands_next fun hp => setErr_wf (hs hp)

theorem execHaltfw_lands {p : Prop} {s} (hs : p → s.wf = true) : Lands p (execHaltfw s) := by
  unfold execHaltfw
  split
  · exact lands_next fun hp => modPkg_wf (safeAll_wf (hs hp)) fun _ hx => hx
  · exact lands_next fun hp => setErr_wf (hs hp)

theorem brcmd_lands {p : Prop} {s op} (hs : p → s.wf = true) : Lands p (brcmd s op) := by
  unfold brcmd
  split
  · exact execStart_lands hs
  · exact execTrain_lands hs
  · exact execRelease_lands hs
  · exact execHaltfw_lands hs
  · exact lands_next fun hp => setErr_wf (hs hp)

theorem writeCtxctl_wf {s ctx v} (hs : s.wf = true) : (writeCtxctl s ctx v).wf = true := by
  unfold writeCtxctl
  dsimp only
  split
  · exact outState_wf (execPreempt_lands (fun hp => ite_wf (outState_wf (execClear_lands (fun hp => modCtx_wf hs))) (modCtx_wf hs)))
  · split
    · exact outState_wf (execClear_lands (fun hp => modCtx_wf hs))
    · exact modCtx_wf hs

theorem writeDbgctl_wf {s ctx v} (hs : s.wf = true) : (writeDbgctl s ctx v).wf = true := by
  unfold writeDbgctl
  dsimp only
  split
  · exact outState_wf (execStop_lands (fun hp => ite_wf (outState_wf (execDbgctlResume_lands (fun hp => modCtx_wf hs))) (modCtx_wf hs)))
  · split
    · exact outState_wf (execDbgctlResume_lands (fun hp => modCtx_wf hs))
    · exact modCtx_wf hs

theorem writeWatch_wf {s ctx n v} (hs : s.wf = true) : (writeWatch s ctx n v).wf = true := by
  unfold writeWatch
  dsimp only
  split
  · exact foldl_wf (modCtx_wf (setCtx_wf hs)) fun u _ hu => ite_wf (homeFrame_wf (logStore_frame ..) hu) hu
  · exact setCtx_wf hs

theorem writeCtxReg_wf {s ctx reg v} (hs : s.wf = true) : (writeCtxReg s ctx reg v).wf = true := by
  unfold writeCtxReg
  dsimp only
  split
  · exact outState_wf (execTtbaseWrite_lands (fun hp => hs))
  · exact modCtx_wf hs
  · exact modCtx_wf hs
  · exact modCtx_wf hs
  · exact xlWrite_wf hs
  · exact modCtx_wf hs
  · exact modCtx_wf hs
  · exact setLease_wf hs
  · exact outState_wf (execAshareWrite_lands (fun hp => hs))
  · exact outState_wf (execBardoor_lands (fun hp => hs))
  · exact modCtx_wf hs
  · exact modCtx_wf hs
  · exact modCtx_wf hs
  · exact modCtx_wf hs
  · exact writeCtxctl_wf hs
  · exact modCtx_wf hs
  · exact modCtx_wf hs
  · exact outState_wf (execSampctlWrite_lands (fun hp => hs))
  · exact modCtx_wf hs
  · exact writeDbgctl_wf hs
  · exact modCtx_wf hs
  · exact modCtx_wf hs
  · exact outState_wf (execDbgdataWrite_lands (fun hp => hs))
  · exact writeWatch_wf hs
  · exact modCtx_wf hs
  · exact hs

theorem execRegisterWrite_lands {p : Prop} {page reg v s} (hs : p → s.wf = true) : Lands p (execRegisterWrite page reg v s) := by
  unfold execRegisterWrite
  dsimp only
  split
  · exact lands_next hs
  · split
    · exact lands_next fun hp => modPkg_wf (hs hp) fun _ hx => hx
    · exact lands_next fun hp => qcmdWrite_wf (hs hp)
    · exact lands_next fun hp => modPkg_wf (hs hp) fun _ hx => hx
    · exact lands_next fun hp => ite_wf (modPkg_wf (noteAged_wf (hs hp)) fun _ hx => hx) (hs hp)
    · exact brcmd_lands hs
    · exact lands_next fun hp => modPkg_wf (hs hp) fun _ hx => hx
    · exact lands_next fun hp => ite_wf (writeCtxReg_wf (hs hp)) (hs hp)

theorem execPackageReset_lands {p : Prop} {s} (hs : p → s.wf = true) : Lands p (execPackageReset s) :=
  lands_next fun hp => wf_iff.2 ⟨(wf_iff.1 (hs hp)).1, rfl, rfl, rfl, rfl⟩

theorem execRailsInRegulation_lands {p : Prop} {s} (hs : p → s.wf = true) : Lands p (execRailsInRegulation s) := by
  unfold execRailsInRegulation
  split
  · exact lands_next hs
  · exact lands_next fun hp => modPkg_wf (hs hp) fun _ hx => hx

theorem execFirstConfigAccess_lands {p : Prop} {s} (hs : p → s.wf = true) : Lands p (execFirstConfigAccess s) := by
  unfold execFirstConfigAccess
  split
  · exact lands_next fun hp => modPkg_wf (hs hp) fun _ hx => hx
  · exact lands_next hs

theorem execControllerRamWrite_lands {p : Prop} {off v s} (hs : p → s.wf = true) (hr : ¬ctlRamSize ≤ off) :
    Lands p (execControllerRamWrite off v s) := by
  unfold execControllerRamWrite
  rw [if_neg hr]
  split
  · exact lands_next hs
  · exact lands_next fun hp => modPkg_wf (hs hp) fun _ hx => Mem.wf_write _ _ _ hx

theorem execTrainComplete_lands {p : Prop} {fails s} (hs : p → s.wf = true) : Lands p (execTrainComplete fails s) := by
  unfold execTrainComplete
  dsimp only
  split
  · exact lands_next hs
  · split
    · exact lands_next fun hp => ofMem_wf (modPkg_wf (hs hp) fun _ hx => hx) (Mem.wf_clearRange _ _ _ (wf_iff.1 (hs hp)).1)
    · exact lands_next fun hp => modPkg_wf (hs hp) fun _ hx => hx

theorem execIllegalInstruction_lands {p : Prop} {tval s} (hs : p → s.wf = true) : Lands p (execIllegalInstruction tval s) := by
  unfold execIllegalInstruction
  exact trap_lands hs

theorem execContextCreation_lands {p : Prop} {ctx priv s} (hs : p → s.wf = true) : Lands p (execContextCreation ctx priv s) := by
  unfold execContextCreation
  dsimp only
  split
  · exact lands_next hs
  · exact lands_next fun hp => setCtx_wf (mapClus_wf (dropLeaves_wf (hs hp)) fun _ _ => rfl)

theorem execClockStepDown_lands {p : Prop} {quad s} (hs : p → s.wf = true) : Lands p (execClockStepDown quad s) := by
  unfold execClockStepDown
  split
  · split
    · exact lands_next fun hp => modQuad_wf (hs hp)
    · exact lands_next hs
  · exact lands_next hs

/-- The two events whose address may be one that does not exist (log 93). -/
def OutOfRange (s : State) : Instr → Prop
  | .hostCxlMemAccess _ hpa len _ => hpa < s.pkg.hb ∨ s.pkg.hb + devTop < hpa + len
  | .controllerRamWrite off _ => ctlRamSize ≤ off
  | _ => False

/-- Every instruction, word and event but those answers a next state, in canonical form from one in canonical form. -/
theorem exec_lands {p : Prop} {i : Instr} {s : State} (hs : p → s.wf = true) (hr : ¬OutOfRange s i) : Lands p (exec i s) := by
  unfold exec
  split
  · exact execAdd_lands hs
  · exact execSub_lands hs
  · exact execMul_lands hs
  · exact execMulh_lands hs
  · exact execMulhu_lands hs
  · exact execDiv_lands hs
  · exact execDivu_lands hs
  · exact execRem_lands hs
  · exact execAndR_lands hs
  · exact execOrR_lands hs
  · exact execXorR_lands hs
  · exact execShlR_lands hs
  · exact execShrR_lands hs
  · exact execSarR_lands hs
  · exact execMinR_lands hs
  · exact execMaxR_lands hs
  · exact execSlt_lands hs
  · exact execSltu_lands hs
  · exact execSeq_lands hs
  · exact execCsel_lands hs
  · exact execPopc_lands hs
  · exact execClz_lands hs
  · exact execGexit_lands hs
  · exact execSfadd_lands hs
  · exact execSfsub_lands hs
  · exact execSfmul_lands hs
  · exact execSfmac_lands hs
  · exact execSfmin_lands hs
  · exact execSfmax_lands hs
  · exact execSfcmp_lands hs
  · exact execSfcvt_lands hs
  · exact execJr_lands hs
  · exact execCallr_lands hs
  · exact execSret_lands hs
  · exact execTrap_lands hs
  · exact execFence_lands hs
  · exact execIcinv_lands hs
  · exact execVqPop_lands hs
  · exact execVqPeek_lands hs
  · exact execBarNew_lands hs
  · exact execBarExpect_lands hs
  · exact execBarArrive_lands hs
  · exact execBarWait_lands hs
  · exact execBarFree_lands hs
  · exact execStagePut_lands hs
  · exact execStageTake_lands hs
  · exact execReelOpen_lands hs
  · exact execReelShut_lands hs
  · exact execReelPlay_lands hs
  · exact execReelDrop_lands hs
  · exact execStrBind_lands hs
  · exact execStrSel_lands hs
  · exact execStrFree_lands hs
  · exact execMaskRd_lands hs
  · exact execMaskWr_lands hs
  · exact execParkReplay_lands hs
  · exact execUnpark_lands hs
  · exact execLaunch_lands hs
  · exact execGatom_lands hs
  · exact execPinSet_lands hs
  · exact execPinClr_lands hs
  · exact execAddi_lands hs
  · exact execAndi_lands hs
  · exact execOri_lands hs
  · exact execXori_lands hs
  · exact execShli_lands hs
  · exact execShri_lands hs
  · exact execSari_lands hs
  · exact execSlti_lands hs
  · exact execMovi_lands hs
  · exact execInsh_lands hs
  · exact execSltiu_lands hs
  · exact execSrd_lands hs
  · exact execSwr_lands hs
  · exact execPft_lands hs
  · exact execAddiLong_lands hs
  · exact execAndiLong_lands hs
  · exact execOriLong_lands hs
  · exact execXoriLong_lands hs
  · exact execSltiLong_lands hs
  · exact execSltiuLong_lands hs
  · exact execMoviLong_lands hs
  · exact execInshLong_lands hs
  · exact execPftLong_lands hs
  · exact execLdgN8_lands hs
  · exact execLdgS8_lands hs
  · exact execLdgN16_lands hs
  · exact execLdgS16_lands hs
  · exact execLdgN32_lands hs
  · exact execLdgS32_lands hs
  · exact execLdgB64_lands hs
  · exact execStgB8_lands hs
  · exact execStgB16_lands hs
  · exact execStgB32_lands hs
  · exact execStgB64_lands hs
  · exact execLdgN8Long_lands hs
  · exact execLdgS8Long_lands hs
  · exact execLdgN16Long_lands hs
  · exact execLdgS16Long_lands hs
  · exact execLdgN32Long_lands hs
  · exact execLdgS32Long_lands hs
  · exact execLdgB64Long_lands hs
  · exact execStgB8Long_lands hs
  · exact execStgB16Long_lands hs
  · exact execStgB32Long_lands hs
  · exact execStgB64Long_lands hs
  · exact execBeq_lands hs
  · exact execBne_lands hs
  · exact execBlt_lands hs
  · exact execBge_lands hs
  · exact execBltu_lands hs
  · exact execBgeu_lands hs
  · exact execJmp_lands hs
  · exact execCall_lands hs
  · exact execLaneWordEmit_lands hs
  · exact execRunStart_lands hs
  · exact execIadd_lands hs
  · exact execIsub_lands hs
  · exact execImul_lands hs
  · exact execImulh_lands hs
  · exact execImad_lands hs
  · exact execImin_lands hs
  · exact execImax_lands hs
  · exact execIabs_lands hs
  · exact execAndLane_lands hs
  · exact execOrLane_lands hs
  · exact execXorLane_lands hs
  · exact execNotLane_lands hs
  · exact execShlLane_lands hs
  · exact execShrLane_lands hs
  · exact execRotl_lands hs
  · exact execBfe_lands hs
  · exact execBfi_lands hs
  · exact execPopcLane_lands hs
  · exact execClzLane_lands hs
  · exact execBrev_lands hs
  · exact execMovLane_lands hs
  · exact execIadd3_lands hs
  · exact execIsad_lands hs
  · exact execImulw_lands hs
  · exact execImadw_lands hs
  · exact execIdp4_lands hs
  · exact execIdp2_lands hs
  · exact execFadd_lands hs
  · exact execFsub_lands hs
  · exact execFmul_lands hs
  · exact execFfma_lands hs
  · exact execFmin_lands hs
  · exact execFmax_lands hs
  · exact execFabs_lands hs
  · exact execFneg_lands hs
  · exact execFdp2_lands hs
  · exact execFdp4_lands hs
  · exact execFrnd_lands hs
  · exact execCvt_lands hs
  · exact execCvts_lands hs
  · exact execCbd_lands hs
  · exact execPack_lands hs
  · exact execUnpk_lands hs
  · exact execIcmp_lands hs
  · exact execFcmp_lands hs
  · exact execPlop_lands hs
  · exact execPmov_lands hs
  · exact execSel_lands hs
  · exact execLexit_lands hs
  · exact execNop_lands hs
  · exact execRcp_lands hs
  · exact execRsq_lands hs
  · exact execSqrt_lands hs
  · exact execExp2_lands hs
  · exact execLog2_lands hs
  · exact execSin_lands hs
  · exact execCos_lands hs
  · exact execCte_lands hs
  · exact execCtld_lands hs
  · exact execCurveTableLoadFinish_lands hs
  · exact execShfl_lands hs
  · exact execVote_lands hs
  · exact execBallot_lands hs
  · exact execReduce_lands hs
  · exact execScan_lands hs
  · exact execBcast_lands hs
  · exact execRegroup_lands hs
  · exact execUni_lands hs
  · exact execLd_lands hs
  · exact execSt_lands hs
  · exact execLdt_lands hs
  · exact execLdb_lands hs
  · exact execAtom_lands hs
  · exact execRed_lands hs
  · exact execLfence_lands hs
  · exact execStashMap_lands hs
  · exact execStashFlush_lands hs
  · exact execStashDrop_lands hs
  · exact execCp_lands hs
  · exact execCp2d_lands hs
  · exact execCpt_lands hs
  · exact execCpg_lands hs
  · exact execCpset_lands hs
  · exact execQfence_lands hs
  · exact execCopyChunkStart_lands hs
  · exact execCopyChunkWrite_lands hs
  · exact execCopyChunkLand_lands hs
  · exact execCopyChunkFault_lands hs
  · exact execMm_lands hs
  · exact execMmy_lands hs
  · exact execMzero_lands hs
  · exact execMcbt_lands hs
  · exact execCodebookLoadFinish_lands hs
  · exact execYokeLatchComplete_lands hs
  · exact execMatrixEntryStart_lands hs
  · exact execMatrixRetirement_lands hs
  · exact execTaWin_lands hs
  · exact execTaDly_lands hs
  · exact execTaMode_lands hs
  · exact execTaGo_lands hs
  · exact execTaCapt_lands hs
  · exact execTaClr_lands hs
  · exact execTaEntryStart_lands hs
  · exact execTaWindowEnd_lands hs
  · exact execLwait_lands hs
  · exact execLarr_lands hs
  · exact execTrl_lands hs
  · exact execIdiv_lands hs
  · exact execIrem_lands hs
  · exact execFdiv_lands hs
  · exact execVariableResultLand_lands hs
  · exact execGeneratorResultArrival_lands hs
  · exact execVoteEntryPresent_lands hs
  · exact execUniResultArrival_lands hs
  · exact execReelPlayFeed_lands hs
  · exact execBoundaryTrap_lands hs
  · exact execThreadEnd_lands hs
  · exact execTableWalk_lands hs
  · exact execLeaseGrant_lands hs
  · exact execLeaseExpiry_lands hs
  · exact execHomeWritePerform_lands hs
  · exact execStashOwnershipGrant_lands hs
  · exact execSectorFillLand_lands hs
  · exact execStashRecall_lands hs
  · exact execUpdateOnlyGrant_lands hs
  · exact execUpdateOnlyCombine_lands hs
  · exact execHostCxlMemAccess_lands hs hr
  · exact execCxlCacheSnoop_lands hs
  · exact execCxlerr_lands hs
  · exact execCxlCompletionTimeout_lands hs
  · exact execInstructionFill_lands hs
  · exact execPftTargetFill_lands hs
  · exact execPinRehome_lands hs
  · exact execPinClrWriteback_lands hs
  · exact execInval_lands hs
  · exact execInvalAll_lands hs
  · exact execMigrate_lands hs
  · exact execBiasHost_lands hs
  · exact execBiasDev_lands hs
  · exact execXlcmdFinish_lands hs
  · exact execTtbaseWrite_lands hs
  · exact execCqctlAbort_lands hs
  · exact execCqctlResume_lands hs
  · exact execDeferredStageOperation_lands hs
  · exact execBarWaitTimeout_lands hs
  · exact execBardoor_lands hs
  · exact execWatchdogReport_lands hs
  · exact execLoad_lands hs
  · exact execUnload_lands hs
  · exact execRecordParse_lands hs
  · exact execPlacementStep_lands hs
  · exact execHeadAgeTick_lands hs
  · exact execFlockEnd_lands hs
  · exact execVoltageRampReachesTarget_lands hs
  · exact execTokenFlitInject_lands hs
  · exact execSpendWindowRollover_lands hs
  · exact execClaimPost_lands hs
  · exact execAshareWrite_lands hs
  · exact execThallowUpdate_lands hs
  · exact execSensorSample_lands hs
  · exact execBankRefresh_lands hs
  · exact execDroopDetect_lands hs
  · exact execDroopRecovery_lands hs
  · exact execCoreRailClamp_lands hs
  · exact execClampFloorEnd_lands hs
  · exact execJunctionTrip_lands hs
  · exact execFirmwareHeartbeatMiss_lands hs
  · exact execPreempt_lands hs
  · exact execClear_lands hs
  · exact execPreemptionHalt_lands hs
  · exact execSampleRecord_lands hs
  · exact execStop_lands hs
  · exact execDbgctlResume_lands hs
  · exact execDebugStop_lands hs
  · exact execCheckScoreboardStop_lands hs
  · exact execDbgdataWrite_lands hs
  · exact execSrseedWrite_lands hs
  · exact execExmaskWrite_lands hs
  · exact execLeaseWrite_lands hs
  · exact execSampctlWrite_lands hs
  · exact execRegisterWrite_lands hs
  · exact execPackageReset_lands hs
  · exact execRailsInRegulation_lands hs
  · exact execFirstConfigAccess_lands hs
  · exact execControllerRamWrite_lands hs hr
  · exact execStart_lands hs
  · exact execFirmwareStartTimeout_lands hs
  · exact execTrain_lands hs
  · exact execTrainComplete_lands hs
  · exact execRelease_lands hs
  · exact execHaltfw_lands hs
  · exact execIllegalInstruction_lands hs
  · exact execContextCreation_lands hs
  · exact execClockStepDown_lands hs

theorem giveBack_wf {s} (hs : s.wf = true) : (giveBack s).wf = true := by
  unfold giveBack
  dsimp only
  split
  · exact hs
  · split
    · exact hs
    · split
      · exact hs
      · split
        · exact modGrp_wf (modPurse_wf (modClu_wf hs fun _ hc => hc))
        · exact modPurse_wf (modClu_wf hs fun _ hc => hc)

theorem afterAttempt_wf {i s t} (hs : s.wf = true) (ht : t.wf = true) : (afterAttempt i s t).wf = true := by
  unfold afterAttempt
  dsimp only
  split
  · split
    · exact progress_wf (modThr_wf (modThr_wf ht))
    · exact modThr_wf ht
  · split
    · exact progress_wf (modThr_wf ht)
    · exact ht

end Sys2Proof.Form
end

section
/-! PROOFS. What a turn executes and what a step answers: O5 and O7. -/

namespace Sys2Proof.Form
open Sys2Proof Sys2Proof.Machine Sys2Proof.Claims

/-- The two events have no encoding: no word decodes to one. -/
theorem encode_of_outOfRange {s : State} {i : Instr} (h : OutOfRange s i) : encode i = none := by
  unfold OutOfRange at h
  split at h
  · rfl
  · rfl
  · exact h.elim

theorem inRange_of_coded {s : State} {i : Instr} {n w : Nat} (h : Formats.Coded n w i) : ¬OutOfRange s i := by
  obtain ⟨_, he⟩ := h
  intro ho
  rw [encode_of_outOfRange ho] at he
  cases he

theorem decodeLane_inRange {s : State} {w : BitVec 64} {i : Instr} (h : decodeLane w = .ok i) : ¬OutOfRange s i := by
  suffices hd : Turns.Accepts (fun i => ¬OutOfRange s i) (decodeLane w) from hd i h
  unfold decodeLane
  split
  · exact Turns.accepts_error _ _
  · next j hj =>
    rw [Turns.accepts_need, Turns.accepts_ok]
    intro _ ho
    have := Turns.encode_laneInstr hj
    rw [encode_of_outOfRange ho] at this
    cases this

/-- The instruction at PC is none of the two events. -/
theorem fetchInstr_inRange {s u v : State} {i : Instr} (h : fetchInstr s = (u, .ok i)) : ¬OutOfRange v i := by
  have lane (w : BitVec 64) : ¬OutOfRange v (match decodeLane w with | .ok (.trl x) => .trl x | _ => .laneWordEmit w) := by
    split
    · exact id
    · exact id
  have long (p q : Parcel) (hp : isPrefix p = true) :
      ¬OutOfRange v (match decodeLong p q with | .ok i => i | .error _ => .illegalInstruction (p.zeroExtend 64)) := by
    split
    · exact inRange_of_coded (Formats.decodeLong_coded hp _ ‹_›)
    · exact id
  unfold fetchInstr at h
  dsimp only at h
  split at h
  · cases h
  · split at h
    · cases h; exact lane _
    · split at h
      · split at h
        · cases h; exact long _ _ ‹_›
        · split at h
          · cases h
          · cases h; exact long _ _ ‹_›
      · split at h
        · cases h; exact inRange_of_coded (Formats.decodeShort_coded _ _ ‹_›)
        · cases h; exact id

/-- The state that a turn of a thread leaves, or in which its instruction executes. -/
def threadState : ThreadTurn → State
  | .idle u => u
  | .word u _ => u

def pipeState : PipeTurn → State
  | .idle u => u
  | .word u _ _ => u

theorem threadTurn_wf {s : State} {t : Tid} (hs : s.wf = true) : (threadState (threadTurn s t)).wf = true := by
  have hc : { s with cur := t }.wf = true := hs
  unfold threadTurn
  split
  · exact hs
  · dsimp only
    split
    · exact hostReturn_wf hc
    · split
      · exact hc
      · split
        · exact takeStop_wf (fst_wf ‹_› (stopDue_wf hc))
        · have hd := fst_wf ‹_› (stopDue_wf hc)
          split
          · exact takeHeld_wf hd
          · split
            · exact takeTrap_wf (modMe_wf (fst_wf ‹_› (fetchInstr_wf hd)))
            · have hf := fst_wf ‹_› (fetchInstr_wf hd)
              split
              · exact hf
              · exact modMe_wf hf

theorem threadTurn_inRange {s u v : State} {t : Tid} {i : Instr} (h : threadTurn s t = .word u i) : ¬OutOfRange v i := by
  unfold threadTurn at h
  split at h
  · cases h
  · dsimp only at h
    split at h
    · cases h
    · split at h
      · cases h
      · split at h
        · cases h
        · split at h
          · cases h
          · split at h
            · cases h
            · split at h
              · cases h
              · cases h; exact fetchInstr_inRange ‹_›

theorem pipeTurn_wf {s : State} {pid pipe : Nat} (hs : s.wf = true) : (pipeState (pipeTurn s pid pipe)).wf = true := by
  unfold pipeTurn
  split
  · exact hs
  · split
    · exact hs
    · split
      · exact tryEnd_wf (focusWord_wf hs)
      · have ht := focusRun_wf hs ‹_›
        split
        · exact hs
        · split
          · exact modLaneRun_wf ht
          · split
            · split
              · exact hs
              · dsimp only
                split
                · exact modLaneRun_wf ht
                · change State.wf (ite _ _ _) = true
                  split
                  · exact modLaneRun_wf ht
                  · exact modStr_wf (modLaneRun_wf ht)
            · exact ht

theorem exactRun_lands {p : Prop} {x : Exact} {s : State} (hs : p → s.wf = true) : Lands p (x.run s) := by
  unfold Exact.run
  split
  · exact execMatrixRetirement_lands hs
  · exact execTaWindowEnd_lands hs
  · exact execTaEntryStart_lands hs
  · exact execVariableResultLand_lands hs
  · exact execClaimPost_lands hs
  · exact execTokenFlitInject_lands hs
  · exact execSampleRecord_lands hs
  · exact execWatchdogReport_lands hs
  · exact execFirmwareStartTimeout_lands hs

theorem nextTurn_wf {s : State} (hs : s.wf = true) : (nextTurn s).2.wf = true := by
  unfold nextTurn
  exact noteReady_wf hs

/-- The state in which a turn that is due executes. -/
def dueState : Due → State
  | .idle u | .word u _ | .own u _ | .lane u _ | .exact u _ => u

theorem due_wf {s : State} (hs : s.wf = true) : (dueState (due s)).wf = true := by
  have hn := nextTurn_wf hs
  unfold due
  dsimp only
  split
  · split
    · exact hn
    · exact hn
  · exact hn
  · next tid _ =>
    have ht := threadTurn_wf (t := tid) hn
    split
    · next h => rw [h] at ht; exact ht
    · next h => rw [h] at ht; exact ht
  · next pid pipe _ =>
    have hp := pipeTurn_wf (pid := pid) (pipe := pipe) hn
    split
    · next h => rw [h] at hp; exact hp
    · next h =>
      rw [h] at hp
      split
      · exact hp
      · exact hp

/-- A thread's instruction is none of the two events. -/
theorem due_word_inRange {s u v : State} {i : Instr} (h : due s = .word u i) : ¬OutOfRange v i := by
  unfold due at h
  dsimp only at h
  split at h
  · split at h
    · cases h
    · cases h
  · cases h
  · split at h
    · cases h
    · cases h; exact threadTurn_inRange ‹_›
  · split at h
    · cases h
    · split at h
      · cases h
      · cases h

/-- A lane word of a pipe is none of them either. -/
theorem due_lane_inRange {s u v : State} {i : Instr} (h : due s = .lane u i) : ¬OutOfRange v i := by
  unfold due at h
  dsimp only at h
  split at h
  · split at h
    · cases h
    · cases h
  · cases h
  · split at h
    · cases h
    · cases h
  · split at h
    · cases h
    · split at h
      · cases h; exact decodeLane_inRange ‹_›
      · cases h

theorem due_own_state {s u : State} {i : Instr} (h : due s = .own u i) : u = (nextTurn s).2 := by
  unfold due at h
  dsimp only at h
  split at h
  · split at h
    · cases h; rfl
    · cases h
  · cases h
  · split at h
    · cases h
    · cases h
  · split at h
    · cases h
    · split at h
      · cases h
      · cases h

/-- One of the two events with an address that does not exist stops the run. -/
theorem exec_outOfRange {s : State} {i : Instr} (h : OutOfRange s i) : ∃ a, exec i s = .fault (.noSuchAddress a)
    ∧ ((∃ op pa n d, i = .hostCxlMemAccess op pa n d) ∨ ∃ v, i = .controllerRamWrite a v) := by
  unfold OutOfRange at h
  split at h
  · exact ⟨_, if_pos h, .inl ⟨_, _, _, _, rfl⟩⟩
  · exact ⟨_, if_pos h, .inr ⟨_, rfl⟩⟩
  · exact h.elim

/-- What a step answers: the next state, in canonical form from one in canonical form, or the one fault. -/
theorem step_cases (s : State) : Lands (s.wf = true) (step s) ∨ ∃ a, step s = .fault (.noSuchAddress a)
    ∧ ((∃ op pa n d, due s = .own (nextTurn s).2 (.hostCxlMemAccess op pa n d))
      ∨ ∃ v, due s = .own (nextTurn s).2 (.controllerRamWrite a v)) := by
  have hn := nextTurn_wf (s := s)
  have hd := due_wf (s := s)
  unfold step
  split
  case h_1 h => rw [h] at hd; exact .inl (lands_next fun hs => endTurn_wf (hn hs) (hd hs))
  case h_2 t i h =>
    replace hd : s.wf = true → t.wf = true := by rw [h] at hd; exact hd
    by_cases ho : OutOfRange t i
    · obtain ⟨a, ha, hi⟩ := exec_outOfRange ho
      obtain rfl := due_own_state h
      rw [ha]
      refine .inr ⟨a, rfl, ?_⟩
      rcases hi with ⟨op, pa, n, d, rfl⟩ | ⟨v, rfl⟩
      · exact .inl ⟨op, pa, n, d, h⟩
      · exact .inr ⟨v, h⟩
    · obtain ⟨u, hu, hw⟩ := exec_lands hd ho
      rw [hu]
      exact .inl (lands_next fun hs => endTurn_wf (hn hs) (hw hs))
  case h_3 t i h =>
    replace hd : s.wf = true → t.wf = true := by rw [h] at hd; exact hd
    obtain ⟨u, hu, hw⟩ := exec_lands hd (due_lane_inRange h)
    rw [hu]
    exact .inl (lands_next fun hs => endTurn_wf (hn hs) (giveBack_wf (hw hs)))
  case h_4 t x h =>
    replace hd : s.wf = true → t.wf = true := by rw [h] at hd; exact hd
    obtain ⟨u, hu, hw⟩ := exactRun_lands (x := x) hd
    rw [hu]
    exact .inl (lands_next fun hs => endTurn_wf (hn hs) (hw hs))
  case h_5 t i h =>
    replace hd : s.wf = true → t.wf = true := by rw [h] at hd; exact hd
    obtain ⟨u, hu, hw⟩ := exec_lands hd (due_word_inRange h)
    rw [hu]
    exact .inl (lands_next fun hs => endTurn_wf (hd hs) (afterAttempt_wf (hd hs) (hw hs)))

/-- Settles O5: a step answers a state in canonical form, from one in canonical form, since every instruction and event does. -/
theorem stepKeepsMemories : Obligations.StepKeepsMemories := by
  intro s t hs h
  rcases step_cases s with ⟨u, hu, hw⟩ | ⟨a, ha, _⟩
  · rw [hu] at h
    cases h
    exact hw hs
  · rw [ha] at h
    cases h

/-- Settles O7: every instruction and event but two answers a next state, and those two stop only at their address. -/
theorem stepNeverRefuses : Obligations.StepNeverRefuses := by
  intro s
  rcases step_cases s with ⟨u, hu, _⟩ | h
  · exact .inl ⟨u, hu⟩
  · exact .inr h

end Sys2Proof.Form
end


section
/-! PROOFS. Writes to the system registers (R84, R94, R105, R188, R303, R322 to R324, R412): O16. -/

namespace Sys2Proof.Registers
open Sys2Proof Sys2Proof.Machine Sys2Proof.Claims Sys2Proof.Runs Sys2Proof.Completion

/-! ### Which thread a write touches -/

/-- Every thread but one. -/
def others (t : Tid) (s : State) : {v : Tid // v ≠ t} → Thread := fun v => s.thr v

theorem others_of_threads {s u : State} (t : Tid) (h : u.threads = s.threads) : others t u = others t s := by
  unfold others State.thr
  rw [h]

theorem others_modThr (s : State) (t : Tid) (f : Thread → Thread) : others t (s.modThr t f) = others t s :=
  funext fun v => by rw [others, State.thr_modThr, if_neg v.2]; rfl

theorem others_settleMaskRdUntil (s : State) (t : Tid) (k : Nat) : others t (settleMaskRdUntil s t k) = others t s := by
  unfold settleMaskRdUntil
  dsimp only
  split
  · exact others_modThr ..
  · rfl

theorem others_setEx (t : Tid) (s : State) (fid clu slot v : Nat) : others t (setEx s fid clu slot v) = others t s := by
  unfold setEx
  split
  · rfl
  · rfl

theorem others_applyMasks (s : State) (t : Tid) (n : Nat) (p : Nat × Nat) : others t (applyMasks s t n p) = others t s := by
  unfold applyMasks
  dsimp only
  split
  · rfl
  · refine (others_modThr ..).trans (foldl_keep (others t) _ (fun u m => ?_) _ _)
    exact (others_setEx ..).trans (others_settleMaskRdUntil ..)

theorem others_writeEx (s : State) (slot v : Nat) : others s.cur (writeEx s slot v) = others s.cur s := by
  unfold writeEx
  split
  · exact (foldl_keep (others s.cur) _ (fun _ _ => others_applyMasks ..) _ _).trans (others_modThr ..)
  · dsimp only
    split
    · rfl
    · exact others_setEx ..

theorem threads_popFences (pid n : Nat) (s : State) : (popFences s pid n).threads = s.threads := by
  induction n generalizing s with
  | zero => rfl
  | succ n ih =>
    unfold popFences
    dsimp only
    split
    · rfl
    · refine (ih _).trans (foldl_keep State.threads _ ?_ _ _)
      exact fun _ _ => rfl

theorem threads_writeCqctl (s : State) (pid v : Nat) : (writeCqctl s pid v).threads = s.threads := by
  refine foldl_keep State.threads _ (fun u q => ?_) _ _
  split
  · unfold execCqctlAbort
    dsimp only
    split
    · rfl
    · exact threads_popFences ..
  · split
    · unfold execCqctlResume modHead
      dsimp only
      split
      · rfl
      · dsimp only [outState]
        split
        · rfl
        · rfl
    · rfl

theorem threads_xlStart (s : State) (ctx op count size : Nat) : (xlStart s ctx op count size).threads = s.threads := by
  unfold xlStart
  dsimp only
  split
  · rfl
  · split
    · rfl
    · split
      · have h := walkFromBy_frame atHome_frame ctx (s.ctx ctx).xlarg0.toNat walkLevels s ((s.ctx ctx).root * 4096) []
        unfold walkFrom
        split
        · next hw =>
          rw [hw] at h
          split
          · exact ((cleanPage_frame ..).threads).trans h.threads
          · rfl
        · rfl
      · rfl
      · rfl
      · rfl

theorem threads_setSeed (s : State) (pid : Nat) (v : Word64) : (setSeed s pid v).threads = s.threads := by
  unfold setSeed settleSeed
  split
  · rfl
  · rfl

/-- No write to a system register touches another thread. -/
theorem others_sysWrite (s : State) (r : SysReg) (v : Word64) : others s.cur (sysWrite s r v) = others s.cur s := by
  cases r with
  | tpc | tvec | tscr | yoke => exact others_modThr ..
  | srseed => exact others_of_threads _ (threads_setSeed ..)
  | cqctl => exact others_of_threads _ (threads_writeCqctl ..)
  | xlcmd => exact others_of_threads _ (threads_xlStart ..)
  | exmask k => exact others_writeEx ..
  | _ => rfl

/-! ### What SWR answers -/

theorem setThr_setThr (s : State) (t : Tid) (x y : Thread) : (s.setThr t x).setThr t y = s.setThr t y := by
  unfold State.setThr
  rw [Table.set_set]

/-- A write of the thread's own fields, and the next parcel. -/
theorem advance_modMe (s : State) (f : Thread → Thread) :
    advance (modMe s f) 4 = s.setThr s.cur { f (me s) with pc := (f (me s)).pc + 4 } := by
  show (s.setThr s.cur (f (me s))).setThr s.cur _ = _
  rw [setThr_setThr]
  show s.setThr s.cur { (s.setThr s.cur (f (me s))).thr s.cur with pc := ((s.setThr s.cur (f (me s))).thr s.cur).pc + 4 } = _
  rw [State.thr_setThr_self]

theorem wordOf_swr (sb : Bool) (a : GReg) (num : BitVec 11) :
    wordOf (.swr sb a num) = BitVec.ofNat 64 (2 ^ 30 + (if sb then 2 ^ 29 else 0) + 0x1D * 2 ^ 23 + a.toNat * 2 ^ 11 + num.toNat) := by
  have ha := a.isLt
  have hn := num.isLt
  have hw : (encI sb 0x1D 0 a num).toNat = 2 ^ 30 + (if sb then 2 ^ 29 else 0) + 0x1D * 2 ^ 23 + a.toNat * 2 ^ 11 + num.toNat := by
    rw [Laws.encI_toNat]
    cases sb
    · rfl
    · rfl
  show BitVec.ofNat 64 ((encI sb 0x1D 0 a num).toNat % 2 ^ 32) = _
  rw [Nat.mod_eq_of_lt (encI sb 0x1D 0 a num).isLt, hw]

theorem sysReg_unassigned {n : Nat} (h : ¬Assigned n) : sysReg n = none := by
  unfold Assigned at h
  unfold sysReg
  rw [if_neg (by omega), if_neg (by omega), if_neg (by omega)]
  split
  case h_32 => rfl
  all_goals omega

theorem swr_unassigned (sb : Bool) (a : GReg) (num : BitVec 11) (s : State) (h : ¬Assigned num.toNat) :
    exec (.swr sb a num) s = .next (Trapped s .illegal (wordOf (.swr sb a num)) (me s).pc) := by
  show execSwr sb a num s = _
  unfold execSwr
  rw [sysReg_unassigned h]
  exact trap_eq ..

theorem swr_denied (sb : Bool) (a : GReg) (num : BitVec 11) (s : State) {r : SysReg} (hr : sysReg num.toNat = some r)
    (hd : sysDenied r true (myPriv s) = true) :
    exec (.swr sb a num) s = .next (Trapped s .priv (wordOf (.swr sb a num)) (me s).pc) := by
  show execSwr sb a num s = _
  unfold execSwr
  simp only [hr, hd]
  exact trap_eq ..

/-- The numbers whose write is denied: COLSPLIT's, and the controls' for a thread without privilege. -/
theorem sysReg_denied : ∀ (p : Bool) (n : Fin 0x44), (n.val = 0x16 ∨ p = false ∧ (n.val = 0x13 ∨ n.val = 0x43 ∨ (0x20 ≤ n.val ∧ n.val ≤ 0x25))) →
    (sysReg n.val).any (fun r => sysDenied r true p) = true := by decide +kernel

/-- The numbers whose write a register ignores (R323). -/
def readOnly (n : Nat) : Prop :=
  n ∈ [0x001, 0x002, 0x003, 0x006, 0x010, 0x014, 0x017, 0x018, 0x01A, 0x01B, 0x01C, 0x040, 0x041, 0x042] ∨ (0x090 ≤ n ∧ n ≤ 0x0AF)

theorem sysReg_readOnly {n : Nat} (h : readOnly n) (p : Bool) :
    ∃ r, sysReg n = some r ∧ sysDenied r true p = false ∧ ∀ s v, sysWrite s r v = s := by
  rcases h with h | h
  · simp only [List.mem_cons, List.not_mem_nil, or_false] at h
    rcases h with rfl | rfl | rfl | rfl | rfl | rfl | rfl | rfl | rfl | rfl | rfl | rfl | rfl | rfl <;>
      exact ⟨_, rfl, rfl, fun _ _ => rfl⟩
  · unfold sysReg
    rw [if_neg (by omega)]
    split
    · exact ⟨_, rfl, rfl, fun _ _ => rfl⟩
    · rw [if_pos (by omega)]
      exact ⟨_, rfl, rfl, fun _ _ => rfl⟩

theorem swr_readOnly (sb : Bool) (a : GReg) (num : BitVec 11) (s : State) (h : readOnly num.toNat) :
    exec (.swr sb a num) s = .next (At s ((me s).pc + 4)) := by
  obtain ⟨r, hr, hd, hw⟩ := sysReg_readOnly h (myPriv s)
  rw [swr_writes sb a num s hr hd, hw]
  rfl

/-- What SWR writes to a register that the thread may write. -/
theorem swr_of (sb : Bool) (a : GReg) {num : BitVec 11} (s : State) {n : Nat} (hn : num.toNat = n) {r : SysReg} (hr : sysReg n = some r)
    (hd : sysDenied r true (myPriv s) = false) : exec (.swr sb a num) s = .next (advance (sysWrite s r (rd s a)) 4) :=
  swr_writes sb a num s (hn ▸ hr) hd

theorem swr_completes (sb : Bool) (a : GReg) (num : BitVec 11) (s : State) (h : Assigned num.toNat) (hc : num.toNat ≠ 0x16)
    (hp : (s.ctx (myCtx s)).priv = true ∨ ¬(num.toNat = 0x13 ∨ num.toNat = 0x43 ∨ (0x20 ≤ num.toNat ∧ num.toNat ≤ 0x25))) :
    Goes (exec (.swr sb a num) s) fun t =>
      (me t).pc = (me s).pc + 4 ∧ (∀ r, (me t).gr r = (me s).gr r) ∧ ∀ u, u ≠ s.cur → t.thr u = s.thr u := by
  have hp' : (num.toNat = 0x13 ∨ num.toNat = 0x43 ∨ (0x20 ≤ num.toNat ∧ num.toNat ≤ 0x25)) → (s.ctx (myCtx s)).priv = true :=
    fun hn => hp.resolve_right (not_not_intro hn)
  obtain ⟨u, hu, hpc, hg, -⟩ := swrCompletes sb a num s h hc hp'
  obtain ⟨r, hr, hd⟩ := sysReg_writable h hc (myPriv s) hp'
  refine ⟨u, hu, hpc, hg, fun v hv => ?_⟩
  rw [swr_writes sb a num s hr hd] at hu
  cases hu
  have hcur : (sysWrite s r (rd s a)).cur = s.cur := congrArg Prod.fst (regsOf_sysWrite s r (rd s a))
  unfold advance modMe
  rw [hcur]
  exact congrFun ((others_modThr ..).trans (others_sysWrite s r (rd s a))) ⟨v, hv⟩

theorem hintdrop_add (v : Word64) : (if true && decide (v ≠ BitVec.allOnes 64) then v + 1 else v) = if v = BitVec.allOnes 64 then v else v + 1 := by
  by_cases h : v = BitVec.allOnes 64
  · rw [if_pos h, h]; rfl
  · rw [if_neg h, if_pos (by simpa using h)]

theorem systemRegisterWrites : SystemRegisterWrites := by
  intro sb a num s
  dsimp only
  rw [← wordOf_swr]
  have own {n : Nat} {r : SysReg} (hr : sysReg n = some r) (hd : sysDenied r true (myPriv s) = false) (hn : num.toNat = n) :=
    swr_of sb a s hn hr hd
  have priv {n : Nat} {r : SysReg} (hr : sysReg n = some r) (hd : sysDenied r true true = false)
      (hp : (s.ctx (myCtx s)).priv = true) (hn : num.toNat = n) : exec (.swr sb a num) s = .next (advance (sysWrite s r (rd s a)) 4) :=
    swr_of sb a s hn hr (by rw [show myPriv s = true from hp]; exact hd)
  refine ⟨swr_unassigned sb a num s, fun h => ?_, swr_readOnly sb a num s, fun hn => ?_, fun hn => ?_, fun hn => ?_, fun hn => ?_,
    fun hn hh => ?_, fun hn hh => ?_, fun hp hn => ?_, fun hp hn => ?_, fun hp hn => ?_, fun hp hn => ?_, fun hp hn => ?_,
    swr_completes sb a num s⟩
  · obtain ⟨r, hr, hd⟩ := (Option.any_eq_true _ _).mp (sysReg_denied (myPriv s) ⟨num.toNat, by omega⟩ h)
    exact swr_denied sb a num s hr hd
  · rw [own (r := .tpc) rfl rfl hn, ← parcelVa_eq]
    exact congrArg _ (advance_modMe ..)
  · rw [own (r := .tvec) rfl rfl hn, ← parcelVa_eq]
    exact congrArg _ (advance_modMe ..)
  · rw [own (r := .tscr) rfl rfl hn]
    exact congrArg _ (advance_modMe ..)
  · rw [own (r := .yoke) rfl rfl hn]
    exact congrArg _ (advance_modMe ..)
  · rw [own (r := .hintdrop) rfl rfl hn]
    unfold sysWrite setHintdrop State.modCtx
    dsimp only
    rw [hh]
    rfl
  · rw [own (r := .hintdrop) rfl rfl hn]
    unfold sysWrite setHintdrop State.modCtx
    dsimp only
    rw [hh, hintdrop_add]
    rfl
  · rw [priv (r := .pincap) rfl rfl hp hn]
    rfl
  · rw [priv (r := .xlmode) rfl rfl hp hn]
    rfl
  · rw [priv (r := .xlarg0) rfl rfl hp hn]
    rfl
  · rw [priv (r := .xlstat) rfl rfl hp hn]
    rfl
  · rw [priv (r := .xlarg1) rfl rfl hp hn]
    rfl

/-! ### The register writes with a meaning of their own -/

theorem clampLease_eq (v : Nat) : clampLease v = min 64000 (max 128 (v % 2 ^ 17)) := by
  unfold clampLease
  dsimp only
  split
  · omega
  · split
    · omega
    · omega

theorem setLease_eq (s : State) (ctx : Nat) (v : Word64) :
    setLease s ctx v = s.setCtx ctx { s.ctx ctx with leaseNs := min 64000 (max 128 (v.toNat % 2 ^ 17)) } := by
  rw [← clampLease_eq]
  rfl

/-- TTBASE's ROOT is bits 51 to 12 (R84). -/
theorem ttbaseWrite_eq (s : State) (ctx : Nat) (v : Word64) : execTtbaseWrite ctx v s
    = .next (s.setCtx ctx { s.ctx ctx with root := v.toNat / 2 ^ 12 % 2 ^ 40, en := v.getLsbD 0 }) := by
  rw [← Nat.shiftRight_eq_div_pow]
  rfl

theorem settleSeed_same {s : State} {pid at_ : Nat} {w : BitVec 32} (h : (s.clu pid).srNext = some (at_, w)) (hc : sameCycle s pid at_ = true) :
    settleSeed s pid = s := by
  unfold settleSeed
  rw [h]
  exact if_pos hc

theorem settleSeed_later {s : State} {pid at_ : Nat} {w : BitVec 32} (h : (s.clu pid).srNext = some (at_, w))
    (hc : sameCycle s pid at_ = false) :
    settleSeed s pid = s.setClu pid { s.clu pid with srSeed := w, sr := [], srNext := none } := by
  unfold settleSeed State.modClu Cluster.seeded
  rw [h]
  exact if_neg (by simpa using hc)

/-- What ASHARE is from the next ring cycle on. -/
theorem clampShare_eq (x : Nat) : (if x = 0 then 1 else if 4096 < x then 4096 else x) = min 4096 (max 1 x) := by
  split
  · omega
  · split
    · omega
    · omega

theorem ashareWrite_goes (s : State) (ctx : Nat) (v : BitVec 64) : Goes (execAshareWrite ctx v s) fun t =>
    t = s.setCtx ctx { s.ctx ctx with ashare := (t.ctx ctx).ashare }
    ∧ ∀ c, s.now * 2700 / 1000000 < c → shareFor (t.ctx ctx) c = min 4096 (max 1 (v.toNat % 2 ^ 13)) := by
  refine ⟨_, rfl, ?_, fun c hc => ?_⟩
  · rw [State.ctx_modCtx_self]
    rfl
  · rw [State.ctx_modCtx_self, ← clampShare_eq]
    unfold shareFor
    rw [List.find?_cons_of_pos (by simpa [ringCycle] using hc)]
    rfl

theorem advance_setSeed (s : State) (pid : Nat) (v : Word64) : advance (setSeed s pid v) 4 = At (setSeed s pid v) ((me s).pc + 4) := by
  unfold setSeed settleSeed
  split
  · rfl
  · rfl

theorem registerWritesOfTheirOwn : RegisterWritesOfTheirOwn := by
  intro sb a ctx pid v s
  dsimp only
  refine ⟨ttbaseWrite_eq s ctx v, ?_, rfl, fun at_ w h => ⟨settleSeed_same h, settleSeed_later h⟩, ashareWrite_goes s ctx v, ?_, ?_, fun hp => ?_⟩
  · exact congrArg _ (setLease_eq s ctx v)
  · rw [swr_of sb a s (n := 0x011) rfl (r := .lease) rfl rfl]
    show Host.Outcome.next (advance (setLease s (myCtx s) (rd s a)) 4) = _
    rw [setLease_eq]
    rfl
  · rw [swr_of sb a s (n := 0x015) rfl (r := .srseed) rfl rfl]
    exact congrArg _ (advance_setSeed ..)
  · rw [swr_of sb a s (n := 0x020) rfl (r := .ttbase) rfl (by rw [show myPriv s = true from hp]; rfl)]
    show Host.Outcome.next (advance (outState (execTtbaseWrite (myCtx s) (rd s a) s) s) 4) = _
    rw [ttbaseWrite_eq]
    rfl

/-- Settles O16: a write is one change of the state and the next parcel; the changes, register by register. -/
theorem systemRegisterEffects : Obligations.SystemRegisterEffects := ⟨systemRegisterWrites, registerWritesOfTheirOwn⟩

end Sys2Proof.Registers
end

section
/-! PROOFS. Translation commands as they start (R84 to R87): O17. -/

namespace Sys2Proof.Translation
open Sys2Proof Sys2Proof.Machine Sys2Proof.Claims

/-! ### A command starts -/

/-- The command that a context runs, from its arguments as they stand. -/
def withRun (s : State) (ctx op count size err p entry : Nat) (drain : List Nat) : State := s.modCtx ctx fun c =>
  { c with xl := some ⟨op, count, size, err, c.xlarg0.toNat, c.xlarg1.toNat, p, entry, drain⟩ }

theorem xlStart_busy {s : State} {ctx op count size : Nat} (h : (s.ctx ctx).xl.isSome = true) :
    xlStart s ctx op count size = s.setCtx ctx { s.ctx ctx with xlovr := true } := by
  unfold xlStart
  exact if_pos h

theorem xlStart_refused {s : State} {ctx op count size : Nat} (h : (s.ctx ctx).xl = none)
    (he : xlCheck s.pkg.stage (s.ctx ctx) op count size ≠ 0) :
    xlStart s ctx op count size = withRun s ctx op count size (xlCheck s.pkg.stage (s.ctx ctx) op count size) 0 0 [] := by
  unfold xlStart
  dsimp only
  rw [h, if_neg (by simp), if_pos he]
  rfl

theorem xlStart_drops {s : State} {ctx op count size : Nat} (h : (s.ctx ctx).xl = none)
    (he : xlCheck s.pkg.stage (s.ctx ctx) op count size = 0) (ho : op = 1 ∨ op = 2) :
    xlStart s ctx op count size =
      withRun (dropLeaves s ctx (decide (op = 2)) true (s.ctx ctx).xlarg0.toNat (rangeLen count size)) ctx op count size 0 0 0
        (drainList s ctx (decide (op = 2)) (s.ctx ctx).xlarg0.toNat (rangeLen count size)) := by
  unfold xlStart
  dsimp only
  rw [h, if_neg (by simp), if_neg (not_not_intro he)]
  rcases ho with rfl | rfl
  · rfl
  · rfl

@[simp] theorem ctx_withRun (s : State) (ctx op count size err p entry : Nat) (drain : List Nat) :
    ((withRun s ctx op count size err p entry drain).ctx ctx).xl
      = some ⟨op, count, size, err, (s.ctx ctx).xlarg0.toNat, (s.ctx ctx).xlarg1.toNat, p, entry, drain⟩ := by
  rw [withRun, State.ctx_modCtx_self]

theorem ctx_withRun_ne (s : State) {ctx k : Nat} (op count size err p entry : Nat) (drain : List Nat) (h : k ≠ ctx) :
    (withRun s ctx op count size err p entry drain).ctx k = s.ctx k := by
  rw [withRun, State.ctx_modCtx, if_neg h]

/-! ### What is dropped -/

/-- A cached leaf of the context whose page meets the range, or any of its leaves. -/
def offLeaf (ctx : Nat) (all : Bool) (lo n : Nat) (e : TlbEnt) : Bool :=
  decide (e.ctx = ctx) && vaMeets all lo n e.va (2 ^ pageBits e.level)

/-- A cluster without the leaves, code lines and table nodes of a range. -/
def cluWithout (ctx : Nat) (all code : Bool) (lo n : Nat) (c : Cluster) : Cluster :=
  { c with
    icache := c.icache.filter fun l => !(code && decide (l.ctx = ctx) && vaMeets all lo n l.va 256)
    tlb1 := c.tlb1.filter fun e => !offLeaf ctx all lo n e
    tlb := c.tlb.filter fun e => !offLeaf ctx all lo n e
    nodes := c.nodes.filter fun e => !(decide (e.1 = ctx)
      && vaMeets all (lo % 2 ^ 57) n (e.2.2.1 * 2 ^ (12 + 9 * e.2.1)) (2 ^ (12 + 9 * e.2.1))) }

theorem clu_dropLeaves (s : State) (ctx : Nat) (all code : Bool) (lo n p : Nat) :
    (dropLeaves s ctx all code lo n).clu p = cluWithout ctx all code lo n (s.clu p) :=
  Table.mapVals_get (cluWithout ctx all code lo n) s.clusters p Cluster.reset rfl

theorem leaves_dropLeaves (s : State) (ctx : Nat) (all code : Bool) (lo n p : Nat) (e : TlbEnt) :
    e ∈ ((dropLeaves s ctx all code lo n).clu p).tlb1 ++ ((dropLeaves s ctx all code lo n).clu p).tlb
      ↔ e ∈ (s.clu p).tlb1 ++ (s.clu p).tlb ∧ offLeaf ctx all lo n e = false := by
  rw [clu_dropLeaves]
  unfold cluWithout
  rw [← List.filter_append, List.mem_filter, Bool.not_eq_true']

theorem offLeaf_all (ctx lo n : Nat) (e : TlbEnt) : offLeaf ctx true lo n e = false ↔ e.ctx ≠ ctx := by simp [offLeaf, vaMeets]

theorem offLeaf_range (ctx lo n : Nat) (e : TlbEnt) :
    offLeaf ctx false lo n e = false ↔ (e.ctx ≠ ctx ∨ e.va + 2 ^ pageBits e.level ≤ lo ∨ lo + n ≤ e.va) := by
  simp only [offLeaf, vaMeets, rangesMeet, Bool.false_or, Bool.and_eq_false_iff, decide_eq_false_iff_not, not_lt, ne_eq]

/-! ### The checks of an INVAL -/

theorem xlCheck_invalAll (stage : Nat) (c : Ctx) {count size : Nat} (h1 : 1 ≤ count) (h2 : count < 2 ^ 32) (h3 : size ≤ 2) :
    xlCheck stage c 2 count size = 0 := by
  unfold xlCheck
  exact if_neg (by omega)

/-- A range of whole pages in the lower half is accepted. -/
theorem vaRangeOk_low {a count size : Nat} (h1 : 1 ≤ count) (ha : a % 2 ^ pageBits size = 0) (hn : a + rangeLen count size ≤ 2 ^ 56) :
    vaRangeOk a count size = true := by
  have hl : 0 < rangeLen count size := Nat.mul_pos h1 (Nat.two_pow_pos _)
  have c1 : canonical a = true := by unfold canonical; simp; omega
  have c2 : canonical (a + rangeLen count size - 1) = true := by unfold canonical; simp; omega
  have same : (a < 2 ^ 63) = (a + rangeLen count size - 1 < 2 ^ 63) := by rw [eq_iff_iff]; omega
  unfold vaRangeOk
  simp only [ha, c1, c2, same, decide_true, Bool.and_true, Bool.true_and, decide_eq_true_eq]
  omega

theorem xlCheck_inval (stage : Nat) {c : Ctx} {count size : Nat} (h1 : 1 ≤ count) (h2 : count < 2 ^ 32) (h3 : size ≤ 2)
    (ha : c.xlarg0.toNat % 2 ^ pageBits size = 0) (hn : c.xlarg0.toNat + rangeLen count size ≤ 2 ^ 56) :
    xlCheck stage c 1 count size = 0 := by
  unfold xlCheck
  dsimp only
  rw [if_neg (by omega), vaRangeOk_low h1 ha hn]
  rfl

/-! ### INVAL and INVAL.ALL -/

theorem invalAll_goes (ctx count size : Nat) (s : State) (h : (s.ctx ctx).xl = none) (h1 : 1 ≤ count) (h2 : count < 2 ^ 32) (h3 : size ≤ 2) :
    Goes (exec (.invalAll ctx count size) s) fun t =>
      t = { s with clusters := t.clusters, ctxs := t.ctxs } ∧ (∀ k, k ≠ ctx → t.ctx k = s.ctx k) ∧ (t.ctx ctx).xl.isSome = true
      ∧ (∀ p, ∀ e ∈ (t.clu p).tlb1 ++ (t.clu p).tlb, e.ctx ≠ ctx) ∧ (∀ p, ∀ l ∈ (t.clu p).icache, l.ctx ≠ ctx)
      ∧ ∀ p, ∀ e ∈ (s.clu p).tlb1 ++ (s.clu p).tlb, e.ctx ≠ ctx → e ∈ (t.clu p).tlb1 ++ (t.clu p).tlb := by
  refine ⟨_, congrArg Host.Outcome.next (xlStart_drops h (xlCheck_invalAll _ _ h1 h2 h3) (.inr rfl)), rfl, fun k hk => ctx_withRun_ne _ _ _ _ _ _ _ _ hk, ?_,
    fun p e he => ?_, fun p l hl => ?_, fun p e he hc => ?_⟩
  · rw [ctx_withRun]; rfl
  · exact (offLeaf_all ..).1 ((leaves_dropLeaves ..).1 he).2
  · replace hl : l ∈ (cluWithout ctx true true (s.ctx ctx).xlarg0.toNat (rangeLen count size) (s.clu p)).icache := by
      rw [← clu_dropLeaves]
      exact hl
    simpa [vaMeets] using (List.mem_filter.1 hl).2
  · exact (leaves_dropLeaves ..).2 ⟨he, (offLeaf_all ..).2 hc⟩

theorem inval_goes (ctx count size : Nat) (s : State) (h : (s.ctx ctx).xl = none) (h1 : 1 ≤ count) (h2 : count < 2 ^ 32) (h3 : size ≤ 2) :
    let lo := (s.ctx ctx).xlarg0.toNat
    let n := rangeLen count size
    Goes (exec (.inval ctx count size) s) fun t =>
      t = { s with clusters := t.clusters, ctxs := t.ctxs } ∧ (∀ k, k ≠ ctx → t.ctx k = s.ctx k) ∧ (t.ctx ctx).xl.isSome = true
      ∧ (lo % 2 ^ pageBits size = 0 → lo + n ≤ 2 ^ 56 →
          ∀ p, ∀ e ∈ (t.clu p).tlb1 ++ (t.clu p).tlb, e.ctx = ctx → e.va + 2 ^ pageBits e.level ≤ lo ∨ lo + n ≤ e.va)
      ∧ ∀ p, ∀ e ∈ (s.clu p).tlb1 ++ (s.clu p).tlb, (e.ctx ≠ ctx ∨ e.va + 2 ^ pageBits e.level ≤ lo ∨ lo + n ≤ e.va) →
          e ∈ (t.clu p).tlb1 ++ (t.clu p).tlb := by
  intro lo n
  by_cases he : xlCheck s.pkg.stage (s.ctx ctx) 1 count size = 0
  · refine ⟨_, congrArg Host.Outcome.next (xlStart_drops h he (.inl rfl)), rfl, fun k hk => ctx_withRun_ne _ _ _ _ _ _ _ _ hk, ?_,
      fun _ _ p e hm hc => ?_, fun p e hm ho => ?_⟩
    · rw [ctx_withRun]; rfl
    · exact ((offLeaf_range ..).1 ((leaves_dropLeaves ..).1 hm).2).resolve_left (not_not_intro hc)
    · exact (leaves_dropLeaves ..).2 ⟨hm, (offLeaf_range ..).2 ho⟩
  · refine ⟨_, congrArg Host.Outcome.next (xlStart_refused h he), rfl, fun k hk => ctx_withRun_ne _ _ _ _ _ _ _ _ hk, ?_,
      fun ha hn => absurd (xlCheck_inval _ h1 h2 h3 ha hn) he, fun p e hm _ => hm⟩
    rw [ctx_withRun]; rfl

/-- Settles O17: a command that starts is one change of the context, and of the caches what `dropLeaves` filters out. -/
theorem invalDropsLeaves : Obligations.InvalDropsLeaves := by
  intro ctx count size s
  dsimp only
  refine ⟨fun h i hi => ?_, fun h h1 h2 h3 => ⟨invalAll_goes ctx count size s h h1 h2 h3, inval_goes ctx count size s h h1 h2 h3⟩⟩
  simp only [List.mem_cons, List.not_mem_nil, or_false] at hi
  rcases hi with rfl | rfl | rfl | rfl | rfl <;> exact congrArg Host.Outcome.next (xlStart_busy h)

end Sys2Proof.Translation
end

section
/-! PROOFS. Table walks (R78, R80 to R82) and instruction fills (R336, R337): O32. -/

namespace Sys2Proof.Walks
open Sys2Proof Sys2Proof.Machine Sys2Proof.Claims Sys2Proof.GenAccess

/-! ### The caches of translations -/

/-- The leaf that a walk has installed is the first that a lookup of both levels meets. -/
theorem leaf_installLeaf (s : State) (pid : Nat) (leaf : TlbEnt) :
    ∃ l1 l2, ((installLeaf s pid leaf).clu pid).tlb1 = leaf :: l1 ∧ ((installLeaf s pid leaf).clu pid).tlb = leaf :: l2 := by
  unfold installLeaf installFirst
  rw [State.clu_modClu_self, State.clu_modClu_self]
  exact ⟨_, _, rfl, rfl⟩

theorem cachedLeaf_installLeaf (s : State) {pid ctx va : Nat} {leaf : TlbEnt} (hc : leaf.ctx = ctx)
    (hv : leaf.va = va / 2 ^ pageBits leaf.level * 2 ^ pageBits leaf.level) : cachedLeaf (installLeaf s pid leaf) pid ctx va = some leaf := by
  obtain ⟨l1, l2, h1, -⟩ := leaf_installLeaf s pid leaf
  unfold cachedLeaf
  rw [h1, List.cons_append]
  exact List.find?_cons_of_pos (by simp [hc, ← hv])

/-! ### A walk -/

/-- What a walk that finds a leaf answers: the leaf is the one of the address, and the entry word is what memory holds there. -/
theorem walkFromBy_leaf {ctx va : Nat} {ls : List Nat} {s r : State} {node x : Nat} {ns ms : List (Nat × Nat)} {leaf : TlbEnt}
    (h : walkFromBy atHome ctx va ls s node ns = (r, .ok (leaf, x), ms)) :
    leaf.ctx = ctx ∧ leaf.va = va / 2 ^ pageBits leaf.level * 2 ^ pageBits leaf.level ∧ r.mem.readNat leaf.entry 8 = x := by
  induction ls generalizing s node ns with
  | nil => cases h
  | cons level rest ih =>
    unfold walkFromBy at h
    dsimp only at h
    split at h
    · cases h
    · split at h
      · cases h
      · split at h
        · exact ih h
        · cases h
          exact ⟨rfl, rfl, rfl⟩

theorem walkBy_leaf {pid ctx va : Nat} {s r : State} {x : Nat} {ns : List (Nat × Nat)} {leaf : TlbEnt}
    (h : walkBy atHome s pid ctx va = (r, .ok (leaf, x, ns))) :
    leaf.ctx = ctx ∧ leaf.va = va / 2 ^ pageBits leaf.level * 2 ^ pageBits leaf.level ∧ r.mem.readNat leaf.entry 8 = x := by
  unfold walkBy at h
  dsimp only at h
  split at h
  · cases h
  · next hw =>
    cases h
    exact walkFromBy_leaf hw

/-- The A bit, once it is written, stands in memory. -/
theorem orEntryBy_sets {s : State} {pid a x bit : Nat} (hm : s.mem.wf = true) (hl : s.late = []) (hk : lockHeld s a = false) :
    (orEntryBy atHome s pid a x bit).mem.readNat a 8 = (x ||| bit) % 2 ^ 64 := by
  unfold orEntryBy
  rw [hl]
  dsimp only
  rw [if_neg (by simp), if_neg (by simp [hk])]
  have hb : (leBytes 8 (x ||| bit)).length = 8 := leBytes_length ..
  have hw : (atHome (holdIf (readHeld s a) s) a 8).mem.wf = true := ((HomeFrame.ofHeld _ s).trans (atHome_frame ..)).mem hm
  show leNat ((writeAtHome (holdIf (readHeld s a) s) pid a (leBytes 8 (x ||| bit))).1.mem.readList a 8) = _
  have hr := Jumps.readList_writeList (atHome (holdIf (readHeld s a) s) a 8).mem a (leBytes 8 (x ||| bit)) hw
  rw [hb] at hr
  rw [writeAtHome_mem, hb, hr, leNat_leBytes]

theorem leafFor_walks {s r : State} {pid ctx va x : Nat} {ns : List (Nat × Nat)} {leaf : TlbEnt} (hc : cachedLeaf s pid ctx va = none)
    (hw : walkBy atHome s pid ctx va = (r, .ok (leaf, x, ns))) :
    (leafFor s pid ctx va).1 = if reserved r (leaf.pa + va % 2 ^ pageBits leaf.level) then r
      else installLeaf (installNodes (if x.testBit 5 then r else orEntryBy atHome r pid leaf.entry x 32) pid ctx va ns) pid leaf := by
  unfold leafFor leafForBy walkLeafBy
  rw [hc]
  dsimp only
  rw [hw]
  dsimp only
  split
  · rfl
  · rfl

theorem leafFor_fails {s r : State} {pid ctx va : Nat} {c : Cause} (hc : cachedLeaf s pid ctx va = none)
    (hw : walkBy atHome s pid ctx va = (r, .error c)) : (leafFor s pid ctx va).1 = r := by
  unfold leafFor leafForBy walkLeafBy
  rw [hc]
  dsimp only
  rw [hw]

/-- R82: the A bit of the leaf's entry is set, by this walk where it was not. -/
theorem entry_accessed {s r : State} {pid ctx va x : Nat} {ns : List (Nat × Nat)} {leaf : TlbEnt} (hm : s.mem.wf = true)
    (hw : walkBy atHome s pid ctx va = (r, .ok (leaf, x, ns))) (hl : r.late = []) (hk : lockHeld r leaf.entry = false) :
    ((if x.testBit 5 then r else orEntryBy atHome r pid leaf.entry x 32).mem.readNat leaf.entry 8).testBit 5 = true := by
  split
  · next hx => rwa [(walkBy_leaf hw).2.2]
  · have hr : r.mem.wf = true := by
      have := (walkBy_frame atHome_frame s pid ctx va).mem hm
      rwa [hw] at this
    rw [orEntryBy_sets hr hl hk, Nat.testBit_mod_two_pow, Nat.testBit_or]
    rw [show Nat.testBit 32 5 = true from rfl, Bool.or_true]
    rfl

theorem tableWalk_runs {s : State} {pid ctx va : Nat}
    (hr : (s.flocks.any fun f => decide (f.2.ctx = ctx) && f.2.resident && f.2.clus.contains pid) = true) (hv : canonical va = true)
    (he : (s.ctx ctx).en = true) : exec (.tableWalk pid ctx va) s = .next (leafFor s pid ctx va).1 := by
  show execTableWalk pid ctx va s = _
  unfold execTableWalk
  dsimp only
  rw [hr, hv, he]
  rfl

theorem tableWalk_idle {s : State} {pid ctx va : Nat}
    (h : (s.flocks.any fun f => decide (f.2.ctx = ctx) && f.2.resident && f.2.clus.contains pid) = false ∨ canonical va = false
      ∨ (s.ctx ctx).en = false) : exec (.tableWalk pid ctx va) s = .next s := by
  show execTableWalk pid ctx va s = _
  unfold execTableWalk
  refine if_pos ?_
  rcases h with h | h | h
  · rw [h]; rfl
  · rw [h]; simp
  · rw [h]; simp

theorem tableWalks : TableWalks := by
  intro pid ctx va s
  dsimp only
  refine ⟨fun hr hv he => ⟨_, tableWalk_runs hr hv he, ?_⟩, fun r c hr hv he hc hw => ?_, tableWalk_idle⟩
  · have hf := leafFor_frame s pid ctx va
    refine ⟨hf.threads, hf.groups, hf.bare, fun r leaf x ns hm hc hw => ?_⟩
    rw [leafFor_walks hc hw]
    refine ⟨fun hres => if_pos hres, fun hres => ?_⟩
    rw [if_neg (by simp [hres])]
    generalize ht : installNodes (if x.testBit 5 then r else orEntryBy atHome r pid leaf.entry x 32) pid ctx va ns = u
    obtain ⟨l1, l2, h1, h2⟩ := leaf_installLeaf u pid leaf
    obtain ⟨hctx, hva, _⟩ := walkBy_leaf hw
    refine ⟨by rw [h2]; exact List.mem_cons_self, by rw [h1]; exact List.mem_cons_self, fun hl hk => ?_,
      fun _ _ => cachedLeaf_installLeaf u hctx hva⟩
    have hu : (installLeaf u pid leaf).mem = u.mem := rfl
    rw [hu, ← ht]
    exact entry_accessed hm hw hl hk
  · rw [tableWalk_runs hr hv he, leafFor_fails hc hw]

/-! ### Instruction fills -/

/-- The line that is filled is the first of the cluster's instruction cache. -/
theorem icache_installIc (s : State) (pid ctx va : Nat) (data : List Byte) :
    ∃ rest, ((installIc s pid ctx va data).clu pid).icache = ⟨ctx, va, data⟩ :: rest := by
  unfold installIc
  rw [State.clu_modClu_self]
  exact ⟨_, rfl⟩

/-- Every cluster that is filled has the line. -/
theorem icache_installAll (ctx va : Nat) (data : List Byte) (ps : List Nat) (s : State) {p : Nat}
    (h : p ∈ ps ∨ ∃ rest, (s.clu p).icache = ⟨ctx, va, data⟩ :: rest) :
    ∃ rest, ((ps.foldl (fun s p => installIc s p ctx va data) s).clu p).icache = ⟨ctx, va, data⟩ :: rest := by
  induction ps generalizing s with
  | nil => exact h.resolve_left (List.not_mem_nil)
  | cons q ps ih =>
    refine ih _ ?_
    by_cases hq : p = q
    · exact .inr (hq ▸ icache_installIc s q ctx va data)
    · refine h.imp (fun hm => (List.mem_cons.1 hm).resolve_left hq) fun hr => ?_
      obtain ⟨rest, hr⟩ := hr
      refine ⟨rest, Eq.trans ?_ hr⟩
      exact congrArg Cluster.icache (State.clu_modClu_ne _ _ hq)

theorem mem_installAll (ctx va : Nat) (data : List Byte) (ps : List Nat) (s : State) :
    (ps.foldl (fun s p => installIc s p ctx va data) s).mem = s.mem :=
  foldl_keep State.mem (fun s p => installIc s p ctx va data) (fun _ _ => rfl) _ _

/-- The clusters that a fill serves: the one that asks, and those of its die that run the same image and context. -/
theorem mem_fetchers {s : State} {fid pid p : Nat} (h : p = pid ∨ (p / 64 = pid / 64 ∧ ∃ f ∈ s.flocks, f.2.ctx = (s.flk fid).ctx
    ∧ f.2.rcd.image = (s.flk fid).rcd.image ∧ f.2.resident = true ∧ p ∈ f.2.clus)) : p ∈ fetchers s fid pid := by
  unfold fetchers
  rw [List.mem_dedup, List.mem_cons]
  refine h.imp id fun ⟨hd, f, hf, hc, hi, hr, hp⟩ => ?_
  exact List.mem_flatMap.2 ⟨f, List.mem_filter.2 ⟨hf, by simp [hc, hi, hr]⟩, List.mem_filter.2 ⟨hp, by simp [hd]⟩⟩

theorem icFill_fills {s : State} {fid pid va pa p : Nat} (h : (translate s pid (s.flk fid).ctx va .fetch).2 = .ok pa)
    (hp : p ∈ fetchers s fid pid) :
    ∃ l ∈ ((icFill s fid pid va).1.clu p).icache, l.ctx = (s.flk fid).ctx ∧ l.va = va / 256 * 256
      ∧ l.data = (icFill s fid pid va).1.mem.readList (pa / 256 * 256) 256 := by
  have hf := translate_frame s pid (s.flk fid).ctx va .fetch
  unfold icFill
  dsimp only
  generalize htr : translate s pid (s.flk fid).ctx va .fetch = tr at h hf
  obtain ⟨u, res⟩ := tr
  cases h
  dsimp only
  obtain ⟨rest, hi⟩ := icache_installAll (s.flk fid).ctx (va / 256 * 256) (readAtHome (holdIf (readHeld u pa) u) (pa / 256 * 256) 256).2.1
    (fetchers s fid pid) (l2Touch (readAtHome (holdIf (readHeld u pa) u) (pa / 256 * 256) 256).1 (pa / 256 * 256) 256 2 false false) (.inl hp)
  have hfe : fetchers (l2Touch (readAtHome (holdIf (readHeld u pa) u) (pa / 256 * 256) 256).1 (pa / 256 * 256) 256 2 false false) fid pid
      = fetchers s fid pid := by
    have hall := ((hf.trans (HomeFrame.ofHeld (readHeld u pa) u)).trans (readAtHome_frame _ (pa / 256 * 256) 256)).trans
      (l2Touch_frame _ (pa / 256 * 256) 256 2 false false)
    unfold fetchers
    rw [hall.flk, hall.flocks]
  rw [hfe]
  refine ⟨_, by rw [hi]; exact List.mem_cons_self, rfl, rfl, ?_⟩
  rw [mem_installAll, Results.l2Touch_mem]
  rfl

theorem instructionFill_wanted {s : State} {pid fid va : Nat} (hr : (s.flk fid).resident = true) (hv : canonical va = true)
    (he : (s.ctx (s.flk fid).ctx).en = true)
    (hw : ∃ e ∈ s.threads, e.1.fid = fid ∧ s.pidOf fid e.1.clu = pid ∧ e.2.status = .running ∧ (e.2.pc.toNat = va ∨ (e.2.pc + 4).toNat = va)) :
    exec (.instructionFill pid fid va) s = .next (icFill s fid pid va).1 := by
  show execInstructionFill pid fid va s = _
  unfold execInstructionFill
  have : (s.threads.any fun e => decide (e.1.fid = fid) && decide (s.pidOf fid e.1.clu = pid)
      && decide (e.2.status = .running) && (decide (e.2.pc.toNat = va) || decide ((e.2.pc + 4).toNat = va))) = true := by
    obtain ⟨e, he, h1, h2, h3, h4⟩ := hw
    refine List.any_eq_true.2 ⟨e, he, ?_⟩
    rw [decide_eq_true h1, decide_eq_true h2, decide_eq_true h3]
    simpa only [Bool.true_and, Bool.or_eq_true, decide_eq_true_eq] using h4
  rw [this, hr, hv, he]
  rfl

theorem instructionFill_unwanted {s : State} {pid fid va : Nat}
    (hw : ¬∃ e ∈ s.threads, e.1.fid = fid ∧ s.pidOf fid e.1.clu = pid ∧ e.2.status = .running ∧ (e.2.pc.toNat = va ∨ (e.2.pc + 4).toNat = va)) :
    exec (.instructionFill pid fid va) s = .next s := by
  show execInstructionFill pid fid va s = _
  unfold execInstructionFill
  refine if_pos ?_
  have : (s.threads.any fun e => decide (e.1.fid = fid) && decide (s.pidOf fid e.1.clu = pid)
      && decide (e.2.status = .running) && (decide (e.2.pc.toNat = va) || decide ((e.2.pc + 4).toNat = va))) = false := by
    rw [Bool.eq_false_iff]
    intro ha
    obtain ⟨e, he, hx⟩ := List.any_eq_true.1 ha
    exact hw ⟨e, he, by simpa [and_assoc] using hx⟩
  rw [this]
  rfl

theorem instructionFills : InstructionFills := by
  intro pid fid va s
  dsimp only
  refine ⟨instructionFill_unwanted, fun hw hr hv he pa hpa => ⟨_, instructionFill_wanted hr hv he hw, ?_⟩⟩
  have hf := Emission.icFill_frame s fid pid va
  exact ⟨hf.threads, hf.groups, fun p hp => icFill_fills hpa (mem_fetchers hp)⟩

/-- Settles O32: a walk installs the leaf in front of both caches and writes its A bit; a fill puts the line in front of the
instruction cache of each cluster that it serves. -/
theorem walksAndFills : Obligations.WalksAndFills := ⟨tableWalks, instructionFills⟩

end Sys2Proof.Walks
end

section
/-! PROOFS. Host accesses to device memory, snoops and CXL errors (R74, R89, R92, R305, R317, R428): O31. -/

namespace Sys2Proof.HostSide
open Sys2Proof Sys2Proof.Machine Sys2Proof.Claims Sys2Proof.Results

/-! ### One byte at its home -/

theorem linesOf_one (a : Nat) : linesOf a 1 = [a] := by
  unfold linesOf
  rw [show (a % 256 + 1 + 255) / 256 = 1 by omega]
  rfl

theorem modHome_keep {β : Type} (g : HomeLine → β) (s : State) (a b : Nat) (f : HomeLine → HomeLine) (hf : ∀ h, g (f h) = g h) :
    g ((s.modHome a f).homeOf b) = g (s.homeOf b) := by
  rw [State.homeOf_modHome]
  split
  · next h =>
    rw [hf]
    unfold State.homeOf
    rw [h]
  · rfl

/-- What a fold over the homes leaves: every other part of the state. -/
theorem foldl_homes {α : Type} (f : State → α → State) (hf : ∀ u a, f u a = { u with homes := (f u a).homes }) (l : List α) (s : State) :
    l.foldl f s = { s with homes := (l.foldl f s).homes } := by
  induction l generalizing s with
  | nil => rfl
  | cons a l ih => rw [List.foldl_cons, ih, hf s a]

theorem bumpCt_homes (s : State) (pa n ct : Nat) : bumpCt s pa n ct = { s with homes := (bumpCt s pa n ct).homes } := by
  refine foldl_homes _ ?_ _ _
  exact fun _ _ => rfl

theorem backInvalidate_homes (s : State) (pa n : Nat) : backInvalidate s pa n = { s with homes := (backInvalidate s pa n).homes } := by
  refine foldl_homes _ (fun u a => ?_) _ _
  split
  · rfl
  · rfl

theorem bumpCt_grant (s : State) (pa n ct a : Nat) : ((bumpCt s pa n ct).homeOf a).grant = (s.homeOf a).grant := by
  refine foldl_keep (fun u => (u.homeOf a).grant) _ ?_ _ _
  exact fun u k => modHome_keep HomeLine.grant u _ a _ fun _ => rfl

theorem backInvalidate_grant (s : State) (pa n a : Nat) : ((backInvalidate s pa n).homeOf a).grant = (s.homeOf a).grant := by
  refine foldl_keep (fun u => (u.homeOf a).grant) _ (fun u k => ?_) _ _
  split
  · exact modHome_keep HomeLine.grant u _ a _ fun _ => rfl
  · rfl

theorem l1Update_homeOf (s : State) (pid pa : Nat) (bs : List Byte) (m : Nat → Bool) (a : Nat) :
    (l1Update s pid pa bs m).homeOf a = s.homeOf a := by
  unfold l1Update
  dsimp only
  split
  · rfl
  · rfl

/-- A unit without lines has none to update. -/
theorem l1Update_noLines {s : State} {pid pa : Nat} {bs : List Byte} {m : Nat → Bool} (h : (s.clu pid).l1 = []) : l1Update s pid pa bs m = s := by
  unfold l1Update
  rw [h]
  rfl

/-- A write at a home takes no grant and gives none. -/
theorem homeWrite_grant (s : State) (pid pa : Nat) (bs : List Byte) (a : Nat) :
    ((homeWrite s pid pa bs).1.homeOf a).grant = (s.homeOf a).grant := by
  unfold homeWrite homeWriteSome
  dsimp only
  rw [bumpCt_grant, l1Update_homeOf]
  exact backInvalidate_grant ..

/-- A write for a unit without lines touches memory and the homes alone. -/
theorem homeWrite_noLines {s : State} {pid pa : Nat} {bs : List Byte} (h : (s.clu pid).l1 = []) :
    (homeWrite s pid pa bs).1 = { s with mem := s.mem.writeList pa bs, homes := (homeWrite s pid pa bs).1.homes } := by
  unfold homeWrite homeWriteSome
  dsimp only
  rw [l1Update_noLines (by rw [backInvalidate_homes]; exact h), bumpCt_homes, backInvalidate_homes]

/-! ### The host's bytes -/

theorem devBiased_of_not_mem {s : State} {a : Nat} (h : a / 65536 ∉ s.bias) : devBiased s a = false := by simp [devBiased, h]

theorem hostByte_read {s : State} {a d : Nat} (hb : a / 65536 ∉ s.bias) (hp : pinHeld s a = false) (hg : (s.homeOf a).grant = 0) :
    hostByte s false a d = s := by
  unfold hostByte holdIf
  rw [hp]
  simp [devBiased_of_not_mem hb, hg]

theorem hostByte_write {s : State} {a d : Nat} (hb : a / 65536 ∉ s.bias) (hp : pinHeld s a = false) (hk : lockHeld s a = false)
    (hg : (s.homeOf a).grant = 0) :
    hostByte s true a d = (homeWrite (noteRaces s none noClu (.home a a) a 1) noClu a [BitVec.ofNat 8 d]).1 := by
  unfold hostByte holdIf
  rw [hp]
  simp [devBiased_of_not_mem hb, hg, hk]

/-- What the host's write of some bytes leaves: its bytes and the homes' records have changed, and of the accesses in
flight the older bytes that their reads may still answer. -/
structure HostWrote (s : State) (pa n data : Nat) (t : State) : Prop where
  rest : t = { s with mem := t.mem, homes := t.homes, ops := t.ops }
  ops : t.ops.map (fun o => { o with alt := [] }) = s.ops.map (fun o => { o with alt := [] })
  grant : ∀ a, (t.homeOf a).grant = (s.homeOf a).grant
  wf : t.mem.wf = true
  read : ∀ a, t.mem.read a = if pa ≤ a ∧ a < pa + n then BitVec.ofNat 8 (data / 256 ^ (a - pa)) else s.mem.read a

theorem sameBut_trans {s t u : State} (h : t = { s with mem := t.mem, homes := t.homes, ops := t.ops })
    (k : u = { t with mem := u.mem, homes := u.homes, ops := u.ops }) : u = { s with mem := u.mem, homes := u.homes, ops := u.ops } :=
  k.trans (congrArg (fun v : State => { v with mem := u.mem, homes := u.homes, ops := u.ops }) h)

theorem noteRaces_ops (s : State) (w : Option MemOp) (pid : Nat) (sv : Serve) (pa n : Nat) :
    (noteRaces s w pid sv pa n).ops.map (fun o => { o with alt := [] }) = s.ops.map (fun o => { o with alt := [] }) := by
  unfold noteRaces
  dsimp only
  rw [List.map_map]
  refine List.map_congr_left fun e _ => ?_
  simp only [Function.comp_apply]
  split
  · rfl
  · split
    · split <;> rfl
    · split
      · rfl
      · split <;> rfl

theorem hostWrote_byte {s t : State} {pa n data : Nat} (h : HostWrote s pa n data t) (hl : (s.clu noClu).l1 = [])
    (hb : (pa + n) / 65536 ∉ s.bias) (hp : pinHeld s (pa + n) = false) (hk : lockHeld s (pa + n) = false) (hg : (s.homeOf (pa + n)).grant = 0) :
    HostWrote s pa (n + 1) data (hostByte t true (pa + n) (data / 256 ^ n)) := by
  have hbt : (pa + n) / 65536 ∉ t.bias := by rw [h.rest]; exact hb
  have hpt : pinHeld t (pa + n) = false := by rw [h.rest]; exact hp
  have hkt : lockHeld t (pa + n) = false := by rw [h.rest]; exact hk
  rw [hostByte_write hbt hpt hkt (by rw [h.grant]; exact hg)]
  have hlt : ((noteRaces t none noClu (.home (pa + n) (pa + n)) (pa + n) 1).clu noClu).l1 = [] := by
    show (t.clu noClu).l1 = []
    rw [h.rest]
    exact hl
  have hw := homeWrite_noLines (pa := pa + n) (bs := [BitVec.ofNat 8 (data / 256 ^ n)]) hlt
  have hm : (homeWrite (noteRaces t none noClu (.home (pa + n) (pa + n)) (pa + n) 1) noClu (pa + n) [BitVec.ofNat 8 (data / 256 ^ n)]).1.mem
      = t.mem.writeList (pa + n) [BitVec.ofNat 8 (data / 256 ^ n)] := homeWrite_mem ..
  refine ⟨?_, ?_, fun a => ?_, ?_, fun a => ?_⟩
  · refine sameBut_trans h.rest ?_
    rw [hw]
    rfl
  · rw [hw]
    exact (noteRaces_ops ..).trans h.ops
  · rw [homeWrite_grant]
    exact h.grant a
  · rw [hm]
    exact Mem.wf_writeList _ _ _ h.wf
  · rw [hm]
    by_cases ha : a = pa + n
    · have := Mem.read_writeList_in t.mem (pa + n) [BitVec.ofNat 8 (data / 256 ^ n)] h.wf 0 (by simp)
      rw [ha, if_pos (by omega), Nat.add_sub_cancel_left]
      simpa using this
    · rw [Mem.read_writeList_out _ _ _ (by simp; omega), h.read]
      by_cases hin : pa ≤ a ∧ a < pa + n
      · rw [if_pos hin, if_pos (by omega)]
      · rw [if_neg hin, if_neg (by omega)]

theorem hostWrote_all {s : State} {hpa len data : Nat} (hwf : s.mem.wf = true) (hl : (s.clu noClu).l1 = [])
    (h : ∀ i, i < len → (hpa - s.pkg.hb + i) / 65536 ∉ s.bias ∧ (pinHeld s (hpa - s.pkg.hb + i) = false ∧ lockHeld s (hpa - s.pkg.hb + i) = false)
      ∧ (s.homeOf (hpa - s.pkg.hb + i)).grant = 0) :
    HostWrote s (hpa - s.pkg.hb) len data ((List.range len).foldl (fun s i => hostByte s true (hpa - s.pkg.hb + i) (data / 256 ^ i)) s) := by
  induction len with
  | zero => exact ⟨rfl, rfl, fun _ => rfl, hwf, fun a => by rw [if_neg (by omega)]; rfl⟩
  | succ n ih =>
    rw [List.range_succ, List.foldl_append]
    obtain ⟨hb, ⟨hp, hk⟩, hg⟩ := h n (Nat.lt_succ_self n)
    have hu := ih fun i hi => h i (Nat.lt_succ_of_lt hi)
    have hpkg := congrArg State.pkg hu.rest
    rw [List.foldl_cons, List.foldl_nil, hpkg]
    exact hostWrote_byte hu hl hb hp hk hg

theorem hostRead_all {s : State} {hpa len data : Nat}
    (h : ∀ i, i < len → (hpa - s.pkg.hb + i) / 65536 ∉ s.bias ∧ pinHeld s (hpa - s.pkg.hb + i) = false
      ∧ (s.homeOf (hpa - s.pkg.hb + i)).grant = 0) :
    (List.range len).foldl (fun s i => hostByte s false (hpa - s.pkg.hb + i) (data / 256 ^ i)) s = s := by
  induction len with
  | zero => rfl
  | succ n ih =>
    obtain ⟨hb, hp, hg⟩ := h n (Nat.lt_succ_self n)
    rw [List.range_succ, List.foldl_append, ih fun i hi => h i (Nat.lt_succ_of_lt hi)]
    exact hostByte_read hb hp hg

theorem hostAccess_fault {s : State} {wr : Bool} {hpa len data : Nat} (h : hpa < s.pkg.hb ∨ s.pkg.hb + 2 ^ 40 < hpa + len) :
    exec (.hostCxlMemAccess wr hpa len data) s = .fault (.noSuchAddress hpa) := if_pos h

theorem hostAccess_early {s : State} {wr : Bool} {hpa len data : Nat} (h1 : s.pkg.hb ≤ hpa) (h2 : hpa + len ≤ s.pkg.hb + 2 ^ 40)
    (hs : s.pkg.stage < 2) : exec (.hostCxlMemAccess wr hpa len data) s = .next s :=
  (if_neg (not_or.2 ⟨Nat.not_lt.2 h1, Nat.not_lt.2 h2⟩)).trans (if_pos hs)

theorem hostAccess_eq {s : State} {wr : Bool} {hpa len data : Nat} (h1 : s.pkg.hb ≤ hpa) (h2 : hpa + len ≤ s.pkg.hb + 2 ^ 40)
    (hs : 2 ≤ s.pkg.stage) : exec (.hostCxlMemAccess wr hpa len data) s
      = .next ((List.range len).foldl (fun s i => hostByte s wr (hpa - s.pkg.hb + i) (data / 256 ^ i)) s) :=
  (if_neg (not_or.2 ⟨Nat.not_lt.2 h1, Nat.not_lt.2 h2⟩)).trans (if_neg (Nat.not_lt.2 hs))

theorem hostAccess_one {s : State} {wr : Bool} {hpa data : Nat} (h1 : s.pkg.hb ≤ hpa) (h2 : hpa < s.pkg.hb + 2 ^ 40)
    (hs : 2 ≤ s.pkg.stage) : exec (.hostCxlMemAccess wr hpa 1 data) s = .next (hostByte s wr (hpa - s.pkg.hb) data) := by
  rw [hostAccess_eq h1 h2 hs]
  show Host.Outcome.next (hostByte s wr (hpa - s.pkg.hb + 0) (data / 256 ^ 0)) = _
  rw [Nat.pow_zero, Nat.div_one, Nat.add_zero]

/-! ### A line that the device gives back -/

/-- A cluster whose copy of a line has ended. -/
def withoutCopy (line : Nat) (c : Cluster) : Cluster :=
  { c with l1 := c.l1.map fun l => if l.line = line then { l with sectors := [] } else l }

theorem l1EndLease_clu (s : State) (line p : Nat) : (l1EndLease s line).clu p = withoutCopy line (s.clu p) :=
  Table.mapVals_get (withoutCopy line) s.clusters p Cluster.reset rfl

/-- No copy of a line is left in a list of lines. -/
def NoCopy (line : Nat) (ls : List L1Line) : Prop := ∀ l ∈ ls, l.line = line → l.sectors = []

theorem noCopy_withoutCopy (line : Nat) (c : Cluster) : NoCopy line (withoutCopy line c).l1 := by
  intro l hl he
  obtain ⟨k, -, rfl⟩ := List.mem_map.1 hl
  by_cases hk : k.line = line
  · rw [if_pos hk]
  · rw [if_neg hk] at he
    exact absurd he hk

/-- The recalls that come before a line is given back. -/
def recalled (s : State) (pa : Nat) : State :=
  (List.range 8).foldl (fun s k => recallSector s (pa / 256 * 256 + 32 * k)) s

theorem recalled_frame (s : State) (pa : Nat) : HomeFrame s (recalled s pa) :=
  HomeFrame.foldl (fun s k => recallSector s (pa / 256 * 256 + 32 * k)) (fun u _ => recallSector_frame u _) _ _

/-- A slice that has dropped a line. -/
def sliceWithout (line : Nat) (c : Cluster) : Cluster :=
  { c with l2 := c.l2.filter fun l => !decide (l.line = line), pins := c.pins.filter fun l => !decide (l.line = line) }

theorem snoopLine_eq (s : State) (pa : Nat) : snoopLine s pa =
    ((l1EndLease (recalled s pa) (pa / 256)).modClu (homeSlice (recalled s pa) pa) (sliceWithout (pa / 256))).modHome pa
      fun h => { h with grant := 0 } := rfl

theorem snoopLine_frame (s : State) (pa : Nat) : HomeFrame s (snoopLine s pa) := by
  rw [snoopLine_eq]
  refine (recalled_frame s pa).trans ?_
  generalize recalled s pa = u
  refine (l1EndLease_frame u (pa / 256)).trans ?_
  generalize l1EndLease u (pa / 256) = v
  exact (HomeFrame.ofClu v (homeSlice u pa) (sliceWithout (pa / 256)) fun _ => rfl).trans (HomeFrame.ofHome _ pa _)

/-- What a snooped line leaves of the clusters. -/
theorem snoopLine_clu (s : State) (pa p : Nat) : (snoopLine s pa).clu p =
    if p = homeSlice (recalled s pa) pa then sliceWithout (pa / 256) (withoutCopy (pa / 256) ((recalled s pa).clu p))
    else withoutCopy (pa / 256) ((recalled s pa).clu p) := by
  rw [snoopLine_eq, State.modHome_clu, State.clu_modClu]
  split
  · next h => rw [h, l1EndLease_clu]
  · rw [l1EndLease_clu]

theorem snoopLine_grant (s : State) (pa : Nat) : ((snoopLine s pa).homeOf pa).grant = 0 := by
  rw [snoopLine_eq, State.homeOf_modHome_self]

theorem snoopLine_noCopy (s : State) (pa p : Nat) : NoCopy (pa / 256) ((snoopLine s pa).clu p).l1 := by
  rw [snoopLine_clu]
  generalize (recalled s pa).clu p = c
  split
  · exact noCopy_withoutCopy (pa / 256) c
  · exact noCopy_withoutCopy (pa / 256) c

theorem homeSlice_of_ctxs {s t : State} (h : t.ctxs = s.ctxs) (pa : Nat) : homeSlice t pa = homeSlice s pa := by
  unfold homeSlice pinAt
  rw [h]

theorem snoopLine_ctxs (s : State) (pa : Nat) : (snoopLine s pa).ctxs = (recalled s pa).ctxs := by
  rw [snoopLine_eq]
  generalize recalled s pa = u
  rfl

/-- The slice that the line has dropped from. -/
theorem snoopLine_slice (s : State) (pa : Nat) : ∃ c, (snoopLine s pa).clu (homeSlice (snoopLine s pa) pa) = sliceWithout (pa / 256) c := by
  refine ⟨withoutCopy (pa / 256) ((recalled s pa).clu (homeSlice (recalled s pa) pa)), ?_⟩
  rw [homeSlice_of_ctxs (snoopLine_ctxs s pa), snoopLine_clu, if_pos rfl]

theorem cachesNothing_iff (pa : Nat) : (isDev pa || isHost pa) = false ↔ (2 ^ 40 ≤ pa ∧ pa < 2 ^ 51) ∨ 2 ^ 52 ≤ pa := by
  rw [Bool.or_eq_false_iff, isDev, isHost, Bool.and_eq_false_iff, decide_eq_false_iff_not, decide_eq_false_iff_not, decide_eq_false_iff_not,
    show devTop = 2 ^ 40 from rfl, show hostBase = 2 ^ 51 from rfl]
  omega

theorem snoopsEndLeases : SnoopsEndLeases := by
  intro pa s
  have he : exec (.cxlCacheSnoop pa) s = if devBiased s pa || !(isDev pa || isHost pa) then .next s else .next (snoopLine s pa) := rfl
  rw [he]
  refine ⟨fun h => if_pos ?_, fun hb hr => ?_⟩
  · rcases h with h | h
    · rw [h]; rfl
    · rw [(cachesNothing_iff pa).2 h, Bool.not_false, Bool.or_true]
  · have hd : (isDev pa || isHost pa) = true := by
      rw [← Bool.not_eq_false, cachesNothing_iff]
      omega
    obtain ⟨c, hc⟩ := snoopLine_slice s pa
    have hf := snoopLine_frame s pa
    have hn := snoopLine_noCopy s pa
    have hg := snoopLine_grant s pa
    rw [hb, hd]
    generalize snoopLine s pa = t at hc hf hn hg
    refine ⟨t, rfl, hn, ?_, ?_, hg, hf.threads, hf.groups, hf.bare, hf.flocks⟩
    · rw [hc]
      exact fun l hl => by simpa using (List.mem_filter.1 hl).2
    · rw [hc]
      exact fun l hl => by simpa using (List.mem_filter.1 hl).2

/-- A write at a home brings no line a copy. -/
theorem noCopy_homeWrite {s : State} {line : Nat} (h : ∀ p, NoCopy line (s.clu p).l1) (pid pa : Nat) (bs : List Byte) (p : Nat) :
    NoCopy line ((homeWrite s pid pa bs).1.clu p).l1 := by
  have upd (u : State) (hu : ∀ p, NoCopy line (u.clu p).l1) (m : Nat → Bool) : NoCopy line ((l1Update u pid pa bs m).clu p).l1 := by
    unfold l1Update
    dsimp only
    split
    · exact hu p
    · rw [State.clu_modClu]
      split
      · intro l hl he
        obtain ⟨k, hk, rfl⟩ := List.mem_map.1 hl
        rw [hu pid k hk he]
        rfl
      · exact hu p
  unfold homeWrite homeWriteSome
  dsimp only
  rw [bumpCt_homes]
  refine upd _ (fun q => ?_) _
  rw [backInvalidate_homes]
  exact h q

/-! ### The host's accesses, one byte at a time -/

theorem holdIf_eq (b : Bool) (s : State) : holdIf b s = { s with held := (holdIf b s).held } := by
  unfold holdIf
  split
  · rfl
  · rfl

theorem holdIf_lockHeld (b : Bool) (s : State) (a : Nat) : lockHeld (holdIf b s) a = lockHeld s a := by rw [holdIf_eq]; rfl
theorem holdIf_devBiased (b : Bool) (s : State) (a : Nat) : devBiased (holdIf b s) a = devBiased s a := by rw [holdIf_eq]; rfl
theorem holdIf_homeOf (b : Bool) (s : State) (a : Nat) : (holdIf b s).homeOf a = s.homeOf a := by rw [holdIf_eq]; rfl

/-- A host's write of a line that the device has obtained takes it back first. -/
theorem hostByte_obtained {s : State} {a d : Nat} (hb : a / 65536 ∉ s.bias) (hk : lockHeld s a = false) (hg : 1 ≤ (s.homeOf a).grant) :
    hostByte s true a d = (homeWrite (noteRaces (snoopLine (holdIf (pinHeld s a) s) a) none noClu (.home a a) a 1) noClu a
      [BitVec.ofNat 8 d]).1 := by
  unfold hostByte
  dsimp only
  rw [holdIf_lockHeld, holdIf_devBiased, holdIf_homeOf, hk, devBiased_of_not_mem hb]
  simp only [Bool.and_false, Bool.false_eq_true, if_false, if_true, hg]

theorem hostByte_takesBack {s : State} {a d : Nat} (hb : a / 65536 ∉ s.bias) (hk : lockHeld s a = false) (hg : 1 ≤ (s.homeOf a).grant) :
    ((hostByte s true a d).homeOf a).grant = 0 ∧ ∀ p, NoCopy (a / 256) ((hostByte s true a d).clu p).l1 := by
  rw [hostByte_obtained hb hk hg]
  generalize holdIf (pinHeld s a) s = v
  have hg' := snoopLine_grant v a
  have hn := snoopLine_noCopy v a
  generalize snoopLine v a = w at hg' hn
  exact ⟨(homeWrite_grant ..).trans hg', fun p => noCopy_homeWrite (s := noteRaces w none noClu (.home a a) a 1) hn noClu a _ p⟩

/-- R74: a byte that a migration's lock holds stands with the held writes. -/
theorem hostByte_locked {s : State} {a d : Nat} (hk : lockHeld s a = true) :
    hostByte s true a d = { holdIf (pinHeld s a) s with late := s.late ++ [⟨noClu, a, [BitVec.ofNat 8 d], 0, false⟩] } := by
  unfold hostByte
  rw [holdIf_eq]
  exact if_pos hk

theorem devBiased_of_mem {s : State} {a : Nat} (ha : a < 2 ^ 40) (h : a / 65536 ∈ s.bias) : devBiased s a = true := by
  rw [devBiased, isDev, decide_eq_true (show a < devTop from ha)]
  simpa using h

/-- An access at the home of a device-biased line, which nobody owns a sector of or shares. -/
theorem obtain_biased {s : State} {a n : Nat} (h : devBiased s a = true) : obtain s a 1 n = s := by
  unfold obtain
  rw [linesOf_one]
  show (if devBiased s a || _ then s else _) = s
  rw [h]
  rfl

theorem hostByte_biasedRead {s : State} {a d : Nat} (hb : devBiased s a = true) (ho : (s.homeOf a).owners = []) (hs : (s.homeOf a).sharers = []) :
    hostByte s false a d = (holdIf (pinHeld s a) s).modHome a fun h => { h with hostCopy := true } := by
  have hr : (readAtHome (holdIf (pinHeld s a) s) a 1).1 = holdIf (pinHeld s a) s := by
    rw [holdIf_eq]
    show obtain (atHome _ a 1) a 1 1 = _
    rw [atHome_alone (by exact ho) (by exact hs) (by omega), obtain_biased (by exact hb)]
  unfold hostByte
  dsimp only
  rw [hr, if_neg (by simp), if_pos (by rw [holdIf_devBiased]; exact hb)]
  rfl

theorem hostByte_biasedWrite {s : State} {a d : Nat} (hb : devBiased s a = true) (hk : lockHeld s a = false) (ho : (s.homeOf a).owners = [])
    (hs : (s.homeOf a).sharers = []) : hostByte s true a d
      = ((homeWrite (noteRaces (holdIf (pinHeld s a) s) none noClu (.home a a) a 1) noClu a [BitVec.ofNat 8 d]).1).modHome a
          fun h => { h with hostCopy := true } := by
  have hr : (writeAtHome (noteRaces (holdIf (pinHeld s a) s) none noClu (.home a a) a 1) noClu a [BitVec.ofNat 8 d]).1
      = (homeWrite (noteRaces (holdIf (pinHeld s a) s) none noClu (.home a a) a 1) noClu a [BitVec.ofNat 8 d]).1 := by
    rw [holdIf_eq]
    show (homeWrite (obtain (atHome _ a 1) a 1 2) noClu a _).1 = _
    rw [atHome_alone (by exact ho) (by exact hs) (by omega), obtain_biased (by exact hb)]
  unfold hostByte
  dsimp only
  rw [if_pos rfl, hr, if_neg (by rw [holdIf_lockHeld, hk]; exact Bool.false_ne_true), if_pos (by rw [holdIf_devBiased]; exact hb)]

/-- A host's access of a device-biased line leaves the host a copy, and of memory what it wrote. -/
def BiasedAccess (s : State) (wr : Bool) (pa data : Nat) (t : State) : Prop :=
  (t.homeOf pa).hostCopy = true ∧ t.threads = s.threads ∧ t.clusters = s.clusters
  ∧ ∀ a, t.mem.read a = if wr = true ∧ a = pa then BitVec.ofNat 8 data else s.mem.read a

theorem hostByte_biasedRead_goes {s : State} {pa d : Nat} (hb : devBiased s pa = true) (ho : (s.homeOf pa).owners = [])
    (hs : (s.homeOf pa).sharers = []) : BiasedAccess s false pa d (hostByte s false pa d) := by
  rw [hostByte_biasedRead hb ho hs, holdIf_eq]
  exact ⟨by rw [State.homeOf_modHome_self], rfl, rfl, fun a => (if_neg (by simp)).symm⟩

theorem hostByte_biasedWrite_goes {s : State} {pa d : Nat} (hwf : s.mem.wf = true) (hl : (s.clu noClu).l1 = []) (hb : devBiased s pa = true)
    (hk : lockHeld s pa = false) (ho : (s.homeOf pa).owners = []) (hs : (s.homeOf pa).sharers = []) :
    BiasedAccess s true pa d (hostByte s true pa d) := by
  rw [hostByte_biasedWrite hb hk ho hs, holdIf_eq]
  generalize hu : noteRaces _ none noClu (.home pa pa) pa 1 = u
  have hlu : (u.clu noClu).l1 = [] := by rw [← hu]; exact hl
  have hm : u.mem = s.mem := by rw [← hu]; rfl
  rw [homeWrite_noLines hlu]
  refine ⟨by rw [State.homeOf_modHome_self], by rw [← hu]; rfl, by rw [← hu]; rfl, fun a => ?_⟩
  show (u.mem.writeList pa [BitVec.ofNat 8 d]).read a = _
  rw [hm]
  by_cases ha : a = pa
  · have := Mem.read_writeList_in s.mem pa [BitVec.ofNat 8 d] hwf 0 (by simp)
    rw [if_pos ⟨rfl, ha⟩, ha]
    simpa using this
  · rw [if_neg fun h => ha h.2, Mem.read_writeList_out _ _ _ (by simp; omega)]

theorem hostMemoryAccess : HostMemoryAccess := by
  intro hpa len data wr s hwf
  dsimp only
  intro hl
  refine ⟨hostAccess_fault, hostAccess_early, fun h1 h2 hs h => ⟨?_, ?_⟩, fun h1 h2 hs hb hg hk => ⟨_, hostAccess_one h1 h2 hs, ?_⟩,
    fun h1 h2 hs hb ho hsh hw => ⟨_, hostAccess_one h1 h2 hs, ?_⟩, fun h1 h2 hs hk => ⟨_, hostAccess_one h1 h2 hs, ?_⟩⟩
  · rw [hostAccess_eq h1 h2 hs, hostRead_all fun i hi => ⟨(h i hi).1, (h i hi).2.1.1, (h i hi).2.2⟩]
  · have hh := hostWrote_all (data := data) hwf hl h
    exact ⟨_, hostAccess_eq h1 h2 hs, hh.rest, hh.ops, hh.read⟩
  · exact hostByte_takesBack hb hk hg
  · have hd := devBiased_of_mem (show hpa - s.pkg.hb < 2 ^ 40 by omega) hb
    cases wr with
    | false => exact hostByte_biasedRead_goes hd ho hsh
    | true => exact hostByte_biasedWrite_goes hwf hl hd (hw.resolve_left (by simp)) ho hsh
  · rw [hostByte_locked hk]
    exact ⟨rfl, by rw [holdIf_eq]⟩

end Sys2Proof.HostSide
end

section
/-! PROOFS. Accesses whose CXL completion is an error (R428). -/

namespace Sys2Proof.HostSide
open Sys2Proof Sys2Proof.Machine Sys2Proof.Claims Sys2Proof.Results Sys2Proof.Jumps

variable {s : State} {o : MemOp} {va pa : Nat}

/-- An access that its home serves. -/
theorem serveOf_home (hp : o.place = .glob va pa) (hs : stashVa s o.pid va = none) : serveOf s o = .home va pa := by
  unfold serveOf
  rw [hp]
  dsimp only
  rw [hs]

theorem cxlFail_elsewhere (hf : findOp s o.id = some o) (hp : o.place = .glob va pa) (h : isHost pa = false ∨ (stashVa s o.pid va).isSome = true) :
    cxlFail s o.id = s := by
  unfold cxlFail
  rw [hf]
  dsimp only
  refine if_pos ?_
  unfold serveOf
  rw [hp]
  dsimp only
  cases hs : stashVa s o.pid va with
  | some e => rfl
  | none =>
    rw [hs] at h
    dsimp only
    rw [h.resolve_right (by simp)]
    rfl

theorem cxlFail_posted (hf : findOp s o.id = some o) (hp : o.place = .glob va pa) (hh : isHost pa = true) (hs : stashVa s o.pid va = none)
    (hg : o.gw = none) (hr : (s.flk o.tid.fid).resident = true) {data : Nat} (hd : o.deed = .store data) :
    cxlFail s o.id = postedError s o := by
  unfold cxlFail
  rw [hf]
  dsimp only
  rw [serveOf_home hp hs]
  rw [if_neg (show ¬((!isHost pa || o.gw.isSome || o.made.isSome && o.deed.reads || !MemOp.live s o) = true) by
    rw [hh, hg, hd, MemOp.live, hr]; simp [Deed.reads]), hd]

theorem cxlFail_read (hf : findOp s o.id = some o) (hp : o.place = .glob va pa) (hh : isHost pa = true) (hs : stashVa s o.pid va = none)
    (hg : o.gw = none) (hm : o.made = none) (hr : (s.flk o.tid.fid).resident = true) (hst : o.str = none) (hd : o.deed = .load) {n : Nat}
    (hop : (s.thr o.tid).hostOp = some (o.id, n)) : cxlFail s o.id = genReadError s o := by
  unfold cxlFail
  rw [hf]
  dsimp only
  rw [serveOf_home hp hs]
  rw [if_neg (show ¬((!isHost pa || o.gw.isSome || o.made.isSome && o.deed.reads || !MemOp.live s o) = true) by
    rw [hh, hg, hm, MemOp.live, hr]; simp), hd, hst, hop]
  exact if_pos (by simp)

/-! ### A generator read -/

theorem findOp_dropOp (s : State) (id : Nat) : findOp (dropOp s id) id = none := by
  unfold findOp dropOp
  refine List.find?_eq_none.2 fun e he => ?_
  simpa using (List.mem_filter.1 he).2

/-- A trap that a handler takes is one change of its thread. -/
theorem genReadError_eq (hi : (s.thr o.tid).intrap = false) (hv : (s.thr o.tid).tvec.toNat / 4 ≠ 0) : genReadError s o =
    ((dropOp s o.id).modThr o.tid fun x => { x with
      out := x.out.filter (fun r => !decide (r.pend = .mem o.id)), hostOp := none, acqOp := x.acqOp.filter fun a => !decide (a.1 = o.id) }).modThr o.tid
      fun x => { x with
        tpc := (s.thr o.tid).pc, tcause := Cause.cxlerr.code, tval := BitVec.ofNat 64 o.va, intrap := true, wait := none, popAt := none
        pc := BitVec.ofNat 64 (x.tvec.toNat / 4 * 4) } := by
  unfold genReadError
  dsimp only
  rw [takeTrap_enters _ _ _ _ _ (by rw [State.thr_modThr_self]; exact hi) (by rw [State.thr_modThr_self]; exact hv)]
  rw [State.thr_modThr_self]
  rfl

theorem genReadError_goes (hp : o.place = .glob va pa) (hi : (s.thr o.tid).intrap = false) (hv : (s.thr o.tid).tvec.toNat / 4 ≠ 0) :
    let x := s.thr o.tid
    let t := genReadError s o
    findOp t o.id = none ∧ SameMem s t ∧ (∀ u, u ≠ o.tid → t.thr u = s.thr u)
    ∧ t.thr o.tid = { x with
        tpc := x.pc, tcause := 0x17, tval := BitVec.ofNat 64 va, intrap := true, wait := none, hostOp := none, popAt := none
        pc := BitVec.ofNat 64 (4 * (x.tvec.toNat / 4)), out := (t.thr o.tid).out, acqOp := (t.thr o.tid).acqOp }
    ∧ ∀ r ∈ (t.thr o.tid).out, r.pend ≠ .mem o.id := by
  intro x t
  have ht : t = _ := genReadError_eq hi hv
  rw [ht]
  refine ⟨findOp_dropOp s o.id, fun _ => rfl, fun u hu => ?_, ?_, ?_⟩
  · rw [State.thr_modThr, if_neg hu, State.thr_modThr, if_neg hu]
    rfl
  · rw [State.thr_modThr_self, State.thr_modThr_self, show o.va = va by rw [MemOp.va, hp], Nat.mul_comm 4]
    rfl
  · rw [State.thr_modThr_self, State.thr_modThr_self]
    exact fun r hr => by simpa using (List.mem_filter.1 hr).2

/-! ### A posted store -/

theorem writeNow_frHead (hs : serveOf s o = .home va pa) (bs : List Byte) (k : Nat) :
    ((writeNow s o bs).1.ctx k).frHead = (s.ctx k).frHead := by
  unfold writeNow
  dsimp only
  rw [hs]
  dsimp only
  split
  · rfl
  · have h1 := (l2Touch_frame s pa bs.length o.pri o.na true).ctx k
    generalize l2Touch s pa bs.length o.pri o.na true = u at h1
    generalize hr : noteRaces u (some o) o.pid (.home va pa) o.pa bs.length = v
    have hv : v.ctx k = u.ctx k := by rw [← hr]; rfl
    have hst : HomeFrame v (if o.deed.reads then (writeAtHome v o.pid pa bs).1 else l1Store (writeAtHome v o.pid pa bs).1 o.pid pa o.pri o.na) := by
      split
      · exact writeAtHome_frame ..
      · exact (writeAtHome_frame ..).trans (l1Store_frame ..)
    have h2 := (hst.trans (reelTouch_frame _ o.ctx va pa o.n)).ctx k
    rw [h2, hv, h1]

/-- A store that is performed at its home takes no record. -/
theorem perform_store_frHead (hs : serveOf s o = .home va pa) {data : Nat} (hd : o.deed = .store data) (k : Nat) :
    ((perform s o).ctx k).frHead = (s.ctx k).frHead := by
  have hor (u : State) (g : Gwct) : (noteWrite u o g).ctx k = u.ctx k := by
    unfold noteWrite modHor
    split
    · rfl
    · rfl
  unfold perform
  generalize (if gathers s o = true then blockedByOthers s o else blockedBySame s o) = c
  split
  · rfl
  · rw [hd]
    dsimp only
    have hw := writeNow_frHead hs (leBytes o.n data) k
    split
    · next h => rw [h] at hw; exact hw
    · next h =>
      rw [h] at hw
      exact (congrArg Ctx.frHead (hor _ _)).trans hw
    · next h => rw [h] at hw; exact hw

theorem findOp_of_bare {s t : State} {id : Nat} (h : t.ops.map MemOp.bare = s.ops.map MemOp.bare) (hs : findOp s id = none) : findOp t id = none := by
  unfold findOp at hs ⊢
  refine List.find?_eq_none.2 fun e he => ?_
  obtain ⟨d, hd, hde⟩ := List.mem_map.1 (h ▸ List.mem_map_of_mem (f := MemOp.bare) he)
  have hid : d.id = e.id := show d.bare.id = e.bare.id from congrArg MemOp.id hde
  rw [← hid]
  exact List.find?_eq_none.1 hs d hd

theorem ctxEvent_ctx (s : State) (c b : Nat) : (ctxEvent s c b).ctx c = { s.ctx c with evt := (s.ctx c).evt ||| 2 ^ b } := by
  rw [ctxEvent_eq]
  exact State.ctx_setCtx_self ..

theorem ctxEvent_ops (s : State) (c b : Nat) : (ctxEvent s c b).ops = s.ops := by rw [ctxEvent_eq]; rfl

/-- A fault record of a context moves its head on, and leaves the accesses that there are. -/
theorem faultRecord_goes (s : State) (ctx pid : Nat) (bs : List Byte) :
    (((faultRecord s ctx pid bs).1.ctx ctx).frHead = ((s.ctx ctx).frHead + 1) % 2 ^ 32)
    ∧ (faultRecord s ctx pid bs).1.ops.map MemOp.bare = s.ops.map MemOp.bare := by
  have hf := faultRecord_frame s ctx pid bs
  have hc := hf.ctx ctx
  rw [State.ctx_setCtx_self] at hc
  exact ⟨by rw [hc], hf.bare⟩

theorem postedError_goes (hs : serveOf s o = .home va pa) {data : Nat} (hd : o.deed = .store data) :
    let t := postedError s o
    findOp t o.id = none ∧ (t.ctx o.ctx).evt.testBit 4 = true ∧ (t.ctx o.ctx).evt.testBit 5 = true
    ∧ (t.ctx o.ctx).frHead = ((s.ctx o.ctx).frHead + 1) % 2 ^ 32 := by
  unfold postedError
  dsimp only
  generalize hu : (if o.made.isNone && Config.freeBit s.tick 0 then perform s o else s) = u
  have hk : (u.ctx o.ctx).frHead = (s.ctx o.ctx).frHead := by
    rw [← hu]
    split
    · exact perform_store_frHead hs hd _
    · rfl
  have hor (g : Gwct) : (noteWrite u o g).ctx o.ctx = u.ctx o.ctx := by
    unfold noteWrite modHor
    split
    · rfl
    · rfl
  generalize gwctOf u o.pid o.pa = g
  obtain ⟨hh, hb⟩ := faultRecord_goes (dropOp (noteWrite u o g) o.id) o.ctx o.pid
    (recHead Cause.cxlerr.code 5 0 o.seq ++ leBytes 8 o.va ++ leBytes 4 o.n ++ List.replicate 10 0 ++ leBytes 2 o.pid)
  have hn := findOp_of_bare hb (findOp_dropOp (noteWrite u o g) o.id)
  have hc : (dropOp (noteWrite u o g) o.id).ctx o.ctx = u.ctx o.ctx := hor g
  rw [hc, hk] at hh
  generalize (faultRecord (dropOp (noteWrite u o g) o.id) o.ctx o.pid _).1 = w at hh hn
  refine ⟨?_, ?_, ?_, ?_⟩
  · unfold findOp at hn ⊢
    rw [ctxEvent_ops, ctxEvent_ops]
    exact hn
  · rw [ctxEvent_ctx, ctxEvent_ctx, Nat.testBit_or, Nat.testBit_or, Nat.testBit_two_pow_self, Bool.or_true, Bool.true_or]
  · rw [ctxEvent_ctx, Nat.testBit_or, Nat.testBit_two_pow_self, Bool.or_true]
  · rw [ctxEvent_ctx, ctxEvent_ctx]
    exact hh

theorem cxlErrors : CxlErrors := by
  intro s o va pa hf hp
  dsimp only
  refine ⟨rfl, fun h => congrArg Host.Outcome.next (cxlFail_elsewhere hf hp h), fun hh hs hg hm hr hst hd n hop hi hv => ?_,
    fun hh hs hg hr data hd => ?_⟩
  · exact ⟨_, congrArg Host.Outcome.next (cxlFail_read hf hp hh hs hg hm hr hst hd hop), genReadError_goes hp hi hv⟩
  · exact ⟨_, congrArg Host.Outcome.next (cxlFail_posted hf hp hh hs hg hr hd), postedError_goes (serveOf_home hp hs) hd⟩

/-- Settles O31: the host's accesses byte by byte, a snoop as recalls and one change of the caches, and a CXL error as the end of
its access. -/
theorem hostAccesses : Obligations.HostAccesses := ⟨⟨hostMemoryAccess, snoopsEndLeases⟩, cxlErrors⟩

end Sys2Proof.HostSide
end

section
/-! PROOFS. A migration that finishes while another context's lock still covers its page (R89, R90): O18 is refuted. -/

namespace Sys2Proof.TwoLocks
open Sys2Proof Sys2Proof.Machine Sys2Proof.Claims

/-- A migration of the page at 0x1_0000 to 0x5_0000. -/
def run : XlRun := ⟨3, 1, 0, 0, 0x1_0000, 0x5_0000, 0x1_0000, 0x5008, []⟩

/-- The one held write: a byte of that page, which happens to be a byte of a leaf of the page table. -/
def heldByte : LateWrite := ⟨0, 0x1_0008, [0], 0, false⟩

/-- The leaf at that place, whose D bit is not set yet. -/
def leafWord : List Byte := [9]

/-- Contexts 0 and 1 both migrate the page. A dirty stash sector of the new place belongs to cluster 0, and its page has the leaf
above: the copier recalls the sector, the write-back sets the D bit, and that write is held by the lock of context 1. Both pages are device-biased. -/
def state : State :=
  let s := (placeCode State.reset []).modCtx 0 fun c => { c with xl := some run }
  let s := s.modCtx 1 fun c => { c with xl := some run }
  let s := s.modClu 0 fun c => { c with
    tlb := [⟨0, 0, 0x1_0000, 0x1_0000, true, true, true, false, 0x1_0008⟩]
    stash := [⟨0, 0, 0x1_0400, 64, 0x100, [(1, .dirty 0x5_0420 0 3)]⟩] }
  let s := s.modHome 0x5_0420 fun h => { h with owners := [(1, (0, 0x1_0420))] }
  { s with mem := s.mem.writeList 0x1_0008 leafWord, late := [heldByte], bias := [1, 5] }

theorem state_xl : (state.ctx 0).xl = some run := by decide +kernel

theorem state_wf : state.mem.wf = true := by decide +kernel

/-- The write of the D bit is released after the held byte, and what stands in the new place has that bit. -/
theorem state_finishes : (match exec (.xlcmdFinish 0) state with
    | .next t => decide (t.mem.readList 0x5_0008 1 = [0x40])
    | _ => false) = true := by decide +kernel

/-- Refutes O18, in the clause that a held write lands at the new place: the copier's own recalls can meet another context's lock,
and a walker's bit that is then held is released after the held write and changes the byte that it wrote. -/
theorem not_translationCommands : ¬Obligations.TranslationCommands := by
  intro h
  obtain ⟨-, -, finishes, -⟩ := h.2 0 1 state
  obtain ⟨t, ht, -, lands⟩ := finishes run state_xl rfl rfl
  have hw : t.mem.readList 0x5_0008 1 = [0] := lands heldByte state_wf rfl rfl rfl (by decide) (by decide)
  have he := state_finishes
  rw [ht] at he
  rw [of_decide_eq_true he] at hw
  exact absurd hw (by decide)

end Sys2Proof.TwoLocks
end

section
/-! PROOFS. Owned stash sectors: grants, fills, recalls (R79, R159, R160, R163): O29. -/

namespace Sys2Proof.Stash
open Sys2Proof Sys2Proof.Machine Sys2Proof.Claims Sys2Proof.Results Sys2Proof.HostSide

variable {s : State} {e : StashEnt} {pid va pa : Nat}

/-! ### One sector -/

theorem setSector_stash (s : State) (pid va k : Nat) (st : StashSt) :
    ((setSector s pid va k st).clu pid).stash = SectorSet (s.clu pid).stash va k st := by
  unfold setSector
  rw [State.clu_modClu_self]
  rfl

theorem setSector_homeOf (s : State) (pid va k : Nat) (st : StashSt) (a : Nat) : (setSector s pid va k st).homeOf a = s.homeOf a := rfl

theorem l2Touch_stash (s : State) (pa n pri : Nat) (na wr : Bool) (p : Nat) : ((l2Touch s pa n pri na wr).clu p).stash = (s.clu p).stash := by
  have keep (q : Nat) {f : Cluster → Cluster} (hf : ∀ c, (f c).stash = c.stash) : ((s.modClu q f).clu p).stash = (s.clu p).stash := by
    rw [State.clu_modClu]
    split
    · next h => rw [hf, h]
    · rfl
  unfold l2Touch
  split
  · rfl
  · split
    · split
      · exact keep _ fun _ => rfl
      · rfl
    · refine keep _ fun c => ?_
      dsimp only
      split
      · rfl
      · split
        · rfl
        · rfl

theorem oweSector_stash (s : State) (pid : Nat) (e : StashEnt) (k : Nat) (t : Option Nat) (g : Gwct) (p : Nat) :
    ((oweSector s pid e k t g).clu p).stash = (s.clu p).stash := by
  unfold oweSector oweChunks State.clu
  dsimp only
  rw [Table.mapVals_get _ _ _ _ rfl]
  rfl

/-- The made writes of a sector learn when they are complete. -/
theorem mem_oweSector {o : MemOp} {m t : Nat} (ho : o ∈ s.ops) (hm : o.made = some m) (hg : o.gw = none) {k : Nat}
    (hi : o.inSector pid e k = true) (g : Gwct) : { o with gw := some (Gwct.flat (max m t)) } ∈ (oweSector s pid e k (some t) g).ops := by
  refine List.mem_map.2 ⟨o, ho, ?_⟩
  dsimp only
  rw [hm]
  exact if_pos (by rw [hg, hi]; rfl)

theorem obtain_homes (s : State) (pa n lvl : Nat) : obtain s pa n lvl = { s with homes := (obtain s pa n lvl).homes } := by
  refine foldl_homes _ (fun u a => ?_) _ _
  split
  · rfl
  · rfl

theorem obtain_clu (s : State) (pa n lvl p : Nat) : (obtain s pa n lvl).clu p = s.clu p := by
  rw [obtain_homes]
  rfl

theorem obtain_owners (s : State) (pa n lvl a : Nat) : ((obtain s pa n lvl).homeOf a).owners = (s.homeOf a).owners := by
  refine foldl_keep (fun u => (u.homeOf a).owners) _ (fun u k => ?_) _ _
  split
  · rfl
  · exact modHome_keep HomeLine.owners u _ a _ fun _ => rfl

theorem l2Touch_eq (s : State) (pa n pri : Nat) (na wr : Bool) :
    l2Touch s pa n pri na wr = { s with clusters := (l2Touch s pa n pri na wr).clusters } := by
  unfold l2Touch
  split
  · rfl
  · split
    · split
      · rfl
      · rfl
    · rfl

/-! ### Grants -/

/-- A claim whose home has the line, before its owner is listed. -/
def claimed (s : State) (pid : Nat) (e : StashEnt) (k pa : Nat) : State :=
  l2Touch (obtain (oweSector s pid e k (some (dt s)) default) pa 32 2) pa 32 1 false false

theorem claimed_eq (s : State) (pid : Nat) (e : StashEnt) (k pa : Nat) : claimed s pid e k pa = { s with
    ops := (oweSector s pid e k (some (dt s)) default).ops, homes := (claimed s pid e k pa).homes, clusters := (claimed s pid e k pa).clusters } := by
  unfold claimed
  rw [l2Touch_eq, obtain_homes]
  rfl

theorem claimed_stash (s : State) (pid : Nat) (e : StashEnt) (k pa p : Nat) : ((claimed s pid e k pa).clu p).stash = (s.clu p).stash := by
  unfold claimed
  rw [l2Touch_stash, obtain_clu]
  exact oweSector_stash ..

theorem stashGrant_eq {k t0 : Nat} (hv : stashVa s pid va = some e) (hr : (s.flk e.fid).resident = true) (ha : pa % 32 = 0)
    (hk : (va - e.va) / 32 = k) (hst : e.st k = .pending pa none t0) (hl : leasesOver s pa = true) (hh : writeHeld s pa = false)
    (ho : (s.homeOf pa).owners = []) (hs : (s.homeOf pa).sharers = []) :
    exec (.stashOwnershipGrant pid va) s = .next (setSector
      ((claimed s pid e k pa).modHome pa fun h => { h with owners := h.owners.set (pa / 32 % 8) (pid, e.va + 32 * k) }) pid e.va k
      (.pending pa (some (dt s)) t0)) := by
  show execStashOwnershipGrant pid va s = _
  unfold execStashOwnershipGrant
  rw [hv]
  dsimp only
  rw [hk, hst]
  dsimp only
  rw [if_neg (by rw [hl, hh, hr]; exact Bool.false_ne_true), atHome_alone ho hs (by omega)]
  have hd : dt (claimed s pid e k pa) = dt s := by rw [claimed_eq]; rfl
  exact congrArg (fun d => Host.Outcome.next (setSector ((claimed s pid e k pa).modHome pa fun h =>
    { h with owners := h.owners.set (pa / 32 % 8) (pid, e.va + 32 * k) }) pid e.va k (.pending pa (some d) t0))) hd

theorem stashGrant_goes {k t0 : Nat} (hv : stashVa s pid va = some e) (hr : (s.flk e.fid).resident = true) (ha : pa % 32 = 0)
    (hk : (va - e.va) / 32 = k) (hst : e.st k = .pending pa none t0) (hl : leasesOver s pa = true) (hh : writeHeld s pa = false)
    (ho : (s.homeOf pa).owners = []) (hs : (s.homeOf pa).sharers = []) :
    Goes (exec (.stashOwnershipGrant pid va) s) fun t => SameMem s t
      ∧ (t.homeOf pa).owners.find (pa / 32 % 8) = some (pid, e.va + 32 * k)
      ∧ (t.clu pid).stash = SectorSet (s.clu pid).stash e.va k (.pending pa (some (s.now / 1000)) t0)
      ∧ ∀ o ∈ s.ops, ∀ m, o.made = some m → o.gw = none → o.inSector pid e k = true →
          { o with gw := some (Gwct.flat (max m (s.now / 1000))) } ∈ t.ops := by
  refine ⟨_, stashGrant_eq hv hr ha hk hst hl hh ho hs, fun a => ?_, ?_, ?_, fun o hm m hmd hg hi => ?_⟩
  · show (claimed s pid e k pa).mem.read a = _
    rw [claimed_eq]
  · rw [setSector_homeOf, State.homeOf_modHome_self]
    exact Table.find_set_self ..
  · rw [setSector_stash]
    exact congrArg (SectorSet · e.va k _) (claimed_stash ..)
  · show _ ∈ (claimed s pid e k pa).ops
    rw [claimed_eq]
    exact mem_oweSector hm hmd hg hi default

/-! ### Fills -/

/-- A granted sector that a fill finds. -/
def filling (x : StashSt) : Bool := match x with
  | .pending _ ot _ => ot.isSome
  | _ => false

theorem sectorFill_eq {ot t0 j : Nat} (hst : stashAt (s.clu pid) pa filling = some (e, j, .pending pa (some ot) t0)) (hl : l1Sec s pid pa = none) :
    exec (.sectorFillLand pid pa) s = .next (stashFill s pid e j pa ot t0) := by
  show execSectorFillLand pid pa s = _
  unfold execSectorFillLand
  dsimp only
  rw [hl, if_neg (by simp)]
  show (match stashAt (s.clu pid) pa filling with
    | some (e, k, .pending p (some ot) t) => Host.Outcome.next (stashFill s pid e k p ot t)
    | _ => Host.Outcome.next (s.modClu pid fun c => l2Land c pa)) = _
  rw [hst]

/-- The bytes of a fill: those that a write has touched stay. -/
def fillBytes (s : State) (e : StashEnt) (j pa t0 : Nat) : List Byte :=
  (List.range 32).map fun i => if t0.testBit i then (s.localRead e.fid e.clu (e.off + 32 * j) 32).getD i 0 else s.mem.read (pa + i)

theorem fillBytes_getD {j t0 i : Nat} (hi : i < 32) : (fillBytes s e j pa t0).getD i 0
    = if t0.testBit i then (s.localMem e.fid e.clu).read (e.off + 32 * j + i) else s.mem.read (pa + i) := by
  unfold fillBytes
  rw [List.getD_eq_getElem _ _ (by simpa using hi)]
  simp only [List.getElem_map, List.getElem_range, State.localRead]
  rw [readList_getD _ _ _ _ hi]

/-- The bytes of a write-back are the same: those that no write has touched go back as memory has them. -/
theorem fillBytes_read {r : State} {j t0 i : Nat} (hi : i < 32) : (fillBytes r e j pa t0).getD i 0
    = if t0.testBit i = true then (r.localRead e.fid e.clu (e.off + 32 * j) 32).getD i 0 else r.mem.read (pa + i) := by
  unfold fillBytes
  rw [List.getD_eq_getElem _ _ (by simpa using hi)]
  simp only [List.getElem_map, List.getElem_range]

theorem stashFill_goes {ot t0 j : Nat} (hwf : (s.localMem e.fid e.clu).wf = true)
    (hst : stashAt (s.clu pid) pa filling = some (e, j, .pending pa (some ot) t0)) (hl : l1Sec s pid pa = none) :
    Goes (exec (.sectorFillLand pid pa) s) fun t => SameMem s t
      ∧ (∀ i, i < 32 → (t.localMem e.fid e.clu).read (e.off + 32 * j + i)
          = if t0.testBit i then (s.localMem e.fid e.clu).read (e.off + 32 * j + i) else s.mem.read (pa + i))
      ∧ (t.clu pid).stash = SectorSet (s.clu pid).stash e.va j (if t0 = 0 then .clean pa ot else .dirty pa ot t0) := by
  refine ⟨_, sectorFill_eq hst hl, fun _ => rfl, fun i hi => ?_, ?_⟩
  · show ((s.localWrite e.fid e.clu (e.off + 32 * j) (fillBytes s e j pa t0)).localMem e.fid e.clu).read _ = _
    rw [localWrite_localMem, Mem.read_writeList_in _ _ _ hwf i (by simpa [fillBytes] using hi)]
    exact fillBytes_getD hi
  · exact setSector_stash ..

/-! ### Recalls -/

theorem stashRecall_waits (ha : pa % 32 = 0) (hw : waitsAtHome s pa 32 (fun _ => true) = true) :
    exec (.stashRecall pa) s = .next (recallSector s pa) := by
  have h : pa / 32 * 32 = pa := by omega
  exact if_pos (by rw [h]; exact hw)

theorem stashRecall_idle (ha : pa % 32 = 0) (hw : waitsAtHome s pa 32 (fun _ => true) = false) : exec (.stashRecall pa) s = .next s := by
  have h : pa / 32 * 32 = pa := by omega
  exact if_neg (by rw [h, hw]; exact Bool.false_ne_true)

theorem recallSector_owned (hv : stashVa s pid va = some e) (ho : (s.homeOf pa).owners.find (pa / 32 % 8) = some (pid, va)) :
    recallSector s pa = (evictBy atHome s pid .normal e ((va - e.va) / 32)).1 := by
  unfold recallSector recallBy
  rw [ho]
  dsimp only
  unfold stashVa at hv
  rw [hv]

theorem dropOwner_owners (s : State) (pa : Nat) : ((dropOwner s pa).homeOf pa).owners = (s.homeOf pa).owners.erase (pa / 32 % 8) := by
  rw [dropOwner, State.homeOf_modHome_self]

theorem recallClean_goes {k ot : Nat} (ha : pa % 32 = 0) (hv : stashVa s pid va = some e) (hk : (va - e.va) / 32 = k)
    (hst : e.st k = .clean pa ot) (ho : (s.homeOf pa).owners.find (pa / 32 % 8) = some (pid, va))
    (hw : waitsAtHome s pa 32 (fun _ => true) = true) : Goes (exec (.stashRecall pa) s) fun t => SameMem s t
      ∧ (t.homeOf pa).owners = (s.homeOf pa).owners.erase (pa / 32 % 8)
      ∧ (t.clu pid).stash = SectorSet (s.clu pid).stash e.va k .unfilled := by
  have he : recallSector s pa = dropOwner (setSector s pid e.va k .unfilled) pa := by
    rw [recallSector_owned hv ho, hk]
    unfold evictBy
    rw [hst]
  refine ⟨_, stashRecall_waits ha hw, ?_⟩
  rw [he]
  exact ⟨fun _ => rfl, dropOwner_owners .., setSector_stash ..⟩

theorem homeWriteSome_mem (s : State) (pid pa : Nat) (bs : List Byte) (m : Nat → Bool) :
    (homeWriteSome s pid pa bs m).1.mem = s.mem.writeList pa bs := by
  simp only [homeWriteSome, bumpCt_mem, l1Update_mem, backInvalidate_mem]

theorem homeWriteSome_owners (s : State) (pid pa : Nat) (bs : List Byte) (m : Nat → Bool) (a : Nat) :
    ((homeWriteSome s pid pa bs m).1.homeOf a).owners = (s.homeOf a).owners := by
  have bump (u : State) (n ct : Nat) : ((bumpCt u pa n ct).homeOf a).owners = (u.homeOf a).owners := by
    refine foldl_keep (fun u => (u.homeOf a).owners) _ ?_ _ _
    exact fun u k => modHome_keep HomeLine.owners u _ a _ fun _ => rfl
  have back (u : State) (n : Nat) : ((backInvalidate u pa n).homeOf a).owners = (u.homeOf a).owners := by
    refine foldl_keep (fun u => (u.homeOf a).owners) _ (fun u k => ?_) _ _
    split
    · exact modHome_keep HomeLine.owners u _ a _ fun _ => rfl
    · rfl
  unfold homeWriteSome
  dsimp only
  rw [bump, l1Update_homeOf]
  exact back ..

theorem homeWriteSome_stash (s : State) (pid pa : Nat) (bs : List Byte) (m : Nat → Bool) (p : Nat) :
    ((homeWriteSome s pid pa bs m).1.clu p).stash = (s.clu p).stash := by
  have upd (u : State) : ((l1Update u pid pa bs m).clu p).stash = (u.clu p).stash := by
    unfold l1Update
    dsimp only
    split
    · rfl
    · rw [State.clu_modClu]
      split
      · next h => rw [h]
      · rfl
  unfold homeWriteSome
  dsimp only
  rw [bumpCt_homes]
  refine (upd _).trans ?_
  rw [backInvalidate_homes]
  rfl

theorem homeWriteSome_lost (s : State) (pid pa : Nat) (bs : List Byte) (m : Nat → Bool) : (homeWriteSome s pid pa bs m).1.lost = s.lost := by
  have upd (u : State) : (l1Update u pid pa bs m).lost = u.lost := by
    unfold l1Update
    dsimp only
    split
    · rfl
    · rfl
  unfold homeWriteSome
  dsimp only
  rw [bumpCt_homes]
  refine (upd _).trans ?_
  rw [backInvalidate_homes]

/-- The home of a line that a write-back has obtained from the host. -/
def backHome (r : State) (h : BackHint) (pa : Nat) : State := obtain (l2Touch (holdIf (writeHeld r pa) r) pa 32 h.pri h.na true) pa 32 2

theorem backHome_eq (r : State) (h : BackHint) (pa : Nat) :
    backHome r h pa = { r with held := (backHome r h pa).held, homes := (backHome r h pa).homes, clusters := (backHome r h pa).clusters } := by
  unfold backHome
  rw [obtain_homes, l2Touch_eq, holdIf_eq]

theorem backHome_stash (r : State) (h : BackHint) (pa p : Nat) : ((backHome r h pa).clu p).stash = (r.clu p).stash := by
  unfold backHome
  rw [obtain_clu, l2Touch_stash, holdIf_eq]
  rfl

theorem backHome_owners (r : State) (h : BackHint) (pa a : Nat) : ((backHome r h pa).homeOf a).owners = (r.homeOf a).owners := by
  unfold backHome
  rw [obtain_owners, l2Touch_eq]
  exact congrArg HomeLine.owners (holdIf_homeOf ..)

theorem backBytes_eq (r : State) (pid : Nat) (h : BackHint) (e : StashEnt) (k pa t0 : Nat) :
    backBytes r pid h e k pa t0 = homeWriteSome (backHome r h pa) pid pa (fillBytes r e k pa t0) fun i => t0.testBit i := rfl

/-- The write-back of a sector whose page may be written. -/
theorem backBytes_goes {r : State} {k t0 : Nat} (h : BackHint) (hwf : r.mem.wf = true) :
    let u := (backBytes r pid h e k pa t0).1
    (u.homeOf pa).owners = (r.homeOf pa).owners ∧ (u.clu pid).stash = (r.clu pid).stash ∧ u.lost = r.lost
    ∧ ∀ a, u.mem.read a = if pa ≤ a ∧ a < pa + 32 ∧ t0.testBit (a - pa) = true
        then (r.localRead e.fid e.clu (e.off + 32 * k) 32).getD (a - pa) 0 else r.mem.read a := by
  intro u
  have hu : u = _ := congrArg Prod.fst (backBytes_eq r pid h e k pa t0)
  have hm : (backHome r h pa).mem = r.mem := by rw [backHome_eq]
  rw [hu]
  refine ⟨(homeWriteSome_owners ..).trans (backHome_owners ..), (homeWriteSome_stash ..).trans (backHome_stash ..),
    (homeWriteSome_lost ..).trans (by rw [backHome_eq]), fun a => ?_⟩
  rw [homeWriteSome_mem, hm]
  by_cases ha : pa ≤ a ∧ a < pa + 32
  · obtain ⟨i, rfl⟩ := Nat.exists_eq_add_of_le ha.1
    rw [Mem.read_writeList_in _ _ _ hwf i (by simp [fillBytes]; omega), fillBytes_read (by omega), Nat.add_sub_cancel_left]
    by_cases ht : t0.testBit i = true
    · rw [if_pos ht, if_pos ⟨ha.1, ha.2, ht⟩]
    · rw [if_neg ht, if_neg fun h => ht h.2.2]
  · rw [Mem.read_writeList_out _ _ _ (by simp [fillBytes]; omega), if_neg fun h => ha ⟨h.1, h.2.1⟩]

/-- What a write-back leaves, whose check has answered: the bytes at their home, or the note of their loss. -/
theorem writeBack_goes {k t0 : Nat} (hwf : s.mem.wf = true) :
    let r := backCheck s pid (s.flk e.fid).ctx (e.va + 32 * k)
    let u := (writeBackBy atHome s pid .normal e k pa t0).1
    (u.homeOf pa).owners = (r.1.homeOf pa).owners ∧ (u.clu pid).stash = (r.1.clu pid).stash
    ∧ (∀ c, r.2 = some c → SameMem r.1 u ∧ ∃ w, u.lost = r.1.lost ++ [w] ∧ w.cause = c ∧ w.pid = pid ∧ w.ctx = (s.flk e.fid).ctx)
    ∧ (r.2 = none → u.lost = r.1.lost ∧ ∀ a, u.mem.read a
        = if pa ≤ a ∧ a < pa + 32 ∧ t0.testBit (a - pa) = true
          then (r.1.localRead e.fid e.clu (e.off + 32 * k) 32).getD (a - pa) 0 else r.1.mem.read a) := by
  intro r u
  have hm : r.1.mem.wf = true := (backCheckBy_frame atHome_frame s pid _ _).mem hwf
  have hr : backCheckBy atHome s pid (s.flk e.fid).ctx (e.va + 32 * k) = r := rfl
  have hu : u = (writeBackBy atHome s pid .normal e k pa t0).1 := rfl
  unfold writeBackBy at hu
  dsimp only at hu
  rw [if_neg (by simp [BackHint.normal]), hr] at hu
  obtain ⟨v, c⟩ := r
  cases c with
  | none =>
    obtain ⟨h1, h2, h3, h4⟩ := backBytes_goes (pid := pid) (pa := pa) (e := e) (k := k) (t0 := t0) .normal hm
    rw [hu]
    refine ⟨h1, h2, fun c hc => ?_, fun _ => ⟨h3, h4⟩⟩
    cases hc
  | some c =>
    rw [hu]
    refine ⟨rfl, rfl, fun c hc => ?_, fun hc => ?_⟩
    · cases hc
      exact ⟨fun _ => rfl, _, rfl, rfl, rfl, rfl⟩
    · cases hc

theorem recallDirty_eq {k ot t0 : Nat} (hv : stashVa s pid va = some e) (hk : (va - e.va) / 32 = k) (hst : e.st k = .dirty pa ot t0)
    (ho : (s.homeOf pa).owners.find (pa / 32 % 8) = some (pid, va)) :
    recallSector s pa = dropOwner (setSector (writeBackBy atHome s pid .normal e k pa t0).1 pid e.va k .unfilled) pa := by
  rw [recallSector_owned hv ho, hk]
  unfold evictBy
  rw [hst]

theorem recallDirty_goes {k ot t0 : Nat} (ha : pa % 32 = 0) (hwf : s.mem.wf = true) (hv : stashVa s pid va = some e) (hk : (va - e.va) / 32 = k)
    (hst : e.st k = .dirty pa ot t0) (ho : (s.homeOf pa).owners.find (pa / 32 % 8) = some (pid, va))
    (hw : waitsAtHome s pa 32 (fun _ => true) = true) :
    let r := backCheck s pid (s.flk e.fid).ctx (e.va + 32 * k)
    Goes (exec (.stashRecall pa) s) fun t =>
      (t.homeOf pa).owners = (r.1.homeOf pa).owners.erase (pa / 32 % 8)
      ∧ (t.clu pid).stash = SectorSet (r.1.clu pid).stash e.va k .unfilled
      ∧ (∀ c, r.2 = some c → SameMem r.1 t ∧ ∃ w, t.lost = r.1.lost ++ [w] ∧ w.cause = c ∧ w.pid = pid ∧ w.ctx = (s.flk e.fid).ctx)
      ∧ (r.2 = none → t.lost = r.1.lost ∧ ∀ a, t.mem.read a
          = if pa ≤ a ∧ a < pa + 32 ∧ t0.testBit (a - pa) = true
            then (r.1.localRead e.fid e.clu (e.off + 32 * k) 32).getD (a - pa) 0 else r.1.mem.read a) := by
  intro r
  obtain ⟨h1, h2, h3, h4⟩ := writeBack_goes (pid := pid) (pa := pa) (e := e) (k := k) (t0 := t0) hwf
  refine ⟨_, stashRecall_waits ha hw, ?_⟩
  rw [recallDirty_eq hv hk hst ho]
  generalize (writeBackBy atHome s pid .normal e k pa t0).1 = u at h1 h2 h3 h4
  refine ⟨?_, ?_, h3, h4⟩
  · rw [dropOwner_owners, setSector_homeOf, h1]
  · show ((setSector u pid e.va k .unfilled).clu pid).stash = _
    rw [setSector_stash, h2]

/-- Settles O29: a grant, a fill and a recall are each one change of the sector's state, with what comes before it at its home. -/
theorem stashOwnership : Obligations.StashOwnership := by
  intro pid va pa s e hv hr ha hwf hlw
  dsimp only
  exact ⟨fun t0 hst hl hh ho hs => stashGrant_goes hv hr ha rfl hst hl hh ho hs, fun ot t0 j hst hl => stashFill_goes hlw hst hl,
    fun ot hst ho hw => recallClean_goes ha hv rfl hst ho hw, fun ot t0 hst ho hw => recallDirty_goes ha hwf hv rfl hst ho hw,
    stashRecall_idle ha⟩

end Sys2Proof.Stash
end

section
/-! PROOFS. A lane memory word on a group whose masks are wider than 32 lanes (R148, R358): O49 is refuted. -/

namespace Sys2Proof.WideMasks
open Sys2Proof Sys2Proof.Machine Sys2Proof.Claims Sys2Proof.Runs Sys2Proof.Completion

/-! ### The issue of a word leaves the results that the groups wait for -/

/-- Every group waits for the same results. -/
structure SameOut (s t : State) : Prop where
  out : ∀ f m k, (t.grp f m k).out = (s.grp f m k).out

theorem SameOut.refl (s : State) : SameOut s s := ⟨fun _ _ _ => rfl⟩

theorem SameOut.trans {s t u : State} (h : SameOut s t) (k : SameOut t u) : SameOut s u := ⟨fun f m j => (k.out f m j).trans (h.out f m j)⟩

theorem SameOut.ofGroups {s t : State} (h : t.groups = s.groups) : SameOut s t := ⟨fun f m k => by rw [State.grp, h]; rfl⟩

theorem SameOut.foldl {α : Type} (f : State → α → State) (hf : ∀ s a, SameOut s (f s a)) (l : List α) (s : State) : SameOut s (l.foldl f s) :=
  ⟨fun i m k => foldl_keep (fun u => (u.grp i m k).out) f (fun u a => (hf u a).out i m k) l s⟩

theorem modGrp_out (s : State) (i c j : Nat) {g : Group → Group} (hg : ∀ x, (g x).out = x.out) : SameOut s (s.modGrp i c j g) := by
  refine ⟨fun f m k => ?_⟩
  rw [State.grp_modGrp]
  split
  · next h => cases h; exact hg _
  · rfl

theorem modStr_out (s : State) (t : Tid) (n : Nat) (f : Stream → Stream) : SameOut s (modStr s t n f) := SameOut.ofGroups rfl

theorem modThr_out (s : State) (t : Tid) (f : Thread → Thread) : SameOut s (s.modThr t f) := SameOut.ofGroups rfl

theorem ctxEvent_grp (s : State) (c b f m k : Nat) : (ctxEvent s c b).grp f m k = s.grp f m k := by
  unfold ctxEvent signal
  dsimp only
  split
  · rfl
  · rfl

theorem haltThread_grp (s : State) (t : Tid) (cause : Cause) (v pc : Word64) (f m k : Nat) :
    (haltThread s t cause v pc).grp f m k = s.grp f m k := by
  have h (c p : Nat) (bs : List Byte) : (faultRecord s c p bs).1.grp f m k = s.grp f m k := (faultRecord_frame s c p bs).grp f m k
  unfold haltThread
  simp only [ctxEvent_grp, State.modFlk_grp, State.modThr_grp, h]

theorem raiseTrap_out (s : State) (t : Tid) (cause : Cause) (v : Word64) (after : Nat) : SameOut s (raiseTrap s t cause v after) := by
  unfold raiseTrap
  dsimp only
  split
  · split
    · exact modThr_out ..
    · exact modThr_out ..
  · exact ⟨fun f m k => congrArg Group.out (haltThread_grp ..)⟩
  · exact SameOut.refl s

theorem applyMasks_out (s : State) (t : Tid) (n : Nat) (p : Nat × Nat) : SameOut s (applyMasks s t n p) := by
  unfold applyMasks
  dsimp only
  split
  · exact SameOut.refl s
  · refine (SameOut.foldl _ (fun u m => SameOut.trans (t := settleMaskRdUntil u t m.2.2.2) ?_ ?_) _ s).trans (SameOut.ofGroups rfl)
    · exact SameOut.ofGroups (by rw [Lanes.settleMaskRdUntil_rest])
    · unfold setEx
      split
      · exact SameOut.refl _
      · exact modGrp_out _ _ _ _ fun _ => rfl

theorem laneFaultDue_out (s : State) (t : Tid) (n idx : Nat) : SameOut s (laneFaultDue s t n idx) := by
  unfold laneFaultDue
  dsimp only
  split
  · exact SameOut.refl s
  · split
    · exact (modStr_out s t n _).trans (raiseTrap_out ..)
    · exact SameOut.refl s

theorem endReplay_out (s : State) (p : PipeRun) : SameOut s (endReplay s p) := by
  unfold endReplay
  dsimp only
  have h : SameOut s (modLaneGrp s fun g => { g with prec := g.prec.map fun r => { r with replaying := false, queued := r.queued - 1 } }) :=
    modGrp_out _ _ _ _ fun _ => rfl
  split
  · exact h
  · exact h.trans (raiseTrap_out ..)

theorem pipeFreed_out (s : State) (p : PipeRun) : SameOut s (pipeFreed s p) := by
  unfold pipeFreed
  have h : SameOut s (s.modClu s.lane.pid fun c => { c with pipes := c.pipes.erase s.lane.pipe }) := SameOut.ofGroups rfl
  exact h.trans (modGrp_out _ _ _ _ fun _ => rfl)

theorem endRun_out (s : State) (p : PipeRun) : SameOut s (endRun s p) := by
  cases h : p.replay
  · rw [endRun_first h]
    have hc : SameOut s (runCounted (pipeFreed s p) p) := (pipeFreed_out s p).trans (modStr_out ..)
    exact ((hc.trans (applyMasks_out ..)).trans (laneFaultDue_out ..)).trans (modStr_out ..)
  · rw [endRun_replay h]
    exact (pipeFreed_out s p).trans (endReplay_out ..)

theorem tryEnd_out (s : State) : SameOut s (tryEnd s) := by
  unfold tryEnd
  split
  · split
    · exact endRun_out ..
    · exact SameOut.refl s
  · exact SameOut.refl s

theorem issuedRecord_out (s : State) (x : LaneWord) (act : Nat) (acted : Bool) : SameOut s (Lanes.issuedRecord s x act acted) := by
  refine ⟨fun f m k => ?_⟩
  rw [Lanes.issuedRecord, Lanes.recordPark_grp]
  rfl

theorem issued_out (s : State) (x : LaneWord) (act : Nat) (acted : Bool) : SameOut s (issued s x act acted) := by
  have hx : issued s x act acted = settleMaskRd (tryEnd (progress (Lanes.issuedRecord s x act acted)
      ((Lanes.issuedRecord s x act acted).ctxOf (Lanes.issuedRecord s x act acted).lane.tid))) (Lanes.issuedRecord s x act acted).lane.tid := rfl
  have hp (u : State) (c : Nat) : SameOut u (progress u c) := SameOut.ofGroups rfl
  have hm (u : State) (t : Tid) : SameOut u (settleMaskRd u t) := SameOut.ofGroups (by rw [settleMaskRd, Lanes.settleMaskRdUntil_rest])
  rw [hx]
  exact (((issuedRecord_out s x act acted).trans (hp _ _)).trans (tryEnd_out _)).trans (hm _ _)

/-! ### The counterexample -/

/-- A load of 32 bits by the lanes of predicate 0. -/
def load : LaneWord := ⟨8, 0xC4, 3, 0, false, 0, 0, false, 0x210⟩

/-- The load as it has been emitted, with its address. -/
def loadWord : EWord := { EWord.nop with w := encLane 0x280 load, ua := 0x1_0100 }

/-- Lane 0 loads a word. The masks that a group keeps beside EXMASK are wider than its 32 lanes: bit 40 stands in EXMASK's value at
the start of the cycle, in PARKMASK and in the predicate, so it stands in the active set. -/
def state : State :=
  let s := (placeLane (placeCode State.reset []) loadWord.w).setGrp 0 0 0 { Group.placed with
    p := [(0, 2 ^ 40 + 1)], exWas := some (0, 2 ^ 40 + 1), park := 2 ^ 40 }
  match (s.clu 0).pipes.find 0 with
  | some r => focusWord s 0 0 r loadWord 0
  | none => s

/-- The lane word in focus and the lanes of the results that the group waits for, after an outcome. -/
def waitsAfter (o : Out) : Option (LaneCtx × List Nat) := match o with
  | .next t => some (t.lane, (t.grp 0 0 0).out.map OutLane.lanes)
  | _ => none

/-- The load's destination waits for lane 0 alone. -/
theorem state_waits : (waitsAfter (exec (.ld load) state)).map (fun w => (w.1.tid, w.1.pid, w.1.slot, w.2))
    = some (⟨0, 0, 0⟩, 0, 0, [1]) := by decide +kernel

/-- The state in which the load is paid for. -/
def paid : State := (payLane (settleAcqs state) 2 (activeMask state load)).1

/-- Lane 0's access. -/
def access : State × Except Cause (List (Nat × Nat × Place)) := lanePieces paid load .load 0 4 4

/-- Refutes O49, in the clause of LD that the destination waits for the active set less the lanes that park: a bit above lane 31 in
the active set (only EXMASK is taken to be of 32 bits, not what the group keeps beside it) is no lane, and is not waited for. -/
theorem not_laneMemoryAndStash : ¬Obligations.LaneMemoryAndStash := by
  intro h
  obtain ⟨⟨accesses, -, -⟩, -⟩ := h
  obtain ⟨-, -, made⟩ := (accesses load state (by decide) (by decide)).1 (by decide +kernel) (by decide +kernel)
  obtain ⟨v, hv, -, -, hfl, -, named, hg⟩ := made (by decide +kernel) (by decide +kernel) (fun k => if k = 0 then paid else access.1)
    (fun _ => access.2) rfl (fun k hk => by
      have hk1 : k < 1 := lt_of_lt_of_eq hk (by decide +kernel)
      obtain rfl : k = 0 := by omega
      -- the word has no offset
      refine congrArg (fun o => lanePieces paid load .load o 4 4) (a₂ := 0) ?_
      decide +kernel)
  have hout : (laneGrp v).out.map OutLane.lanes = [2 ^ 40 + 1] := by
    rw [hg]
    clear hg
    revert named
    decide +kernel
  have hpark : ∀ pos done bad, bad = [] → parkLanes v state.lane.word pos done bad = v := by
    rintro pos done bad rfl
    rfl
  rw [hpark] at hv
  · have hw := state_waits
    rw [hv] at hw
    have hw' := Option.some.inj hw
    rw [issued_lane, (issued_out ..).out, Prod.mk.injEq, Prod.mk.injEq, Prod.mk.injEq] at hw'
    obtain ⟨htid, hpid, hslot, hlanes⟩ := hw'
    have hmem : laneMember v = 0 := by
      rw [laneMember, htid, hpid, State.flk, hfl]
      decide +kernel
    rw [laneGrp, htid, hslot, hmem] at hout
    exact absurd (hlanes.symm.trans hout) (by decide)
  · decide +kernel

end Sys2Proof.WideMasks
end
